-- ==== Sys2Proof/Word.lean ====
section
/-!
DEFINITION. The words of the machine, the finite maps that hold its storage, and the plain types that instructions
and steps of the hardware carry as operands (registers, scopes, orders, commands, packets, booking messages).
-/

namespace Sys2Proof

/-- A scalar register's contents, a control register's contents (R127). -/
abbrev W64 := BitVec 64
/-- An instruction word or patch word (R90). -/
abbrev W32 := BitVec 32
/-- A template field or patch value (R110, R113). -/
abbrev W16 := BitVec 16
/-- A virtual address and an address register's contents (R127, R225). -/
abbrev VAddr := BitVec 72
/-- The smallest addressable unit. -/
abbrev Byte := BitVec 8

/-! ### Finite maps

One shape for all sparse storage: a list of key and value pairs. `get` reads the first pair of a key and answers the
default where there is none; `put` keeps keys strictly rising and lists no entry equal to the default, so equal maps are
equal data. -/

/-- Sparse storage by number. -/
abbrev FMap (α : Type) := List (Nat × α)

namespace FMap

/-- The value at `k`, or `d` where nothing is listed. -/
def get {α : Type} (d : α) : FMap α → Nat → α
  | [], _ => d
  | (i, v) :: m, k => if i = k then v else get d m k

/-- The listed value at `k`, if any. -/
def find {α : Type} : FMap α → Nat → Option α
  | [], _ => none
  | (i, v) :: m, k => if i = k then some v else find m k

/-- Take every entry of `k` out. -/
def erase {α : Type} : FMap α → Nat → FMap α
  | [], _ => []
  | (i, v) :: m, k => if i = k then erase m k else (i, v) :: erase m k

/-- Put `v` at `k`, in rising key order, whatever `v` is. -/
def ins {α : Type} : FMap α → Nat → α → FMap α
  | [], k, v => [(k, v)]
  | (i, w) :: m, k, v =>
    if i < k then (i, w) :: ins m k v
    else if i = k then (k, v) :: m
    else (k, v) :: (i, w) :: m

/-- Put `v` at `k`; a value equal to the default is not listed. -/
def put {α : Type} [DecidableEq α] (d : α) (m : FMap α) (k : Nat) (v : α) : FMap α :=
  if v = d then erase m k else ins m k v

/-- The keys rise strictly and no entry equals the default. -/
def wf {α : Type} [DecidableEq α] (d : α) : FMap α → Bool
  | [] => true
  | [(_, v)] => decide (v ≠ d)
  | (i, v) :: (j, w) :: m => decide (v ≠ d) && decide (i < j) && wf d ((j, w) :: m)

end FMap

/-! ### Names of registers and fields -/

/-- A scalar register number (R92). -/
abbrev Reg := BitVec 6
/-- An address register number (R92). -/
abbrev AReg := BitVec 4
/-- A predicate number (R92). -/
abbrev PReg := BitVec 3
/-- A cask handle number (R92). -/
abbrev Hnd := BitVec 6

/-- The levels of work (R28), in the order of their encodings 0 to 5. -/
inductive Scope where
  | lane | core | quad | die | pkg | pod
deriving DecidableEq, Repr

/-- Memory orders of a scalar access (R94): 0 relaxed, 1 acquire or release, 2 sequentially consistent. -/
inductive MemOrd where
  | relaxed | acqRel | sc
deriving DecidableEq, Repr

/-- Conditions of `cmp` and `cmpi` (R157). -/
inductive Cond where
  | eq | ne | lt | ge | ltn | gen
deriving DecidableEq, Repr

/-- Conditions of `a.cmp` (R160). -/
inductive ACond where
  | eq | ne | ltn | gen
deriving DecidableEq, Repr

/-- Conditions of `fcmp` and of a floating `v.cmp` (R181). -/
inductive FCond where
  | eq | ne | lt | le | gt | ge | un | ord
deriving DecidableEq, Repr

/-- A rounding field of a scalar FP word (R106): four modes, or the dynamic mode of FCSR.RM. -/
inductive FRound where
  | rne | rtz | rup | rdn | dyn
deriving DecidableEq, Repr

/-- The four rounding modes (R9, R249). -/
inductive RMode where
  | rne | rtz | rup | rdn
deriving DecidableEq, Repr

/-- Types of `fcvt` (R107). -/
inductive CvtType where
  | f64 | f32 | i64 | n64 | i32 | n32
deriving DecidableEq, Repr

/-- Kinds of `fence` (R109, R184). -/
inductive FenceKind where
  | acq | rel | ar | sc
deriving DecidableEq, Repr

/-- The four engines of a core, in the order of their codes 0 to 3 (R108). -/
inductive Eng where
  | ce | me | ve | sae
deriving DecidableEq, Repr

/-- Kinds of booked resource (R59), in the order of their codes 0 to 3. -/
inductive CalKind where
  | me | ce | mcg | port
deriving DecidableEq, Repr

/-- A berth calendar: the kind and index of a use's word 0 (R59). -/
structure Cal where
  kind : CalKind
  idx : Nat
deriving DecidableEq, Repr

/-- The 32 fields of a template, or of a command built from one (R113), by field number; unlisted fields are zero. -/
abbrev Tmpl := FMap W16

/-- Where a command stands: the core whose queue holds it and its completion sequence number (R201). -/
structure CmdAt where
  core : Nat
  seq : Nat
deriving DecidableEq, Repr

/-- A booking message (R64); its TYPE is the step that carries it. `hm` says that the requester is a harbourmaster booking a
tide from its BKU on IOD0 (R424), for which the layout names no core. -/
structure BookMsg where
  use : Nat
  xid : Nat
  pkg : Nat
  core : Nat
  hm : Bool
  res : W64
  berth : Nat
  exp : Nat
deriving DecidableEq, Repr

/-- The ten message types of R64. -/
inductive BookType where
  | hold | held | refused | refusedFatal | commit | release | cancel | slip | moved | done
deriving DecidableEq, Repr

/-- A packet of the fabric (R406). LEN is the length of the payload. `hop` is no field of the header: it is the hop number of the flits
that brought the packet here, 0 for one of this package (R404). -/
structure Packet where
  opc : Nat
  ackreq : Bool
  ord : Bool
  dpkg : Nat
  spkg : Nat
  score : Nat
  tag : Nat
  pa : Nat
  arg : W64
  rsv : Bool
  data : List Byte
  hop : Nat := 0
deriving DecidableEq, Repr

/-- A flit of a CL link (R430): 8-byte header, 232 bytes of packet stream, 16-byte check field. -/
structure Flit where
  header : W64
  body : List Byte
  check : List Byte
deriving DecidableEq, Repr

/-- What an access of a token counter by a CSR instruction does (R204). -/
inductive TkOp where
  | read
  | write (v : W64)
  | exchange (v : W64)
deriving DecidableEq, Repr

/-! ### Encodings of the named fields -/

/-- The encoding of a scope (R28). -/
def Scope.code : Scope → Nat
  | .lane => 0 | .core => 1 | .quad => 2 | .die => 3 | .pkg => 4 | .pod => 5

/-- The code of an engine (R108, R197). -/
def Eng.code : Eng → Nat
  | .ce => 0 | .me => 1 | .ve => 2 | .sae => 3

/-- The code of a kind of resource (R59). -/
def CalKind.code : CalKind → Nat
  | .me => 0 | .ce => 1 | .mcg => 2 | .port => 3

end Sys2Proof
end

