-- ==== Sys2Proof/Config.lean ====
section
/-!
DEFINITION. What the manual leaves open or names without defining: free values and the cryptographic functions. Each is a
constant without a body, so nothing can be proved from a value of it.
-/

namespace Sys2Proof.Config

/-- Free values, drawn with the counter `State.free` (log entry 4). -/
opaque freeNat : Nat → Nat

/-- The key stream of AES-GCM for a 32-byte key, a 12-byte IV and a length (R430; log entry 12). -/
opaque gcmStream (key iv : List Byte) (len : Nat) : List Byte

/-- The tag of AES-GCM over additional data and cipher text (R430; log entry 12). -/
opaque gcmTag (key iv aad text : List Byte) : List Byte

/-- The SM3 digest (R467; log entry 12). -/
opaque sm3 (data : List Byte) : List Byte

/-- Verification of an SM2 signature over a digest with the public key fused into the package (R467; log entry 12). -/
opaque sm2Verify (digest sig : List Byte) : Bool

/-- An SM2 signature with the device key (R467; log entry 12). -/
opaque sm2Sign (data : List Byte) : List Byte

end Sys2Proof.Config
end

