-- ==== Sys2Proof/Syntax.lean ====
section
/-!
DEFINITION. The instructions of the N8: one constructor per row of spec/opcode_table.json, in the table's order. The first
140 are the instruction words of the control sequencer (R91 to R109), the next 64 the commands that engines build from
patch words and templates (R110 to R116), and the rest the indivisible steps of the hardware that the table lists
(spec/95_what_each_step_holds.md). Registers and fields are typed by their widths, so a reserved value that the
decoder refuses mostly has no term here; what is left is judged in Sys2Proof/WellFormed.lean.
-/

namespace Sys2Proof

/-- One row of the opcode table. A word names the registers and immediates of its fields; `fa` and `fb` are the policy
bits of R93. A command names where it stands and its built fields. A step of the hardware names the agents and
messages it concerns. -/
inductive Instr where
  /-- ADD (R151): Writes the sum of sA and sB, modulo 2^64, to sD. -/
  | add (d a b : Reg) (fa fb : Bool)
  /-- SUB (R151): Writes sA minus sB, modulo 2^64, to sD. -/
  | sub (d a b : Reg) (fa fb : Bool)
  /-- MUL (R151): Writes the low 64 bits of the product of sA and sB to sD. -/
  | mul (d a b : Reg) (fa fb : Bool)
  /-- MULH (R151): Writes the high 64 bits of the signed product of sA and sB to sD. -/
  | mulh (d a b : Reg) (fa fb : Bool)
  /-- MULHN (R151): Writes the high 64 bits of the unsigned product of sA and sB to sD. -/
  | mulhn (d a b : Reg) (fa fb : Bool)
  /-- DIV (R152): Signed division truncating towards zero, which never traps. -/
  | div (d a b : Reg) (fa fb : Bool)
  /-- DIVN (R152): Unsigned division, which never traps. -/
  | divn (d a b : Reg) (fa fb : Bool)
  /-- REM (R152): Signed remainder, taking the sign of the dividend. -/
  | rem (d a b : Reg) (fa fb : Bool)
  /-- REMN (R152): Unsigned remainder. -/
  | remn (d a b : Reg) (fa fb : Bool)
  /-- AND (R151): Writes the bitwise AND of sA and sB to sD. -/
  | iAnd (d a b : Reg) (fa fb : Bool)
  /-- OR (R151): Writes the bitwise OR of sA and sB to sD. -/
  | iOr (d a b : Reg) (fa fb : Bool)
  /-- XOR (R151): Writes the bitwise XOR of sA and sB to sD. -/
  | iXor (d a b : Reg) (fa fb : Bool)
  /-- ANDN (R151): Writes sA AND NOT sB to sD. -/
  | andn (d a b : Reg) (fa fb : Bool)
  /-- SHL (R151): Shifts sA left by sB[5:0]. -/
  | shl (d a b : Reg) (fa fb : Bool)
  /-- SHR (R151): Shifts sA right logically by sB[5:0]. -/
  | shr (d a b : Reg) (fa fb : Bool)
  /-- SRA (R151): Shifts sA right arithmetically by sB[5:0]. -/
  | sra (d a b : Reg) (fa fb : Bool)
  /-- ROTL (R151): Rotates sA left by sB[5:0]. -/
  | rotl (d a b : Reg) (fa fb : Bool)
  /-- MIN (R151): Writes the signed minimum of sA and sB. -/
  | iMin (d a b : Reg) (fa fb : Bool)
  /-- MAX (R151): Writes the signed maximum of sA and sB. -/
  | iMax (d a b : Reg) (fa fb : Bool)
  /-- MINN (R151): Writes the unsigned minimum of sA and sB. -/
  | minn (d a b : Reg) (fa fb : Bool)
  /-- MAXN (R151): Writes the unsigned maximum of sA and sB. -/
  | maxn (d a b : Reg) (fa fb : Bool)
  /-- CLZ (R151): Counts the leading zero bits of sA. -/
  | clz (d a : Reg) (fa : Bool)
  /-- CTZ (R151): Counts the trailing zero bits of sA. -/
  | ctz (d a : Reg) (fa : Bool)
  /-- POPC (R151): Counts the set bits of sA. -/
  | popc (d a : Reg) (fa : Bool)
  /-- SEXT (R153): Sign-extends the low sB[6:0] bits of sA. -/
  | sext (d a b : Reg) (fa fb : Bool)
  /-- ZEXT (R153): Zero-extends the low sB[6:0] bits of sA. -/
  | zext (d a b : Reg) (fa fb : Bool)
  /-- BFX (R153): Extracts a bit field of sA at the position and length given in sB. -/
  | bfx (d a b : Reg) (fa fb : Bool)
  /-- BFI (R153): Inserts the low bits of sA into a field of sD. -/
  | bfi (d a b : Reg) (fa fb : Bool)
  /-- SEL (R154): Writes sA or sB to sD, selected by predicate pN. -/
  | sel (n : PReg) (d a b : Reg) (fa fb : Bool)
  /-- P_AND (R158): Writes pA AND pB to pD. -/
  | pAnd (d a b : PReg)
  /-- P_OR (R158): Writes pA OR pB to pD. -/
  | pOr (d a b : PReg)
  /-- P_XOR (R158): Writes pA XOR pB to pD. -/
  | pXor (d a b : PReg)
  /-- P_NOT (R158): Writes NOT pA to pD. -/
  | pNot (d a : PReg)
  /-- P_MOV (R158): Copies pA to pD. -/
  | pMov (d a : PReg)
  /-- CMP (R157): Writes to pD the truth of condition C between sA and sB. -/
  | cmp (c : Cond) (d : PReg) (a b : Reg) (fa fb : Bool)
  /-- A_ADD (R159): Adds sign-extended sB to aA, modulo 2^72. -/
  | aAdd (d a : AReg) (b : Reg) (fb : Bool)
  /-- A_LEA_2 (R159): Adds sB times 2 to aA. -/
  | aLea2 (d a : AReg) (b : Reg) (fb : Bool)
  /-- A_LEA_4 (R159): Adds sB times 4 to aA. -/
  | aLea4 (d a : AReg) (b : Reg) (fb : Bool)
  /-- A_LEA_8 (R159): Adds sB times 8 to aA. -/
  | aLea8 (d a : AReg) (b : Reg) (fb : Bool)
  /-- A_LEA_16 (R159): Adds sB times 16 to aA. -/
  | aLea16 (d a : AReg) (b : Reg) (fb : Bool)
  /-- A_MOV (R159): Copies aA to aD. -/
  | aMov (d a : AReg)
  /-- A_MOV_SCALAR (R159): Forms aD from sB[7:0] joined with sA. -/
  | aMovScalar (d : AReg) (a b : Reg) (fa fb : Bool)
  /-- A_GET (R159): Writes bits [63:0] of aA to sD. -/
  | aGet (d : Reg) (a : AReg)
  /-- A_GET_HI (R159): Writes bits [71:64] of aA, zero-extended, to sD. -/
  | aGetHi (d : Reg) (a : AReg)
  /-- A_CMP (R160): Compares two 72-bit address registers as unsigned values and writes the truth to pD. -/
  | aCmp (c : ACond) (d : PReg) (a b : AReg)
  /-- FADD_F64 (R175): fp64 addition, rounded once in mode m. -/
  | faddF64 (r : FRound) (d a b : Reg) (fa fb : Bool)
  /-- FSUB_F64 (R175): fp64 subtraction. -/
  | fsubF64 (r : FRound) (d a b : Reg) (fa fb : Bool)
  /-- FMUL_F64 (R175): fp64 multiplication. -/
  | fmulF64 (r : FRound) (d a b : Reg) (fa fb : Bool)
  /-- FMA_F64 (R175): fp64 fused sD + sA × sB. -/
  | fmaF64 (r : FRound) (d a b : Reg) (fa fb : Bool)
  /-- FDIV_F64 (R175): fp64 division. -/
  | fdivF64 (r : FRound) (d a b : Reg) (fa fb : Bool)
  /-- FSQRT_F64 (R175): fp64 square root. -/
  | fsqrtF64 (r : FRound) (d a : Reg) (fa : Bool)
  /-- FMIN_F64 (R178): fp64 minimum, with −0 taken as less than +0. -/
  | fminF64 (r : FRound) (d a b : Reg) (fa fb : Bool)
  /-- FMAX_F64 (R178): fp64 maximum. -/
  | fmaxF64 (r : FRound) (d a b : Reg) (fa fb : Bool)
  /-- FADD_F32 (R175): fp32 addition, rounded once in mode m. -/
  | faddF32 (r : FRound) (d a b : Reg) (fa fb : Bool)
  /-- FSUB_F32 (R175): fp32 subtraction. -/
  | fsubF32 (r : FRound) (d a b : Reg) (fa fb : Bool)
  /-- FMUL_F32 (R175): fp32 multiplication. -/
  | fmulF32 (r : FRound) (d a b : Reg) (fa fb : Bool)
  /-- FMA_F32 (R175): fp32 fused multiply-add. -/
  | fmaF32 (r : FRound) (d a b : Reg) (fa fb : Bool)
  /-- FDIV_F32 (R175): fp32 division. -/
  | fdivF32 (r : FRound) (d a b : Reg) (fa fb : Bool)
  /-- FSQRT_F32 (R175): fp32 square root. -/
  | fsqrtF32 (r : FRound) (d a : Reg) (fa : Bool)
  /-- FMIN_F32 (R178): fp32 minimum. -/
  | fminF32 (r : FRound) (d a b : Reg) (fa fb : Bool)
  /-- FMAX_F32 (R178): fp32 maximum. -/
  | fmaxF32 (r : FRound) (d a b : Reg) (fa fb : Bool)
  /-- FCVT (R179): Converts sA from type U to type T with rounding mode m. -/
  | fcvt (r : FRound) (t u : CvtType) (d a : Reg) (fa : Bool)
  /-- FCLASS_F64 (R180): Writes a one-hot class of the fp64 value in sA. -/
  | fclassF64 (d a : Reg) (fa : Bool)
  /-- FCLASS_F32 (R180): Writes a one-hot class of the fp32 value in sA. -/
  | fclassF32 (d a : Reg) (fa : Bool)
  /-- FCMP_F64 (R181): Writes to pD the truth of an fp64 comparison. -/
  | fcmpF64 (c : FCond) (d : PReg) (a b : Reg) (fa fb : Bool)
  /-- FCMP_F32 (R181): Writes to pD the truth of an fp32 comparison. -/
  | fcmpF32 (c : FCond) (d : PReg) (a b : Reg) (fa fb : Bool)
  /-- FE_CLR (R183): Waits while sD is PENDING, then marks it EMPTY. -/
  | feClr (d : Reg)
  /-- FE_SET (R183): Waits while sD is PENDING, then marks it FULL. -/
  | feSet (d : Reg)
  /-- FE_TST (R183): Writes to pD whether sA is FULL, without waiting. -/
  | feTst (d : PReg) (a : Reg)
  /-- WAIT (R147): Reads a condition descriptor and holds its context until any or all conditions hold, or the time-out passes. -/
  | wait (d : Reg) (a : AReg) (b : Reg) (fb : Bool)
  /-- Q_TAIL (R202): Builds and counts the published commands, marks promise registers PENDING, releases at core scope and advances the engine's tail. -/
  | qTail (e : Eng) (a : AReg)
  /-- Q_MARK (R207): Places a marker behind the last published command of each engine in the mask. -/
  | qMark (m : BitVec 4) (a : Reg) (fa : Bool)
  /-- Q_SEQ (R203): Writes to sD the number of commands counted for engine E. -/
  | qSeq (d : Reg) (e : Eng)
  /-- TMPL_LD (R117): Reads template delta records and applies them to the shadow plane with CRC checks. -/
  | tmplLd (d : Reg) (e : Eng) (a : AReg)
  /-- OM_CLAIM (R320): Waits while operand slot N is EXP, then marks it CLAIMED. -/
  | omClaim (n : BitVec 5)
  /-- OM_REL (R320): Waits until no unretired ME command names slot N, then marks it FREE. -/
  | omRel (n : BitVec 5)
  /-- JR (R172): Jumps to aA after one delay slot. -/
  | jr (a : AReg)
  /-- JALR (R172): Jumps to aA and writes PC + 8 to aD. -/
  | jalr (d a : AReg)
  /-- X_POST (R420): Reads an exchange manifest, releases at core scope and sends MANIFEST to the harbourmaster. -/
  | xPost (d : Reg) (a : AReg)
  /-- X_WAIT (R428): Waits for the result of a posted exchange round. -/
  | xWait (d a : Reg) (fa : Bool)
  /-- X_RENQ (R411): Sends a 128-byte job card to a launch queue without awaiting an answer. -/
  | xRenq (d : Reg) (a : AReg) (b : Reg) (fb : Bool)
  /-- X_RENQ_ACK (R411): Sends a job card to a launch queue and waits for RENQ_ANS or a time-out. -/
  | xRenqAck (d : Reg) (a : AReg) (b : Reg) (fb : Bool)
  /-- X_FENCE (R415): Releases at pod scope, snapshots SENT and sends a count FENCE to package P. -/
  | xFence (d a : Reg) (fa : Bool)
  /-- ADDI (R155): Adds a sign-extended immediate to sA. -/
  | addi (d a : Reg) (fa : Bool) (imm : BitVec 13)
  /-- ANDI (R155): ANDs sA with a sign-extended immediate. -/
  | andi (d a : Reg) (fa : Bool) (imm : BitVec 13)
  /-- ORI (R155): ORs sA with a sign-extended immediate. -/
  | ori (d a : Reg) (fa : Bool) (imm : BitVec 13)
  /-- XORI (R155): XORs sA with a sign-extended immediate. -/
  | xori (d a : Reg) (fa : Bool) (imm : BitVec 13)
  /-- SHLI (R155): Shifts sA left by an immediate amount. -/
  | shli (d a : Reg) (fa : Bool) (sh : BitVec 6)
  /-- SHRI (R155): Shifts sA right logically by an immediate amount. -/
  | shri (d a : Reg) (fa : Bool) (sh : BitVec 6)
  /-- SRAI (R155): Shifts sA right arithmetically by an immediate amount. -/
  | srai (d a : Reg) (fa : Bool) (sh : BitVec 6)
  /-- CMPI (R157): Compares sA with a sign-extended immediate and writes the truth to pD. -/
  | cmpi (c : Cond) (d : PReg) (a : Reg) (fa : Bool) (imm : BitVec 13)
  /-- A_ADDI (R159): Adds a signed immediate byte offset to aA. -/
  | aAddi (d a : AReg) (imm : BitVec 13)
  /-- CSR_R (R190): Reads control register n into sD. -/
  | csrR (d : Reg) (n : BitVec 12)
  /-- CSR_W (R190): Writes sA to control register n. -/
  | csrW (n : BitVec 12) (a : Reg) (fa : Bool)
  /-- CSR_X (R190): Exchanges sA with control register n in one step. -/
  | csrX (d a : Reg) (fa : Bool) (n : BitVec 12)
  /-- LIH (R156): Writes imm20 into sD[31:12] and zero elsewhere. -/
  | lih (d : Reg) (imm : BitVec 20)
  /-- LIM (R156): Replaces sD[51:32] with imm20. -/
  | lim (d : Reg) (imm : BitVec 20)
  /-- LIT (R156): Replaces sD[63:52] with imm20[11:0]. -/
  | lit (d : Reg) (imm : BitVec 12)
  /-- LD_I8 (R162): Loads 1 byte, sign-extended. -/
  | ldI8 (d : Reg) (a : AReg) (sc : Scope) (o : MemOrd) (off : BitVec 10)
  /-- LD_N8 (R162): Loads 1 byte, zero-extended. -/
  | ldN8 (d : Reg) (a : AReg) (sc : Scope) (o : MemOrd) (off : BitVec 10)
  /-- LD_I16 (R162): Loads 2 bytes, sign-extended. -/
  | ldI16 (d : Reg) (a : AReg) (sc : Scope) (o : MemOrd) (off : BitVec 10)
  /-- LD_N16 (R162): Loads 2 bytes, zero-extended. -/
  | ldN16 (d : Reg) (a : AReg) (sc : Scope) (o : MemOrd) (off : BitVec 10)
  /-- LD_I32 (R162): Loads 4 bytes, sign-extended. -/
  | ldI32 (d : Reg) (a : AReg) (sc : Scope) (o : MemOrd) (off : BitVec 10)
  /-- LD_N32 (R162): Loads 4 bytes, zero-extended. -/
  | ldN32 (d : Reg) (a : AReg) (sc : Scope) (o : MemOrd) (off : BitVec 10)
  /-- LD_64 (R162): Loads 8 bytes. -/
  | ld64 (d : Reg) (a : AReg) (sc : Scope) (o : MemOrd) (off : BitVec 10)
  /-- LDP (R167): Loads 16 aligned bytes into s(d) and s(d+1). -/
  | ldp (d : Reg) (a : AReg) (sc : Scope) (o : MemOrd) (off : BitVec 10)
  /-- ST_8 (R163): Stores the low byte of the data source. -/
  | st8 (d : Reg) (a : AReg) (fa : Bool) (sc : Scope) (o : MemOrd) (off : BitVec 10)
  /-- ST_16 (R163): Stores the low 2 bytes of the data source. -/
  | st16 (d : Reg) (a : AReg) (fa : Bool) (sc : Scope) (o : MemOrd) (off : BitVec 10)
  /-- ST_32 (R163): Stores the low 4 bytes of the data source. -/
  | st32 (d : Reg) (a : AReg) (fa : Bool) (sc : Scope) (o : MemOrd) (off : BitVec 10)
  /-- ST_64 (R163): Stores 8 bytes of the data source. -/
  | st64 (d : Reg) (a : AReg) (fa : Bool) (sc : Scope) (o : MemOrd) (off : BitVec 10)
  /-- STP (R167): Stores s(d) and s(d+1) as 16 aligned bytes. -/
  | stp (d : Reg) (a : AReg) (fa : Bool) (sc : Scope) (o : MemOrd) (off : BitVec 10)
  /-- BK_REQ (R81): Reads a chain descriptor, marks sD PENDING and submits the request to the booking unit. -/
  | bkReq (d : Reg) (a : AReg)
  /-- BK_CANCEL (R82): Cancels the named live booking and returns its result word. -/
  | bkCancel (d a : Reg) (fa : Bool)
  /-- BK_STAT (R83): Returns the current result word of the named booking. -/
  | bkStat (d a : Reg) (fa : Bool)
  /-- B_T (R170): Branches when pN is true, with a delay slot when taken. -/
  | bT (n : PReg) (hint : Bool) (off : BitVec 21)
  /-- B_F (R170): Branches when pN is false. -/
  | bF (n : PReg) (hint : Bool) (off : BitVec 21)
  /-- J (R171): Jumps to PC + 4 × off after one delay slot. -/
  | j (off : BitVec 25)
  /-- JAL (R171): Jumps and writes PC + 8 to a13. -/
  | jal (off : BitVec 25)
  /-- T_VIEW (R281): Reads a view descriptor and binds kD to a new VIEW cask entry. -/
  | tView (kd : Hnd) (a : AReg)
  /-- T_MM (R289): Records a lazy matrix-multiply cask. -/
  | tMm (kd ka kb : Hnd) (a : AReg)
  /-- T_EW (R290): Records a lazy element-wise cask. -/
  | tEw (kd ka kb : Hnd) (a : AReg)
  /-- T_RED (R288): Records a lazy reduction cask. -/
  | tRed (kd ka : Hnd) (a : AReg)
  /-- T_TR (R288): Records a lazy transpose cask. -/
  | tTr (kd ka : Hnd) (a : AReg)
  /-- T_CVT (R288): Records a lazy conversion cask. -/
  | tCvt (kd ka : Hnd) (a : AReg)
  /-- T_PERM (R288): Records a lazy permutation cask along one dim. -/
  | tPerm (kd ka : Hnd) (a : AReg)
  /-- T_ST (R295): Demands a box of a cask and stores it to a view, forcing producers first. -/
  | tSt (kv kc : Hnd) (a : AReg)
  /-- T_PUB (R294): Demands a box into shadow pages, then releases and swaps them. -/
  | tPub (kv kc : Hnd) (a : AReg)
  /-- TAP (R294): Demands a box into scratchpad or accumulator tiles, or only into the memo. -/
  | tap (kv kc : Hnd) (a : AReg)
  /-- T_DROP (R315): Unbinds a cask handle and frees entries under R274. -/
  | tDrop (kd : Hnd)
  /-- NOP (R192): Does nothing and costs one issue token. -/
  | nop
  /-- EXIT (R195): Stops user fetch so that the run retires. -/
  | exit
  /-- TRAP (R193): Completes, then raises SWTRAP with code n. -/
  | trap (n : BitVec 16)
  /-- TRET (R194): Returns from a trap handler, restoring STATUS and resuming at EPC. -/
  | tret
  /-- WAKE (R196): Starts ungating the engines named in the mask. -/
  | wake (m : BitVec 4)
  /-- FENCE (R184): Orders the context's accesses of kind K at scope S. -/
  | fence (k : FenceKind) (sc : Scope)
  /-- BAR (R381): Releases at scope S and arrives at barrier counter n without waiting. -/
  | bar (n : BitVec 4) (sc : Scope)
  /-- PUB (R188): Checks a range list, releases at S and swaps visible and twin pages in one step. -/
  | pub (a : AReg) (sc : Scope)
  /-- HINT_3C (R96): Hint word of major opcode 0x3C, executed as a no-operation. -/
  | hint3C (payload : BitVec 26)
  /-- HINT_3D (R96): Hint word of major opcode 0x3D, executed as a no-operation. -/
  | hint3D (payload : BitVec 26)
  /-- HINT_3E (R96): Hint word of major opcode 0x3E, executed as a no-operation. -/
  | hint3E (payload : BitVec 26)
  /-- CP_NEST (R215): Copies a six-level affine nest from source to destination. -/
  | cpNest (w : CmdAt) (c : Tmpl)
  /-- CP_PACK (R218): Interleaves K streams into groups of width G, padding when PADF is 1. -/
  | cpPack (w : CmdAt) (c : Tmpl)
  /-- CP_UNPACK (R218): Undoes the packed layout into separate streams. -/
  | cpUnpack (w : CmdAt) (c : Tmpl)
  /-- CP_PERM_LOAD (R219): With TLOAD 1, loads a permutation table from memory. -/
  | cpPermLoad (w : CmdAt) (c : Tmpl)
  /-- CP_PERM_APPLY (R219): With TLOAD 0, copies channels in the order of a permutation table. -/
  | cpPermApply (w : CmdAt) (c : Tmpl)
  /-- CP_FILL (R220): Writes a 32-bit pattern over a destination nest. -/
  | cpFill (w : CmdAt) (c : Tmpl)
  /-- CP_AMO_ADD (R221): Performs atomic adds at the targets' homes. -/
  | cpAmoAdd (w : CmdAt) (c : Tmpl)
  /-- CP_AMO_MIN (R221): Performs atomic minimums at the targets' homes. -/
  | cpAmoMin (w : CmdAt) (c : Tmpl)
  /-- CP_AMO_MAX (R221): Performs atomic maximums at the targets' homes. -/
  | cpAmoMax (w : CmdAt) (c : Tmpl)
  /-- CP_AMO_AND (R221): Performs atomic ANDs on integer targets. -/
  | cpAmoAnd (w : CmdAt) (c : Tmpl)
  /-- CP_AMO_OR (R221): Performs atomic ORs on integer targets. -/
  | cpAmoOr (w : CmdAt) (c : Tmpl)
  /-- CP_AMO_XOR (R221): Performs atomic XORs on integer targets. -/
  | cpAmoXor (w : CmdAt) (c : Tmpl)
  /-- CP_AMO_XCHG (R221): Performs atomic exchanges at the targets. -/
  | cpAmoXchg (w : CmdAt) (c : Tmpl)
  /-- CP_AMO_CAS (R221): Performs atomic compare-and-swap at the targets. -/
  | cpAmoCas (w : CmdAt) (c : Tmpl)
  /-- MX_WLOAD (R326): Copies a weight tile from operand slots into the lane's plane and latches WFMT. -/
  | mxWload (w : CmdAt) (c : Tmpl)
  /-- MX_RUN (R327): Streams passes of activation rows through the latched weights into accumulator tiles. -/
  | mxRun (w : CmdAt) (c : Tmpl)
  /-- MX_ZERO (R328): Writes zero bits to a range of accumulator tiles. -/
  | mxZero (w : CmdAt) (c : Tmpl)
  /-- MX_MOV (R329): Converts an accumulator tile to OFMT and writes it to the own scratchpad. -/
  | mxMov (w : CmdAt) (c : Tmpl)
  /-- MX_MOV_RAW (R329): With RAW 1, writes the tile's raw 4-byte contents to the scratchpad. -/
  | mxMovRaw (w : CmdAt) (c : Tmpl)
  /-- MX_MOVIN (R325): Fills an accumulator tile or an operand slot from the own scratchpad. -/
  | mxMovin (w : CmdAt) (c : Tmpl)
  /-- V_LD (R344): Loads contiguous elements into VD, converting MFMT to ET. -/
  | vLd (w : CmdAt) (c : Tmpl)
  /-- V_LDS (R344): Loads strided nest elements into VD. -/
  | vLds (w : CmdAt) (c : Tmpl)
  /-- V_LDX (R344): Gathers elements at indexed addresses into VD. -/
  | vLdx (w : CmdAt) (c : Tmpl)
  /-- V_ST (R344): Stores VA contiguously, converting ET to MFMT. -/
  | vSt (w : CmdAt) (c : Tmpl)
  /-- V_STS (R344): Stores VA to strided nest addresses. -/
  | vSts (w : CmdAt) (c : Tmpl)
  /-- V_STX (R344): Scatters VA to indexed addresses. -/
  | vStx (w : CmdAt) (c : Tmpl)
  /-- V_ADD (R347): Element-wise a + b. -/
  | vAdd (w : CmdAt) (c : Tmpl)
  /-- V_SUB (R347): Element-wise a − b. -/
  | vSub (w : CmdAt) (c : Tmpl)
  /-- V_MUL (R347): Element-wise a × b. -/
  | vMul (w : CmdAt) (c : Tmpl)
  /-- V_FMA (R347): Element-wise fused a × b + c. -/
  | vFma (w : CmdAt) (c : Tmpl)
  /-- V_FMS (R347): Element-wise fused a × b − c. -/
  | vFms (w : CmdAt) (c : Tmpl)
  /-- V_MIN (R347): Element-wise minimum. -/
  | vMin (w : CmdAt) (c : Tmpl)
  /-- V_MAX (R347): Element-wise maximum. -/
  | vMax (w : CmdAt) (c : Tmpl)
  /-- V_ABS (R347): Element-wise absolute value. -/
  | vAbs (w : CmdAt) (c : Tmpl)
  /-- V_NEG (R347): Element-wise negation. -/
  | vNeg (w : CmdAt) (c : Tmpl)
  /-- V_AND (R347): Element-wise bitwise AND on integers. -/
  | vAnd (w : CmdAt) (c : Tmpl)
  /-- V_OR (R347): Element-wise bitwise OR on integers. -/
  | vOr (w : CmdAt) (c : Tmpl)
  /-- V_XOR (R347): Element-wise bitwise XOR on integers. -/
  | vXor (w : CmdAt) (c : Tmpl)
  /-- V_SHL (R347): Element-wise left shift. -/
  | vShl (w : CmdAt) (c : Tmpl)
  /-- V_SHR (R347): Element-wise logical right shift. -/
  | vShr (w : CmdAt) (c : Tmpl)
  /-- V_SRA (R347): Element-wise arithmetic right shift. -/
  | vSra (w : CmdAt) (c : Tmpl)
  /-- V_CMP (R348): Compares elements and writes the truths to mask MD. -/
  | vCmp (w : CmdAt) (c : Tmpl)
  /-- V_SEL (R349): Selects elements of a or b by mask MK. -/
  | vSel (w : CmdAt) (c : Tmpl)
  /-- V_CVT (R350): Converts elements from MFMT to ET. -/
  | vCvt (w : CmdAt) (c : Tmpl)
  /-- V_RED (R352): Reduces the active elements in the fixed order of R269, into VD or a scalar register. -/
  | vRed (w : CmdAt) (c : Tmpl)
  /-- V_SCAN (R353): Writes running combined values in rising element order. -/
  | vScan (w : CmdAt) (c : Tmpl)
  /-- V_RCP (R351): Approximate reciprocal to 16 significant bits. -/
  | vRcp (w : CmdAt) (c : Tmpl)
  /-- V_RSQ (R351): Approximate reciprocal square root. -/
  | vRsq (w : CmdAt) (c : Tmpl)
  /-- V_EXP2 (R351): Approximate 2^a. -/
  | vExp2 (w : CmdAt) (c : Tmpl)
  /-- V_LOG2 (R351): Approximate log2 a. -/
  | vLog2 (w : CmdAt) (c : Tmpl)
  /-- V_MOV (R349): Copies the elements of VA. -/
  | vMov (w : CmdAt) (c : Tmpl)
  /-- V_BCAST (R349): Broadcasts element j of VA. -/
  | vBcast (w : CmdAt) (c : Tmpl)
  /-- V_PERM (R349): Permutes VA by indices held in VB. -/
  | vPerm (w : CmdAt) (c : Tmpl)
  /-- VM_AND (R355): ANDs two masks. -/
  | vmAnd (w : CmdAt) (c : Tmpl)
  /-- VM_OR (R355): ORs two masks. -/
  | vmOr (w : CmdAt) (c : Tmpl)
  /-- VM_NOT (R355): Inverts a mask. -/
  | vmNot (w : CmdAt) (c : Tmpl)
  /-- SA_ADD (R394): Scatters add contributions to indexed targets, merging duplicates in a window. -/
  | saAdd (w : CmdAt) (c : Tmpl)
  /-- SA_MIN (R394): Scatters minimum contributions. -/
  | saMin (w : CmdAt) (c : Tmpl)
  /-- SA_MAX (R394): Scatters maximum contributions. -/
  | saMax (w : CmdAt) (c : Tmpl)
  /-- SA_AND (R394): Scatters AND contributions. -/
  | saAnd (w : CmdAt) (c : Tmpl)
  /-- SA_OR (R394): Scatters OR contributions. -/
  | saOr (w : CmdAt) (c : Tmpl)
  /-- SA_XCHG (R394): Scatters exchange contributions. -/
  | saXchg (w : CmdAt) (c : Tmpl)
  /-- SA_FLUSH (R398): Retires when every earlier SAE contribution is performed at its scope. -/
  | saFlush (w : CmdAt) (c : Tmpl)
  /-- CH_NOP (R116): Chain command that does nothing. -/
  | chNop (w : CmdAt) (c : Tmpl)
  /-- CH_LINK (R116): Moves the engine's chain read address to a new target. -/
  | chLink (w : CmdAt) (c : Tmpl)
  /-- CH_MARK (R116): Chain marker command that retires as a numbered marker. -/
  | chMark (w : CmdAt) (c : Tmpl)
  /-- COMMAND_RETIRE (R201): An engine command retires: its SIG is applied, DONE advances and the completion word is written, as one release at SCOPE. -/
  | commandRetire (core : Nat) (e : Eng) (seq : Nat)
  /-- MARKER_RETIRE (R208): A q.mark marker retires once every entry ahead of it has retired, and sets MKR and MKV. -/
  | markerRetire (core : Nat) (e : Eng)
  /-- TEMPLATE_SWAP (R118): A loaded shadow template plane is swapped in at the next command boundary, and sD becomes FULL. -/
  | templateSwap (core : Nat) (e : Eng)
  /-- STEAL (R210): An idle engine takes an eligible relocatable walk-in from a sibling core's queue. -/
  | steal (thief owner : Nat) (e : Eng) (seq : Nat)
  /-- WALKIN_SUSPEND (R58): A walk-in running when a booked berth begins is suspended at its next tile boundary, and the booked use starts. -/
  | walkinSuspend (core : Nat) (e : Eng)
  /-- LOAD_DELIVERY (R162): Data of a long-latency load arrives and its destination becomes FULL, poisoned on an error or a refusal. -/
  | loadDelivery (tag : Nat) (bad : Bool)
  /-- WINDOW_ACCESS_ARRIVAL (R231): A window access reaches its target core, which performs it or refuses it. -/
  | windowAccessArrival (tag : Nat)
  /-- WINDOW_STORE_ACK (R233): The acknowledgement of a posted window store arrives and lowers OUT. -/
  | windowStoreAck (tag : Nat)
  /-- DEMAND_COMPLETE (R298): The forced work of a demand ends; the box is written and published, or the demand traps CASK_FAULT or BOOK_FAIL. -/
  | demandComplete (core : Nat) (fw : Bool)
  /-- WAIT_COMPLETE (R147): A wait's conditions become true in a tick and sD receives the truth bits. -/
  | waitComplete (core : Nat) (fw : Bool)
  /-- STALL_TIMEOUT (R147): STALL.CNT passes the time-out of a wait, which traps STALL. -/
  | stallTimeout (core : Nat) (fw : Bool)
  /-- PROMISE_MISS (R217): tb_now passes a copy's promise while a chunk-bitmap wait is false, trapping PROMISE_MISS. -/
  | promiseMiss (core : Nat) (fw : Bool)
  /-- NOTICE (R446): A throttle or thermal notice is taken as an asynchronous trap at an instruction boundary. -/
  | notice (core : Nat) (kind : BitVec 8)
  /-- BUCKET_REFILL (R142): At the end of each refill period the issue bucket pays debt and adds RATE tokens. -/
  | bucketRefill (core : Nat) (fw : Bool)
  /-- SEARCH_ROUND (R61): The requesting BKU runs a search round, holding its own rows and sending HOLDs. -/
  | searchRound (core : Nat) (bid : Nat)
  /-- HOLD (R65): The owner marks the asked rows HELD and answers HELD, or answers REFUSED with an alternative. -/
  | hold (m : BookMsg)
  /-- HELD (R67): The requester records a HELD answer and, once all answers are in, commits or refuses the round. -/
  | held (m : BookMsg)
  /-- REFUSED (R67): The requester records a refusal, releases held rows, raises floors and retries or ends the request. -/
  | refused (m : BookMsg)
  /-- REFUSED_FATAL (R67): The requester releases and ends the request or booking FATAL, subcode 1. -/
  | refusedFatal (m : BookMsg)
  /-- COMMIT (R65): The owner turns held rows BOOKED. -/
  | commit (m : BookMsg)
  /-- RELEASE (R65): The owner turns a use's held or booked rows FREE. -/
  | release (m : BookMsg)
  /-- CANCEL (R65): The owner frees a use's rows and stops a running use at a tile boundary. -/
  | cancel (m : BookMsg)
  /-- SLIP (R75): The owner moves a dependant use to the earliest free run at or after the floor and answers MOVED. -/
  | slip (m : BookMsg)
  /-- MOVED (R75): The requester receives a new first berth and continues the slip cascade. -/
  | moved (m : BookMsg)
  /-- DONE (R65): The requester learns that a remote use has completed. -/
  | doneMsg (m : BookMsg)
  /-- UNKNOWN_BOOKING_MESSAGE (R64): A booking message with an unknown TYPE is dropped and counted in DROP. -/
  | unknownBookingMessage (die : Nat) (type : Byte)
  /-- HOLD_EXPIRY (R66): When the time base passes EXP, held rows turn FREE without a message. -/
  | holdExpiry (cal : Cal)
  /-- USE_START (R69): A committed use starts at its first booked berth and its row becomes RUNNING. -/
  | useStart (cal : Cal)
  /-- BERTH_END (R55): A berth ends and its row is reset to FREE for the berth 8,192 later. -/
  | berthEnd (cal : Cal)
  /-- OVERRUN_YIELD (R72): An overrunning use yields at its tile boundary and a continuation use is booked. -/
  | overrunYield (cal : Cal)
  /-- RUNNING_USE_STOP (R76): A cancelled running use stops at its next tile boundary and its remaining rows become FREE. -/
  | runningUseStop (cal : Cal)
  /-- BKU_FAILSTOP (R88): An uncorrectable error in BKU instruction memory stops the BKU and makes bookings that use it FATAL. -/
  | bkuFailstop (die : Nat)
  /-- CALENDAR_POISON (R89): An uncorrectable calendar-row error poisons the calendar and makes its bookings FATAL. -/
  | calendarPoison (cal : Cal)
  /-- DIE_RESET (R89): A die reset clears poisoned calendars and failstop. -/
  | dieReset (die : Nat)
  /-- PACKAGE_RESET (R26): A package reset zeroes the time base and resets the package. -/
  | packageReset
  /-- BARRIER_COMPLETION_AT_DIE (R383): A package or pod episode completion reaches each compute die, which starts its sluice release. -/
  | barrierCompletionAtDie (tag : Nat) (die : Nat)
  /-- SLUICE_GROUP_RELEASE (R385): The sluice logic releases one group of cores at t0 + g × GAP. -/
  | sluiceGroupRelease (tag : Nat) (g : Nat)
  /-- RAMP_STEP (R389): At the end of each 4-cycle step the ME ramp position rises or falls and the grant changes. -/
  | rampStep (core : Nat)
  /-- ENGINE_GATE (R465): An engine gates after 1,024 idle cycles. -/
  | engineGate (core : Nat) (e : Eng)
  /-- UNGATE_COMPLETE (R465): Ungating of an engine completes after 256 or 64 cycles. -/
  | ungateComplete (core : Nat) (e : Eng)
  /-- PRE_BERTH_UNGATE (R465): The BKU starts ungating an engine two berths before its first booked berth. -/
  | preBerthUngate (core : Nat) (e : Eng)
  /-- SAE_ENTRY_APPLY (R395): The target's home applies a sent SAE entry's contributions one by one as one indivisible step. -/
  | saeEntryApply (tag : Nat)
  /-- ATOMIC_APPLY (R375): A home atomic unit performs a cp.amo operation in the target's coherence order. -/
  | atomicApply (tag : Nat)
  /-- HOME_WRITE_APPLY (R363): A home applies an arriving write after its causal predecessors and sends invalidations. -/
  | homeWriteApply (tag : Nat)
  /-- DIE_COPY_INVALIDATION (R361): A die applies an invalidation and drops its read-only copy of a line. -/
  | dieCopyInvalidation (tag : Nat) (die : Nat)
  /-- DIE_COPY_EVICT (R361): A die drops a die copy on its own at any time. -/
  | dieCopyEvict (die line : Nat)
  /-- CARD_READ (R39): The launch unit reads the card at a queue head and follows a LINK, stops on an empty card, or checks a job. -/
  | cardRead (q : Nat)
  /-- GANG_PLACEMENT (R53): The scheduler places a gang whole on free cores, or applies pre-emption. -/
  | gangPlacement (q : Nat)
  /-- CHECKPOINT_COMPLETE (R453): Firmware writes the checkpoint record and the core becomes free. -/
  | checkpointComplete (core : Nat)
  /-- RESUME (R455): A checkpointed run is placed again, its record checked and its state restored and rebooked. -/
  | resume (idx : Nat)
  /-- CHUNK_ASK (R43): A gang core asks for a chunk and receives returned records, a new chunk, or leaves the job. -/
  | chunkAsk (core : Nat)
  /-- RUN_START (R44): Firmware writes a run's starting state and releases user fetch. -/
  | runStart (core : Nat)
  /-- RETIREMENT (R457): After exit, once every retirement condition holds, the run retires. -/
  | retirement (core : Nat)
  /-- FIRMWARE_UPDATE_REQUEST (R49): Outgoing firmware disables queues, checkpoints runs, writes the save area and reports ready. -/
  | firmwareUpdateRequest (addr : Option Nat)
  /-- SAVE_AREA_RESTORE (R51): New firmware checks the save area and restores queues and runs, or refuses. -/
  | saveAreaRestore
  /-- WR (R414): A remote write packet is performed at its home and counted in RCVD. -/
  | wr (p : Packet)
  /-- RD (R406): A remote read packet is served at the package's home. -/
  | rd (p : Packet)
  /-- RDRSP (R406): Read response data reaches the requester. -/
  | rdrsp (p : Packet)
  /-- AMO (R375): A remote atomic packet is performed at the package's home. -/
  | amo (p : Packet)
  /-- AMORSP (R406): The atomic response reaches the requester. -/
  | amorsp (p : Packet)
  /-- ACK (R230): An acknowledgement of a remote write reaches the issuing context. -/
  | ack (p : Packet)
  /-- NAK (R408): A NAK is counted in XF.STAT and acted on by the kind of request it answers. -/
  | nak (p : Packet)
  /-- UNKNOWN_OPC (R408): A packet with an unknown OPC is dropped, answered NAK(ERR_OPC) and counted in BADOPC. -/
  | unknownOpc (port : Nat) (p : Packet)
  /-- RENQ (R412): The launch unit writes a remote card and advances the tail, or refuses it, and answers RENQ_ANS. -/
  | renq (p : Packet)
  /-- RENQ_ANS (R412): The result word of a remote enqueue reaches the source. -/
  | renqAns (p : Packet)
  /-- RENQ_ACK_TIMEOUT (R411): x.renq.ack receives no answer within ACKTMO ticks and traps FABRIC_NAK. -/
  | renqAckTimeout (core : Nat)
  /-- FENCE_MSG (R415): A count FENCE arrives at the target, which answers once RCVD reaches n. -/
  | fenceMsg (p : Packet)
  /-- FENCE_FTMO_EXPIRY (R415): FTMO ticks after a FENCE arrives, the target answers with the count received. -/
  | fenceFtmoExpiry (tag : Nat)
  /-- FENCE_ANS (R416): The fence answer reaches the source and delivers MATCH or a marked MISMATCH. -/
  | fenceAns (p : Packet)
  /-- FENCE_ANSWER_TIMEOUT (R415): No FENCE_ANS within FTMO + ACKTMO ticks, so the source delivers NAK TIMEOUT. -/
  | fenceAnswerTimeout (tag : Nat)
  /-- MANIFEST (R422): The harbourmaster records a manifest, answers, and starts the round once NPART have arrived. -/
  | manifest (p : Packet)
  /-- MANIFEST_ANSWER (R421): The harbourmaster's answer to a manifest fills the x.post result. -/
  | manifestAnswer (p : Packet)
  /-- POST_ANSWER_TIMEOUT (R420): No harbourmaster answer arrives within ACKTMO ticks, so x.post delivers NO_HM. -/
  | postAnswerTimeout (tag : Nat)
  /-- ROUND_TIMEOUT (R422): An open round not started within RTMO berths is abandoned. -/
  | roundTimeout (grp round : Nat)
  /-- GRANT (R424): A source receives a tide grant naming destination, first berth, byte range and address. -/
  | grant (p : Packet)
  /-- EXCHANGE_COPY (R425): In its granted berths the posting core's CE runs the pair's copy on its forced lane. -/
  | exchangeCopy (tag : Nat)
  /-- EXCHANGE_COPY_END (R425): A pair's copy ends when its writes are performed at pod scope, and the source reports. -/
  | exchangeCopyEnd (tag : Nat)
  /-- PAIR_REPORT (R426): The harbourmaster records a pair's bytes sent and, once all pairs have reported, sends ROUND_END. -/
  | pairReport (p : Packet)
  /-- ROUND_END (R426): A participant publishes its receive buffer, writes REM and delivers DONE to its waits. -/
  | roundEnd (p : Packet)
  /-- ABANDON (R427): A round is abandoned: bookings are cancelled and waits receive ABANDONED. -/
  | abandon (p : Packet)
  /-- HEARTBEAT_TIMER (R429): Every 2,048 ticks the primary harbourmaster sends HEARTBEAT to the standby. -/
  | heartbeatTimer
  /-- HEARTBEAT (R429): The standby receives a heartbeat and restarts its watch. -/
  | heartbeat (p : Packet)
  /-- TAKEOVER_TIMEOUT (R429): After 6,144 ticks without a heartbeat the standby takes over and sends TAKEOVER. -/
  | takeoverTimeout
  /-- TAKEOVER (R429): A package swaps PRIM and STBY, cancels the old primary's uses and abandons open rounds with REPOST. -/
  | takeover (p : Packet)
  /-- BAR_MSG (R383): A pod-barrier arrival or release message reaches the root or a package. -/
  | barMsg (p : Packet)
  /-- TIME (R405): A time-base discipline message adjusts the package time base. -/
  | timeMsg (p : Packet)
  /-- FLIT_SEND (R432): A port sends a flit with the active key slot's INV, switching keys when the INV nears its end. -/
  | flitSend (port : Nat)
  /-- FLIT_RECEIVE (R431): A receiver checks a flit's CRC or tag and accepts it in SEQ order, or discards it and asks for replay. -/
  | flitReceive (port : Nat) (f : Flit)
  /-- REPLAY_REQUEST (R431): The sender replays from the asked SEQ with fresh INVs, taking the port down after 16 failed tries. -/
  | replayRequest (port seq : Nat)
  /-- KEYMARK (R432): The receiver authenticates a KEYMARK and switches to the named key slot. -/
  | keymark (port : Nat) (f : Flit)
  /-- PORT_LANE_SHED (R466): A lightly used CL port sheds to 4 or 2 lanes. -/
  | portLaneShed (port lanes : Nat)
  /-- PORT_WIDTH_REGAIN (R466): A port regains full width when its queues grow or a booking is near. -/
  | portWidthRegain (port : Nat)
  /-- RAIL_CLOCK_CHANGE (R462): Power control changes a quad's rail and clock, and a NOTICE is sent. -/
  | railClockChange (die quad : Nat) (step : BitVec 2)
  /-- TRIP_1 (R463): The hottest die rises past 95 °C and every run receives NOTICE kind 3. -/
  | trip1 (die : Nat) (tj : Byte)
  /-- TRIP_1_CLEAR (R463): The hottest die falls below 90 °C and trip 1 clears. -/
  | trip1Clear (die : Nat) (tj : Byte)
  /-- TRIP_2 (R463): Past 105 °C hardware raises every ME.CADENCE.C to at least 4 and sends NOTICE kind 4. -/
  | trip2 (die : Nat) (tj : Byte)
  /-- TRIP_2_CLEAR (R463): Below 100 °C each core's cadence is restored and NOTICE kind 2 is sent. -/
  | trip2Clear (die : Nat) (tj : Byte)
  /-- TRIP_3 (R463): Past 115 °C firmware saves queues, checkpoints runs into the standing save area and halts the cores. -/
  | trip3 (die : Nat) (tj : Byte)
  /-- TRIP_4 (R463): Past 125 °C the comparator removes package power. -/
  | trip4 (die : Nat) (tj : Byte)
  /-- SRAM_ECC_ERROR (R448): An SRAM error is counted, and an uncorrectable one gives firmware an ECC machine event. -/
  | sramEccError (core : Nat) (unit : Byte) (addr : Nat) (unc : Bool)
  /-- SECURITY_ALARM (R468): A tamper sensor erases the key slots and the key-wrapping key and tells management. -/
  | securityAlarm
  /-- ROOT_OF_TRUST_BOOT (R467): At power-on the root of trust verifies the firmware's SM2 signature and measures it. -/
  | rootOfTrustBoot (image sig : List Byte)
  /-- ATTESTATION_QUOTE (R467): An SM2 quote over a management nonce and the measurements is made. -/
  | attestationQuote (nonce : List Byte)
  /-- FCSR_WRITE (R137): A write to FCSR updates the flags, keeping RM when the written value is reserved. -/
  | fcsrWrite (core : Nat) (fw : Bool) (v : W64)
  /-- ISS_WRITE (R141): A write to ISS.U or ISS.F sets the balance to CAP, clears the debt and restarts the period. -/
  | issWrite (core : Nat) (firm : Bool) (v : W64)
  /-- IC_INV_WRITE (R143): A write to IC.INV waits for earlier stores at die scope, then empties the instruction cache. -/
  | icInvWrite (core : Nat) (fw : Bool)
  /-- DC_INV_WRITE (R144): A write to DC.INV empties the scalar data cache. -/
  | dcInvWrite (core : Nat) (fw : Bool)
  /-- UCTL_WRITE (R138): A write to UCTL.RUN releases user fetch or stops user issue at the next boundary. -/
  | uctlWrite (core : Nat) (v : W64)
  /-- CTXU_DAT_ACCESS (R138): Reads or writes the user-context register selected by CTXU.IDX while RUN is 0. -/
  | ctxuDatAccess (core : Nat) (v : Option W64)
  /-- Q_BASE_WRITE (R197): A write to Q.x.BASE or BASEX sets the read address and tail when the queue is empty. -/
  | qBaseWrite (core : Nat) (e : Eng) (ext : Bool) (v : W64)
  /-- Q_STAT_FLT_CLEAR (R444): Writing 1 to FLT clears the engine fault and the queue resumes with the next entry. -/
  | qStatFltClear (core : Nat) (e : Eng) (v : W64)
  /-- TK_ACCESS (R204): A CSR access to TKn acts as one step towards signals and takes. -/
  | tkAccess (core : Nat) (n : BitVec 5) (op : TkOp)
  /-- CASK_SCR_WRITE (R276): A write to CASK.SCR drops memo tiles and resets materialised entries, unless it is ignored. -/
  | caskScrWrite (core : Nat) (v : W64)
  /-- ME_CADENCE_WRITE (R330): A firmware write to ME.CADENCE changes the cadence from the next row, or is held during trip 2. -/
  | meCadenceWrite (core : Nat) (v : W64)
  /-- XLAT_INV_WRITE (R245): A write to XLAT.INV drops the named translations package-wide and holds firmware until done. -/
  | xlatInvWrite (core : Nat) (v : W64)
  /-- BAR_PODN_WRITE (R388): A write to BAR.PODN sets the pod-barrier root, group and count for later episodes. -/
  | barPodnWrite (v : W64)
  /-- LQ_BASE_WRITE (R33): A write to LQ.BASE while EN is 0 sets BASE, HEAD and TAIL. -/
  | lqBaseWrite (q : Nat) (v : VAddr)
  /-- LQ_TAIL_DOORBELL (R36): The low tail write is the doorbell that makes appended cards valid, ignored and counted when OWNER is 1. -/
  | lqTailDoorbell (q : Nat) (v : W64)
  /-- LQ_CTL_WRITE (R34): A write to LQ.CTL sets ASN, PRIOCAP, OWNER and EN, clearing ERR and STOP when EN rises. -/
  | lqCtlWrite (q : Nat) (v : W64)
  /-- CLP_CTL_WRITE (R433): A write to CLP.CTL enables the port, sets encryption or starts a key switch. -/
  | clpCtlWrite (port : Nat) (v : W64)
  /-- CLP_SALT_WRITE (R432): A write of a key slot's SALT makes the slot LOADED with INV 0. -/
  | clpSaltWrite (port : Nat) (slot : Bool) (v : W64)
  /-- REGISTER_WRITE (R135): A write to any register without its own row: stored, ignored in read-only fields, or trapping PRIV from the user context.
  Below 4,096 `n` is a register number; above it is an offset of R33 or R433. -/
  | registerWrite (core : Nat) (fw : Bool) (n : Nat) (v : W64)
  /-- ILLEGAL (R95): A fetched word whose major opcode, fn, fn10 or variant is unassigned, including the all-zero word and major opcode 0x3F, traps ILLEGAL at decode. -/
  | illegal (w : W32) (check : Nat)
  /-- FETCH_FAULT (R173): A fetch at a PC whose page is unmapped, not executable or not user traps PAGE or PROT at that PC. -/
  | fetchFault (prot : Bool)
  /-- DECODE_FAULT (R112): An engine command whose operation code is unassigned, or whose patch words break the chain rules, is a BAD_OP or BAD_CHAIN engine fault that retires with a sequence number and halts the queue. -/
  | decodeFault (w : CmdAt) (e : Eng) (cause : Byte)
  /-- CORRECTED_SINGLE_BIT_ERROR (R87): A single-bit error in BKU instruction memory or a calendar row is corrected and counted in BKU.STAT.CORR. -/
  | correctedSingleBitError (die : Nat)
deriving DecidableEq, Repr

end Sys2Proof
end

