-- ==== Sys2Proof/WellFormed.lean ====
section
/-!
DEFINITION. Which terms of `Instr` stand for something the machine can hold: the values that the decoder refuses and the
types of Sys2Proof/Syntax.lean still allow, the operation code of a command against its constructor, and the ranges of the
numbers that a step of the hardware names.
-/

namespace Sys2Proof

/-- Integer types of `fcvt` (R107): a pair of two of them is reserved. -/
def CvtType.isInt : CvtType → Bool
  | .f64 | .f32 => false
  | .i64 | .n64 | .i32 | .n32 => true

/-- The register numbers that a chapter defines; every other number is a reserved value (R102, R135, R136, R197, R204,
R216, R276, R321, R330, R337, R400, R21, R22, R42, R238, R245, R449, R448, R464, R85, R388, R387, R391, R232, R409). -/
def csrDefined (n : BitVec 12) : Bool :=
  let k := n.toNat
  decide (k ≤ 0x003) || (decide (0x008 ≤ k) && decide (k ≤ 0x014)) || decide (k = 0x018) || decide (k = 0x019)
    || (decide (0x020 ≤ k) && decide (k ≤ 0x022)) || (decide (0x040 ≤ k) && decide (k ≤ 0x082))
    || (decide (0x090 ≤ k) && decide (k ≤ 0x092)) || (decide (0x0A0 ≤ k) && decide (k ≤ 0x0A2))
    || decide (k = 0x0B0) || decide (k = 0x0B1) || (decide (0x0C0 ≤ k) && decide (k ≤ 0x0C7))
    || decide (k = 0x0C9) || decide (k = 0x0CA) || (decide (0x0D0 ≤ k) && decide (k ≤ 0x0D2))
    || (decide (0x0E0 ≤ k) && decide (k ≤ 0x0E2)) || (decide (0x0E8 ≤ k) && decide (k ≤ 0x0ED))
    || decide (k = 0x0F0) || decide (k = 0x0F1) || (decide (0x100 ≤ k) && decide (k ≤ 0x102))
    || (decide (0x110 ≤ k) && decide (k ≤ 0x112))

/-- A core number (R21), a die number (R10), a port (R14), a launch queue (R32). -/
def coreOk (n : Nat) : Bool := decide (n < 512)
def dieOk (n : Nat) : Bool := decide (n < 10)
def portOk (n : Nat) : Bool := decide (n < 35)
def queueOk (n : Nat) : Bool := decide (n < 64)

/-- An offset of a launch queue's registers (R33) or of a port's (R433); register numbers below it are control registers. -/
def spaceOffset (n : Nat) : Bool :=
  (decide (0x40000 ≤ n) && decide (n < 0x41000)) || (decide (0x100000 ≤ n) && decide (n < 0x102300))
    || (decide (0x200000 ≤ n) && decide (n < 0x202110)) || (decide (0x300000 ≤ n) && decide (n < 0x300020))
    || (decide (0x400000 ≤ n) && decide (n < 0x480000))

/-- A calendar names a resource that exists (R59). -/
def Cal.ok (c : Cal) : Bool :=
  match c.kind with
  | .me | .ce => coreOk c.idx
  | .mcg => decide (c.idx < 64)
  | .port => portOk c.idx

/-- The keys of a command's fields are field numbers and the list is canonical (R113). -/
def fieldsOk (c : Tmpl) : Bool := FMap.wf 0 c && c.all fun p => decide (p.1 < 32)

/-- A command's fields against its row: operation code, the flag or subfield that the row fixes, and a SCOPE (R200). -/
def cmdOk (w : CmdAt) (c : Tmpl) (code : Nat) (sub : Bool) : Bool :=
  coreOk w.core && fieldsOk c && decide ((FMap.get 0 c 0).toNat / 256 = code) && sub && decide ((FMap.get 0 c 0).toNat % 8 < 6)

/-- A chain-control command (R116). -/
def chainOk (w : CmdAt) (c : Tmpl) (code : Nat) : Bool :=
  coreOk w.core && fieldsOk c && decide ((FMap.get 0 c 0).toNat / 256 = code)

/-- A bit of OP, and the operation of `cp.amo` (R221). -/
def opBit (c : Tmpl) (i : Nat) : Bool := decide ((FMap.get 0 c 0).toNat / 2 ^ i % 2 = 1)
def amoOp (c : Tmpl) (n : Nat) : Bool := decide ((FMap.get 0 c 24).toNat % 16 = n)

/-- A booking message's fields lie in their ranges (R64). -/
def BookMsg.ok (m : BookMsg) : Bool :=
  decide (m.use < 256) && decide (m.xid < 4096) && decide (m.pkg < 2048) && coreOk m.core && decide (m.berth < 2 ^ 56)
    && decide (m.exp < 2 ^ 64)

/-- A packet's fields lie in their ranges (R406). -/
def Packet.ok (p : Packet) : Bool :=
  decide (p.opc < 256) && decide (p.dpkg < 2048) && decide (p.spkg < 2048) && coreOk p.score && decide (p.tag < 65536)
    && decide (p.pa < 2 ^ 56) && decide (p.data.length ≤ 4096)

/-- A flit has 232 bytes of stream and 16 of check (R430). -/
def Flit.ok (f : Flit) : Bool := decide (f.body.length = 232) && decide (f.check.length = 16)

/-- The well-formed terms. -/
def wellFormed (i : Instr) : Bool :=
  match i with
  | .add _ _ _ _ _ => true
  | .sub _ _ _ _ _ => true
  | .mul _ _ _ _ _ => true
  | .mulh _ _ _ _ _ => true
  | .mulhn _ _ _ _ _ => true
  | .div _ _ _ _ _ => true
  | .divn _ _ _ _ _ => true
  | .rem _ _ _ _ _ => true
  | .remn _ _ _ _ _ => true
  | .iAnd _ _ _ _ _ => true
  | .iOr _ _ _ _ _ => true
  | .iXor _ _ _ _ _ => true
  | .andn _ _ _ _ _ => true
  | .shl _ _ _ _ _ => true
  | .shr _ _ _ _ _ => true
  | .sra _ _ _ _ _ => true
  | .rotl _ _ _ _ _ => true
  | .iMin _ _ _ _ _ => true
  | .iMax _ _ _ _ _ => true
  | .minn _ _ _ _ _ => true
  | .maxn _ _ _ _ _ => true
  | .clz _ _ _ => true
  | .ctz _ _ _ => true
  | .popc _ _ _ => true
  | .sext _ _ _ _ _ => true
  | .zext _ _ _ _ _ => true
  | .bfx _ _ _ _ _ => true
  | .bfi _ _ _ _ _ => true
  | .sel _ _ _ _ _ _ => true
  | .pAnd _ _ _ => true
  | .pOr _ _ _ => true
  | .pXor _ _ _ => true
  | .pNot _ _ => true
  | .pMov _ _ => true
  | .cmp _ _ _ _ _ _ => true
  | .aAdd _ _ _ _ => true
  | .aLea2 _ _ _ _ => true
  | .aLea4 _ _ _ _ => true
  | .aLea8 _ _ _ _ => true
  | .aLea16 _ _ _ _ => true
  | .aMov _ _ => true
  | .aMovScalar _ _ _ _ _ => true
  | .aGet _ _ => true
  | .aGetHi _ _ => true
  | .aCmp _ _ _ _ => true
  | .faddF64 _ _ _ _ _ _ => true
  | .fsubF64 _ _ _ _ _ _ => true
  | .fmulF64 _ _ _ _ _ _ => true
  | .fmaF64 _ _ _ _ _ _ => true
  | .fdivF64 _ _ _ _ _ _ => true
  | .fsqrtF64 _ _ _ _ => true
  | .fminF64 _ _ _ _ _ _ => true
  | .fmaxF64 _ _ _ _ _ _ => true
  | .faddF32 _ _ _ _ _ _ => true
  | .fsubF32 _ _ _ _ _ _ => true
  | .fmulF32 _ _ _ _ _ _ => true
  | .fmaF32 _ _ _ _ _ _ => true
  | .fdivF32 _ _ _ _ _ _ => true
  | .fsqrtF32 _ _ _ _ => true
  | .fminF32 _ _ _ _ _ _ => true
  | .fmaxF32 _ _ _ _ _ _ => true
  | .fcvt _ t u _ _ _ => !(t.isInt && u.isInt)
  | .fclassF64 _ _ _ => true
  | .fclassF32 _ _ _ => true
  | .fcmpF64 _ _ _ _ _ _ => true
  | .fcmpF32 _ _ _ _ _ _ => true
  | .feClr _ => true
  | .feSet _ => true
  | .feTst _ _ => true
  | .wait _ _ _ _ => true
  | .qTail _ _ => true
  | .qMark m _ _ => decide (m ≠ 0)
  | .qSeq _ _ => true
  | .tmplLd _ _ _ => true
  | .omClaim _ => true
  | .omRel _ => true
  | .jr _ => true
  | .jalr _ _ => true
  | .xPost _ _ => true
  | .xWait _ _ _ => true
  | .xRenq _ _ _ _ => true
  | .xRenqAck _ _ _ _ => true
  | .xFence _ _ _ => true
  | .addi _ _ _ _ => true
  | .andi _ _ _ _ => true
  | .ori _ _ _ _ => true
  | .xori _ _ _ _ => true
  | .shli _ _ _ _ => true
  | .shri _ _ _ _ => true
  | .srai _ _ _ _ => true
  | .cmpi _ _ _ _ _ => true
  | .aAddi _ _ _ => true
  | .csrR _ n => csrDefined n
  | .csrW n _ _ => csrDefined n
  | .csrX _ _ _ n => csrDefined n
  | .lih _ _ => true
  | .lim _ _ => true
  | .lit _ _ => true
  | .ldI8 _ _ _ _ _ => true
  | .ldN8 _ _ _ _ _ => true
  | .ldI16 _ _ _ _ _ => true
  | .ldN16 _ _ _ _ _ => true
  | .ldI32 _ _ _ _ _ => true
  | .ldN32 _ _ _ _ _ => true
  | .ld64 _ _ _ _ _ => true
  | .ldp d _ _ _ _ => decide (d.toNat % 2 = 0)
  | .st8 _ _ _ _ _ _ => true
  | .st16 _ _ _ _ _ _ => true
  | .st32 _ _ _ _ _ _ => true
  | .st64 _ _ _ _ _ _ => true
  | .stp d _ _ _ _ _ => decide (d.toNat % 2 = 0)
  | .bkReq _ _ => true
  | .bkCancel _ _ _ => true
  | .bkStat _ _ _ => true
  | .bT _ _ _ => true
  | .bF _ _ _ => true
  | .j _ => true
  | .jal _ => true
  | .tView _ _ => true
  | .tMm _ _ _ _ => true
  | .tEw _ _ _ _ => true
  | .tRed _ _ _ => true
  | .tTr _ _ _ => true
  | .tCvt _ _ _ => true
  | .tPerm _ _ _ => true
  | .tSt _ _ _ => true
  | .tPub _ _ _ => true
  | .tap _ _ _ => true
  | .tDrop _ => true
  | .nop => true
  | .exit => true
  | .trap _ => true
  | .tret => true
  | .wake _ => true
  | .fence _ _ => true
  | .bar _ _ => true
  | .pub _ _ => true
  | .hint3C _ => true
  | .hint3D _ => true
  | .hint3E _ => true
  | .cpNest w c => cmdOk w c 1 true
  | .cpPack w c => cmdOk w c 2 true
  | .cpUnpack w c => cmdOk w c 3 true
  | .cpPermLoad w c => cmdOk w c 4 (opBit c 5)
  | .cpPermApply w c => cmdOk w c 4 (!opBit c 5)
  | .cpFill w c => cmdOk w c 5 true
  | .cpAmoAdd w c => cmdOk w c 6 (amoOp c 0)
  | .cpAmoMin w c => cmdOk w c 6 (amoOp c 1)
  | .cpAmoMax w c => cmdOk w c 6 (amoOp c 2)
  | .cpAmoAnd w c => cmdOk w c 6 (amoOp c 3)
  | .cpAmoOr w c => cmdOk w c 6 (amoOp c 4)
  | .cpAmoXor w c => cmdOk w c 6 (amoOp c 5)
  | .cpAmoXchg w c => cmdOk w c 6 (amoOp c 6)
  | .cpAmoCas w c => cmdOk w c 6 (amoOp c 7)
  | .mxWload w c => cmdOk w c 1 true
  | .mxRun w c => cmdOk w c 2 true
  | .mxZero w c => cmdOk w c 3 true
  | .mxMov w c => cmdOk w c 4 (!opBit c 3)
  | .mxMovRaw w c => cmdOk w c 4 (opBit c 3)
  | .mxMovin w c => cmdOk w c 5 true
  | .vLd w c => cmdOk w c 1 true
  | .vLds w c => cmdOk w c 2 true
  | .vLdx w c => cmdOk w c 3 true
  | .vSt w c => cmdOk w c 4 true
  | .vSts w c => cmdOk w c 5 true
  | .vStx w c => cmdOk w c 6 true
  | .vAdd w c => cmdOk w c 7 true
  | .vSub w c => cmdOk w c 8 true
  | .vMul w c => cmdOk w c 9 true
  | .vFma w c => cmdOk w c 10 true
  | .vFms w c => cmdOk w c 11 true
  | .vMin w c => cmdOk w c 12 true
  | .vMax w c => cmdOk w c 13 true
  | .vAbs w c => cmdOk w c 14 true
  | .vNeg w c => cmdOk w c 15 true
  | .vAnd w c => cmdOk w c 16 true
  | .vOr w c => cmdOk w c 17 true
  | .vXor w c => cmdOk w c 18 true
  | .vShl w c => cmdOk w c 19 true
  | .vShr w c => cmdOk w c 20 true
  | .vSra w c => cmdOk w c 21 true
  | .vCmp w c => cmdOk w c 22 true
  | .vSel w c => cmdOk w c 23 true
  | .vCvt w c => cmdOk w c 24 true
  | .vRed w c => cmdOk w c 25 true
  | .vScan w c => cmdOk w c 26 true
  | .vRcp w c => cmdOk w c 27 true
  | .vRsq w c => cmdOk w c 28 true
  | .vExp2 w c => cmdOk w c 29 true
  | .vLog2 w c => cmdOk w c 30 true
  | .vMov w c => cmdOk w c 31 true
  | .vBcast w c => cmdOk w c 32 true
  | .vPerm w c => cmdOk w c 33 true
  | .vmAnd w c => cmdOk w c 34 true
  | .vmOr w c => cmdOk w c 35 true
  | .vmNot w c => cmdOk w c 36 true
  | .saAdd w c => cmdOk w c 1 true
  | .saMin w c => cmdOk w c 2 true
  | .saMax w c => cmdOk w c 3 true
  | .saAnd w c => cmdOk w c 4 true
  | .saOr w c => cmdOk w c 5 true
  | .saXchg w c => cmdOk w c 6 true
  | .saFlush w c => cmdOk w c 7 true
  | .chNop w c => chainOk w c 0
  | .chLink w c => chainOk w c 1
  | .chMark w c => cmdOk w c 2 true
  | .commandRetire core _ _ => coreOk core
  | .markerRetire core _ => coreOk core
  | .templateSwap core _ => coreOk core
  | .steal thief owner _ _ => coreOk thief && coreOk owner && decide (thief / 4 = owner / 4) && decide (thief ≠ owner)
  | .walkinSuspend core _ => coreOk core
  | .loadDelivery _ _ => true
  | .windowAccessArrival _ => true
  | .windowStoreAck _ => true
  | .demandComplete core _ => coreOk core
  | .waitComplete core _ => coreOk core
  | .stallTimeout core _ => coreOk core
  | .promiseMiss core _ => coreOk core
  | .notice core _ => coreOk core
  | .bucketRefill core _ => coreOk core
  | .searchRound core _ => decide (core ≤ 512)
  | .hold m => m.ok
  | .held m => m.ok
  | .refused m => m.ok
  | .refusedFatal m => m.ok
  | .commit m => m.ok
  | .release m => m.ok
  | .cancel m => m.ok
  | .slip m => m.ok
  | .moved m => m.ok
  | .doneMsg m => m.ok
  | .unknownBookingMessage die type => dieOk die && (decide (type = 0) || decide (10 < type.toNat))
  | .holdExpiry cal => cal.ok
  | .useStart cal => cal.ok
  | .berthEnd cal => cal.ok
  | .overrunYield cal => cal.ok
  | .runningUseStop cal => cal.ok
  | .bkuFailstop die => dieOk die
  | .calendarPoison cal => cal.ok
  | .dieReset die => dieOk die
  | .packageReset => true
  | .barrierCompletionAtDie _ die => dieOk die
  | .sluiceGroupRelease _ _ => true
  | .rampStep core => coreOk core
  | .engineGate core _ => coreOk core
  | .ungateComplete core _ => coreOk core
  | .preBerthUngate core _ => coreOk core
  | .saeEntryApply _ => true
  | .atomicApply _ => true
  | .homeWriteApply _ => true
  | .dieCopyInvalidation _ die => dieOk die
  | .dieCopyEvict die _ => dieOk die
  | .cardRead q => queueOk q
  | .gangPlacement q => queueOk q
  | .checkpointComplete core => coreOk core
  | .resume _ => true
  | .chunkAsk core => coreOk core
  | .runStart core => coreOk core
  | .retirement core => coreOk core
  | .firmwareUpdateRequest _ => true
  | .saveAreaRestore => true
  | .wr p => p.ok
  | .rd p => p.ok
  | .rdrsp p => p.ok
  | .amo p => p.ok
  | .amorsp p => p.ok
  | .ack p => p.ok
  | .nak p => p.ok
  | .unknownOpc port p => portOk port && p.ok
  | .renq p => p.ok
  | .renqAns p => p.ok
  | .renqAckTimeout core => coreOk core
  | .fenceMsg p => p.ok
  | .fenceFtmoExpiry _ => true
  | .fenceAns p => p.ok
  | .fenceAnswerTimeout _ => true
  | .manifest p => p.ok
  | .manifestAnswer p => p.ok
  | .postAnswerTimeout _ => true
  | .roundTimeout _ _ => true
  | .grant p => p.ok
  | .exchangeCopy _ => true
  | .exchangeCopyEnd _ => true
  | .pairReport p => p.ok
  | .roundEnd p => p.ok
  | .abandon p => p.ok
  | .heartbeatTimer => true
  | .heartbeat p => p.ok
  | .takeoverTimeout => true
  | .takeover p => p.ok
  | .barMsg p => p.ok
  | .timeMsg p => p.ok
  | .flitSend port => portOk port
  | .flitReceive port f => portOk port && f.ok
  | .replayRequest port _ => portOk port
  | .keymark port f => portOk port && f.ok
  | .portLaneShed port lanes => portOk port && (decide (lanes = 4) || decide (lanes = 2))
  | .portWidthRegain port => portOk port
  | .railClockChange die quad _ => dieOk die && decide (quad < 16) && decide (die < 8)
  | .trip1 die _ => dieOk die
  | .trip1Clear die _ => dieOk die
  | .trip2 die _ => dieOk die
  | .trip2Clear die _ => dieOk die
  | .trip3 die _ => dieOk die
  | .trip4 die _ => dieOk die
  | .sramEccError core _ _ _ => coreOk core
  | .securityAlarm => true
  | .rootOfTrustBoot _ _ => true
  | .attestationQuote _ => true
  | .fcsrWrite core _ _ => coreOk core
  | .issWrite core _ _ => coreOk core
  | .icInvWrite core _ => coreOk core
  | .dcInvWrite core _ => coreOk core
  | .uctlWrite core _ => coreOk core
  | .ctxuDatAccess core _ => coreOk core
  | .qBaseWrite core _ _ _ => coreOk core
  | .qStatFltClear core _ _ => coreOk core
  | .tkAccess core _ _ => coreOk core
  | .caskScrWrite core _ => coreOk core
  | .meCadenceWrite core _ => coreOk core
  | .xlatInvWrite core _ => coreOk core
  | .barPodnWrite _ => true
  | .lqBaseWrite q _ => queueOk q
  | .lqTailDoorbell q _ => queueOk q
  | .lqCtlWrite q _ => queueOk q
  | .clpCtlWrite port _ => portOk port
  | .clpSaltWrite port _ _ => portOk port
  | .registerWrite core _ n _ => coreOk core && (if n < 4096 then csrDefined (BitVec.ofNat 12 n) else spaceOffset n)
  | .illegal _ check => decide (1 ≤ check) && decide (check ≤ 4)
  | .fetchFault _ => true
  | .decodeFault w _ cause => coreOk w.core && (decide (cause = 1) || decide (cause = 2) || decide (cause = 3) || decide (cause = 4))
  | .correctedSingleBitError die => dieOk die

end Sys2Proof
end

