-- ==== Sys2Proof/Decode.lean ====
section
/-!
DEFINITION. The decoder and the encoder. A word decodes to an instruction or to the number of the first failing check of
R97 (1 to 4; checks 5 and 6, delay slot and privilege, need the state and stand with the meanings). Patch words build a
command on a template (R111), and a built command decodes to a constructor or to an inner cause of R112.
-/

namespace Sys2Proof

/-- Bits [lo + len - 1 : lo] of a word (R3). -/
def bits (w : W32) (lo len : Nat) : BitVec len := BitVec.ofNat len (w.toNat / 2 ^ lo)

/-- One bit of a word. -/
def bit (w : W32) (i : Nat) : Bool := w.toNat / 2 ^ i % 2 = 1

/-- What the decoder answers: an instruction, or the check of R97 that fails. -/
abbrev Decoded := Except Nat Instr

/-- Check 4 of R97: a 6-bit field names an address register only below 16 (R92). -/
def withAReg (f : BitVec 6) (k : AReg → Decoded) : Decoded :=
  if f.toNat < 16 then k (BitVec.ofNat 4 f.toNat) else .error 4

/-- A field that must hold a value of a named set: check 3 of R97 where it does not. -/
def withField {α : Type} (x : Option α) (k : α → Decoded) : Decoded :=
  match x with
  | some v => k v
  | none => .error 3

/-- The scope of an encoding; 6 and 7 are reserved values (R28). -/
def scopeOf (n : Nat) : Option Scope :=
  match n with
  | 0 => some .lane | 1 => some .core | 2 => some .quad | 3 => some .die | 4 => some .pkg | 5 => some .pod | _ => none

/-- The order of an `ord` field (R94). -/
def ordOf (n : Nat) : Option MemOrd :=
  match n with
  | 0 => some .relaxed | 1 => some .acqRel | 2 => some .sc | _ => none

/-- Conditions of R157. -/
def condOf (n : Nat) : Option Cond :=
  match n with
  | 0 => some .eq | 1 => some .ne | 2 => some .lt | 3 => some .ge | 4 => some .ltn | 5 => some .gen | _ => none

/-- Conditions of R160. -/
def acondOf (n : Nat) : Option ACond :=
  match n with
  | 0 => some .eq | 1 => some .ne | 4 => some .ltn | 5 => some .gen | _ => none

/-- Conditions of R181. -/
def fcondOf (n : Nat) : Option FCond :=
  match n with
  | 0 => some .eq | 1 => some .ne | 2 => some .lt | 3 => some .le | 4 => some .gt | 5 => some .ge | 6 => some .un
  | 7 => some .ord | _ => none

/-- Rounding fields of R106. -/
def froundOf (n : Nat) : Option FRound :=
  match n with
  | 0 => some .rne | 1 => some .rtz | 2 => some .rup | 3 => some .rdn | 4 => some .dyn | _ => none

/-- Types of R107. -/
def cvtTypeOf (n : Nat) : Option CvtType :=
  match n with
  | 0 => some .f64 | 1 => some .f32 | 2 => some .i64 | 3 => some .n64 | 4 => some .i32 | 5 => some .n32 | _ => none

/-- Fence kinds of R109. -/
def fenceKindOf (n : Nat) : FenceKind :=
  match n with
  | 0 => .acq | 1 => .rel | 2 => .ar | _ => .sc

/-- Engines of R108. -/
def engOf (n : Nat) : Option Eng :=
  match n with
  | 0 => some .ce | 1 => some .me | 2 => some .ve | 3 => some .sae | _ => none

/-- Major opcode INT (R103). -/
def decodeInt (w : W32) : Decoded :=
  let d := bits w 20 6
  let a := bits w 14 6
  let b := bits w 8 6
  let fa := bit w 7
  let fb := bit w 6
  match w.toNat % 64 with
  | 0 => .ok (.add d a b fa fb)
  | 1 => .ok (.sub d a b fa fb)
  | 2 => .ok (.mul d a b fa fb)
  | 3 => .ok (.mulh d a b fa fb)
  | 4 => .ok (.mulhn d a b fa fb)
  | 5 => .ok (.div d a b fa fb)
  | 6 => .ok (.divn d a b fa fb)
  | 7 => .ok (.rem d a b fa fb)
  | 8 => .ok (.remn d a b fa fb)
  | 9 => .ok (.iAnd d a b fa fb)
  | 10 => .ok (.iOr d a b fa fb)
  | 11 => .ok (.iXor d a b fa fb)
  | 12 => .ok (.andn d a b fa fb)
  | 13 => .ok (.shl d a b fa fb)
  | 14 => .ok (.shr d a b fa fb)
  | 15 => .ok (.sra d a b fa fb)
  | 16 => .ok (.rotl d a b fa fb)
  | 17 => .ok (.iMin d a b fa fb)
  | 18 => .ok (.iMax d a b fa fb)
  | 19 => .ok (.minn d a b fa fb)
  | 20 => .ok (.maxn d a b fa fb)
  | 21 => .ok (.clz d a fa)
  | 22 => .ok (.ctz d a fa)
  | 23 => .ok (.popc d a fa)
  | 24 => .ok (.sext d a b fa fb)
  | 25 => .ok (.zext d a b fa fb)
  | 26 => .ok (.bfx d a b fa fb)
  | 27 => .ok (.bfi d a b fa fb)
  | fn => if 56 ≤ fn then .ok (.sel (BitVec.ofNat 3 fn) d a b fa fb) else .error 2

/-- Major opcode PRED (R104). -/
def decodePred (w : W32) : Decoded :=
  let d := bits w 20 3
  let a := bits w 14 3
  let b := bits w 8 3
  match w.toNat % 64 with
  | 0 => .ok (.pAnd d a b)
  | 1 => .ok (.pOr d a b)
  | 2 => .ok (.pXor d a b)
  | 3 => .ok (.pNot d a)
  | 4 => .ok (.pMov d a)
  | 16 => withField (condOf (bits w 23 3).toNat) fun c => .ok (.cmp c d (bits w 14 6) (bits w 8 6) (bit w 7) (bit w 6))
  | _ => .error 2

/-- Major opcode ADDR (R105). -/
def decodeAddr (w : W32) : Decoded :=
  let d := bits w 20 6
  let a := bits w 14 6
  let b := bits w 8 6
  let fa := bit w 7
  let fb := bit w 6
  match w.toNat % 64 with
  | 0 => withAReg d fun d => withAReg a fun a => .ok (.aAdd d a b fb)
  | 1 => withAReg d fun d => withAReg a fun a => .ok (.aLea2 d a b fb)
  | 2 => withAReg d fun d => withAReg a fun a => .ok (.aLea4 d a b fb)
  | 3 => withAReg d fun d => withAReg a fun a => .ok (.aLea8 d a b fb)
  | 4 => withAReg d fun d => withAReg a fun a => .ok (.aLea16 d a b fb)
  | 8 => withAReg d fun d => withAReg a fun a => .ok (.aMov d a)
  | 9 => withAReg d fun d => .ok (.aMovScalar d a b fa fb)
  | 10 => withAReg a fun a => .ok (.aGet d a)
  | 11 => withAReg a fun a => .ok (.aGetHi d a)
  | 16 => withField (acondOf (bits w 23 3).toNat) fun c => withAReg a fun a => withAReg b fun b =>
      .ok (.aCmp c (bits w 20 3) a b)
  | _ => .error 2

/-- Major opcode FP64 (R106): the operation is assigned for every fn[2:0], and the rounding field is checked. -/
def decodeFp64 (w : W32) : Decoded :=
  let d := bits w 20 6
  let a := bits w 14 6
  let b := bits w 8 6
  let fa := bit w 7
  let fb := bit w 6
  withField (froundOf (bits w 3 3).toNat) fun r =>
    match w.toNat % 8 with
    | 0 => .ok (.faddF64 r d a b fa fb)
    | 1 => .ok (.fsubF64 r d a b fa fb)
    | 2 => .ok (.fmulF64 r d a b fa fb)
    | 3 => .ok (.fmaF64 r d a b fa fb)
    | 4 => .ok (.fdivF64 r d a b fa fb)
    | 5 => .ok (.fsqrtF64 r d a fa)
    | 6 => .ok (.fminF64 r d a b fa fb)
    | _ => .ok (.fmaxF64 r d a b fa fb)

/-- Major opcode FP32 (R106): the operation is assigned for every fn[2:0], and the rounding field is checked. -/
def decodeFp32 (w : W32) : Decoded :=
  let d := bits w 20 6
  let a := bits w 14 6
  let b := bits w 8 6
  let fa := bit w 7
  let fb := bit w 6
  withField (froundOf (bits w 3 3).toNat) fun r =>
    match w.toNat % 8 with
    | 0 => .ok (.faddF32 r d a b fa fb)
    | 1 => .ok (.fsubF32 r d a b fa fb)
    | 2 => .ok (.fmulF32 r d a b fa fb)
    | 3 => .ok (.fmaF32 r d a b fa fb)
    | 4 => .ok (.fdivF32 r d a b fa fb)
    | 5 => .ok (.fsqrtF32 r d a fa)
    | 6 => .ok (.fminF32 r d a b fa fb)
    | _ => .ok (.fmaxF32 r d a b fa fb)

/-- Major opcode FPX (R107). -/
def decodeFpx (w : W32) : Decoded :=
  let d := bits w 20 6
  let a := bits w 14 6
  let b := bits w 8 6
  let fa := bit w 7
  let fb := bit w 6
  let fn := w.toNat % 64
  if fn ≤ 4 then
    withField (froundOf fn) fun r => withField (cvtTypeOf (bits w 11 3).toNat) fun t =>
      withField (cvtTypeOf (bits w 8 3).toNat) fun u =>
        if t.isInt && u.isInt then .error 3 else .ok (.fcvt r t u d a fa)
  else
    match fn with
    | 8 => .ok (.fclassF64 d a fa)
    | 9 => .ok (.fclassF32 d a fa)
    | 16 => withField (fcondOf (bits w 23 3).toNat) fun c => .ok (.fcmpF64 c (bits w 20 3) a b fa fb)
    | 17 => withField (fcondOf (bits w 23 3).toNat) fun c => .ok (.fcmpF32 c (bits w 20 3) a b fa fb)
    | _ => .error 2

/-- Major opcode MISC (R108). -/
def decodeMisc (w : W32) : Decoded :=
  let d := bits w 20 6
  let a := bits w 14 6
  match w.toNat % 64 with
  | 0 => .ok (.feClr d)
  | 1 => .ok (.feSet d)
  | 2 => .ok (.feTst (bits w 20 3) a)
  | 8 => withAReg a fun a => .ok (.wait d a (bits w 8 6) (bit w 6))
  | _ => .error 2

/-- Major opcode QUEUE (R108): reserved values are judged before the address register. -/
def decodeQueue (w : W32) : Decoded :=
  let d := bits w 20 6
  let a := bits w 14 6
  let b := (bits w 8 6).toNat
  match w.toNat % 64 with
  | 0 => withField (engOf b) fun e => withAReg a fun a => .ok (.qTail e a)
  | 1 => if bits w 8 4 = 0 then .error 3 else .ok (.qMark (bits w 8 4) a (bit w 7))
  | 2 => withField (engOf b) fun e => .ok (.qSeq d e)
  | 3 => withField (engOf b) fun e => withAReg a fun a => .ok (.tmplLd d e a)
  | 8 => if a.toNat < 32 then .ok (.omClaim (bits w 14 5)) else .error 3
  | 9 => if a.toNat < 32 then .ok (.omRel (bits w 14 5)) else .error 3
  | _ => .error 2

/-- Major opcode JREG (R108). -/
def decodeJreg (w : W32) : Decoded :=
  let d := bits w 20 6
  let a := bits w 14 6
  match w.toNat % 64 with
  | 0 => withAReg a fun a => .ok (.jr a)
  | 1 => withAReg d fun d => withAReg a fun a => .ok (.jalr d a)
  | _ => .error 2

/-- Major opcode FAB (R108). -/
def decodeFab (w : W32) : Decoded :=
  let d := bits w 20 6
  let a := bits w 14 6
  let b := bits w 8 6
  match w.toNat % 64 with
  | 0 => withAReg a fun a => .ok (.xPost d a)
  | 1 => .ok (.xWait d a (bit w 7))
  | 2 => withAReg a fun a => .ok (.xRenq d a b (bit w 6))
  | 3 => withAReg a fun a => .ok (.xRenqAck d a b (bit w 6))
  | 4 => .ok (.xFence d a (bit w 7))
  | _ => .error 2

/-- Major opcode BOOK (R80). -/
def decodeBook (w : W32) : Decoded :=
  let d := bits w 20 6
  let a := bits w 14 6
  match w.toNat % 64 with
  | 0 => withAReg a fun a => .ok (.bkReq d a)
  | 1 => .ok (.bkCancel d a (bit w 7))
  | 2 => .ok (.bkStat d a (bit w 7))
  | _ => .error 2

/-- The MEM format (R91, R102): scope and order are checked in every access; an odd d of `ldp` and `stp` is reserved. -/
def decodeMem (w : W32) (pair : Bool) (k : Reg → AReg → Bool → Scope → MemOrd → BitVec 10 → Instr) : Decoded :=
  withField (scopeOf (bits w 12 3).toNat) fun sc => withField (ordOf (bits w 10 2).toNat) fun o =>
    if pair && bit w 20 then .error 3 else .ok (k (bits w 20 6) (bits w 16 4) (bit w 15) sc o (bits w 0 10))

/-- A register number that a chapter defines (R102). -/
def withCsr (w : W32) (k : BitVec 12 → Instr) : Decoded :=
  if csrDefined (bits w 0 12) then .ok (k (bits w 0 12)) else .error 3

/-- The TILE format (R102): variant 0 is the only assigned one. -/
def decodeTile (w : W32) (k : Hnd → Hnd → Hnd → AReg → Instr) : Decoded :=
  if w.toNat % 16 = 0 then .ok (k (bits w 20 6) (bits w 14 6) (bits w 8 6) (bits w 4 4)) else .error 2

/-- Major opcode SYS (R109). -/
def decodeSys (w : W32) : Decoded :=
  match (bits w 16 10).toNat with
  | 0x000 => .ok .nop
  | 0x001 => .ok .exit
  | 0x002 => .ok (.trap (bits w 0 16))
  | 0x003 => .ok .tret
  | 0x004 => .ok (.wake (bits w 0 4))
  | 0x010 => withField (scopeOf (bits w 2 3).toNat) fun sc => .ok (.fence (fenceKindOf (bits w 0 2).toNat) sc)
  | 0x011 => withField (scopeOf (bits w 4 3).toNat) fun sc => .ok (.bar (bits w 0 4) sc)
  | 0x012 => withField (scopeOf (bits w 4 3).toNat) fun sc => .ok (.pub (bits w 0 4) sc)
  | _ => .error 2

/-- The decoder of instruction words (R91 to R109). -/
def decodeWord (w : W32) : Decoded :=
  let d := bits w 20 6
  let a := bits w 14 6
  let imm := bits w 0 13
  let fa := bit w 13
  match w.toNat / 2 ^ 26 with
  | 0x01 => decodeInt w
  | 0x02 => decodePred w
  | 0x04 => decodeAddr w
  | 0x05 => decodeFp64 w
  | 0x06 => decodeFp32 w
  | 0x07 => decodeFpx w
  | 0x08 => decodeMisc w
  | 0x0A => decodeQueue w
  | 0x0B => decodeJreg w
  | 0x0C => decodeFab w
  | 0x10 => .ok (.addi d a fa imm)
  | 0x11 => .ok (.andi d a fa imm)
  | 0x12 => .ok (.ori d a fa imm)
  | 0x13 => .ok (.xori d a fa imm)
  | 0x14 => .ok (.shli d a fa (bits w 0 6))
  | 0x15 => .ok (.shri d a fa (bits w 0 6))
  | 0x16 => .ok (.srai d a fa (bits w 0 6))
  | 0x17 => withField (condOf (bits w 23 3).toNat) fun c => .ok (.cmpi c (bits w 20 3) a fa imm)
  | 0x18 => withAReg d fun d => withAReg a fun a => .ok (.aAddi d a imm)
  | 0x19 => withCsr w fun n => .csrR d n
  | 0x1A => withCsr w fun n => .csrW n a fa
  | 0x1B => withCsr w fun n => .csrX d a fa n
  | 0x1C => .ok (.lih d (bits w 0 20))
  | 0x1D => .ok (.lim d (bits w 0 20))
  | 0x1E => .ok (.lit d (bits w 0 12))
  | 0x20 => decodeMem w false fun d a _ sc o off => .ldI8 d a sc o off
  | 0x21 => decodeMem w false fun d a _ sc o off => .ldN8 d a sc o off
  | 0x22 => decodeMem w false fun d a _ sc o off => .ldI16 d a sc o off
  | 0x23 => decodeMem w false fun d a _ sc o off => .ldN16 d a sc o off
  | 0x24 => decodeMem w false fun d a _ sc o off => .ldI32 d a sc o off
  | 0x25 => decodeMem w false fun d a _ sc o off => .ldN32 d a sc o off
  | 0x26 => decodeMem w false fun d a _ sc o off => .ld64 d a sc o off
  | 0x27 => decodeMem w true fun d a _ sc o off => .ldp d a sc o off
  | 0x28 => decodeMem w false .st8
  | 0x29 => decodeMem w false .st16
  | 0x2A => decodeMem w false .st32
  | 0x2B => decodeMem w false .st64
  | 0x2D => decodeMem w true .stp
  | 0x2C => decodeBook w
  | 0x2E => .ok (if bit w 22 then .bF (bits w 23 3) (bit w 21) (bits w 0 21) else .bT (bits w 23 3) (bit w 21) (bits w 0 21))
  | 0x2F => .ok (if bit w 25 then .jal (bits w 0 25) else .j (bits w 0 25))
  | 0x30 => decodeTile w fun kd _ _ a => .tView kd a
  | 0x31 => decodeTile w .tMm
  | 0x32 => decodeTile w .tEw
  | 0x33 => decodeTile w fun kd ka _ a => .tRed kd ka a
  | 0x34 => decodeTile w fun kd ka _ a => .tTr kd ka a
  | 0x35 => decodeTile w fun kd ka _ a => .tCvt kd ka a
  | 0x36 => decodeTile w fun kd ka _ a => .tPerm kd ka a
  | 0x37 => decodeTile w fun kv kc _ a => .tSt kv kc a
  | 0x38 => decodeTile w fun kv kc _ a => .tPub kv kc a
  | 0x39 => decodeTile w fun kv kc _ a => .tap kv kc a
  | 0x3A => decodeTile w fun kd _ _ _ => .tDrop kd
  | 0x3B => decodeSys w
  | 0x3C => .ok (.hint3C (bits w 0 26))
  | 0x3D => .ok (.hint3D (bits w 0 26))
  | 0x3E => .ok (.hint3E (bits w 0 26))
  | _ => .error 1

/-- The instruction that the decoder reads from a word of `nbits` bits numbered as the opcode table numbers them. Every
word of the N8 has 32 bits (R90); bits above `nbits` are zero. -/
def decodeTableWord (nbits w : Nat) : Option Instr :=
  match decodeWord (BitVec.ofNat 32 (w % 2 ^ nbits)) with
  | .ok i => some i
  | .error _ => none

/-! ### Patch words and commands -/

/-- A patch word's template index (R110). -/
def patchT (w : W32) : Nat := w.toNat / 2 ^ 26
/-- A patch word's field. -/
def patchF (w : W32) : Nat := w.toNat / 2 ^ 21 % 32
/-- A patch word's CONT bit: the command continues in the next word. -/
def patchCont (w : W32) : Bool := bit w 20
/-- A patch word's value. -/
def patchValue (w : W32) : W16 := bits w 0 16
/-- A patch word (R110). -/
def patchWord (t f : Nat) (cont : Bool) (v : W16) : W32 :=
  BitVec.ofNat 32 (t % 64 * 2 ^ 26 + f % 32 * 2 ^ 21 + (if cont then 2 ^ 20 else 0) + v.toNat)

/-- The build of a command on template `t` (R111): every word must name the template of the first, and field 31 is never
amended. The error is the inner cause BAD_CHAIN. -/
def buildCmd (base : Tmpl) (t : Nat) : List W32 → Except Byte Tmpl
  | [] => .ok base
  | w :: ws =>
    if patchT w ≠ t then .error 0x02
    else buildCmd (if patchF w = 31 then base else base.put 0 (patchF w) (patchValue w)) t ws

/-- A field of a command (R113). -/
def Tmpl.fld (c : Tmpl) (i : Nat) : W16 := c.get 0 i

/-- The operation code OP[15:8] (R113). -/
def Tmpl.code (c : Tmpl) : Nat := (c.fld 0).toNat / 256

/-- A bit of OP[7:0]. -/
def Tmpl.flag (c : Tmpl) (i : Nat) : Bool := (c.fld 0).toNat / 2 ^ i % 2 = 1

/-- The decoder of built commands (R115, R116): the row the operation code names, or the inner cause of R112. SCOPE 6 and 7
are reserved values (R200). `chain` says that the command was built on template 63. -/
def decodeCmd (e : Eng) (chain : Bool) (w : CmdAt) (c : Tmpl) : Except Byte Instr :=
  if chain then
    match c.code with
    | 0 => .ok (.chNop w c)
    | 1 => .ok (.chLink w c)
    | 2 => if 6 ≤ (c.fld 0).toNat % 8 then .error 0x03 else .ok (.chMark w c)
    | _ => .error 0x01
  else
    match cmdRow e c with
    | .error x => .error x
    | .ok k => if 6 ≤ (c.fld 0).toNat % 8 then .error 0x03 else .ok (k w c)
where
  /-- The row of an operation code, by engine. -/
  cmdRow (e : Eng) (c : Tmpl) : Except Byte (CmdAt → Tmpl → Instr) :=
    match e, c.code with
    | .ce, 0x01 => .ok .cpNest
    | .ce, 0x02 => .ok .cpPack
    | .ce, 0x03 => .ok .cpUnpack
    | .ce, 0x04 => if c.flag 5 then .ok .cpPermLoad else .ok .cpPermApply
    | .ce, 0x05 => .ok .cpFill
    | .ce, 0x06 =>
      match (c.fld 24).toNat % 16 with
      | 0 => .ok .cpAmoAdd
      | 1 => .ok .cpAmoMin
      | 2 => .ok .cpAmoMax
      | 3 => .ok .cpAmoAnd
      | 4 => .ok .cpAmoOr
      | 5 => .ok .cpAmoXor
      | 6 => .ok .cpAmoXchg
      | 7 => .ok .cpAmoCas
      | _ => .error 0x03
    | .me, 0x01 => .ok .mxWload
    | .me, 0x02 => .ok .mxRun
    | .me, 0x03 => .ok .mxZero
    | .me, 0x04 => if c.flag 3 then .ok .mxMovRaw else .ok .mxMov
    | .me, 0x05 => .ok .mxMovin
    | .ve, 0x01 => .ok .vLd
    | .ve, 0x02 => .ok .vLds
    | .ve, 0x03 => .ok .vLdx
    | .ve, 0x04 => .ok .vSt
    | .ve, 0x05 => .ok .vSts
    | .ve, 0x06 => .ok .vStx
    | .ve, 0x07 => .ok .vAdd
    | .ve, 0x08 => .ok .vSub
    | .ve, 0x09 => .ok .vMul
    | .ve, 0x0A => .ok .vFma
    | .ve, 0x0B => .ok .vFms
    | .ve, 0x0C => .ok .vMin
    | .ve, 0x0D => .ok .vMax
    | .ve, 0x0E => .ok .vAbs
    | .ve, 0x0F => .ok .vNeg
    | .ve, 0x10 => .ok .vAnd
    | .ve, 0x11 => .ok .vOr
    | .ve, 0x12 => .ok .vXor
    | .ve, 0x13 => .ok .vShl
    | .ve, 0x14 => .ok .vShr
    | .ve, 0x15 => .ok .vSra
    | .ve, 0x16 => .ok .vCmp
    | .ve, 0x17 => .ok .vSel
    | .ve, 0x18 => .ok .vCvt
    | .ve, 0x19 => .ok .vRed
    | .ve, 0x1A => .ok .vScan
    | .ve, 0x1B => .ok .vRcp
    | .ve, 0x1C => .ok .vRsq
    | .ve, 0x1D => .ok .vExp2
    | .ve, 0x1E => .ok .vLog2
    | .ve, 0x1F => .ok .vMov
    | .ve, 0x20 => .ok .vBcast
    | .ve, 0x21 => .ok .vPerm
    | .ve, 0x22 => .ok .vmAnd
    | .ve, 0x23 => .ok .vmOr
    | .ve, 0x24 => .ok .vmNot
    | .sae, 0x01 => .ok .saAdd
    | .sae, 0x02 => .ok .saMin
    | .sae, 0x03 => .ok .saMax
    | .sae, 0x04 => .ok .saAnd
    | .sae, 0x05 => .ok .saOr
    | .sae, 0x06 => .ok .saXchg
    | .sae, 0x07 => .ok .saFlush
    | _, _ => .error 0x01

/-- What a command of the chain names: its engine and its built fields (template 63 for chain control). -/
def encodeCmd (i : Instr) : Option (Option Eng × Tmpl) :=
  match i with
  | .cpNest _ c => some (some .ce, c)
  | .cpPack _ c => some (some .ce, c)
  | .cpUnpack _ c => some (some .ce, c)
  | .cpPermLoad _ c => some (some .ce, c)
  | .cpPermApply _ c => some (some .ce, c)
  | .cpFill _ c => some (some .ce, c)
  | .cpAmoAdd _ c => some (some .ce, c)
  | .cpAmoMin _ c => some (some .ce, c)
  | .cpAmoMax _ c => some (some .ce, c)
  | .cpAmoAnd _ c => some (some .ce, c)
  | .cpAmoOr _ c => some (some .ce, c)
  | .cpAmoXor _ c => some (some .ce, c)
  | .cpAmoXchg _ c => some (some .ce, c)
  | .cpAmoCas _ c => some (some .ce, c)
  | .mxWload _ c => some (some .me, c)
  | .mxRun _ c => some (some .me, c)
  | .mxZero _ c => some (some .me, c)
  | .mxMov _ c => some (some .me, c)
  | .mxMovRaw _ c => some (some .me, c)
  | .mxMovin _ c => some (some .me, c)
  | .vLd _ c => some (some .ve, c)
  | .vLds _ c => some (some .ve, c)
  | .vLdx _ c => some (some .ve, c)
  | .vSt _ c => some (some .ve, c)
  | .vSts _ c => some (some .ve, c)
  | .vStx _ c => some (some .ve, c)
  | .vAdd _ c => some (some .ve, c)
  | .vSub _ c => some (some .ve, c)
  | .vMul _ c => some (some .ve, c)
  | .vFma _ c => some (some .ve, c)
  | .vFms _ c => some (some .ve, c)
  | .vMin _ c => some (some .ve, c)
  | .vMax _ c => some (some .ve, c)
  | .vAbs _ c => some (some .ve, c)
  | .vNeg _ c => some (some .ve, c)
  | .vAnd _ c => some (some .ve, c)
  | .vOr _ c => some (some .ve, c)
  | .vXor _ c => some (some .ve, c)
  | .vShl _ c => some (some .ve, c)
  | .vShr _ c => some (some .ve, c)
  | .vSra _ c => some (some .ve, c)
  | .vCmp _ c => some (some .ve, c)
  | .vSel _ c => some (some .ve, c)
  | .vCvt _ c => some (some .ve, c)
  | .vRed _ c => some (some .ve, c)
  | .vScan _ c => some (some .ve, c)
  | .vRcp _ c => some (some .ve, c)
  | .vRsq _ c => some (some .ve, c)
  | .vExp2 _ c => some (some .ve, c)
  | .vLog2 _ c => some (some .ve, c)
  | .vMov _ c => some (some .ve, c)
  | .vBcast _ c => some (some .ve, c)
  | .vPerm _ c => some (some .ve, c)
  | .vmAnd _ c => some (some .ve, c)
  | .vmOr _ c => some (some .ve, c)
  | .vmNot _ c => some (some .ve, c)
  | .saAdd _ c => some (some .sae, c)
  | .saMin _ c => some (some .sae, c)
  | .saMax _ c => some (some .sae, c)
  | .saAnd _ c => some (some .sae, c)
  | .saOr _ c => some (some .sae, c)
  | .saXchg _ c => some (some .sae, c)
  | .saFlush _ c => some (some .sae, c)
  | .chNop _ c => some (none, c)
  | .chLink _ c => some (none, c)
  | .chMark _ c => some (none, c)
  | _ => none

/-! ### The encoder of instruction words -/

/-- An RR word (R91). -/
def rr (op : Nat) (d a b : Nat) (fa fb : Bool) (fn : Nat) : W32 :=
  BitVec.ofNat 32 (op * 2 ^ 26 + d * 2 ^ 20 + a * 2 ^ 14 + b * 2 ^ 8 + (if fa then 2 ^ 7 else 0) + (if fb then 2 ^ 6 else 0) + fn)

/-- An RI word (R91). -/
def ri (op : Nat) (d a : Nat) (fa : Bool) (imm : Nat) : W32 :=
  BitVec.ofNat 32 (op * 2 ^ 26 + d * 2 ^ 20 + a * 2 ^ 14 + (if fa then 2 ^ 13 else 0) + imm)

/-- An LI word (R91). -/
def li (op d imm : Nat) : W32 := BitVec.ofNat 32 (op * 2 ^ 26 + d * 2 ^ 20 + imm)

/-- The encoding of an order (R94). -/
def MemOrd.code : MemOrd → Nat
  | .relaxed => 0 | .acqRel => 1 | .sc => 2

/-- A MEM word (R91). -/
def memWord (op d a : Nat) (fa : Bool) (sc : Scope) (o : MemOrd) (off : Nat) : W32 :=
  BitVec.ofNat 32 (op * 2 ^ 26 + d * 2 ^ 20 + a * 2 ^ 16 + (if fa then 2 ^ 15 else 0) + sc.code * 2 ^ 12 + o.code * 2 ^ 10 + off)

/-- A BR word (R91). -/
def brWord (p : Nat) (inv hint : Bool) (off : Nat) : W32 :=
  BitVec.ofNat 32 (0x2E * 2 ^ 26 + p * 2 ^ 23 + (if inv then 2 ^ 22 else 0) + (if hint then 2 ^ 21 else 0) + off)

/-- A TILE word (R91). -/
def tileWord (op kd ka kb a : Nat) : W32 := BitVec.ofNat 32 (op * 2 ^ 26 + kd * 2 ^ 20 + ka * 2 ^ 14 + kb * 2 ^ 8 + a * 2 ^ 4)

/-- A SYS word (R91). -/
def sysWord (fn imm : Nat) : W32 := BitVec.ofNat 32 (0x3B * 2 ^ 26 + fn * 2 ^ 16 + imm)

/-- The encoding of a condition (R157). -/
def Cond.code : Cond → Nat
  | .eq => 0 | .ne => 1 | .lt => 2 | .ge => 3 | .ltn => 4 | .gen => 5

/-- The encoding of an address condition (R160). -/
def ACond.code : ACond → Nat
  | .eq => 0 | .ne => 1 | .ltn => 4 | .gen => 5

/-- The encoding of an FP condition (R181). -/
def FCond.code : FCond → Nat
  | .eq => 0 | .ne => 1 | .lt => 2 | .le => 3 | .gt => 4 | .ge => 5 | .un => 6 | .ord => 7

/-- The encoding of a rounding field (R106). -/
def FRound.code : FRound → Nat
  | .rne => 0 | .rtz => 1 | .rup => 2 | .rdn => 3 | .dyn => 4

/-- The encoding of a conversion type (R107). -/
def CvtType.code : CvtType → Nat
  | .f64 => 0 | .f32 => 1 | .i64 => 2 | .n64 => 3 | .i32 => 4 | .n32 => 5

/-- The encoding of a fence kind (R109). -/
def FenceKind.code : FenceKind → Nat
  | .acq => 0 | .rel => 1 | .ar => 2 | .sc => 3

/-- The word of an instruction of the control sequencer, reserved fields zero; commands and steps of the hardware have no
word. -/
def encode (i : Instr) : Option W32 :=
  match i with
  | .add d a b fa fb => some (rr 1 d.toNat a.toNat b.toNat fa fb 0)
  | .sub d a b fa fb => some (rr 1 d.toNat a.toNat b.toNat fa fb 1)
  | .mul d a b fa fb => some (rr 1 d.toNat a.toNat b.toNat fa fb 2)
  | .mulh d a b fa fb => some (rr 1 d.toNat a.toNat b.toNat fa fb 3)
  | .mulhn d a b fa fb => some (rr 1 d.toNat a.toNat b.toNat fa fb 4)
  | .div d a b fa fb => some (rr 1 d.toNat a.toNat b.toNat fa fb 5)
  | .divn d a b fa fb => some (rr 1 d.toNat a.toNat b.toNat fa fb 6)
  | .rem d a b fa fb => some (rr 1 d.toNat a.toNat b.toNat fa fb 7)
  | .remn d a b fa fb => some (rr 1 d.toNat a.toNat b.toNat fa fb 8)
  | .iAnd d a b fa fb => some (rr 1 d.toNat a.toNat b.toNat fa fb 9)
  | .iOr d a b fa fb => some (rr 1 d.toNat a.toNat b.toNat fa fb 10)
  | .iXor d a b fa fb => some (rr 1 d.toNat a.toNat b.toNat fa fb 11)
  | .andn d a b fa fb => some (rr 1 d.toNat a.toNat b.toNat fa fb 12)
  | .shl d a b fa fb => some (rr 1 d.toNat a.toNat b.toNat fa fb 13)
  | .shr d a b fa fb => some (rr 1 d.toNat a.toNat b.toNat fa fb 14)
  | .sra d a b fa fb => some (rr 1 d.toNat a.toNat b.toNat fa fb 15)
  | .rotl d a b fa fb => some (rr 1 d.toNat a.toNat b.toNat fa fb 16)
  | .iMin d a b fa fb => some (rr 1 d.toNat a.toNat b.toNat fa fb 17)
  | .iMax d a b fa fb => some (rr 1 d.toNat a.toNat b.toNat fa fb 18)
  | .minn d a b fa fb => some (rr 1 d.toNat a.toNat b.toNat fa fb 19)
  | .maxn d a b fa fb => some (rr 1 d.toNat a.toNat b.toNat fa fb 20)
  | .clz d a fa => some (rr 1 d.toNat a.toNat 0 fa false 21)
  | .ctz d a fa => some (rr 1 d.toNat a.toNat 0 fa false 22)
  | .popc d a fa => some (rr 1 d.toNat a.toNat 0 fa false 23)
  | .sext d a b fa fb => some (rr 1 d.toNat a.toNat b.toNat fa fb 24)
  | .zext d a b fa fb => some (rr 1 d.toNat a.toNat b.toNat fa fb 25)
  | .bfx d a b fa fb => some (rr 1 d.toNat a.toNat b.toNat fa fb 26)
  | .bfi d a b fa fb => some (rr 1 d.toNat a.toNat b.toNat fa fb 27)
  | .sel n d a b fa fb => some (rr 1 d.toNat a.toNat b.toNat fa fb (56 + n.toNat))
  | .pAnd d a b => some (rr 2 d.toNat a.toNat b.toNat false false 0)
  | .pOr d a b => some (rr 2 d.toNat a.toNat b.toNat false false 1)
  | .pXor d a b => some (rr 2 d.toNat a.toNat b.toNat false false 2)
  | .pNot d a => some (rr 2 d.toNat a.toNat 0 false false 3)
  | .pMov d a => some (rr 2 d.toNat a.toNat 0 false false 4)
  | .cmp c d a b fa fb => some (rr 2 (c.code * 8 + d.toNat) a.toNat b.toNat fa fb 16)
  | .aAdd d a b fb => some (rr 4 d.toNat a.toNat b.toNat false fb 0)
  | .aLea2 d a b fb => some (rr 4 d.toNat a.toNat b.toNat false fb 1)
  | .aLea4 d a b fb => some (rr 4 d.toNat a.toNat b.toNat false fb 2)
  | .aLea8 d a b fb => some (rr 4 d.toNat a.toNat b.toNat false fb 3)
  | .aLea16 d a b fb => some (rr 4 d.toNat a.toNat b.toNat false fb 4)
  | .aMov d a => some (rr 4 d.toNat a.toNat 0 false false 8)
  | .aMovScalar d a b fa fb => some (rr 4 d.toNat a.toNat b.toNat fa fb 9)
  | .aGet d a => some (rr 4 d.toNat a.toNat 0 false false 10)
  | .aGetHi d a => some (rr 4 d.toNat a.toNat 0 false false 11)
  | .aCmp c d a b => some (rr 4 (c.code * 8 + d.toNat) a.toNat b.toNat false false 16)
  | .faddF64 r d a b fa fb => some (rr 5 d.toNat a.toNat b.toNat fa fb (r.code * 8 + 0))
  | .fsubF64 r d a b fa fb => some (rr 5 d.toNat a.toNat b.toNat fa fb (r.code * 8 + 1))
  | .fmulF64 r d a b fa fb => some (rr 5 d.toNat a.toNat b.toNat fa fb (r.code * 8 + 2))
  | .fmaF64 r d a b fa fb => some (rr 5 d.toNat a.toNat b.toNat fa fb (r.code * 8 + 3))
  | .fdivF64 r d a b fa fb => some (rr 5 d.toNat a.toNat b.toNat fa fb (r.code * 8 + 4))
  | .fsqrtF64 r d a fa => some (rr 5 d.toNat a.toNat 0 fa false (r.code * 8 + 5))
  | .fminF64 r d a b fa fb => some (rr 5 d.toNat a.toNat b.toNat fa fb (r.code * 8 + 6))
  | .fmaxF64 r d a b fa fb => some (rr 5 d.toNat a.toNat b.toNat fa fb (r.code * 8 + 7))
  | .faddF32 r d a b fa fb => some (rr 6 d.toNat a.toNat b.toNat fa fb (r.code * 8 + 0))
  | .fsubF32 r d a b fa fb => some (rr 6 d.toNat a.toNat b.toNat fa fb (r.code * 8 + 1))
  | .fmulF32 r d a b fa fb => some (rr 6 d.toNat a.toNat b.toNat fa fb (r.code * 8 + 2))
  | .fmaF32 r d a b fa fb => some (rr 6 d.toNat a.toNat b.toNat fa fb (r.code * 8 + 3))
  | .fdivF32 r d a b fa fb => some (rr 6 d.toNat a.toNat b.toNat fa fb (r.code * 8 + 4))
  | .fsqrtF32 r d a fa => some (rr 6 d.toNat a.toNat 0 fa false (r.code * 8 + 5))
  | .fminF32 r d a b fa fb => some (rr 6 d.toNat a.toNat b.toNat fa fb (r.code * 8 + 6))
  | .fmaxF32 r d a b fa fb => some (rr 6 d.toNat a.toNat b.toNat fa fb (r.code * 8 + 7))
  | .fcvt r t u d a fa => some (rr 7 d.toNat a.toNat (t.code * 8 + u.code) fa false r.code)
  | .fclassF64 d a fa => some (rr 7 d.toNat a.toNat 0 fa false 8)
  | .fclassF32 d a fa => some (rr 7 d.toNat a.toNat 0 fa false 9)
  | .fcmpF64 c d a b fa fb => some (rr 7 (c.code * 8 + d.toNat) a.toNat b.toNat fa fb 16)
  | .fcmpF32 c d a b fa fb => some (rr 7 (c.code * 8 + d.toNat) a.toNat b.toNat fa fb 17)
  | .feClr d => some (rr 8 d.toNat 0 0 false false 0)
  | .feSet d => some (rr 8 d.toNat 0 0 false false 1)
  | .feTst d a => some (rr 8 d.toNat a.toNat 0 false false 2)
  | .wait d a b fb => some (rr 8 d.toNat a.toNat b.toNat false fb 8)
  | .qTail e a => some (rr 10 0 a.toNat e.code false false 0)
  | .qMark m a fa => some (rr 10 0 a.toNat m.toNat fa false 1)
  | .qSeq d e => some (rr 10 d.toNat 0 e.code false false 2)
  | .tmplLd d e a => some (rr 10 d.toNat a.toNat e.code false false 3)
  | .omClaim n => some (rr 10 0 n.toNat 0 false false 8)
  | .omRel n => some (rr 10 0 n.toNat 0 false false 9)
  | .jr a => some (rr 11 0 a.toNat 0 false false 0)
  | .jalr d a => some (rr 11 d.toNat a.toNat 0 false false 1)
  | .xPost d a => some (rr 12 d.toNat a.toNat 0 false false 0)
  | .xWait d a fa => some (rr 12 d.toNat a.toNat 0 fa false 1)
  | .xRenq d a b fb => some (rr 12 d.toNat a.toNat b.toNat false fb 2)
  | .xRenqAck d a b fb => some (rr 12 d.toNat a.toNat b.toNat false fb 3)
  | .xFence d a fa => some (rr 12 d.toNat a.toNat 0 fa false 4)
  | .addi d a fa imm => some (ri 16 d.toNat a.toNat fa imm.toNat)
  | .andi d a fa imm => some (ri 17 d.toNat a.toNat fa imm.toNat)
  | .ori d a fa imm => some (ri 18 d.toNat a.toNat fa imm.toNat)
  | .xori d a fa imm => some (ri 19 d.toNat a.toNat fa imm.toNat)
  | .shli d a fa sh => some (ri 20 d.toNat a.toNat fa sh.toNat)
  | .shri d a fa sh => some (ri 21 d.toNat a.toNat fa sh.toNat)
  | .srai d a fa sh => some (ri 22 d.toNat a.toNat fa sh.toNat)
  | .cmpi c d a fa imm => some (ri 23 (c.code * 8 + d.toNat) a.toNat fa imm.toNat)
  | .aAddi d a imm => some (ri 24 d.toNat a.toNat false imm.toNat)
  | .csrR d n => some (ri 25 d.toNat 0 false n.toNat)
  | .csrW n a fa => some (ri 26 0 a.toNat fa n.toNat)
  | .csrX d a fa n => some (ri 27 d.toNat a.toNat fa n.toNat)
  | .lih d imm => some (li 28 d.toNat imm.toNat)
  | .lim d imm => some (li 29 d.toNat imm.toNat)
  | .lit d imm => some (li 30 d.toNat imm.toNat)
  | .ldI8 d a sc o off => some (memWord 32 d.toNat a.toNat false sc o off.toNat)
  | .ldN8 d a sc o off => some (memWord 33 d.toNat a.toNat false sc o off.toNat)
  | .ldI16 d a sc o off => some (memWord 34 d.toNat a.toNat false sc o off.toNat)
  | .ldN16 d a sc o off => some (memWord 35 d.toNat a.toNat false sc o off.toNat)
  | .ldI32 d a sc o off => some (memWord 36 d.toNat a.toNat false sc o off.toNat)
  | .ldN32 d a sc o off => some (memWord 37 d.toNat a.toNat false sc o off.toNat)
  | .ld64 d a sc o off => some (memWord 38 d.toNat a.toNat false sc o off.toNat)
  | .ldp d a sc o off => some (memWord 39 d.toNat a.toNat false sc o off.toNat)
  | .st8 d a fa sc o off => some (memWord 40 d.toNat a.toNat fa sc o off.toNat)
  | .st16 d a fa sc o off => some (memWord 41 d.toNat a.toNat fa sc o off.toNat)
  | .st32 d a fa sc o off => some (memWord 42 d.toNat a.toNat fa sc o off.toNat)
  | .st64 d a fa sc o off => some (memWord 43 d.toNat a.toNat fa sc o off.toNat)
  | .stp d a fa sc o off => some (memWord 45 d.toNat a.toNat fa sc o off.toNat)
  | .bkReq d a => some (rr 44 d.toNat a.toNat 0 false false 0)
  | .bkCancel d a fa => some (rr 44 d.toNat a.toNat 0 fa false 1)
  | .bkStat d a fa => some (rr 44 d.toNat a.toNat 0 fa false 2)
  | .bT n hint off => some (brWord n.toNat false hint off.toNat)
  | .bF n hint off => some (brWord n.toNat true hint off.toNat)
  | .j off => some (BitVec.ofNat 32 (0x2F * 2 ^ 26 + 0 + off.toNat))
  | .jal off => some (BitVec.ofNat 32 (0x2F * 2 ^ 26 + 2 ^ 25 + off.toNat))
  | .tView kd a => some (tileWord 48 kd.toNat 0 0 a.toNat)
  | .tMm kd ka kb a => some (tileWord 49 kd.toNat ka.toNat kb.toNat a.toNat)
  | .tEw kd ka kb a => some (tileWord 50 kd.toNat ka.toNat kb.toNat a.toNat)
  | .tRed k l a => some (tileWord 51 k.toNat l.toNat 0 a.toNat)
  | .tTr k l a => some (tileWord 52 k.toNat l.toNat 0 a.toNat)
  | .tCvt k l a => some (tileWord 53 k.toNat l.toNat 0 a.toNat)
  | .tPerm k l a => some (tileWord 54 k.toNat l.toNat 0 a.toNat)
  | .tSt k l a => some (tileWord 55 k.toNat l.toNat 0 a.toNat)
  | .tPub k l a => some (tileWord 56 k.toNat l.toNat 0 a.toNat)
  | .tap k l a => some (tileWord 57 k.toNat l.toNat 0 a.toNat)
  | .tDrop kd => some (tileWord 58 kd.toNat 0 0 0)
  | .nop => some (sysWord 0 0)
  | .exit => some (sysWord 1 0)
  | .trap n => some (sysWord 2 n.toNat)
  | .tret => some (sysWord 3 0)
  | .wake m => some (sysWord 4 m.toNat)
  | .fence k sc => some (sysWord 16 (sc.code * 4 + k.code))
  | .bar n sc => some (sysWord 17 (sc.code * 16 + n.toNat))
  | .pub a sc => some (sysWord 18 (sc.code * 16 + a.toNat))
  | .hint3C payload => some (BitVec.ofNat 32 (60 * 2 ^ 26 + payload.toNat))
  | .hint3D payload => some (BitVec.ofNat 32 (61 * 2 ^ 26 + payload.toNat))
  | .hint3E payload => some (BitVec.ofNat 32 (62 * 2 ^ 26 + payload.toNat))
  | _ => none

end Sys2Proof
end

