-- ==== Sys2Proof/Machine/State.lean ====
section
/-!
DEFINITION. The state of one N8 package as plain data, the faults and refusals a step can end in, and the state right after
package reset. Sparse storage is an `FMap` whose default is the reset value of the entry.
-/

namespace Sys2Proof.Machine

/-- Why the machine stops with a fault. -/
inductive Fault where
  /-- No step of this model raises it: every fault of the manual is a trap, an engine fault or a status that the machine
  records and goes on from. Safe: nothing ends here. -/
  | none
deriving DecidableEq, Repr

/-- Why the model gives no next state. -/
inductive Refusal where
  /-- Raised by Sys2Proof/Machine/Dispatch.lean for a row without a meaning. Safe: the machine stops. -/
  | notModelled (mnemonic : String)
deriving DecidableEq, Repr

/-! ### Scalar state -/

/-- Causes of a trap (R435). -/
inductive Cause where
  | illegal | illegalSlot | priv | tretCtx | feEmpty | align | page | prot | stall | promiseMiss | caskFull | caskFault
  | engineFault | bookFail | countMismatch | fabricNak | notice | ecc | tmplCrc | swTrap
deriving DecidableEq, Repr

/-- `ECAUSE.CODE` (R435). -/
def Cause.code : Cause → Nat
  | .illegal => 0x01 | .illegalSlot => 0x02 | .priv => 0x03 | .tretCtx => 0x04 | .feEmpty => 0x05 | .align => 0x06
  | .page => 0x07 | .prot => 0x08 | .stall => 0x09 | .promiseMiss => 0x0A | .caskFull => 0x0B | .caskFault => 0x0C
  | .engineFault => 0x0D | .bookFail => 0x0E | .countMismatch => 0x0F | .fabricNak => 0x10 | .notice => 0x11
  | .ecc => 0x12 | .tmplCrc => 0x13 | .swTrap => 0x16

/-- A trap to take: its cause and EINFO0 to EINFO3 (R435). -/
structure Trap where
  cause : Cause
  e0 : W64
  e1 : W64
  e2 : W64
  e3 : W64
deriving DecidableEq, Repr

/-- The state of a scalar register (R129). -/
inductive FE where
  | full | pending | empty
deriving DecidableEq, Repr

/-- A mark on a full register: the trap that its first reader takes (R169, R231, R408, R417, R443). A faulted mark names
the engine and sequence number of its command, since a fault reported elsewhere is not reported again. -/
structure Mark where
  trap : Trap
  of : Option (Eng × Nat)
deriving DecidableEq, Repr

/-- A window allowance (R232). -/
structure Wallow where
  ref : Nat
  out : Nat
  limit : Nat
deriving DecidableEq, Repr

/-- An issue bucket (R141): `per` is the field, the refill period less one; `last` is the tick the running period began. -/
structure Bucket where
  per : Nat
  rate : Nat
  cap : Nat
  bal : Nat
  debt : Nat
  last : Nat
deriving DecidableEq, Repr

/-- A notice not yet taken (R446). -/
structure Notice where
  kind : BitVec 8
  merged : Nat
  cadence : Nat
  mhz : Nat
  at_ : Nat
deriving DecidableEq, Repr

/-- A condition of a `wait` (R146). -/
structure WaitCond where
  kind : Nat
  sel : Nat
  value : W64
deriving DecidableEq, Repr

/-- An instruction that has begun and holds its context (R145, R298, R413). Its word is at the PC still. -/
inductive HeldOp where
  /-- A `wait` (R147): destination, all-of, conditions, time-out, start tick. -/
  | wait (d : Reg) (allOf : Bool) (conds : List WaitCond) (lim : Nat) (start : Nat)
  /-- A demand (R298), or a word whose alias check or table has to force tiles first (R306, R308). -/
  | demand
  /-- The forcing of such a word is done: the same issue of the word goes on, with the descriptors that it has read (R279). -/
  | resumed (descs : List (VAddr × List Byte))
  /-- A `q.tail` that has made its first checks waits, and goes on behind them (R202). -/
  | tailed
  /-- An `x.renq.ack` whose answer is outstanding (R411): destination, tag, deadline, target word, card address. -/
  | renq (d : Reg) (tag : Nat) (deadline : Nat) (t : W64) (card : VAddr)
deriving DecidableEq, Repr

/-- The state of one context (R127, R133). `slot` is the pending target while the next word is a delay slot (R98);
`blocked` says that the word at the PC was tried and waits, and is the model's own; `scLast` are
the sc stores that later loads have to follow (R370). -/
structure Ctx where
  s : FMap W64
  fe : FMap FE
  mark : FMap (Option Mark)
  a : FMap VAddr
  p : FMap Bool
  pc : VAddr
  slot : Option VAddr
  ih : Bool
  ds : Bool
  nv : Bool
  dz : Bool
  of : Bool
  uf : Bool
  nx : Bool
  rm : RMode
  tvec : W64
  sstatus : W64
  epc : W64
  etgt : W64
  ecause : W64
  einfo0 : W64
  einfo1 : W64
  einfo2 : W64
  einfo3 : W64
  stallCnt : Nat
  wallowQ : Wallow
  wallowD : Wallow
  wallowX : Wallow
  bucket : Bucket
  noticeLeft : Nat
  notice : Option Notice
  scLast : List (Nat × Scope)
  op : Option HeldOp
  halted : Bool
  blocked : Bool
deriving DecidableEq, Repr

/-! ### Engine queues -/

/-- What stands at a place of a queue: a command, a marker placed by `q.mark` (R207), or a link that is not followed
(R116). -/
inductive EntryKind where
  | cmd
  | qmark (n : Nat)
  | badLink
deriving DecidableEq, Repr

/-- A published and unretired entry of a queue (R199 to R212). `seq` is its completion sequence number, 0 where it takes
none. `wseq` is the write-sequence value of its `q.tail` (R304), 0 where firmware published it, `fw` the context that did,
`prom` the promise or result register found by `q.tail` (`promOn` says there is one), `found` the OP[3] and PREG that it found, `value` the SAE value (R393). The
fields from `built` on are its progress: the built command, the start tick, the place inside the command, the destination
bytes written since its last tile boundary (R214), its writes and operations, what else its release follows, a fault, and why it retires
without effect. -/
structure Entry where
  kind : EntryKind
  seq : Nat
  pub : Nat
  addr : VAddr
  words : List W32
  wseq : Nat
  fw : Bool
  prom : Reg
  promOn : Bool
  found : Bool × Nat := (false, 0)
  value : W64
  built : Option Tmpl
  started : Option Nat
  pos : Nat
  since : Nat
  done : Bool
  void : Bool
  stop : Bool
  susp : Bool
  thief : Option Nat
  writes : List Nat
  after : List Nat
  refused : Option (Nat × Byte × W64)
  fault : Option (Byte × W64)
  result : W64
deriving DecidableEq, Repr

/-- A template load that has not swapped (R117 to R119): context, destination, result word, and the shadow plane. -/
structure TmplLoad where
  fw : Bool
  d : Reg
  result : W64
  plane : FMap Tmpl
deriving DecidableEq, Repr

/-- Gating of an engine (R465). -/
inductive Gate where
  | awake
  | gated
  | ungating (until_ : Nat)
deriving DecidableEq, Repr

/-- A fault of a queue not yet cleared (R443, R444); `slot` is the chunk-bitmap slot of the faulting copy. -/
structure FaultRep where
  seq : Nat
  thief : Option Nat
  cause : Byte
  addr : W64
  slot : Option Nat
  reported : Bool
deriving DecidableEq, Repr

/-- Bytes that a command has moved over a path (R237): its number, the path's latency and rate. -/
structure Move where
  seq : Nat
  lat : Nat
  rate : Nat
  bytes : Nat
deriving DecidableEq, Repr

/-- One engine of a core with its queue (R197, R198). `partialAddr` is the read address: every published word before it on the
chain is read; `partialWords` are published words that are not yet a whole command; `linkStop` says that a faulty link stops reading (R116); `retired` are numbers retired above `done`;
`rep` are its faults, oldest first; `moved` is what its commands have moved, and `wide` says that one of them released at die scope or wider (R364). -/
structure Engine where
  done : Nat
  base : VAddr
  tail : VAddr
  cw : VAddr
  mkr : Nat
  mkv : Bool
  tmplf : Bool
  tmplRes : W64
  flt : Bool
  cause : Byte
  q : List Entry
  partialAddr : VAddr
  partialWords : List W32
  linkStop : Bool
  counted : Nat
  retired : List Nat
  tmpl : FMap Tmpl
  loads : List TmplLoad
  gate : Gate
  idleFrom : Nat
  rep : List FaultRep
  moved : List Move
  wide : Bool
deriving DecidableEq, Repr

/-- A chunk-bitmap slot (R216, R217); `wide` says that its bits were released at die scope or wider (R364). -/
structure BmapSlot where
  bits : W64
  promise : Nat
  holder : Option Nat
  wide : Bool
deriving DecidableEq, Repr

/-! ### Casks -/

/-- An entry of an index map (R286). -/
structure MapEnt where
  sel : Nat
  coef : Int
  off : Int
deriving DecidableEq, Repr

/-- A view descriptor (R281). `ext` are extents, `str` byte strides of dims 0 to 5. -/
structure ViewDesc where
  acc : Bool
  base : VAddr
  fmt : Nat
  rank : Nat
  ext : List Nat
  str : List Int
  scl : VAddr
deriving DecidableEq, Repr

/-- Operations of a cask (R288). -/
inductive CaskOp where
  | mm | ew | red | tr | cvt | perm
deriving DecidableEq, Repr

/-- An operation descriptor (R285) with its maps. `kext` is the reduction extent. -/
structure OpDesc where
  op : CaskOp
  ofmt : Nat
  rank : Nat
  mode : RMode
  sat : Bool
  fn : Nat
  tbl : Option Nat
  ext : List Nat
  kext : Nat
  maps : List (List MapEnt)
deriving DecidableEq, Repr

/-- What a cask table entry records of its descriptor. -/
inductive CaskDesc where
  | view (v : ViewDesc)
  | op (o : OpDesc)
deriving DecidableEq, Repr

/-- A memo tile (R292): its tile coordinates, PIN, byte offset in the scratch area, and the order of its last use. -/
structure MemoTile where
  key : List Nat
  pin : Bool
  off : Nat
  used : Nat
deriving DecidableEq, Repr

/-- States of a cask table entry that is not FREE (R272). -/
inductive CaskState where
  | view | pending | materialised
deriving DecidableEq, Repr

/-- A cask table entry that is not FREE (R273). -/
structure Cask where
  st : CaskState
  age : Nat
  pc : VAddr
  seq : Nat
  depth : Nat
  src : List Nat
  desc : CaskDesc
  memo : List MemoTile
deriving DecidableEq, Repr

/-- What a demand in progress has to do (R294, R305, R308, R310): a box to a view, or tiles to force and pin. -/
inductive DemandWork where
  | box (kv kc ev ec : Nat) (tap pub : Bool) (box : List Byte) (org ext : List Nat) (scope : Nat)
  | pin
  | materialise (entries : List Nat)
deriving DecidableEq, Repr

/-- A pass of `t.mm` on the forced lane (R300, R316): the entry it is forced for, its rows, row cost and weight format. -/
structure FPass where
  entry : Nat
  rows : Nat
  q : Nat
  fmt : Nat
deriving DecidableEq, Repr

/-- A use of the expander's own chains (R300): calendar, WITH or AFTER its predecessors, declared duration, predecessors, its pass,
and the tile (entry and key) that is computed with it. -/
structure ForcedUse where
  cal : Cal
  withLink : Bool
  dur : Nat
  pred : Nat
  pass : Option FPass
  tile : Option (Nat × List Nat)
deriving DecidableEq, Repr

/-- A chain of forced work that has been submitted (R300): its booking, its uses, and the tiles to compute when they are over. -/
structure ChainRun where
  id : Nat
  uses : List ForcedUse
  todo : List (Nat × List Nat)
deriving DecidableEq, Repr

/-- A demand, or other forced work, in progress (R298, R305): its context, its work, the chains still to submit and those
submitted, the berth after the last one, its write-sequence value, the tiles to pin (by entry) and the tiles it needs (R297), the
tiles of its box computed and not memoised, the places of staged ones (R296), the box tiles it has written, whether it has sent
every write, the failure of a write, the first tile in forcing order that has failed (R312), and the descriptors that its word has
read (R279). -/
structure Demand where
  fw : Bool
  work : DemandWork
  chains : List (List ForcedUse)
  runs : List ChainRun
  after : Nat
  wseq : Nat
  pins : List (Nat × List (List Nat))
  need : List (Nat × List Nat)
  held : List (List Nat × List Byte)
  staging : Bool
  stage : List (List Nat × Nat)
  done : List (List Nat)
  written : Bool
  bad : Option (Byte × W64)
  failed : Option ((Nat × List Nat) × Byte × W64)
  descs : List (VAddr × List Byte)
deriving DecidableEq, Repr

/-- Rows on their way into a lane of the matrix engine (R330, R389): rows still to enter, the tick in which the row slots of the last
one end, the row cost, and whether a row has entered. -/
structure Rows where
  left : Nat
  next : Nat
  q : Nat
  on : Bool
deriving DecidableEq, Repr

/-- The box tiles an interrupted demand of a context has written (R313): handles, entries, box descriptor words with the origin and
extents they give, tiles. -/
structure BoxDone where
  fw : Bool
  kv : Nat
  kc : Nat
  ev : Nat
  ec : Nat
  box : List Byte
  org : List Nat
  ext : List Nat
  tiles : List (List Nat)
deriving DecidableEq, Repr

/-! ### Bookings -/

/-- Status of a booking (R79). -/
inductive BookStatus where
  | held | refused | committed | cancelled | slipped | fatal | complete
deriving DecidableEq, Repr

/-- The answer of an owner in a round (R67). -/
inductive Answer where
  | own
  | waiting
  | held (exp : Nat)
  | refused (alt : Option Nat)
  | fatal
  | noRoute
deriving DecidableEq, Repr

/-- A use of a booking, as its requester knows it (R59, R61). `pkg` is 0x7FF for the own package. -/
structure BUse where
  cal : Cal
  pkg : Nat
  withLink : Bool
  dur : Nat
  pred : Nat
  floor : Nat
  first : Nat
  n : Nat
  ans : Answer
  fin : Bool
deriving DecidableEq, Repr

/-- A booking table entry (R78, R79), or a request in its rounds. `dest` is the `bk.req` destination still to be delivered;
`round` is the tick its running round began, or none while it waits; `next` is the first tick of its next round while it
waits, and in a round the tick at which it commits, or zero. `rebook` says that a resumed run books its unfinished uses
again (R76). -/
structure Booking where
  id : Nat
  status : BookStatus
  sub : Nat
  berth : Nat
  uses : List BUse
  order : Nat
  breq : Nat
  notBefore : Nat
  dest : Option (Bool × Reg)
  round : Option Nat
  next : Nat
  refusals : Nat
  rebook : Bool
deriving DecidableEq, Repr

/-- States of a calendar row that is not FREE or POISONED (R56). -/
inductive RowState where
  | held | booked | running
deriving DecidableEq, Repr

/-- Who a use belongs to (R55, R64): requesting package and core, booking identifier, use index. -/
structure UseId where
  pkg : Nat
  core : Nat
  hm : Bool
  xid : Nat
  use : Nat
deriving DecidableEq, Repr

/-- A calendar row (R55). -/
structure Row where
  st : RowState
  id : UseId
deriving DecidableEq, Repr

/-- A use as its owner knows it: its berths, its hold expiry while HELD, the tick it started, whether a command carries it,
a stop asked for, the ticks it has been declared for, and LINK. -/
structure OwnUse where
  id : UseId
  first : Nat
  n : Nat
  st : RowState
  exp : Nat
  start : Option Nat
  carried : Bool
  stop : Bool
  dur : Nat
  link : Bool
deriving DecidableEq, Repr

/-- A berth calendar (R55): rows by calendar row number, FREE where unlisted; the uses placed in it; POISONED; and the
berth whose end comes next. -/
structure Calendar where
  rows : FMap (Option Row)
  uses : List OwnUse
  poisoned : Bool
  berth : Nat
deriving DecidableEq, Repr

/-- A booking message on its way inside the package, or one of another package that waits at its unit: the die it comes from, 10 for
another package, and the die it goes to; when it arrives; its type and contents. -/
structure MsgF where
  src : Nat
  die : Nat
  due : Nat
  type_ : BookType
  msg : BookMsg
deriving DecidableEq, Repr

/-! ### Launching and runs -/

/-- A job card that passed its checks (R38). `asn` is its queue's; `prio` is PRIO of the card at a
queue, and the effective priority of a job (R40). -/
structure Card where
  addr : VAddr
  asn : Nat
  prio : Nat
  restart : Bool
  part_ : W32
  minchunk : Nat
  scope : Nat
  n : Nat
  entry : VAddr
  args : VAddr
  acnt : Nat
  rsize : Nat
  done : VAddr
deriving DecidableEq, Repr

/-- A launch queue (R33 to R35). `card` is the checked card at the head whose gang is
not placed yet. -/
structure LQueue where
  base : VAddr
  head : VAddr
  tail : VAddr
  tailHi : W64
  asn : Nat
  priocap : Nat
  owner : Bool
  en : Bool
  ign : Nat
  err : Nat
  stop : Bool
  card : Option Card
deriving DecidableEq, Repr

/-- A job being dealt, or whose runs still run (R43). `returned` are records that a kill gave back, `cores` the placed
cores of the gang in rising order, `members` the core of each member number, `again` records dealt after a kill,
`leaving` says its cores drain (R452). -/
structure Job where
  id : Nat
  q : Nat
  card : Card
  next : Nat
  returned : List Nat
  again : List Nat
  cores : List Nat
  members : List Nat
  leaving : Bool
deriving DecidableEq, Repr

/-- The run placed on a core (R44, R460). `saving` says that it is being checkpointed (R453). -/
structure Run where
  job : Nat
  idx : Nat
  member : Nat
  start : Nat
  released : Bool
  exited : Bool
  ckpted : Bool
  again : Bool
  cmm : Bool
  saving : Bool
deriving DecidableEq, Repr

/-- What firmware and management are told (R35, R431, R441, R448, R463, R467). -/
inductive Note where
  | trap (core : Nat) (cause : Cause) (pc : VAddr) (e0 e1 e2 e3 : W64)
  | ecc (core : Nat) (unit : Nat)
  | bkuEcc (die : Nat)
  | coreHalted (core : Nat)
  | hostInterrupt (q : Nat)
  | portDown (port : Nat)
  | keyShort (port : Nat)
  | bootRefused
  | alarm
  | updateReady
  | saveRefused
  | saveFailed
  | trip3
  | quote (sig : List Byte)
deriving DecidableEq, Repr

/-! ### Things in flight -/

/-- Where a write or a read goes: a home in this package (key of physical memory), a core's scratchpad, or another
package. -/
inductive Place where
  | home (key : Nat)
  | spad (core off : Nat)
  | remote (pkg : Nat) (pa : Nat)
  /-- A scratchpad byte of a core of another package. -/
  | rwin (pkg core off : Nat)
deriving DecidableEq, Repr

/-- The agent of a core that makes an access (R358): the scalar stream of a context, the program lane of an engine's queue,
or forced work. -/
inductive Agent where
  | scalar (fw : Bool)
  | lane (e : Eng)
  | forced
deriving DecidableEq, Repr

/-- Where a write comes from (R363): the die it was made on, its maker where that is an agent of this package, its number among
the writes of that die, and the vector clock it carries, one entry for each die. -/
structure Origin where
  die : Nat
  maker : Option (Nat × Agent)
  idx : Nat
  clock : FMap Nat
deriving DecidableEq, Repr

/-- A long-latency scalar load (R162): `data` is bound once it has arrived from a window or another package, with its error
state; `after` are the writes that must be performed first, each at a scope (R165, R370); `asked` says that its read has left
for the other package. -/
structure LoadF where
  core : Nat
  fw : Bool
  asn : Nat
  d : Reg
  size : Nat
  sext : Bool
  va : VAddr
  pc : VAddr
  place : Place
  ord : MemOrd
  scope : Scope
  after : List (Nat × Scope)
  due : Nat
  asked : Bool
  data : Option (List Byte)
  bad : Bool
  refused : Bool
  nak : Option Nat
  use : Option Nat
deriving DecidableEq, Repr

/-- A posted write on its way: a scalar store (R163), or a piece of an access of an engine (R229) with its command's number.
`after` are the accesses that must be performed first, each at a scope (R165). `win` names the allowance a scalar store counts
in: 0 quad, 1 die, 2 remote. `begun` says that another piece of its command has been applied to its 16-byte granule (R223). -/
structure StoreF where
  core : Nat
  agent : Agent
  seq : Nat
  place : Place
  va : VAddr
  bytes : List Byte
  ord : MemOrd
  scope : Scope
  after : List (Nat × Scope)
  win : Option Nat
  asn : Nat
  origin : Origin
  begun : Bool
deriving DecidableEq, Repr

/-- An atomic operation of a `cp.amo` on its way (R221, R375): `idx` is its number in the command; `asked` says that its
packet has left for another package. -/
structure AmoF where
  core : Nat
  seq : Nat
  idx : Nat
  op : Nat
  ty : Nat
  place : Place
  va : VAddr
  operand : Nat
  compare : Nat
  asn : Nat
  asked : Bool
  origin : Origin
deriving DecidableEq, Repr

/-- An entry that the SAE has sent (R395): contributions in arrival order; `lane` is the lane whose order holds. -/
structure SaeF where
  core : Nat
  seq : Nat
  op : Nat
  et : Nat
  place : Place
  va : VAddr
  vals : List Nat
  lane : Option Nat
  asn : Nat
  asked : Bool
  origin : Origin
deriving DecidableEq, Repr

/-- A read of another package's memory (R406) that a word's descriptor read, a command, or a page walk waits for: the answer is the
code of a NAK (257 a refusal, 258 uncorrectable bytes) or the data. `walk` is the 64 KiB page that a walk translates (R238, R244). -/
structure RemRead where
  core : Nat
  fw : Bool
  eng : Option (Eng × Nat)
  place : Place
  n : Nat
  nak : Nat
  data : Option (List Byte)
  walk : Option Nat := none
deriving DecidableEq, Repr

/-- What a write of firmware or the launch unit is part of (R35, R461): the completion record of a launch queue, for a refused card the
address at its head, which stays until the record is written (R39). -/
structure RecordOf where
  q : Nat
  card : Option VAddr
deriving DecidableEq, Repr

/-- A remote posted write whose ACK is outstanding (R408, R414): its agent, the allowance it counts in, its command, where it goes,
the address space it was translated in, and the completion record it is part of. -/
structure RemWrite where
  core : Nat
  agent : Agent
  win : Option Nat
  eng : Option (Eng × Nat)
  place : Place
  va : VAddr
  asn : Nat
  record : Option RecordOf := none
deriving DecidableEq, Repr

/-- A swapped page-table entry on its way to another package (R243): the write, the core that published and its scope, the physical
address and the new entry. -/
structure Swap where
  tag : Nat
  core : Nat
  scope : Scope
  pa : Nat
  e : W64
deriving DecidableEq, Repr

/-- Everything in flight that has a tag. -/
inductive Flight where
  | load (l : LoadF)
  | store (t : StoreF)
  | amo (a : AmoF)
  | sae (e : SaeF)
  /-- The acknowledgement of a window store (R230). -/
  | winAck (core : Nat) (fw : Bool) (win : Nat) (refused : Bool)
  /-- An invalidation of a line bound for a die, of the write `of` and its origin (R361, R363). -/
  | inval (line die of : Nat) (origin : Origin)
  /-- A remote posted write whose ACK is outstanding. -/
  | remoteWrite (w : RemWrite)
  /-- The answer to another package's write or atomic operation, whose invalidations are on their way here (R362). -/
  | owed (of : Nat) (p : Packet)
  /-- A read of another package's memory by a word or a command, which waits for it. -/
  | remoteRead (r : RemRead)
  /-- A barrier arrival of a user context that is counted once the accesses it releases are performed (R381). -/
  | arrive (core sc n : Nat) (after : List (Nat × Scope))
deriving DecidableEq, Repr

/-! ### Cores -/

/-- A translation held in a TLB (R244): address space, level's page shift, virtual page number, entry, and the physical address
of the entry. -/
structure TlbEnt where
  asn : Nat
  shift : Nat
  vpn : Nat
  pte : W64
  at_ : Nat
deriving DecidableEq, Repr

/-- A slot of operand memory (R319). -/
inductive SlotSt where
  | free | claimed | exp
deriving DecidableEq, Repr

/-- One core (R18, R133). `sram` is the pool of R22: vector units, accumulator units, then the scratchpad from offset 0;
`bad` and `omBad` are its 16-byte granules, and those of operand memory, whose contents are uncorrectable (R448). `plane`, `wv`,
`wfmt` and `kw` are of the program lane of the matrix engine, `fplane`, `fwv`, `fwfmt` and `facc` (four accumulator tiles) of the
forced lane (R316); `rows` and `frows` are the rows on their way into the lanes, `partEnd` the tick in which the running part of a
matrix command ends, `fuse` the booking and use of the forced pass under way; `tkWas` are the token counters as they stood before a register write of the
running cycle, which takes see from the next one on (R474); `acqSeen` is the count of acquires of its quad when its data cache was last
emptied (R144, R368); `unasked` counts the answers that nothing waited for (R412, R415); `rampRows` says that rows were injected in the running step of the ramp (R389), `rampTbl` is the ramp table as the engine took it at
its last step boundary (R391). -/
structure Core where
  user : Ctx
  firm : Ctx
  run : Bool
  ctxuIdx : BitVec 12
  dead : Bool
  part_ : W32
  est : Nat
  estAt : Nat
  asn : Nat
  root : Nat
  iva : W64
  tlb : List TlbEnt
  icache : List (Nat × W32)
  dcache : List (Nat × List Byte)
  sram : FMap Byte
  bad : List Nat
  omBad : List Nat
  masks : FMap (BitVec 512)
  maskBad : List Nat
  om : FMap Byte
  omSide : FMap Byte
  omSt : FMap SlotSt
  plane : FMap Byte
  wv : Bool
  wfmt : Nat
  kw : Nat
  cadence : Nat
  cadHeld : Option Nat
  ramp : Nat
  rampDown : Bool
  rampAt : Nat
  rampRows : Bool
  rampTbl : W32
  rows : Option Rows
  partEnd : Nat
  frows : Option Rows
  fuse : Option (Nat × Nat)
  fplane : FMap Byte
  fwv : Bool
  fwfmt : Nat
  facc : FMap Byte
  tk : FMap Nat
  tkWide : FMap Bool
  tkWas : FMap (Option Nat)
  acqSeen : Nat
  perm : FMap (List Nat)
  bmap : FMap BmapSlot
  bsel : Nat
  nomerge : Bool
  merge : Nat
  ovfTrap : Bool
  scrBase : Nat
  scrSize : Nat
  casks : FMap (Option Cask)
  hnds : FMap (Option Nat)
  age : Nat
  useClock : Nat
  demand : Option Demand
  forcing : List (Eng × Nat × Demand)
  boxDone : List BoxDone
  wseq : Nat
  books : List Booking
  idCtr : Nat
  bookOrder : Nat
  barSel : Nat
  barLast : FMap Nat
  barPend : FMap Bool
  barWant : FMap (List Nat)
  nakCount : Nat
  nakLast : Nat
  unasked : Nat
  cmm : Bool
  sent : FMap Nat
  eccCorr : Nat
  eccUnc : Nat
  eccUnit : Nat
  job : Option Nat
  lastJob : Option Nat
  chunk : List Nat
  task : Option Run
  clockStep : BitVec 2
  me : Engine
  ce : Engine
  ve : Engine
  sae : Engine
deriving DecidableEq, Repr

/-! ### Dies, ports, exchange, package -/

/-- One die (R13, R14): the calendars its BKU owns, the BKU's registers and request queue, and the shared registers; its
second-level TLB (R244); `seen` are writes whose invalidations were on their way when an agent of the die read the line at its home (R367);
the writes its agents have made, and its vector clock: the writes of each die that are known here to
happen before the next one (R363). -/
structure Die where
  cals : FMap Calendar
  holdTmo : Nat
  retryMax : Nat
  corr : Nat
  drop : Nat
  failstop : Bool
  slGroups : Nat
  slGap : Nat
  slMap : FMap W64
  ramp : W32
  drainMax : Nat
  ckptMax : Nat
  copies : FMap (List Byte)
  tj : Nat
  tlb : List TlbEnt
  seen : List Nat
  sent_ : Nat
  clock : FMap Nat
deriving DecidableEq, Repr

/-- A barrier counter of a gang in one scope instance (R380). `root`, `grp` and `need` are those of `BAR.PODN` as the episode
began (R388). -/
structure BarCtr where
  gang : Nat
  scope : Nat
  inst : Nat
  n : Nat
  arr : Nat
  ep : Nat
  root : Nat
  grp : Nat
  need : Nat
deriving DecidableEq, Repr

/-- A package or pod episode on its way from IOD0 to the compute dies (R383). -/
structure BarWave where
  tag : Nat
  gang : Nat
  scope : Nat
  n : Nat
  due : Nat
  dies : List Nat
deriving DecidableEq, Repr

/-- A sluice release under way on a die (R385): groups left, the registers as they stood at t0, the tick of the last group. -/
structure Sluice where
  tag : Nat
  die : Nat
  gang : Nat
  scope : Nat
  n : Nat
  t0 : Nat
  groups : Nat
  gap : Nat
  map : FMap W64
  left : List Nat
  last : Nat
deriving DecidableEq, Repr

/-- Arrivals of packages on a pod counter at the root (R383); `need` is NPKG as the episode began. -/
structure PodCtr where
  grp : Nat
  n : Nat
  need : Nat
  pkgs : List Nat
deriving DecidableEq, Repr

/-- A route (R402); `hops` 3 is unreachable. -/
structure Route where
  via : Nat
  port : Nat
  hops : Nat
deriving DecidableEq, Repr

/-- States of a key slot (R432). -/
inductive KeySt where
  | empty | loaded | active | retired
deriving DecidableEq, Repr

/-- A packet that a port is sending: its class and hop number, whether its first flit is still to come, and the bytes left. -/
structure TxPacket where
  vc : Nat
  hop : Nat
  first : Bool
  left : List Byte
deriving DecidableEq, Repr

/-- The key slots of the receiving direction of a port (R432): keys, SALTs and states. -/
structure RxKeys where
  key0 : FMap Byte
  key1 : FMap Byte
  salt0 : W64
  salt1 : W64
  st0 : KeySt
  st1 : KeySt
deriving DecidableEq, Repr

/-- The slots of a direction at reset (R434). -/
def RxKeys.reset : RxKeys := { key0 := [], key1 := [], salt0 := 0, salt1 := 0, st0 := .empty, st1 := .empty }

/-- A CL port (R430 to R434, R466): registers, sender and receiver of the link. `sent_` is the replay buffer in plaintext, from
the oldest unacknowledged flit; `line` are the flits that have left, `asks` the SEQs from which the receiver has asked for
replay. `key0` to `st1`, with `inv`, are the slots of the
sending direction, which `CLP.KSTAT` shows, and `rx` those of the receiving one (R432; log entry 51). -/
structure Port where
  en : Bool
  enc : Bool
  key0 : FMap Byte
  key1 : FMap Byte
  salt0 : W64
  salt1 : W64
  st0 : KeySt
  st1 : KeySt
  inv : Nat
  replay : Nat
  authf : Nat
  badopc : Nat
  rsvb : Nat
  seq : Nat
  rxSeq : Nat
  rx : RxKeys
  replaying : List Flit
  sent_ : List Flit
  tries : Nat
  trySeq : Nat
  switch_ : Bool
  down : Bool
  lanes : Nat
  lanesAt : Nat
  tx : List TxPacket
  line : List Flit
  asks : List Nat
  rxBytes : FMap (List Byte)
deriving DecidableEq, Repr

/-- A count fence at its source (R415): result register, target, bytes, deadline, PC. -/
structure FenceSrc where
  tag : Nat
  core : Nat
  fw : Bool
  d : Reg
  pkg : Nat
  n : Nat
  deadline : Nat
  pc : VAddr
  retire : Bool
deriving DecidableEq, Repr

/-- A count fence that waits at its target (R415). -/
structure FenceDst where
  tag : Nat
  ptag : Nat
  spkg : Nat
  score : Nat
  n : Nat
  deadline : Nat
deriving DecidableEq, Repr

/-- An `x.post` whose answer is outstanding (R420). -/
structure PostF where
  tag : Nat
  core : Nat
  fw : Bool
  d : Reg
  round : Nat
  deadline : Nat
deriving DecidableEq, Repr

/-- A record of a manifest (R419) with the route items that the posting package adds (R424). -/
structure ManRec where
  dst : Nat
  len : Nat
  post : Nat
  src : VAddr
  route : Route
  nbr : Option Nat
deriving DecidableEq, Repr

/-- A manifest (R419). -/
structure Manifest where
  pkg : Nat
  core : Nat
  grp : Nat
  round : Nat
  npart : Nat
  pscope : Nat
  rbase : VAddr
  rcap : Nat
  recs : List ManRec
deriving DecidableEq, Repr

/-- A pair of a tide (R423): source, destination, stream range and destination address. -/
structure TidePair where
  src : Nat
  dst : Nat
  lo : Nat
  hi : Nat
  addr : VAddr
deriving DecidableEq, Repr

/-- A tide and its booking (R424): `round` is the tick at which the running round of it began; `next` is the tick of its next round or
commit. The FLOOR of a use is its berth counted from the tide's first. -/
structure Tide where
  xid : Nat
  len : Nat
  berth : Nat
  pairs : List TidePair
  uses : List BUse
  committed : Bool
  dead : Bool
  refusals : Nat
  next : Nat
  round : Option Nat
deriving DecidableEq, Repr

/-- A round at the harbourmaster (R422 to R427). `sent_` are the bytes reported for each pair. -/
structure HmRound where
  grp : Nat
  round : Nat
  opened : Nat
  started : Bool
  mans : List Manifest
  tides : List Tide
  waitRep : Nat
  sent_ : List (Nat × Nat × Nat)
deriving DecidableEq, Repr

/-- A round that this package has posted (R420, R426): the manifest, its address, and the bytes each record has sent. -/
structure MyRound where
  grp : Nat
  round : Nat
  core : Nat
  asn : Nat
  addr : VAddr
  man : Manifest
  tag : Nat
  sent_ : FMap Nat
deriving DecidableEq, Repr

/-- An exchange copy at its source (R425); `writes` are the packets outstanding, with their places in the stream. -/
structure ExCopy where
  tag : Nat
  grp : Nat
  round : Nat
  core : Nat
  dst : Nat
  berth : Nat
  to_ : Nat
  lo : Nat
  hi : Nat
  pos : Nat
  addr : VAddr
  fin : Bool
  writes : List (Nat × Nat)
deriving DecidableEq, Repr

/-- An `x.wait` on a round (R428). -/
structure XWaitF where
  core : Nat
  fw : Bool
  d : Reg
  grp : Nat
  round : Nat
deriving DecidableEq, Repr

/-- A checkpointed run (R453, R454): its job, record, flags, where its record lies, the state it holds, and the barrier counters
(scope and number) whose episode was released to it since (R384). -/
structure Saved where
  job : Nat
  run : Run
  addr : Nat
  core : Core
  freed : List (Nat × Nat)
deriving DecidableEq, Repr

/-- Bytes of a completion record or a manifest that firmware still has to write, in parts (R426, R460): the record whose launch queue
stops where a part cannot be written. -/
structure Owed where
  of : Option RecordOf
  asn : Nat
  core : Nat
  parts : List (VAddr × List Byte)
deriving DecidableEq, Repr

/-- A save area in far memory (R50): its key, the queues and jobs and runs it records. Key zero, which lies in no far memory, says that
the last save failed (R463). -/
structure SaveArea where
  addr : Nat
  queues : FMap LQueue
  jobs : List Job
  runs : List Saved
deriving DecidableEq, Repr

/-- A save of the package in progress (R49, R463): where to, the queues as they stood, whether trip 3 asked for it, and
whether the area is written. -/
structure SaveReq where
  addr : Option Nat
  queues : FMap LQueue
  trip3 : Bool
  written : Bool
deriving DecidableEq, Repr

/-- What the schedule of the model does next (entry 3): a context fetches, a step of the hardware happens, an engine
advances, or time passes. -/
inductive Turn where
  | issue (core : Nat) (fw : Bool)
  | event (i : Instr)
  | engine (core : Nat) (e : Eng)
  | ticks (n : Nat)
deriving DecidableEq, Repr

/-- The state of one package. `swaps` are swapped entries of tables in other packages whose write is not acknowledged (R243), `acqs` the
acquires at die scope or wider of each quad's cores (R368). `outDue` are packets that leave at a tick to come (R61). `restored` says that the firmware image has looked at the save area since reset (R49); `memBad` are the 16-byte granules of memory whose contents are uncorrectable (R448). -/
structure State where
  tb : Nat
  pkg : Nat
  mem : FMap Byte
  memBad : List Nat
  cores : FMap Core
  dies : FMap Die
  flights : FMap (Option Flight)
  swaps : List Swap
  acqs : FMap Nat
  msgs : List MsgF
  bookTags : List (Nat × UseId)
  out : List Packet
  selfDue : List (Packet × Nat)
  outDue : List (Packet × Nat)
  bars : List BarCtr
  waves : List BarWave
  sluices : List Sluice
  podCtrs : List PodCtr
  podRoot : Nat
  podGrp : Nat
  podN : Nat
  lqs : FMap LQueue
  lastServed : Option Nat
  jobs : List Job
  jobCtr : Nat
  roots : FMap Nat
  saved : List Saved
  reserved : List (Nat × List Nat)
  poolBase : Nat
  poolRoom : Nat
  saveAddr : Option Nat
  saveArea : Option SaveArea
  pending : Option SaveReq
  ports : FMap Port
  routes : FMap Route
  rtmo : Nat
  ftmo : Nat
  acktmo : Nat
  hmStby : Nat
  hmPrim : Nat
  hmGrp : Nat
  noStby : Bool
  rcvd : FMap Nat
  fenceSrc : List FenceSrc
  fenceDst : List FenceDst
  posts : List PostF
  hmRounds : List HmRound
  hmXid : Nat
  myRounds : List MyRound
  results : List (Nat × Nat × W64)
  copies : List ExCopy
  xwaits : List XWaitF
  hbSent : Nat
  hbSeen : Nat
  trip1 : Bool
  trip2 : Bool
  halted : Bool
  powerOff : Bool
  verified : Bool
  bootFailed : Bool
  restored : Bool
  measure : List Byte
  wrapKey : Bool
  alarm : Bool
  notes : List Note
  owed : List Owed
  focusCore : Nat
  focusFw : Bool
  word : W32
  agenda : List Turn
  issuedAt : FMap Nat
  free : Nat
  nextTag : Nat
deriving DecidableEq, Repr

/-! ### The state right after package reset

Values that the manual gives are its own; every other register, memory and unit holds the value that log entry 1 or 2
names. -/

/-- A bucket full at its capacity (R141). -/
def Bucket.reset (rate cap : Nat) : Bucket := { per := 15, rate := rate, cap := cap, bal := cap, debt := 0, last := 0 }

/-- A context at reset. -/
def Ctx.reset (fw : Bool) : Ctx where
  s := []
  fe := []
  mark := []
  a := []
  p := []
  pc := 0
  slot := none
  ih := false
  ds := false
  nv := false
  dz := false
  of := false
  uf := false
  nx := false
  rm := .rne
  tvec := 0
  sstatus := if fw then 1 else 0
  epc := 0
  etgt := 0
  ecause := 0
  einfo0 := 0
  einfo1 := 0
  einfo2 := 0
  einfo3 := 0
  stallCnt := 0
  wallowQ := { ref := 0, out := 0, limit := 32 }
  wallowD := { ref := 0, out := 0, limit := 32 }
  wallowX := { ref := 0, out := 0, limit := 128 }
  bucket := if fw then Bucket.reset 1 16 else Bucket.reset 15 64
  noticeLeft := 0
  notice := none
  scLast := []
  op := none
  halted := false
  blocked := false

/-- A template at run start (R200): a walk-in of one tick. -/
def tmplReset : Tmpl := [(27, 0xFFFF)]

/-- An engine at run start (R197, R200) with the gate state and idle count given. -/
def Engine.reset : Engine where
  done := 0
  base := 0
  tail := 0
  cw := 0
  mkr := 0
  mkv := false
  tmplf := false
  tmplRes := 0
  flt := false
  cause := 0
  q := []
  partialAddr := 0
  partialWords := []
  linkStop := false
  counted := 0
  retired := []
  tmpl := []
  loads := []
  gate := .awake
  idleFrom := 0
  rep := []
  moved := []
  wide := false

/-- A chunk-bitmap slot at run start (R216). -/
def BmapSlot.reset : BmapSlot := { bits := 0, promise := 0, holder := none, wide := false }

/-- A core at reset. -/
def Core.reset : Core where
  user := Ctx.reset false
  firm := Ctx.reset true
  run := false
  ctxuIdx := 0
  dead := false
  part_ := 0
  est := 0xFFFFFFFFFF
  estAt := 0
  asn := 0
  root := 0
  iva := 0
  tlb := []
  icache := []
  dcache := []
  sram := []
  bad := []
  omBad := []
  masks := []
  maskBad := []
  om := []
  omSide := []
  omSt := []
  plane := []
  wv := false
  wfmt := 0
  kw := 0
  cadence := 1
  cadHeld := none
  ramp := 0
  rampDown := false
  rampAt := 0
  rampRows := false
  rampTbl := 0x11223468
  rows := none
  partEnd := 0
  frows := none
  fuse := none
  fplane := []
  fwv := false
  fwfmt := 0
  facc := []
  tk := []
  tkWide := []
  tkWas := []
  acqSeen := 0
  perm := []
  bmap := []
  bsel := 0
  nomerge := false
  merge := 0
  ovfTrap := false
  scrBase := 0
  scrSize := 0
  casks := []
  hnds := []
  age := 0
  useClock := 0
  demand := none
  forcing := []
  boxDone := []
  wseq := 0
  books := []
  idCtr := 1
  bookOrder := 0
  barSel := 0
  barLast := []
  barPend := []
  barWant := []
  nakCount := 0
  nakLast := 0
  unasked := 0
  cmm := false
  sent := []
  eccCorr := 0
  eccUnc := 0
  eccUnit := 0
  job := none
  lastJob := none
  chunk := []
  task := none
  clockStep := 0
  me := Engine.reset
  ce := Engine.reset
  ve := Engine.reset
  sae := Engine.reset

/-- A calendar with every row FREE. -/
def Calendar.reset : Calendar := { rows := [], uses := [], poisoned := false, berth := 0 }

/-- A die at reset (R85, R387, R391, R449). -/
def Die.reset : Die where
  cals := []
  holdTmo := 4096
  retryMax := 4
  corr := 0
  drop := 0
  failstop := false
  slGroups := 4
  slGap := 32
  slMap := []
  ramp := 0x11223468
  drainMax := 65536
  ckptMax := 16777216
  copies := []
  tj := 0
  tlb := []
  seen := []
  sent_ := 0
  clock := []

/-- The reset value of a sluice map register (R387): the default of `Die.slMap`. -/
def slMapReset : W64 := 0x3333222211110000

/-- A launch queue at reset (R33 to R35). -/
def LQueue.reset : LQueue where
  base := 0
  head := 0
  tail := 0
  tailHi := 0
  asn := 0
  priocap := 0
  owner := false
  en := false
  ign := 0
  err := 0
  stop := false
  card := none

/-- A port at reset (R433, R434). -/
def Port.reset : Port where
  en := false
  enc := false
  key0 := []
  key1 := []
  salt0 := 0
  salt1 := 0
  st0 := .empty
  st1 := .empty
  inv := 0
  replay := 0
  authf := 0
  badopc := 0
  rsvb := 0
  seq := 0
  rxSeq := 0
  rx := RxKeys.reset
  replaying := []
  sent_ := []
  tries := 0
  trySeq := 0
  switch_ := false
  down := false
  lanes := 8
  lanesAt := 0
  tx := []
  line := []
  asks := []
  rxBytes := []

/-- A route no table entry gives: unreachable (entry 1). -/
def Route.none : Route := { via := 0, port := 0, hops := 3 }

/-- The package right after package reset at power-on: the time base is zero (R26), the firmware context of every core is
about to start, `UCTL.RUN` is 0 (R469), and no job is placed. -/
def State.reset : State where
  tb := 0
  pkg := 0
  mem := []
  memBad := []
  cores := []
  dies := []
  flights := []
  swaps := []
  acqs := []
  msgs := []
  bookTags := []
  out := []
  selfDue := []
  outDue := []
  bars := []
  waves := []
  sluices := []
  podCtrs := []
  podRoot := 0
  podGrp := 0
  podN := 1
  lqs := []
  lastServed := none
  jobs := []
  jobCtr := 0
  roots := []
  saved := []
  reserved := []
  poolBase := 0
  poolRoom := 0
  saveAddr := none
  saveArea := none
  pending := none
  ports := []
  routes := []
  rtmo := 8192
  ftmo := 16384
  acktmo := 16384
  hmStby := 0
  hmPrim := 0
  hmGrp := 0
  noStby := false
  rcvd := []
  fenceSrc := []
  fenceDst := []
  posts := []
  hmRounds := []
  hmXid := 0
  myRounds := []
  results := []
  copies := []
  xwaits := []
  hbSent := 0
  hbSeen := 0
  trip1 := false
  trip2 := false
  halted := false
  powerOff := false
  verified := false
  bootFailed := false
  restored := false
  measure := []
  wrapKey := true
  alarm := false
  notes := []
  owed := []
  focusCore := 0
  focusFw := true
  word := 0
  agenda := []
  issuedAt := []
  free := 0
  nextTag := 0

end Sys2Proof.Machine
end

