-- ==== Sys2Proof/Machine/Store.lean ====
section
/-!
DEFINITION. Storage: the cores and dies by number, bytes and little-endian words, physical memory with its die copies and
invalidations, the aperture, the page walk with its translation cache, and things in flight.
-/

namespace Sys2Proof.Machine

/-! ### Cores, contexts, dies by number -/

/-- Core `k` of the package (R21). -/
def State.core (s : State) (k : Nat) : Core := s.cores.get Core.reset k

/-- Core `k` replaced. -/
def State.setCore (s : State) (k : Nat) (c : Core) : State := { s with cores := s.cores.put Core.reset k c }

/-- A context of a core: firmware or user (R133). -/
def Core.ctx (c : Core) (fw : Bool) : Ctx := if fw then c.firm else c.user

/-- A context of a core replaced. -/
def Core.setCtx (c : Core) (fw : Bool) (x : Ctx) : Core := if fw then { c with firm := x } else { c with user := x }

/-- A context of the package. -/
def State.ctx (s : State) (k : Nat) (fw : Bool) : Ctx := (s.core k).ctx fw

/-- A context of the package replaced. -/
def State.setCtx (s : State) (k : Nat) (fw : Bool) (x : Ctx) : State := s.setCore k ((s.core k).setCtx fw x)

/-- The context that executes: the focus. -/
def State.cur (s : State) : Ctx := s.ctx s.focusCore s.focusFw

/-- The context that executes, replaced. -/
def State.setCur (s : State) (x : Ctx) : State := s.setCtx s.focusCore s.focusFw x

/-- The core that executes. -/
def State.curCore (s : State) : Core := s.core s.focusCore

/-- The core that executes, replaced. -/
def State.setCurCore (s : State) (c : Core) : State := s.setCore s.focusCore c

/-- Die `d` (R10). -/
def State.die (s : State) (d : Nat) : Die := s.dies.get Die.reset d

/-- Die `d` replaced. -/
def State.setDie (s : State) (d : Nat) (x : Die) : State := { s with dies := s.dies.put Die.reset d x }

/-- The engine of a core (R18). -/
def Core.eng (c : Core) (e : Eng) : Engine :=
  match e with
  | .ce => c.ce | .me => c.me | .ve => c.ve | .sae => c.sae

/-- The engine of a core replaced. -/
def Core.setEng (c : Core) (e : Eng) (x : Engine) : Core :=
  match e with
  | .ce => { c with ce := x } | .me => { c with me := x } | .ve => { c with ve := x } | .sae => { c with sae := x }

/-- The die of a core (R21). -/
def dieOf (core : Nat) : Nat := core / 64
/-- The quad of a core, numbered through the package. -/
def quadOf (core : Nat) : Nat := core / 4

/-- Die copies dropped or words moved: the four cores of a core's quad. -/
def quadCores (core : Nat) : List Nat := (List.range 4).map (quadOf core * 4 + ·)

/-- Apply `f` to each core of a list. -/
def State.mapCores (s : State) (ks : List Nat) (f : Core → Core) : State :=
  ks.foldl (fun s k => s.setCore k (f (s.core k))) s

/-! ### Bytes -/

/-- The number a little-endian byte string stands for (R246). -/
def leNat : List Byte → Nat
  | [] => 0
  | b :: bs => b.toNat + 256 * leNat bs

/-- The `n` little-endian bytes of a number. -/
def leBytes : Nat → Nat → List Byte
  | 0, _ => []
  | n + 1, v => BitVec.ofNat 8 (v % 256) :: leBytes n (v / 256)

/-- Read `n` bytes of sparse storage. -/
def readBytes (m : FMap Byte) (k : Nat) : Nat → List Byte
  | 0 => []
  | n + 1 => m.get 0 k :: readBytes m (k + 1) n

/-- Write bytes to sparse storage. -/
def writeBytes (m : FMap Byte) (k : Nat) : List Byte → FMap Byte
  | [] => m
  | b :: bs => writeBytes (m.put 0 k b) (k + 1) bs

/-- The canonical form of memory: addresses strictly rising, and no listed byte equal to what an unlisted one reads as, which is
zero (log entry 2). -/
def Memory.wf (m : FMap Byte) : Bool := FMap.wf 0 m

/-- Clear a range of storage: every listed byte of it is unlisted. -/
def clearRange (m : FMap Byte) (lo hi : Nat) : FMap Byte := m.filter fun p => p.1 < lo || hi ≤ p.1

/-- Bits [hi : lo] of a number (R3). -/
def nbits (v hi lo : Nat) : Nat := v / 2 ^ lo % 2 ^ (hi + 1 - lo)

/-- Bit `i` of a number. -/
def nbit (v i : Nat) : Bool := v / 2 ^ i % 2 = 1

/-- Saturating increment. -/
def satInc (v lim : Nat) : Nat := if v < lim then v + 1 else lim

/-- A number of `w` bits as a signed one (R4). -/
def signed (w v : Nat) : Int := if v % 2 ^ w < 2 ^ (w - 1) then (v % 2 ^ w : Int) else (v % 2 ^ w : Int) - 2 ^ w

/-- A virtual address moved by a signed distance, modulo 2^72. -/
def vadd (a : VAddr) (d : Int) : VAddr := BitVec.ofInt 72 (a.toNat + d)

/-! ### The pool and the partition (R22, R227) -/

/-- VRU of `PART`. -/
def Core.vru (c : Core) : Nat := nbits c.part_.toNat 2 0
/-- ACU of `PART`. -/
def Core.acu (c : Core) : Nat := nbits c.part_.toNat 13 8
/-- Where accumulator storage begins in the pool. -/
def Core.accBase (c : Core) : Nat := c.vru * 65536
/-- Where the scratchpad begins in the pool. -/
def Core.spadBase (c : Core) : Nat := (c.vru + c.acu) * 65536
/-- The size of the scratchpad (R227). -/
def Core.spadSize (c : Core) : Nat := (64 - c.vru - c.acu) * 65536
/-- The 16-byte granules a range meets, and those it covers whole. -/
def granules (o n : Nat) : List Nat := if n = 0 then [] else (List.range ((o + n - 1) / 16 - o / 16 + 1)).map (o / 16 + ·)
/-- Bytes of the pool. -/
def Core.poolRead (c : Core) (o n : Nat) : List Byte := readBytes c.sram o n
/-- Bytes written to the pool; a granule written whole is correct again (R448; log entry 11). -/
def Core.poolWrite (c : Core) (o : Nat) (bs : List Byte) : Core :=
  { c with
    sram := writeBytes c.sram o bs
    bad := c.bad.filter fun g => !(decide (o ≤ g * 16) && decide (g * 16 + 16 ≤ o + bs.length)) }
/-- A range of the pool holds an uncorrectable granule (R448). -/
def Core.poolBad (c : Core) (o n : Nat) : Bool := c.bad.any fun g => (granules o n).contains g
/-- Bytes of the own scratchpad. -/
def Core.spadRead (c : Core) (o n : Nat) : List Byte := c.poolRead (c.spadBase + o) n
/-- Bytes written to the own scratchpad. -/
def Core.spadWrite (c : Core) (o : Nat) (bs : List Byte) : Core := c.poolWrite (c.spadBase + o) bs
/-- A range of the own scratchpad is uncorrectable (R448). -/
def Core.spadBad (c : Core) (o n : Nat) : Bool := c.poolBad (c.spadBase + o) n
/-- Whether a byte range meets the cask scratch area (R276, R277). -/
def Core.inScratch (c : Core) (o n : Nat) : Bool :=
  decide (0 < c.scrSize) && decide (o < (c.scrBase + c.scrSize) * 1024) && decide (c.scrBase * 1024 < o + n)

/-! ### Things in flight -/

/-- A new thing in flight and its tag. -/
def State.addFlight (s : State) (f : Flight) : State × Nat :=
  ({ s with flights := s.flights.put none s.nextTag (some f), nextTag := s.nextTag + 1 }, s.nextTag)

/-- The thing in flight with a tag. -/
def State.flight (s : State) (t : Nat) : Option Flight := s.flights.get none t

/-- The thing in flight with a tag replaced. -/
def State.setFlight (s : State) (t : Nat) (f : Flight) : State := { s with flights := s.flights.put none t (some f) }

/-- The thing in flight with a tag has arrived. -/
def State.endFlight (s : State) (t : Nat) : State := { s with flights := s.flights.erase t }

/-- A fresh tag for a message. -/
def State.takeTag (s : State) : State × Nat := ({ s with nextTag := s.nextTag + 1 }, s.nextTag)

/-- A free value of `w` bits (log entry 4): nothing constrains it. -/
def State.freeVal (s : State) (w : Nat) : State × Nat := ({ s with free := s.free + 1 }, Config.freeNat s.free % 2 ^ w)

/-- Whether some thing in flight has a property of its tag and itself. -/
def State.anyFlight (s : State) (f : Nat → Flight → Bool) : Bool :=
  s.flights.any fun p => match p.2 with | some x => f p.1 x | none => false

/-- The tags of the things in flight with a property. -/
def State.flightTags (s : State) (f : Flight → Bool) : List Nat :=
  s.flights.filterMap fun p => match p.2 with | some x => if f x then some p.1 else none | none => none

/-- Whether PKG of a physical address names this package. -/
def State.ownPkg (s : State) (pkg : Nat) : Bool := pkg = 0x7FF || pkg = s.pkg

/-- Hops to another package (R402). -/
def State.hops (s : State) (p : Nat) : Nat := if s.ownPkg p then 0 else (s.routes.get Route.none p).hops

/-- A NAK that answers a packet (R408): code 1 ERR_OPC, 2 NO_ROUTE in ARG[7:0]; ARG[15:8] is the OPC of the packet (log entry 6). -/
def nakOf (spkg dpkg code : Nat) (p : Packet) : Packet where
  opc := 7
  ackreq := false
  ord := false
  dpkg := dpkg
  spkg := spkg
  score := p.score
  tag := p.tag
  pa := 0
  arg := BitVec.ofNat 64 (p.opc % 256 * 256 + code)
  rsv := false
  data := []

/-- A packet that a NAK may answer: neither a NAK nor an ACK (R408). -/
def nakable (p : Packet) : Bool := !(p.opc = 6 || p.opc = 7)

/-- Bytes of a remote posted write are counted in SENT of the core (R414). -/
def Core.addSent (c : Core) (pkg n : Nat) : Core := { c with sent := c.sent.put 0 pkg ((c.sent.get 0 pkg + n) % 2 ^ 40) }

/-- The traffic class of an operation (R404, R407): 0 CTRL, 1 RENQ, 2 REQ, 3 RSP. -/
def trafficClass (opc : Nat) : Nat :=
  if opc = 8 then 1 else if 0x10 ≤ opc then 0 else if [3, 5, 6, 7, 9, 0xB].contains opc then 3 else 2

/-- When a CTRL or RENQ packet arrives that the package sends to itself: the harbourmaster and the launch unit are on IOD0, and the
other end is a core's die (R404). -/
def State.selfLatency (s : State) (p : Packet) : List (Packet × Nat) :=
  if s.ownPkg p.dpkg && s.ownPkg p.spkg && decide (trafficClass p.opc ≤ 1) then [(p, s.tb + 140)] else []

/-- A packet leaves, or stays in the package (R406): it joins the list of sent packets. One for an unreachable package is
answered locally with NAK(NO_ROUTE) (R403). -/
def State.send (s : State) (p : Packet) : State :=
  if s.hops p.dpkg = 3 then (if nakable p then { s with out := s.out ++ [nakOf s.pkg s.pkg 2 p] } else s)
  else { s with out := s.out ++ [p], selfDue := s.selfDue ++ s.selfLatency p }

/-- Packets that leave at a tick that has come. -/
def State.sendDue (s : State) : State :=
  if s.outDue.isEmpty then s
  else
    { s with
      out := s.out ++ (s.outDue.filter fun p => p.2 ≤ s.tb).map (·.1)
      outDue := s.outDue.filter fun p => s.tb < p.2 }

/-- Tell firmware or management. -/
def State.tell (s : State) (n : Note) : State := { s with notes := s.notes ++ [n] }

/-! ### Physical memory (R235, R236) -/

/-- The key of a physical address in a home of this package: HOME and OFF. -/
def homeKey (pa : Nat) : Nat := pa % 2 ^ 45

/-- HOME of a key. -/
def homeOf (key : Nat) : Nat := key / 2 ^ 41

/-- The die of a home: near memory of CD0 to CD7, far memory of IOD0 and IOD1. -/
def homeDie (key : Nat) : Nat := homeOf key

/-- The capacity of a home (R235). -/
def homeCap (h : Nat) : Nat := if h < 8 then 0xC00000000 else 0xC000000000

/-- A physical range lies in a home that exists, and its PKG is not a reserved value (R235, R240). -/
def paOk (pa size : Nat) : Bool :=
  let pkg := nbits pa 55 45
  let h := nbits pa 44 41
  (decide (pkg ≤ 1057) || decide (pkg = 0x7FF)) && decide (h ≤ 9) && decide (pa % 2 ^ 41 + size ≤ homeCap h)

/-- Where a physical address lies. -/
def State.paPlace (s : State) (pa : Nat) : Place :=
  if s.ownPkg (nbits pa 55 45) then .home (homeKey pa) else .remote (nbits pa 55 45) pa

/-- The die that holds a place, for the fixed routes and the order of R363. -/
def Place.die (p : Place) : Nat :=
  match p with
  | .home k => homeDie k
  | .spad c _ => dieOf c
  | .remote .. => 8
  | .rwin .. => 8

/-- Bytes of memory of this package that hold a granule which an uncorrectable error has marked (R448). -/
def State.homeBad (s : State) (key n : Nat) : Bool := s.memBad.any fun g => (granules key n).contains g

/-- The 16-byte granule that a place lies in (R223, R229). -/
def Place.granule (p : Place) : Place :=
  match p with
  | .home k => .home (k / 16 * 16)
  | .spad c o => .spad c (o / 16 * 16)
  | .remote q pa => .remote q (pa / 16 * 16)
  | .rwin q c o => .rwin q c (o / 16 * 16)

/-- The line of a key (R236). -/
def lineOf (key : Nat) : Nat := key / 64

/-- Whether die `d` holds a copy of a line. -/
def State.hasCopy (s : State) (d line : Nat) : Bool := ((s.die d).copies.find line).isSome

/-- An invalidation of a write that an agent has made itself, or that forced work sees (R302, R307), is still on its way to the agent's
die (R361). -/
def State.ownInval (s : State) (core : Nat) (g : Agent) (line : Nat) : Bool :=
  s.anyFlight fun _ f => match f with
    | .inval l d _ o =>
      decide (l = line) && decide (d = dieOf core) && (decide (o.maker = some (core, g))
        || (decide (g = .forced) && (decide (o.maker = some (core, .scalar false)) || decide (o.maker = some (core, .scalar true)))))
    | _ => false

/-- The writes whose invalidations of a line are on their way (R361). -/
def State.pendingOf (s : State) (line : Nat) : List Nat :=
  (s.flights.filterMap fun p => match p.2 with
    | some (.inval l _ of _) => if l = line then some of else none
    | _ => none).dedup

/-- An agent of a die has read a line at its home: it may have read the writes whose invalidations are still on their way (R367). -/
def State.noteSeen (s : State) (d line : Nat) : State :=
  let ofs := s.pendingOf line
  if ofs.isEmpty then s else s.setDie d { s.die d with seen := (ofs ++ (s.die d).seen).dedup }

/-- Lines of 64 bytes in a memory-side cache of 128 MiB (R13). -/
def cacheLines : Nat := 2 ^ 21

/-- A die copy is taken (R361); where the cache is full, another copy makes room (R13; log entry 10). -/
def Die.takeCopy (x : Die) (line : Nat) (bs : List Byte) : Die :=
  { x with copies := (if x.copies.length < cacheLines then x.copies else x.copies.drop 1).ins line bs }

/-- Read bytes of one line by an agent of a core: from its die's copy where it holds one, else from the home, taking a copy when
the line is homed on another die (R361; log entry 10). A copy older than a write of the agent's own does not serve it
(R360). -/
def State.readLine (s : State) (core : Nat) (g : Agent) (key n : Nat) : State × List Byte :=
  let d := dieOf core
  if homeDie key = d then (s.noteSeen d (lineOf key), readBytes s.mem key n)
  else
    match (if s.ownInval core g (lineOf key) then none else (s.die d).copies.find (lineOf key)) with
    | some bs => (s, (bs.drop (key % 64)).take n)
    | none =>
      let line := readBytes s.mem (lineOf key * 64) 64
      let s := s.noteSeen d (lineOf key)
      (s.setDie d ((s.die d).takeCopy (lineOf key) line), (line.drop (key % 64)).take n)

/-- Read bytes by an agent of a core, line by line; `fuel` bounds the lines. -/
def State.readVia (s : State) (core : Nat) (g : Agent) : Nat → Nat → Nat → State × List Byte
  | 0, _, _ => (s, [])
  | fuel + 1, key, n =>
    if n = 0 then (s, [])
    else
      let m := min n (64 - key % 64)
      let r := s.readLine core g key m
      let t := State.readVia r.1 core g fuel (key + m) (n - m)
      (t.1, r.2 ++ t.2)

/-- The origin of a write of an agent of a core (R363): it is the next of its die. -/
def State.origin (s : State) (core : Nat) (g : Agent) : State × Origin :=
  let d := dieOf core
  let x := s.die d
  (s.setDie d { x with sent_ := x.sent_ + 1 }, { die := d, maker := some (core, g), idx := x.sent_ + 1, clock := x.clock })

/-- The origin of a write that no agent of this package's cores makes: it enters through I/O die 0. -/
def Origin.outside : Origin := { die := 8, maker := none, idx := 0, clock := [] }

/-- A release of an agent of a core: every write that its die has made so far happens before the die's later ones (R363, R366; log
entry 15). A lane scope orders nothing (R166). -/
def State.markRelease (s : State) (core : Nat) (sc : Scope) : State :=
  if sc = .lane then s
  else
    let d := dieOf core
    let x := s.die d
    s.setDie d { x with clock := x.clock.put 0 d x.sent_ }

/-- Invalidations to every die that holds a copy of a line (R361): `of` is the write. -/
def State.sendInvals (s : State) (o : Origin) (of line : Nat) : State :=
  (List.range 10).foldl (fun s d =>
    if s.hasCopy d line then (s.addFlight (.inval line d of o)).1 else s) s

/-- The lines a range of bytes meets. -/
def linesOf (key n : Nat) : List Nat :=
  if n = 0 then [] else (List.range (lineOf (key + n - 1) - lineOf key + 1)).map (lineOf key + ·)

/-- Drop lines from a scalar data cache (R144). -/
def Core.dcDrop (c : Core) (lines : List Nat) : Core := { c with dcache := c.dcache.filter fun p => !lines.contains p.1 }

/-- Apply a write at its home (R236, R361, R363): the bytes change in coherence order, then invalidations leave. `of` names
the write; a granule written whole is correct again. -/
def State.homeWrite (s : State) (o : Origin) (of key : Nat) (bs : List Byte) : State :=
  (linesOf key bs.length).foldl (fun s l => s.sendInvals o of l)
    { s with
      mem := writeBytes s.mem key bs
      memBad := s.memBad.filter fun g => !(decide (key ≤ g * 16) && decide (g * 16 + 16 ≤ key + bs.length)) }

/-- A store or engine write of a core removes the lines it meets from the data caches of its quad (R144). -/
def State.quadDrop (s : State) (core key n : Nat) : State :=
  s.mapCores (quadCores core) (·.dcDrop (linesOf key n))

/-! ### Translation (R225, R238 to R243) -/

/-- What an access wants of a page (R241, R243): engine writes go to the twin of a shadow page. -/
inductive Acc where
  | load | store | fetch | engRead | engWrite
deriving DecidableEq, Repr

/-- Whether an access reads. -/
def Acc.reads (a : Acc) : Bool :=
  match a with
  | .load | .fetch | .engRead => true
  | .store | .engWrite => false

/-- Where an access goes, or how it fails. `win` is the window it used: 0 quad, 1 die, 2 remote. -/
inductive XRes where
  | ok (p : Place) (win : Option Nat)
  | page
  | prot
  /-- A table of another package is being read (R238). -/
  | wait
deriving DecidableEq, Repr

/-- The scratchpad place that an aperture offset names, and the window it names it through (R225, R226): an access whose target is the
core itself is no window access. -/
def State.apertureAt (s : State) (k o : Nat) : Option (Place × Option Nat) :=
  let peer (c win : Nat) : Option (Place × Option Nat) := some (.spad c (o % 0x400000), if c = k then none else some win)
  if o < 0x400000 then some (.spad k o, none)
  else if 0x1000000 ≤ o ∧ o < 0x2000000 then peer (quadOf k * 4 + (o - 0x1000000) / 0x400000) 0
  else if 0x100000000 ≤ o ∧ o < 0x110000000 then peer (dieOf k * 64 + (o - 0x100000000) / 0x400000) 1
  else if 0x1000000000000 ≤ o ∧ o < 0x1000000000000 + 1058 * 0x80000000 then
    let r := o - 0x1000000000000
    let p := r / 0x80000000
    let c := r % 0x80000000 / 0x400000
    if p = s.pkg then peer c 2 else some (.rwin p c (o % 0x400000), some 2)
  else none

/-- The aperture (R225 to R227): `o` is VA[63:0]; the own scratchpad ends at its size. -/
def State.aperture (s : State) (k o : Nat) : XRes :=
  match s.apertureAt k o with
  | none => .page
  | some (.spad c x, none) => if x < (s.core k).spadSize then .ok (.spad c x) none else .page
  | some (p, w) => .ok p w

/-- Fields of a page-table entry (R239). -/
def pteAddr (e : W64) : Nat := nbits e.toNat 55 8 * 256
def pteV (e : W64) : Bool := nbit e.toNat 63
def pteLeaf (e : W64) : Bool := nbit e.toNat 62
def pteR (e : W64) : Bool := nbit e.toNat 61
def pteW (e : W64) : Bool := nbit e.toNat 60
def pteX (e : W64) : Bool := nbit e.toNat 59
def pteU (e : W64) : Bool := nbit e.toNat 58
def pteRep (e : W64) : Bool := nbit e.toNat 57
def pteSh (e : W64) : Bool := nbit e.toNat 56
def ptePh (e : W64) : Bool := nbit e.toNat 7

/-- The levels of the walk (R238): the low bit of the index, its width, the bytes of the next table, and whether a leaf may
stand there. -/
def walkLevels : List (Nat × Nat × Nat × Bool) :=
  [(59, 13, 0x20000, false), (45, 14, 0x20000, false), (31, 14, 256, true), (26, 5, 256, true), (21, 5, 256, true),
   (16, 5, 0, true)]

/-- A valid entry is well formed at its level (R240). -/
def pteOk (e : W64) (lo next : Nat) (leafOk : Bool) : Bool :=
  if pteLeaf e then
    leafOk && decide (pteAddr e % 2 ^ lo = 0) && paOk (pteAddr e) (2 ^ lo)
      && !(pteRep e && (pteW e || decide (8 ≤ nbits (pteAddr e) 44 41)))
      && !(pteSh e && !(decide (lo = 16) && decide (pteAddr e % 0x20000 = 0) && paOk (pteAddr e) 0x20000))
  else decide (next ≠ 0) && decide (pteAddr e % next = 0) && paOk (pteAddr e) next

/-- The packet that asks another package for `n` bytes of its memory (R406). -/
def memRead (spkg core tag q pa n : Nat) : Packet where
  opc := 2
  ackreq := true
  ord := false
  dpkg := q
  spkg := spkg
  score := core
  tag := tag % 65536
  pa := pa
  arg := BitVec.ofNat 64 n
  rsv := false
  data := []

/-- What the read of a page-table entry gives. -/
inductive TableRead where
  | ok (e : W64)
  | wait
  | none
deriving DecidableEq, Repr

/-- A core of the package shares an instance of a scope with another (R28). -/
def sameInst (a b : Nat) (sc : Scope) : Bool :=
  match sc with
  | .lane | .core => a = b
  | .quad => quadOf a = quadOf b
  | .die => dieOf a = dieOf b
  | .pkg | .pod => true

/-- The new entry at a physical address of another package that a publication has swapped for a core's instance (R243). -/
def State.swapped (s : State) (k pa : Nat) : Option W64 :=
  (s.swaps.reverse.find? fun w => decide (w.pa = pa) && sameInst k w.core w.scope).map Swap.e

/-- Read a page-table entry for a core, through its home (R238), on the walk for a virtual address: one in another package travels over
the CL (R235), and concurrent misses of a die to one page share the read (R244). -/
def State.tableRead (s : State) (k va pa : Nat) : State × TableRead :=
  match s.paPlace pa with
  | .home key => (s, .ok (BitVec.ofNat 64 (leNat (readBytes s.mem key 8))))
  | p =>
    let q := nbits pa 55 45
    let page := some (va / 65536)
    let mine (f : Flight) : Bool :=
      match f with | .remoteRead r => dieOf r.core = dieOf k && r.walk = page && r.place = p | _ => false
    match (s.flightTags mine).findSome? s.flight with
    | some (.remoteRead r) =>
      (s, match r.data with
        | some bs => .ok ((s.swapped k pa).getD (BitVec.ofNat 64 (leNat bs)))
        | none => if r.nak = 0 then .wait else .none)
    | _ =>
      let r := s.addFlight
        (.remoteRead { core := k, fw := false, eng := none, place := p, n := 8, nak := 0, data := none, walk := page })
      (r.1.send (memRead s.pkg k r.2 q pa 8), .wait)

/-- What a walk comes to: the page shift, the entry and the physical address of the entry; a fault; or an entry of another package
that has not arrived. -/
inductive Walk where
  | leaf (lo : Nat) (e : W64) (at_ : Nat)
  | fault
  | wait
deriving DecidableEq, Repr

/-- The walk from a table (R238). -/
def State.walk (s : State) (k t : Nat) (va : Nat) : List (Nat × Nat × Nat × Bool) → State × Walk
  | [] => (s, .fault)
  | (lo, w, next, leafOk) :: ls =>
    let at_ := t + 8 * (va / 2 ^ lo % 2 ^ w)
    match s.tableRead k va at_ with
    | (s, .wait) => (s, .wait)
    | (s, .none) => (s, .fault)
    | (s, .ok e) =>
      if !pteV e || !pteOk e lo next leafOk then (s, .fault)
      else if pteLeaf e then (s, .leaf lo e at_)
      else State.walk s k (pteAddr e) va ls

/-- The entries that the walks of a core read in other packages are forgotten, where they are given up: a later walk reads them again
(R472). -/
def State.dropWalk (s : State) (k : Nat) : State :=
  { s with flights := s.flights.filter fun p =>
      match p.2 with
      | some (.remoteRead r) => !(r.core = k && r.walk.isSome)
      | _ => true }

/-- The entries that a walk of a die for a virtual address read in other packages are forgotten once it is over. -/
def State.endWalk (s : State) (k va : Nat) : State :=
  { s with flights := s.flights.filter fun p =>
      match p.2 with
      | some (.remoteRead r) => !(dieOf r.core = dieOf k && r.walk = some (va / 65536))
      | _ => true }

/-- A TLB entry is that of a virtual address in an address space. -/
def TlbEnt.hits (e : TlbEnt) (asn : Nat) (va : VAddr) : Bool := e.asn = asn && e.vpn = va.toNat / 2 ^ e.shift

/-- The leaf of a virtual address for a core (R244; log entry 9): from its first-level TLB, else from its die's TLB, else by a
walk. -/
def State.leaf (s : State) (k : Nat) (va : VAddr) : State × Walk :=
  let c := s.core k
  match (c.tlb.find? (·.hits c.asn va)).or ((s.die (dieOf k)).tlb.find? (·.hits c.asn va)) with
  | some e => (s, .leaf e.shift e.pte e.at_)
  | none =>
    match s.walk k (c.root * 65536) va.toNat walkLevels with
    | (s, .wait) => (s, .wait)
    | (s, w) => (s.endWalk k va.toNat, w)

/-- A translation that granted an access enters the TLBs of the core and its die, at the front where it is new (R244). -/
def State.fillTlb (s : State) (k : Nat) (va : VAddr) (lo : Nat) (e : W64) (at_ : Nat) : State :=
  let c := s.core k
  let ent : TlbEnt := { asn := c.asn, shift := lo, vpn := va.toNat / 2 ^ lo, pte := e, at_ := at_ }
  if c.tlb.any (·.hits c.asn va) then s
  else
    let s := s.setCore k { c with tlb := (ent :: c.tlb).take 256 }
    let x := s.die (dieOf k)
    if x.tlb.any (·.hits c.asn va) then s else s.setDie (dieOf k) { x with tlb := (ent :: x.tlb).take 16384 }

/-- The physical address that a leaf gives an access of a core (R241 to R243), or `none` where the leaf does not grant it. -/
def leafPa (k : Nat) (fw : Bool) (a : Acc) (lo : Nat) (e : W64) (va : VAddr) : Option Nat :=
  let granted := match a with
    | .load | .engRead => pteR e
    | .store | .engWrite => pteW e
    | .fetch => pteX e
  if !granted || (!fw && !pteU e) then none
  else
    let base := pteAddr e
    let frame := if pteSh e then
        (if (a = .engWrite) = (ptePh e = true) then base else base + 65536)
      else base
    let pa := frame + va.toNat % 2 ^ lo
    if pteRep e && a.reads then some (0x7FF * 2 ^ 45 + dieOf k * 2 ^ 41 + pa % 2 ^ 41) else some pa

/-- Translate an address for a context of a core (R225, R238, R241). Engines use the user context's rights. -/
def State.translate (s : State) (k : Nat) (fw : Bool) (a : Acc) (va : VAddr) : State × XRes :=
  if va.toNat / 2 ^ 64 = 0xFF then
    (s, if a = .fetch then .prot else s.aperture k (va.toNat % 2 ^ 64))
  else
    match s.leaf k va with
    | (s, .wait) => (s, .wait)
    | (s, .fault) => (s, .page)
    | (s, .leaf lo e at_) =>
      match leafPa k fw a lo e va with
      | none => (s, .prot)
      | some pa => (s.fillTlb k va lo e at_, .ok (s.paPlace pa) none)

/-! ### Paths (R237) -/

/-- Whether a die is in the lower row: CD4 to CD7 (R10). -/
def lowerRow (d : Nat) : Bool := 4 ≤ d && d < 8

/-- The column of a die: IOD0 stands before column 1, IOD1 after column 4. -/
def dieColumn (d : Nat) : Nat := if d = 8 then 0 else if d = 9 then 5 else d % 4 + 1

/-- The boundary between columns `c` and `c + 1` of a row (R11). -/
def rowBoundary (low : Bool) (c : Nat) : Nat :=
  if c = 0 then (if low then 11 else 10) else if c = 4 then (if low then 13 else 12) else if low then c + 2 else c - 1

/-- The boundaries that traffic from one die to another passes, in their order (R12): between compute dies first from row to row at the
source's column; then along the destination's row, the compute die's where one is an I/O die, and the upper row between the two. -/
def route (a b : Nat) : List Nat :=
  let ca := dieColumn a
  let cb := dieColumn b
  let low := if b < 8 then lowerRow b else if a < 8 then lowerRow a else false
  (if a < 8 && b < 8 && (lowerRow a != lowerRow b) then [5 + ca] else [])
    ++ if ca ≤ cb then (List.range (cb - ca)).map fun i => rowBoundary low (ca + i)
       else ((List.range (ca - cb)).map fun i => rowBoundary low (cb + i)).reverse

/-- Boundaries on the route between two dies (R12, R237). -/
def boundaries (a b : Nat) : Nat := (route a b).length

/-- The read latency of a path from a core (R237). -/
def State.readLat (s : State) (k : Nat) (p : Place) (copy : Bool) : Nat :=
  match p with
  | .spad c _ => if c = k then 0 else if quadOf c = quadOf k then 32 else if dieOf c = dieOf k then 64
      else 160 + 40 * boundaries (dieOf k) (dieOf c)
  | .home key => if homeDie key = dieOf k || copy then 96 else 160 + 40 * boundaries (dieOf k) (homeDie key)
  | .remote q _ => 280 + 1400 * s.hops q
  | .rwin q _ _ => 280 + 1400 * s.hops q

/-- The write latency of a path from a core (R237): half the read latency. -/
def State.writeLat (s : State) (k : Nat) (p : Place) : Nat := s.readLat k p false / 2

/-- Bytes per tick of a path (R237); `copy` says that a die copy serves a read. -/
def rateOf (k : Nat) (p : Place) (copy : Bool) : Nat :=
  match p with
  | .spad c _ => if c = k then 128 else if dieOf c = dieOf k then 64 else 32
  | .home key => if homeDie key = dieOf k || copy then 64 else 32
  | .remote .. => 32
  | .rwin .. => 32

/-! ### Order (R165, R362 to R367) -/

/-- The dies of a core's instance of a scope that may hold copies (R362). -/
def scopeDies (core : Nat) (sc : Scope) : List Nat :=
  match sc with
  | .lane | .core | .quad | .die => [dieOf core]
  | .pkg | .pod => List.range 10

/-- A thing of a context that a release orders: its loads, stores and remote writes in flight, and window stores whose
acknowledgement is on its way. -/
def Flight.ofCtx (core : Nat) (fw : Bool) (f : Flight) : Bool :=
  match f with
  | .load l => l.core = core && l.fw = fw
  | .store t => t.core = core && t.agent = .scalar fw
  | .winAck c g _ _ => c = core && g = fw
  | .remoteWrite w => w.core = core && w.agent = .scalar fw
  | _ => false

/-- The package that holds a place, where it is another one. -/
def Place.pkg (p : Place) : Option Nat :=
  match p with
  | .remote q _ => some q
  | .rwin q _ _ => some q
  | _ => none

/-- A remote write of an agent to a place's package, of a lower tag, is still to be acknowledged: a read of that package by the agent,
which need not take the same route (R403), would overtake it (R164); forced work also follows the scalar stores of its core (R302). -/
def State.writesTo (s : State) (tag core : Nat) (g : Agent) (p : Place) : Bool :=
  p.pkg.any fun pkg => s.anyFlight fun t f => decide (t < tag) && match f with
    | .remoteWrite w =>
      decide (w.core = core) && decide (w.place.pkg = some pkg)
        && (decide (w.agent = g) || (decide (g = .forced) && (decide (w.agent = .scalar false) || decide (w.agent = .scalar true))))
    | .amo a => decide (a.core = core) && decide (g = .lane .ce) && decide (a.place.pkg = some pkg)
    | .sae e => decide (e.core = core) && decide (g = .lane .sae) && decide (e.place.pkg = some pkg)
    | .store t => decide (t.core = core) && decide (t.agent = g) && (match g with | .lane _ => true | _ => false) && decide (t.place.pkg = some pkg)
    | _ => false

/-- Package or pod scope. -/
def scopePkg (sc : Scope) : Bool := sc = .pkg || sc = .pod

/-- An access with this tag is performed at a scope of a core (R362): it is no longer in flight, a window store counting as
performed before its acknowledgement except at package and pod scope (R184), and no invalidation of it is bound for a die of the
instance. At lane scope only an atomic operation, and a write of a command that its target may refuse, are awaited (R166, R212,
R221). -/
def State.performed (s : State) (core : Nat) (sc : Scope) (tag : Nat) : Bool :=
  (match s.flight tag with
    | none => true
    | some (.winAck ..) => !scopePkg sc
    | some (.amo _) => false
    | some (.sae _) => false
    | some (.store t) => decide (sc = .lane) && !(match t.agent, t.place with | .lane _, .spad c _ => decide (c ≠ core) | _, _ => false)
    | some (.remoteWrite w) => decide (sc = .lane) && w.eng.isNone
    | some _ => decide (sc = .lane))
    && (decide (sc = .lane) || !s.anyFlight fun _ f => match f with
        | .inval _ d of _ => of = tag && (scopeDies core sc).contains d
        | _ => false)

/-- Posted writes that no acknowledgement has answered (R232). -/
def Ctx.outs (c : Ctx) : Nat := c.wallowQ.out + c.wallowD.out + c.wallowX.out

/-- Every access of a list is performed at its scope. -/
def State.allPerformed (s : State) (core : Nat) (l : List (Nat × Scope)) : Bool := l.all fun p => s.performed core p.2 p.1

/-- A write happens before what carries a clock. -/
def Origin.before (o : Origin) (clock : FMap Nat) : Bool := decide (1 ≤ o.idx) && decide (o.idx ≤ clock.get 0 o.die)

/-- A release of a core follows a write whose invalidations are on their way: one of the core's own, one that an agent of its die may
have read, or one that happens before (R367; log entry 15). -/
def State.followsWrite (s : State) (core of : Nat) (o : Origin) : Bool :=
  let x := s.die (dieOf core)
  o.maker.any (fun m => m.1 = core) || x.seen.contains of || o.before x.clock

/-- The writes that a release of a core follows whose invalidations are bound for a die of its instance of a scope (R367). -/
def State.invalsIn (s : State) (core : Nat) (sc : Scope) : List Nat :=
  s.flights.filterMap fun p => match p.2 with
    | some (.inval _ d of o) => if (scopeDies core sc).contains d && s.followsWrite core of o then some of else none
    | _ => none

/-- What a release or an sc access of a context must follow at its scope (R165, R184, R233, R367): its things in flight, and the
writes whose invalidations are. A lane scope orders nothing (R166). -/
def State.orderAfter (s : State) (core : Nat) (fw : Bool) (sc : Scope) : List (Nat × Scope) :=
  if sc = .lane then []
  else (s.flightTags (·.ofCtx core fw) ++ (s.invalsIn core sc).dedup).map fun t => (t, sc)

/-- Every earlier access of a context is performed at a scope (R165, R184, R233, R367). -/
def State.released (s : State) (core : Nat) (fw : Bool) (sc : Scope) : Bool := s.allPerformed core (s.orderAfter core fw sc)

/-! ### Causal order of writes between dies (R363) -/

/-- Clocks joined: the later of each entry. -/
def joinClock (a b : FMap Nat) : FMap Nat := b.foldl (fun c p => c.put 0 p.1 (max (c.get 0 p.1) p.2)) a

/-- An acquire of a core joins to its die's clock writes that it may have read, by line and write, and what happens before them (R363,
R366): those whose invalidations are on their way; what else it may have read has been performed everywhere. -/
def State.joinWrites (s : State) (core : Nat) (p : Nat → Nat → Bool) : State :=
  let d := dieOf core
  let os := s.flights.filterMap fun f => match f.2 with
    | some (.inval l _ of o) => if p l of && decide (1 ≤ o.idx) then some o else none
    | _ => none
  if os.isEmpty then s
  else
    let x := s.die d
    s.setDie d { x with clock := os.foldl (fun c o => joinClock (c.put 0 o.die (max (c.get 0 o.die) o.idx)) o.clock) x.clock }

/-- The key of the home that a write is bound for. -/
def Flight.homeKey? (f : Flight) : Option (Nat × Origin) :=
  match f with
  | .store t => match t.place with | .home k => some (k, t.origin) | _ => none
  | .amo a => match a.place with | .home k => some (k, a.origin) | _ => none
  | .sae e => match e.place with | .home k => some (k, e.origin) | _ => none
  | _ => none

/-- A write, or an invalidation, that what carries a clock and is bound for a die must not overtake: its own application, or an
invalidation that it will send, is bound for that die too. -/
def State.precedes (s : State) (clock : FMap Nat) (dst : Nat) (f : Flight) : Bool :=
  match f with
  | .inval _ d _ o => decide (d = dst) && o.before clock
  | .store t =>
    t.origin.before clock &&
      match t.place with
      | .home k => decide (homeDie k = dst) || s.hasCopy dst (lineOf k)
      | .spad c _ => decide (dieOf c = dst)
      | _ => false
  | f =>
    match f.homeKey? with
    | some (k, o) => o.before clock && (decide (homeDie k = dst) || s.hasCopy dst (lineOf k))
    | none => false

/-- A causal predecessor of a write or an invalidation bound for a die is still on its way there (R363). -/
def State.causalWait (s : State) (o : Origin) (dst : Nat) : Bool := s.anyFlight fun _ f => s.precedes o.clock dst f

/-- Bytes of an atomic type: 0 i32, 1 n32, 2 i64, 3 n64, 4 f32, 5 f64 (R221). -/
def amoSize (ty : Nat) : Nat := if ty = 2 || ty = 3 || ty = 5 then 8 else 4

/-- Two places share a byte. -/
def placesMeet (p : Place) (n : Nat) (q : Place) (m : Nat) : Bool :=
  match p, q with
  | .home a, .home b => decide (a < b + m) && decide (b < a + n)
  | .spad c a, .spad d b => decide (c = d) && decide (a < b + m) && decide (b < a + n)
  | .remote g a, .remote h b => decide (g = h) && decide (a < b + m) && decide (b < a + n)
  | .rwin g c a, .rwin h d b => decide (g = h) && decide (c = d) && decide (a < b + m) && decide (b < a + n)
  | _, _ => false

/-- A scalar access or write in flight touches the bytes, has a lower tag, and is of the same agent (R164, R359). -/
def State.olderOverlap (s : State) (tag core : Nat) (g : Agent) (p : Place) (n : Nat) (loads stores : Bool) : Bool :=
  s.anyFlight fun t f => decide (t < tag) && match f with
    | .load l => loads && l.core = core && g = .scalar l.fw && placesMeet p n l.place l.size
    | .store x => stores && x.core = core && x.agent = g && placesMeet p n x.place x.bytes.length
    | .amo a => stores && a.core = core && g = .lane .ce && placesMeet p n a.place (amoSize a.ty)
    | .sae e => stores && e.core = core && g = .lane .sae && placesMeet p n e.place (amoSize e.et)
    | _ => false

/-- A write has left its die for its home: what it must follow is performed. -/
def State.leftDie (s : State) (tag : Nat) (t : StoreF) : Bool :=
  !s.olderOverlap tag t.core t.agent t.place t.bytes.length true true && s.allPerformed t.core t.after

/-- A thing in flight is a piece of a write of the same command as another, whose pieces are unordered (R229). -/
def StoreF.piecesOf (x : StoreF) (f : Option Flight) : Bool :=
  match f with
  | some (.store t) => decide (t.core = x.core) && decide (t.agent = x.agent) && decide (t.seq = x.seq) && (match t.agent with | .lane _ => true | _ => false)
  | _ => false

/-- Traffic from a die to another never overtakes itself (R363): something that has left before is still on the route. The pieces of one
command's writes take no order among themselves (R229). -/
def State.routeWait (s : State) (tag src dst : Nat) : Bool :=
  decide (src ≠ dst) && s.anyFlight fun t f => decide (t < tag) && match f with
    | .store x =>
      decide (x.origin.die = src) && (match x.place with | .home k => decide (homeDie k = dst) | _ => false)
        && s.leftDie t x && !s.causalWait x.origin dst && !x.piecesOf (s.flight tag)
    | .inval line d _ o => decide (homeDie (line * 64) = src) && decide (d = dst) && !s.causalWait o dst
    | _ => false

/-- A write or an invalidation on a route is held back (R363). -/
def State.heldBack (s : State) (tag src dst : Nat) (o : Origin) : Bool := s.causalWait o dst || s.routeWait tag src dst

/-- An acquire load of a context is still in flight: later accesses wait (R165). -/
def State.acquiring (s : State) (core : Nat) (fw : Bool) : Bool :=
  s.anyFlight fun _ f => match f with
    | .load l => l.core = core && l.fw = fw && decide (l.ord ≠ .relaxed) && decide (l.scope ≠ .lane)
    | _ => false

/-- A scope is die scope or wider. -/
def scopeWide (sc : Scope) : Bool := decide (3 ≤ sc.code)

/-- An acquire at a scope empties the scalar data cache at die scope or wider (R144). One at quad scope empties it where another core of
the quad has made a wider one since: what that core has acquired may come on through it (R366, R368). -/
def State.acquire (s : State) (core : Nat) (sc : Scope) : State :=
  let n := s.acqs.get 0 (quadOf core)
  if scopeWide sc then
    { s with acqs := s.acqs.put 0 (quadOf core) (n + 1) }.setCore core { s.core core with dcache := [], acqSeen := n + 1 }
  else if sc = .quad && decide ((s.core core).acqSeen ≠ n) then s.setCore core { s.core core with dcache := [], acqSeen := n }
  else s

/-- The number of a scope instance that holds a core (R28). -/
def instOf (core : Nat) (sc : Nat) : Nat :=
  match sc with
  | 0 | 1 => core
  | 2 => quadOf core
  | 3 => dieOf core
  | _ => 0

end Sys2Proof.Machine
end

