-- ==== Sys2Proof/Machine/Regs.lean ====
section
/-!
DEFINITION. The register files of a context: hard-wired registers, full/empty state and marks (R127 to R131).
-/

namespace Sys2Proof.Machine

/-- Scalar register `r`; `s0` reads zero (R127). -/
def Ctx.getS (c : Ctx) (r : Reg) : W64 := if r = 0 then 0 else c.s.get 0 r.toNat

/-- The full/empty state of `r`; `s0` is always full. -/
def Ctx.getFE (c : Ctx) (r : Reg) : FE := if r = 0 then .full else c.fe.get .full r.toNat

/-- The mark on `r`. -/
def Ctx.getMark (c : Ctx) (r : Reg) : Option Mark := if r = 0 then none else c.mark.get none r.toNat

/-- Write `r` and make it full, taking any mark away (R131, R169); a write to `s0` changes nothing (R92). -/
def Ctx.setS (c : Ctx) (r : Reg) (v : W64) : Ctx :=
  if r = 0 then c
  else { c with s := c.s.put 0 r.toNat v, fe := c.fe.put .full r.toNat .full, mark := c.mark.put none r.toNat none }

/-- `fe_set` without a value (R9): the state of `r` alone. -/
def Ctx.setFE (c : Ctx) (r : Reg) (f : FE) : Ctx :=
  if r = 0 then c else { c with fe := c.fe.put .full r.toNat f }

/-- Put a mark on `r`, or take it away. -/
def Ctx.setMark (c : Ctx) (r : Reg) (m : Option Mark) : Ctx :=
  if r = 0 then c else { c with mark := c.mark.put none r.toNat m }

/-- A producer delivers into `r` (R129): the value, FULL, and a mark where the delivery carries one. -/
def Ctx.deliver (c : Ctx) (r : Reg) (v : W64) (m : Option Mark) : Ctx := (c.setS r v).setMark r m

/-- Address register `r`. -/
def Ctx.getA (c : Ctx) (r : AReg) : VAddr := c.a.get 0 r.toNat

/-- Write address register `r`. -/
def Ctx.setA (c : Ctx) (r : AReg) (v : VAddr) : Ctx := { c with a := c.a.put 0 r.toNat v }

/-- Predicate `r`; `p0` reads true (R127). -/
def Ctx.getP (c : Ctx) (r : PReg) : Bool := if r = 0 then true else c.p.get false r.toNat

/-- Write predicate `r`; a write to `p0` changes nothing (R92). -/
def Ctx.setP (c : Ctx) (r : PReg) (v : Bool) : Ctx :=
  if r = 0 then c else { c with p := c.p.put false r.toNat v }

/-- `STATUS` (R134). -/
def Ctx.status (c : Ctx) (fw : Bool) : W64 :=
  BitVec.ofNat 64 ((if fw then 1 else 0) + (if c.ih then 2 else 0) + (if c.ds then 4 else 0))

/-- The word at the PC is done: the next word is the pending target after a delay slot, else the word that follows
(R98, R99). -/
def Ctx.advance (c : Ctx) : Ctx :=
  match c.slot with
  | some t => { c with pc := t, slot := none, op := none }
  | none => { c with pc := c.pc + 4, op := none }

/-- A branch or jump is taken: its delay slot comes next, then the target (R98). -/
def Ctx.branch (c : Ctx) (t : VAddr) : Ctx := { c with pc := c.pc + 4, slot := some t, op := none }

/-- `STALL.CNT` as a `wait` that ends at a tick leaves it: the ticks at which it sampled its conditions false (R147). -/
def Ctx.countStall (c : Ctx) (now : Nat) : Ctx :=
  match c.op with
  | some (.wait _ _ _ _ start) => { c with stallCnt := now - start }
  | _ => c

/-- An `x.renq.ack` of the context has sent its card, and no asynchronous event is accepted (R413). -/
def Ctx.sentCard (c : Ctx) : Bool := match c.op with | some (.renq ..) => true | _ => false

/-- Deliver into a register of a context of the package. -/
def State.deliver (s : State) (k : Nat) (fw : Bool) (r : Reg) (v : W64) (m : Option Mark) : State :=
  s.setCtx k fw ((s.ctx k fw).deliver r v m)

/-- The clock of a core's quad is stopped, at 0.30 V: its logic only retains (R462). -/
def Core.stopped (c : Core) : Bool := c.clockStep = 3

/-- The place of a context in `issuedAt`, behind those of the cores. -/
def slotKey (k : Nat) (fw : Bool) : Nat := 512 + 2 * k + (if fw then 1 else 0)

/-- A context has no turn at the issue slot before the next cycle (R139, R474). -/
def State.turnTaken (s : State) (k : Nat) (fw : Bool) : State :=
  { s with issuedAt := s.issuedAt.put 0 (slotKey k fw) (s.tb + 1) }

/-! ### Gating (R465) -/

/-- Ticks that ungating takes (R465). -/
def ungateTime (e : Eng) : Nat := if e = .me then 256 else 64

/-- Start ungating an engine; one that is awake or ungating already is unchanged (R465). -/
def Engine.wakeUp (x : Engine) (now : Nat) (e : Eng) : Engine :=
  match x.gate with
  | .gated => { x with gate := .ungating (now + ungateTime e) }
  | _ => x

/-! ### Refills of a bucket (R142) -/

/-- The refills of `n` periods of a bucket: debt is paid first. -/
def Bucket.refills (b : Bucket) (n : Nat) : Bucket :=
  let r := n * b.rate
  let paid := min b.debt r
  { b with debt := b.debt - paid, bal := min b.cap (b.bal + (r - paid)), last := b.last + n * (b.per + 1) }

/-- The refill of a bucket at the end of a period. -/
def Bucket.refill (b : Bucket) : Bucket := b.refills 1

/-- Every refill of a bucket that is due at the start of a cycle. -/
def Bucket.refillTo (b : Bucket) (now : Nat) : Bucket := b.refills ((now - b.last) / (b.per + 1))

/-- Every refill of the contexts of a core that is due at the start of a cycle. -/
def Core.refillTo (c : Core) (now : Nat) : Core :=
  { c with
    user := { c.user with bucket := c.user.bucket.refillTo now }
    firm := { c.firm with bucket := c.firm.bucket.refillTo now } }

end Sys2Proof.Machine
end

