-- ==== Sys2Proof/Machine/Calendar.lean ====
section
/-!
DEFINITION. Berth calendars and bookings: rows and uses of a calendar (R55, R56), the owner's actions (R65), messages between
booking units (R63, R64), result words (R79) and cancellation (R76).
-/

namespace Sys2Proof.Machine

/-- The number of a calendar in the map of its die. -/
def calKey (c : Cal) : Nat := c.kind.code * 1024 + c.idx

/-- The die whose BKU owns a calendar (R13, R14, R16). -/
def ownerDie (c : Cal) : Nat :=
  match c.kind with
  | .me | .ce => dieOf c.idx
  | .mcg => c.idx / 8
  | .port => if c.idx < 18 then 8 else 9

/-- A calendar of the package. -/
def State.cal (s : State) (c : Cal) : Calendar := (s.die (ownerDie c)).cals.get Calendar.reset (calKey c)

/-- A calendar replaced. -/
def State.setCal (s : State) (c : Cal) (x : Calendar) : State :=
  let d := s.die (ownerDie c)
  s.setDie (ownerDie c) { d with cals := d.cals.put Calendar.reset (calKey c) x }

/-- The running berth: `TB[63:8]` (R27). -/
def State.berth (s : State) : Nat := s.tb / 256

/-- The calendar row of a berth (R27). -/
def calRow (b : Nat) : Nat := b % 8192

/-- The row of a berth: `none` is FREE. -/
def Calendar.row (c : Calendar) (b : Nat) : Option Row := c.rows.get none (calRow b)

/-- Row `b` set. -/
def Calendar.setRow (c : Calendar) (b : Nat) (r : Option Row) : Calendar :=
  { c with rows := c.rows.put none (calRow b) r }

/-- Rows `b` to `b + n - 1` set. -/
def Calendar.setRows (c : Calendar) (b : Nat) (r : Option Row) : Nat → Calendar
  | 0 => c
  | n + 1 => Calendar.setRows (c.setRow b r) (b + 1) r n

/-- Rows `b` to `b + n - 1` are FREE; a POISONED calendar has none (R89). -/
def Calendar.freeRun (c : Calendar) (b n : Nat) : Bool :=
  !c.poisoned && (List.range n).all fun i => (c.row (b + i)).isNone

/-- Rows `b` to `b + n - 1` are FREE or belong to a use (R75). -/
def Calendar.freeOrOwn (c : Calendar) (id : UseId) (b n : Nat) : Bool :=
  !c.poisoned && (List.range n).all fun i =>
    match c.row (b + i) with
    | none => true
    | some r => r.id = id

/-- The earliest berth from `b` with a property, no later than the horizon allows; `fuel` bounds the search. -/
def earliest (p : Nat → Bool) : Nat → Nat → Option Nat
  | 0, _ => none
  | fuel + 1, b => if p b then some b else earliest p fuel (b + 1)

/-- The last berth that may be booked (R27). -/
def State.horizon (s : State) : Nat := s.berth + 8191

/-- The earliest berth from `b` whose `n` rows are FREE and inside the horizon. -/
def State.freeFrom (s : State) (c : Cal) (b n : Nat) : Option Nat :=
  earliest ((s.cal c).freeRun · n) (s.horizon + 2 - n - b) b

/-- A use of a calendar, as its owner records it. -/
def Calendar.use (c : Calendar) (id : UseId) : Option OwnUse := c.uses.find? fun u => u.id = id

/-- A use's record replaced. -/
def Calendar.setUse (c : Calendar) (u : OwnUse) : Calendar :=
  { c with uses := u :: c.uses.filter fun x => x.id ≠ u.id }

/-- Every row of a use turns FREE and the use is gone. -/
def Calendar.dropUse (c : Calendar) (id : UseId) : Calendar :=
  { c with
    rows := c.rows.filter fun p => match p.2 with | some r => r.id ≠ id | none => true
    uses := c.uses.filter fun x => x.id ≠ id }

/-- Rows of a use from `b` on turn FREE. -/
def Calendar.freeFromBerth (c : Calendar) (id : UseId) (b : Nat) : Nat → Calendar
  | 0 => c
  | n + 1 =>
    let c' := match c.row b with
      | some r => if r.id = id then c.setRow b none else c
      | none => c
    Calendar.freeFromBerth c' id (b + 1) n

/-- The owner's action on RELEASE and CANCEL (R65): HELD and BOOKED rows turn FREE; a RUNNING use is asked to stop,
but for one on a stopped unit or a poisoned calendar, which finishes (R88, R89). A RELEASE that names BOOKED rows frees them, as R65
says, where R66 would ignore one that names no held rows (DESIGN CHOICE, log entry 71). -/
def State.ownerRelease (s : State) (c : Cal) (id : UseId) : State :=
  let x := s.cal c
  match x.use id with
  | none => s
  | some u =>
    if u.start.isSome then
      (if (s.die (ownerDie c)).failstop || x.poisoned then s else s.setCal c (x.setUse { u with stop := true }))
    else s.setCal c (x.dropUse id)

/-- Place a use with rows in a state: the berths that have passed have no row any more (R27, R55). -/
def State.placeUse (s : State) (c : Cal) (u : OwnUse) : State :=
  let b := max u.first s.berth
  let x := (s.cal c).setRows b (some { st := u.st, id := u.id }) (u.first + u.n - b)
  s.setCal c (x.setUse u)

/-! ### Messages (R63, R64) -/

/-- Whether a use's owner lies in this package. -/
def State.useHere (s : State) (u : BUse) : Bool := s.ownPkg u.pkg

/-- The one-way owner latency of a use from a die (R63). -/
def State.tOwner (s : State) (die : Nat) (u : BUse) : Nat :=
  if s.useHere u then (if ownerDie u.cal = die then 60 else 140) else 140 + 700 * s.hops u.pkg

/-- The code of a booking message (R64). -/
def bookCode : BookType → Nat
  | .hold => 1 | .held => 2 | .refused => 3 | .refusedFatal => 4 | .commit => 5 | .release => 6 | .cancel => 7
  | .slip => 8 | .moved => 9 | .done => 10

/-- The 32 bytes of a booking message (R64). CORE[15] marks a harbourmaster's, whose use index, above 15 in a long tide (R424), goes on in
XID[15:12] (log entry 6). -/
def bookBytes (t : BookType) (m : BookMsg) : List Byte :=
  leBytes 1 (bookCode t) ++ leBytes 1 m.use ++ leBytes 2 (m.xid % 4096 + m.use / 256 % 16 * 4096) ++ leBytes 2 m.pkg
    ++ leBytes 2 (m.core + (if m.hm then 2 ^ 15 else 0))
    ++ leBytes 8 m.res.toNat ++ leBytes 8 m.berth ++ leBytes 8 m.exp

/-- A control packet of the fabric (R406, R407): CTRL messages carry their contents as payload. -/
def ctrlPacket (opc spkg score dpkg tag : Nat) (arg : W64) (data : List Byte) : Packet where
  opc := opc
  ackreq := false
  ord := true
  dpkg := dpkg
  spkg := spkg
  score := score
  tag := tag
  pa := 0
  arg := arg
  rsv := false
  data := data

/-- Use word 0 with DUR replaced by the berth count (R59, R64). -/
def useWord (pkg : Nat) (c : Cal) (withLink : Bool) (n : Nat) : W64 :=
  BitVec.ofNat 64 (c.kind.code * 2 ^ 62 + pkg * 2 ^ 51 + c.idx * 2 ^ 42 + (if withLink then 2 ^ 32 else 0) + n)

/-- The calendar of a use word (R59). -/
def calOfWord (w : Nat) : Cal where
  kind := match nbits w 63 62 with | 0 => .me | 1 => .ce | 2 => .mcg | _ => .port
  idx := nbits w 50 42

/-- Send a booking message about a use to its owner: along the D2D control path, or over the CL; one for an unreachable
package is answered by NAK and dropped here (R67). The tag of a HOLD, COMMIT or SLIP is kept for its NAK; that of a RELEASE or CANCEL
is not, whose NAK is dropped. -/
def State.toOwner (s : State) (die core : Nat) (hm : Bool) (xid j : Nat) (u : BUse) (t : BookType) (berth : Nat) : State :=
  let m : BookMsg :=
    { use := j, xid := xid, pkg := s.pkg, core := core, hm := hm, res := useWord u.pkg u.cal u.withLink u.n, berth := berth, exp := 0 }
  if s.useHere u then
    { s with msgs := s.msgs ++ [{ src := die, die := ownerDie u.cal, due := s.tb + s.tOwner die u, type_ := t, msg := m }] }
  else if s.hops u.pkg = 3 then s
  else
    let id : UseId := { pkg := s.pkg, core := core, hm := hm, xid := xid, use := j }
    let r := s.takeTag
    let rest := s.bookTags.filter fun p => p.2 ≠ id
    let asks := t = .hold || t = .commit || t = .slip
    { r.1 with bookTags := if asks then (r.2 % 65536, id) :: rest else rest }.send
      (ctrlPacket 0x10 s.pkg core u.pkg (r.2 % 65536) 0 (bookBytes t m))

/-- The die of a requester: the core's, or IOD0 for a harbourmaster (R424). -/
def reqDie (m : BookMsg) : Nat := if m.hm then 8 else dieOf m.core

/-- Send an answer to the requester of a use (R65). -/
def State.toRequester (s : State) (from_ : Nat) (t : BookType) (m : BookMsg) : State :=
  if m.pkg = s.pkg then
    { s with msgs := s.msgs ++ [{ src := from_, die := reqDie m, due := s.tb + (if reqDie m = from_ then 60 else 140), type_ := t, msg := m }] }
  else if s.hops m.pkg = 3 then s
  else s.send (ctrlPacket 0x10 s.pkg m.core m.pkg 0 0 (bookBytes t m))

/-! ### Result words and the table (R78, R79) -/

/-- The code of a status (R79). -/
def BookStatus.code : BookStatus → Nat
  | .held => 0 | .refused => 1 | .committed => 2 | .cancelled => 3 | .slipped => 4 | .fatal => 5 | .complete => 6

/-- A booking is live while HELD, COMMITTED or SLIPPED (R78). -/
def Booking.live (b : Booking) : Bool :=
  match b.status with
  | .held | .committed | .slipped => true
  | _ => false

/-- The result word of a booking (R79). -/
def Booking.word (b : Booking) : W64 :=
  let berth := match b.status with
    | .committed | .slipped | .complete | .refused => b.berth % 2 ^ 40
    | _ => 0
  BitVec.ofNat 64 (b.status.code * 2 ^ 60 + b.sub * 2 ^ 56 + b.id * 2 ^ 40 + berth)

/-- The result word NONE for an identifier that names no entry. -/
def bookNone (id : Nat) : W64 := BitVec.ofNat 64 (7 * 2 ^ 60 + id * 2 ^ 40)

/-- The booking of an identifier: the latest, where an older one that is finished bore it too (R78). -/
def Core.booking (c : Core) (id : Nat) : Option Booking := c.books.reverse.find? fun b => b.id = id

/-- A booking replaced. -/
def Core.setBooking (c : Core) (b : Booking) : Core :=
  { c with books := c.books.map fun x => if x.id = b.id && x.order = b.order then b else x }

/-- A booking of a core replaced. -/
def State.setBooking (s : State) (k : Nat) (b : Booking) : State := s.setCore k ((s.core k).setBooking b)

/-- Deliver the result word of a request that has ended (R81). -/
def State.deliverBooking (s : State) (k : Nat) (b : Booking) : State :=
  match b.dest with
  | none => s.setBooking k b
  | some (fw, r) => (s.setBooking k { b with dest := none }).deliver k fw r b.word none

/-- The identity of use `j` of a booking of a core. -/
def State.useId (s : State) (k : Nat) (b : Booking) (j : Nat) : UseId :=
  { pkg := s.pkg, core := k, hm := false, xid := b.id, use := j }

/-- Release one use of a booking: at its own BKU directly, else by message (R65, R76). -/
def State.releaseUse (s : State) (k : Nat) (b : Booking) (j : Nat) (u : BUse) (t : BookType) : State :=
  if u.fin then s
  else if s.useHere u && ownerDie u.cal = dieOf k then s.ownerRelease u.cal (s.useId k b j)
  else
    match u.ans with
    | .held _ | .own | .waiting => s.toOwner (dieOf k) k false b.id j u t u.first
    | _ => s

/-- Release every use of a booking from index `j` on. -/
def State.releaseUses (s : State) (k : Nat) (b : Booking) (t : BookType) : Nat → List BUse → State
  | _, [] => s
  | j, u :: us => State.releaseUses (s.releaseUse k b j u t) k b t (j + 1) us

/-- A booking as it ends; one that a resumed run books again is FATAL, subcode 2, where it is refused (R76). -/
def Booking.ends (b : Booking) (st : BookStatus) (sub : Nat) : Booking :=
  if b.rebook && (st = .refused || st = .fatal) then { b with status := .fatal, sub := 2, rebook := false }
  else { b with status := st, sub := sub }

/-- End a booking: its uses are cancelled, and its status, subcode and result word change (R76, R79). -/
def State.endBooking (s : State) (k : Nat) (b : Booking) (st : BookStatus) (sub : Nat) : State :=
  let t := if b.status = .held then BookType.release else .cancel
  (s.releaseUses k b t 0 b.uses).deliverBooking k (b.ends st sub)

/-- End every live booking of a core. -/
def State.endBookings (s : State) (k : Nat) (st : BookStatus) (sub : Nat) : State :=
  ((s.core k).books.filter Booking.live).foldl (fun s b => s.endBooking k b st sub) s

/-- A use of a booking has completed (R71, R77): the booking completes with its last use. -/
def State.useDone (s : State) (k id j : Nat) : State :=
  match (s.core k).booking id with
  | none => s
  | some b =>
    let us := b.uses.mapIdx fun i u => if i = j then { u with fin := true } else u
    let st := if us.all BUse.fin && (b.status = .committed || b.status = .slipped) then BookStatus.complete else b.status
    s.setBooking k { b with uses := us, status := st }

end Sys2Proof.Machine
end

