-- ==== Sys2Proof/Machine/Finish.lean ====
section
/-!
DEFINITION. How a run ends: completion records (R460, R461), a job's records given back, and the kill of a gang (R456).
-/

namespace Sys2Proof.Machine

/-! ### Memory of an address space, as firmware and the launch unit reach it -/

/-- Where an access of firmware or the launch unit to an address of an address space goes: the walk from the root that system
software set for the space (R238, R469), with the rights of the firmware context. Reads of other packages that it needs are
made in the name of core 0 (log entry 8). -/
def State.asPlace (s : State) (asn : Nat) (a : Acc) (va : VAddr) : State × XRes :=
  if va.toNat / 2 ^ 64 = 0xFF then (s, .page)
  else
    match s.walk 0 (s.roots.get 0 asn * 65536) va.toNat walkLevels with
    | (s, .wait) => (s, .wait)
    | (s, .fault) => (s.endWalk 0 va.toNat, .page)
    | (s, .leaf lo e _) =>
      match leafPa 0 true a lo e va with
      | none => (s.endWalk 0 va.toNat, .prot)
      | some pa => (s.endWalk 0 va.toNat, .ok (s.paPlace pa) none)

/-- What a read of an address space gives: bytes, a failure, or a wait for another package. -/
inductive AsRead where
  | ok (bs : List Byte)
  | fail
  | wait (s : State)
deriving DecidableEq, Repr

/-- Read bytes of an address space that lie inside one page, from IOD0: this package's memory at once, another's over the CL. -/
def State.asRead (s : State) (asn : Nat) (va : VAddr) (n : Nat) : AsRead :=
  match s.asPlace asn .load va with
  | (s, .wait) => .wait s
  | (s, .ok (.home k) _) => .ok (readBytes s.mem k n)
  | (s, .ok (.remote q pa) _) =>
    let p : Place := .remote q pa
    let mine (f : Flight) : Bool := match f with | .remoteRead r => r.core = 0 && r.fw && r.eng.isNone && r.place = p && r.n = n | _ => false
    match (s.flightTags mine).findSome? s.flight with
    | some (.remoteRead r) =>
      match r.data with
      | some bs => .ok bs
      | none => if r.nak = 0 then .wait s else .fail
    | _ =>
      let r := s.addFlight (.remoteRead { core := 0, fw := true, eng := none, place := p, n := n, nak := 0, data := none })
      .wait (r.1.send (memRead s.pkg 0 r.2 q pa n))
  | _ => .fail

/-- The answer that such a read waited for is forgotten once it is used. -/
def State.dropAs (s : State) (n : Nat) : State :=
  { s with flights := s.flights.filter fun p =>
      match p.2 with
      | some (.remoteRead r) => !(r.core = 0 && r.fw && r.eng.isNone && r.walk.isNone && r.n = n)
      | _ => true }

/-- What a write of an address space comes to. -/
inductive AsWrite where
  | ok (s : State)
  | fail
  | wait (s : State)
deriving DecidableEq, Repr

/-- Write bytes of an address space that lie inside one page. A write to another package's memory leaves as a posted WR; that of a
completion record is followed until its ACK, since its failure stops a launch queue (R461). -/
def State.asWrite (s : State) (of : Option RecordOf) (asn core : Nat) (va : VAddr) (bs : List Byte) : AsWrite :=
  match s.asPlace asn .store va with
  | (s, .wait) => .wait s
  | (s, .ok (.home k) _) =>
    let r := s.takeTag
    .ok (r.1.homeWrite Origin.outside r.2 k bs)
  | (s, .ok (.remote p pa) _) =>
    let s := s.setCore core ((s.core core).addSent p bs.length)
    let r := match of with
      | some _ =>
        s.addFlight (.remoteWrite { core := core, agent := .scalar true, win := none, eng := none, place := .remote p pa, va := va, asn := asn, record := of })
      | none => (s, 0)
    .ok (r.1.send
      { opc := 1, ackreq := of.isSome, ord := true, dpkg := p, spkg := s.pkg, score := core, tag := r.2 % 65536, pa := pa, arg := 0, rsv := false,
        data := bs })
  | _ => .fail

/-! ### Jobs and queues -/

/-- The job of a number. -/
def State.jobOf (s : State) (j : Nat) : Option Job := s.jobs.find? fun x => x.id = j

/-- A job replaced. -/
def State.setJob (s : State) (j : Job) : State := { s with jobs := s.jobs.map fun x => if x.id = j.id then j else x }

/-- A launch queue of the package. -/
def State.lq (s : State) (q : Nat) : LQueue := s.lqs.get LQueue.reset q

/-- A launch queue replaced. -/
def State.setLq (s : State) (q : Nat) (x : LQueue) : State := { s with lqs := s.lqs.put LQueue.reset q x }

/-- A queue stops on an error and raises its host interrupt (R35); cores that wait for its card are not kept for it. -/
def State.stopQueue (s : State) (q err : Nat) : State :=
  { s.setLq q { s.lq q with err := err, stop := true } with reserved := s.reserved.filter fun r => r.1 ≠ q }.tell (.hostInterrupt q)

/-- The 32 bytes of a completion record (R460). -/
def recordBytes (status flags core idx start end_ detail : Nat) : List Byte :=
  leBytes 1 status ++ leBytes 1 flags ++ leBytes 2 core ++ leBytes 4 idx ++ leBytes 8 start ++ leBytes 8 end_
    ++ leBytes 8 detail

/-- A part of a completion record is still to be written or acknowledged. -/
def State.recordOut (s : State) (of : RecordOf) : Bool :=
  s.owed.any (fun o => o.of = some of) || s.anyFlight fun _ f => match f with | .remoteWrite w => w.record = some of | _ => false

/-- A completion record is written: the queue moves past a refused card (R39). -/
def State.recordDone (s : State) (of : RecordOf) : State :=
  let x := s.lq of.q
  if of.card = some x.head && !s.recordOut of then s.setLq of.q { x with head := x.head + 128 } else s

/-- A completion record cannot be written: its queue stops with CARD_FAULT, at the card where one was refused (R39, R461); what is left
of the record is for no queue. -/
def State.recordFails (s : State) (of : RecordOf) : State :=
  let leave (p : Nat × Option Flight) : Nat × Option Flight :=
    match p.2 with
    | some (.remoteWrite w) => if w.record = some of then (p.1, some (.remoteWrite { w with record := none })) else p
    | _ => p
  { s with owed := s.owed.filter fun o => o.of ≠ some of, flights := s.flights.map leave }.stopQueue of.q 1

/-- Write parts in order; where one cannot be written the launch queue stops with CARD_FAULT, and where it waits for a page table of
another package the rest is owed (log entry 8). -/
def State.writeParts (s : State) (of : Option RecordOf) (asn core : Nat) : List (VAddr × List Byte) → State
  | [] => match of with | some o => s.recordDone o | none => s
  | (va, bs) :: ps =>
    match s.asWrite of asn core va bs with
    | .ok t => State.writeParts t of asn core ps
    | .wait t => { t with owed := t.owed ++ [{ of := of, asn := asn, core := core, parts := (va, bs) :: ps }] }
    | .fail => match of with | some o => s.recordFails o | none => s

/-- Write what is owed, as far as it goes. -/
def State.writeOwed (s : State) : State :=
  s.owed.foldl (fun s o => s.writeParts o.of o.asn o.core o.parts) { s with owed := [] }

/-- Write a completion record: bytes 0x10 to 0x1F first, then the STATUS granule, as a release at pod scope (R461). -/
def State.writeRecord (s : State) (of : RecordOf) (asn core : Nat) (va : VAddr) (bs : List Byte) : State :=
  s.writeParts (some of) asn core [(va + 16, bs.drop 16), (va, bs.take 16)]

/-- Insert a number into a rising list. -/
def insertNat (n : Nat) : List Nat → List Nat
  | [] => [n]
  | m :: ms => if n < m then n :: m :: ms else if n = m then m :: ms else m :: insertNat n ms

/-- Give records back to a job's dealing state (R456). -/
def Job.giveBack (j : Job) (rs : List Nat) : Job := { j with returned := rs.foldl (fun l r => insertNat r l) j.returned }

/-- Records of a job still to deal. -/
def Job.left (j : Job) : Nat := j.card.acnt - j.next

/-! ### Kill (R456) -/

/-- Whether a thing in flight is an outstanding producer of a core's user context, or belongs to a command of the core. -/
def Flight.discarded (core : Nat) (f : Flight) : Bool :=
  match f with
  | .load l => l.core = core && !l.fw
  | .remoteRead r => r.core = core && !r.fw
  | .arrive k _ _ _ => k = core
  | _ => false

/-- An ABANDON packet to the harbourmaster for a round (R427). -/
def State.abandonPacket (s : State) (r : MyRound) : Packet :=
  ctrlPacket 0x14 s.pkg r.core s.hmPrim 0 (BitVec.ofNat 64 (r.grp * 2 ^ 16 + r.round)) []

/-- Abandon the rounds that a core posted (R427, R453, R456). -/
def State.abandonRounds (s : State) (k : Nat) : State :=
  (s.myRounds.filter fun r => r.core = k).foldl (fun s r => s.send (s.abandonPacket r)) s

/-- The forced lane stops: its pass is over, and the slots it held are FREE (R319, R333). -/
def Core.leaveLane (c : Core) : Core :=
  { c with frows := none, fuse := none, omSt := c.omSt.filter fun p => p.2 ≠ .exp }

/-- Forced work is given up: a pass of it leaves the forced lane. -/
def Core.dropForced (c : Core) (d : Demand) : Core :=
  if d.runs.any fun r => (c.fuse.map (·.1)) = some r.id then c.leaveLane else c

/-- The cask table, memos and handles are discarded, and what is forced ends (R314, R456). -/
def Core.dropCasks (c : Core) : Core :=
  { c.leaveLane with casks := [], hnds := [], demand := none, forcing := [], boxDone := [] }

/-- A queue loses its entries (R456): commands stop at their tile boundary and nothing further starts. -/
def Engine.discard (e : Engine) : Engine := { e with q := [], partialWords := [], loads := [] }

/-- Stop a core's user context and discard what its run holds (R456): entries, casks, producers, bookings, rounds. Posted
writes already sent still arrive. -/
def State.stopRun (s : State) (k : Nat) (sub : Nat) : State :=
  let c := s.core k
  let u := { c.user with op := none, slot := none, blocked := false, notice := none }
  let c := { (c.setCtx false u).dropCasks with
    run := false, rows := none, me := c.me.discard, ce := c.ce.discard, ve := c.ve.discard, sae := c.sae.discard }
  let s := s.setCore k c
  let s := { s with
    flights := s.flights.filter fun p => match p.2 with | some f => !f.discarded k | none => false
    posts := s.posts.filter fun p => !(p.core = k && !p.fw)
    xwaits := s.xwaits.filter fun x => !(x.core = k && !x.fw)
    fenceSrc := s.fenceSrc.filter fun f => !(f.core = k && (!f.fw || f.retire)) }
  (s.endBookings k .cancelled sub).abandonRounds k

/-- A register whose mark reports a count mismatch has not been read (R417, R460). -/
def Ctx.unreadMismatch (c : Ctx) : Bool := c.mark.any fun p => match p.2 with | some m => m.trap.cause = .countMismatch | none => false

/-- The completion record of a run that ends on a core (R460). -/
def State.endRecord (s : State) (k : Nat) (j : Job) (r : Run) (status : Nat) (detail : Nat) : State :=
  let cmm := r.cmm || (s.core k).user.unreadMismatch
  let flags := (if cmm then 1 else 0) + (if r.ckpted then 2 else 0) + (if r.again then 4 else 0)
  s.writeRecord { q := j.q, card := none } j.card.asn k (vadd j.card.done (32 * r.idx)) (recordBytes status flags k r.idx r.start s.tb detail)

/-- End one member of a killed gang: its run stops; under RESTART a KILLED run's record returns to the job, otherwise its
record is written; records dealt to the core and not started return (R456). The core is free. -/
def State.killOne (s : State) (k : Nat) (status : Nat) (detail : Nat) : State :=
  let s := s.stopRun k 1
  let c := s.core k
  match c.job.bind s.jobOf with
  | none => s.setCore k { c with task := none, chunk := [] }
  | some j =>
    let redeal := status = 3 && j.card.restart
    let s := match c.task with
      | some r => if redeal then s else s.endRecord k j r status (if status = 3 then 0 else detail)
      | none => s
    let back := c.chunk ++ (match c.task with | some r => if redeal then [r.idx] else [] | none => [])
    let again := match c.task with | some r => if redeal then [r.idx] else [] | none => []
    let s := s.setJob { j.giveBack back with again := again ++ j.again, cores := j.cores.filter (· ≠ k) }
    s.setCore k { s.core k with task := none, chunk := [], job := none, lastJob := if c.task.isSome then some j.id else c.lastJob }

/-- A checkpointed member of a killed gang ends too (R456): its record returns to the job, or is written as KILLED. -/
def State.killSaved (s : State) (j : Nat) : State :=
  let s' := { s with saved := s.saved.filter fun v => v.job ≠ j }
  (s.saved.filter fun v => v.job = j).foldl (fun s v =>
    match s.jobOf j with
    | none => s
    | some x =>
      if x.card.restart then s.setJob { x.giveBack [v.run.idx] with again := v.run.idx :: x.again }
      else
        let k := nthCore x v.run.member
        s.writeRecord { q := x.q, card := none } x.card.asn k (vadd x.card.done (32 * v.run.idx))
          (recordBytes 3 ((if v.run.cmm || v.core.user.unreadMismatch then 1 else 0) + 2 + (if v.run.again then 4 else 0)) k v.run.idx v.run.start s.tb 0)) s'
where
  /-- The core of a member of a gang. -/
  nthCore (x : Job) (m : Nat) : Nat := (x.members[m]?).getD 0

/-- A job whose gang has ended (R43): it goes once nothing of it is left, and its barrier state with it; a job whose cores
have left and that has records to deal, or checkpointed runs, may be placed again (R54, R452). -/
def State.settleJob (s : State) (id : Nat) : State :=
  match s.jobOf id with
  | none => s
  | some j =>
    if !j.cores.isEmpty then s
    else if j.left = 0 && j.returned.isEmpty && !s.saved.any (fun v => v.job = id) then
      { s with jobs := s.jobs.filter fun x => x.id ≠ id, bars := s.bars.filter fun b => b.gang ≠ id + 1 }
    else s.setJob { j with leaving := false }

/-- Kill a gang (R456): the named core ends with a status, every other member with KILLED. -/
def State.kill (s : State) (k : Nat) (status : Nat) (detail : Nat) : State :=
  match (s.core k).job with
  | none => s.killOne k status detail
  | some id =>
    let others := match s.jobOf id with
      | some j => j.cores.filter (· ≠ k)
      | none => []
    ((others.foldl (fun s c => s.killOne c 3 0) (s.killOne k status detail)).killSaved id).settleJob id

end Sys2Proof.Machine
end

