-- ==== Sys2Proof/Machine/Ops.lean ====
section
/-!
DEFINITION. The shared operations of the control sequencer: how an instruction ends (a result, a trap, or a wait at issue),
taking an exception (R439, R441), returning from one (R194), the checks that come before an effect (R97, R133), scalar
sources (R130) and descriptor reads.
-/

namespace Sys2Proof.Machine

/-- How a word ends at issue: its effect is done, it traps (R437: the state is the one before it, but for what the manual lets
a trapping word change), or it waits and will issue again (R130). -/
inductive Res where
  | ok (s : State)
  | trap (s : State) (t : Trap)
  | wait (s : State)
deriving DecidableEq, Repr

/-- A trap with four numbers in EINFO0 to EINFO3 (R435). -/
def mkTrap (c : Cause) (e0 e1 e2 e3 : Nat) : Trap :=
  { cause := c, e0 := BitVec.ofNat 64 e0, e1 := BitVec.ofNat 64 e1, e2 := BitVec.ofNat 64 e2, e3 := BitVec.ofNat 64 e3 }

/-! ### Taking an exception -/

/-- An unhandled trap or a double trap (R441): the user context halts and its run ends as a kill with status FAULT; in the
firmware context the core halts. No save register changes. -/
def State.unhandled (s : State) (k : Nat) (fw : Bool) (t : Trap) (pc : VAddr) : State :=
  if fw then
    (s.setCore k { s.core k with dead := true }).tell (.coreHalted k)
  else
    let c := s.core k
    let s := s.setCore k { c with run := false, user := { c.user with halted := true } }
    (s.tell (.trap k t.cause pc t.e0 t.e1 t.e2 t.e3)).kill k 2 (t.cause.code + pc.toNat % 2 ^ 56 * 256)

/-- The save registers and status of a context as trap entry leaves them (R439): `pc` is the PC of the instruction, or the
one at which issue resumes; `slot` is the pending target when it is a delay-slot word (R440). -/
def Ctx.enter (c : Ctx) (fw : Bool) (t : Trap) (async : Bool) (pc : VAddr) (slot : Option VAddr) : Ctx :=
  let tgt : VAddr := slot.getD 0
  { c with
    sstatus := BitVec.ofNat 64 (pc.toNat / 2 ^ 64 * 2 ^ 56 + tgt.toNat / 2 ^ 64 * 2 ^ 48 + (c.status fw).toNat)
    epc := BitVec.ofNat 64 pc.toNat
    etgt := BitVec.ofNat 64 tgt.toNat
    ecause := BitVec.ofNat 64 ((if async then 2 ^ 63 else 0) + t.cause.code)
    einfo0 := t.e0
    einfo1 := t.e1
    einfo2 := t.e2
    einfo3 := t.e3
    ih := true
    ds := slot.isSome
    pc := BitVec.ofNat 72 (c.tvec.toNat / 4 * 4)
    slot := none
    op := none
    noticeLeft := if t.cause = .notice then 32 else c.noticeLeft
    blocked := false }

/-- A demand of a context that a trap ends before it has completed is to issue again: the box tiles it has written are
recorded (R298, R313). -/
def Core.leaveDemand (c : Core) (fw : Bool) : Core :=
  match c.demand with
  | none => c
  | some d =>
    if d.fw ≠ fw then c
    else
      let c := c.dropForced d
      match d.work with
      | .box kv kc ev ec _ _ bs org ext _ =>
        { c with
          demand := none
          boxDone := { fw := fw, kv := kv, kc := kc, ev := ev, ec := ec, box := bs, org := org, ext := ext, tiles := d.done }
            :: c.boxDone.filter fun b => b.fw ≠ fw }
      | _ => { c with demand := none }

/-- Take a trap in a context (R439). A NOTICE with no handler is discarded. An asynchronous one gives up the walks of a word that waited
(R472). -/
def State.takeTrapAt (s : State) (k : Nat) (fw : Bool) (t : Trap) (async : Bool) (pc : VAddr) (slot : Option VAddr) :
    State :=
  let c := (s.ctx k fw).countStall s.tb
  if c.ih || (!fw && c.tvec = 0 && t.cause ≠ .notice) then s.unhandled k fw t pc
  else if !fw && c.tvec = 0 then s
  else
    let s := s.setCtx k fw (c.enter fw t async pc slot)
    let s := s.setCore k ((s.core k).leaveDemand fw)
    if async then s.dropWalk k else s

/-- Take a synchronous trap at the word at the PC of a context. -/
def State.takeTrap (s : State) (k : Nat) (fw : Bool) (t : Trap) : State :=
  s.takeTrapAt k fw t false (s.ctx k fw).pc (s.ctx k fw).slot

/-- Return from a trap (R194): STATUS and PC come back; a trap taken in a delay slot resumes as the slot of a branch to the
saved target. -/
def Ctx.leave (c : Ctx) : Ctx :=
  { c with
    ih := nbit c.sstatus.toNat 1
    ds := nbit c.sstatus.toNat 2
    pc := BitVec.ofNat 72 (nbits c.sstatus.toNat 63 56 * 2 ^ 64 + c.epc.toNat)
    slot := if c.ds then some (BitVec.ofNat 72 (nbits c.sstatus.toNat 55 48 * 2 ^ 64 + c.etgt.toNat)) else none
    op := none
    noticeLeft := 0 }

/-- The word at the PC of the executing context waits at issue. -/
def State.blockCur (s : State) : State := s.setCur { s.cur with blocked := true }

/-- The outcome of a word. -/
def Res.out (r : Res) : Host.Outcome State Fault Refusal :=
  match r with
  | .ok s => .next s
  | .trap s t => .next (s.takeTrap s.focusCore s.focusFw t)
  | .wait s => .next s.blockCur

/-- The word at the PC is done: the executing context moves on. -/
def State.retire (s : State) : State := s.setCur s.cur.advance

/-! ### Checks before an effect -/

/-- Check 5 of R97: a word that may not stand in a delay slot (R100). -/
def notInSlot (s : State) (k : Res) : Res :=
  if s.cur.slot.isSome then .trap s (mkTrap .illegalSlot s.word.toNat 0 0 0) else k

/-- Check 6 of R97: a word that firmware may not execute. -/
def userOnly (s : State) (k : Res) : Res :=
  if s.focusFw then .trap s (mkTrap .priv s.word.toNat 1 0 0) else k

/-- Check 6 of R97: per-core state that firmware may use only while the user context is halted (R133). -/
def coreState (s : State) (k : Res) : Res :=
  if s.focusFw && s.curCore.run then .trap s (mkTrap .priv s.word.toNat 2 0 0) else k

/-! ### Scalar sources and destinations -/

/-- A fault of a queue is reported (R443). -/
def Engine.faultReported (x : Engine) (n : Nat) : Engine :=
  { x with rep := x.rep.map fun f => if f.seq = n then { f with reported := true } else f }

/-- A mark's trap is taken by its first reader: a mismatch mark goes (R417); a fault is reported, and every mark of the same
fault goes (R443); a poisoned register stays poisoned until it is written (R169). -/
def State.markRead (s : State) (r : Reg) (m : Mark) : State :=
  match m.of with
  | some (e, n) =>
    let c := s.curCore
    let u := { c.user with mark := c.user.mark.filter fun p => match p.2 with | some x => x.of ≠ some (e, n) | none => true }
    s.setCurCore ((c.setEng e ((c.eng e).faultReported n)).setCtx false u)
  | none => if m.trap.cause = .countMismatch then s.setCur (s.cur.setMark r none) else s

/-- Read a scalar source under its policy bit (R130), then its mark (R438 step 4). -/
def readSrc (s : State) (r : Reg) (pol : Bool) (k : W64 → Res) : Res :=
  match s.cur.getFE r with
  | .full =>
    match s.cur.getMark r with
    | none => k (s.cur.getS r)
    | some m => .trap (s.markRead r m) m.trap
  | .pending => if pol then .trap s (mkTrap .feEmpty r.toNat 0 0 0) else .wait s
  | .empty => .trap s (mkTrap .feEmpty r.toNat 1 0 0)

/-- An instruction whose destination is PENDING waits at issue (R131). -/
def waitDest (s : State) (r : Reg) (k : Res) : Res :=
  if s.cur.getFE r = .pending then .wait s else k

/-- Write a scalar result and move on. -/
def writeS (s : State) (r : Reg) (v : W64) : Res := .ok (s.setCur (s.cur.setS r v).advance)

/-- Write an address result and move on. -/
def writeA (s : State) (r : AReg) (v : VAddr) : Res := .ok (s.setCur (s.cur.setA r v).advance)

/-- Write a predicate and move on. -/
def writeP (s : State) (r : PReg) (v : Bool) : Res := .ok (s.setCur (s.cur.setP r v).advance)

/-! ### Reads of descriptors -/

/-- The answer of a read that may have to wait for another package. -/
inductive Rd where
  | ok (s : State) (bs : List Byte)
  | fail (s : State) (t : Trap)
  | wait (s : State)
deriving DecidableEq, Repr

/-- Bytes of a place overlaid by the stores in flight of a context to it (R164). -/
def overlay (place : Place) (n : Nat) (bs : List Byte) (t : StoreF) : List Byte :=
  let hit (a b : Nat) : List Byte :=
    bs.mapIdx fun i x => if b ≤ a + i && a + i < b + t.bytes.length then (t.bytes[a + i - b]?).getD x else x
  match place, t.place with
  | .home a, .home b => if a < b + t.bytes.length && b < a + n then hit a b else bs
  | .spad c a, .spad d b => if c = d && (a < b + t.bytes.length && b < a + n) then hit a b else bs
  | .remote p a, .remote q b => if p = q && (a < b + t.bytes.length && b < a + n) then hit a b else bs
  | .rwin p c a, .rwin q d b => if (p = q && c = d) && (a < b + t.bytes.length && b < a + n) then hit a b else bs
  | _, _ => bs

/-- The writes in flight that an agent's reads see (R164, R222, R360): its own; forced work also sees the scalar stores, all
of which were made before the casks that read their bytes (R303, R307). -/
def StoreF.seenBy (t : StoreF) (core : Nat) (g : Agent) : Bool :=
  t.core = core && (t.agent = g || (g = .forced && (t.agent = .scalar false || t.agent = .scalar true)))

/-- Overlay the writes in flight that an agent sees, oldest first, up to a tag. -/
def State.forward (s : State) (core : Nat) (g : Agent) (below : Nat) (place : Place) (n : Nat) (bs : List Byte) : List Byte :=
  s.flights.foldl (fun bs p =>
    match p.2 with
    | some (.store t) => if t.seenBy core g && p.1 < below then overlay place n bs t else bs
    | _ => bs) bs

/-- A window access from core `k` is refused by core `c` (R231, R277): no run is placed there, its run belongs to another
address space, or the bytes are beyond its scratchpad or in its cask scratch area. -/
def State.windowRefused (s : State) (asn c off n : Nat) : Bool :=
  let x := s.core c
  x.task.isNone || decide (x.asn ≠ asn) || decide (x.spadSize < off + n) || x.inScratch off n

/-- The fields of a packet for a place of another package: memory by its PA; a scratchpad by the core and offset in ARG with
ARG[63] set and the address space in ARG[62:47] (log entry 6). -/
def remoteFields (asn : Nat) (p : Place) : Option (Nat × Nat × W64) :=
  match p with
  | .remote q pa => some (q, pa, 0)
  | .rwin q c o => some (q, 0, BitVec.ofNat 64 (2 ^ 63 + asn * 2 ^ 47 + c * 2 ^ 22 + o))
  | _ => none

/-- An RD packet (R406): LEN of the bytes wanted stands in ARG[46:34] of a window, in ARG[12:0] of memory (log entry 6). -/
def rdPacket (spkg core tag asn n : Nat) (p : Place) : Packet :=
  match remoteFields asn p with
  | some (q, pa, arg) =>
    let len := match p with | .rwin .. => BitVec.ofNat 64 (n * 2 ^ 34) | _ => BitVec.ofNat 64 n
    { opc := 2, ackreq := true, ord := false, dpkg := q, spkg := spkg, score := core, tag := tag % 65536, pa := pa,
      arg := arg ||| len, rsv := false, data := [] }
  | none => ctrlPacket 2 spkg core spkg tag 0 []

/-- A descriptor's bytes are uncorrectable (R448): the reader traps ECC as R169 says, at the word itself; no register receives
the bytes, so EINFO2 is zero (R9). -/
def State.eccRead (s : State) (k : Nat) (fw : Bool) (va : VAddr) : Rd :=
  .fail s (mkTrap .ecc (s.ctx k fw).pc.toNat va.toNat 0 0)

/-- Read bytes of a place for a context, behind the sc stores that its reads follow (R370): own scratchpad, a peer's scratchpad, memory of
this package with the context's own stores in flight laid over it, or another package's, for which an RD leaves and the word waits (log
entry 7). A line of memory so read leaves the scalar data cache, which may hold an older one (R360). -/
def State.readPlace (s : State) (k : Nat) (fw : Bool) (va : VAddr) (n : Nat) (p : Place) : Rd :=
  if !s.allPerformed k (s.ctx k fw).scLast then .wait s
  else
  match p with
  | .spad c o =>
    let x := s.core c
    if c = k then
      if x.spadSize < o + n then .fail s (mkTrap .page va.toNat 0 0 0)
      else if x.inScratch o n && !fw then .fail s (mkTrap .prot va.toNat 0 0 0)
      else if x.spadBad o n then s.eccRead k fw va
      else .ok s (x.spadRead o n)
    else if s.windowRefused (s.core k).asn c o n then .fail s (mkTrap .prot va.toNat 0 0 0)
    else if x.spadBad o n then s.eccRead k fw va
    else .ok s (s.forward k (.scalar fw) s.nextTag p n (x.spadRead o n))
  | .home key =>
    if s.homeBad key n then s.eccRead k fw va
    else
    let r := s.readVia k (.scalar fw) (n + 1) key n
    .ok (r.1.setCore k ((r.1.core k).dcDrop (linesOf key n))) (s.forward k (.scalar fw) s.nextTag p n r.2)
  | _ =>
    let mine (f : Flight) : Bool :=
      match f with
      | .remoteRead r => r.core = k && r.fw = fw && r.eng.isNone && r.place = p && r.n = n
      | _ => false
    match s.flightTags mine with
    | [] =>
      if s.writesTo s.nextTag k (.scalar fw) p then .wait s
      else
      let r := s.addFlight (.remoteRead { core := k, fw := fw, eng := none, place := p, n := n, nak := 0, data := none })
      .wait (r.1.send (rdPacket s.pkg k r.2 (s.core k).asn n p))
    | t :: _ =>
      match s.flight t with
      | some (.remoteRead r) =>
        match r.data with
        | some bs => .ok s bs
        | none =>
          if r.nak = 0 then .wait s
          else if r.nak = 257 then .fail s (mkTrap .prot va.toNat 0 0 0)
          else if r.nak = 258 then s.eccRead k fw va
          else .fail s (mkTrap .fabricNak r.nak (s.ctx k fw).pc.toNat 0 0)
      | _ => .wait s

/-- Read `n` bytes at a virtual address that lie inside one 16-byte granule's page. -/
def State.readVa (s : State) (k : Nat) (fw : Bool) (va : VAddr) (n : Nat) : Rd :=
  match s.translate k fw .load va with
  | (s, .page) => .fail s (mkTrap .page va.toNat 0 0 0)
  | (s, .prot) => .fail s (mkTrap .prot va.toNat 0 0 0)
  | (s, .wait) => .wait s
  | (s, .ok p _) => s.readPlace k fw va n p

/-- Read `m` granules of 16 bytes from an aligned address (R279, R145): the first that fails gives the trap. -/
def State.readGranules (s : State) (k : Nat) (fw : Bool) (va : VAddr) : Nat → Rd
  | 0 => .ok s []
  | m + 1 =>
    match s.readVa k fw va 16 with
    | .ok s bs =>
      match State.readGranules s k fw (va + 16) m with
      | .ok s cs => .ok s (bs ++ cs)
      | r => r
    | r => r

/-- The word at the PC goes on behind forced work that it had to wait for (R306, R308). -/
def Ctx.resumed (c : Ctx) : Bool := match c.op with | some (.resumed _) => true | _ => false

/-- A descriptor that the word has read already, before the forced work it waited for (R279). -/
def Ctx.descRead (c : Ctx) (va : VAddr) (n : Nat) : Option (List Byte) :=
  match c.op with
  | some (.resumed l) => (l.find? fun p => p.1 = va && decide (n ≤ p.2.length)).map fun p => p.2.take n
  | _ => none

/-- A word that has begun a demand keeps a descriptor it has read: the memory is never read again (R279). -/
def Res.keepDesc (r : Res) (va : VAddr) (bs : List Byte) : Res :=
  match r with
  | .ok s =>
    if s.cur.op = some .demand then
      .ok (s.setCurCore { s.curCore with demand := s.curCore.demand.map fun d => { d with descs := d.descs ++ [(va, bs)] } })
    else .ok s
  | r => r

/-- A descriptor of `n` bytes, a multiple of 16, read by the executing word, once (R279): an address that is not 16-byte aligned
traps ALIGN. -/
def readDesc (s : State) (va : VAddr) (n : Nat) (k : State → List Byte → Res) : Res :=
  match s.cur.descRead va n with
  | some bs => (k s bs).keepDesc va bs
  | none =>
    if va.toNat % 16 ≠ 0 then .trap s (mkTrap .align va.toNat 16 0 0)
    else
      match s.readGranules s.focusCore s.focusFw va (n / 16) with
      | .ok s bs => (k s bs).keepDesc va bs
      | .fail s t => .trap s t
      | .wait s => .wait s

/-- The executing word is over: the answers that its reads of other packages waited for are gone. -/
def State.dropReads (s : State) : State :=
  { s with flights := s.flights.filter fun p =>
      match p.2 with
      | some (.remoteRead r) => !(r.core = s.focusCore && r.fw = s.focusFw && r.eng.isNone)
      | _ => true }

/-- A word that reads descriptors is over unless it waits. -/
def Res.dropReads (r : Res) : Res :=
  match r with
  | .ok s => .ok s.dropReads
  | .trap s t => .trap s.dropReads t
  | .wait s => .wait s

/-- A field of `n` bytes at offset `o` of a descriptor, little-endian. -/
def field (bs : List Byte) (o n : Nat) : Nat := leNat ((bs.drop o).take n)

/-- A counted instruction (R304): the write-sequence counter rises by one at its issue in the user context, once for the
issue however long the word waits at it. -/
def raised (s : State) (f : State → Res) : Res :=
  let c := s.curCore
  if s.focusFw || s.cur.resumed then f s
  else
    match f (s.setCurCore { c with wseq := c.wseq + 1 }) with
    | .wait t => .wait (t.setCurCore { t.curCore with wseq := c.wseq })
    | r => r

end Sys2Proof.Machine
end

