-- ==== Sys2Proof/Machine/EngMem.lean ====
section
/-!
DEFINITION. Memory as engines and forced work reach it (R215, R229, R241, R243): reads see the visible page, writes go to the
twin, a failed access is an inner cause of an engine fault (R112, R212), and an access to another package waits for its
answer.
-/

namespace Sys2Proof.Machine

/-- Inner causes (R112, R212, R311, R408). -/
def badOp : Byte := 0x01
def badChain : Byte := 0x02
def badField : Byte := 0x03
def badLink : Byte := 0x04
def fAlign : Byte := 0x05
def fPage : Byte := 0x06
def fProt : Byte := 0x07
def fTable : Byte := 0x08
def fEcc : Byte := 0x09
def fCask : Byte := 0x0A
def fScratch : Byte := 0x0B
def fNak : Byte := 0x0C

/-- What an access of an engine gives: a value, an inner cause with the address, or a wait for another package. -/
inductive ERes (α : Type) where
  | ok (s : State) (v : α)
  | fault (s : State) (cause : Byte) (addr : W64)
  | wait (s : State)

/-- Who accesses: a program's command of an engine, or forced work and the exchange (which may use the scratch area). `run` is the
core whose engine runs a stolen command of `core` (R210, R211). -/
structure Who where
  core : Nat
  eng : Option (Eng × Nat)
  run : Option Nat := none
deriving DecidableEq, Repr

/-- The agent that makes the access (R358). -/
def Who.agent (w : Who) : Agent := match w.eng with | some (e, _) => .lane e | none => .forced

/-- The core that a path begins at (R211, R237). -/
def Who.from_ (w : Who) : Nat := w.run.getD w.core

/-- Chain two engine accesses. -/
def ERes.bind {α β : Type} (r : ERes α) (f : State → α → ERes β) : ERes β :=
  match r with
  | .ok s v => f s v
  | .fault s c a => .fault s c a
  | .wait s => .wait s

/-- The low 64 bits of an address, as EINFO3 carries it. -/
def va64 (va : VAddr) : W64 := va.setWidth 64

/-- A fault at an address. -/
def eFault {α : Type} (s : State) (c : Byte) (va : VAddr) : ERes α := .fault s c (va64 va)

/-- The fault of a place beyond the owner's scratchpad: a stolen command reaches it through the quad window, which refuses
(R211, R226, R231). -/
def Who.beyond (w : Who) : Byte := if w.run.isSome then fProt else fPage

/-- The fault of an address without a page: beyond the owner's scratchpad a stolen command is refused as by the quad window
(R211, R231). -/
def State.noPage (s : State) (w : Who) (va : VAddr) : Byte :=
  match (if va.toNat / 2 ^ 64 = 0xFF then s.apertureAt w.core (va.toNat % 2 ^ 64) else none) with
  | some (.spad _ _, none) => w.beyond
  | _ => fPage

/-- Bytes that a command moves over a path are counted (R237). -/
def State.countMove (s : State) (w : Who) (lat rate n : Nat) : State :=
  match w.eng with
  | none | some (_, 0) => s
  | some (e, seq) =>
    let c := s.core w.core
    let x := c.eng e
    let here (m : Move) : Bool := m.seq = seq && m.lat = lat && m.rate = rate
    let ms := if x.moved.any here then x.moved.map fun m => if here m then { m with bytes := m.bytes + n } else m
      else { seq := seq, lat := lat, rate := rate, bytes := n } :: x.moved
    s.setCore w.core (c.setEng e { x with moved := ms })

/-- A read of a command counted on its path; `before` is the state that it read in, whose die copies may have served it. -/
def State.countRead (s before : State) (w : Who) (p : Place) (n : Nat) : State :=
  let k := w.from_
  let copy := match p with | .home key => before.hasCopy (dieOf k) (lineOf key) | _ => false
  s.countMove w (s.readLat k p copy) (rateOf k p copy) n

/-- A write of a command counted on its path. -/
def State.countWrite (s : State) (w : Who) (p : Place) (n : Nat) : State :=
  s.countMove w (s.writeLat w.from_ p) (rateOf w.from_ p false) n

/-- A command of another queue has written a granule of a scratchpad in part: a command's read of it waits (R224). -/
def State.halfWritten (s : State) (w : Who) (p : Place) : Bool :=
  s.anyFlight fun _ f => match f with
    | .store t => t.begun && decide (t.place.granule = p.granule) && !(t.core = w.core && t.agent = w.agent)
    | _ => false

/-- Read `n` bytes of a place for an engine: the writes of its own agent that are on their way are seen (R222). -/
def State.engPlaceRead (s : State) (w : Who) (va : VAddr) (n : Nat) (p : Place) : ERes (List Byte) :=
  match p with
  | .spad c o =>
    let x := s.core c
    if s.halfWritten w p then .wait s
    else if c = w.core then
      if x.spadSize < o + n then eFault s w.beyond va
      else if w.eng.isSome && x.inScratch o n then eFault s fProt va
      else if x.spadBad o n then eFault s fEcc va
      else .ok (s.countRead s w p n) (s.forward w.core w.agent s.nextTag p n (x.spadRead o n))
    else if s.windowRefused (s.core w.core).asn c o n then eFault s fProt va
    else if x.spadBad o n then eFault s fEcc va
    else .ok (s.countRead s w p n) (s.forward w.core w.agent s.nextTag p n (x.spadRead o n))
  | .home key =>
    if s.homeBad key n then eFault s fEcc va
    else
      let r := s.readVia w.core w.agent (n + 1) key n
      .ok (r.1.countRead s w p n) (s.forward w.core w.agent s.nextTag p n r.2)
  | _ =>
    let mine (f : Flight) : Bool :=
      match f with
      | .remoteRead r => r.core = w.core && !r.fw && r.eng = w.eng && r.place = p && r.n = n
      | _ => false
    match s.flightTags mine with
    | [] =>
      if s.writesTo s.nextTag w.core w.agent p then .wait s
      else
      let r := s.addFlight
        (.remoteRead { core := w.core, fw := false, eng := w.eng, place := p, n := n, nak := 0, data := none })
      .wait (r.1.send (rdPacket s.pkg w.core r.2 (s.core w.core).asn n p))
    | t :: _ =>
      match s.flight t with
      | some (.remoteRead r) =>
        match r.data with
        | some bs => .ok (s.countRead s w p n) (s.forward w.core w.agent s.nextTag p n bs)
        | none =>
          if r.nak = 0 then .wait s
          else eFault s (if r.nak = 257 then fProt else if r.nak = 258 then fEcc else fNak) va
      | _ => .wait s

/-- Read `n` bytes at an address that lie inside one page. -/
def State.engRead (s : State) (w : Who) (va : VAddr) (n : Nat) : ERes (List Byte) :=
  match s.translate w.core false .engRead va with
  | (s, .page) => eFault s (s.noPage w va) va
  | (s, .prot) => eFault s fProt va
  | (s, .wait) => .wait s
  | (s, .ok p _) => s.engPlaceRead w va n p

/-- The answers that a command's reads of other packages waited for are gone. -/
def State.dropEngReads (s : State) (w : Who) : State :=
  { s with flights := s.flights.filter fun p =>
      match p.2 with
      | some (.remoteRead r) => !(r.core = w.core && !r.fw && r.eng = w.eng)
      | _ => true }

/-- A piece of an engine's write leaves for its place (R229, R363); its tag. -/
def State.postWrite (s : State) (w : Who) (va : VAddr) (bs : List Byte) (p : Place) : State × Nat :=
  let o := s.origin w.core w.agent
  o.1.addFlight (.store
    { core := w.core, agent := w.agent, seq := (w.eng.map (·.2)).getD 0, place := p, va := va, bytes := bs, ord := .relaxed,
      scope := .lane, after := [], win := none, asn := (s.core w.core).asn, origin := o.2, begun := false })

/-- Write bytes to a place for an engine: the tag of the write, which is on its way until its home, or the core whose scratchpad it
is, applies it, or until it leaves for another package (R229, R230, R236, R414). -/
def State.engPlaceWrite (s : State) (w : Who) (va : VAddr) (bs : List Byte) (p : Place) : ERes Nat :=
  let post : ERes Nat := let r := (s.countWrite w p bs.length).postWrite w va bs p; .ok r.1 r.2
  match p with
  | .spad c o =>
    let x := s.core c
    if c ≠ w.core then post
    else if x.spadSize < o + bs.length then eFault s w.beyond va
    else if w.eng.isSome && x.inScratch o bs.length then eFault s fProt va
    else post
  | .home _ => post
  | _ => post

/-- Write bytes at an address that lie inside one page: to the twin of a shadow page (R243). -/
def State.engWrite (s : State) (w : Who) (va : VAddr) (bs : List Byte) : ERes Nat :=
  match s.translate w.core false .engWrite va with
  | (s, .page) => eFault s (s.noPage w va) va
  | (s, .prot) => eFault s fProt va
  | (s, .wait) => .wait s
  | (s, .ok p _) => s.engPlaceWrite w va bs p

/-- The size of the first piece of an access (R229). -/
def pieceSize (va : VAddr) (n : Nat) : Nat := ([16, 8, 4, 2].find? fun k => decide (k ≤ n) && decide (va.toNat % k = 0)).getD 1

/-- Read `n` bytes in pieces (R229): an element of 64 bytes is four of them (R215). -/
def State.engReadN (s : State) (w : Who) (va : VAddr) : Nat → Nat → ERes (List Byte)
  | 0, _ => .ok s []
  | fuel + 1, n =>
    if n = 0 then .ok s []
    else
      let m := pieceSize va n
      (s.engRead w va m).bind fun s bs =>
        (State.engReadN s w (va + BitVec.ofNat 72 m) fuel (n - m)).bind fun s cs => .ok s (bs ++ cs)

/-- Write bytes in pieces (R229); the tags of the writes. -/
def State.engWriteN (s : State) (w : Who) (va : VAddr) : Nat → List Byte → ERes (List Nat)
  | 0, _ => .ok s []
  | fuel + 1, bs =>
    if bs.isEmpty then .ok s []
    else
      let m := pieceSize va bs.length
      (s.engWrite w va (bs.take m)).bind fun s t =>
        (State.engWriteN s w (va + BitVec.ofNat 72 m) fuel (bs.drop m)).bind fun s ts => .ok s (t :: ts)

/-- A write that is performed at once: the completion word, which belongs to the one step of a retirement (R201); it waits for what
precedes it on the way from its die (R363). -/
def State.engStore (s : State) (w : Who) (va : VAddr) (bs : List Byte) : ERes Unit :=
  match s.engWrite w va bs with
  | .fault s c a => .fault s c a
  | .wait s => .wait s
  | .ok s' tag =>
    let before := s
    let s := s'
    match s.flight tag with
    | some (.store t) =>
      if decide (t.place.die ≠ t.origin.die) && t.place.pkg.isNone && s.causalWait t.origin t.place.die then .wait before
      else
      match t.place with
      | .home key => .ok (((s.endFlight tag).quadDrop t.core key bs.length).homeWrite t.origin tag key bs) ()
      | .spad c o =>
        if c ≠ t.core && s.windowRefused t.asn c o bs.length then .fault (s.endFlight tag) fProt (va64 va)
        else .ok ((s.endFlight tag).setCore c ((s.core c).spadWrite o bs)) ()
      | _ => .ok s ()
    | _ => .ok s ()

end Sys2Proof.Machine
end

