-- ==== Sys2Proof/Machine/Fields.lean ====
section
/-!
DEFINITION. The fields of a template or built command (R113, R114), its nest, and what a matrix command names (R323).
-/

namespace Sys2Proof.Machine

/-- Field `i` of a command as a number. -/
def fieldOf (t : Tmpl) (i : Nat) : Nat := (t.get 0 i).toNat

/-- The operation code OP[15:8] (R115). -/
def opCode (t : Tmpl) : Nat := fieldOf t 0 / 256

/-- A flag bit of OP. -/
def opFlag (t : Tmpl) (i : Nat) : Bool := nbit (fieldOf t 0) i

/-- SCOPE, OP[2:0] (R200). -/
def opScope (t : Tmpl) : Nat := fieldOf t 0 % 8

/-- The first address A0 with A0X[7:0]. -/
def addr0 (t : Tmpl) : VAddr :=
  BitVec.ofNat 72 (fieldOf t 1 + fieldOf t 2 * 2 ^ 16 + fieldOf t 3 * 2 ^ 32 + fieldOf t 4 * 2 ^ 48
    + fieldOf t 5 % 256 * 2 ^ 64)

/-- The second address A1 with A1X[7:0]. -/
def addr1 (t : Tmpl) : VAddr :=
  BitVec.ofNat 72 (fieldOf t 19 + fieldOf t 20 * 2 ^ 16 + fieldOf t 21 * 2 ^ 32 + fieldOf t 22 * 2 ^ 48
    + fieldOf t 23 % 256 * 2 ^ 64)

/-- A0X[15:8], the first-address flags. -/
def flags0 (t : Tmpl) : Nat := fieldOf t 5 / 256

/-- A1X[15:8], the second-address flags. -/
def flags1 (t : Tmpl) : Nat := fieldOf t 23 / 256

/-- The count of nest level `i`. -/
def cntOf (t : Tmpl) (i : Nat) : Nat := fieldOf t (6 + i) + 1

/-- The signed stride of nest level `i` on the first address. -/
def strOf (t : Tmpl) (i : Nat) : Int := signed 16 (fieldOf t (12 + i))

/-- Bytes, or rows, of a unit code. -/
def unitOf (n : Nat) : Nat :=
  match n % 4 with | 0 => 1 | 1 => 16 | 2 => 1024 | _ => 65536

/-- A nest count list. -/
def counts (t : Tmpl) (n : Nat) : List Nat := (List.range n).map (cntOf t)

/-- The product of counts. -/
def product (l : List Nat) : Nat := l.foldl (· * ·) 1

/-- The indices of position `p` of a nest, level 0 varying fastest. -/
def indices : List Nat → Nat → List Nat
  | [], _ => []
  | c :: cs, p => p % c :: indices cs (p / c)

/-- The sum of indices times strides. -/
def dot : List Nat → List Int → Int
  | i :: is, x :: xs => i * x + dot is xs
  | _, _ => 0

/-- The booking field (R70): `none` is a walk-in; else the identifier and use index. -/
def bookOf (t : Tmpl) : Option (Nat × Nat) :=
  if fieldOf t 27 = 0xFFFF then none else some (fieldOf t 27 / 16, fieldOf t 27 % 16)

/-- The declared duration in ticks. -/
def durOf (t : Tmpl) : Nat := fieldOf t 28 + 1

/-- CTRL.REL and CTRL.SEQW. -/
def relOf (t : Tmpl) : Bool := nbit (fieldOf t 31) 0
def seqwOf (t : Tmpl) : Bool := nbit (fieldOf t 31) 1

/-- A scope of a code, package scope and wider codes included. -/
def scopeOf (n : Nat) : Scope :=
  match n with | 0 => .lane | 1 => .core | 2 => .quad | 3 => .die | 4 => .pkg | _ => .pod

/-! ### What matrix commands name (R323) -/

/-- The passes of an `mx.run`: first global row and first tile of each, in nest order; negative where the nest leaves the
range (R327). -/
def runPasses (t : Tmpl) : List (Int × Int) :=
  let cs := counts t 6
  let u := unitOf (fieldOf t 18)
  (List.range (product cs)).map fun p =>
    let is := indices cs p
    let rows := (List.range 6).map fun i => signed 8 (fieldOf t (12 + i)) * u
    let tiles := (List.range 6).map fun i => signed 8 (fieldOf t (12 + i) / 256)
    ((fieldOf t 24 % 4096 : Int) + dot is rows, (fieldOf t 25 % 128 : Int) + dot is tiles)

/-- Activation rows per slot (R317). -/
def rowsPerSlot (code : Nat) : Nat :=
  match code with | 0 => 32 | 1 | 6 => 64 | _ => 128

/-- The accumulator tiles a matrix command names (R322, R323); fp64 runs take pairs. -/
def tilesNamed (t : Tmpl) : List Nat :=
  let pair (z : Nat) (two : Bool) : List Nat := if two then [z, z + 1] else [z]
  match opCode t with
  | 2 => (runPasses t).flatMap fun p => pair p.2.toNat (fieldOf t 26 % 16 = 0)
  | 3 => (List.range (cntOf t 0)).map (fieldOf t 25 % 128 + ·)
  | 4 => pair (fieldOf t 25 % 128) (!opFlag t 3 && fieldOf t 26 / 16 % 16 = 0)
  | 5 => if opFlag t 3 then [] else pair (fieldOf t 25 % 128) (fieldOf t 26 / 16 % 16 = 0)
  | _ => []

/-- The operand slots a matrix command names (R318, R323). -/
def slotsNamed (t : Tmpl) : List Nat :=
  match opCode t with
  | 1 => let s := fieldOf t 24 % 32; if fieldOf t 26 % 16 = 0 then [s, s + 1] else [s]
  | 2 =>
    let rps := rowsPerSlot (fieldOf t 26 % 16)
    let n := fieldOf t 25 / 256 % 64 + 1
    ((runPasses t).flatMap fun p =>
      (List.range ((p.1.toNat + n - 1) / rps + 1 - p.1.toNat / rps)).map (p.1.toNat / rps + ·)).dedup
  | 5 => if opFlag t 3 then [fieldOf t 25 % 32] else []
  | _ => []

/-! ### Fields of a copy (R214, R218) -/

/-- The element size ESZ. -/
def eszOf (c : Tmpl) : Nat := match fieldOf c 0 / 64 % 4 with | 0 => 1 | 1 => 4 | 2 => 16 | _ => 64

/-- The group width G. -/
def packG (c : Tmpl) : Nat := fieldOf c 24 % 128

end Sys2Proof.Machine
end

