-- ==== Sys2Proof/Machine/Format.lean ====
section
/-!
DEFINITION. Number formats and arithmetic: the floating-point formats (R246 to R248), rounding (R249, R250), NaNs (R252 to
R254), integers (R255), conversions (R256), bq8 (R257 to R259), residues (R260 to R264), and CRC-32C (R118). Values are
computed exactly and rounded once.
-/

namespace Sys2Proof.Machine

/-- Events of one operation (R137, R251). -/
structure FlagSet where
  nv : Bool
  dz : Bool
  of : Bool
  uf : Bool
  nx : Bool
deriving DecidableEq, Repr

/-- No event. -/
def FlagSet.none : FlagSet := { nv := false, dz := false, of := false, uf := false, nx := false }
/-- Invalid operation. -/
def FlagSet.invalid : FlagSet := { FlagSet.none with nv := true }

/-- The parameters of a floating-point format (R246): exponent and fraction widths; `e4` marks fp8e4, `e5` fp8e5. -/
structure Fmt where
  ew : Nat
  fw : Nat
  e4 : Bool
  e5 : Bool
deriving DecidableEq, Repr

def fp64 : Fmt := { ew := 11, fw := 52, e4 := false, e5 := false }
def fp32 : Fmt := { ew := 8, fw := 23, e4 := false, e5 := false }
def fp16 : Fmt := { ew := 5, fw := 10, e4 := false, e5 := false }
def bf16 : Fmt := { ew := 8, fw := 7, e4 := false, e5 := false }
def fp8e4 : Fmt := { ew := 4, fw := 3, e4 := true, e5 := false }
def fp8e5 : Fmt := { ew := 5, fw := 2, e4 := false, e5 := true }

/-- The bias of a format. -/
def Fmt.bias (f : Fmt) : Nat := 2 ^ (f.ew - 1) - 1
/-- The exponent of the smallest normal value. -/
def Fmt.emin (f : Fmt) : Int := 1 - f.bias
/-- The precision, counting the hidden bit. -/
def Fmt.prec (f : Fmt) : Nat := f.fw + 1
/-- The exponent of the largest binade: fp8e4 uses its top exponent field for numbers (R247). -/
def Fmt.emax (f : Fmt) : Int := if f.e4 then 8 else f.bias
/-- The mantissa of the largest finite value. -/
def Fmt.maxMant (f : Fmt) : Nat := if f.e4 then 14 else 2 ^ f.prec - 1
/-- Bits of the format. -/
def Fmt.bits (f : Fmt) : Nat := 1 + f.ew + f.fw
/-- The exponent field of all ones. -/
def Fmt.expOnes (f : Fmt) : Nat := 2 ^ f.ew - 1

/-- What an encoding stands for (R247): a NaN with its sign and fraction, an infinity, or (−1)^neg × m × 2^e. -/
inductive FVal where
  | nan (neg : Bool) (frac : Nat)
  | inf (neg : Bool)
  | fin (neg : Bool) (m : Nat) (e : Int)
deriving DecidableEq, Repr

/-- The sign bit of an encoding. -/
def Fmt.signOf (f : Fmt) (v : Nat) : Bool := v / 2 ^ (f.ew + f.fw) % 2 = 1

/-- The meaning of an encoding (R247). -/
def Fmt.decode (f : Fmt) (v : Nat) : FVal :=
  let neg := f.signOf v
  let e := v / 2 ^ f.fw % 2 ^ f.ew
  let fr := v % 2 ^ f.fw
  if e = f.expOnes && (!f.e4 || fr = 7) then
    if fr = 0 then .inf neg else .nan neg fr
  else if e = 0 then .fin neg fr (f.emin - f.fw)
  else .fin neg (2 ^ f.fw + fr) ((e : Int) - f.bias - f.fw)

/-- The sign bit of a result. -/
def Fmt.signBit (f : Fmt) (neg : Bool) : Nat := if neg then 2 ^ (f.ew + f.fw) else 0
/-- Zero of a sign. -/
def Fmt.zero (f : Fmt) (neg : Bool) : Nat := f.signBit neg
/-- The largest finite value of a sign. -/
def Fmt.largest (f : Fmt) (neg : Bool) : Nat :=
  f.signBit neg + (if f.e4 then 0x7E else (f.expOnes - 1) * 2 ^ f.fw + (2 ^ f.fw - 1))
/-- Infinity of a sign; in fp8e4, the NaN of that sign (R250). -/
def Fmt.infinity (f : Fmt) (neg : Bool) : Nat := f.signBit neg + (if f.e4 then 0x7F else f.expOnes * 2 ^ f.fw)
/-- A generated NaN with its cause (R248, R253); in the fp8 formats it carries none. -/
def Fmt.genNaN (f : Fmt) (cause : Nat) : Nat :=
  if f.e4 then 0x7F else if f.e5 then 0x7E else f.expOnes * 2 ^ f.fw + 2 ^ (f.fw - 1) + cause
/-- A NaN fraction is signalling: its top bit is 0 (R252); the fp8e4 NaN is quiet. -/
def Fmt.signalling (f : Fmt) (fr : Nat) : Bool := !f.e4 && decide (fr < 2 ^ (f.fw - 1))

/-- ⌊log2 m⌋ of a positive number. -/
def ilog2 (m : Nat) : Nat := Nat.log2 m

/-- The overflow result of a sign (R250). -/
def Fmt.overflow (f : Fmt) (neg : Bool) (mode : RMode) (sat : Bool) : Nat :=
  let big := match mode with
    | .rne => true | .rtz => false | .rup => !neg | .rdn => neg
  if sat || !big then f.largest neg else f.infinity neg

/-- Round an integer part with what lies below it (R249): `rem` of `2 ^ sh`, and `sticky` for something beyond it. -/
def roundInt (y rem half2 : Nat) (sticky neg : Bool) (mode : RMode) : Nat :=
  let inexact := rem ≠ 0 || sticky
  match mode with
  | .rne =>
    if half2 < 2 * rem || (2 * rem = half2 && sticky) then y + 1
    else if 2 * rem = half2 && rem ≠ 0 then y + y % 2
    else y
  | .rtz => y
  | .rup => if inexact && !neg then y + 1 else y
  | .rdn => if inexact && neg then y + 1 else y

/-- `round` (R249) of the magnitude m × 2^e, plus something smaller where `sticky`, with a sign: the encoding and the events
(R251). -/
def Fmt.round (f : Fmt) (neg : Bool) (m : Nat) (e : Int) (sticky : Bool) (mode : RMode) (sat : Bool) : Nat × FlagSet :=
  if m = 0 then (f.zero neg, FlagSet.none)
  else
    let ev : Int := ilog2 m + e
    let q : Int := max ev f.emin - f.fw
    let sh : Int := q - e
    let y0 : Nat := if sh ≤ 0 then m * 2 ^ (-sh).toNat else m / 2 ^ sh.toNat
    let rem : Nat := if sh ≤ 0 then 0 else m % 2 ^ sh.toNat
    let half2 : Nat := if sh ≤ 0 then 1 else 2 ^ sh.toNat
    let y := roundInt y0 rem half2 sticky neg mode
    let inexact := rem ≠ 0 || sticky
    let top : Int := f.emax - f.fw
    if decide (top < q) || (decide (q = top) && decide (f.maxMant < y)) then
      (f.overflow neg mode sat, { FlagSet.none with of := true, nx := true })
    else if y = 0 then (f.zero neg, { FlagSet.none with nx := inexact })
    else
      let tiny := decide (q + f.fw = f.emin) && decide (y < 2 ^ f.fw)
      let fl := { FlagSet.none with nx := inexact, uf := tiny && inexact }
      if y < 2 ^ f.fw then (f.signBit neg + y, fl)
      else if y = 2 ^ f.prec then (f.signBit neg + (q + f.fw + 1 + f.bias).toNat * 2 ^ f.fw, fl)
      else (f.signBit neg + (q + f.fw + f.bias).toNat * 2 ^ f.fw + (y - 2 ^ f.fw), fl)

/-- An exact signed sum of two magnitudes: sign and magnitude at the lower exponent. -/
def exactAdd (n1 : Bool) (m1 : Nat) (e1 : Int) (n2 : Bool) (m2 : Nat) (e2 : Int) : Bool × Nat × Int :=
  let e := min e1 e2
  let v (n : Bool) (m : Nat) (x : Int) : Int := (if n then -1 else 1) * ((m * 2 ^ (x - e).toNat : Nat) : Int)
  let t := v n1 m1 e1 + v n2 m2 e2
  (decide (t < 0), t.natAbs, e)

/-- The NaN of an operand, in its own format, quieted (R177, R254). -/
def Fmt.quiet (f : Fmt) (neg : Bool) (fr : Nat) : Nat :=
  if f.e4 then f.signBit neg + 0x7F
  else if f.e5 then f.signBit neg + 0x7E
  else f.signBit neg + f.expOnes * 2 ^ f.fw + fr % 2 ^ (f.fw - 1) + 2 ^ (f.fw - 1)

/-- The first NaN among operands in their order gives the result; NV where any operand is signalling (R176, R177). -/
def Fmt.nanOf (f : Fmt) (vs : List FVal) : Option (Nat × FlagSet) :=
  match vs.find? fun v => match v with | .nan .. => true | _ => false with
  | some (.nan n fr) =>
    let sig := vs.any fun v => match v with | .nan _ x => f.signalling x | _ => false
    some (f.quiet n fr, { FlagSet.none with nv := sig })
  | _ => none

/-- The sum of two values that are not NaNs, rounded once (R175, R176). -/
def Fmt.addVals (f : Fmt) (a b : FVal) (mode : RMode) (sat : Bool) : Nat × FlagSet :=
  match a, b with
  | .inf n, .inf m => if n = m then (f.infinity n, FlagSet.none) else (f.genNaN 3, FlagSet.invalid)
  | .inf n, _ => (f.infinity n, FlagSet.none)
  | _, .inf m => (f.infinity m, FlagSet.none)
  | .fin n1 m1 e1, .fin n2 m2 e2 =>
    if m1 = 0 && m2 = 0 then (f.zero (if n1 = n2 then n1 else mode = .rdn), FlagSet.none)
    else
      let r := exactAdd n1 m1 e1 n2 m2 e2
      if r.2.1 = 0 then (f.zero (mode = .rdn), FlagSet.none) else f.round r.1 r.2.1 r.2.2 false mode sat
  | _, _ => (f.genNaN 3, FlagSet.invalid)

/-- The value with its sign inverted. -/
def FVal.neg (v : FVal) : FVal :=
  match v with
  | .nan n fr => .nan n fr
  | .inf n => .inf !n
  | .fin n m e => .fin (!n) m e

/-- The exact product of two values that are not NaNs; `none` for 0 × ∞ (R176). -/
def mulVals (a b : FVal) : Option FVal :=
  match a, b with
  | .inf n, .inf m => some (.inf (n != m))
  | .inf n, .fin m x _ => if x = 0 then none else some (.inf (n != m))
  | .fin n x _, .inf m => if x = 0 then none else some (.inf (n != m))
  | .fin n1 m1 e1, .fin n2 m2 e2 => some (.fin (n1 != n2) (m1 * m2) (e1 + e2))
  | _, _ => none

/-- Round a value that is not a NaN. -/
def Fmt.roundVal (f : Fmt) (v : FVal) (mode : RMode) (sat : Bool) : Nat × FlagSet :=
  match v with
  | .fin n m e => f.round n m e false mode sat
  | .inf n => (if sat && f.e4 then f.largest n else f.infinity n, FlagSet.none)
  | .nan n fr => (f.quiet n fr, FlagSet.none)

/-- Addition, subtraction, multiplication (R175), an overflow saturating where a command asks for it (R250). -/
def Fmt.add (f : Fmt) (a b : Nat) (mode : RMode) (sat : Bool := false) : Nat × FlagSet :=
  let x := f.decode a
  let y := f.decode b
  (f.nanOf [x, y]).getD (f.addVals x y mode sat)
def Fmt.sub (f : Fmt) (a b : Nat) (mode : RMode) (sat : Bool := false) : Nat × FlagSet :=
  let x := f.decode a
  let y := f.decode b
  (f.nanOf [x, y]).getD (f.addVals x y.neg mode sat)
def Fmt.mul (f : Fmt) (a b : Nat) (mode : RMode) (sat : Bool := false) : Nat × FlagSet :=
  let x := f.decode a
  let y := f.decode b
  (f.nanOf [x, y]).getD
    (match mulVals x y with
     | some v => f.roundVal v mode sat
     | none => (f.genNaN 4, FlagSet.invalid))

/-- Fused d + a × b (R175): NaNs in the order a, b, d; 0 × ∞ generates cause 4 unless d is a NaN, and is invalid either
way (R176). -/
def Fmt.fma (f : Fmt) (a b d : Nat) (mode : RMode) (sat : Bool) : Nat × FlagSet :=
  let x := f.decode a
  let y := f.decode b
  let z := f.decode d
  match f.nanOf [x, y, z], mulVals x y with
  | some (r, fl), none =>
    let bad := match x, y with
      | .inf _, .fin _ 0 _ => true
      | .fin _ 0 _, .inf _ => true
      | _, _ => false
    (r, { fl with nv := fl.nv || bad })
  | some r, some _ => r
  | none, none => (f.genNaN 4, FlagSet.invalid)
  | none, some v => f.addVals z v mode sat

/-- Division (R175, R176). -/
def Fmt.div (f : Fmt) (a b : Nat) (mode : RMode) : Nat × FlagSet :=
  let x := f.decode a
  let y := f.decode b
  (f.nanOf [x, y]).getD
    (match x, y with
     | .inf _, .inf _ => (f.genNaN 6, FlagSet.invalid)
     | .inf n, .fin m _ _ => (f.infinity (n != m), FlagSet.none)
     | .fin n _ _, .inf m => (f.zero (n != m), FlagSet.none)
     | .fin n m1 e1, .fin m m2 e2 =>
       if m2 = 0 then
         if m1 = 0 then (f.genNaN 6, FlagSet.invalid) else (f.infinity (n != m), { FlagSet.none with dz := true })
       else
         let k := 2 * f.fw + 8
         let num := m1 * 2 ^ k
         f.round (n != m) (num / m2) (e1 - e2 - k) (num % m2 ≠ 0) mode false
     | _, _ => (f.genNaN 6, FlagSet.invalid))

/-- Square root (R175, R176). -/
def Fmt.sqrt (f : Fmt) (a : Nat) (mode : RMode) : Nat × FlagSet :=
  let x := f.decode a
  (f.nanOf [x]).getD
    (match x with
     | .inf n => if n then (f.genNaN 6, FlagSet.invalid) else (f.infinity false, FlagSet.none)
     | .fin n m e =>
       if m = 0 then (f.zero n, FlagSet.none)
       else if n then (f.genNaN 6, FlagSet.invalid)
       else
         let k : Nat := 2 * f.fw + 8
         let odd : Nat := if e % 2 = 0 then 0 else 1
         let v := m * 2 ^ (2 * k + odd)
         let r := Nat.sqrt v
         f.round false r ((e - odd) / 2 - k) (r * r ≠ v) mode false
     | .nan n fr => (f.quiet n fr, FlagSet.none))

/-- A value that is not a NaN as an exact comparison: −1, 0 or 1 for less, equal, greater; zeros equal (R181). -/
def cmpVals (a b : FVal) : Int :=
  let key (v : FVal) (e0 : Int) : Int :=
    match v with
    | .fin n m e => (if n then -1 else 1) * ((m * 2 ^ (e - e0).toNat : Nat) : Int)
    | _ => 0
  match a, b with
  | .inf n, .inf m => if n = m then 0 else if n then -1 else 1
  | .inf n, _ => if n then -1 else 1
  | _, .inf m => if m then 1 else -1
  | .fin n1 m1 e1, .fin n2 m2 e2 =>
    let e := min e1 e2
    let x := key (.fin n1 m1 e1) e
    let y := key (.fin n2 m2 e2) e
    if x < y then -1 else if x = y then 0 else 1
  | _, _ => 0

/-- Minimum and maximum (R178): −0 is less than +0; a NaN operand gives the NaN. -/
def Fmt.minMax (f : Fmt) (a b : Nat) (max_ : Bool) : Nat × FlagSet :=
  let x := f.decode a
  let y := f.decode b
  (f.nanOf [x, y]).getD
    (let c := cmpVals x y
     let less := c < 0 || (c = 0 && f.signOf a && !f.signOf b)
     (if less != max_ then a else b, FlagSet.none))

/-- A NaN moved to another format (R254). -/
def moveNaN (src dst : Fmt) (neg : Bool) (fr : Nat) : Nat :=
  if dst.e4 || dst.e5 then dst.quiet neg fr
  else if src.e4 || src.e5 then dst.signBit neg + dst.genNaN 1
  else
    let low := if dst.fw < src.fw then fr % 2 ^ (dst.fw - 1) else fr % 2 ^ (src.fw - 1)
    dst.signBit neg + dst.expOnes * 2 ^ dst.fw + 2 ^ (dst.fw - 1) + low

/-- Conversion between floating-point formats (R179, R254, R256). -/
def convFF (src dst : Fmt) (v : Nat) (mode : RMode) (sat : Bool) : Nat × FlagSet :=
  match src.decode v with
  | .nan n fr => (moveNaN src dst n fr, { FlagSet.none with nv := src.signalling fr })
  | .inf n => (if dst.e4 && sat then dst.largest n else dst.infinity n, FlagSet.none)
  | .fin n m e => dst.round n m e false mode sat

/-- Bounds of an integer format (R255): width and signedness. -/
def intMin (w : Nat) (sg : Bool) : Int := if sg then -(2 ^ (w - 1)) else 0
def intMax (w : Nat) (sg : Bool) : Int := if sg then 2 ^ (w - 1) - 1 else 2 ^ w - 1

/-- An integer kept in `w` bits: nearest bound with SAT, low bits without (R255). -/
def narrowInt (w : Nat) (sg sat : Bool) (x : Int) : Nat :=
  if sat then ((max (intMin w sg) (min x (intMax w sg))) % 2 ^ w).toNat else (x % 2 ^ w).toNat

/-- An exact value rounded to an integer by a mode, and whether it was inexact. -/
def roundToInt (neg : Bool) (m : Nat) (e : Int) (mode : RMode) : Int × Bool :=
  let sh := (-e).toNat
  let y := if 0 ≤ e then m * 2 ^ e.toNat else roundInt (m / 2 ^ sh) (m % 2 ^ sh) (2 ^ sh) false neg mode
  let inexact := e < 0 && m % 2 ^ sh ≠ 0
  (if neg then -(y : Int) else y, inexact)

/-- Float to integer (R179, R256): nearest bound outside the range, 0 for a NaN. -/
def convFI (src : Fmt) (w : Nat) (sg : Bool) (v : Nat) (mode : RMode) : Nat × FlagSet :=
  match src.decode v with
  | .nan .. => (0, FlagSet.invalid)
  | .inf n => (narrowInt w sg true (if n then intMin w sg else intMax w sg), FlagSet.invalid)
  | .fin n m e =>
    let r := roundToInt n m e mode
    if r.1 < intMin w sg || intMax w sg < r.1 then (narrowInt w sg true r.1, FlagSet.invalid)
    else (narrowInt w sg false r.1, { FlagSet.none with nx := r.2 })

/-- Integer to float (R179, R256). -/
def convIF (dst : Fmt) (x : Int) (mode : RMode) (sat : Bool) : Nat × FlagSet :=
  dst.round (x < 0) x.natAbs 0 false mode sat

/-! ### Format codes (R282) -/

/-- The floating format of a code. -/
def floatFmt (code : Nat) : Option Fmt :=
  match code with
  | 0 => some fp64 | 1 => some fp32 | 2 => some fp16 | 3 => some bf16 | 4 => some fp8e4 | 5 => some fp8e5 | _ => none

/-- Width and signedness of an integer format code. -/
def intFmt (code : Nat) : Option (Nat × Bool) :=
  match code with
  | 8 => some (8, true) | 9 => some (16, true) | 10 => some (32, true) | 11 => some (64, true)
  | 12 => some (8, false) | 13 => some (16, false) | 14 => some (32, false) | 15 => some (64, false) | _ => none

/-- Element bytes of a format code. -/
def fmtBytes (code : Nat) : Nat :=
  match code with
  | 0 | 11 | 15 => 8
  | 1 | 7 | 10 | 14 => 4
  | 2 | 3 | 9 | 13 => 2
  | _ => 1

/-- An integer element as a number. -/
def intVal (w : Nat) (sg : Bool) (v : Nat) : Int :=
  if sg && 2 ^ (w - 1) ≤ v % 2 ^ w then (v % 2 ^ w : Int) - 2 ^ w else (v % 2 ^ w : Int)

/-- Reconstruction of an integer from its residues (R262). -/
def crt (c251 c253 c256 : Nat) : Int :=
  let x := (64768 * (226 * c251 % 251) + 64256 * (42 * c253 % 253) + 63503 * (239 * c256 % 256)) % 16256768
  if 8128384 ≤ x then (x : Int) - 16256768 else x

/-- The three channels of an rn24 container, each reduced modulo its own modulus (R260, R264). -/
def rnVal (v : Nat) : Int := crt (v / 2 ^ 16 % 256 % 251) (v / 2 ^ 8 % 256 % 253) (v % 256)

/-- The rn24 container of an integer (R260). -/
def rnOf (x : Int) : Nat := (x % 251).toNat * 65536 + (x % 253).toNat * 256 + (x % 256).toNat

/-- A bq8 element with its scale (R258): an exact value, or the generated NaN of cause 2. -/
def bqElem (q s : Nat) : Option FVal :=
  if s = 0xFF then none
  else
    let x := if q % 256 = 128 then -127 else intVal 8 true q
    some (.fin (x < 0) x.natAbs ((s : Int) - 127))

/-- The conversions of one element between formats other than bq8 (R256); `none` is a reserved pair. -/
def convert (src dst v : Nat) (mode : RMode) (sat : Bool) : Option Nat :=
  match floatFmt src, intFmt src, floatFmt dst, intFmt dst with
  | some f, _, some g, _ => some (convFF f g v mode sat).1
  | some f, _, _, some (w, sg) => some (convFI f w sg v mode).1
  | _, some (w, sg), some g, _ => some (convIF g (intVal w sg v) mode sat).1
  | _, some (w, sg), _, some (x, tg) => some (narrowInt x tg sat (intVal w sg v))
  | _, _, _, _ => if src = 7 && dst = 10 then some (narrowInt 32 true false (rnVal v)) else none

/-- A bq8 element converted to another format (R256, R258). -/
def fromBq (q s dst : Nat) (mode : RMode) (sat : Bool) : Option Nat :=
  match bqElem q s, floatFmt dst, intFmt dst with
  | some (.fin n m e), some g, _ => some (g.round n m e false mode sat).1
  | some (.fin n m e), _, some (w, sg) =>
    let r := (roundToInt n m e mode).1
    some (narrowInt w sg true r)
  | none, some g, _ => some (g.genNaN 2)
  | none, _, some _ => some 0
  | _, _, _ => none

/-- The exact value of an element of a format other than bq8, or `none` for a NaN or an infinity. -/
def exactVal (src v : Nat) : Option (Bool × Nat × Int) :=
  match floatFmt src, intFmt src with
  | some f, _ =>
    match f.decode v with
    | .fin n m e => some (n, m, e)
    | _ => none
  | _, some (w, sg) => let x := intVal w sg v; some (x < 0, x.natAbs, 0)
  | _, _ => none

/-- Quantisation of a block (R259): its elements and its scale. -/
def quantise (src : Nat) (vs : List Nat) (mode : RMode) : List Nat × Nat :=
  let xs := vs.map (exactVal src)
  if xs.any Option.isNone then (vs.map fun _ => 0, 0xFF)
  else
    let ys := xs.filterMap id
    let e0 := ys.foldl (fun a y => min a y.2.2) 0
    let mag (y : Bool × Nat × Int) : Nat := y.2.1 * 2 ^ (y.2.2 - e0).toNat
    let mx := ys.foldl (fun a y => max a (mag y)) 0
    if mx = 0 then (vs.map fun _ => 0, 0)
    else
      let s0 : Int := max 0 (min ((ilog2 mx : Int) + e0 - 6 + 127) 254)
      let q (y : Bool × Nat × Int) (s : Int) : Int := (roundToInt y.1 (mag y) (e0 - (s - 127)) mode).1
      let s1 := if 127 < q (false, mx, e0) s0 && s0 < 254 then s0 + 1 else s0
      (ys.map fun y => ((max (-127) (min (q y s1) 127)) % 256).toNat, s1.toNat)

/-! ### CRC-32C (R118) -/

/-- One bit of the reflected polynomial 0x1EDC6F41. -/
def crcBit (c : Nat) : Nat := if c % 2 = 1 then (c / 2) ^^^ 0x82F63B78 else c / 2

/-- One byte. -/
def crcByte (c : Nat) (b : Byte) : Nat :=
  crcBit (crcBit (crcBit (crcBit (crcBit (crcBit (crcBit (crcBit (c ^^^ b.toNat))))))))

/-- The CRC-32C of a byte string. -/
def crc32c (bs : List Byte) : Nat := bs.foldl crcByte 0xFFFFFFFF ^^^ 0xFFFFFFFF

end Sys2Proof.Machine
end

