-- ==== Sys2Proof/Machine/Operands.lean ====
section
/-!
DEFINITION. Operand forms: the sources of each format in the order a, b, d (R438), immediates, effective addresses (R161),
branch targets (R98), and scalar floating operands (R174).
-/

namespace Sys2Proof.Machine

/-- Two scalar sources (RR). -/
def srcAB (s : State) (a b : Reg) (fa fb : Bool) (k : W64 → W64 → Res) : Res :=
  readSrc s a fa fun x => readSrc s b fb fun y => k x y

/-- A word that computes a scalar from two sources. -/
def binOp (s : State) (d a b : Reg) (fa fb : Bool) (f : W64 → W64 → W64) : Res :=
  srcAB s a b fa fb fun x y => waitDest s d (writeS s d (f x y))

/-- A word that computes a scalar from one source. -/
def unOp (s : State) (d a : Reg) (fa : Bool) (f : W64 → W64) : Res :=
  readSrc s a fa fun x => waitDest s d (writeS s d (f x))

/-- A word that computes a scalar from two sources and the old value of its destination, read with policy 0 (R93). -/
def triOp (s : State) (d a b : Reg) (fa fb : Bool) (f : W64 → W64 → W64 → W64) : Res :=
  srcAB s a b fa fb fun x y => readSrc s d false fun z => writeS s d (f x y z)

/-- A 13-bit immediate sign-extended to 64 bits (R149). -/
def sext13 (imm : BitVec 13) : W64 := imm.signExtend 64

/-- A scalar sign-extended to 72 bits (R159). -/
def sext72 (v : W64) : VAddr := v.signExtend 72

/-- The effective address of a scalar access (R161): the offset counts access sizes. -/
def effAddr (c : Ctx) (a : AReg) (off : BitVec 10) (size : Nat) : VAddr := vadd (c.getA a) (off.toInt * size)

/-- The target of a branch with a 21-bit word offset (R170). -/
def target21 (pc : VAddr) (off : BitVec 21) : VAddr := vadd pc (4 * off.toInt)

/-- The target of a jump with a 25-bit word offset (R171). -/
def target25 (pc : VAddr) (off : BitVec 25) : VAddr := vadd pc (4 * off.toInt)

/-- A register as an fp32 operand: bits [31:0] (R174). -/
def lo32 (v : W64) : Nat := v.toNat % 2 ^ 32

/-- A 32-bit result in a register, bits [63:32] zero (R174). -/
def of32 (v : Nat) : W64 := BitVec.ofNat 64 (v % 2 ^ 32)

end Sys2Proof.Machine
end

