-- ==== Sys2Proof/Machine/Queue.lean ====
section
/-!
DEFINITION. Publishing engine work (R110 to R119, R197 to R208): building commands from patch words and templates, `q.tail`,
`q.seq`, `q.mark` and their markers, `tmpl.ld` and the swap of template planes, the claims of operand slots (R320), and the
report of engine faults (R443, R444).
-/

namespace Sys2Proof.Machine

/-! ### Engine faults (R443, R444) -/

/-- The ENGINE_FAULT trap of a fault of a queue (R444). -/
def engineTrap (e : Eng) (seq : Nat) (thief : Option Nat) (cause : Byte) (addr : W64) : Trap :=
  { cause := .engineFault
    e0 := BitVec.ofNat 64 (e.code + match thief with | some t => 256 + t * 65536 | none => 0)
    e1 := BitVec.ofNat 64 seq
    e2 := BitVec.ofNat 64 cause.toNat
    e3 := addr }

/-- The faults of a queue that are not yet reported, oldest first (R443): each is reported once. -/
def Engine.pendings (x : Engine) : List FaultRep := if x.flt then x.rep.filter fun f => !f.reported else []

/-- The oldest fault of a queue that is not yet reported. -/
def Engine.pendingFault (x : Engine) : Option FaultRep := x.pendings.head?

/-- Report the fault of a queue: it is not reported again, and no register keeps a mark of it (R443). -/
def State.reportFault (s : State) (k : Nat) (e : Eng) (f : FaultRep) : State :=
  let c := s.core k
  let x := c.eng e
  let u := { c.user with mark := c.user.mark.filter fun p => match p.2 with | some m => m.of ≠ some (e, f.seq) | none => true }
  s.setCore k ((c.setEng e (x.faultReported f.seq)).setCtx false u)

/-- Step 3 of R438: the first engine of a list with a pending fault traps the dependent instruction of the user context. -/
def faultCheck (s : State) (es : List Eng) (k : Res) : Res :=
  match es with
  | [] => k
  | e :: es =>
    match (s.curCore.eng e).pendingFault with
    | some f =>
      if s.focusFw then faultCheck s es k
      else .trap (s.reportFault s.focusCore e f) (engineTrap e f.seq f.thief f.cause f.addr)
    | none => faultCheck s es k

/-! ### Building commands (R110 to R116) -/

/-- The template of a patch word. -/
def wordT (w : W32) : Nat := nbits w.toNat 31 26
/-- The field of a patch word. -/
def wordF (w : W32) : Nat := nbits w.toNat 25 21
/-- CONT of a patch word. -/
def wordCont (w : W32) : Bool := nbit w.toNat 20

/-- A template of a plane; template 63 is all zero (R116, R200). -/
def planeGet (p : FMap Tmpl) (t : Nat) : Tmpl := if t = 63 then [] else p.get tmplReset t

/-- Amend a command by patch words (R111); `none` where the template differs within the command. -/
def amend (t : Nat) : Tmpl → List W32 → Option Tmpl
  | c, [] => some c
  | c, w :: ws =>
    if wordT w ≠ t then none
    else amend t (if wordF w = 31 then c else c.put 0 (wordF w) (w.setWidth 16)) ws

/-- The command that words build on a plane; `none` is BAD_CHAIN (R111). -/
def buildCmd (p : FMap Tmpl) (ws : List W32) : Option Tmpl :=
  match ws with
  | [] => none
  | w :: _ =>
    if (ws.getLast?.map wordCont).getD true then none
    else amend (wordT w) (planeGet p (wordT w)) ws

/-- The template that words name. -/
def tmplOf (ws : List W32) : Nat := match ws with | w :: _ => wordT w | [] => 0

/-- Why the decoder refuses a built command (R115, R200). -/
def decodeRefusal (e : Eng) (c : Tmpl) : Option Byte :=
  match decodeCmd e false { core := 0, seq := 0 } c with
  | .ok _ => none
  | .error x => some x

/-- The inner cause of a command that fails to decode (R112, R115, R116); a `ch.mark` is a command with a SCOPE (R116, R200), and the
SCOPE of a `ch.nop` or `ch.link`, which R116 does not call commands, is ignored (DESIGN CHOICE, log entry 71). -/
def decodeCause (e : Eng) (t : Nat) (c : Option Tmpl) : Option Byte :=
  match c with
  | none => some badChain
  | some c =>
    if t = 63 then
      if opCode c = 1 && (addr0 c).toNat % 4 ≠ 0 then some badLink
      else if opCode c = 2 && decide (6 ≤ opScope c) then some badField
      else if opCode c ≤ 2 then none else some badOp
    else decodeRefusal e c

/-- An entry as `q.tail` publishes it. -/
def newEntry (kind : EntryKind) (seq : Nat) (addr : VAddr) (ws : List W32) (wseq : Nat) (fw : Bool) (built : Option Tmpl) :
    Entry where
  kind := kind
  seq := seq
  pub := 0
  addr := addr
  words := ws
  wseq := wseq
  fw := fw
  prom := 0
  promOn := false
  value := 0
  built := built
  started := none
  pos := 0
  since := 0
  done := false
  void := false
  stop := false
  susp := false
  thief := none
  writes := []
  after := []
  refused := none
  fault := none
  result := 0

/-- An entry is a command of the chain-control template. -/
def Entry.control (t : Entry) : Bool := decide (tmplOf t.words = 63)

/-- A command of an engine that has OP[3] and PREG: a copy, or a `v.red` or `v.scan` (R202, R354). -/
def hasPreg (e : Eng) (c : Tmpl) : Bool := e = .ce || (e = .ve && (opCode c = 0x19 || opCode c = 0x1A))

/-- A promise or result register that `q.tail` marks PENDING (R202, R354): `ch` commands name none. -/
def promiseOf (e : Eng) (t : Nat) (c : Tmpl) : Option Reg :=
  let r : Reg := BitVec.ofNat 6 (fieldOf c 5 / 256)
  if hasPreg e c && opFlag c 3 && t ≠ 63 && r ≠ 0 then some r else none

/-- The register that a contributing SAE command takes its value from (R393). -/
def valueOf (e : Eng) (t : Nat) (c : Tmpl) : Option Reg :=
  if e = .sae && t ≠ 63 && (1 ≤ opCode c && opCode c ≤ 6) && !opFlag c 5 then some (BitVec.ofNat 6 (fieldOf c 24)) else none

/-! ### Publishing (R199, R202) -/

/-- What `q.tail` has read: the read address, the words of a command not yet whole, the new entries, the commands counted,
and whether a faulty link ended the reading. -/
structure Pub where
  s : State
  addr : VAddr
  words : List W32
  new : List Entry
  counted : Nat
  stop : Bool
deriving DecidableEq, Repr

/-- How the reading of published words ends. -/
inductive PubRes where
  | ok (p : Pub)
  | trap (s : State) (t : Trap)
  | wait (s : State)
deriving DecidableEq, Repr

/-- Add the command of whole words at an address; a `ch.link` that is followed moves the read address (R116, R202). -/
def Pub.add (p : Pub) (e : Eng) (plane : FMap Tmpl) (wseq : Nat) (at_ : VAddr) (ws : List W32) : PubRes :=
  let fw := p.s.focusFw
  let t := tmplOf ws
  let built := buildCmd plane ws
  let c := built.getD []
  let numbered (kind : EntryKind) : Pub :=
    { p with counted := p.counted + 1, new := p.new ++ [newEntry kind (p.counted + 1) at_ ws wseq fw built] }
  if decodeCause e t built = some badLink then .ok { numbered .badLink with stop := true }
  else if built.isSome && (t = 63 && opCode c = 0) then
    .ok { p with new := p.new ++ [newEntry .cmd 0 at_ ws wseq fw built] }
  else if built.isSome && (t = 63 && opCode c = 1) then
    .ok { p with new := p.new ++ [newEntry .cmd 0 at_ ws wseq fw built], addr := addr0 c }
  else
    let prom := built.bind fun c => promiseOf e t c
    let found := match built with | some c => if hasPreg e c then (opFlag c 3, fieldOf c 5 / 256) else (false, 0) | none => (false, 0)
    let x := { newEntry .cmd (p.counted + 1) at_ ws wseq fw built with prom := prom.getD 0, promOn := prom.isSome, found := found }
    let done (v : W64) : PubRes := .ok { p with counted := p.counted + 1, new := p.new ++ [{ x with value := v }] }
    match built.bind fun c => valueOf e t c with
    | none => done 0
    | some r =>
      match readSrc p.s r false fun _ => .ok p.s with
      | .ok s => done (s.cur.getS r)
      | .trap s tr => .trap s tr
      | .wait s => .wait s

/-- Read published words up to the tail (R111, R199, R202); `fuel` bounds the words of one `q.tail`: a chain that never comes to the
tail is read without end. -/
def publishLoop (e : Eng) (plane : FMap Tmpl) (wseq : Nat) (tail : VAddr) : Nat → Pub → PubRes
  | 0, p => .wait p.s
  | fuel + 1, p =>
    if p.stop || p.addr = tail then .ok p
    else
      match p.s.readVa p.s.focusCore p.s.focusFw p.addr 4 with
      | .fail s t => .trap s t
      | .wait s => .wait s
      | .ok s bs =>
        let w : W32 := BitVec.ofNat 32 (leNat bs)
        let p := { p with s := s, addr := p.addr + 4 }
        if 8 ≤ p.words.length then
          publishLoop e plane wseq tail fuel { p with words := if wordCont w then p.words else [] }
        else
          let ws := p.words ++ [w]
          if wordCont w && ws.length < 8 then publishLoop e plane wseq tail fuel { p with words := ws }
          else
            match Pub.add { p with words := if wordCont w then ws else [] } e plane wseq (vadd p.addr (-(4 * ws.length))) ws with
            | .ok p => publishLoop e plane wseq tail fuel p
            | r => r

/-- More words than the address space holds. -/
def tailFuel : Nat := 2 ^ 72

/-- Mark the promise and result registers of new entries PENDING (R202, R354). -/
def Ctx.markPending (c : Ctx) (es : List Entry) : Ctx :=
  es.foldl (fun c t => if t.promOn then c.setFE t.prom .pending else c) c

/-- The effect of `q.tail` once its checks have passed (R202). -/
def publish (s : State) (e : Eng) (a : VAddr) : Res :=
  let x := s.curCore.eng e
  let wseq := if s.focusFw then 0 else s.curCore.wseq
  match publishLoop e x.tmpl wseq a tailFuel
      { s := s, addr := x.partialAddr, words := x.partialWords, new := [], counted := x.counted, stop := x.linkStop } with
  | .trap s t => .trap s t
  | .wait s => .wait s
  | .ok p =>
    let s := p.s
    if s.released s.focusCore s.focusFw .core then
      let c := s.curCore
      let x := c.eng e
      let s := s.setCurCore (c.setEng e { x with
        q := x.q ++ p.new.map (fun t => { t with pub := s.tb }), tail := a, partialAddr := p.addr, partialWords := p.words, counted := p.counted, linkStop := p.stop })
      .ok ((s.setCur ((s.cur.markPending p.new).advance)).markRelease s.focusCore .core)
    else .wait s

/-- A `q.tail` that waits has made its first checks: they are not made again (R202). -/
def Res.tailed (r : Res) : Res :=
  match r with
  | .wait s => .wait (s.setCur { s.cur with op := some .tailed })
  | r => r

/-- `q.tail` (R202): a failed template load that is not yet reported traps TMPL_CRC, ahead of the word's own checks (R438). -/
def execQTail (e : Eng) (a : AReg) (s : State) : Host.Outcome State Fault Refusal :=
  (coreState s (raised s fun s =>
    faultCheck s [e]
      (let x := s.curCore.eng e
       let va := s.cur.getA a
       if x.tmplf && s.cur.op ≠ some .tailed then
         .trap (s.setCurCore (s.curCore.setEng e { x with tmplf := false })) { mkTrap .tmplCrc 0 e.code 0 0 with e0 := x.tmplRes }
       else if va.toNat % 4 ≠ 0 then .trap s (mkTrap .align va.toNat 4 0 0)
       else (if !x.loads.isEmpty then .wait s else publish s e va).tailed))).dropReads.out

/-- `q.seq` (R203): the commands counted by the `q.tail`s of either context, since the number named is that of the last published
command (DESIGN CHOICE, log entry 70). -/
def execQSeq (d : Reg) (e : Eng) (s : State) : Host.Outcome State Fault Refusal :=
  (coreState s (faultCheck s [e]
    (waitDest s d (writeS s d (BitVec.ofNat 64 (s.curCore.eng e).counted))))).out

/-- The engines of a mask: bit 0 CE, 1 ME, 2 VE, 3 SAE (R196, R207). -/
def engMask (m : BitVec 4) : List Eng := [Eng.ce, .me, .ve, .sae].filter fun e => nbit m.toNat e.code

/-- Place a marker behind the last published command of an engine (R207); a command published in part only lies behind it (DESIGN
CHOICE, log entry 70). -/
def Engine.placeMark (x : Engine) (n : Nat) : Engine :=
  { x with q := x.q ++ [newEntry (.qmark n) 0 x.partialAddr [] 0 false none] }

/-- `q.mark` (R207). -/
def execQMark (m : BitVec 4) (a : Reg) (fa : Bool) (s : State) : Host.Outcome State Fault Refusal :=
  (coreState s (faultCheck s (engMask m)
    (readSrc s a fa fun v =>
      .ok (s.setCurCore ((engMask m).foldl (fun c e => c.setEng e ((c.eng e).placeMark (v.toNat % 65536))) s.curCore)).retire))).out

/-! ### Markers and chain control (R116, R208) -/

/-- The head entry of a queue is gone. -/
def Engine.popHead (x : Engine) : Engine := { x with q := x.q.drop 1 }

/-- A marker number is the last one retired (R208). -/
def Engine.setMark (x : Engine) (n : Nat) : Engine := { x with mkr := n % 65536, mkv := true }

/-- A command number retires: DONE is the largest number up to which every command has retired (R201). -/
def Engine.retireSeq (x : Engine) (n : Nat) : Engine :=
  let rs := n :: x.retired
  let up := (List.range rs.length).foldl (fun d _ => if rs.contains (d + 1) then d + 1 else d) x.done
  { x with done := up, retired := rs.filter fun i => up < i }

/-- What the retirement of a command must follow besides the writes it has listed (R201, R367, R368): every write of its queue that
is on its way, its own of a faulted element among them, and the writes its reads may have met, whose invalidations are. -/
def State.laneAfter (s : State) (k : Nat) (e : Eng) : List Nat :=
  (s.flights.filterMap fun p => match p.2 with
    | some (.store t) => if t.core = k && t.agent = .lane e then some p.1 else none
    | some (.inval _ _ of o) => if s.followsWrite k of o then some of else none
    | some (.remoteWrite w) => if w.core = k && w.agent = .lane e then some p.1 else none
    | _ => none).dedup

/-- The marker at the head of a queue retires: the queue is not halted (R212; log entry 42), and everything the queue has written and
read is performed at core scope, since its retirement is a release there (R208, R364). -/
def State.markerReady (s : State) (k : Nat) (e : Eng) : Bool :=
  !((s.core k).eng e).flt && !(s.core k).stopped && (s.laneAfter k e).all fun t => s.performed k .core t

/-- `MARKER_RETIRE` (R208): a marker retires once every entry ahead of it has. -/
def execMarkerRetire (core : Nat) (e : Eng) (s : State) : Host.Outcome State Fault Refusal :=
  let c := s.core core
  let x := c.eng e
  match x.q with
  | t :: _ =>
    match t.kind with
    | .qmark n =>
      if s.markerReady core e then .next ((s.setCore core (c.setEng e (x.popHead.setMark n))).markRelease core .core) else .next s
    | _ => .next s
  | [] => .next s

/-- The engine of a core whose head entry is a chain-control command (R116). -/
def Core.headControl (c : Core) (seq : Nat) (t : Tmpl) : Option Eng :=
  [Eng.ce, .me, .ve, .sae].find? fun e =>
    match (c.eng e).q with
    | x :: _ => x.kind = .cmd && x.seq = seq && x.built = some t && x.control
    | [] => false

/-- A chain-control command at the head of its queue is done, unless the queue is halted (R212); `rel` says that its retirement is a
release at core scope (R208). -/
def State.control (s : State) (w : CmdAt) (c : Tmpl) (rel : Bool) (f : Engine → Engine) : State :=
  match (s.core w.core).headControl w.seq c with
  | none => s
  | some e =>
    let x := (s.core w.core).eng e
    if x.flt || (s.core w.core).stopped || (rel && !s.markerReady w.core e) then s
    else
      let t := s.setCore w.core ((s.core w.core).setEng e (f x.popHead))
      if rel then t.markRelease w.core .core else t

/-- `ch.nop` (R116). -/
def execChNop (w : CmdAt) (c : Tmpl) (s : State) : Host.Outcome State Fault Refusal := .next (s.control w c false id)
/-- `ch.link` (R116): the words after it were read at its target when it was published (R202). -/
def execChLink (w : CmdAt) (c : Tmpl) (s : State) : Host.Outcome State Fault Refusal := .next (s.control w c false id)
/-- `ch.mark` (R116, R208): it retires as a marker, and with its sequence number. -/
def execChMark (w : CmdAt) (c : Tmpl) (s : State) : Host.Outcome State Fault Refusal :=
  .next (s.control w c true fun x => (x.setMark (fieldOf c 24)).retireSeq w.seq)

/-! ### Template loads (R117 to R119, R213) -/

/-- Read bytes from an 8-byte aligned address, 8 at a time. -/
def State.readEights (s : State) (k : Nat) (fw : Bool) (va : VAddr) : Nat → Nat → Rd
  | 0, _ => .ok s []
  | fuel + 1, n =>
    if n = 0 then .ok s []
    else
      match s.readVa k fw va (min n 8) with
      | .ok s bs =>
        match State.readEights s k fw (va + 8) fuel (n - min n 8) with
        | .ok s cs => .ok s (bs ++ cs)
        | r => r
      | r => r

/-- A delta record (R117). -/
structure Delta where
  mask : Nat
  crc : Nat
  index : Nat
  last : Bool
  vals : List W16
deriving DecidableEq, Repr

/-- The records of a load, or how reading them ends. -/
inductive DeltaRes where
  | ok (s : State) (ds : List Delta)
  | stop (r : Res)
deriving DecidableEq, Repr

/-- The 16-bit values of a byte string. -/
def halves (bs : List Byte) : List W16 := (List.range (bs.length / 2)).map fun i => BitVec.ofNat 16 (field bs (2 * i) 2)

/-- Read delta records up to the one with LAST, at most 63 (R117). -/
def readDeltas (s : State) (va : VAddr) : Nat → DeltaRes
  | 0 => .ok s []
  | n + 1 =>
    match s.readEights s.focusCore s.focusFw va 2 16 with
    | .fail s t => .stop (.trap s t)
    | .wait s => .stop (.wait s)
    | .ok s h =>
      let mask := field h 0 4
      let len := 2 * ((List.range 32).filter fun i => nbit mask i).length
      match s.readEights s.focusCore s.focusFw (va + 16) 8 len with
      | .fail s t => .stop (.trap s t)
      | .wait s => .stop (.wait s)
      | .ok s vs =>
        let d : Delta := { mask := mask, crc := field h 4 4, index := field h 8 1 % 64, last := nbit (field h 9 1) 0, vals := halves vs }
        if d.last then .ok s [d]
        else
          match readDeltas s (va + BitVec.ofNat 72 (16 + (len + 7) / 8 * 8)) n with
          | .ok s ds => .ok s (d :: ds)
          | r => r

/-- Put the values of a record into a template, in rising field order. -/
def applyDelta (t : Tmpl) (mask : Nat) (vs : List W16) : Tmpl :=
  ((List.range 32).foldl (fun (a : Tmpl × List W16) i =>
    if nbit mask i then
      match a.2 with
      | v :: vs => (a.1.put 0 i v, vs)
      | [] => a
    else a) (t, vs)).1

/-- The 64 bytes of a template (R118). -/
def tmplBytes (t : Tmpl) : List Byte := (List.range 32).flatMap fun i => leBytes 2 (fieldOf t i)

/-- The result word of a load (R119). -/
def loadWord119 (status rec_ crc : Nat) : W64 := BitVec.ofNat 64 (status * 2 ^ 60 + rec_ * 2 ^ 48 + crc)

/-- Apply records to a plane (R118): the shadow plane and the result word; `n` counts the records before. -/
def applyDeltas : Nat → FMap Tmpl → List Delta → FMap Tmpl × W64
  | n, p, [] => (p, loadWord119 3 (n - 1) 0)
  | n, p, d :: ds =>
    if d.index = 63 then (p, loadWord119 2 n 0)
    else
      let t := applyDelta (planeGet p d.index) d.mask d.vals
      let crc := crc32c (tmplBytes t)
      if crc ≠ d.crc then (p, loadWord119 1 n crc)
      else
        let p := p.put tmplReset d.index t
        if d.last then (p, 0) else applyDeltas (n + 1) p ds

/-- `tmpl.ld` (R117 to R119): the records are read at issue; the plane swaps at the next command boundary. -/
def execTmplLd (d : Reg) (e : Eng) (a : AReg) (s : State) : Host.Outcome State Fault Refusal :=
  (coreState s (faultCheck s [e]
    (waitDest s d
      (let va := s.cur.getA a
       if va.toNat % 8 ≠ 0 then .trap s (mkTrap .align va.toNat 8 0 0)
       else
         match readDeltas s va 63 with
         | .stop r => r
         | .ok s ds =>
           let x := s.curCore.eng e
           let base := match x.loads.getLast? with | some l => l.plane | none => x.tmpl
           let r := applyDeltas 0 base ds
           let l : TmplLoad := { fw := s.focusFw, d := d, result := r.2, plane := if r.2 = 0 then r.1 else base }
           let s := s.setCurCore (s.curCore.setEng e { x with loads := x.loads ++ [l] })
           .ok (s.setCur (s.cur.setFE d .pending).advance))))).dropReads.out

/-- A command of the queue is executing on its own engine. -/
def Engine.executing (x : Engine) : Bool := x.q.any fun t => t.started.isSome && !t.done && t.thief.isNone

/-- The promise or result register of a command is the one that `q.tail` found (R202, R354): its OP[3] and PREG stay, however often a
template changes. -/
def Entry.keepProm (t : Entry) (e : Eng) (new : Tmpl) : Tmpl :=
  if t.control || !hasPreg e new then new
  else
    let op := fieldOf new 0 - (if opFlag new 3 then 8 else 0) + (if t.found.1 then 8 else 0)
    (new.put 0 0 (BitVec.ofNat 16 op)).put 0 5 (BitVec.ofNat 16 (t.found.2 * 256 + fieldOf new 5 % 256))

/-- A command that has not started is built on the resident plane (R111). -/
def Engine.rebuild (x : Engine) (e : Eng) : Engine :=
  { x with q := x.q.map fun t =>
      if t.kind = .cmd && t.started.isNone && !t.done then { t with built := (buildCmd x.tmpl t.words).map (t.keepProm e) } else t }

/-- `TEMPLATE_SWAP` (R118, R119, R213): at a command boundary the oldest load swaps in, or is discarded with its status. Of several
loads that fail before the next `q.tail`, the latest gives the result word of its TMPL_CRC (DESIGN CHOICE, log entry 71). -/
def execTemplateSwap (core : Nat) (e : Eng) (s : State) : Host.Outcome State Fault Refusal :=
  let c := s.core core
  let x := c.eng e
  match x.loads with
  | [] => .next s
  | l :: ls =>
    if x.executing || c.stopped then .next s
    else
      let x := if l.result = 0 then { x with tmpl := l.plane } else { x with tmplf := true, tmplRes := l.result }
      .next ((s.setCore core (c.setEng e { x.rebuild e with loads := ls })).deliver core l.fw l.d l.result none)

/-! ### Operand slots (R319, R320) -/

/-- The state of an operand slot. -/
def Core.slot (c : Core) (n : Nat) : SlotSt := c.omSt.get .free n

/-- A published program-lane command of the matrix engine names a slot and has not retired (R320). -/
def Core.slotNamed (c : Core) (n : Nat) : Bool :=
  c.me.q.any fun t => match t.built with | some b => !t.control && (slotsNamed b).contains n | none => false

/-- `om.claim` waits while the slot is EXP (R320). -/
def execOmClaim (n : BitVec 5) (s : State) : Host.Outcome State Fault Refusal :=
  (coreState s
    (let c := s.curCore
     if c.slot n.toNat = .exp then .wait s
     else .ok (s.setCurCore { c with omSt := c.omSt.put .free n.toNat .claimed }).retire)).out

/-- `om.rel` waits for the commands that name the slot (R320). -/
def execOmRel (n : BitVec 5) (s : State) : Host.Outcome State Fault Refusal :=
  (coreState s (faultCheck s [.me]
    (let c := s.curCore
     if c.slotNamed n.toNat then .wait s
     else .ok (s.setCurCore { c with omSt := c.omSt.put .free n.toNat .free }).retire))).out

end Sys2Proof.Machine
end

