-- ==== Sys2Proof/Machine/Control.lean ====
section
/-!
DEFINITION. Branches and jumps (R98 to R100, R170 to R172), full/empty operations (R183), hint words (R96), and the system
words `nop`, `trap`, `tret` and `wake` (R192 to R196).
-/

namespace Sys2Proof.Machine

/-- A conditional branch (R170): a branch not taken has no delay slot (R99). -/
def branchIf (s : State) (taken : Bool) (off : BitVec 21) : Res :=
  notInSlot s (if taken then .ok (s.setCur (s.cur.branch (target21 s.cur.pc off))) else .ok s.retire)

def execBT (n : PReg) (_hint : Bool) (off : BitVec 21) (s : State) := (branchIf s (s.cur.getP n) off).out
def execBF (n : PReg) (_hint : Bool) (off : BitVec 21) (s : State) := (branchIf s (!s.cur.getP n) off).out
def execJ (off : BitVec 25) (s : State) :=
  (notInSlot s (.ok (s.setCur (s.cur.branch (target25 s.cur.pc off))))).out
/-- `jal` writes PC + 8 to `a13` before its delay slot (R171). -/
def execJal (off : BitVec 25) (s : State) :=
  (notInSlot s (.ok (s.setCur ((s.cur.setA 13 (s.cur.pc + 8)).branch (target25 s.cur.pc off))))).out

/-- A jump to a register's value, which must be 4-byte aligned (R98, R172). -/
def jumpTo (s : State) (t : VAddr) (c : Ctx) : Res :=
  notInSlot s (if t.toNat % 4 ≠ 0 then .trap s (mkTrap .align t.toNat 0 0 0) else .ok (s.setCur (c.branch t)))

def execJr (a : AReg) (s : State) := (jumpTo s (s.cur.getA a) s.cur).out
def execJalr (d a : AReg) (s : State) := (jumpTo s (s.cur.getA a) (s.cur.setA d (s.cur.pc + 8))).out

/-- `fe.clr` and `fe.set` wait while the register is PENDING and keep its value (R183). -/
def execFeClr (d : Reg) (s : State) := (waitDest s d (.ok (s.setCur (s.cur.setFE d .empty).advance))).out
def execFeSet (d : Reg) (s : State) := (waitDest s d (.ok (s.setCur (s.cur.setFE d .full).advance))).out
/-- `fe.tst` never waits (R183). -/
def execFeTst (d : PReg) (a : Reg) (s : State) := (writeP s d (s.cur.getFE a = .full)).out

def execNop (s : State) := (Res.ok s.retire).out
def execHint3C (_payload : BitVec 26) (s : State) := (Res.ok s.retire).out
def execHint3D (_payload : BitVec 26) (s : State) := (Res.ok s.retire).out
def execHint3E (_payload : BitVec 26) (s : State) := (Res.ok s.retire).out

/-- `trap n` completes, then raises SWTRAP at the next word (R193): EINFO1 is the PC of the `trap`. -/
def execTrap (n : BitVec 16) (s : State) : Host.Outcome State Fault Refusal :=
  let t := { mkTrap .swTrap n.toNat 0 0 0 with e1 := s.cur.pc.setWidth 64 }
  let s1 := s.retire
  .next (s1.takeTrapAt s.focusCore s.focusFw t false s1.cur.pc none)

/-- `tret` (R194); outside a handler it traps TRET_CTX. -/
def execTret (s : State) :=
  (notInSlot s (if s.cur.ih then .ok (s.setCur s.cur.leave) else .trap s (mkTrap .tretCtx 0 0 0 0))).out

def execWake (m : BitVec 4) (s : State) :=
  let c := (engMask m).foldl (fun c e => c.setEng e ((c.eng e).wakeUp s.tb e)) s.curCore
  (Res.ok (s.setCurCore c).retire).out

/-- A word that fails a check of R97 traps ILLEGAL at decode (R95, R435): EINFO0 is the word, EINFO1 the check. -/
def execIllegal (w : W32) (check : Nat) (s : State) := (Res.trap s (mkTrap .illegal w.toNat check 0 0)).out

/-- The trap of a fetch: EINFO0 is the PC (R173). -/
def fetchTrap (c : Cause) (pc : VAddr) : Trap := { mkTrap c 0 0 0 0 with e0 := pc.setWidth 64 }

/-- A fetch that traps at its PC. -/
def execFetchTrap (t : Trap) (s : State) := (Res.trap s t).out

/-- A fetch from a page that is not mapped, or not executable or not user, traps PAGE or PROT at that PC (R173). -/
def execFetchFault (prot : Bool) (s : State) := execFetchTrap (fetchTrap (if prot then .prot else .page) s.cur.pc) s

end Sys2Proof.Machine
end

