-- ==== Sys2Proof/Machine/MatMath.lean ====
section
/-!
DEFINITION. The sums of the matrix engine and of `t.mm` (R260 to R267): a pass in a floating mode, the fused chain of fp64, and
the residue sums of bq8 with their scaling block by block.
-/

namespace Sys2Proof.Machine

/-- Depth of a weight tile or of an activation row of a format (R317); `none` where the format is neither. -/
def passDepth (code : Nat) : Option Nat :=
  match code with
  | 0 | 1 | 2 | 3 => some 64
  | 4 | 5 => some 128
  | 6 => some 256
  | _ => none

/-- Formats of the 16-bit and 8-bit floating pairs (R265). -/
def smallFloat (code : Nat) : Bool := 2 ≤ code && code ≤ 5

/-- Pairs that R265 allows. -/
def pairOk (x y : Nat) : Bool := (smallFloat x && smallFloat y) || (decide (x = y) && (x = 0 || x = 1 || x = 6))

/-- Cycles per row at cadence 1 (R317). -/
def rowCost (x y : Nat) : Nat := if x = 0 then 32 else if x = 1 then 4 else if x = 6 && y = 6 then 2 else 1

/-- An operand of a product, its NaNs already moved into fp32 (R254, R265). -/
def operand32 (code v : Nat) : FVal :=
  match floatFmt code with
  | some f =>
    match f.decode v with
    | .nan n fr => fp32.decode (moveNaN f fp32 n fr)
    | x => x
  | none => .fin false 0 0

/-- One step round(z + a × w) in a format (R265, R266): NaNs in the order z, a, w. -/
def macStep (f : Fmt) (z : Nat) (a w : FVal) : Nat :=
  let x := f.decode z
  match f.nanOf [x, a, w] with
  | some r => r.1
  | none =>
    match mulVals a w with
    | none => f.genNaN 4
    | some v => (f.addVals x v .rne false).1

/-- The first step of a pass: round(a × w). -/
def macFirst (f : Fmt) (a w : FVal) : Nat :=
  match f.nanOf [a, w] with
  | some r => r.1
  | none =>
    match mulVals a w with
    | none => f.genNaN 4
    | some v => (f.roundVal v .rne false).1

/-- A pass of a floating mode other than fp64 (R265): the products are summed apart and then added into `z`. -/
def passF32 (x y z : Nat) (ps : List (Nat × Nat)) : Nat :=
  match ps with
  | [] => z
  | (a, w) :: ps =>
    let t := ps.foldl (fun t p => macStep fp32 t (operand32 x p.1) (operand32 y p.2))
      (macFirst fp32 (operand32 x a) (operand32 y w))
    (fp32.add z t .rne).1

/-- A pass of fp64 (R266): a chain of fused steps. -/
def passF64 (z : Nat) (ps : List (Nat × Nat)) : Nat :=
  ps.foldl (fun z p => macStep fp64 z (fp64.decode p.1) (fp64.decode p.2)) z

/-- A bq8 element as the residue sums take it: −128 reads as −127 (R258, R261). -/
def bqInt (q : Nat) : Int := if q % 256 = 128 then -127 else intVal 8 true q

/-- One channel of a pass or block triple (R261). -/
def channel (m : Int) (ps : List (Nat × Nat)) : Nat :=
  (ps.foldl (fun (c : Int) p => (c + bqInt p.1 % m * (bqInt p.2 % m)) % m) 0).toNat

/-- The triple of a list of products, in the rn24 layout (R260, R261). -/
def triple (ps : List (Nat × Nat)) : Nat := channel 251 ps * 65536 + channel 253 ps * 256 + channel 256 ps

/-- One block added into an accumulator element (R262): its products and its two scales. -/
def addBlock (z : Nat) (ps : List (Nat × Nat)) (sa sb : Nat) : Nat :=
  let v := if sa = 0xFF || sb = 0xFF then fp32.genNaN 2
    else
      let x := crt (channel 251 ps) (channel 253 ps) (channel 256 ps)
      (fp32.round (x < 0) x.natAbs ((sa : Int) + sb - 254) false .rne false).1
  (fp32.add z v .rne).1

end Sys2Proof.Machine
end

