-- ==== Sys2Proof/Machine/CaskTable.lean ====
section
/-!
DEFINITION. The cask table (R272 to R275): handles and entries, freeing, descriptors of views and operations (R281 to R286),
index maps and their boxes (R286, R287, R295), tiles (R292), and the byte ranges that the alias check compares (R284).
-/

namespace Sys2Proof.Machine

/-! ### Handles and entries -/

/-- Entry `e` of a core's table; `none` is FREE. -/
def Core.cask (c : Core) (e : Nat) : Option Cask := c.casks.get none e

/-- Entry `e` set. -/
def Core.setCask (c : Core) (e : Nat) (x : Option Cask) : Core := { c with casks := c.casks.put none e x }

/-- The entry that a handle names. -/
def Core.hnd (c : Core) (h : Hnd) : Option Nat := c.hnds.get none h.toNat

/-- The handle bound to an entry (R273). -/
def Core.handleOf (c : Core) (e : Nat) : Option Nat :=
  (c.hnds.find? fun p => p.2 = some e).map (·.1)

/-- Entries that are not FREE. -/
def Core.live (c : Core) : List (Nat × Cask) :=
  c.casks.filterMap fun p => p.2.map fun x => (p.1, x)

/-- Whether a PENDING entry names an entry as a source. -/
def Core.consumed (c : Core) (e : Nat) : Bool := c.live.any fun p => p.2.st = .pending && p.2.src.contains e

/-- Free an entry that no handle and no PENDING entry holds, and then its sources under the same rule (R274). -/
def Core.collect (c : Core) : Nat → Nat → Core
  | 0, _ => c
  | fuel + 1, e =>
    match c.cask e with
    | none => c
    | some x =>
      if (c.handleOf e).isSome || c.consumed e then c
      else x.src.foldl (fun c i => Core.collect c fuel i) (c.setCask e none)

/-- Entries of the table (R272). -/
def tableSize : Nat := 128

/-- The first FREE entry (R279). -/
def Core.freeEntry (c : Core) : Option Nat := (List.range tableSize).find? fun e => (c.cask e).isNone

/-- Insert an entry by its AGE. -/
def insertAge (x : Nat × Cask) : List (Nat × Cask) → List (Nat × Cask)
  | [] => [x]
  | y :: ys => if x.2.age ≤ y.2.age then x :: y :: ys else y :: insertAge x ys

/-- PENDING entries in rising AGE (R305, R308). -/
def Core.pendings (c : Core) : List (Nat × Cask) :=
  (c.live.filter fun p => p.2.st = .pending).foldr insertAge []

/-- The oldest PENDING entry that no PENDING entry names as a source (R308). -/
def Core.oldestSink (c : Core) : Option Nat := (c.pendings.find? fun p => !c.consumed p.1).map (·.1)

/-- A handle bound to an entry, or unbound; the entry it named before is treated under R274 (R275). -/
def Core.bind (c : Core) (h : Hnd) (e : Option Nat) : Core :=
  let old := c.hnd h
  let c := { c with hnds := c.hnds.put none h.toNat e }
  match old with
  | some o => c.collect tableSize o
  | none => c

/-! ### Shapes -/

/-- The shape of a cask: format, rank, extents of dims 0 to 5. -/
def CaskDesc.fmt (d : CaskDesc) : Nat :=
  match d with | .view v => v.fmt | .op o => o.ofmt
def CaskDesc.rank (d : CaskDesc) : Nat :=
  match d with | .view v => v.rank | .op o => o.rank
def CaskDesc.ext (d : CaskDesc) : List Nat :=
  match d with | .view v => v.ext | .op o => o.ext

/-- Element `i` of a list of numbers, or zero. -/
def nth (l : List Nat) (i : Nat) : Nat := (l[i]?).getD 0

/-- Element `i` of a list of integers, or zero. -/
def nthInt (l : List Int) (i : Nat) : Int := (l[i]?).getD 0

/-- Span `i` of a box, or the single coordinate 0. -/
def nthSpan (l : List (Nat × Nat)) (i : Nat) : Nat × Nat := (l[i]?).getD (0, 0)

/-- Extents from six 2-byte fields that hold extent − 1; dims at or above the rank have extent 1 (R281). -/
def extents (bs : List Byte) (o rank : Nat) : List Nat :=
  (List.range 6).map fun i => if i < rank then field bs (o + 2 * i) 2 + 1 else 1

/-- The full box of a shape. -/
def fullBox (ext : List Nat) : List (Nat × Nat) := ext.map fun n => (0, n - 1)

/-! ### Descriptors -/

/-- A view descriptor (R281). -/
def viewOf (bs : List Byte) : ViewDesc :=
  let rank := field bs 0x0A 1 % 8
  let acc := nbit (field bs 0x0A 1) 3
  { acc := acc
    base := if acc then BitVec.ofNat 72 (field bs 0 8 % 128) else BitVec.ofNat 72 (field bs 8 1 * 2 ^ 64 + field bs 0 8)
    fmt := field bs 9 1
    rank := rank
    ext := extents bs 0x10 rank
    str := (List.range 6).map fun i => signed 32 (field bs (0x20 + 4 * i) 4)
    scl := BitVec.ofNat 72 (field bs 0x0B 1 * 2 ^ 64 + field bs 0x38 8) }

/-- The lowest offset of a reserved value of a view descriptor (R281 to R283). -/
def viewReserved (bs : List Byte) : Option Nat :=
  let v := viewOf bs
  if 16 ≤ v.fmt || (v.acc && 2 ≤ v.fmt) then some 0x09
  else if v.rank = 0 || v.rank = 7 || (v.acc && v.rank ≠ 2) then some 0x0A
  else if v.acc && 64 < nth v.ext 0 then some 0x10
  else if !v.acc && v.fmt = 6 && nthInt v.str 0 ≠ 1 then some 0x20
  else none

/-- Tiles per 64 rows of an accumulator view (R283). -/
def accStep (fmt : Nat) : Nat := if fmt = 0 then 2 else 1

/-- The accumulator tiles of a view: the first and how many (R284). -/
def ViewDesc.tiles (v : ViewDesc) : Nat × Nat := (v.base.toNat, (nth v.ext 1 + 63) / 64 * accStep v.fmt)

/-- Accumulator tiles backed by PART (R24). -/
def Core.backedTiles (c : Core) : Nat := 4 * c.acu

/-- The operations' codes for the checks of R288: words 0x31 to 0x36. -/
def opSources (op : CaskOp) (fn : Nat) : List Nat :=
  match op with
  | .mm => [2, 3]
  | .ew => if fn = 3 || fn = 9 then [3] else if fn = 6 || fn = 7 || fn = 8 then [1]
      else if fn < 10 then [2] else [1, 2, 3]
  | .red | .tr | .cvt | .perm => [1]

/-- The FN values that an operation allows (R288, R290). The manual gives [2:0] of FN as the dim of `t.perm` and says nothing of the
other bits of its byte: the whole byte is taken, so that a value above 5 is reserved (DESIGN CHOICE, log entry 71). -/
def opFn (op : CaskOp) (fn : Nat) : Bool :=
  match op with
  | .mm | .tr | .cvt => fn = 0
  | .ew => fn < 10
  | .red => fn < 3
  | .perm => fn < 6

/-- A map entry (R286). -/
def mapEntOf (w : Nat) : MapEnt := { sel := w % 8, coef := signed 8 (w / 2 ^ 8), off := signed 16 (w / 2 ^ 16) }

/-- The sources an operation descriptor asks for, and so the bytes that are read (R285). -/
def nsrcOf (bs : List Byte) : Nat := if field bs 0 1 ≤ 4 then field bs 0 1 else 0

/-- The rounding mode of a field. -/
def modeOf (n : Nat) : RMode :=
  match n % 4 with | 0 => .rne | 1 => .rtz | 2 => .rup | _ => .rdn

/-- An operation descriptor with its maps (R285). -/
def opOf (op : CaskOp) (bs : List Byte) : OpDesc :=
  let rank := field bs 2 1 % 8
  { op := op
    ofmt := field bs 1 1
    rank := rank
    mode := modeOf (field bs 3 1)
    sat := nbit (field bs 3 1) 3
    fn := field bs 4 1
    tbl := if nbit (field bs 7 1) 4 then some (field bs 7 1 % 16) else none
    ext := extents bs 8 rank
    kext := if op = .mm || op = .red then field bs 0x14 2 else 0
    maps := (List.range (nsrcOf bs)).map fun i =>
      (List.range 6).map fun j => mapEntOf (field bs (0x20 + 32 * i + 4 * j) 4) }

/-- The lowest offset of a reserved value that does not depend on the sources (R285, R288). -/
def opReserved (op : CaskOp) (bs : List Byte) : Option Nat :=
  let o := opOf op bs
  if !(opSources op o.fn).contains (field bs 0 1) then some 0
  else if 16 ≤ o.ofmt || (o.ofmt = 7 && op ≠ .tr) then some 1
  else if o.rank = 0 || o.rank = 7 then some 2
  else if 4 ≤ field bs 3 1 % 8 then some 3
  else if !opFn op o.fn then some 4
  else if op = .perm && o.tbl.isNone then some 7
  else none

/-- Whether a source format converts into an output format (R256). -/
def cvtPair (src dst : Nat) : Bool := if src = 7 then dst = 10 else dst ≠ 7

/-- The lowest offset of a value that the bound sources make reserved (R279, R286, R288, R289, R291). -/
def opReservedFor (o : OpDesc) (srcs : List CaskDesc) : Option Nat :=
  let f (i : Nat) : Nat := ((srcs[i]?).map CaskDesc.fmt).getD 0
  let badFmt := match o.op with
    | .mm => !pairOk (f 0) (f 1) || decide (o.ofmt ≠ if f 0 = 0 then 0 else 1)
    | .ew | .red => srcs.any fun x => x.fmt = 7
    | .cvt => !cvtPair (f 0) o.ofmt
    | .tr | .perm => decide (o.ofmt ≠ f 0)
  if badFmt then some 1
  else if o.op = .perm && f 0 = 6 && o.fn = 0 then some 4
  else if o.op = .mm && srcs.length = 3 && f 2 ≠ o.ofmt then some 5
  else if o.op = .mm || o.op = .red then none
  else
    (List.range srcs.length).foldl (fun r i =>
      r.orElse fun _ =>
        let rank := ((srcs[i]?).map CaskDesc.rank).getD 0
        ((List.range rank).find? fun j => ((((o.maps[i]?).getD [])[j]?).map MapEnt.sel) = some 6).map fun j =>
          0x20 + 32 * i + 4 * j) none

/-! ### Maps -/

/-- The range of a map entry over spans of the output coordinates and of k (R286, R295). -/
def MapEnt.range (m : MapEnt) (span : List (Nat × Nat)) (k : Nat × Nat) : Int × Int :=
  let s := if m.sel < 6 then nthSpan span m.sel else if m.sel = 6 then k else (0, 0)
  let x := if m.sel = 7 then 0 else m.coef
  let a := x * s.1 + m.off
  let b := x * s.2 + m.off
  (min a b, max a b)

/-- A map takes every output coordinate and k inside a shape (R287). -/
def mapInside (m : List MapEnt) (src : CaskDesc) (span : List (Nat × Nat)) (kext : Nat) : Bool :=
  (List.range src.rank).all fun j =>
    match m[j]? with
    | none => true
    | some e =>
      let r := e.range span (0, kext)
      decide (0 ≤ r.1) && decide (r.2 < nth src.ext j)

/-- The map is one that R289 and R291 require of a bq8 source. -/
def mapBlocks (o : OpDesc) (m : List MapEnt) (src : CaskDesc) : Bool :=
  if src.fmt ≠ 6 then true
  else
    match m[0]? with
    | none => true
    | some e =>
      match o.op with
      | .mm => e.sel = 6 && e.coef = 1 && e.off = 0
      | .tr => e.sel = 0 && e.coef = 1 && e.off % 32 = 0
      | _ => true

/-- The first source whose map fails the check of R287 (R279). -/
def badMap (o : OpDesc) (srcs : List CaskDesc) : Option Nat :=
  (List.range srcs.length).find? fun i =>
    match srcs[i]?, o.maps[i]? with
    | some s, some m => !(mapInside m s (fullBox o.ext) o.kext && (mapBlocks o m s || i = 2))
    | _, _ => false

/-! ### Tiles (R292) -/

/-- The bytes a tile of a format takes in the scratch area. -/
def tileBytes (fmt : Nat) : Nat := 4096 * fmtBytes fmt + (if fmt = 6 then 128 else 0)

/-- The coordinates of the box that a tile covers, inside the extents. -/
def tileBox (ext key : List Nat) : List (Nat × Nat) :=
  (List.range 6).map fun i =>
    if i < 2 then (64 * nth key i, min (64 * nth key i + 63) (nth ext i - 1)) else (nth key i, nth key i)

/-- Numbers from `a` to `b`. -/
def spanList (a b : Nat) : List Nat := (List.range (b + 1 - a)).map (a + ·)

/-- The tiles that meet a box, dim 0 varying fastest. -/
def tilesOf (box : List (Nat × Nat)) : List (List Nat) :=
  let dim (i : Nat) : List Nat :=
    let s := nthSpan box i
    if i < 2 then spanList (s.1 / 64) (s.2 / 64) else spanList s.1 s.2
  (List.range 6).foldl (fun (acc : List (List Nat)) i => (dim i).flatMap fun x => acc.map (· ++ [x])) [[]]

/-- The spans of a set of tiles. -/
def tilesSpan (ext : List Nat) (ts : List (List Nat)) : List (Nat × Nat) :=
  (List.range 6).map fun i =>
    match ts.map fun t => nthSpan (tileBox ext t) i with
    | [] => (0, 0)
    | s :: ss => ss.foldl (fun a b => (min a.1 b.1, max a.2 b.2)) s

/-- The least and greatest of a non-empty list. -/
def hull (l : List Nat) : Nat × Nat :=
  match l with
  | [] => (0, 0)
  | x :: xs => xs.foldl (fun a b => (min a.1 b, max a.2 b)) (x, x)

/-- The box in a source's coordinates that holds everything a set of output spans reads (R295): `t.perm` reads through its
table in its dim, and `t.mm` reads source 1 through its table, but the scales of its blocks in their own order (R271). -/
def backmap (c : Core) (o : OpDesc) (i : Nat) (src : CaskDesc) (span : List (Nat × Nat)) : List (Nat × Nat) :=
  let tbl : List Nat := match o.tbl with | some t => c.perm.get [] t | none => []
  let through (s : Nat × Nat) : Nat × Nat := hull ((spanList s.1 s.2).map fun x => nth tbl x)
  let span := if o.op = .perm then span.mapIdx fun j s => if j = o.fn then through s else s else span
  let scales := if src.fmt = 6 then (List.range (o.kext / 32 + 1)).map (32 * ·) else []
  let k := if o.op = .mm && i = 1 && o.tbl.isSome then hull (((List.range (o.kext + 1)).map fun x => nth tbl x) ++ scales)
    else (0, o.kext)
  (List.range 6).map fun j =>
    if src.rank ≤ j then (0, 0)
    else
      match ((o.maps[i]?).getD [])[j]? with
      | none => (0, 0)
      | some e =>
        let r := e.range span k
        (min (nth src.ext j - 1) r.1.toNat, min (nth src.ext j - 1) r.2.toNat)

/-! ### Byte ranges of views (R283, R284) -/

/-- An address folded onto the own scratchpad where a window names it (R226). -/
def State.fold (s : State) (k : Nat) (va : VAddr) : Nat :=
  if va.toNat / 2 ^ 64 = 0xFF then
    match s.aperture k (va.toNat % 2 ^ 64) with
    | .ok (.spad c o) _ => if c = k then 0xFF * 2 ^ 64 + o else va.toNat
    | _ => va.toNat
  else va.toNat

/-- Two ranges of the 72-bit space meet. -/
def meets (a n b m : Nat) : Bool :=
  decide (0 < n) && decide (0 < m) &&
    (decide (((b : Int) - a) % 2 ^ 72 < n) || decide (((a : Int) - b) % 2 ^ 72 < m))

/-- The address of an element of a view (R283). -/
def ViewDesc.elem (v : ViewDesc) (o : List Nat) : VAddr :=
  vadd v.base ((List.range 6).foldl (fun a i => a + (nth o i : Int) * nthInt v.str i) 0)

/-- Blocks of a row of a bq8 view. -/
def ViewDesc.blocks (v : ViewDesc) : Nat := (nth v.ext 0 + 31) / 32

/-- The address of the scale of an element of a bq8 view (R283). -/
def ViewDesc.scale (v : ViewDesc) (o : List Nat) : VAddr :=
  let row := (List.range 5).foldr (fun i a => nth o (i + 1) + nth v.ext (i + 1) * a) 0
  vadd v.scl (nth o 0 / 32 + v.blocks * row)

/-- The interval of a box of a view: its lowest byte and its length. -/
def ViewDesc.interval (v : ViewDesc) (box : List (Nat × Nat)) : VAddr × Nat :=
  let lo := (List.range 6).foldl (fun (a : Int) i =>
    let s := nthSpan box i
    a + min (s.1 * nthInt v.str i) (s.2 * nthInt v.str i)) 0
  let hi := (List.range 6).foldl (fun (a : Int) i =>
    let s := nthSpan box i
    a + max (s.1 * nthInt v.str i) (s.2 * nthInt v.str i)) 0
  (vadd v.base lo, (hi - lo).toNat + fmtBytes v.fmt)

/-- What a write touches: bytes, or accumulator tiles from a first one on. -/
inductive WRange where
  | mem (va : VAddr) (n : Nat)
  | tiles (first n : Nat)
deriving DecidableEq, Repr

/-- The interval of the scale array of a bq8 view that belongs to a box. -/
def ViewDesc.scaleInterval (v : ViewDesc) (box : List (Nat × Nat)) : VAddr × Nat :=
  let a := v.scale ((List.range 6).map fun i => (nthSpan box i).1)
  let b := v.scale ((List.range 6).map fun i => (nthSpan box i).2)
  (a, (b - a).toNat + 1)

/-- A write of `n` bytes meets the read range of a box of a KIND 0 view: the interval of its elements with that of its scales, bytes in
gaps among them (R284). -/
def State.meetsBytes (s : State) (k : Nat) (v : ViewDesc) (box : List (Nat × Nat)) (va : VAddr) (n : Nat) : Bool :=
  let i := v.interval box
  let c := v.scaleInterval box
  meets (s.fold k i.1) i.2 (s.fold k va) n || (v.fmt = 6 && meets (s.fold k c.1) c.2 (s.fold k va) n)

/-- A write meets what a box of a view reads (R283, R284). -/
def State.meetsBox (s : State) (k : Nat) (v : ViewDesc) (box : List (Nat × Nat)) (w : WRange) : Bool :=
  match v.acc, w with
  | true, .tiles f n =>
    let r := nthSpan box 1
    let w := accStep v.fmt
    let a := v.base.toNat + r.1 / 64 * w
    let m := (r.2 / 64 - r.1 / 64 + 1) * w
    decide (a < f + n) && decide (f < a + m)
  | false, .mem va n => s.meetsBytes k v box va n
  | _, _ => false

/-- A write meets the read range of a view (R284). -/
def State.meetsView (s : State) (k : Nat) (v : ViewDesc) (w : WRange) : Bool :=
  match v.acc, w with
  | true, .tiles f n => let t := v.tiles; decide (t.1 < f + n) && decide (f < t.1 + t.2)
  | false, .mem va n => s.meetsBytes k v (fullBox v.ext) va n
  | _, _ => false

/-- The entries that a checked write makes the expander force, oldest first, each with its tiles (R304, R305). `seq` is the
write-sequence value of the write. -/
def State.aliasSets (s : State) (k seq : Nat) (w : WRange) : List (Nat × List (List Nat)) :=
  let c := s.core k
  if c.user.halted then [] else
  c.pendings.filterMap fun p =>
    if seq ≤ p.2.seq then none
    else
      match p.2.desc with
      | .view _ => none
      | .op o =>
        let srcs := p.2.src.mapIdx fun i e => (i, e)
        let hit (q : Nat × Nat) : List (List Nat) :=
          match (c.cask q.2).map Cask.desc with
          | some (.view v) =>
            if s.meetsView k v w then
              (tilesOf (fullBox o.ext)).filter fun t => s.meetsBox k v (backmap c o q.1 (.view v) (tileBox o.ext t)) w
            else []
          | _ => []
        let ts := (srcs.flatMap hit).dedup
        if ts.isEmpty then none else some (p.1, ts)

end Sys2Proof.Machine
end

