-- ==== Sys2Proof/Machine/Search.lean ====
section
/-!
DEFINITION. Searching the calendars: the first berth and berth count of each use of a chain (R61), identifiers and table
entries (R78), and the commit of rows that a booking unit owns itself (R67, R68).
-/

namespace Sys2Proof.Machine

/-- Whether a use is owned by the BKU of a die of this package. -/
def State.ownedBy (s : State) (die : Nat) (u : BUse) : Bool := s.useHere u && decide (ownerDie u.cal = die)

/-- Two uses lie in one package. -/
def State.samePkg (s : State) (u v : BUse) : Bool := (s.useHere u && s.useHere v) || decide (u.pkg = v.pkg)

/-- Distinct calendars of a chain (R60); 0x7FF names the own package (R59). -/
def State.ncal (s : State) (us : List BUse) : Nat :=
  (((us.filter fun u => !u.fin).map fun u => (if s.useHere u then 0x7FF else u.pkg, u.cal)).dedup).length

/-- The largest owner latency of a chain (R63). -/
def State.tmax (s : State) (die : Nat) (us : List BUse) : Nat := (us.filter fun u => !u.fin).foldl (fun t u => max t (s.tOwner die u)) 0

/-- The latest arrival of the commit of a use, for a round that begins at a tick (R61). -/
def State.latest (s : State) (die : Nat) (us : List BUse) (at_ : Nat) (u : BUse) : Nat :=
  at_ + 12 * s.ncal us + 2 * s.tmax die us + 16 + (if s.ownedBy die u then 0 else s.tOwner die u)

/-- Berths a use needs from berth `b` (R61): the late-start berth where `b` begins before the commit arrives. -/
def needBerths (dur b tc : Nat) : Nat := (dur + 255) / 256 + (if 256 * b < tc then 1 else 0)

/-- The least first berth that a use's predecessors allow (R61, R75). -/
def State.afterPreds (s : State) (done : List BUse) (u : BUse) (f : Nat) : Nat :=
  (List.range done.length).foldl (fun f i =>
    match done[i]? with
    | none => f
    | some p =>
      if nbit u.pred i && !p.fin then
        max f (p.first + (if u.withLink then 0 else p.n) + (if s.samePkg p u then 0 else 1))
      else f) f

/-- The rows of a use at its own BKU turn into a state. -/
def State.markOwn (s : State) (id : UseId) (u : BUse) (st : RowState) : State :=
  s.placeUse u.cal
    { id := id, first := u.first, n := u.n, st := st, exp := 0, start := none, carried := false, stop := false, dur := u.dur,
      link := u.withLink }

/-- The result of the search steps of a round: the uses with their berths, or the use at which the horizon check failed. -/
inductive Searched where
  | ok (s : State) (us : List BUse)
  | horizon (s : State) (j : Nat) (us : List BUse)
deriving DecidableEq, Repr

/-- The search steps of a round that began at a tick (R61): rows of the searching BKU are marked HELD; an own use's rows may
have to be searched for up to the horizon. -/
def State.search (s : State) (die : Nat) (id : Nat → UseId) (all : List BUse) (at_ : Nat) :
    List BUse → List BUse → Searched
  | done, [] => .ok s done
  | done, u :: us =>
    if u.fin then State.search s die id all at_ (done ++ [{ u with ans := .own }]) us
    else
      let tc := s.latest die all at_ u
      let f := s.afterPreds done u (max u.floor (tc / 256))
      let own := s.ownedBy die u
      let first := if own then
          earliest (fun b => (s.cal u.cal).freeRun b (needBerths u.dur b tc)) (s.horizon + 2 - f) f
        else some f
      match first with
      | none => .horizon s done.length done
      | some b =>
        let n := needBerths u.dur b tc
        let v := { u with first := b, n := n, ans := if own then .own else .waiting }
        if s.horizon < b + n - 1 then .horizon s done.length done
        else
          State.search (if own then s.markOwn (id done.length) v .held else s) die id all at_ (done ++ [v]) us

/-- The rows a searching BKU holds of its own for a chain turn BOOKED (R67); those of a use whose berths have passed are gone (R55). -/
def State.bookOwn (s : State) (die : Nat) (id : Nat → UseId) (us : List BUse) : State :=
  (List.range us.length).foldl (fun s j =>
    match us[j]? with
    | some u => if s.ownedBy die u && !u.fin && decide (s.berth < u.first + u.n) then s.markOwn (id j) u .booked else s
    | none => s) s

/-- A use that its owner, the committing unit itself, has nothing to run for: its berths have passed (R55). -/
def State.passedUse (s : State) (die : Nat) (u : BUse) : Bool := s.ownedBy die u && decide (u.first + u.n ≤ s.berth)

/-- The rows a searching BKU holds of its own for a chain turn FREE (R67). -/
def State.freeOwn (s : State) (die : Nat) (id : Nat → UseId) (us : List BUse) : State :=
  (List.range us.length).foldl (fun s j =>
    match us[j]? with
    | some u => if s.ownedBy die u && !u.fin then s.setCal u.cal ((s.cal u.cal).dropUse (id j)) else s
    | none => s) s

/-! ### Identifiers and table entries (R78) -/

/-- Entries of a booking table. -/
def bookingSlots : Nat := 64

/-- The table is full of live entries. -/
def Core.bookingsFull (c : Core) : Bool := decide (bookingSlots ≤ (c.books.filter Booking.live).length)

/-- The identifier a new booking takes (R78). -/
def Core.nextId (c : Core) : Nat :=
  let ok (i : Nat) : Bool := decide (i ≠ 0xFFF) && !c.books.any fun b => b.live && decide (b.id = i)
  ((earliest (fun i => ok (i % 4096)) 4097 c.idCtr).getD c.idCtr) % 4096

/-- A new entry takes a free slot, or that of the oldest finished entry (R78): the one requested first, since the spec does not say
by what a finished entry is the oldest (DESIGN CHOICE, log entry 70). -/
def Core.addBooking (c : Core) (b : Booking) : Core :=
  let kept := if c.books.length < bookingSlots then c.books
    else
      match c.books.find? fun x => !x.live with
      | none => c.books
      | some old => c.books.filter fun x => x.order ≠ old.order
  { c with books := kept ++ [{ b with order := c.bookOrder }], bookOrder := c.bookOrder + 1, idCtr := (b.id + 1) % 4096 }

/-- A use with nothing searched yet. -/
def newUse (cal : Cal) (pkg : Nat) (withLink : Bool) (dur pred : Nat) : BUse where
  cal := cal
  pkg := pkg
  withLink := withLink
  dur := dur
  pred := pred
  floor := 0
  first := 0
  n := 0
  ans := .refused none
  fin := false

/-- A booking that has just been asked for. -/
def newBooking (id berth notBefore : Nat) (us : List BUse) (dest : Option (Bool × Reg)) : Booking where
  id := id
  status := .held
  sub := 0
  berth := 0
  uses := us.map fun u => { u with floor := berth + notBefore }
  order := 0
  breq := berth
  notBefore := notBefore
  dest := dest
  round := none
  next := 0
  refusals := 0
  rebook := false

/-- The result word of a request that finds its table full (R78). -/
def tableFull : W64 := BitVec.ofNat 64 (1 * 2 ^ 60 + 4 * 2 ^ 56 + 0xFFF * 2 ^ 40)

/-- What the submission of a chain of forced work comes to (R84, R301): a request in its rounds, or a result word. -/
inductive Forced where
  | ok (s : State) (id : Nat)
  | refused (s : State) (word : W64)
deriving DecidableEq, Repr

/-- Submit a chain of the expander (R300): a request of the core as `bk.req` makes, with no destination. A full table, a stopped
booking unit, and a descriptor outside R59 end it at once (R60, R78, R88). -/
def State.submitForced (s : State) (k notBefore : Nat) (us : List BUse) : Forced :=
  let c := s.core k
  if c.bookingsFull then .refused s tableFull
  else
    let b := { newBooking c.nextId s.berth notBefore us none with next := s.tb }
    if (s.die (dieOf k)).failstop then
      let b := { b with status := .fatal, sub := 1 }
      .refused (s.setCore k (c.addBooking b)) b.word
    else if (us.any fun u => decide (65536 < u.dur)) || decide (8191 < notBefore) then
      let b := { b with status := .refused, sub := 2 }
      .refused (s.setCore k (c.addBooking b)) b.word
    else .ok (s.setCore k (c.addBooking b)) b.id

/-- EINFO1 and EINFO2 of a chain of forced work that ended REFUSED or FATAL (R84): the use at which the horizon check failed, with
its word 0; else 16 and zero. PKG of the word is the code of the own package, 0x7FF (DESIGN CHOICE, log entry 70). -/
def Booking.endedAt (b : Booking) : Nat × W64 :=
  let j := (b.uses.findIdx fun u => u.ans ≠ .own)
  match b.uses[j]? with
  | some u => if b.status = .refused && b.sub = 3 then (j, useWord 0x7FF u.cal u.withLink u.dur) else (16, 0)
  | none => (16, 0)

end Sys2Proof.Machine
end

