-- ==== Sys2Proof/Machine/Expand.lean ====
section
/-!
DEFINITION. The cask expander (R288 to R313): elements and tiles of casks, room in the scratch area, forcing, the box of a
demand, pinning and materialising, and the engine uses that a forcing books (R300).
-/

namespace Sys2Proof.Machine

/-! ### Elements -/

/-- A fold whose steps access memory. -/
def eFold {α β : Type} (f : State → α → β → ERes α) : State → α → List β → ERes α
  | s, a, [] => .ok s a
  | s, a, x :: xs => (f s a x).bind fun s b => eFold f s b xs

/-- The expander as an accessor: it may use the scratch area (R277). -/
def expander (k : Nat) : Who := { core := k, eng := none }

/-- The address of an own-scratchpad byte (R225). -/
def spadVa (o : Nat) : VAddr := BitVec.ofNat 72 (0xFF * 2 ^ 64 + o)

/-- The pool offset of an element of an accumulator view (R283, R322). -/
def ViewDesc.accOff (v : ViewDesc) (o : List Nat) : Nat :=
  let m := nth o 1 % 64
  let t := v.base.toNat + nth o 1 / 64 * accStep v.fmt
  if v.fmt = 0 then (t + m / 32) * 16384 + (64 * (m % 32) + nth o 0) * 8 else t * 16384 + (64 * m + nth o 0) * 4

/-- Read an element of a view, with its scale (R283, R299). -/
def State.readView (s : State) (k : Nat) (v : ViewDesc) (o : List Nat) : ERes (Nat × Nat) :=
  let eb := fmtBytes v.fmt
  if v.acc then
    let c := s.core k
    let p := c.accBase + v.accOff o
    if c.poolBad p eb then .fault s fEcc 0 else .ok s (leNat (c.poolRead p eb), 0)
  else
    let va := v.elem o
    if va.toNat % eb ≠ 0 then eFault s fAlign va
    else
      (s.engRead (expander k) va eb).bind fun s bs =>
        if v.fmt = 6 then (s.engRead (expander k) (v.scale o) 1).bind fun s cs => .ok s (leNat bs, leNat cs)
        else .ok s (leNat bs, 0)

/-- The tile that holds a coordinate (R292). -/
def tileKey (o : List Nat) : List Nat := (List.range 6).map fun i => if i < 2 then nth o i / 64 else nth o i

/-- The memo tile of a key. -/
def Cask.memoTile (x : Cask) (key : List Nat) : Option MemoTile := x.memo.find? fun t => t.key = key

/-- The own-scratchpad offset of a memo tile. -/
def Core.tileBase (c : Core) (t : MemoTile) : Nat := c.scrBase * 1024 + t.off

/-- The byte of an element in a tile, and of its scale (R292). -/
def inTile (fmt : Nat) (o : List Nat) : Nat := (64 * (nth o 1 % 64) + nth o 0 % 64) * fmtBytes fmt
def scaleInTile (o : List Nat) : Nat := 4096 + 2 * (nth o 1 % 64) + nth o 0 % 64 / 32

/-- Read an element of a cask with its scale: of a view from its memory, of an operation from its memo (R295). -/
def State.readElem (s : State) (k e : Nat) (o : List Nat) : ERes (Nat × Nat) :=
  let c := s.core k
  match c.cask e with
  | none => .fault s fScratch 0
  | some x =>
    match x.desc with
    | .view v => s.readView k v o
    | .op d =>
      match x.memoTile (tileKey o) with
      | none => .fault s fScratch 0
      | some t =>
        let p := c.tileBase t + inTile d.ofmt o
        let q := c.tileBase t + scaleInTile o
        if c.spadBad p (fmtBytes d.ofmt) then eFault s fEcc (spadVa p)
        else if d.ofmt = 6 && c.spadBad q 1 then eFault s fEcc (spadVa q)
        else .ok s (leNat (c.spadRead p (fmtBytes d.ofmt)), if d.ofmt = 6 then leNat (c.spadRead q 1) else 0)

/-- A source coordinate (R286): `o` is the output coordinate, `k` the reduction coordinate. -/
def sourceCoord (m : List MapEnt) (rank : Nat) (o : List Nat) (k : Nat) : List Nat :=
  (List.range 6).map fun j =>
    if rank ≤ j then 0
    else
      match m[j]? with
      | none => 0
      | some e => (e.range (o.map fun x => (x, x)) (k, k)).1.toNat

/-- Read source `i` of an operation at an output coordinate. -/
def State.readSource (s : State) (k : Nat) (x : Cask) (d : OpDesc) (i : Nat) (o : List Nat) (kk : Nat) : ERes (Nat × Nat) :=
  let e := nth x.src i
  let rank := (((s.core k).cask e).map fun y => y.desc.rank).getD 6
  s.readElem k e (sourceCoord ((d.maps[i]?).getD []) rank o kk)

/-- The format of source `i`. -/
def Core.sourceFmt (c : Core) (x : Cask) (i : Nat) : Nat := ((c.cask (nth x.src i)).map fun y => y.desc.fmt).getD 0

/-! ### Computation (R288 to R291) -/

/-- The computation type of an output format (R290), as a format code. -/
def compType (ofmt : Nat) : Nat := if ofmt = 0 then 0 else if (intFmt ofmt).isSome then 11 else 1

/-- An element converted to another format (R256); a reserved pair was refused at creation. -/
def toFmt (src dst : Nat) (v : Nat × Nat) (mode : RMode) (sat : Bool) : Nat :=
  ((if src = 6 then fromBq v.1 v.2 dst mode sat else convert src dst v.1 mode sat)).getD 0

/-- Wrapping arithmetic of i64. -/
def wrap64 (x : Int) : Nat := (x % 2 ^ 64).toNat

/-- A function of `t.ew` in a computation type (R290). -/
def ewFn (ct fn : Nat) (mode : RMode) (sat : Bool) (vs : List Nat) : Nat :=
  let a := nth vs 0
  let b := nth vs 1
  let c := nth vs 2
  if ct = 11 then
    let x := intVal 64 true a
    let y := intVal 64 true b
    match fn with
    | 0 => wrap64 (x + y)
    | 1 => wrap64 (x - y)
    | 2 => wrap64 (x * y)
    | 3 => wrap64 (x * y + intVal 64 true c)
    | 4 => wrap64 (min x y)
    | 5 => wrap64 (max x y)
    | 6 => wrap64 (max x 0)
    | 7 => wrap64 x.natAbs
    | 8 => wrap64 (-x)
    | _ => if x ≠ 0 then b else c
  else
    let f := if ct = 0 then fp64 else fp32
    let top := 2 ^ (f.ew + f.fw)
    match fn with
    | 0 => (f.add a b mode sat).1
    | 1 => (f.sub a b mode sat).1
    | 2 => (f.mul a b mode sat).1
    | 3 => (f.fma a b c mode sat).1
    | 4 => (f.minMax a b false).1
    | 5 => (f.minMax a b true).1
    | 6 => (f.minMax a 0 true).1
    | 7 => a % top
    | 8 => if top ≤ a then a - top else a + top
    | _ => if a % top ≠ 0 then b else c

/-- One step of `t.red` (R288). -/
def redStep (ct fn : Nat) (mode : RMode) (sat : Bool) (a b : Nat) : Nat :=
  ewFn ct (if fn = 0 then 0 else if fn = 1 then 5 else 4) mode sat [a, b]

/-- The products of one element of `t.mm` from `k0`, in rising k: elements of source 0 and source 1 (R289). -/
def State.mmProducts (s : State) (k : Nat) (x : Cask) (d : OpDesc) (o : List Nat) (tbl : Option (List Nat)) (k0 n : Nat) :
    ERes (List (Nat × Nat)) :=
  eFold (fun s acc i =>
    let kk := k0 + i
    (s.readSource k x d 0 o kk).bind fun s a =>
      (s.readSource k x d 1 o (match tbl with | some t => nth t kk | none => kk)).bind fun s w =>
        .ok s (acc ++ [(a.1, w.1)])) s [] (List.range n)

/-- One pass of `t.mm`, or one block of a bq8 pass, from `k0` (R261, R262, R265, R266, R289). -/
def State.mmPass (s : State) (k : Nat) (x : Cask) (d : OpDesc) (o : List Nat) (tbl : Option (List Nat)) (z k0 n : Nat) :
    ERes Nat :=
  let fa := (s.core k).sourceFmt x 0
  let fw := (s.core k).sourceFmt x 1
  (s.mmProducts k x d o tbl k0 n).bind fun s ps =>
    if fa = 6 then
      (s.readSource k x d 0 o k0).bind fun s a =>
        (s.readSource k x d 1 o k0).bind fun s w => .ok s (addBlock z ps a.2 w.2)
    else if fa = 0 then .ok s (passF64 z ps)
    else .ok s (passF32 fa fw z ps)

/-- The depth by which `t.mm` splits k: its passes, and for bq8 the blocks of 32 within them (R262, R289). -/
def mmDepth (fa fw : Nat) : Nat := if fa = 6 then 32 else min ((passDepth fa).getD 64) ((passDepth fw).getD 64)

/-- An element of `t.mm` (R288, R289). -/
def State.mmElem (s : State) (k : Nat) (x : Cask) (d : OpDesc) (o : List Nat) (tbl : Option (List Nat)) : ERes Nat :=
  let dep := mmDepth ((s.core k).sourceFmt x 0) ((s.core k).sourceFmt x 1)
  let z0 : ERes Nat := if x.src.length = 3 then (s.readSource k x d 2 o 0).bind fun s v => .ok s v.1 else .ok s 0
  z0.bind fun s z =>
    eFold (fun s z p => s.mmPass k x d o tbl z (p * dep) (min dep (d.kext + 1 - p * dep))) s z
      (List.range ((d.kext + dep) / dep))

/-- The output coordinate through the table of `t.perm` (R288). -/
def permCoord (d : OpDesc) (tbl : Option (List Nat)) (o : List Nat) : List Nat :=
  match d.op, tbl with
  | .perm, some t => o.mapIdx fun j x => if j = d.fn then nth t x else x
  | _, _ => o

/-- An element of an operation before a bq8 output is quantised: its bits, in the output format or, for a bq8 output, in a
format that holds it, and the scale that comes with a moved bq8 element (R288, R290, R291). -/
def State.opElem (s : State) (k : Nat) (x : Cask) (d : OpDesc) (tbl : Option (List Nat)) (o : List Nat) : ERes (Nat × Nat) :=
  let c := s.core k
  let ct := compType d.ofmt
  let out (v : Nat) : Nat := if d.ofmt = 6 then v else toFmt ct d.ofmt (v, 0) d.mode d.sat
  match d.op with
  | .mm => (s.mmElem k x d o tbl).bind fun s v => .ok s (v, 0)
  | .ew =>
    (eFold (fun s (acc : List Nat) i =>
      (s.readSource k x d i o 0).bind fun s v => .ok s (acc ++ [toFmt (c.sourceFmt x i) ct v d.mode d.sat])) s []
        (List.range x.src.length)).bind fun s vs => .ok s (out (ewFn ct d.fn d.mode d.sat vs), 0)
  | .red =>
    let f0 := c.sourceFmt x 0
    (s.readSource k x d 0 o 0).bind fun s v =>
      (eFold (fun s a i =>
        (s.readSource k x d 0 o (i + 1)).bind fun s w => .ok s (redStep ct d.fn d.mode d.sat a (toFmt f0 ct w d.mode d.sat)))
        s (toFmt f0 ct v d.mode d.sat) (List.range d.kext)).bind fun s r => .ok s (out r, 0)
  | .tr => s.readSource k x d 0 o 0
  | .perm => s.readSource k x d 0 (permCoord d tbl o) 0
  | .cvt =>
    (s.readSource k x d 0 o 0).bind fun s v =>
      let f0 := c.sourceFmt x 0
      if d.ofmt = 6 then .ok s (if f0 = 6 then toFmt 6 0 v d.mode false else v.1, 0)
      else .ok s (toFmt f0 d.ofmt v d.mode d.sat, 0)

/-- The format in which `opElem` gives the elements of a bq8 output. -/
def Core.quantFmt (c : Core) (x : Cask) (d : OpDesc) : Nat :=
  if d.op = .cvt then (if c.sourceFmt x 0 = 6 then 0 else c.sourceFmt x 0) else 1

/-- Blocks of 32 of a row: quantised elements and the scale of each block (R259, R291). -/
def quantRow (src : Nat) (mode : RMode) (vs : List Nat) : List Nat × List Nat :=
  let a := quantise src (vs.take 32) mode
  if vs.length ≤ 32 then (a.1, [a.2])
  else
    let b := quantise src (vs.drop 32) mode
    (a.1 ++ b.1, [a.2, b.2])

/-- Fill a list of numbers up to a length with zeros. -/
def padTo (n : Nat) (l : List Nat) : List Nat := (l ++ List.replicate n 0).take n

/-- One row of a tile: 64 elements and two scales. A `t.perm` that moves bq8 elements takes the scales it meets at elements 0 and 32 of
the row, whatever its map along dim 0 is (DESIGN CHOICE, log entry 71). -/
def State.tileRow (s : State) (k : Nat) (x : Cask) (d : OpDesc) (tbl : Option (List Nat)) (box : List (Nat × Nat)) (row : Nat) :
    ERes (List Nat × List Nat) :=
  let sp := nthSpan box 0
  let at_ (i : Nat) : List Nat := [i, row, (nthSpan box 2).1, (nthSpan box 3).1, (nthSpan box 4).1, (nthSpan box 5).1]
  (eFold (fun s (acc : List (Nat × Nat)) i => (s.opElem k x d tbl (at_ i)).bind fun s v => .ok s (acc ++ [v])) s []
    (spanList sp.1 sp.2)).bind fun s vs =>
      let es := vs.map (·.1)
      if d.ofmt ≠ 6 then .ok s (padTo 64 es, [0, 0])
      else if d.op = .tr || d.op = .perm then
        .ok s (padTo 64 es, [((vs[0]?).map (·.2)).getD 0, ((vs[32]?).map (·.2)).getD 0])
      else
        let q := quantRow ((s.core k).quantFmt x d) d.mode es
        .ok s (padTo 64 q.1, padTo 2 q.2)

/-- The table that an operation reads is empty, too short, or leads outside its source (R288, R289). -/
def Core.tableBad (c : Core) (x : Cask) (d : OpDesc) : Bool :=
  match d.tbl with
  | none => false
  | some n =>
    if d.op ≠ .mm && d.op ≠ .perm then false
    else
      let t := c.perm.get [] n
      let i := if d.op = .mm then 1 else 0
      let need := if d.op = .mm then d.kext + 1 else nth d.ext d.fn
      match c.cask (nth x.src i) with
      | none => true
      | some y =>
        decide (t.length < need) ||
          (t.take need).any fun v =>
            let span := if d.op = .perm then (fullBox d.ext).mapIdx fun j sp => if j = d.fn then (v, v) else sp
              else fullBox d.ext
            !((List.range y.desc.rank).all fun j =>
              match ((d.maps[i]?).getD [])[j]? with
              | none => true
              | some e => let r := e.range span (v, v); decide (0 ≤ r.1) && decide (r.2 < nth y.desc.ext j))

/-- The bytes of a tile of an operation, as the scratch area holds it (R292). -/
def State.computeTile (s : State) (k : Nat) (x : Cask) (d : OpDesc) (key : List Nat) : ERes (List Byte) :=
  let c := s.core k
  let tbl := d.tbl.map fun n => c.perm.get [] n
  let box := tileBox d.ext key
  let rows := spanList (nthSpan box 1).1 (nthSpan box 1).2
  if c.tableBad x d then .fault s fTable 0
  else
    (eFold (fun s (acc : List Byte × List Byte) r =>
      (s.tileRow k x d tbl box r).bind fun s v =>
        .ok s (acc.1 ++ v.1.flatMap (leBytes (fmtBytes d.ofmt)), acc.2 ++ v.2.flatMap (leBytes 1))) s ([], []) rows).bind
      fun s v =>
        let full := 4096 * fmtBytes d.ofmt
        let data := (v.1 ++ List.replicate full 0).take full
        .ok s (if d.ofmt = 6 then data ++ (v.2 ++ List.replicate 128 0).take 128 else data)

/-! ### Room in the scratch area (R297) -/

/-- The places that memo tiles take: offset and size. -/
def Core.memoSpans (c : Core) : List (Nat × Nat) :=
  c.live.flatMap fun p => p.2.memo.map fun t => (t.off, tileBytes p.2.desc.fmt)

/-- The lowest place of a size that meets none of the spans. -/
def Core.scratchSlot (c : Core) (held : List (Nat × Nat)) (n : Nat) : Option Nat :=
  let spans := held ++ c.memoSpans
  let fits (o : Nat) : Bool := decide (o + n ≤ c.scrSize * 1024) && spans.all fun p => decide (o + n ≤ p.1) || decide (p.1 + p.2 ≤ o)
  ((0 :: spans.map fun p => p.1 + p.2).filter fits).foldl (fun r o => match r with
    | none => some o
    | some q => some (min q o)) none

/-- A memo tile of a table: its entry and key. -/
abbrev TileId := Nat × List Nat

/-- The unpinned tile least recently used that nothing needs (R297). -/
def Core.victim (c : Core) (need : List TileId) : Option TileId :=
  let cands := c.live.flatMap fun p =>
    (p.2.memo.filter fun t => !t.pin && !need.contains (p.1, t.key)).map fun t => (t.used, (p.1, t.key))
  (cands.foldl (fun (r : Option (Nat × TileId)) x => match r with
    | none => some x
    | some y => if x.1 < y.1 then some x else some y) none).map (·.2)

/-- Change the memo of an entry. -/
def Core.mapMemo (c : Core) (e : Nat) (f : List MemoTile → List MemoTile) : Core :=
  match c.cask e with
  | none => c
  | some x => c.setCask e (some { x with memo := f x.memo })

/-- Find room, dropping unpinned tiles (R297). -/
def Core.makeRoom (c : Core) (need : List TileId) (held : List (Nat × Nat)) (n : Nat) : Nat → Option (Core × Nat)
  | 0 => none
  | fuel + 1 =>
    match c.scratchSlot held n with
    | some o => some (c, o)
    | none =>
      match c.victim need with
      | none => none
      | some v => Core.makeRoom (c.mapMemo v.1 fun l => l.filter fun t => t.key ≠ v.2) need held n fuel

/-- How many memo tiles there are at most: the fuel of `makeRoom`. -/
def Core.memoCount (c : Core) : Nat := (c.live.map fun p => p.2.memo.length).sum + 1

/-! ### Forcing (R295, R305, R308) -/

/-- How a forcing ends: done, failed at an entry with an inner cause and address (R312), or waiting for another package or
for commands of the program lane (R334). -/
inductive FRes where
  | ok (s : State)
  | fail (s : State) (entry : Nat) (cause : Byte) (addr : W64)
  | wait (s : State)

/-- Put a computed tile into the memo of its entry, in a place of the scratch area (R295). -/
def Core.memoise (c : Core) (e : Nat) (key : List Nat) (pin : Bool) (o : Nat) : Core :=
  { c.mapMemo e fun l => l ++ [{ key := key, pin := pin, off := o, used := c.useClock }] with useClock := c.useClock + 1 }

/-- Mark tiles as used now. -/
def Core.touch (c : Core) (e : Nat) (keys : List (List Nat)) : Core :=
  { c.mapMemo e fun l => l.map fun t => if keys.contains t.key then { t with used := c.useClock } else t with
    useClock := c.useClock + 1 }

/-- Tiles of an entry that a box needs; none of a view or a materialised entry (R295). -/
def Core.tilesFor (c : Core) (e : Nat) (box : List (Nat × Nat)) : List (List Nat) :=
  match c.cask e with
  | some x => if x.st = .view then [] else tilesOf box
  | none => []

/-- The boxes of the sources of an operation for a span of its output. -/
def Core.sourceBoxes (c : Core) (x : Cask) (d : OpDesc) (span : List (Nat × Nat)) : List (Nat × List (Nat × Nat)) :=
  (List.range x.src.length).map fun i =>
    let e := nth x.src i
    match c.cask e with
    | some y => (e, backmap c d i y.desc span)
    | none => (e, [])

/-- Program-lane commands that name one of a run of tiles and were published before a point have not all retired (R334). -/
def Core.tilesBusy (c : Core) (before : Nat) (ts : Nat × Nat) : Bool :=
  c.me.q.any fun e => decide (e.wseq < before) && !e.control &&
    match e.built with
    | some t => (tilesNamed t).any fun z => decide (ts.1 ≤ z) && decide (z < ts.1 + ts.2)
    | none => false

/-- The accumulator tiles that a box of a view touches: the first, and how many. -/
def ViewDesc.boxTiles (v : ViewDesc) (box : List (Nat × Nat)) : Nat × Nat :=
  let r := nthSpan box 1
  let w := accStep v.fmt
  (v.base.toNat + r.1 / 64 * w, (r.2 / 64 - r.1 / 64 + 1) * w)

/-- A forced read of boxes waits for the program lane where they lie in accumulator tiles (R334). -/
def Core.sourcesBusy (c : Core) (before : Nat) (boxes : List (Nat × List (Nat × Nat))) : Bool :=
  boxes.any fun b =>
    match (c.cask b.1).map Cask.desc with
    | some (.view v) => v.acc && c.tilesBusy before (v.boxTiles b.2)
    | _ => false

/-- The deepest recursion of a forcing (R310). -/
def maxDepth : Nat := 16

/-! ### The box of a demand (R293 to R296) -/

/-- The box of a demand in output coordinates. -/
def boxOf (org ext : List Nat) : List (Nat × Nat) := (List.range 6).map fun i => (nth org i, nth org i + nth ext i)

/-- The coordinates of a box, dim 0 varying fastest. -/
def coords (box : List (Nat × Nat)) : List (List Nat) :=
  (List.range 6).foldl (fun (acc : List (List Nat)) i =>
    let sp := nthSpan box i
    (spanList sp.1 sp.2).flatMap fun x => acc.map (· ++ [x])) [[]]

/-- The part of a tile inside a box. -/
def tilePart (ext key : List Nat) (box : List (Nat × Nat)) : List (Nat × Nat) :=
  (List.range 6).map fun i =>
    let a := nthSpan (tileBox ext key) i
    let b := nthSpan box i
    (max a.1 b.1, min a.2 b.2)

/-- The box of a destination view that a part of the output is written to. -/
def destBox (org : List Nat) (part : List (Nat × Nat)) : List (Nat × Nat) :=
  part.mapIdx fun i p => (p.1 - nth org i, p.2 - nth org i)

/-- What the writes of a box of a view touch: one range an element, and its scales; or accumulator tiles whole (R303). -/
def ViewDesc.writes (v : ViewDesc) (box : List (Nat × Nat)) : List WRange :=
  if v.acc then
    let r := nthSpan box 1
    let w := accStep v.fmt
    [.tiles (v.base.toNat + r.1 / 64 * w) ((r.2 / 64 - r.1 / 64 + 1) * w)]
  else
    (coords box).flatMap fun o =>
      .mem (v.elem o) (fmtBytes v.fmt) :: (if v.fmt = 6 && nth o 0 % 32 = 0 then [.mem (v.scale o) 1] else [])

/-- Write an element of a view and its scale (R283, R291). -/
def State.writeView (s : State) (k : Nat) (v : ViewDesc) (o : List Nat) (val : Nat × Nat) : ERes Unit :=
  let eb := fmtBytes v.fmt
  if v.acc then
    let c := s.core k
    .ok (s.setCore k (c.poolWrite (c.accBase + v.accOff o) (leBytes eb val.1))) ()
  else
    let va := v.elem o
    if va.toNat % eb ≠ 0 then eFault s fAlign va
    else
      (s.engWrite (expander k) va (leBytes eb val.1)).bind fun s _ =>
        if v.fmt = 6 then (s.engWrite (expander k) (v.scale o) (leBytes 1 val.2)).bind fun s _ => .ok s () else .ok s ()

/-- An element of the demanded cask: of a view or a held tile, or of tile bytes just computed. -/
def State.demandElem (s : State) (k e : Nat) (fmt : Nat) (bs : Option (List Byte)) (o : List Nat) : ERes (Nat × Nat) :=
  match bs with
  | some bs => .ok s (field bs (inTile fmt o) (fmtBytes fmt), if fmt = 6 then field bs (scaleInTile o) 1 else 0)
  | none => s.readElem k e o

/-- Write one tile of a box to the destination view. -/
def State.writePart (s : State) (k e : Nat) (v : ViewDesc) (org : List Nat) (part : List (Nat × Nat)) (bs : Option (List Byte)) :
    ERes Unit :=
  eFold (fun s _ o =>
    (s.demandElem k e v.fmt bs o).bind fun s val => s.writeView k v (o.mapIdx fun i x => x - nth org i) val) s ()
    (coords part)

/-- The entries that the forcing of tiles of an entry computes, with their tiles, producers first (R295). -/
def Core.plan (c : Core) : Nat → Nat → List (List Nat) → List TileId → List TileId
  | 0, _, _, acc => acc
  | fuel + 1, e, keys, acc =>
    match c.cask e with
    | none => acc
    | some x =>
      match x.st, x.desc with
      | .pending, .op d =>
        let ts := keys.filter fun t => (x.memoTile t).isNone && !acc.contains (e, t)
        if ts.isEmpty then acc
        else
          ((c.sourceBoxes x d (tilesSpan d.ext ts)).foldl (fun acc b => Core.plan c fuel b.1 (c.tilesFor b.1 b.2) acc) acc)
            ++ ts.map fun t => (e, t)
      | _, _ => acc

/-- The order of forcing (R312): casks in rising AGE, and so producers before consumers, and tiles in rising order. -/
def Core.forcedBefore (c : Core) (x y : TileId) : Bool :=
  let age (e : Nat) : Nat := match c.cask e with | some x => x.age | none => 0
  let rec less : List Nat → List Nat → Bool
    | a :: as, b :: bs => decide (a < b) || (decide (a = b) && less as bs)
    | _, _ => false
  decide (age x.1 < age y.1) || (decide (age x.1 = age y.1) && less x.2.reverse y.2.reverse)

/-- Tiles in the order of forcing. -/
def Core.inOrder (c : Core) (ts : List TileId) : List TileId :=
  let rec put (x : TileId) : List TileId → List TileId
    | [] => [x]
    | y :: ys => if c.forcedBefore x y then x :: y :: ys else y :: put x ys
  ts.foldr put []

/-- The tiles that forcing a list of tiles needs: themselves, and the tiles of operations that they read (R297). -/
def Core.needOf (c : Core) (ts : List TileId) : List TileId :=
  (ts ++ ts.flatMap fun t =>
    match c.cask t.1 with
    | some x =>
      match x.desc with
      | .op d => (c.sourceBoxes x d (tileBox d.ext t.2)).flatMap fun b => (c.tilesFor b.1 b.2).map fun u => (b.1, u)
      | .view _ => []
    | none => []).dedup

/-- The views that the forcing of a demand reads: the demanded cask itself where it is a view, and the view sources of every
entry with a tile to compute (R295). -/
def Core.viewsRead (c : Core) (e : Nat) (keys : List (List Nat)) : List ViewDesc :=
  let entries := ((c.plan (maxDepth + 1) e keys []).map (·.1)).dedup
  let srcs := entries.flatMap fun i => match c.cask i with | some x => x.src | none => []
  (e :: srcs).filterMap fun i =>
    match c.cask i with
    | some x => match x.desc with | .view v => some v | _ => none
    | none => none

/-- The demand must stage its box: a write meets what its forcing reads (R295, R296). -/
def State.mustStage (s : State) (k e : Nat) (keys : List (List Nat)) (ws : List WRange) : Bool :=
  let vs := (s.core k).viewsRead e keys
  ws.any fun w => vs.any fun v => s.meetsView k v w

/-- The box tiles still to write: a demand issued again writes only the missing ones (R313). -/
def boxTodo (done keys : List (List Nat)) : List (List Nat) := keys.filter fun t => !done.contains t

/-! ### Engine uses (R300) -/

/-- Elements of a box. -/
def boxCount (box : List (Nat × Nat)) : Nat := product (box.map fun p => p.2 + 1 - p.1)

/-- The scale bytes of a box of bq8 (R257). -/
def boxScales (fmt : Nat) (box : List (Nat × Nat)) : Nat :=
  let r := nthSpan box 0
  if fmt = 6 then boxCount box / (r.2 + 1 - r.1) * (r.2 / 32 - r.1 / 32 + 1) else 0

/-- The bytes of a box, without its scales. -/
def boxBytes (fmt : Nat) (box : List (Nat × Nat)) : Nat := boxCount box * fmtBytes fmt

/-- A use of an engine of a core that follows the use before it (R300). -/
def engUse (kind : CalKind) (k dur : Nat) : ForcedUse :=
  { cal := { kind := kind, idx := k }, withLink := false, dur := max 1 dur, pred := 0, pass := none, tile := none }

/-- The ticks of a move of bytes inside a core (R300). -/
def moveDur (bytes : Nat) : Nat := 32 + (bytes + 127) / 128

/-- The use that moves bytes of the own scratchpad or the scratch area, or of accumulator storage. -/
def ceUse (k bytes : Nat) : List ForcedUse := [engUse .ce k (moveDur bytes)]
def meUse (k bytes : Nat) : List ForcedUse := [engUse .me k (moveDur bytes)]

/-- A path of forced reads or writes (R237, R300): its latency and rate, and the MCG that is booked with it. -/
structure Path where
  lat : Nat
  rate : Nat
  mcg : Option Nat
deriving DecidableEq, Repr

/-- The path of an address (R300): own scratchpad, near memory of the own die with its MCG, or any other path. -/
def State.pathOf (s : State) (k : Nat) (acc : Acc) (va : VAddr) : Path :=
  let other (p : Place) (mcg : Option Nat) : Path :=
    { lat := if acc = .engWrite then s.writeLat k p else s.readLat k p false, rate := rateOf k p false, mcg := mcg }
  let own : Path := { lat := 32, rate := 128, mcg := none }
  match (s.translate k false acc va).2 with
  | .ok (.spad c o) _ => if c = k then own else other (.spad c o) none
  | .ok (.home key) _ => other (.home key) (if homeDie key = dieOf k then some (8 * dieOf k + key / 65536 % 8) else none)
  | .ok p _ => other p none
  | _ => own

/-- Bytes are counted on their path, in the order in which paths are met first. -/
def countPath : List (Path × Nat) → Path → Nat → List (Path × Nat)
  | [], p, n => [(p, n)]
  | q :: qs, p, n => if q.1 = p then (p, q.2 + n) :: qs else q :: countPath qs p n

/-- The uses of bytes that move over a path (R300). -/
def Path.uses (p : Path) (k bytes : Nat) : List ForcedUse :=
  let dur := p.lat + (bytes + p.rate - 1) / p.rate
  engUse .ce k dur :: match p.mcg with
    | some m => [{ engUse .mcg m dur with withLink := true }]
    | none => []

/-- The uses of reading or writing a box of a view, with its scales, path by path (R300). -/
def State.viewUses (s : State) (k : Nat) (acc : Acc) (v : ViewDesc) (box : List (Nat × Nat)) : List ForcedUse :=
  if v.acc then meUse k (boxBytes v.fmt box)
  else
    let lo := (nthSpan box 0).1
    let paths := (coords box).foldl (fun ps o =>
      let ps := countPath ps (s.pathOf k acc (v.elem o)) (fmtBytes v.fmt)
      if v.fmt = 6 && (nth o 0 = lo || nth o 0 % 32 = 0) then countPath ps (s.pathOf k acc (v.scale o)) 1 else ps) []
    paths.flatMap fun p => p.1.uses k p.2

/-- The last use of a list computes a tile. -/
def tagTile (t : TileId) : List ForcedUse → List ForcedUse
  | [] => []
  | [u] => [{ u with tile := some t }]
  | u :: us => u :: tagTile t us

/-- The uses of one forced tile of an operation (R300): its reads, its computation, and the write of a memo tile or a staged one. -/
def State.tileUses (s : State) (k : Nat) (t : TileId) (kept : Bool) : List ForcedUse :=
  let c := s.core k
  match c.cask t.1 with
  | none => []
  | some x =>
    match x.desc with
    | .view _ => []
    | .op d =>
      let box := tileBox d.ext t.2
      let reads := (c.sourceBoxes x d box).flatMap fun b =>
        match (c.cask b.1).map Cask.desc with
        | some (.view v) => s.viewUses k .engRead v b.2
        | some (.op y) => ceUse k (boxBytes y.ofmt b.2 + boxScales y.ofmt b.2)
        | none => []
      let f0 := c.sourceFmt x 0
      let work := match d.op with
        | .mm =>
          let dep := if f0 = 6 then 256 else mmDepth f0 (c.sourceFmt x 1)
          let rows := (nthSpan box 1).2 + 1 - (nthSpan box 1).1
          let p : FPass := { entry := t.1, rows := rows, q := rowCost f0 (c.sourceFmt x 1), fmt := c.sourceFmt x 1 }
          List.replicate ((d.kext + dep) / dep) { engUse .me k (c.cadence * p.q * rows + 127) with pass := some p }
        | .tr | .perm => if fmtBytes d.ofmt = 8 then ceUse k (boxBytes d.ofmt box) else []
        | _ => []
      tagTile t (reads ++ work ++ (if kept then ceUse k (tileBytes d.ofmt) else []))

/-- Link each use of a chain to the one before (R300). -/
def linkUses : Nat → List ForcedUse → List ForcedUse
  | _, [] => []
  | i, u :: us => { u with pred := if i = 0 then 0 else 2 ^ (i - 1) } :: linkUses (i + 1) us

/-- Cut uses into chains of at most 16, an MCG staying with its copy-engine use (R300); `fuel` bounds their number. -/
def chainsOf : Nat → List ForcedUse → List (List ForcedUse)
  | 0, _ => []
  | fuel + 1, us =>
    if us.isEmpty then []
    else
      let n := match us[16]? with | some u => if u.withLink then 15 else 16 | none => 16
      linkUses 0 (us.take n) :: chainsOf fuel (us.drop n)

/-- The chains of a forcing of producers, in the order of forcing. -/
def State.producerChains (s : State) (k : Nat) (ts : List TileId) : List (List ForcedUse) :=
  let us := ((s.core k).inOrder ts).flatMap fun t => s.tileUses k t true
  chainsOf us.length us

/-- The chains of a demand (R295, R300): one for each tile of the demanded cask that is not held, with the producer tiles forced for
it first, and the write of its part of the box, through the stage where there is one. Producers are those of the whole set of
tiles. -/
def State.demandChains (s : State) (k e : Nat) (dest : Option ViewDesc) (org ext : List Nat) (todo : List (List Nat)) (staging : Bool) :
    List (List ForcedUse) :=
  let c := s.core k
  match c.cask e with
  | none => []
  | some x =>
    let box := boxOf org ext
    let each := todo.foldl (fun acc key => c.plan (maxDepth + 1) e [key] acc) []
    let whole := (c.plan (maxDepth + 1) e todo []).filter fun t => !each.contains t
    (todo.foldl (fun (acc : List TileId × List (List ForcedUse)) key =>
      let mine := c.plan (maxDepth + 1) e [key] acc.1
      let own := mine.drop acc.1.length
      let extra := if acc.2.isEmpty then whole else []
      let part := tilePart x.desc.ext key box
      let tiles := (c.inOrder (own ++ extra)).flatMap fun t => s.tileUses k t (t.1 ≠ e || dest.isNone || staging)
      let copy := match x.desc, dest with
        | .view v, some _ =>
          tagTile (e, key) (s.viewUses k .engRead v part ++ (if staging then ceUse k (tileBytes v.fmt) else []))
        | _, _ => []
      let held := match x.desc with | .op _ => !own.any (fun t => t.1 = e) | .view _ => false
      let wr := match dest with
        | none => []
        | some v =>
          (if held || staging then ceUse k (boxBytes v.fmt part + boxScales v.fmt part) else [])
            ++ s.viewUses k .engWrite v (destBox org part)
      let us := tiles ++ copy ++ wr
      (mine, acc.2 ++ chainsOf us.length us)) ([], [])).2

/-- The uses of a chain as a booking holds them. -/
def bookingUses (us : List ForcedUse) : List BUse := us.map fun u => newUse u.cal 0x7FF u.withLink u.dur u.pred

end Sys2Proof.Machine
end

