-- ==== Sys2Proof/Machine/Demand.lean ====
section
/-!
DEFINITION. Demands in progress (R298, R301, R306, R312, R313): how a word that must force begins, the booking of its chains,
its completion, and the swap of published pages (R188, R243).
-/

namespace Sys2Proof.Machine

/-! ### Pages (R188, R243) -/

/-- The entry of a mapped page (R238). -/
def State.pageEntry (s : State) (k : Nat) (va : VAddr) : State × Walk :=
  if va.toNat / 2 ^ 64 = 0xFF then (s, .fault) else s.walk k ((s.core k).root * 65536) va.toNat walkLevels

/-- What the check of pages comes to. -/
inductive PageCheck where
  | ok (s : State)
  | bad (s : State) (t : Trap)
  | wait (s : State)
deriving DecidableEq, Repr

/-- Check 64 KiB pages for a publication in order (R188): mapped, then user, writable and shadow. -/
def State.checkPages (s : State) (k : Nat) : List VAddr → PageCheck
  | [] => .ok s
  | va :: vas =>
    if va.toNat / 2 ^ 64 = 0xFF then .bad s (mkTrap .prot va.toNat 0 0 0)
    else
      match s.pageEntry k va with
      | (s, .wait) => .wait s
      | (s, .fault) => .bad (s.dropWalk k) (mkTrap .page va.toNat 0 0 0)
      | (s, .leaf _ e _) =>
        if pteU e && pteW e && pteSh e then State.checkPages s k vas else .bad (s.dropWalk k) (mkTrap .prot va.toNat 0 0 0)

/-- Invert PH of an entry. -/
def flipPh (e : W64) : W64 := e ^^^ 0x80

/-- The new entry of a swapped page where a TLB holds it. -/
def TlbEnt.flip (t : TlbEnt) (asn : Nat) (va : VAddr) : TlbEnt :=
  if t.shift = 16 && t.hits asn va then { t with pte := flipPh t.pte } else t

/-- PH of a page changes in every TLB of an instance of a scope (R243). A die's TLB belongs to the instances that hold the die whole;
a narrower swap takes the entry out of it. -/
def State.flipTlbs (s : State) (k : Nat) (sc : Scope) (asn : Nat) (va : VAddr) : State :=
  let die (d : Nat) (x : Die) : Die :=
    if scopePkg sc || (sc = .die && d = dieOf k) then { x with tlb := x.tlb.map (·.flip asn va) }
    else if d = dieOf k then { x with tlb := x.tlb.filter fun t => !t.hits asn va }
    else x
  { s with
    cores := s.cores.map fun p => (p.1, if sameInst p.1 k sc then { p.2 with tlb := p.2.tlb.map (·.flip asn va) } else p.2)
    dies := s.dies.map fun p => (p.1, die p.1 p.2) }

/-- The dies on which a TLB still holds the old entry of a page. -/
def State.staleDies (s : State) (asn : Nat) (va : VAddr) (new : W64) : List Nat :=
  let old (t : TlbEnt) : Bool := t.hits asn va && decide (t.pte ≠ new)
  (List.range 8).filter fun d =>
    (s.die d).tlb.any old || s.cores.any fun p => decide (dieOf p.1 = d) && p.2.tlb.any old

/-- A key of a frame of a shadow page at `base`, in the frame wanted: 0 the lower one, 1 the upper. -/
def inFrame (base fr key : Nat) : Nat :=
  if base ≤ key ∧ key < base + 131072 then base + fr * 65536 + (key - base) % 65536 else key

/-- Accesses on their way to the frames of a shadow page, of cores with a property, follow its swap: engine writes and atomic operations
land in the twin of the moment (R189, R243), but for the rest of a granule that is begun; scalar accesses that are not performed go to
the visible page. `ph` is PH behind the swap. -/
def State.reaim (s : State) (p : Nat → Bool) (base : Nat) (ph : Bool) : State :=
  let seen := if ph then 1 else 0
  let move (core fr : Nat) (q : Place) : Place :=
    match q with
    | .home key => if p core then .home (inFrame base fr key) else q
    | _ => q
  { s with flights := s.flights.map fun q => (q.1, q.2.map fun f =>
      match f with
      | .store t =>
        if t.begun then f
        else .store { t with place := move t.core (match t.agent with | .scalar _ => seen | _ => 1 - seen) t.place }
      | .load l => .load { l with place := move l.core seen l.place }
      | .amo a => .amo { a with place := move a.core (1 - seen) a.place }
      | .sae e => .sae { e with place := move e.core (1 - seen) e.place }
      | f => f) }

/-- Writes of engines on their way to the frames of a shadow page of another package, and scalar accesses that have not left for it,
follow its swap too. -/
def State.reaimRemote (s : State) (p : Nat → Bool) (base : Nat) (ph : Bool) : State :=
  let seen := if ph then 1 else 0
  let move (core fr : Nat) (q : Place) : Place :=
    match q with
    | .remote g pa => if p core then .remote g (inFrame base fr pa) else q
    | _ => q
  { s with flights := s.flights.map fun q => (q.1, q.2.map fun f =>
      match f with
      | .store t => .store { t with place := move t.core (match t.agent with | .scalar _ => seen | _ => 1 - seen) t.place }
      | .load l => if l.asked then f else .load { l with place := move l.core seen l.place }
      | f => f) }

/-- The new entry of a swapped page is written, at its home or over the CL, and told to the dies whose TLBs hold the old one: the
swap reaches them with the invalidation, or with the ACK of another package; until then walks of the instance find the new entry (R188,
R243; log entry 9). -/
def State.writeEntry (s : State) (k : Nat) (g : Agent) (sc : Scope) (asn : Nat) (va : VAddr) (e : W64) (at_ : Nat) : State :=
  let bs := leBytes 8 e.toNat
  match s.paPlace at_ with
  | .home key =>
    let o := s.origin k g
    let r := o.1.takeTag
    let s := r.1.homeWrite o.2 r.2 key bs
    (s.staleDies asn va e).foldl (fun s d => (s.addFlight (.inval (lineOf key) d r.2 o.2)).1) s
  | _ =>
    let q := nbits at_ 55 45
    let s := s.setCore k ((s.core k).addSent q bs.length)
    let r := s.addFlight (.remoteWrite
      { core := k, agent := g, win := none, eng := none, place := .remote q at_, va := va, asn := asn })
    let t : State := { r.1 with swaps := r.1.swaps ++ [{ tag := r.2, core := k, scope := sc, pa := at_, e := e }] }
    t.send { opc := 1, ackreq := true, ord := true, dpkg := q, spkg := s.pkg, score := k, tag := r.2 % 65536, pa := at_,
             arg := 0, rsv := false, data := bs }

/-- Swap the visible page and the twin of each named page, once (R188): PH changes in the entry and in every TLB of the scope's
instance, and accesses on their way to its frames follow it. -/
def State.swapPages (s : State) (k : Nat) (g : Agent) (sc : Scope) (vas : List VAddr) : State :=
  ((vas.dedup).foldl (fun s va =>
    match s.pageEntry k va with
    | (s, .leaf _ e at_) =>
      let asn := (s.core k).asn
      let new := flipPh e
      let s := (s.flipTlbs k sc asn va).writeEntry k g sc asn va new at_
      let here (c : Nat) : Bool := sameInst c k sc
      if s.ownPkg (nbits (pteAddr e) 55 45) then s.reaim here (homeKey (pteAddr e)) (ptePh new)
      else s.reaimRemote here (pteAddr e) (ptePh new)
    | (s, _) => s) s).dropWalk k

/-- An entry that a publication will write is bound for a home where a causal predecessor is still to be applied (R363). -/
def State.entriesHeld (s : State) (k : Nat) (g : Agent) (vas : List VAddr) : Bool :=
  vas.any fun va =>
    match s.pageEntry k va with
    | (_, .leaf _ _ at_) => (match s.paPlace at_ with | .home key => s.causalWait (s.origin k g).2 (homeDie key) | _ => false)
    | _ => false

/-- The 64 KiB pages that ranges touch, in order. -/
def pagesOf (ws : List WRange) : List VAddr :=
  (ws.flatMap fun w =>
    match w with
    | .mem va _ => [BitVec.ofNat 72 (va.toNat / 65536 * 65536)]
    | .tiles .. => []).dedup

/-! ### Traps of forced work -/

/-- BOOK_FAIL (R84). -/
def bookFail (word : W64) (use : Nat) (uw : W64) : Trap :=
  { cause := .bookFail, e0 := word, e1 := BitVec.ofNat 64 use, e2 := uw, e3 := 0 }

/-- CASK_FAULT (R312). -/
def caskFault (c : Core) (e : Nat) (cause : Byte) (addr : W64) : Trap :=
  let pc : Nat := match c.cask e with | some x => x.pc.toNat % 2 ^ 64 | none => 0
  { cause := .caskFault
    e0 := BitVec.ofNat 64 ((c.handleOf e).getD 0xFF + e * 65536)
    e1 := BitVec.ofNat 64 pc
    e2 := BitVec.ofNat 64 cause.toNat
    e3 := if cause = fScratch || cause = fTable then 0 else addr }

/-! ### Chains (R300, R301) -/

/-- Tiles of entries that are held already are pinned (R305). -/
def Core.pinHeld (c : Core) (pins : List (Nat × List (List Nat))) : Core :=
  pins.foldl (fun c p => c.mapMemo p.1 fun l => l.map fun t => if p.2.contains t.key then { t with pin := true } else t) c

/-- The tiles of entries that are not held yet. -/
def Core.missing (c : Core) (pins : List (Nat × List (List Nat))) : List (Nat × List (List Nat)) :=
  (pins.map fun p => (p.1, p.2.filter fun t => match c.cask p.1 with | some x => (x.memoTile t).isNone | none => false)).filter
    fun p => !p.2.isEmpty

/-- Every tile of a set is held. -/
def Core.allHeld (c : Core) (p : Nat × List (List Nat)) : Bool :=
  match c.cask p.1 with
  | some x => p.2.all fun t => (x.memoTile t).isSome
  | none => true

/-- An entry whose tiles are forced and pinned is MATERIALISED, and its sources are treated under R274 (R308). -/
def Core.materialise (c : Core) (e : Nat) : Core :=
  match c.cask e with
  | none => c
  | some y =>
    if y.st ≠ .pending then c
    else
      y.src.foldl (fun c i => c.collect tableSize i) (c.setCask e (some { y with st := .materialised, depth := 0, src := [] }))

/-- What forced work has come to is marked as it comes: the held tiles of each entry of an alias check are pinned once all of its tiles
are there, in the order of the entries (R305), and an entry that is wholly forced is MATERIALISED (R308, R310). -/
def Core.settlePins (c : Core) (d : Demand) : Core :=
  let c := c.pinHeld (d.pins.takeWhile c.allHeld)
  match d.work with
  | .materialise es => (es.filter fun e => d.pins.any fun p => p.1 = e && c.allHeld p).foldl
      (fun c e => (c.pinHeld (d.pins.filter fun p => p.1 = e)).materialise e) c
  | _ => c

/-- Forced work that is to pin tiles too, their chains behind its own (R305). -/
def Demand.more (d : Demand) (s : State) (k : Nat) (pins : List (Nat × List (List Nat))) : Demand :=
  let c := s.core k
  let ts := pins.foldl (fun acc p => c.plan (maxDepth + 1) p.1 p.2 acc) []
  { d with
    chains := d.chains ++ s.producerChains k ts
    pins := d.pins ++ pins
    need := (d.need ++ c.needOf ts ++ pins.flatMap fun p => p.2.map fun t => (p.1, t)).dedup }

/-- Forced work that begins. -/
def Demand.new (fw : Bool) (work : DemandWork) (wseq : Nat) : Demand where
  fw := fw
  work := work
  chains := []
  runs := []
  after := 0
  wseq := wseq
  pins := []
  need := []
  held := []
  staging := false
  stage := []
  done := []
  written := false
  bad := none
  failed := none
  descs := []

/-- How a step of forced work ends: it goes on, a tile failed (R312), or a chain was refused or ended FATAL (R84). -/
inductive Step1 where
  | on (s : State) (d : Demand)
  | fail (s : State) (d : Demand) (entry : Nat) (cause : Byte) (addr : W64)
  | refused (s : State) (d : Demand) (word : W64) (use : Nat) (useWord : W64)

/-- A booking of forced work has ended without its uses (R84). -/
def Booking.failed (b : Booking) : Bool :=
  match b.status with
  | .refused | .fatal | .cancelled => true
  | _ => false

/-- The next chain is submitted once the one before has committed (R300), and comes no earlier than the berth after its last. -/
def State.nextChain (s : State) (k : Nat) (d : Demand) : Step1 :=
  let held := d.runs.any fun r => match (s.core k).booking r.id with | some b => b.status = .held | none => false
  match d.chains with
  | [] => .on s d
  | us :: rest =>
    if held then .on s d
    else
      let after := d.runs.foldl (fun m r => match (s.core k).booking r.id with
        | some b => b.uses.foldl (fun m u => max m (u.first + u.n)) m
        | none => m) d.after
      match s.submitForced k (after - s.berth) (bookingUses us) with
      | .refused s w => .refused s d w 16 0
      | .ok s id => .on s { d with chains := rest, after := after, runs := d.runs ++ [{ id := id, uses := us, todo := us.filterMap (·.tile) }] }

/-! ### The forced lane (R316, R319, R333) -/

/-- Slots that are FREE, lowest first. -/
def Core.freeSlots (c : Core) : List Nat := (List.range 32).filter fun n => c.omSt.get .free n = .free

/-- A forced pass begins: it takes four FREE slots as EXP, latches its weights in its own plane, and its rows enter. What it puts into
the slots and the plane is its own: free values (log entry 4). -/
def State.beginPass (s : State) (k id j : Nat) (p : FPass) : State :=
  let slots := (s.core k).freeSlots.take 4
  let s := slots.foldl (fun s n =>
    let f := s.freeVal (8 * 16896)
    let c := f.1.core k
    let bs := leBytes 16896 f.2
    f.1.setCore k { c with
      omSt := c.omSt.put .free n .exp
      om := writeBytes c.om (n * 16384) (bs.take 16384)
      omSide := writeBytes c.omSide (n * 512) (bs.drop 16384) }) s
  let f := s.freeVal (8 * 33280)
  let c := f.1.core k
  f.1.setCore k { c with
    fuse := some (id, j), frows := some { left := p.rows, next := s.tb, q := p.q, on := false }
    fplane := writeBytes [] 0 (leBytes 33280 f.2), fwv := true, fwfmt := p.fmt }

/-- Rows still enter a lane in a tick. -/
def Rows.busy (r : Rows) (now : Nat) : Bool := decide (r.left ≠ 0) || decide (now < r.next)

/-- The array has drained after the last row (R331). -/
def Core.passOver (c : Core) (now : Nat) : Bool :=
  match c.frows with
  | some r => decide (r.left = 0) && decide (r.next + 127 ≤ now)
  | none => true

/-! ### Tiles (R295 to R297) -/

/-- What the forcing of a tile comes to: the tile is there, it failed (R312), it waits, or other tiles are forced and pinned first
(R305). -/
inductive TileRes where
  | ok (s : State) (d : Demand)
  | fail (s : State) (entry : Nat) (cause : Byte) (addr : W64)
  | wait (s : State)
  | first (d : Demand)

/-- The tiles that a write of forced work meets and that are not held: they are forced first; those that are held are pinned. The
firmware context's are not checked (R303, R305). -/
def State.forcedMeets (s : State) (k : Nat) (d : Demand) (ws : List WRange) : List (Nat × List (List Nat)) :=
  if d.fw then [] else ws.flatMap fun w => s.aliasSets k d.wseq w

/-- A tile is to be pinned. -/
def Demand.pinned (d : Demand) (t : TileId) : Bool := d.pins.any fun p => p.1 = t.1 && p.2.contains t.2

/-- A tile of the demanded cask that is kept for the box only: it enters no memo (R297). -/
def Demand.ofBox (d : Demand) (t : TileId) : Bool :=
  match d.work with
  | .box kv kc _ ec _ _ _ _ _ _ => t.1 = ec && kv ≠ kc && !d.pinned t
  | _ => false

/-- The places of the staged tiles of forced work: all are tiles of the demanded cask (R296). -/
def Core.stageSpans (c : Core) (d : Demand) : List (Nat × Nat) :=
  match d.work with
  | .box _ _ _ ec _ _ _ _ _ _ =>
    match c.cask ec with
    | some x => d.stage.map fun p => (p.2, tileBytes x.desc.fmt)
    | none => []
  | _ => []

/-- The forced work of a core that is in progress: a demand, and that of its commands. -/
def Core.forcedWork (c : Core) : List Demand := (match c.demand with | some d => [d] | none => []) ++ c.forcing.map (·.2.2)

/-- Bytes of a tile are put into the scratch area, room being found first, without what any forced work in progress needs or has staged
(R296, R297); the write is checked (R303). -/
def State.putTile (s : State) (k : Nat) (d : Demand) (t : TileId) (bs : List Byte) : TileRes :=
  let c := s.core k
  let all := d :: c.forcedWork
  match c.makeRoom (all.flatMap Demand.need) (all.flatMap c.stageSpans) bs.length c.memoCount with
  | none => .fail s t.1 fScratch 0
  | some (c, o) =>
    let at_ := c.scrBase * 1024 + o
    let meets := s.forcedMeets k d [.mem (spadVa at_) bs.length]
    let missing := (c.missing meets).filter fun p => !p.2.all fun key => d.need.contains (p.1, key)
    if !missing.isEmpty then .first (d.more s k missing)
    else
      let c := (c.pinHeld meets).spadWrite at_ bs
      if d.ofBox t then .ok (s.setCore k c) { d with stage := (t.2, o) :: d.stage }
      else .ok (s.setCore k (c.memoise t.1 t.2 (d.pinned t) o)) d

/-- The bytes of a part of a view, in the layout of a tile. -/
def State.viewTile (s : State) (k : Nat) (v : ViewDesc) (part : List (Nat × Nat)) : ERes (List Byte) :=
  (eFold (fun s (m : FMap Byte) o =>
    (s.readView k v o).bind fun s x =>
      let m := writeBytes m (inTile v.fmt o) (leBytes (fmtBytes v.fmt) x.1)
      .ok s (if v.fmt = 6 then writeBytes m (scaleInTile o) (leBytes 1 x.2) else m)) s [] (coords part)).bind
    fun s m => .ok s (readBytes m 0 (tileBytes v.fmt))

/-- The memo tiles that the forcing of a tile has read are the ones used last (R297). -/
def Core.touchBoxes (c : Core) (bs : List (Nat × List (Nat × Nat))) : Core :=
  bs.foldl (fun c b => c.touch b.1 (c.tilesFor b.1 b.2)) c

/-- A command of the vector engine runs and does not itself wait for forced work (R300, R306). -/
def Core.vectorRuns (c : Core) : Bool :=
  c.ve.q.any fun t => t.started.isSome && !t.done && !(c.forcing.any fun p => p.1 = .ve && p.2.1 = t.seq)

/-- The operations that the vector engine computes (R300). -/
def OpDesc.onVector (o : OpDesc) : Bool :=
  match o.op with
  | .ew | .red | .cvt => true
  | .tr | .perm => decide (fmtBytes o.ofmt ≤ 4)
  | .mm => false

/-- A computed tile is kept: in the scratch area as a memo or staged, or in the working storage of the expander. -/
def State.keepTile (s : State) (k : Nat) (d : Demand) (t : TileId) (bs : List Byte) : TileRes :=
  if d.ofBox t && !d.staging then .ok s { d with held := (t.2, bs) :: d.held } else s.putTile k d t bs

/-- Force one tile (R295): its sources are forced already. A product leaves its tile in the accumulators of the forced lane (R316); the
vector engine takes it at a command boundary (R300). -/
def State.forceTile (s : State) (k : Nat) (d : Demand) (t : TileId) : TileRes :=
  let c := s.core k
  match c.cask t.1 with
  | none => .ok s d
  | some x =>
    match x.st, x.desc with
    | .pending, .op o =>
      if (x.memoTile t.2).isSome then
        .ok (s.setCore k ((c.touch t.1 [t.2]).pinHeld (if d.pinned t then [(t.1, [t.2])] else []))) d
      else if c.sourcesBusy d.wseq (c.sourceBoxes x o (tileBox o.ext t.2)) || (o.onVector && c.vectorRuns) then .wait s
      else if o.onVector && c.ve.gate ≠ .awake then .wait (s.setCore k { c with ve := c.ve.wakeUp s.tb .ve })
      else
        match s.computeTile k x o t.2 with
        | .fault s cause a => .fail s t.1 cause a
        | .wait s => .wait s
        | .ok s bs =>
          let s := s.setCore k ((s.core k).touchBoxes (c.sourceBoxes x o (tileBox o.ext t.2)))
          let s := if o.op = .mm then s.setCore k { s.core k with facc := writeBytes (s.core k).facc 0 bs }
            else if o.onVector then s.setCore k { s.core k with ve := { (s.core k).ve with idleFrom := s.tb } } else s
          s.keepTile k d t bs
    | _, .view v =>
      match d.work with
      | .box _ _ _ _ _ _ _ org ext _ =>
        let part := tilePart x.desc.ext t.2 (boxOf org ext)
        if v.acc && c.tilesBusy d.wseq (v.boxTiles part) then .wait s
        else
          match s.viewTile k v part with
          | .fault s cause a => .fail s t.1 cause a
          | .wait s => .wait s
          | .ok s bs => s.keepTile k d t bs
      | _ => .ok s d
    | _, _ => .ok s d

/-! ### Uses of forced work (R300) -/

/-- A use of forced work is over, and the rest of its berths is FREE (R74); its engine is idle from here on (R465). -/
def State.endForced (s : State) (k id j : Nat) (u : BUse) : State :=
  let s := s.setCal u.cal ((s.cal u.cal).dropUse { pkg := s.pkg, core := k, hm := false, xid := id, use := j })
  let c := s.core k
  let e := if u.cal.kind = .me then Eng.me else .ce
  (s.setCore k (c.setEng e { c.eng e with idleFrom := s.tb })).useDone k id j

/-- A tile of a submitted chain is there. -/
def Demand.tileDone (d : Demand) (id : Nat) (t : TileId) : Demand :=
  { d with runs := d.runs.map fun r => if r.id = id then { r with todo := r.todo.filter (· ≠ t) } else r }

/-- A tile has failed (R312): the one that is reported is the first in forcing order, so the tiles that come before it in that order are
forced yet, and no others. -/
def Demand.fails (d : Demand) (c : Core) (t : TileId) (cause : Byte) (a : W64) : Demand :=
  { d with
    failed := some (t, cause, a)
    chains := d.chains.filter fun us => us.any fun u => u.tile.any fun x => c.forcedBefore x t
    runs := d.runs.map fun r => { r with todo := r.todo.filter fun x => c.forcedBefore x t } }

/-- A use of a submitted chain has had its time: its tile is computed before it ends, and it runs on while the tile has to wait, which is
an overrun (R72, R300). -/
def State.useComes (s : State) (k : Nat) (d : Demand) (r : ChainRun) (j : Nat) (u : BUse) (f : ForcedUse) : Step1 :=
  let ends (s : State) : State := (if f.pass.isSome then s.setCore k (s.core k).leaveLane else s).endForced k r.id j u
  match f.tile.filter fun t => r.todo.contains t with
  | none => .on (ends s) d
  | some t =>
    match s.forceTile k d t with
    | .ok s d => .on (ends s) (d.tileDone r.id t)
    | .fail s _ cause a => .on (ends s) (d.fails (s.core k) t cause a)
    | .wait s => .on s d
    | .first e => .on s e

/-- A started use of a chain in a tick: a pass begins and ends on the forced lane of its engine once that is awake, and a move ends with
its declared duration; a use on an MCG ends with its last booked berth (R71). -/
def State.forcedUse (s : State) (k : Nat) (d : Demand) (r : ChainRun) (j : Nat) : Step1 :=
  match (s.core k).booking r.id with
  | none => .on s d
  | some b =>
    match b.uses[j]?, r.uses[j]? with
    | some u, some f =>
      let own := (s.cal u.cal).use (s.useId k b j)
      let c := s.core k
      match own.bind fun o => o.start.map fun t => t + o.dur with
      | none => if c.fuse = some (r.id, j) && c.passOver s.tb then s.useComes k d r j u f else .on s d
      | some t =>
        if u.fin || u.cal.kind = .mcg then .on s d
        else
          match f.pass with
          | none => if t ≤ s.tb then s.useComes k d r j u f else .on s d
          | some p =>
            if c.fuse = some (r.id, j) then (if c.passOver s.tb then s.useComes k d r j u f else .on s d)
            else if c.fuse.isSome then .on s d
            else if c.me.gate ≠ .awake then .on (s.setCore k { c with me := c.me.wakeUp s.tb .me }) d
            else if c.freeSlots.length < 4 then .fail s d p.entry fScratch 0
            else .on (s.beginPass k r.id j p) d
    | _, _ => .on s d

/-- The uses of a submitted chain in a tick. -/
def State.forcedUses (s : State) (k : Nat) (d : Demand) (r : ChainRun) : Step1 :=
  (List.range r.uses.length).foldl (fun x j =>
    match x with
    | .on s d => s.forcedUse k d ((d.runs.find? fun x => x.id = r.id).getD r) j
    | x => x) (.on s d)

/-- The uses of a submitted chain are over; its forcing does not wait for the end of an MCG's berths (R306). -/
def State.chainOver (s : State) (k : Nat) (r : ChainRun) : Bool :=
  match (s.core k).booking r.id with
  | some b => (b.uses.all fun u => u.fin || u.cal.kind = .mcg) && !((s.core k).fuse.any fun p => p.1 = r.id)
  | none => true

/-- The tiles that a chain whose uses are over has left, in the order of forcing, until one has to wait. -/
def State.forceRun (s : State) (k : Nat) (d : Demand) (r : ChainRun) : List TileId → Step1
  | [] => .on s { d with runs := d.runs.filter fun x => x.id ≠ r.id }
  | t :: ts =>
    match s.forceTile k d t with
    | .ok s d => State.forceRun s k (d.tileDone r.id t) r ts
    | .fail s _ cause a => .on s (d.fails (s.core k) t cause a)
    | .wait s => .on s d
    | .first e => .on s e

/-- The tile that has failed is reported once nothing that comes before it in the order of forcing is left (R312). -/
def Step1.judge (x : Step1) : Step1 :=
  match x with
  | .on s d =>
    match d.failed with
    | some (t, cause, a) => if d.chains.isEmpty && d.runs.all (·.todo.isEmpty) then .fail s d t.1 cause a else .on s d
    | none => .on s d
  | .refused s d _ _ _ => match d.failed with | some (t, cause, a) => .fail s d t.1 cause a | none => x
  | x => x

/-- What a step of forced work of a core has come to is marked (R305, R308, R310). -/
def Step1.settle (x : Step1) (k : Nat) : Step1 :=
  let put (s : State) (d : Demand) : State := s.setCore k ((s.core k).settlePins d)
  match x with
  | .on s d => .on (put s d) d
  | .fail s d e cause a => .fail (put s d) d e cause a
  | .refused s d w j uw => .refused (put s d) d w j uw

/-- Forced work in a tick: its bookings are judged, the next chain is submitted, uses begin and end with the tiles they compute, and what
a chain that is over has left is computed (R298, R300, R301). -/
def State.forceStep (s : State) (k : Nat) (d : Demand) : Step1 :=
  let failed := d.runs.findSome? fun r => ((s.core k).booking r.id).filter Booking.failed
  let step : Step1 := match failed with
    | some b => let w := b.endedAt; .refused s d b.word w.1 w.2
    | none =>
      match s.nextChain k d with
      | .on s d =>
        match d.runs.foldl (fun x r => match x with | .on s d => s.forcedUses k d r | x => x) (Step1.on s d) with
        | .on s d =>
          match d.runs.find? fun r => s.chainOver k r with
          | some r => s.forceRun k d r r.todo
          | none => .on s d
        | x => x
      | x => x
  (step.judge).settle k

/-- No chain of forced work is left. -/
def Demand.forced (d : Demand) : Bool := d.chains.isEmpty && d.runs.isEmpty

/-! ### Words that force -/

/-- Begin forced work at the executing word (R298): the context is held. -/
def startDemand (s : State) (d : Demand) : Res :=
  .ok ((s.setCurCore { s.curCore with demand := some d }).setCur { s.cur with op := some .demand })

/-- A checked write of the user context (R303, R305, R306): the word goes on where nothing is met, or once what it meets is
forced and pinned; else it begins to force. -/
def checkWrites (s : State) (ws : List WRange) (k : State → Res) : Res :=
  if s.focusFw || s.cur.resumed then k s
  else
    match ws.flatMap fun w => s.aliasSets s.focusCore s.curCore.wseq w with
    | [] => k s
    | sets => startDemand s ((Demand.new false .pin s.curCore.wseq).more s s.focusCore sets)

/-- A demand has ended: its context goes on with the next word. -/
def State.demandOver (s : State) (k : Nat) (d : Demand) : State :=
  let c := s.core k
  let keep := (c.ctx d.fw).ih
  let mine (b : BoxDone) : Bool := match d.work with
    | .box kv kc ev ec _ _ bs _ _ _ => b.kv = kv && b.kc = kc && b.ev = ev && b.ec = ec && b.box = bs
    | _ => false
  let c := { c with demand := none, boxDone := c.boxDone.filter fun b => !(b.fw = d.fw && (mine b || !keep)) }
  let s := (s.setCore k c).dropEngReads (expander k)
  s.setCtx k d.fw (s.ctx k d.fw).advance

/-- The forced work of a demand is done, and the word it held issues again (R306, R308). -/
def State.resumeWord (s : State) (k : Nat) (d : Demand) : State :=
  let s := (s.setCore k { s.core k with demand := none }).dropEngReads (expander k)
  s.setCtx k d.fw { s.ctx k d.fw with op := some (.resumed d.descs) }

/-- The writes that forced work of a core has sent are performed at core scope (R294, R362). -/
def State.forcedDone (s : State) (k : Nat) : Bool :=
  !s.anyFlight fun _ f => match f with
    | .store t => t.core = k && t.agent = .forced
    | .remoteWrite w => decide (w.core = k) && decide (w.agent = .forced)
    | .inval _ d _ o => decide (d = dieOf k) && decide (o.maker = some (k, .forced))
    | _ => false

/-- A box tile of a demand writes an element, or a scale, at an address. -/
def Core.tileWrites (c : Core) (ev ec : Nat) (org ext : List Nat) (a : W64) (key : List Nat) : Bool :=
  match (c.cask ev).map Cask.desc, c.cask ec with
  | some (.view v), some x =>
    (coords (destBox org (tilePart x.desc.ext key (boxOf org ext)))).any fun o =>
      decide (va64 (v.elem o) = a) || (v.fmt = 6 && va64 (v.scale o) = a)
  | _, _ => false

/-- A target has refused a write of the forced work of a core, or another package does not answer it (R231, R312, R408): its tile is not
written (R313). -/
def State.forcedFault (s : State) (k : Nat) (cause : Byte) (a : W64) : State :=
  let c := s.core k
  let d := c.demand.map fun d =>
    { d with
      bad := some (d.bad.getD (cause, a))
      done := match d.work with
        | .box _ _ ev ec _ _ _ org ext _ => d.done.filter fun t => !c.tileWrites ev ec org ext a t
        | _ => d.done }
  s.setCore k { c with
    demand := d
    boxDone := c.boxDone.map fun b => { b with tiles := b.tiles.filter fun t => !c.tileWrites b.ev b.ec b.org b.ext a t } }

/-- The source of a tile of a box at its write: the working storage, the stage, or the memo. -/
def State.boxBytes (s : State) (k : Nat) (d : Demand) (fmt : Nat) (key : List Nat) : Option (List Byte) :=
  let c := s.core k
  match d.held.find? fun p => p.1 = key, d.stage.find? fun p => p.1 = key with
  | some p, _ => some p.2
  | none, some p => some (c.spadRead (c.scrBase * 1024 + p.2) (tileBytes fmt))
  | none, none => none

/-- Write the tiles of a box in order, each as a whole or not at all (R295, R303, R305). -/
def State.writeBox (s : State) (k : Nat) (d : Demand) (e : Nat) (v : ViewDesc) (shape org ext : List Nat) : List (List Nat) → Step1
  | [] => .on s { d with written := true }
  | key :: keys =>
    let part := tilePart shape key (boxOf org ext)
    let out := destBox org part
    let meets := s.forcedMeets k d (v.writes out)
    let missing := (s.core k).missing meets
    if !missing.isEmpty then .on s (d.more s k missing)
    else if v.acc && (s.core k).tilesBusy d.wseq (v.boxTiles out) then .on s d
    else
      let s := s.setCore k ((s.core k).pinHeld meets)
      match s.writePart k e v org part (s.boxBytes k d v.fmt key) with
      | .ok t _ => State.writeBox (t.setCore k ((t.core k).touch e [key])) k { d with done := d.done ++ [key] } e v shape org ext keys
      | .fault _ cause a => .fail s d e cause a
      | .wait t => .on t d

/-- The work of a demand whose chains are over; `none` as the demand says that it has ended. -/
def State.demandWork (s : State) (k : Nat) (d : Demand) : Step1 ⊕ State :=
  let c := s.core k
  match d.work with
  | .pin => .inr ((s.setCore k (c.pinHeld d.pins)).resumeWord k d)
  | .materialise es => .inr ((s.setCore k (es.foldl Core.materialise (c.pinHeld d.pins))).resumeWord k d)
  | .box kv kc ev ec _ pub _ org ext sc =>
    let dest := if kv = kc then none
      else match (c.cask ev).map Cask.desc with | some (.view v) => some v | _ => none
    match dest, c.cask ec with
    | some v, some x =>
      if !d.written then .inl (s.writeBox k d ec v x.desc.ext org ext (boxTodo d.done (tilesOf (boxOf org ext))))
      else
        match d.bad with
        | some (cause, a) => .inl (.fail s d ec cause a)
        | none =>
          if !s.forcedDone k then .inl (.on s d)
          else if !pub then .inr (s.demandOver k d)
          else if !s.released k d.fw (scopeOf sc) then .inl (.on s d)
          else
            let pages := pagesOf (v.writes (destBox org (boxOf org ext)))
            if s.entriesHeld k (.scalar d.fw) pages then .inl (.on s d)
            else .inr (((s.swapPages k (.scalar d.fw) (scopeOf sc) pages).markRelease k (scopeOf sc)).demandOver k d)
    | _, _ => .inr (s.demandOver k d)

/-- Forced work in progress, and then its own work. -/
def State.demandStep (s : State) (k : Nat) (d : Demand) : Step1 ⊕ State :=
  if d.forced then s.demandWork k d
  else
    match s.forceStep k d with
    | .on s d => if d.forced then s.demandWork k d else .inl (.on s d)
    | x => .inl x

/-- `DEMAND_COMPLETE` (R295, R298, R301, R312): a tick of the demand of a context: it goes on, it ends, or its word traps. -/
def execDemandComplete (core : Nat) (fw : Bool) (s : State) : Host.Outcome State Fault Refusal :=
  match (s.core core).demand with
  | none => .next s
  | some d =>
    if d.fw ≠ fw || (s.core core).stopped then .next s
    else
      let keep (s : State) (d : Demand) : State := s.setCore core { s.core core with demand := some d }
      let trap (s : State) (d : Demand) (t : Trap) : State := ((keep s d).dropEngReads (expander core)).takeTrap core fw t
      .next (match s.demandStep core d with
        | .inr t => t
        | .inl (.on s d) => keep s d
        | .inl (.fail s d e cause a) => trap s d (caskFault (s.core core) e cause a)
        | .inl (.refused s d w j uw) => trap s d (bookFail w j uw))

/-! ### Forced work of commands (R306) -/

/-- The forced work that a command waits for. -/
def Core.forcingOf (c : Core) (e : Eng) (seq : Nat) : Option Demand :=
  (c.forcing.find? fun p => p.1 = e && p.2.1 = seq).map (·.2.2)

/-- The forced work of a command begins, goes on, or ends. -/
def Core.setForcing (c : Core) (e : Eng) (seq : Nat) (d : Option Demand) : Core :=
  let rest := c.forcing.filter fun p => !(p.1 = e && p.2.1 = seq)
  { c with forcing := match d with | some d => rest ++ [(e, seq, d)] | none => rest }

/-- A tick of the forced work of the commands of a core: where it fails the command is told (R306), and where the command is gone it
ends. -/
def State.forcingTick (s : State) (k : Nat) : State :=
  if (s.core k).stopped then s
  else
  (s.core k).forcing.foldl (fun s p =>
    let put (s : State) (d : Option Demand) : State := s.setCore k ((s.core k).setForcing p.1 p.2.1 d)
    let d := p.2.2
    if !(((s.core k).eng p.1).q.any fun t => t.seq = p.2.1) then put (s.setCore k ((s.core k).dropForced d)) none
    else if d.bad.isSome then s
    else if d.forced then put (s.setCore k ((s.core k).pinHeld d.pins)) none
    else
      match s.forceStep k d with
      | .on s d => if d.forced then put (s.setCore k ((s.core k).pinHeld d.pins)) none else put s (some d)
      | .fail s d _ cause a => put (s.setCore k ((s.core k).dropForced d)) (some { d with bad := some (cause, a) })
      | .refused s d .. => put (s.setCore k ((s.core k).dropForced d)) (some { d with bad := some (fCask, 0) })) s

/-- The alias check of a write of a command (R305, R306): what it meets is forced and pinned before the write, which waits for that;
where it fails the command faults with CASK at the address of its write. -/
def State.engAlias (s : State) (w : Who) (wseq : Nat) (va : VAddr) (r : WRange) : ERes Unit :=
  match s.aliasSets w.core wseq r, w.eng with
  | [], _ => .ok s ()
  | _, none => .ok s ()
  | sets, some (e, seq) =>
    let c := s.core w.core
    if (c.missing sets).isEmpty then .ok (s.setCore w.core (c.pinHeld sets)) ()
    else
      match c.forcingOf e seq with
      | some d =>
        if d.bad.isSome then eFault (s.setCore w.core (c.setForcing e seq none)) fCask va else .wait s
      | none => .wait (s.setCore w.core (c.setForcing e seq (some ((Demand.new false .pin wseq).more s w.core sets))))

end Sys2Proof.Machine
end

