-- ==== Sys2Proof/Machine/Command.lean ====
section
/-!
DEFINITION. Engine commands (R58, R69, R70, R200 to R222): when the command at the head of a queue starts, how a running
command advances from one tile boundary to the next, checked writes (R303, R306), decode faults, and retirement.
-/

namespace Sys2Proof.Machine

/-! ### Entries of a queue -/

/-- The inner cause of an entry that fails to decode (R112). -/
def Entry.decodeFault (t : Entry) (e : Eng) : Option Byte :=
  match t.kind with
  | .qmark _ => none
  | .badLink => some badLink
  | .cmd => decodeCause e (tmplOf t.words) t.built

/-- An entry that retires with a sequence number by `COMMAND_RETIRE`: not a marker, and no chain-control command that
decodes. -/
def Entry.isCommand (t : Entry) (e : Eng) : Bool :=
  match t.kind with
  | .qmark _ => false
  | .badLink => true
  | .cmd => !t.control || (t.decodeFault e).isSome

/-- The command of a queue with a sequence number. -/
def Engine.command (x : Engine) (e : Eng) (seq : Nat) : Option Entry := x.q.find? fun t => t.isCommand e && t.seq = seq

/-- The command that the queue's own engine runs next: the first that no thief took (R206, R210). A `q.mark` or `ch.mark` that waits for
a stolen entry ahead of it (R208) does not hold back the commands behind it: the manual says only that an engine executes its entries
in order and that a stolen entry is ordered against no other (R19, R206, R211; DESIGN CHOICE, log entry 42). -/
def Engine.headCommand (x : Engine) (e : Eng) : Option Entry := x.q.find? fun t => t.isCommand e && t.thief.isNone

/-- Earlier commands of a queue have not retired. -/
def Engine.ahead (x : Engine) (e : Eng) (seq : Nat) : Bool :=
  (x.q.takeWhile fun t => !(t.isCommand e && t.seq = seq)).any fun t => t.isCommand e

/-- A command of a queue. -/
def State.command (s : State) (k : Nat) (e : Eng) (seq : Nat) : Option Entry := ((s.core k).eng e).command e seq

/-- A command of a queue replaced. -/
def Engine.setCommand (x : Engine) (e : Eng) (t : Entry) : Engine :=
  { x with q := x.q.map fun y => if y.isCommand e && y.seq = t.seq then t else y }

/-- A command of a queue replaced. -/
def State.setCommand (s : State) (k : Nat) (e : Eng) (t : Entry) : State :=
  s.setCore k ((s.core k).setEng e (((s.core k).eng e).setCommand e t))

/-- A command whose access a target refuses, or another package does not answer, has a fault (R212, R231, R408). -/
def State.remoteFault (s : State) (core : Nat) (e : Eng) (seq : Nat) (cause : Byte) (va : W64) : State :=
  match s.command core e seq with
  | some t => s.setCommand core e { t with fault := some (t.fault.getD (cause, va)) }
  | none => s

/-- The core whose engine runs a command: its thief's, or its own (R210). -/
def Entry.runner (t : Entry) (owner : Nat) : Nat := t.thief.getD owner

/-- The scope of a command's completion: core scope becomes quad scope for a stolen entry (R30, R200). -/
def Entry.scope (t : Entry) (c : Tmpl) : Scope :=
  if t.thief.isSome && opScope c = 1 then .quad else scopeOf (opScope c)

/-- Who a command's accesses are made for (R211, R303): the owner's queue, from the core whose engine runs it. -/
def cmdWho (k : Nat) (e : Eng) (t : Entry) : Who := { core := k, eng := some (e, t.seq), run := t.thief }

/-! ### Calendars and gating -/

/-- The calendar of an engine; only copy and matrix engines have one (R209). -/
def engCal (e : Eng) (k : Nat) : Cal := { kind := if e = .me then .me else .ce, idx := k }

/-- An engine has a calendar. -/
def calendared (e : Eng) : Bool := e = .ce || e = .me

/-- Every berth from the running one to that of a tick is FREE for walk-ins of an engine; on a die whose BKU has stopped every
berth counts as FREE (R57, R88, R89). -/
def State.freeUntil (s : State) (e : Eng) (k : Nat) (end_ : Nat) : Bool :=
  !calendared e || (s.die (dieOf k)).failstop || (s.cal (engCal e k)).freeRun s.berth (max 1 ((end_ + 255) / 256 - s.berth))

/-- A walk-in of a declared duration fits (R57, R209). -/
def State.walkFits (s : State) (e : Eng) (k : Nat) (dur : Nat) : Bool := s.freeUntil e k (s.tb + dur)

/-- Where a bound command stands (R69 to R71): its use has started and it carries it, it waits, or it retires without
effect. -/
inductive Bound where
  | go (u : OwnUse)
  | wait
  | void
deriving DecidableEq, Repr

/-- Where a command bound to use `j` of booking `id` stands before it starts (R70, R71). -/
def State.bound (s : State) (k : Nat) (e : Eng) (id j : Nat) : Bound :=
  match (s.core k).booking id with
  | none => .void
  | some b =>
    match b.status with
    | .cancelled | .fatal | .refused | .complete => .void
    | .held => .wait
    | .committed | .slipped =>
      match b.uses[j]? with
      | none => .void
      | some u =>
        if u.cal ≠ engCal e k || !s.useHere u || u.fin then .void
        else
          match (s.cal u.cal).use (s.useId k b j) with
          | none => .wait
          | some o => if o.start.isNone then .wait else if o.carried then .go o else .void

/-- The use that a bound command carries is running (R69, R72). -/
def State.carrying (s : State) (k : Nat) (e : Eng) (id j : Nat) : Bool :=
  match (s.cal (engCal e k)).use { pkg := s.pkg, core := k, hm := false, xid := id, use := j } with
  | some o => o.start.isSome
  | none => false

/-- A command that has started and is between parts may go on: inside a tile it runs to the boundary; a walk-in goes on in
FREE time (R58), one that runs as its calendar is poisoned runs on (R89), a bound command while its use runs; none while the clock is
stopped (R462). -/
def State.mayGoOn (s : State) (k : Nat) (e : Eng) (t : Entry) (c : Tmpl) : Bool :=
  let r := t.runner k
  if (s.core r).stopped then false
  else if !calendared e || t.since ≠ 0 then true
  else
    match bookOf c with
    | none => if (s.cal (engCal e r)).poisoned then !t.susp else s.freeUntil e r s.tb
    | some (id, j) => s.carrying k e id j

/-- A command goes on past a tile boundary that it has come to: a walk-in in FREE time (R58), a bound one inside the berths of its use
and while nothing stops it (R72, R76). -/
def State.goesOn (s : State) (k : Nat) (e : Eng) (t : Entry) (c : Tmpl) : Bool :=
  match (if calendared e then bookOf c else none) with
  | none => s.mayGoOn k e { t with since := 0 } c
  | some (id, j) =>
    match (s.cal (engCal e k)).use { pkg := s.pkg, core := k, hm := false, xid := id, use := j } with
    | some o => o.start.isSome && !o.stop && decide (s.berth < o.first + o.n)
    | none => false

/-- The engine of a core runs an entry it stole (R210). -/
def State.stealing (s : State) (k : Nat) (e : Eng) : Bool :=
  (quadCores k).any fun o => ((s.core o).eng e).q.any fun t => t.thief = some k && !t.done

/-! ### Tokens (R204, R205) -/

/-- The WAIT of a command: counter and target. -/
def waitOf (c : Tmpl) : Nat × Nat := (fieldOf c 29 / 2048, fieldOf c 29 % 2048)

/-- The SIG of a command: counter and increment. -/
def sigOf (c : Tmpl) : Nat × Nat := (fieldOf c 30 / 2048, fieldOf c 30 % 2048)

/-- What a take of the running cycle sees in a token counter: a value written in this cycle counts from the next one on (R474). -/
def Core.seenTk (c : Core) (n : Nat) : Nat :=
  match c.tkWas.get none n with
  | some v => min v (c.tk.get 0 n)
  | none => c.tk.get 0 n

/-- The WAIT of a command is satisfied. -/
def Core.waitMet (c : Core) (t : Tmpl) : Bool := decide ((waitOf t).2 ≤ c.seenTk (waitOf t).1)

/-- A token counter has a value, and signals released at die scope or wider are in it or not (R364). -/
def Core.setTk (c : Core) (n v : Nat) (wide : Bool) : Core :=
  { c with tk := c.tk.put 0 n v, tkWide := c.tkWide.put false n (wide && decide (v ≠ 0)) }

/-- What a counter held before a write of the running cycle follows a take or a signal of that cycle. -/
def Core.mapWas (c : Core) (n : Nat) (f : Nat → Nat) : Core :=
  { c with tkWas := c.tkWas.put none n ((c.tkWas.get none n).map f) }

/-- Take the WAIT target. -/
def Core.take (c : Core) (t : Tmpl) : Core :=
  let n := (waitOf t).1
  (c.setTk n (c.tk.get 0 n - (waitOf t).2) (c.tkWide.get false n)).mapWas n (· - (waitOf t).2)

/-- Apply SIG, released at a scope: a counter stops at 65,535. -/
def Core.signal (c : Core) (t : Tmpl) (sc : Scope) : Core :=
  let n := (sigOf t).1
  if (sigOf t).2 = 0 then c
  else
    (c.setTk n (min 65535 (c.tk.get 0 n + (sigOf t).2)) (scopeWide sc || c.tkWide.get false n)).mapWas n
      fun v => min 65535 (v + (sigOf t).2)

/-! ### Chunk bitmaps (R216, R217) -/

/-- The chunk-bitmap slot of a copy with BMAP. -/
def bmapSlot (e : Eng) (c : Tmpl) : Option Nat := if e = .ce && opFlag c 4 then some (flags1 c % 64) else none

/-- A slot of the bitmap table. -/
def Core.slotOf (c : Core) (n : Nat) : BmapSlot := c.bmap.get BmapSlot.reset n

/-- A slot replaced. -/
def Core.setSlot (c : Core) (n : Nat) (b : BmapSlot) : Core := { c with bmap := c.bmap.put BmapSlot.reset n b }

/-- A copy with BMAP issues: its slot is cleared, and the bits of empty chunks are set (R216). -/
def Core.holdSlot (c : Core) (e : Eng) (t : Tmpl) (seq : Nat) (promise : Nat) : Core :=
  match bmapSlot e t with
  | none => c
  | some n =>
    let i := product (counts t 6)
    let empty := (List.range 64).foldl (fun (v : W64) j => if (j + 1) * i / 64 = j * i / 64 then v ||| (1 <<< j) else v) 0
    c.setSlot n { bits := empty, promise := promise, holder := some seq, wide := decide (3 ≤ opScope t) }

/-- The slot of a copy is held by another that has not retired (R216). -/
def Core.slotHeld (c : Core) (e : Eng) (t : Tmpl) : Bool :=
  match bmapSlot e t with
  | none => false
  | some n => (c.slotOf n).holder.isSome

/-- Writes of a list are performed at the scope of a command (R201). -/
def State.writesDone (s : State) (k : Nat) (t : Entry) (c : Tmpl) (ws : List Nat) : Bool :=
  ws.all fun i => s.performed (t.runner k) (t.scope c) i

/-- Every path of a command has had the time that its bytes take at least (R237). -/
def State.pathsDone (s : State) (k : Nat) (e : Eng) (t : Entry) : Bool :=
  match t.started with
  | none => true
  | some n => ((s.core k).eng e).moved.all fun m => decide (m.seq ≠ t.seq) || decide (n + m.lat + (m.bytes + m.rate - 1) / m.rate ≤ s.tb)

/-- The elements that a copy goes through: those of its nest, and the pads of a `cp.pack` behind them (R214, R218). -/
def copyCount (c : Tmpl) : Nat :=
  let n := cntOf c 0
  match opCode c with
  | 2 => if opFlag c 5 then (cntOf c 1 + packG c - 1) / packG c * packG c * n else n * cntOf c 1
  | 3 => n * cntOf c 1
  | 4 => if opFlag c 5 then n else n * cntOf c 1
  | 6 => n
  | _ => product (counts c 6)

/-- Set the bits of the chunks whose writes are performed at SCOPE, as a release, which also follows what the lane has read and its
earlier commands' writes (R216, R367). Every element writes the same number of pieces; pads belong to the last chunk. -/
def State.trackChunks (s : State) (k : Nat) (e : Eng) (t : Entry) (c : Tmpl) : State :=
  match bmapSlot e c with
  | none => s
  | some n =>
    let x := s.core k
    let b := x.slotOf n
    let i := product (counts c 6)
    let m := if opCode c = 6 then 1 else max 1 (eszOf c / 16)
    let ready (j : Nat) : Bool :=
      let lo := j * i / 64
      let hi := if j = 63 then copyCount c else (j + 1) * i / 64
      decide (hi ≤ t.pos) && s.writesDone k t c (((t.writes.drop (lo * m))).take ((hi - lo) * m))
    let before := ((s.laneAfter k e).filter fun u => !t.writes.contains u).all (s.performed k (t.scope c))
    let bits := (List.range 64).foldl (fun (v : W64) j => if before && ready j then v ||| (1 <<< j) else v) b.bits
    if b.holder = some t.seq && decide (bits ≠ b.bits) then
      (s.setCore k (x.setSlot n { b with bits := bits })).markRelease k (t.scope c)
    else s

/-! ### Starting (R206) -/

/-- Whether a command runs now, and the state and entry it runs from. -/
inductive Go where
  | no (s : State)
  | go (s : State) (t : Entry)
deriving DecidableEq, Repr

/-- The promise of a copy (R217): the last tick of its use, or its start plus its declared duration. -/
def promiseTick (s : State) (c : Tmpl) (u : Option OwnUse) : Nat :=
  match u with
  | some u => 256 * (u.first + u.n) - 1
  | none => s.tb + durOf c

/-- The start of a command (R205, R206, R216, R217): its WAIT target is taken, an acquire of the signals that gave it (R364), and its
promise delivered. A scatter-accumulate command keeps `SAE.NOMERGE` as it stands then as its place, 2 for one and 1 for zero (R400). -/
def State.begin (s : State) (k : Nat) (e : Eng) (t : Entry) (c : Tmpl) (u : Option OwnUse) : Go :=
  let p := promiseTick s c u
  let prom := e = .ce && opCode c ≠ 6 && t.promOn
  let s := if (waitOf c).2 ≠ 0 && (s.core k).tkWide.get false (waitOf c).1 then s.acquire k .die else s
  let s := s.setCore k (((s.core k).take c).holdSlot e c t.seq (if prom then p else 0))
  let s := if prom then s.deliver k t.fw t.prom (BitVec.ofNat 64 p) none else s
  let t := { t with started := some s.tb, pos := if e = .sae then (if (s.core k).nomerge then 2 else 1) else t.pos }
  .go (s.setCommand k e t) t

/-- The run of a core is being checkpointed: no further command of it starts (R453). -/
def State.savingRun (s : State) (k : Nat) : Bool := match (s.core k).task with | some r => r.saving | none => false

/-- Start the command at the head of a queue, where everything allows it (R206). `check` is the decode check of its fields:
BAD_FIELD, and the scopes 6 and 7 (R112, R200). -/
def State.start (s : State) (k : Nat) (e : Eng) (t : Entry) (c : Tmpl) (check : Core → Tmpl → Bool) : Go :=
  let x := (s.core k).eng e
  if s.savingRun k || (s.core k).stopped || x.flt || !x.loads.isEmpty || t.built ≠ some c || (t.decodeFault e).isSome || (x.headCommand e).map Entry.seq ≠ some t.seq
      || s.stealing k e then .no s
  else if 6 ≤ opScope c || !check (s.core k) c then
    .no (s.setCommand k e { t with fault := some (badField, 0), done := true })
  else
    let go (u : Option OwnUse) : Go :=
      if !(s.core k).waitMet c || (s.core k).slotHeld e c then .no s
      else if x.gate ≠ .awake then .no (s.setCore k ((s.core k).setEng e (x.wakeUp s.tb e)))
      else s.begin k e t c u
    match (if calendared e then bookOf c else none) with
    | none => if s.walkFits e k (durOf c) then go none else .no s
    | some (id, j) =>
      match s.bound k e id j with
      | .void => .no (s.setCommand k e { t with void := true, done := true })
      | .wait => .no s
      | .go u => go (some u)

/-! ### Running -/

/-- How a part of a command ends: at a tile boundary, at its end with a result, waiting for another package, or at a fault. -/
inductive PartEnd where
  | boundary
  | finished (result : W64)
  | waiting
  | faulted (cause : Byte) (addr : W64)
deriving DecidableEq, Repr

/-- A part of a command: the state, the place it has come to, the bytes written since the last boundary, the tags of its
writes, and how it ends. -/
structure Part where
  s : State
  pos : Nat
  since : Nat
  tags : List Nat
  end_ : PartEnd
deriving DecidableEq, Repr

/-- A part that has to wait leaves nothing behind but what it waits for: reads of other packages, translations, and tiles that are
forced. -/
def State.keepWaits (s t : State) : State :=
  (List.range 10).foldl (fun s d => s.setDie d { s.die d with tlb := (t.die d).tlb })
    { s with
      flights := t.flights
      out := t.out
      selfDue := t.selfDue
      nextTag := t.nextTag
      cores := s.cores.map fun p => (p.1, { p.2 with forcing := (t.core p.1).forcing, tlb := (t.core p.1).tlb }) }

/-- A command that runs as one part from its start to its end. -/
def onePart (s : State) (r : ERes (List Nat × W64)) : Part :=
  match r with
  | .ok s v => { s := s, pos := 0, since := 0, tags := v.1, end_ := .finished v.2 }
  | .fault s c a => { s := s, pos := 0, since := 0, tags := [], end_ := .faulted c a }
  | .wait t => { s := s.keepWaits t, pos := 0, since := 0, tags := [], end_ := .waiting }

/-- Record what a part did. A copy's result, the old value of an atomic operation, is kept (R221). -/
def Part.store (p : Part) (k : Nat) (e : Eng) (t : Entry) : State :=
  let t := { t with pos := p.pos, since := p.since, susp := false, writes := t.writes ++ p.tags }
  let ends (t : Entry) : State :=
    (p.s.dropEngReads (cmdWho k e t)).setCommand k e { t with since := 0, done := true, after := p.s.laneAfter k e }
  match p.end_ with
  | .boundary => p.s.setCommand k e { t with since := 0 }
  | .waiting => p.s.setCommand k e t
  | .finished r => ends { t with result := if e = .ce then t.result else r }
  | .faulted c a => ends { t with fault := some (c, a) }

/-- A command starts, or goes on to its next tile boundary; bits of its chunk bitmap are set as its writes are performed. A
command that cannot run leaves the state as it is. `mine` says that the built command is one of this operation. -/
def State.runCommand (s : State) (e : Eng) (w : CmdAt) (c : Tmpl) (mine : Bool) (check : Core → Tmpl → Bool)
    (part : State → Who → Entry → Tmpl → Part) : State :=
  match s.command w.core e w.seq with
  | none => s
  | some t =>
    if !mine then s
    else if t.done then (if t.built = some c then s.trackChunks w.core e t c else s)
    else
      let g := if t.started.isSome then
          (if t.built = some c && s.mayGoOn w.core e t c then Go.go s t else .no s)
        else s.start w.core e t c check
      match g with
      | .no s => s
      | .go s t =>
        let s := (part s (cmdWho w.core e t) t c).store w.core e t
        match s.command w.core e w.seq with
        | some t => s.trackChunks w.core e t c
        | none => s

/-! ### Checked writes of commands (R303, R306) -/

/-- A checked write of up to 16 bytes by a command. -/
def State.cmdWrite (s : State) (w : Who) (wseq : Nat) (va : VAddr) (bs : List Byte) : ERes (List Nat) :=
  (s.engAlias w wseq va (.mem va bs.length)).bind fun s _ =>
    (s.engWrite w va bs).bind fun s t => .ok s [t]

/-- Checked writes in pieces (R215, R229). -/
def State.cmdWriteN (s : State) (w : Who) (wseq : Nat) (va : VAddr) : Nat → List Byte → ERes (List Nat)
  | 0, _ => .ok s []
  | fuel + 1, bs =>
    if bs.isEmpty then .ok s []
    else
      let m := pieceSize va bs.length
      (s.cmdWrite w wseq va (bs.take m)).bind fun s t =>
        (State.cmdWriteN s w wseq (va + BitVec.ofNat 72 m) fuel (bs.drop m)).bind fun s ts => .ok s (t ++ ts)

/-! ### Decode faults and retirement -/

/-- `DECODE_FAULT` (R111, R112, R115, R116): the command at the head of its queue does not decode; it takes and does nothing,
and retires as a fault. -/
def execDecodeFault (w : CmdAt) (e : Eng) (cause : Byte) (s : State) : Host.Outcome State Fault Refusal :=
  let x := (s.core w.core).eng e
  match x.command e w.seq with
  | none => .next s
  | some t =>
    if x.flt || (s.core w.core).stopped || !x.loads.isEmpty || t.done || t.decodeFault e ≠ some cause || (x.headCommand e).map Entry.seq ≠ some t.seq then
      .next s
    else .next (s.setCommand w.core e { t with fault := some (cause, 0), done := true })

/-- The register of a command receives zero, marked faulted for the user context (R212, R443). -/
def State.faultRegister (s : State) (k : Nat) (e : Eng) (t : Entry) (cause : Byte) (addr : W64) : State :=
  if t.promOn then
    let m : Mark := { trap := engineTrap e t.seq t.thief cause addr, of := some (e, t.seq) }
    s.deliver k t.fw t.prom 0 (if t.fw then none else some m)
  else s

/-- The register of a command that retires without a fault (R70, R217, R221, R354): a promise went out at its start; another
result is delivered now, zero where the command retires without effect. -/
def State.resultRegister (s : State) (k : Nat) (e : Eng) (t : Entry) : State :=
  let promise : Bool := match t.built with | some c => e = .ce && opCode c ≠ 6 | none => false
  if !t.promOn || (promise && t.started.isSome) then s
  else s.deliver k t.fw t.prom (if t.void || t.stop then 0 else t.result) none

/-- The use that a command carried is over: the rest of its berths is FREE (R71, R74, R77). -/
def State.endCarried (s : State) (k : Nat) (e : Eng) (t : Entry) (c : Tmpl) : State :=
  match (if calendared e && t.started.isSome then bookOf c else none) with
  | none => s
  | some (id, j) =>
    let cal := engCal e k
    (s.setCal cal ((s.cal cal).dropUse { pkg := s.pkg, core := k, hm := false, xid := id, use := j })).useDone k id j

/-- The bitmap slot of a copy at its retirement (R216): every bit where it had its effect; the slot is free. -/
def Core.leaveSlot (c : Core) (e : Eng) (t : Entry) (b : Tmpl) : Core :=
  match bmapSlot e b with
  | none => c
  | some n =>
    let x := c.slotOf n
    if x.holder ≠ some t.seq then c
    else c.setSlot n { x with bits := if t.fault.isSome || t.void || t.stop then x.bits else BitVec.allOnes 64, holder := none }

/-- Where the contents of a permutation table being loaded are kept until retirement (R219). -/
def permStage (id : Nat) : Nat := 16 + id

/-- A permutation table takes its new contents (R219). -/
def Core.takeTable (c : Core) (e : Eng) (t : Entry) (b : Tmpl) : Core :=
  if e = .ce && opCode b = 4 && opFlag b 5 && t.fault.isNone && !t.void && !t.stop then
    let id := fieldOf b 24 % 16
    { c with perm := (c.perm.put [] id (c.perm.get [] (permStage id))).put [] (permStage id) [] }
  else c

/-- Write the completion word of a command (R201): the value that DONE takes. -/
def State.completionWord (s : State) (k : Nat) (e : Eng) (t : Entry) (c : Tmpl) (done : Nat) : ERes Unit :=
  if seqwOf c then
    let va : VAddr := BitVec.ofNat 72 (((s.core k).eng e).cw.toNat / 8 * 8)
    (s.engAlias (cmdWho k e t) t.wseq va (.mem va 8)).bind fun s _ => s.engStore (cmdWho k e t) va (leBytes 8 done)
  else .ok s ()

/-- The queue after a command has left it: its fault halts the queue (R212). -/
def Engine.afterRetire (x : Engine) (e : Eng) (t : Entry) (now : Nat) (fault : Option (Byte × W64)) : Engine :=
  let x := { x.retireSeq t.seq with
    q := x.q.filter fun y => !(y.isCommand e && y.seq = t.seq)
    moved := x.moved.filter fun m => m.seq ≠ t.seq
    wide := x.wide || (match t.built with | some c => decide (3 ≤ opScope c) | none => false) }
  let x := if t.thief.isNone then { x with idleFrom := now } else x
  match fault with
  | none => x
  | some (cause, a) =>
    { x with
      flt := true
      cause := cause
      rep := x.rep ++
        [{ seq := t.seq, thief := t.thief, cause := cause, addr := a,
           slot := (match t.built with | some c => bmapSlot e c | none => none), reported := false }] }

/-- A fault after `exit` ends the run (R459). -/
def State.faultAfterExit (s : State) (k : Nat) (e : Eng) (seq : Nat) (cause : Byte) : State :=
  match (s.core k).task with
  | some r => if r.exited then s.kill k 4 (e.code + cause.toNat * 256 + seq % 2 ^ 48 * 65536) else s
  | none => s

/-- The indivisible step of a retirement (R201, R205, R212). -/
def State.leaveQueue (s : State) (k : Nat) (e : Eng) (t : Entry) (c : Tmpl) (fault : Option (Byte × W64)) : State :=
  let s := match fault with
    | some (cause, a) => s.faultRegister k e t cause a
    | none => s.resultRegister k e t
  let s := s.endCarried k e t c
  let x := ((s.core k).leaveSlot e t c).takeTable e t c
  let x := if fault.isNone && !t.void && !t.stop then x.signal c (t.scope c) else x
  let s := (s.setCore k (x.setEng e ((x.eng e).afterRetire e t s.tb fault))).markRelease k (t.scope c)
  let s := match t.thief with
    | some h => s.setCore h ((s.core h).setEng e { (s.core h).eng e with idleFrom := s.tb })
    | none => s
  match fault with
  | some (cause, _) => s.faultAfterExit k e t.seq cause
  | none => s

/-- Retire a command whose writes are performed (R201, R205, R212). A decode fault, of its words or of its fields, writes nothing, the
completion word included (R112). -/
def State.retireCommand (s : State) (k : Nat) (e : Eng) (t : Entry) : State :=
  let c := t.built.getD []
  let done := (((s.core k).eng e).retireSeq t.seq).done
  let fault := match t.fault, t.refused with
    | some f, _ => some f
    | none, some r => some r.2
    | none, none => none
  let w := if t.fault.isSome && t.started.isNone then .ok s () else s.completionWord k e t c done
  match w with
  | .wait s => s
  | .ok s _ =>
    s.leaveQueue k e { t with fault := fault } c fault
  | .fault s cause a =>
    let f := some (fault.getD (cause, a))
    s.leaveQueue k e { t with fault := f } c f

/-- `COMMAND_RETIRE` (R201, R237): a command that has run retires once its writes and operations, and what it must follow, are
performed at its scope, and no sooner than its paths allow. -/
def execCommandRetire (core : Nat) (e : Eng) (seq : Nat) (s : State) : Host.Outcome State Fault Refusal :=
  match s.command core e seq with
  | none => .next s
  | some t =>
    if t.done && !(s.core core).stopped && s.writesDone core t (t.built.getD []) (t.writes ++ t.after) && s.pathsDone core e t then
      .next (s.retireCommand core e t)
    else .next s

end Sys2Proof.Machine
end

