-- ==== Sys2Proof/Machine/Atomic.lean ====
section
/-!
DEFINITION. Atomic operations at the homes of their targets (R221, R375 to R377, R394, R395): the combining functions, the
operations on their way, and the steps in which a home performs them.
-/

namespace Sys2Proof.Machine

/-- The floating format of an atomic type. -/
def amoFmt (ty : Nat) : Option Fmt := if ty = 4 then some fp32 else if ty = 5 then some fp64 else none

/-- An operation and type that R221 allows: no logic on a floating type. -/
def amoAllowed (op ty : Nat) : Bool :=
  decide (op ≤ 7) && decide (ty ≤ 5) && !(decide (4 ≤ ty) && decide (3 ≤ op) && decide (op ≤ 5))

/-- The new target of an operation 0 add, 1 min, 2 max, 3 and, 4 or, 5 xor, 6 xchg (R221, R376, R394). -/
def combine (op ty t v : Nat) : Nat :=
  let w := 8 * amoSize ty
  match op with
  | 0 => match amoFmt ty with | some f => (f.add t v .rne).1 | none => (t + v) % 2 ^ w
  | 3 => t &&& v
  | 4 => t ||| v
  | 5 => t ^^^ v
  | 6 => v
  | _ =>
    match amoFmt ty with
    | some f => (f.minMax t v (op = 2)).1
    | none =>
      let sg := ty % 2 = 0
      let less := intVal w sg t < intVal w sg v
      if (op = 1) = less then t else v

/-- The new target of an atomic operation; `none` where `cas` finds another value and writes nothing (R221). -/
def amoNew (op ty operand compare t : Nat) : Option Nat :=
  if op = 7 then (if t = compare then some operand else none) else some (combine op ty t operand)

/-- The contributions of a sent entry applied one at a time (R395). -/
def applyVals (op ty : Nat) (vals : List Nat) (t : Nat) : Nat := vals.foldl (combine op ty) t

/-- The atomic operation of an SAE code (R394). -/
def saeOp (code : Nat) : Nat := match code with | 1 => 0 | 2 => 1 | 3 => 2 | 4 => 3 | 5 => 4 | _ => 6

/-- The atomic type of an element type that R392 allows. -/
def saeType (et : Nat) : Option Nat :=
  match et with
  | 0 => some 5 | 1 => some 4 | 10 => some 0 | 11 => some 2 | 14 => some 1 | 15 => some 3 | _ => none

/-- What an operation at its home comes to: it is performed and had this old value, or it faults with an inner cause: a window
refuses it (R231), or its target is uncorrectable (R448). -/
inductive HomeRes where
  | old (v : Nat)
  | bad (cause : Byte)
deriving DecidableEq, Repr

/-- Perform an operation on a target at its home in this package, as one step (R375). An operation that writes nothing has read its
target all the same, so its core's die keeps no older copy (R360). -/
def State.atHome (s : State) (core asn tag n : Nat) (p : Place) (o : Origin) (f : Nat → Option Nat) : State × HomeRes :=
  match p with
  | .home key =>
    let old := leNat (readBytes s.mem key n)
    if s.homeBad key n then (s, .bad fEcc)
    else
      match f old with
      | none =>
        let d := dieOf core
        let x := s.die d
        (s.setDie d { x with copies := x.copies.erase (lineOf key) }, .old old)
      | some v => ((s.quadDrop core key n).homeWrite o tag key (leBytes n v), .old old)
  | .spad c off =>
    if c ≠ core && s.windowRefused asn c off n then (s, .bad fProt)
    else
      let x := s.core c
      let old := leNat (x.spadRead off n)
      if x.spadBad off n then (s, .bad fEcc)
      else
        match f old with
        | none => (s, .old old)
        | some v => (s.setCore c (x.spadWrite off (leBytes n v)), .old old)
  | _ => (s, .bad fProt)

/-- The target of an atomic operation as it leaves its engine: translation and the limits of the own scratchpad (R221, R241,
R243, R277). -/
def State.amoTarget (s : State) (w : Who) (va : VAddr) (n : Nat) : ERes Place :=
  match s.translate w.core false .engWrite va with
  | (s, .page) => eFault s (s.noPage w va) va
  | (s, .prot) => eFault s fProt va
  | (s, .wait) => .wait s
  | (s, .ok p _) =>
    match p with
    | .spad c o =>
      if c = w.core && (s.core c).spadSize < o + n then eFault s w.beyond va
      else if c = w.core && (s.core c).inScratch o n then eFault s fProt va
      else .ok s p
    | _ => .ok s p

/-- The AMO packet for a target of another package (R406): operation and type, then the values (log entry 6). -/
def State.amoPacket (s : State) (core asn tag op ty : Nat) (vals : List Nat) (p : Place) : State :=
  match remoteFields asn p with
  | none => s
  | some (q, pa, arg) =>
    s.send { opc := 4, ackreq := true, ord := false, dpkg := q, spkg := s.pkg, score := core, tag := tag % 65536, pa := pa,
             arg := arg, rsv := false,
             data := leBytes 1 (op + 16 * ty) ++ vals.flatMap fun v => leBytes (amoSize ty) v }

/-- An operation that is not performed is kept with its inner cause, the lowest-numbered one (R221). -/
def Entry.refuse (t : Entry) (idx : Nat) (cause : Byte) (va : VAddr) : Entry :=
  match t.refused with
  | some (i, _, _) => if idx < i then { t with refused := some (idx, cause, va64 va) } else t
  | none => { t with refused := some (idx, cause, va64 va) }

/-- A `cp.amo` operation has been performed or refused (R221): the old target of operation 0 is the result. -/
def State.amoDone (s : State) (a : AmoF) (r : HomeRes) : State :=
  match s.command a.core .ce a.seq with
  | none => s
  | some t =>
    match r with
    | .bad cause => s.setCommand a.core .ce (t.refuse a.idx cause a.va)
    | .old v => if a.idx = 0 then s.setCommand a.core .ce { t with result := BitVec.ofNat 64 v } else s

/-- An atomic operation or an entry waits at its home, or before it leaves for another package: for earlier accesses of its queue to the
same bytes, those of its own command apart (R221, R222), and for what precedes it on the way from its die (R363). -/
def State.amoWaits (s : State) (tag core : Nat) (e : Eng) (seq n : Nat) (p : Place) (o : Origin) : Bool :=
  (s.anyFlight fun t f => decide (t < tag) && match f with
    | .store x => x.core = core && x.agent = .lane e && placesMeet p n x.place x.bytes.length
    | .remoteWrite x => x.core = core && x.agent = .lane e && decide (x.place.granule = p.granule)
    | .amo a => e = .ce && a.core = core && a.seq ≠ seq && placesMeet p n a.place (amoSize a.ty)
    | .sae a => e = .sae && a.core = core && a.seq ≠ seq && placesMeet p n a.place (amoSize a.et)
    | _ => false)
  || match p with
    | .home key => s.heldBack tag o.die (homeDie key) o
    | _ => false

/-- `ATOMIC_APPLY` (R221, R363, R375): a home of this package performs a `cp.amo` operation; one for another package leaves. -/
def execAtomicApply (tag : Nat) (s : State) : Host.Outcome State Fault Refusal :=
  match s.flight tag with
  | some (.amo a) =>
    match a.place with
    | .remote .. | .rwin .. =>
      if a.asked || s.amoWaits tag a.core .ce a.seq (amoSize a.ty) a.place a.origin then .next s
      else
        .next ((s.setFlight tag (.amo { a with asked := true })).amoPacket a.core a.asn tag a.op a.ty
          (if a.op = 7 then [a.compare, a.operand] else [a.operand]) a.place)
    | p =>
      if s.amoWaits tag a.core .ce a.seq (amoSize a.ty) p a.origin then .next s
      else
        let r := (s.endFlight tag).atHome a.core a.asn tag (amoSize a.ty) p a.origin (amoNew a.op a.ty a.operand a.compare)
        .next (r.1.amoDone a r.2)
  | _ => .next s

/-- An entry of a scatter-accumulate command must wait for another: an earlier one on its target, or of its lane (R395). -/
def State.saeBehind (s : State) (tag : Nat) (e : SaeF) : Bool :=
  s.anyFlight fun t f => decide (t < tag) && match f with
    | .sae x => x.core = e.core && x.seq = e.seq && (x.va = e.va || (x.lane.isSome && x.lane = e.lane))
    | _ => false

/-- An entry has been applied or refused (R397). -/
def State.saeDone (s : State) (tag : Nat) (e : SaeF) (r : HomeRes) : State :=
  match s.command e.core .sae e.seq, r with
  | some t, .bad cause => s.setCommand e.core .sae (t.refuse tag cause e.va)
  | _, _ => s

/-- `SAE_ENTRY_APPLY` (R395): a home of this package applies a sent entry, one contribution at a time, as one step; one for another package
leaves, behind the entries of its target and of its lane. -/
def execSaeEntryApply (tag : Nat) (s : State) : Host.Outcome State Fault Refusal :=
  match s.flight tag with
  | some (.sae e) =>
    match e.place with
    | .remote .. | .rwin .. =>
      if e.asked || s.saeBehind tag e || s.amoWaits tag e.core .sae e.seq (amoSize e.et) e.place e.origin then .next s
      else .next ((s.setFlight tag (.sae { e with asked := true })).amoPacket e.core e.asn tag e.op e.et e.vals e.place)
    | p =>
      if s.saeBehind tag e || s.amoWaits tag e.core .sae e.seq (amoSize e.et) p e.origin then .next s
      else
        let r := (s.endFlight tag).atHome e.core e.asn tag (amoSize e.et) p e.origin fun t => some (applyVals e.op e.et e.vals t)
        .next (r.1.saeDone tag e r.2)
  | _ => .next s

end Sys2Proof.Machine
end

