-- ==== Sys2Proof/Machine/Copy.lean ====
section
/-!
DEFINITION. The commands of the copy engine (R214 to R221): each is a list of elements, and runs from tile boundary to tile
boundary, at every further 1 KiB of destination bytes and at its end.
-/

namespace Sys2Proof.Machine

/-! ### Fields of a copy (R214) -/

/-- The source unit. -/
def srcUnit (c : Tmpl) : Nat := unitOf (fieldOf c 18)
/-- The destination unit. -/
def dstUnit (c : Tmpl) : Nat := unitOf (fieldOf c 18 / 4)
/-- A field as a signed number. -/
def sfield (c : Tmpl) (i : Nat) : Int := signed 16 (fieldOf c i)
/-- The flag X: PADF, or TLOAD. -/
def flagX (c : Tmpl) : Bool := opFlag c 5

/-- Element `p` of a nest begins at (R215). -/
def nestSrc (c : Tmpl) (p : Nat) : VAddr :=
  vadd (addr0 c) (dot (indices (counts c 6) p) ((List.range 6).map fun i => strOf c i * srcUnit c))
def nestDst (c : Tmpl) (p : Nat) : VAddr :=
  vadd (addr1 c) (dot (indices (counts c 6) p) ([24, 25, 26, 15, 16, 17].map fun i => sfield c i * dstUnit c))

/-- Element `p` of a fill is written at (R220). -/
def fillDst (c : Tmpl) (p : Nat) : VAddr :=
  vadd (addr1 c) (dot (indices (counts c 6) p) ((List.range 6).map fun i => strOf c i * dstUnit c))

/-- The width of the group of a stream (R218). -/
def packW (c : Tmpl) (st : Nat) : Nat :=
  let g := packG c
  if cntOf c 1 - st / g * g < g && !flagX c then cntOf c 1 - st / g * g else g

/-- The place of element `j` at position `t` of the group of stream `st`, in elements of the packed layout. -/
def packAt (c : Tmpl) (st j t : Nat) : Nat := st / packG c * (cntOf c 0 * packG c) + j * packW c st + t

/-- The address of element `j` of stream `st` on the stream side. -/
def streamAt (c : Tmpl) (base : VAddr) (u : Nat) (st j : Nat) : VAddr := vadd base (j * (strOf c 0 * u) + st * (strOf c 1 * u))

/-- Element `p` in a packed layout that begins at an address. -/
def packedAt (c : Tmpl) (base : VAddr) (p : Nat) : VAddr :=
  let st := p / cntOf c 0
  vadd base (packAt c st (p % cntOf c 0) (st % packG c) * eszOf c)

/-- Element `p` of the application of a table (R219). -/
def permSrc (c : Tmpl) (tb : List Nat) (p : Nat) : VAddr :=
  let i : Int := p % cntOf c 0
  vadd (addr0 c) (tb.getD (p / cntOf c 0) 0 * (strOf c 1 * srcUnit c) + i * (strOf c 0 * srcUnit c))
def permDst (c : Tmpl) (p : Nat) : VAddr :=
  let i : Int := p % cntOf c 0
  let ch := p / cntOf c 0
  vadd (addr1 c) (ch * (sfield c 25 * dstUnit c) + i * (sfield c 26 * dstUnit c))

/-- The permutation table a command names. -/
def permId (c : Tmpl) : Nat := fieldOf c 24 % 16

/-- Where element `p` of a copy is read, for a core. -/
def Core.copySrc (k : Core) (c : Tmpl) (p : Nat) : VAddr :=
  match opCode c with
  | 2 => streamAt c (addr0 c) (srcUnit c) (p / cntOf c 0) (p % cntOf c 0)
  | 3 => packedAt c (addr0 c) p
  | 4 => if flagX c then vadd (addr0 c) (2 * p) else permSrc c (k.perm.get [] (permId c)) p
  | _ => nestSrc c p

/-- Where element `p` of a copy is written. -/
def copyDst (c : Tmpl) (p : Nat) : VAddr :=
  match opCode c with
  | 2 => packedAt c (addr1 c) p
  | 3 => streamAt c (addr1 c) (dstUnit c) (p / cntOf c 0) (p % cntOf c 0)
  | 4 => permDst c p
  | 5 => fillDst c p
  | _ => nestDst c p

/-- Check an element's alignment: the source first (R215). -/
def copyAlign {α : Type} (s : State) (g : Nat) (a b : VAddr) (k : ERes α) : ERes α :=
  if a.toNat % g ≠ 0 then eFault s fAlign a else if b.toNat % g ≠ 0 then eFault s fAlign b else k

/-- Copy one element (R215): up to 16 bytes at once, 64 bytes in four granules; the bytes written and the tags of the writes. -/
def State.copyElem (s : State) (w : Who) (t : Entry) (esz : Nat) (a b : VAddr) : ERes (Nat × List Nat) :=
  copyAlign s (min esz 16) a b
    ((s.engReadN w a 5 esz).bind fun s bs => (s.cmdWriteN w t.wseq b 5 bs).bind fun s ts => .ok s (esz, ts))

/-- Write one element of given bytes (R220). -/
def State.fillElem (s : State) (w : Who) (t : Entry) (b : VAddr) (bs : List Byte) : ERes (Nat × List Nat) :=
  copyAlign s (min bs.length 16) b b ((s.cmdWriteN w t.wseq b 5 bs).bind fun s ts => .ok s (bs.length, ts))

/-! ### Running a list of elements -/

/-- Run elements from `pos` up to the next tile boundary (R214). `el` gives the bytes written and the tags of the writes. -/
def elements (w : Who) (n : Nat) (el : State → Nat → ERes (Nat × List Nat)) : Nat → State → Nat → Nat → List Nat → Part
  | 0, s, pos, since, tags => { s := s, pos := pos, since := since, tags := tags, end_ := .waiting }
  | fuel + 1, s, pos, since, tags =>
    if n ≤ pos then { s := s, pos := pos, since := since, tags := tags, end_ := .finished 0 }
    else
      match el s pos with
      | .wait s => { s := s, pos := pos, since := since, tags := tags, end_ := .waiting }
      | .fault s c a => { s := s, pos := pos, since := since, tags := tags, end_ := .faulted c a }
      | .ok s (b, ts) =>
        let s := s.dropEngReads w
        let tags := tags ++ ts
        if n ≤ pos + 1 then { s := s, pos := pos + 1, since := 0, tags := tags, end_ := .finished 0 }
        else if 1024 ≤ since + b then { s := s, pos := pos + 1, since := 0, tags := tags, end_ := .boundary }
        else elements w n el fuel s (pos + 1) (since + b) tags

/-- Elements run at most in one part: a tile of 1-byte elements, or a permutation table. -/
def elementFuel : Nat := 4097

/-- Run elements of a command on from where it stands. -/
def runElements (s : State) (w : Who) (t : Entry) (n : Nat) (el : State → Nat → ERes (Nat × List Nat)) : Part :=
  elements w n el elementFuel s t.pos t.since []

/-! ### `cp.nest` and `cp.fill` (R215, R220) -/

/-- The elements of a `cp.nest`. -/
def nestPart (s : State) (w : Who) (t : Entry) (c : Tmpl) : Part :=
  runElements s w t (product (counts c 6)) fun s p => s.copyElem w t (eszOf c) (nestSrc c p) (nestDst c p)

/-- `cp.nest` (R215). -/
def execCpNest (w : CmdAt) (c : Tmpl) (s : State) : Host.Outcome State Fault Refusal :=
  .next (s.runCommand .ce w c (opCode c = 1) (fun _ _ => true) nestPart)

/-- The bytes of a fill element: the pattern E1 ∥ E0 repeated, or E0[7:0]. -/
def fillBytes (c : Tmpl) : List Byte :=
  ((List.replicate 16 (leBytes 4 (fieldOf c 25 * 65536 + fieldOf c 24))).flatten).take (eszOf c)

/-- The elements of a `cp.fill`. -/
def fillPart (s : State) (w : Who) (t : Entry) (c : Tmpl) : Part :=
  runElements s w t (product (counts c 6)) fun s p => s.fillElem w t (fillDst c p) (fillBytes c)

/-- `cp.fill` (R220). -/
def execCpFill (w : CmdAt) (c : Tmpl) (s : State) : Host.Outcome State Fault Refusal :=
  .next (s.runCommand .ce w c (opCode c = 5) (fun _ _ => true) fillPart)

/-! ### `cp.pack` and `cp.unpack` (R218) -/

/-- G is 1 to 64, and CNT2 to CNT5 are zero (R218). -/
def packOk (_k : Core) (c : Tmpl) : Bool :=
  decide (1 ≤ packG c) && decide (packG c ≤ 64) && [8, 9, 10, 11].all fun i => fieldOf c i = 0

/-- The pad bytes of an element (R218): E1 repeated, or E1[7:0]. -/
def padBytes (c : Tmpl) : List Byte := ((List.replicate 32 (leBytes 2 (fieldOf c 25))).flatten).take (eszOf c)

/-- The elements of a `cp.pack`: stream by stream, and behind the last one, with PADF, the pads that fill its group, as further
streams (log entry 37). -/
def packPart (s : State) (w : Who) (t : Entry) (c : Tmpl) : Part :=
  runElements s w t (copyCount c) fun s p =>
    let b := packedAt c (addr1 c) p
    if p / cntOf c 0 < cntOf c 1 then s.copyElem w t (eszOf c) ((s.core w.core).copySrc c p) b else s.fillElem w t b (padBytes c)

/-- `cp.pack` (R218). -/
def execCpPack (w : CmdAt) (c : Tmpl) (s : State) : Host.Outcome State Fault Refusal :=
  .next (s.runCommand .ce w c (opCode c = 2) packOk packPart)

/-- The elements of a `cp.unpack`. -/
def unpackPart (s : State) (w : Who) (t : Entry) (c : Tmpl) : Part :=
  runElements s w t (copyCount c) fun s p => s.copyElem w t (eszOf c) (packedAt c (addr0 c) p) (copyDst c p)

/-- `cp.unpack` (R218). -/
def execCpUnpack (w : CmdAt) (c : Tmpl) (s : State) : Host.Outcome State Fault Refusal :=
  .next (s.runCommand .ce w c (opCode c = 3) packOk unpackPart)

/-! ### `cp.perm` (R219) -/

/-- Append an entry to the table being loaded. -/
def State.stagePerm (s : State) (k id pos v : Nat) : State :=
  let c := s.core k
  s.setCore k { c with perm := c.perm.put [] (permStage id) (if pos = 0 then [v] else c.perm.get [] (permStage id) ++ [v]) }

/-- The entries of a table load: two bytes each. -/
def permLoadPart (s : State) (w : Who) (t : Entry) (c : Tmpl) : Part :=
  runElements s w t (cntOf c 0) fun s p =>
    let a := vadd (addr0 c) (2 * p)
    (s.engRead w a 1).bind fun s lo => (s.engRead w (a + 1) 1).bind fun s hi =>
      .ok (s.stagePerm w.core (permId c) p (leNat (lo ++ hi))) (0, [])

/-- A table holds at most 4,096 entries (R219). -/
def permLoadOk (_k : Core) (c : Tmpl) : Bool := decide (cntOf c 0 ≤ 4096)

/-- `cp.perm` with TLOAD = 1 (R219). -/
def execCpPermLoad (w : CmdAt) (c : Tmpl) (s : State) : Host.Outcome State Fault Refusal :=
  .next (s.runCommand .ce w c (opCode c = 4 && flagX c) permLoadOk permLoadPart)

/-- The TABLE condition of an application (R219). -/
def permUsable (k : Core) (c : Tmpl) : Bool :=
  let t := k.perm.get [] (permId c)
  decide (t ≠ []) && decide (cntOf c 1 ≤ t.length) && (t.take (cntOf c 1)).all fun x => decide (x < cntOf c 1)

/-- The elements of a table application. -/
def permApplyPart (s : State) (w : Who) (t : Entry) (c : Tmpl) : Part :=
  let k := s.core w.core
  if t.pos = 0 && !permUsable k c then { s := s, pos := 0, since := 0, tags := [], end_ := .faulted fTable 0 }
  else
    let tb := k.perm.get [] (permId c)
    runElements s w t (copyCount c) fun s p => s.copyElem w t (eszOf c) (permSrc c tb p) (permDst c p)

/-- CNT2 to CNT5 of an application are zero (R219). -/
def permApplyOk (_k : Core) (c : Tmpl) : Bool := [8, 9, 10, 11].all fun i => fieldOf c i = 0

/-- `cp.perm` with TLOAD = 0 (R219). -/
def execCpPermApply (w : CmdAt) (c : Tmpl) (s : State) : Host.Outcome State Fault Refusal :=
  .next (s.runCommand .ce w c (opCode c = 4 && !flagX c) permApplyOk permApplyPart)

/-! ### `cp.amo` (R221) -/

/-- The operation and type of a `cp.amo`. -/
def amoOp (c : Tmpl) : Nat := fieldOf c 24 % 16
def amoTy (c : Tmpl) : Nat := fieldOf c 24 / 16 % 16

/-- The fields of a `cp.amo` that R221 allows. -/
def amoOk (_k : Core) (c : Tmpl) : Bool :=
  amoAllowed (amoOp c) (amoTy c) && [7, 8, 9, 10, 11].all fun i => fieldOf c i = 0

/-- One operation leaves for its target's home (R221): its operand is read, and its target checked. Its target bytes count toward the
tile boundary of R214 whether it will write them or not, as a failed `cas` does not (DESIGN CHOICE, log entry 70). -/
def State.amoElem (s : State) (w : Who) (t : Entry) (c : Tmpl) (i : Nat) : ERes (Nat × List Nat) :=
  let ty := amoTy c
  let n := amoSize ty
  let on := if amoOp c = 7 then 2 * n else n
  let a := vadd (addr0 c) (i * (strOf c 0 * srcUnit c))
  let b := vadd (addr1 c) (i * (sfield c 26 * dstUnit c))
  if a.toNat % on ≠ 0 then eFault s fAlign a
  else if b.toNat % n ≠ 0 then eFault s fAlign b
  else
    (s.engRead w a on).bind fun s bs =>
      (s.engAlias w t.wseq b (.mem b n)).bind fun s _ =>
        (s.amoTarget w b n).bind fun s p =>
          let lo := leNat (bs.take n)
          let hi := leNat (bs.drop n)
          let o := s.origin w.core w.agent
          let f : AmoF :=
            { core := w.core, seq := t.seq, idx := i, op := amoOp c, ty := ty, place := p, va := b,
              operand := if amoOp c = 7 then hi else lo, compare := lo, asn := (s.core w.core).asn, asked := false, origin := o.2 }
          let r := (o.1.countWrite w p n).addFlight (.amo f)
          .ok r.1 (n, [r.2])

/-- The operations of a `cp.amo`. -/
def amoPart (s : State) (w : Who) (t : Entry) (c : Tmpl) : Part :=
  runElements s w t (cntOf c 0) fun s i => s.amoElem w t c i

/-- A `cp.amo` of an operation (R221); the reserved operations 8 to 15 fault in the row of `add`. -/
def State.amoCmd (s : State) (op : Nat) (w : CmdAt) (c : Tmpl) : State :=
  s.runCommand .ce w c (opCode c = 6 && (amoOp c = op || (op = 0 && decide (8 ≤ amoOp c)))) amoOk amoPart

/-- `cp.amo` add (R221). -/
def execCpAmoAdd (w : CmdAt) (c : Tmpl) (s : State) : Host.Outcome State Fault Refusal := .next (s.amoCmd 0 w c)
/-- `cp.amo` min (R221). -/
def execCpAmoMin (w : CmdAt) (c : Tmpl) (s : State) : Host.Outcome State Fault Refusal := .next (s.amoCmd 1 w c)
/-- `cp.amo` max (R221). -/
def execCpAmoMax (w : CmdAt) (c : Tmpl) (s : State) : Host.Outcome State Fault Refusal := .next (s.amoCmd 2 w c)
/-- `cp.amo` and (R221). -/
def execCpAmoAnd (w : CmdAt) (c : Tmpl) (s : State) : Host.Outcome State Fault Refusal := .next (s.amoCmd 3 w c)
/-- `cp.amo` or (R221). -/
def execCpAmoOr (w : CmdAt) (c : Tmpl) (s : State) : Host.Outcome State Fault Refusal := .next (s.amoCmd 4 w c)
/-- `cp.amo` xor (R221). -/
def execCpAmoXor (w : CmdAt) (c : Tmpl) (s : State) : Host.Outcome State Fault Refusal := .next (s.amoCmd 5 w c)
/-- `cp.amo` xchg (R221). -/
def execCpAmoXchg (w : CmdAt) (c : Tmpl) (s : State) : Host.Outcome State Fault Refusal := .next (s.amoCmd 6 w c)
/-- `cp.amo` cas (R221). -/
def execCpAmoCas (w : CmdAt) (c : Tmpl) (s : State) : Host.Outcome State Fault Refusal := .next (s.amoCmd 7 w c)

end Sys2Proof.Machine
end

