-- ==== Sys2Proof/Machine/MemAccess.lean ====
section
/-!
DEFINITION. Scalar loads and stores (R161 to R169, R226 to R233).
-/

namespace Sys2Proof.Machine

/-- ALIGN where an address is not a multiple of the size (R161). -/
def aligned (s : State) (va : VAddr) (size : Nat) (k : Res) : Res :=
  if va.toNat % size ≠ 0 then .trap s (mkTrap .align va.toNat size 0 0) else k

/-- Translate for the executing context; a failure traps PAGE or PROT at the access (R161). -/
def xlate (s : State) (a : Acc) (va : VAddr) (k : State → Place → Option Nat → Res) : Res :=
  match s.translate s.focusCore s.focusFw a va with
  | (s, .page) => .trap s (mkTrap .page va.toNat 0 0 0)
  | (s, .prot) => .trap s (mkTrap .prot va.toNat 0 0 0)
  | (s, .wait) => .wait s
  | (s, .ok p w) => k s p w

/-- Bytes of the cask scratch area are the expander's (R277). -/
def notScratch (s : State) (va : VAddr) (o n : Nat) (k : Res) : Res :=
  if !s.focusFw && s.curCore.inScratch o n then .trap s (mkTrap .prot va.toNat 0 0 0) else k

/-- An access that is more than relaxed, at a scope that orders (R166). -/
def ordered (o : MemOrd) (sc : Scope) : Bool := decide (o ≠ .relaxed) && decide (sc ≠ .lane)

/-- A load's bytes as its destination receives them (R162). -/
def loadValue (size : Nat) (sext : Bool) (v : Nat) : W64 :=
  if sext then BitVec.ofInt 64 (signed (8 * size) v) else BitVec.ofNat 64 v

/-- The marks a load can leave (R169, R231, R408): EINFO0 and EINFO1 differ by the cause. -/
def poison (cause : Cause) (e0 e1 : W64) (r : Reg) : Option Mark :=
  some { trap := { cause := cause, e0 := e0, e1 := e1, e2 := BitVec.ofNat 64 r.toNat, e3 := 0 }, of := none }

/-- The registers a load fills with their parts of its bytes (R162, R167). -/
def loadParts (d : Reg) (size : Nat) (sext : Bool) (bs : List Byte) : List (Reg × W64) :=
  if size = 16 then [(d, BitVec.ofNat 64 (leNat (bs.take 8))), (d + 1, BitVec.ofNat 64 (leNat (bs.drop 8)))]
  else [(d, loadValue size sext (leNat bs))]

/-- Deliver a load's registers. -/
def Ctx.deliverAll (c : Ctx) (mark : Reg → Option Mark) (l : List (Reg × W64)) : Ctx :=
  l.foldl (fun c p => c.deliver p.1 p.2 (mark p.1)) c

/-- Mark a load's registers PENDING. -/
def Ctx.pend (c : Ctx) (d : Reg) (size : Nat) : Ctx :=
  if size = 16 then (c.setFE d .pending).setFE (d + 1) .pending else c.setFE d .pending

/-- The sc stores of a context that are performed need not be followed any more (R370): once all are, the scalar data cache, which may
hold lines older than what was sc-earlier, is empty. -/
def State.followSc (s : State) (k : Nat) (fw : Bool) : State :=
  let c := s.core k
  let x := c.ctx fw
  match x.scLast.filter fun p => !s.performed k p.2 p.1 with
  | [] => if x.scLast.isEmpty then s else s.setCore k { c.setCtx fw { x with scLast := [] } with dcache := [] }
  | l => s.setCtx k fw { x with scLast := l }

/-- The read of another package leaves once what it must follow is performed (R165, R370), and behind the context's own writes there and
its older accesses to the same bytes (R164). -/
def State.askRemote (s : State) (tag : Nat) (l : LoadF) : State :=
  let asn := (s.core l.core).asn
  match remoteFields asn l.place with
  | none => s
  | some _ =>
    if l.asked || !s.allPerformed l.core l.after || s.writesTo tag l.core (.scalar l.fw) l.place
        || s.olderOverlap tag l.core (.scalar l.fw) l.place l.size true true then s
    else (s.setFlight tag (.load { l with asked := true })).send (rdPacket s.pkg l.core tag asn l.size l.place)

/-- The record of a scalar load that is to be bound later (R162): what it must follow is what R165 lists for an sc load, and the context's
sc stores (R370). -/
def loadFlight (s : State) (d : Reg) (sc : Scope) (o : MemOrd) (size : Nat) (sext : Bool) (va : VAddr) (p : Place) (win : Option Nat) :
    LoadF :=
  let copy := match p with | .home key => s.hasCopy (dieOf s.focusCore) (lineOf key) | _ => false
  { core := s.focusCore, fw := s.focusFw, asn := s.curCore.asn, d := d, size := size, sext := sext, va := va, pc := s.cur.pc, place := p,
    ord := if ordered o sc then o else .relaxed, scope := sc,
    after := (if o = .sc then s.orderAfter s.focusCore s.focusFw sc else []) ++ s.cur.scLast,
    due := s.tb + s.readLat s.focusCore p copy, asked := false, data := none, bad := false, refused := false,
    nak := none, use := win }

/-- A scalar load leaves (R162): its registers are PENDING until it is delivered. -/
def State.sendLoad (s : State) (l : LoadF) : Res :=
  let r := s.addFlight (.load l)
  let s := r.1.askRemote r.2 l
  .ok (s.setCur (s.cur.pend l.d l.size).advance)

/-- A scalar load (R161, R162, R165). One of the own scratchpad is performed at its issue, unless it has to follow what is not performed
yet. -/
def loadWord (d : Reg) (a : AReg) (sc : Scope) (o : MemOrd) (off : BitVec 10) (size : Nat) (sext : Bool) (s : State) : Res :=
  let go : Res :=
    let va := effAddr s.cur a off size
    aligned s va size (xlate s .load va fun s p win =>
      if s.acquiring s.focusCore s.focusFw then .wait s
      else
        let own := match p with | .spad c x => if c = s.focusCore then some x else none | _ => none
        match own with
        | some x =>
          notScratch s va x size
            (let s := s.followSc s.focusCore s.focusFw
             let l := loadFlight s d sc o size sext va p win
             if !s.allPerformed l.core l.after || s.olderOverlap s.nextTag l.core (.scalar l.fw) p size true false then s.sendLoad l
             else
               let s := if ordered o sc then s.acquire s.focusCore sc else s
               let c := s.curCore
               if c.spadBad x size then
                 let f := s.freeVal 128
                 let m := poison .ecc (s.cur.pc.setWidth 64) (va64 va)
                 .ok (f.1.setCur (f.1.cur.deliverAll m (loadParts d size sext (leBytes size f.2))).advance)
               else .ok (s.setCur (s.cur.deliverAll (fun _ => none) (loadParts d size sext (c.spadRead x size))).advance))
        | none =>
          if s.anyFlight fun _ f => match f with
              | .store t => t.core = s.focusCore && t.agent = .scalar s.focusFw && placesMeet p size t.place t.bytes.length &&
                  (match p with | .remote .. => true | .rwin .. => true | _ => false)
              | _ => false then .wait s
          else
            let s := s.followSc s.focusCore s.focusFw
            s.sendLoad (loadFlight s d sc o size sext va p win))
  waitDest s d (if size = 16 then waitDest s (d + 1) go else go)

def execLdI8 (d : Reg) (a : AReg) (sc : Scope) (o : MemOrd) (off : BitVec 10) (s : State) :=
  (loadWord d a sc o off 1 true s).out
def execLdN8 (d : Reg) (a : AReg) (sc : Scope) (o : MemOrd) (off : BitVec 10) (s : State) :=
  (loadWord d a sc o off 1 false s).out
def execLdI16 (d : Reg) (a : AReg) (sc : Scope) (o : MemOrd) (off : BitVec 10) (s : State) :=
  (loadWord d a sc o off 2 true s).out
def execLdN16 (d : Reg) (a : AReg) (sc : Scope) (o : MemOrd) (off : BitVec 10) (s : State) :=
  (loadWord d a sc o off 2 false s).out
def execLdI32 (d : Reg) (a : AReg) (sc : Scope) (o : MemOrd) (off : BitVec 10) (s : State) :=
  (loadWord d a sc o off 4 true s).out
def execLdN32 (d : Reg) (a : AReg) (sc : Scope) (o : MemOrd) (off : BitVec 10) (s : State) :=
  (loadWord d a sc o off 4 false s).out
def execLd64 (d : Reg) (a : AReg) (sc : Scope) (o : MemOrd) (off : BitVec 10) (s : State) :=
  (loadWord d a sc o off 8 false s).out
def execLdp (d : Reg) (a : AReg) (sc : Scope) (o : MemOrd) (off : BitVec 10) (s : State) :=
  (loadWord d a sc o off 16 false s).out

/-! ### Stores -/

/-- The allowance of a window (R232): 0 quad, 1 die, 2 remote. -/
def Ctx.wallow (c : Ctx) (w : Nat) : Wallow :=
  match w with | 0 => c.wallowQ | 1 => c.wallowD | _ => c.wallowX

/-- The allowance of a window replaced. -/
def Ctx.setWallow (c : Ctx) (w : Nat) (x : Wallow) : Ctx :=
  match w with | 0 => { c with wallowQ := x } | 1 => { c with wallowD := x } | _ => { c with wallowX := x }

/-- OUT rises (R233). -/
def Ctx.addOut (c : Ctx) (win : Option Nat) : Ctx :=
  match win with
  | some w => c.setWallow w { c.wallow w with out := (c.wallow w).out + 1 }
  | none => c

/-- OUT falls, and REF counts a refusal (R231, R233). -/
def Ctx.dropOut (c : Ctx) (w : Nat) (refused : Bool) : Ctx :=
  let x := c.wallow w
  c.setWallow w { x with out := x.out - 1, ref := if refused then satInc x.ref 65535 else x.ref }

/-- A window store that would raise OUT above LIMIT (R233). -/
def Ctx.outFull (c : Ctx) (win : Option Nat) : Bool :=
  match win with
  | some w => decide ((c.wallow w).limit < (c.wallow w).out + 1)
  | none => false

/-- The line of a data cache after a store to it (R144). -/
def updateLine (line key : Nat) (bs old : List Byte) : List Byte :=
  old.mapIdx fun i b => if key ≤ line * 64 + i && line * 64 + i < key + bs.length then (bs[line * 64 + i - key]?).getD b else b

/-- A scalar store updates a line that the data cache holds (R144). -/
def Core.dcUpdate (c : Core) (key : Nat) (bs : List Byte) : Core :=
  { c with dcache := c.dcache.map fun p => if (linesOf key bs.length).contains p.1 then (p.1, updateLine p.1 key bs p.2) else p }

/-- A scalar store of bytes whose sources have been read (R161, R163, R165, R277, R305). -/
def storeBytes (s : State) (va : VAddr) (sc : Scope) (o : MemOrd) (bs : List Byte) : Res :=
  aligned s va bs.length (xlate s .store va fun s p win =>
    if s.acquiring s.focusCore s.focusFw then .wait s
    else
      let own := match p with | .spad c x => if c = s.focusCore then some x else none | _ => none
      match own with
      | some x =>
        notScratch s va x bs.length (checkWrites s [.mem va bs.length] fun s =>
          if ordered o sc && !s.released s.focusCore s.focusFw sc then .wait s
          else if s.olderOverlap s.nextTag s.focusCore (.scalar s.focusFw) p bs.length true false then .wait s
          else
            let s := s.setCurCore (s.curCore.spadWrite x bs)
            .ok (if ordered o sc then s.markRelease s.focusCore sc else s).retire)
      | none =>
        checkWrites s [.mem va bs.length] fun s =>
          if s.cur.outFull win then .wait s
          else
            let after := if ordered o sc then s.orderAfter s.focusCore s.focusFw sc else []
            let r := s.origin s.focusCore (.scalar s.focusFw)
            let t : StoreF :=
              { core := s.focusCore, agent := .scalar s.focusFw, seq := 0, place := p, va := va, bytes := bs, ord := o,
                scope := sc, after := after, win := win, asn := s.curCore.asn, origin := r.2, begun := false }
            let q := r.1.addFlight (.store t)
            let s := if ordered o sc then q.1.markRelease s.focusCore sc else q.1
            let s := s.setCurCore (match p with | .home key => s.curCore.dcUpdate key bs | _ => s.curCore)
            let c := if o = .sc && sc ≠ .lane then { s.cur with scLast := s.cur.scLast ++ [(q.2, sc)] } else s.cur
            .ok (s.setCur (c.addOut win).advance))

/-- A scalar store word: field d is its data source, read with policy fa (R163). -/
def storeWord (d : Reg) (a : AReg) (fa : Bool) (sc : Scope) (o : MemOrd) (off : BitVec 10) (size : Nat) (s : State) : Res :=
  raised s fun s => readSrc s d fa fun v => storeBytes s (effAddr s.cur a off size) sc o (leBytes size v.toNat)

def execSt8 (d : Reg) (a : AReg) (fa : Bool) (sc : Scope) (o : MemOrd) (off : BitVec 10) (s : State) :=
  (storeWord d a fa sc o off 1 s).out
def execSt16 (d : Reg) (a : AReg) (fa : Bool) (sc : Scope) (o : MemOrd) (off : BitVec 10) (s : State) :=
  (storeWord d a fa sc o off 2 s).out
def execSt32 (d : Reg) (a : AReg) (fa : Bool) (sc : Scope) (o : MemOrd) (off : BitVec 10) (s : State) :=
  (storeWord d a fa sc o off 4 s).out
def execSt64 (d : Reg) (a : AReg) (fa : Bool) (sc : Scope) (o : MemOrd) (off : BitVec 10) (s : State) :=
  (storeWord d a fa sc o off 8 s).out
/-- `stp` stores s(d) and s(d+1) (R167). -/
def execStp (d : Reg) (a : AReg) (fa : Bool) (sc : Scope) (o : MemOrd) (off : BitVec 10) (s : State) :=
  (raised s fun s => readSrc s d fa fun v => readSrc s (d + 1) fa fun w =>
    storeBytes s (effAddr s.cur a off 16) sc o (leBytes 8 v.toNat ++ leBytes 8 w.toNat)).out

end Sys2Proof.Machine
end

