-- ==== Sys2Proof/Machine/Arrive.lean ====
section
/-!
DEFINITION. The steps that end an access in flight: delivery of a load, arrival and acknowledgement of a window access, a write at
its home, and invalidations of die copies (R144, R162 to R169, R223, R224, R229 to R231, R360 to R363).
-/

namespace Sys2Proof.Machine

/-! ### Loads -/

/-- What follows a load follows also the writes that it may have read: those whose invalidations of the line are on their way
(R367). -/
def State.joinAfter (s : State) (tag line : Nat) : State :=
  let ofs := s.pendingOf line
  let more (l : List (Nat × Scope)) : List (Nat × Scope) :=
    match l.find? fun p => p.1 = tag with
    | some p => l ++ ofs.map fun t => (t, p.2)
    | none => l
  if ofs.isEmpty then s
  else
    { s with flights := s.flights.map fun p => (p.1, p.2.map fun f =>
        match f with
        | .store t => .store { t with after := more t.after }
        | .load l => .load { l with after := more l.after }
        | .arrive k sc n after => .arrive k sc n (more after)
        | f => f) }

/-- A scalar store of a core to a line is in flight: the data cache, which shows it already (R144), serves no load before it is performed,
neither an older one (R164) nor one of the other context (R360). -/
def State.lineStored (s : State) (k line : Nat) : Bool :=
  s.anyFlight fun _ f => match f with
    | .store t =>
      t.core = k && (match t.agent with | .scalar _ => true | _ => false)
        && (match t.place with | .home key => (linesOf key t.bytes.length).contains line | _ => false)
    | _ => false

/-- A load's bytes from memory of this package (R144, R361): a relaxed load that follows nothing, and no write of its own whose invalidation is
on its way, may be served by the data cache, which then keeps the line; another reads memory. Own stores in flight are laid over them (R164). -/
def State.bindLoad (s : State) (tag : Nat) (l : LoadF) (key : Nat) : State × List Byte :=
  let c := s.core l.core
  let line := lineOf key
  let g : Agent := .scalar l.fw
  let r : State × List Byte :=
    if l.ord = .relaxed && l.after.isEmpty && !s.ownInval l.core g line && !s.lineStored l.core line then
      match c.dcache.find? fun p => p.1 = line with
      | some p => (s, (p.2.drop (key % 64)).take l.size)
      | none =>
        let q := s.readLine l.core g (line * 64) 64
        let c := q.1.core l.core
        (q.1.setCore l.core { c with dcache := ((line, q.2) :: c.dcache).take 512 }, (q.2.drop (key % 64)).take l.size)
    else
      let q := s.readVia l.core g (l.size + 1) key l.size
      (q.1.setCore l.core ((q.1.core l.core).dcDrop [line]), q.2)
  (r.1.joinAfter tag line, r.1.forward l.core g tag l.place l.size r.2)

/-- An uncorrectable error is found in memory of this package (R448): the granules of the access stay marked. -/
def State.markBad (s : State) (p : Place) (n : Nat) : State :=
  match p with
  | .home key => { s with memBad := (granules key n ++ s.memBad).dedup }
  | _ => s

/-- What a load delivers: its bytes, and the mark that each of its registers gets (R162, R169, R231, R408). -/
def State.loadResult (s : State) (tag : Nat) (l : LoadF) (bad : Bool) : State × List Byte × (Reg → Option Mark) :=
  let zero := List.replicate l.size (0 : Byte)
  let pc := l.pc.setWidth 64
  match l.nak with
  | some n => (s, zero, poison .fabricNak (BitVec.ofNat 64 n) pc)
  | none =>
    if l.refused then (s, zero, poison .prot pc (va64 l.va))
    else if bad then
      let f := (s.markBad l.place l.size).freeVal 128
      (f.1.tell (.ecc l.core 0xFF), leBytes l.size f.2, poison .ecc pc (va64 l.va))
    else
      match l.place, l.data with
      | .home key, _ => let q := s.bindLoad tag l key; (q.1, q.2, fun _ => none)
      | _, some bs => (s, bs, fun _ => none)
      | _, none => (s, zero, fun _ => none)

/-- An acquire load joins what happens before the writes of its line that it may read (R366). -/
def State.joinRead (s : State) (l : LoadF) : State :=
  match l.place with
  | .home key => if l.ord = .relaxed then s else s.joinWrites l.core fun x _ => (linesOf key l.size).contains x
  | _ => s

/-- `LOAD_DELIVERY` (R162, R165, R169, R231, R408): no sooner than the path's latency, in the order of R164, and after what the load
must follow; an acquire load also behind its context's own stores to its bytes, since it reads memory (R144, R371). `bad` is an
uncorrectable error, whose data is a free value (log entry 4). -/
def execLoadDelivery (tag : Nat) (bad : Bool) (s : State) : Host.Outcome State Fault Refusal :=
  match s.flight tag with
  | some (.load l) =>
    let here := match l.place with | .home _ => true | _ => false
    let ready := here || l.data.isSome || l.refused || l.nak.isSome
    if !ready then .next (s.askRemote tag l)
    else if s.tb < l.due || s.olderOverlap tag l.core (.scalar l.fw) l.place l.size true (l.ord ≠ .relaxed)
        || !s.allPerformed l.core l.after then
      .next s
    else
      let bad := bad || l.bad || match l.place with | .home key => s.homeBad key l.size | _ => false
      let r := (s.joinRead l).loadResult tag l bad
      let s := r.1.endFlight tag
      let s := s.setCtx l.core l.fw ((s.ctx l.core l.fw).deliverAll r.2.2 (loadParts l.d l.size l.sext r.2.1))
      .next (if l.ord = .relaxed then s else s.acquire l.core l.scope)
  | _ => .next s

/-! ### Granules of commands (R223, R224) -/

/-- Two pieces are of one command and of one granule. -/
def StoreF.mate (t x : StoreF) : Bool :=
  t.core = x.core && t.agent = x.agent && t.seq = x.seq && decide (t.place.granule = x.place.granule)

/-- Two addresses lie in one granule. -/
def sameGranule (a b : VAddr) : Bool := a.toNat / 16 = b.toNat / 16

/-- A command has elements still to write in the granule of a piece: the granule is not begun before they have been sent (R223). -/
def State.moreToCome (s : State) (t : StoreF) : Bool :=
  match s.command t.core .ce t.seq with
  | some en =>
    match en.built with
    | some c =>
      t.agent = .lane .ce && !en.done && decide (eszOf c < 16)
        && ((List.range (copyCount c)).drop en.pos).any fun p => sameGranule (copyDst c p) t.va
    | none => false
  | none => false

/-- Where a scratchpad address of a core lies. -/
def State.spadPlace (s : State) (k : Nat) (va : VAddr) : Option Place :=
  if va.toNat / 2 ^ 64 = 0xFF then
    match s.aperture k (va.toNat % 2 ^ 64) with
    | .ok p _ => some p.granule
    | _ => none
  else none

/-- Bytes of an element that a command of the copy engine reads: `cp.amo` ignores ESZ and reads operands of its type (R215, R221). -/
def readSize (c : Tmpl) : Nat := if opCode c = 6 then (if amoOp c = 7 then 2 else 1) * amoSize (amoTy c) else eszOf c

/-- A copy has read a part of a granule of a scratchpad and is still to read another (R224). -/
def State.halfRead (s : State) (k : Nat) (en : Entry) (p : Place) : Bool :=
  match en.built with
  | some c =>
    let hit (i : Nat) : Bool := decide (s.spadPlace k ((s.core k).copySrc c i) = some p)
    en.started.isSome && !en.done && decide (readSize c < 16) && decide (0 < en.pos) && (List.range en.pos).any hit
      && ((List.range (copyCount c)).drop en.pos).any hit
  | none => false

/-- A piece of a command waits until its granule is its own: no other command has begun it, and no copy has half read it. Scalar
stores and forced work go on. -/
def State.granuleWaits (s : State) (t : StoreF) : Bool :=
  match t.agent with
  | .lane _ =>
    let p := t.place.granule
    !t.begun &&
      (s.moreToCome t
        || (s.anyFlight fun _ f => match f with
            | .store x => x.begun && decide (x.place.granule = p) && !t.mate x
            | _ => false)
        || (match p with
            | .spad .. => s.cores.any fun c => c.2.ce.q.any fun en => !(c.1 = t.core && t.agent = .lane .ce && en.seq = t.seq) && s.halfRead c.1 en p
            | _ => false))
  | _ => false

/-- The granule of a piece is begun: the other pieces that its command has sent to it go on before any other command's. -/
def State.beginGranule (s : State) (t : StoreF) : State :=
  match t.agent with
  | .lane _ =>
    { s with flights := s.flights.map fun p => (p.1, p.2.map fun f =>
        match f with
        | .store x => if t.mate x then .store { x with begun := true } else f
        | f => f) }
  | _ => s

/-! ### Window accesses -/

/-- The pieces of a command behind one that is refused are not performed (R346). -/
def State.dropBehind (s : State) (tag : Nat) (t : StoreF) : State :=
  { s with flights := s.flights.filter fun p =>
      match p.2 with
      | some (.store x) => !(decide (tag < p.1) && x.core = t.core && x.agent = t.agent && x.seq = t.seq)
      | _ => true }

/-- A refused posted write (R231): a scalar store is acknowledged as refused, a command has a fault, and forced work fails. A store of
the vector engine ends there (R346). -/
def State.refuseStore (s : State) (tag : Nat) (t : StoreF) : State :=
  match t.agent with
  | .scalar fw => s.setFlight tag (.winAck t.core fw (t.win.getD 2) true)
  | .lane e =>
    let s := if e = .ve then s.dropBehind tag t else s
    (s.endFlight tag).remoteFault t.core e t.seq fProt (va64 t.va)
  | .forced => (s.endFlight tag).forcedFault t.core fProt (va64 t.va)

/-- A store of the vector engine performs its elements in rising order (R346): an earlier piece of the command is still on its way. -/
def State.veBehind (s : State) (tag : Nat) (t : StoreF) : Bool :=
  decide (t.agent = .lane .ve) && s.anyFlight fun u f => decide (u < tag) && match f with
    | .store x => x.core = t.core && x.agent = t.agent && x.seq = t.seq
    | .remoteWrite w => w.core = t.core && w.eng = some (.ve, t.seq)
    | _ => false

/-- The pieces that a scratchpad performs with one (R471): those of the same command and granule, where the vector engine stores;
oldest first. -/
def State.piecesWith (s : State) (tag : Nat) (t : StoreF) : List (Nat × StoreF) :=
  if t.agent = .lane .ve then
    s.flights.filterMap fun p => match p.2 with
      | some (.store x) => if t.mate x then some (p.1, x) else none
      | _ => none
  else [(tag, t)]

/-- Posted writes of one granule of a scratchpad are performed together. -/
def State.spadPieces (s : State) (c : Nat) (l : List (Nat × StoreF)) : State :=
  l.foldl (fun s p =>
    match p.2.place with
    | .spad _ o => (s.setCore c ((s.core c).spadWrite o p.2.bytes)).endFlight p.1
    | _ => s) s

/-- `WINDOW_ACCESS_ARRIVAL` (R229 to R231, R471): a core's scratchpad performs a posted write or a load, or refuses it. Posted writes of a
context arrive at one core in issue order; pieces of an engine's are unordered, but for their granules, and but for those of a store of
the vector engine (R346). What comes from another die follows its causal predecessors (R363). -/
def execWindowAccessArrival (tag : Nat) (s : State) : Host.Outcome State Fault Refusal :=
  match s.flight tag with
  | some (.store t) =>
    match t.place with
    | .spad c o =>
      let before := s.anyFlight fun u f => decide (u < tag) && match f, t.agent with
        | .store x, .scalar _ => x.core = t.core && x.agent = t.agent && (match x.place with | .spad d _ => d = c | _ => false)
        | _, _ => false
      if before || !s.leftDie tag t || s.veBehind tag t || s.granuleWaits t
          || (decide (dieOf c ≠ t.origin.die) && s.causalWait t.origin (dieOf c)) then .next s
      else if c ≠ t.core && s.windowRefused t.asn c o t.bytes.length then .next (s.refuseStore tag t)
      else
        let s := (s.spadPieces c (s.piecesWith tag t)).beginGranule t
        .next (match t.agent with
          | .scalar fw => s.setFlight tag (.winAck t.core fw (t.win.getD 2) false)
          | _ => s)
    | _ => .next s
  | some (.load l) =>
    match l.place with
    | .spad c o =>
      if l.data.isSome || l.refused || s.olderOverlap tag l.core (.scalar l.fw) l.place l.size true true
          || !s.allPerformed l.core l.after then .next s
      else if c ≠ l.core && s.windowRefused l.asn c o l.size then .next (s.setFlight tag (.load { l with refused := true }))
      else .next (s.setFlight tag (.load { l with data := some ((s.core c).spadRead o l.size), bad := (s.core c).spadBad o l.size }))
    | _ => .next s
  | _ => .next s

/-- `WINDOW_STORE_ACK` (R231, R233): OUT falls, and a refusal is counted in REF. -/
def execWindowStoreAck (tag : Nat) (s : State) : Host.Outcome State Fault Refusal :=
  match s.flight tag with
  | some (.winAck core fw w no) => .next ((s.endFlight tag).setCtx core fw ((s.ctx core fw).dropOut w no))
  | _ => .next s

/-! ### Homes and die copies -/

/-- A write to another package takes its minimal route (R403, R406): a scalar window write, and a write of a command with SCOPE pod. -/
def State.straight (s : State) (t : StoreF) : Bool :=
  match t.agent, t.place with
  | .scalar _, .rwin .. => true
  | .lane e, _ => match s.command t.core e t.seq with | some en => (match en.built with | some c => en.scope c = .pod | none => true) | none => true
  | _, _ => false

/-- An earlier write of an agent to the same granule of another package is not acknowledged: one that may take another route waits. -/
def State.writtenThere (s : State) (tag : Nat) (t : StoreF) : Bool :=
  s.anyFlight fun u f => decide (u < tag) && match f with
    | .remoteWrite w => w.core = t.core && w.agent = t.agent && decide (w.place.granule = t.place.granule)
    | _ => false

/-- The pieces that leave in one packet with one (R223): those of the same command and granule of another package. -/
def State.packetWith (s : State) (tag : Nat) (t : StoreF) : List (Nat × StoreF) :=
  match t.agent with
  | .lane _ => s.flights.filterMap fun p => match p.2 with
      | some (.store x) => if t.mate x then some (p.1, x) else none
      | _ => none
  | _ => [(tag, t)]

/-- The bytes of a granule that pieces write, oldest first: a value for each byte that one writes. -/
def granuleBytes (l : List (Nat × StoreF)) : List (Option Byte) :=
  (List.range 16).map fun i => l.foldl (fun v p =>
    let o := p.2.va.toNat % 16
    if o ≤ i then (match p.2.bytes[i - o]? with | some b => some b | none => v) else v) none

/-- A write leaves for another package (R406, R414): a piece, or with a mask of the bytes in ARG[46:31] the pieces of one command in its
granule (log entry 6). -/
def State.sendWrite (s : State) (tag : Nat) (t : StoreF) : State :=
  let l := s.packetWith tag t
  let bs := granuleBytes l
  let alone := decide (l.length ≤ 1)
  let n := if alone then t.bytes.length else (bs.filter Option.isSome).length
  let mask := (List.range 16).foldl (fun m i => if ((bs[i]?).join).isSome then m + 2 ^ i else m) 0
  match remoteFields t.asn (if alone then t.place else t.place.granule) with
  | none => s
  | some (q, pa, arg) =>
    let s := s.setCore t.core ((s.core t.core).addSent q n)
    let s := l.foldl (fun s p => if p.1 = tag then s else s.endFlight p.1) s
    let eng := match t.agent with | .lane e => some (e, t.seq) | _ => none
    let ord := s.straight t
    let s := s.setFlight tag (.remoteWrite
      { core := t.core, agent := t.agent, win := t.win, eng := eng, place := t.place, va := t.va, asn := t.asn })
    s.send { opc := 1, ackreq := true, ord := ord, dpkg := q, spkg := s.pkg, score := t.core, tag := tag % 65536,
             pa := pa, arg := if alone then arg else arg ||| BitVec.ofNat 64 (mask * 2 ^ 31), rsv := false,
             data := if alone then t.bytes else bs.map (·.getD 0) }

/-- `HOME_WRITE_APPLY` (R236, R360, R361, R363): the home applies an arriving write in the order of R363, R164 and R165, and
sends invalidations. A write to another package leaves here as a posted WR, a window write in issue order (R230, R414). -/
def execHomeWriteApply (tag : Nat) (s : State) : Host.Outcome State Fault Refusal :=
  match s.flight tag with
  | some (.store t) =>
    if !s.leftDie tag t then .next s
    else
      match t.place with
      | .home key =>
        if s.heldBack tag t.origin.die (homeDie key) t.origin || s.veBehind tag t || s.granuleWaits t then .next s
        else
          .next ((((s.endFlight tag).beginGranule t).quadDrop t.core key t.bytes.length).homeWrite t.origin tag key t.bytes)
      | .spad .. => .next s
      | p =>
        let scalar := match t.agent with | .scalar _ => true | _ => false
        let before := scalar && s.anyFlight fun u f => decide (u < tag) && match f, p with
          | .store x, .rwin q c _ => x.core = t.core && x.agent = t.agent && (match x.place with | .rwin g d _ => g = q && d = c | _ => false)
          | _, _ => false
        if before || s.veBehind tag t || s.granuleWaits t || (!s.straight t && s.writtenThere tag t) then .next s
        else .next (s.sendWrite tag t)
  | _ => .next s

/-- The new entry of a swapped page where a TLB holds the old one (R243; log entry 9). -/
def State.fixTlb (s : State) (line : Nat) (t : TlbEnt) : TlbEnt :=
  let e : W64 := BitVec.ofNat 64 (leNat (readBytes s.mem (homeKey t.at_) 8))
  if s.ownPkg (nbits t.at_ 55 45) && lineOf (homeKey t.at_) = line && decide (e = flipPh t.pte) then { t with pte := e } else t

/-- Answers to other packages whose invalidations have all been applied here leave (R361, R362). -/
def State.settleAcks (s : State) (of : Nat) : State :=
  if s.anyFlight fun _ f => match f with | .inval _ _ w _ => w = of | _ => false then s
  else
    (s.flightTags fun f => match f with | .owed w _ => w = of | _ => false).foldl (fun s t =>
      match s.flight t with
      | some (.owed _ p) => (s.endFlight t).send p
      | _ => s) s

/-- The shadow pages whose swap an invalidation brings to a die: base of the pair, and PH as it is now. -/
def State.swapsOf (s : State) (line d : Nat) : List (Nat × Bool) :=
  let fresh (t : TlbEnt) : Option (Nat × Bool) :=
    let u := s.fixTlb line t
    if decide (u.pte ≠ t.pte) && s.ownPkg (nbits (pteAddr u.pte) 55 45) then some (homeKey (pteAddr u.pte), ptePh u.pte) else none
  (((s.die d).tlb ++ s.cores.flatMap fun p => if dieOf p.1 = d then p.2.tlb else []).filterMap fresh).dedup

/-- An invalidation is applied on a die: the copy goes, and on the writer's die the line goes from the data caches of the writer's
quad (R144); a swapped entry of a page table reaches the TLBs, and the accesses of the die on their way to its frames (R189). -/
def State.invalidate (s : State) (line d : Nat) (o : Origin) : State :=
  let fix := s.fixTlb line
  let s := (s.swapsOf line d).foldl (fun s p => s.reaim (fun k => dieOf k = d) p.1 p.2) s
  let x := s.die d
  let s := s.setDie d { x with copies := x.copies.erase line, tlb := x.tlb.map fix }
  let s := { s with cores := s.cores.map fun p => (p.1, if dieOf p.1 = d then { p.2 with tlb := p.2.tlb.map fix } else p.2) }
  match o.maker with
  | some (k, _) => if dieOf k = d then s.mapCores (quadCores k) (·.dcDrop [line]) else s
  | none => s

/-- `DIE_COPY_INVALIDATION` (R361, R363): the die applies an invalidation. -/
def execDieCopyInvalidation (tag : Nat) (die : Nat) (s : State) : Host.Outcome State Fault Refusal :=
  match s.flight tag with
  | some (.inval line d of o) =>
    if d ≠ die || s.heldBack tag (homeDie (line * 64)) d o then .next s
    else .next (((s.endFlight tag).invalidate line d o).settleAcks of)
  | _ => .next s

/-- `DIE_COPY_EVICT` (R361). -/
def execDieCopyEvict (die line : Nat) (s : State) : Host.Outcome State Fault Refusal :=
  let x := s.die die
  .next (s.setDie die { x with copies := x.copies.erase line })

end Sys2Proof.Machine
end

