-- ==== Sys2Proof/Machine/Flags.lean ====
section
/-!
DEFINITION. The flags of `FCSR` (R137, R182): sticky events, the dynamic rounding mode, and the register's word.
-/

namespace Sys2Proof.Machine

/-- An FP instruction ORs its events into `FCSR` (R182). -/
def Ctx.orFlags (c : Ctx) (f : FlagSet) : Ctx :=
  { c with nv := c.nv || f.nv, dz := c.dz || f.dz, of := c.of || f.of, uf := c.uf || f.uf, nx := c.nx || f.nx }

/-- The encoding of a rounding mode (R137). -/
def rmCode (m : RMode) : Nat :=
  match m with
  | .rne => 0 | .rtz => 1 | .rup => 2 | .rdn => 3

/-- `FCSR` as a word (R137). -/
def Ctx.fcsr (c : Ctx) : W64 :=
  BitVec.ofNat 64 ((if c.nv then 256 else 0) + (if c.dz then 128 else 0) + (if c.of then 64 else 0)
    + (if c.uf then 32 else 0) + (if c.nx then 16 else 0) + rmCode c.rm)

/-- A write to `FCSR` (R137): RM 4 to 7 leaves RM unchanged and writes the other fields. -/
def Ctx.setFcsr (c : Ctx) (v : W64) : Ctx :=
  let n := v.toNat
  { c with
    nv := nbit n 8, dz := nbit n 7, of := nbit n 6, uf := nbit n 5, nx := nbit n 4
    rm := match n % 8 with
      | 0 => .rne | 1 => .rtz | 2 => .rup | 3 => .rdn | _ => c.rm }

/-- The rounding mode of a word: its field, or `FCSR.RM` as it stands at issue (R174). -/
def Ctx.roundMode (c : Ctx) (r : FRound) : RMode :=
  match r with
  | .rne => .rne | .rtz => .rtz | .rup => .rup | .rdn => .rdn | .dyn => c.rm

/-- Write an FP result and its events. -/
def writeF (s : State) (d : Reg) (r : W64 × FlagSet) : Res := .ok (s.setCur ((s.cur.orFlags r.2).setS d r.1).advance)

end Sys2Proof.Machine
end

