-- ==== Sys2Proof/Machine/Matrix.lean ====
section
/-!
DEFINITION. The commands of the program lane of the matrix engine (R316 to R337): operand slots, the latched weights,
accumulator tiles, and the checks of R324.
-/

namespace Sys2Proof.Machine

/-! ### Storage of the matrix engine (R318, R322) -/

/-- Bytes of operand memory from byte `o`, slot `n` standing at `n` × 16 KiB. -/
def Core.omRead (c : Core) (o n : Nat) : List Byte := readBytes c.om o n

/-- The place where the side store of a slot stands in the granule numbering of `omBad`. -/
def sideBase : Nat := 0x80000

/-- Granules of operand memory written whole are correct again (log entry 11). -/
def Core.omFix (c : Core) (o n : Nat) : Core :=
  { c with omBad := c.omBad.filter fun g => !(decide (o ≤ g * 16) && decide (g * 16 + 16 ≤ o + n)) }

/-- Write a slot from its first byte. -/
def Core.omWrite (c : Core) (slot : Nat) (bs : List Byte) : Core :=
  { c with om := writeBytes c.om (slot * 16384) bs }.omFix (slot * 16384) bs.length

/-- Write the side store of a slot. -/
def Core.sideWrite (c : Core) (slot : Nat) (bs : List Byte) : Core :=
  { c with omSide := writeBytes c.omSide (slot * 512) bs }.omFix (sideBase + slot * 512) bs.length

/-- Bytes of operand memory are uncorrectable (R448). -/
def Core.omUnc (c : Core) (o n : Nat) : Bool := c.omBad.any fun g => (granules o n).contains g

/-- Where an accumulator tile begins in the pool. -/
def Core.tileAt (c : Core) (t : Nat) : Nat := c.accBase + t * 16384

/-- Bytes of a tile, or of a pair, from byte `o`. -/
def Core.tileRead (c : Core) (t o n : Nat) : List Byte := c.poolRead (c.tileAt t + o) n

/-- Write bytes of a tile or pair from byte `o`. -/
def Core.tileWrite (c : Core) (t o : Nat) (bs : List Byte) : Core := c.poolWrite (c.tileAt t + o) bs

/-- Element `i` of a byte string of elements of `w` bytes. -/
def elemAt (bs : List Byte) (w i : Nat) : Nat := leNat ((bs.drop (i * w)).take w)

/-- The own-scratchpad address of an offset (R225). -/
def ownVa (o : Nat) : VAddr := BitVec.ofNat 72 (0xFF * 2 ^ 64 + o)

/-! ### Fields (R323) -/

/-- The scratchpad offset P. -/
def mxOff (c : Tmpl) : Nat := 64 * fieldOf c 24
/-- WFMT or AFMT. -/
def mxFmt (c : Tmpl) : Nat := fieldOf c 26 % 16
/-- ZFMT. -/
def mxZfmt (c : Tmpl) : Nat := fieldOf c 26 / 16 % 16
/-- The tile Z or Z0. -/
def mxTile (c : Tmpl) : Nat := fieldOf c 25 % 128
/-- MODE. -/
def mxMode (c : Tmpl) : RMode := match fieldOf c 26 / 256 % 4 with | 0 => .rne | 1 => .rtz | 2 => .rup | _ => .rdn
/-- N rows of a pass. -/
def mxRows (c : Tmpl) : Nat := fieldOf c 25 / 256 % 64 + 1
/-- KP. -/
def mxKp (c : Tmpl) : Nat := fieldOf c 26 / 256 + 1

/-- Every tile that a command names is backed (R24, R324). -/
def tilesBacked (k : Core) (c : Tmpl) : Bool := (tilesNamed c).all fun t => decide (t < k.backedTiles)

/-- Every slot that a program-lane command names is CLAIMED (R324). -/
def slotsClaimed (k : Core) (c : Tmpl) : Bool := (slotsNamed c).all fun n => decide (n < 32) && k.omSt.get .free n = .claimed

/-! ### Parts of a matrix command -/

/-- A command faults before its first write. -/
def partFault (s : State) (t : Entry) (cause : Byte) (a : W64) : Part :=
  { s := s, pos := t.pos, since := 0, tags := [], end_ := .faulted cause a }

/-- The alias check of the tiles a command writes (R303, R306); the address of a fault is zero. -/
def State.tilesAlias (s : State) (w : Who) (wseq : Nat) : List Nat → ERes Unit
  | [] => .ok s ()
  | t :: ts => (s.engAlias w wseq 0 (.tiles t 1)).bind fun s _ => State.tilesAlias s w wseq ts

/-- A part that goes on after an access, at a place of the command. -/
def ERes.part {α : Type} (r : ERes α) (t : Entry) (f : State → α → Part) : Part :=
  match r with
  | .ok s v => f s v
  | .fault s c a => partFault s t c a
  | .wait u => { s := u, pos := t.pos, since := 0, tags := [], end_ := .waiting }

/-- A range of the own scratchpad as a matrix command uses it (R324): within the scratchpad, and outside the scratch area. -/
def spadRange (k : Core) (o n : Nat) : Option (Byte × W64) :=
  if k.spadSize < o + n then some (fPage, BitVec.ofNat 64 (max o k.spadSize))
  else if k.inScratch o n then some (fProt, BitVec.ofNat 64 (max o (k.scrBase * 1024)))
  else none

/-- The lowest uncorrectable byte of a range of the own scratchpad. -/
def spadUnc (k : Core) (o n : Nat) : Option W64 :=
  match (granules (k.spadBase + o) n).find? fun g => k.bad.contains g with
  | some g => some (BitVec.ofNat 64 (max o (g * 16 - k.spadBase)))
  | none => none

/-- The command stands inside a part: `since` is 1 while the part runs, and 2 while the array drains behind it. -/
def inPart (s : State) (t : Entry) (since : Nat) (tags : List Nat) : Part :=
  { s := s, pos := t.pos, since := since, tags := tags, end_ := .waiting }

/-- The tick in which the running part of a core's matrix command ends. -/
def State.partTo (s : State) (k cycles : Nat) : State := s.setCore k { s.core k with partEnd := s.tb + cycles }

/-- A part begins, and takes a number of cycles. -/
def takes (s : State) (w : Who) (t : Entry) (cycles : Nat) (tags : List Nat) : Part := inPart (s.partTo w.core cycles) t 1 tags

/-- The running part has had its cycles. -/
def State.partOver (s : State) (k : Nat) : Bool := decide ((s.core k).partEnd ≤ s.tb)

/-- Go on from the end of part `t.pos` of `n` to the next, or stop at its tile boundary, or end. -/
def stepPart (s : State) (w : Who) (t : Entry) (c : Tmpl) (n : Nat) (next : State → Entry → Part) : Part :=
  if n ≤ t.pos + 1 then { s := s, pos := t.pos + 1, since := 0, tags := [], end_ := .finished 0 }
  else if s.goesOn w.core .me t c then next s { t with pos := t.pos + 1, since := 0 }
  else { s := s, pos := t.pos + 1, since := 0, tags := [], end_ := .boundary }

/-- A command of one part. -/
def single (s : State) (w : Who) (t : Entry) (c : Tmpl) (begin_ : Part) : Part :=
  if t.since = 0 then begin_
  else if s.partOver w.core then stepPart s w t c 1 fun s t => inPart s t 0 []
  else inPart s t t.since []

/-- Bytes of the own scratchpad as a matrix command reads them: with the earlier writes of its own queue (R222). -/
def State.mxSpad (s : State) (w : Who) (o n : Nat) : List Byte :=
  s.forward w.core w.agent s.nextTag (.spad w.core o) n ((s.core w.core).spadRead o n)

/-- Another command has written a granule of a range of the own scratchpad in part (R224). -/
def State.mxHalf (s : State) (w : Who) (o n : Nat) : Bool := (List.range (n / 16)).any fun i => s.halfWritten w (.spad w.core (o + 16 * i))

/-! ### `mx.movin` (R325) -/

/-- The formats and tiles of an `mx.movin`. -/
def movinOk (k : Core) (c : Tmpl) : Bool := opFlag c 3 || (decide (mxZfmt c ≤ 1) && tilesBacked k c)

/-- An `mx.movin`: 128 bytes a cycle. -/
def movinPart (s : State) (w : Who) (t : Entry) (c : Tmpl) : Part :=
  single s w t c <|
  let k := s.core w.core
  let n := if opFlag c 3 then (if opFlag c 4 then 16896 else 16384) else if mxZfmt c = 0 then 32768 else 16384
  if !slotsClaimed k c then partFault s t badField 0
  else
    match spadRange k (mxOff c) n with
    | some (f, a) => partFault s t f a
    | none =>
      if s.mxHalf w (mxOff c) n then inPart s t 0 []
      else
      (s.tilesAlias w t.wseq (tilesNamed c)).part t fun s _ =>
        let k := s.core w.core
        match spadUnc k (mxOff c) n with
        | some a => partFault s t fEcc a
        | none =>
          let bs := s.mxSpad w (mxOff c) n
          let k := if opFlag c 3 then
              let k := k.omWrite (fieldOf c 25 % 32) (bs.take 16384)
              if opFlag c 4 then k.sideWrite (fieldOf c 25 % 32) (bs.drop 16384) else k
            else k.tileWrite (mxTile c) 0 bs
          takes (s.setCore w.core k) w t (n / 128) []

/-- `mx.movin` (R325). -/
def execMxMovin (w : CmdAt) (c : Tmpl) (s : State) : Host.Outcome State Fault Refusal :=
  .next (s.runCommand .me w c (opCode c = 5) movinOk movinPart)

/-! ### `mx.wload` (R326) -/

/-- Bytes of a weight tile. -/
def weightBytes (code : Nat) : Nat := (passDepth code).getD 0 * 64 * fmtBytes code

/-- WFMT is a weight format, and a pair lies within the slots. -/
def wloadOk (_k : Core) (c : Tmpl) : Bool := decide (mxFmt c ≤ 6) && (slotsNamed c).all fun n => decide (n < 32)

/-- An `mx.wload`: the plane holds the tile and, for bq8, its scales behind it. -/
def wloadPart (s : State) (w : Who) (t : Entry) (c : Tmpl) : Part :=
  single s w t c <|
  let k := s.core w.core
  let sl := fieldOf c 24 % 32
  let n := weightBytes (mxFmt c)
  if !slotsClaimed k c then partFault s t badField 0
  else if k.omUnc (sl * 16384) n || (mxFmt c = 6 && k.omUnc (sideBase + sl * 512) 512) then partFault s t fEcc 0
  else
    let p := writeBytes [] 0 (k.omRead (sl * 16384) n)
    let p := if mxFmt c = 6 then writeBytes p 32768 (readBytes k.omSide (sl * 512) 512) else p
    takes (s.setCore w.core { k with plane := p, wv := true, wfmt := mxFmt c, kw := (passDepth (mxFmt c)).getD 0 }) w t
      (if mxFmt c = 0 || mxFmt c = 6 then 128 else 64) []

/-- `mx.wload` (R326). -/
def execMxWload (w : CmdAt) (c : Tmpl) (s : State) : Host.Outcome State Fault Refusal :=
  .next (s.runCommand .me w c (opCode c = 1) wloadOk wloadPart)

/-! ### `mx.zero` (R328) -/

/-- The tiles of an `mx.zero`: 1 to 128, all backed. -/
def zeroOk (k : Core) (c : Tmpl) : Bool := decide (fieldOf c 6 < 128) && tilesBacked k c

/-- One tile of an `mx.zero`: 4 cycles. -/
def zeroTile (w : Who) (c : Tmpl) (s : State) (t : Entry) : Part :=
  let z := mxTile c + t.pos
  (s.tilesAlias w t.wseq [z]).part t fun s _ =>
    takes (s.setCore w.core ((s.core w.core).tileWrite z 0 (List.replicate 16384 0))) w t 4 []

/-- An `mx.zero` from one tile to the next. -/
def zeroPart (s : State) (w : Who) (t : Entry) (c : Tmpl) : Part :=
  if t.since = 0 then zeroTile w c s t
  else if s.partOver w.core then stepPart s w t c (cntOf c 0) (zeroTile w c)
  else inPart s t t.since []

/-- `mx.zero` (R328). -/
def execMxZero (w : CmdAt) (c : Tmpl) (s : State) : Host.Outcome State Fault Refusal :=
  .next (s.runCommand .me w c (opCode c = 3) zeroOk zeroPart)

/-! ### `mx.mov` (R329) -/

/-- The formats of an `mx.mov` and its tiles. -/
def movOk (k : Core) (c : Tmpl) : Bool :=
  (opFlag c 3 || (mxZfmt c = 1 && decide (1 ≤ mxFmt c) && decide (mxFmt c ≤ 5)) || (mxZfmt c = 0 && decide (mxFmt c ≤ 1)))
    && tilesBacked k c

/-- The bytes that an `mx.mov` writes, from those of its tile or pair. -/
def movBytes (c : Tmpl) (bs : List Byte) : List Byte :=
  let w := fmtBytes (mxZfmt c)
  if opFlag c 3 then bs
  else (List.range 4096).flatMap fun i =>
    leBytes (fmtBytes (mxFmt c)) ((convert (mxZfmt c) (mxFmt c) (elemAt bs w i) (mxMode c) (opFlag c 4)).getD 0)

/-- An `mx.mov` of either kind: 128 bytes a cycle, its writes in pieces (R229). -/
def movPart (s : State) (w : Who) (t : Entry) (c : Tmpl) : Part :=
  single s w t c <|
  let k := s.core w.core
  let n := if opFlag c 3 then 16384 else 4096 * fmtBytes (mxFmt c)
  let m := if !opFlag c 3 && mxZfmt c = 0 then 32768 else 16384
  match spadRange k (mxOff c) n with
  | some (f, a) => partFault s t f a
  | none =>
    (s.engAlias w t.wseq (ownVa (mxOff c)) (.mem (ownVa (mxOff c)) n)).part t fun s _ =>
      let k := s.core w.core
      if k.poolBad (k.tileAt (mxTile c)) m then partFault s t fEcc 0
      else (s.engWriteN w (ownVa (mxOff c)) (n + 1) (movBytes c (k.tileRead (mxTile c) 0 m))).part t fun s tags =>
        takes s w t ((n + 127) / 128) tags

/-- `mx.mov` (R329). -/
def execMxMov (w : CmdAt) (c : Tmpl) (s : State) : Host.Outcome State Fault Refusal :=
  .next (s.runCommand .me w c (opCode c = 4 && !opFlag c 3) movOk movPart)

/-- `mx.mov.raw` (R329). -/
def execMxMovRaw (w : CmdAt) (c : Tmpl) (s : State) : Host.Outcome State Fault Refusal :=
  .next (s.runCommand .me w c (opCode c = 4 && opFlag c 3) movOk movPart)

/-! ### `mx.run` (R327) -/

/-- AFMT is an activation format and every tile of every pass is backed. -/
def runOk (k : Core) (c : Tmpl) : Bool :=
  decide (mxFmt c ≤ 6) && (runPasses c).all (fun p => decide (0 ≤ p.2)) && tilesBacked k c

/-- Bytes of an activation row (R317). -/
def rowBytes (code : Nat) : Nat := (passDepth code).getD 0 * fmtBytes code

/-- The depth of a pass of a core's latched weights. -/
def runDepth (k : Core) (c : Tmpl) : Nat := min k.kw ((passDepth (mxFmt c)).getD 0)

/-- The checks of R324 that need the latched weights and the slots. -/
def runFields (k : Core) (c : Tmpl) : Bool :=
  let a := mxFmt c
  k.wv && pairOk a k.wfmt && decide (mxKp c ≤ runDepth k c) && (decide (a ≠ 6) || decide (mxKp c % 32 = 0))
    && (!opFlag c 5 || a = 6)
    && (runPasses c).all (fun p => decide (0 ≤ p.1) && decide (p.1 + mxRows c ≤ 32 * rowsPerSlot a))
    && slotsClaimed k c

/-- The TABLE condition of a run. -/
def runTableOk (k : Core) (c : Tmpl) : Bool :=
  let t := k.perm.get [] (fieldOf c 26 / 16 % 16)
  !opFlag c 4 || (decide (mxKp c ≤ t.length) && (t.take (mxKp c)).all fun x => decide (x < k.kw))

/-- Where the table of the running command is kept (R327: it is read once). -/
def runTable : Nat := 32

/-- The weight row that index `k` of a pass uses. -/
def weightRow (k : Core) (c : Tmpl) (i : Nat) : Nat := if opFlag c 4 then (k.perm.get [] runTable).getD i 0 else i

/-- The activation rows of a pass: each row's elements and block scales. -/
def actRow (k : Core) (code g : Nat) : List Byte × List Byte :=
  let o := g / rowsPerSlot code * 16384 + g % rowsPerSlot code * rowBytes code
  (k.omRead o (rowBytes code),
   if code = 6 then readBytes k.omSide (g / 64 * 512 + 8 * (g % 64)) 8 else [])

/-- Some byte that a pass reads from operand memory is uncorrectable. -/
def passUnc (k : Core) (c : Tmpl) (g : Nat) : Bool :=
  let a := mxFmt c
  (List.range (mxRows c)).any fun m =>
    let r := g + m
    k.omUnc (r / rowsPerSlot a * 16384 + r % rowsPerSlot a * rowBytes a) (rowBytes a)
      || (a = 6 && k.omUnc (sideBase + r / 64 * 512 + 8 * (r % 64)) 8)

/-- The products of one element from index `i`: `n` pairs of an activation and a weight. -/
def passPairs (k : Core) (c : Tmpl) (row : List Byte) (col i n : Nat) : List (Nat × Nat) :=
  let aw := fmtBytes (mxFmt c)
  let ww := fmtBytes k.wfmt
  (List.range n).map fun j =>
    (elemAt row aw (i + j), leNat (readBytes k.plane ((64 * weightRow k c (i + j) + col) * ww) ww))

/-- One element of a pass added into `z`. -/
def passElem (k : Core) (c : Tmpl) (row : List Byte × List Byte) (col z : Nat) : Nat :=
  let kp := mxKp c
  if opFlag c 5 then triple (passPairs k c row.1 col 0 kp)
  else if mxFmt c = 6 then
    (List.range (kp / 32)).foldl (fun z b =>
      addBlock z (passPairs k c row.1 col (32 * b) 32) (elemAt row.2 1 b) (leNat (readBytes k.plane (32768 + 64 * b + col) 1))) z
  else if mxFmt c = 0 then passF64 z (passPairs k c row.1 col 0 kp)
  else passF32 (mxFmt c) k.wfmt z (passPairs k c row.1 col 0 kp)

/-- One pass: rows from `g` into the tile or pair `t`. -/
def onePass (k : Core) (c : Tmpl) (g t : Nat) : Core :=
  let w := if mxFmt c = 0 then 8 else 4
  let old := k.tileRead t 0 (mxRows c * 64 * w)
  let new := (List.range (mxRows c)).flatMap fun m =>
    let row := actRow k (mxFmt c) (g + m)
    (List.range 64).flatMap fun n =>
      leBytes w (passElem k c row n (if opFlag c 3 then elemAt old w (64 * m + n) else 0))
  k.tileWrite t 0 new

/-- A pass of an `mx.run` begins: its rows are ready to enter (R327, R330). -/
def beginRun (w : Who) (c : Tmpl) (s : State) (t : Entry) : Part :=
  let k := s.core w.core
  if t.pos = 0 && !runFields k c then partFault s t badField 0
  else if t.pos = 0 && !runTableOk k c then partFault s t fTable 0
  else
    match (runPasses c)[t.pos]? with
    | none => { s := s, pos := t.pos, since := 0, tags := [], end_ := .finished 0 }
    | some (g, z) =>
      let named := if mxFmt c = 0 then [z.toNat, z.toNat + 1] else [z.toNat]
      (s.tilesAlias w t.wseq named).part t fun s _ =>
        let k := s.core w.core
        let k := if t.pos = 0 then
            { k with perm := k.perm.put [] runTable (if opFlag c 4 then k.perm.get [] (fieldOf c 26 / 16 % 16) else []) }
          else k
        let acc := opFlag c 3 && !opFlag c 5
        if passUnc k c g.toNat || (acc && k.poolBad (k.tileAt z.toNat) (mxRows c * 64 * (if mxFmt c = 0 then 8 else 4))) then
          partFault s t fEcc 0
        else
          let k := onePass k c g.toNat z.toNat
          let last := (runPasses c).length ≤ t.pos + 1
          let k := if last then { k with perm := k.perm.put [] runTable [] } else k
          let on := match k.rows with | some r => r.on && decide (s.tb ≤ r.next) | none => false
          let rows : Rows := { left := mxRows c, next := s.tb, q := rowCost (mxFmt c) k.wfmt, on := on }
          inPart (s.setCore w.core { k with rows := some rows }) t 1 []

/-- An `mx.run` from one pass to the next (R331, R332): where no other pass follows at once the array drains. -/
def runPart (s : State) (w : Who) (t : Entry) (c : Tmpl) : Part :=
  let k := s.core w.core
  let drain : Part := inPart ((s.setCore w.core { k with rows := none }).partTo w.core 127) { t with pos := t.pos + 1 } 2 []
  match t.since with
  | 0 => beginRun w c s t
  | 1 =>
    if k.rows.any fun r => r.busy s.tb then inPart s t 1 []
    else if (runPasses c).length ≤ t.pos + 1 || !s.goesOn w.core .me t c then drain
    else beginRun w c s { t with pos := t.pos + 1, since := 0 }
  | _ =>
    if !s.partOver w.core then inPart s t 2 []
    else if (runPasses c).length ≤ t.pos then { s := s, pos := t.pos, since := 0, tags := [], end_ := .finished 0 }
    else { s := s, pos := t.pos, since := 0, tags := [], end_ := .boundary }

/-- `mx.run` (R327). -/
def execMxRun (w : CmdAt) (c : Tmpl) (s : State) : Host.Outcome State Fault Refusal :=
  .next (s.runCommand .me w c (opCode c = 2) runOk runPart)

end Sys2Proof.Machine
end

