-- ==== Sys2Proof/Machine/Scatter.lean ====
section
/-!
DEFINITION. The commands of the scatter-accumulate engine (R392 to R400): the elements of a command, the window in which
contributions to one target join, and the entries sent to the homes.
-/

namespace Sys2Proof.Machine

/-! ### Fields (R392) -/

/-- The element type. -/
def saET (c : Tmpl) : Nat := fieldOf c 26 / 16 % 16
/-- VARR: values come from the value array. -/
def saArr (c : Tmpl) : Bool := opFlag c 5
/-- The atomic operation and type. -/
def saOp (c : Tmpl) : Nat := saeOp (opCode c)
def saTy (c : Tmpl) : Nat := (saeType (saET c)).getD 0
/-- The element size. -/
def saSize (c : Tmpl) : Nat := amoSize (saTy c)

/-- ET is one that R392 allows, and no floating type for logic (R394, R397). -/
def saOk (_k : Core) (c : Tmpl) : Bool :=
  match saeType (saET c) with
  | none => false
  | some ty => amoAllowed (saeOp (opCode c)) ty

/-! ### Elements (R394, R397) -/

/-- A contribution: its element number, target and value. -/
structure Contrib where
  e : Nat
  va : VAddr
  place : Place
  val : Nat

/-- The elements of a command that were read before a fault, and the fault. -/
structure Gathered where
  s : State
  list : List Contrib
  fault : Option (Byte × W64)

/-- The value of element `e` (R393, R394). -/
def saValue (k : Core) (t : Entry) (c : Tmpl) (e : Nat) : Except W64 Nat :=
  let n := saSize c
  if saArr c then
    let o := 64 * fieldOf c 25 + e * n
    match spadUnc k o n with
    | some a => .error a
    | none => .ok (leNat (k.spadRead o n))
  else .ok (t.value.toNat % 2 ^ (8 * n))

/-- One element as it enters the window: its index, value, and target with its checks. A granule of the value array that another queue has
written in part is not read (R224). -/
def State.saElement (s : State) (w : Who) (t : Entry) (c : Tmpl) (e : Nat) : ERes Contrib :=
  (s.engRead w (vadd (addr1 c) (4 * e)) 4).bind fun s ix =>
    if saArr c && s.halfWritten w (.spad w.core (64 * fieldOf c 25 + e * saSize c)) then .wait s
    else
    match saValue (s.core w.core) t c e with
    | .error a => .fault s fEcc a
    | .ok v =>
      let va := vadd (addr0 c) (leNat ix * saSize c)
      (s.engAlias w t.wseq va (.mem va (saSize c))).bind fun s _ =>
        (s.amoTarget w va (saSize c)).bind fun s p => .ok s { e := e, va := va, place := p, val := v }

/-- Read elements from `e` on, in rising order, to the end or a fault; `none` where an answer of another package is awaited. -/
def State.saGather (s : State) (w : Who) (t : Entry) (c : Tmpl) (e : Nat) : Nat → ERes Gathered
  | 0 => .ok s { s := s, list := [], fault := none }
  | n + 1 =>
    match s.saElement w t c e with
    | .wait s => .wait s
    | .fault s f a => .ok s { s := s, list := [], fault := some (f, a) }
    | .ok s x =>
      match State.saGather s w t c (e + 1) n with
      | .ok s g => .ok s { g with list := x :: g.list }
      | r => r

/-! ### The window (R395) -/

/-- An entry of the window: target and contributions in arrival order. -/
structure WinEnt where
  va : VAddr
  place : Place
  vals : List Nat
  lane : Option Nat

/-- The window: open entries, oldest first; entries sent, latest first; and the contributions that joined an entry. -/
structure Window where
  open_ : List WinEnt
  sent : List WinEnt
  merged : Nat

/-- A contribution enters the window. -/
def Window.enter (noMerge : Bool) (x : Window) (c : Contrib) : Window :=
  if noMerge then { x with sent := { va := c.va, place := c.place, vals := [c.val], lane := some (c.e % 64) } :: x.sent }
  else
    match x.open_.find? fun w => w.va = c.va with
    | some w =>
      let w' := { w with vals := w.vals ++ [c.val] }
      if w'.vals.length < 8 then
        { x with open_ := x.open_.map fun y => if y.va = c.va then w' else y, merged := x.merged + 1 }
      else { x with open_ := x.open_.filter (·.va ≠ c.va), sent := w' :: x.sent, merged := x.merged + 1 }
    | none =>
      let new : WinEnt := { va := c.va, place := c.place, vals := [c.val], lane := none }
      match x.open_ with
      | o :: os => if 64 ≤ x.open_.length then { x with open_ := os ++ [new], sent := o :: x.sent }
                   else { x with open_ := x.open_ ++ [new] }
      | [] => { x with open_ := [new] }

/-- Every entry of a list of contributions, in the order sent, and the count of joins. -/
def windowOf (noMerge : Bool) (l : List Contrib) : List WinEnt × Nat :=
  let x := l.foldl (Window.enter noMerge) { open_ := [], sent := [], merged := 0 }
  (x.sent.reverse ++ x.open_, x.merged)

/-- Entries leave for their homes; their tags. -/
def State.sendEntries (s : State) (w : Who) (seq : Nat) (c : Tmpl) : List WinEnt → State × List Nat
  | [] => (s, [])
  | x :: xs =>
    let o := s.origin w.core w.agent
    let f : SaeF := { core := w.core, seq := seq, op := saOp c, et := saTy c, place := x.place, va := x.va, vals := x.vals,
                      lane := x.lane, asn := (s.core w.core).asn, asked := false, origin := o.2 }
    let r := (o.1.countWrite w x.place (saSize c)).addFlight (.sae f)
    let q := State.sendEntries r.1 w seq c xs
    (q.1, r.2 :: q.2)

/-! ### The commands -/

/-- What is checked before any read (R397). -/
def saCheck (k : Core) (c : Tmpl) : Option (Byte × W64) :=
  if (addr0 c).toNat % saSize c ≠ 0 then some (fAlign, va64 (addr0 c))
  else if (addr1 c).toNat % 4 ≠ 0 then some (fAlign, va64 (addr1 c))
  else if saArr c then spadRange k (64 * fieldOf c 25) (cntOf c 0 * saSize c)
  else none

/-- `SAE.NOMERGE` as it stood when the command started (R400): `State.begin` keeps it as its place. -/
def saNoMerge (t : Entry) : Bool := t.pos = 2

/-- A contributing command: every element enters the window, 8 in a cycle (R399), and every entry is sent. -/
def saPart (s : State) (w : Who) (t : Entry) (c : Tmpl) : Part :=
  match saCheck (s.core w.core) c with
  | some (f, a) => partFault s t f a
  | none =>
    match s.saGather w t c 0 (cntOf c 0) with
    | .wait u => { onePart s (.wait u) with pos := t.pos }
    | .fault s f a => partFault s t f a
    | .ok s g =>
      let k := s.core w.core
      let x := windowOf (saNoMerge t) g.list
      let s := s.setCore w.core { k with merge := min 0xFFFFFFFF (k.merge + x.2) }
      let r := s.sendEntries w t.seq c x.1
      { s := r.1.countMove w 4 8 (cntOf c 0), pos := 0, since := 0, tags := r.2
        end_ := match g.fault with | some (f, a) => .faulted f a | none => .finished 0 }

/-- Run a contributing command. -/
def State.runSa (s : State) (w : CmdAt) (c : Tmpl) (code : Nat) : Host.Outcome State Fault Refusal :=
  .next (s.runCommand .sae w c (opCode c = code) saOk saPart)

/-- `sa.add` (R394). -/
def execSaAdd (w : CmdAt) (c : Tmpl) (s : State) : Host.Outcome State Fault Refusal := s.runSa w c 0x01
/-- `sa.min` (R394). -/
def execSaMin (w : CmdAt) (c : Tmpl) (s : State) : Host.Outcome State Fault Refusal := s.runSa w c 0x02
/-- `sa.max` (R394). -/
def execSaMax (w : CmdAt) (c : Tmpl) (s : State) : Host.Outcome State Fault Refusal := s.runSa w c 0x03
/-- `sa.and` (R394). -/
def execSaAnd (w : CmdAt) (c : Tmpl) (s : State) : Host.Outcome State Fault Refusal := s.runSa w c 0x04
/-- `sa.or` (R394). -/
def execSaOr (w : CmdAt) (c : Tmpl) (s : State) : Host.Outcome State Fault Refusal := s.runSa w c 0x05
/-- `sa.xchg` (R394). -/
def execSaXchg (w : CmdAt) (c : Tmpl) (s : State) : Host.Outcome State Fault Refusal := s.runSa w c 0x06

/-- A flush: it waits for the earlier commands of its queue, whoever runs them, and for every write whose invalidations are still on
their way, at its scope (R398). -/
def saFlushPart (s : State) (w : Who) (t : Entry) (_c : Tmpl) : Part :=
  if ((s.core w.core).eng .sae).ahead .sae t.seq then onePart s (.wait s)
  else
  let ofs := (s.flights.filterMap fun p => match p.2 with | some (.inval _ _ of _) => some of | _ => none).dedup
  { s := s, pos := 0, since := 0, tags := ofs, end_ := .finished 0 }

/-- `sa.flush` (R398). -/
def execSaFlush (w : CmdAt) (c : Tmpl) (s : State) : Host.Outcome State Fault Refusal :=
  .next (s.runCommand .sae w c (opCode c = 7) (fun _ _ => true) saFlushPart)

end Sys2Proof.Machine
end

