-- ==== Sys2Proof/Machine/Steal.lean ====
section
/-!
DEFINITION. Engines between commands: stealing (R210, R211), the suspension of walk-ins (R58), gating (R465) and the ramp of
the matrix engine (R389 to R391).
-/

namespace Sys2Proof.Machine

/-! ### Stealing (R210) -/

/-- The decode check of a command that may be stolen, and no permutation table named (R112, R210). -/
def stealable (k : Core) (e : Eng) (c : Tmpl) : Bool :=
  decide (opScope c < 6) &&
  match e with
  | .ce =>
    match opCode c with
    | 1 | 5 => true
    | 2 | 3 => packOk k c
    | 6 => amoOk k c
    | _ => false
  | .sae => if opCode c = 7 then true else (1 ≤ opCode c && opCode c ≤ 6) && saOk k c
  | _ => false

/-- The running use of a calendar is a standing use: no command carries it (R71, R470). -/
def State.standing (s : State) (c : Cal) : Bool := (s.cal c).uses.any fun u => u.start.isSome && !u.carried

/-- The entry that a thief may take next: the command directly behind the one the owner executes, stolen ones and markers left out
(log entry 42), or the head while the owner runs a standing use and executes no command. -/
def State.stealNext (s : State) (owner : Nat) (e : Eng) : Option Entry :=
  match ((s.core owner).eng e).q.filter fun t => t.isCommand e && t.thief.isNone with
  | [] => none
  | h :: r =>
    if h.isCommand e && h.started.isSome then r.head?
    else if calendared e && s.standing (engCal e owner) then some h
    else none

/-- The conditions of R210 on the thief. -/
def State.mayThieve (s : State) (thief owner : Nat) (e : Eng) (c : Tmpl) : Bool :=
  let x := s.core thief
  let o := s.core owner
  decide (thief ≠ owner) && !x.stopped && decide (quadOf thief = quadOf owner) && x.task.isSome && o.task.isSome && decide (x.asn = o.asn)
    && (x.eng e).q.isEmpty && !(x.eng e).flt && !s.stealing thief e
    && (e ≠ .ce || s.walkFits e thief (durOf c))

/-- The conditions of R210 on an entry and its command. Every store that its `q.tail` ordered is performed at quad scope already: the
`q.tail` waited for that at core scope, on the same die (R202, R362). Another thief that came in the same cycle was the one to take an
entry. -/
def State.mayBeStolen (s : State) (owner : Nat) (e : Eng) (t : Entry) (c : Tmpl) : Bool :=
  let o := s.core owner
  !s.savingRun owner && t.isCommand e && (t.decodeFault e).isNone && t.started.isNone && (o.eng e).loads.isEmpty && relOf c
    && (bookOf c).isNone && !opFlag c 3 && stealable o e c && o.waitMet c && !o.slotHeld e c
    && !(o.eng e).flt && !(o.eng e).q.any fun u => u.thief.isSome && decide (u.started = some s.tb)

/-- `STEAL` (R210): the entry starts on the thief, whose WAIT is taken on the owner's counter. -/
def execSteal (thief owner : Nat) (e : Eng) (seq : Nat) (s : State) : Host.Outcome State Fault Refusal :=
  match s.stealNext owner e with
  | none => .next s
  | some t =>
    match t.built with
    | none => .next s
    | some c =>
      if t.seq ≠ seq || !s.mayThieve thief owner e c || !s.mayBeStolen owner e t c then .next s
      else
        let x := (s.core thief).eng e
        if x.gate ≠ .awake then .next (s.setCore thief ((s.core thief).setEng e (x.wakeUp s.tb e)))
        else
          match s.begin owner e { t with thief := some thief } c none with
          | .no s => .next s
          | .go s _ => .next s

/-! ### Suspension (R58) -/

/-- The walk-in that an engine of a core runs: its own, or one it stole; with its owner. -/
def State.runningWalk (s : State) (k : Nat) (e : Eng) : Option (Nat × Entry) :=
  let pick (o : Nat) : Option (Nat × Entry) :=
    (((s.core o).eng e).q.find? fun t =>
      t.isCommand e && t.started.isSome && !t.done && t.runner o = k
        && (match t.built with | some c => (bookOf c).isNone | none => false)).map fun t => (o, t)
  (quadCores k).findSome? pick

/-- `WALKIN_SUSPEND` (R58): a booked berth has begun, and the walk-in stops at its tile boundary. -/
def execWalkinSuspend (core : Nat) (e : Eng) (s : State) : Host.Outcome State Fault Refusal :=
  match s.runningWalk core e with
  | none => .next s
  | some (o, t) =>
    if calendared e && t.since = 0 && !(s.cal (engCal e core)).poisoned && !s.freeUntil e core s.tb then .next (s.setCommand o e { t with susp := true })
    else .next s

/-! ### Gating (R465) -/

/-- Forced work uses an engine of a core: a use of one of its chains runs there (R300, R316). -/
def State.forcedOn (s : State) (k : Nat) (e : Eng) : Bool := calendared e && (s.cal (engCal e k)).uses.any fun u =>
  u.start.isSome && decide (u.id.pkg = s.pkg) && !u.id.hm && decide (u.id.core = k) && (s.core k).forcedWork.any (·.runs.any (·.id = u.id.xid))

/-- An engine executes a command, its own or a stolen one, up to its retirement, or forced work (R465). -/
def State.busy (s : State) (k : Nat) (e : Eng) : Bool :=
  s.forcedOn k e
    || (quadCores k).any fun o => ((s.core o).eng e).q.any fun t => t.isCommand e && t.started.isSome && t.runner o = k

/-- `ENGINE_GATE` (R465): an engine gates after 1,024 idle cycles. -/
def execEngineGate (core : Nat) (e : Eng) (s : State) : Host.Outcome State Fault Refusal :=
  let c := s.core core
  let x := c.eng e
  if x.gate = .awake && !s.busy core e && decide (x.idleFrom + 1024 ≤ s.tb) then
    .next (s.setCore core (c.setEng e { x with gate := .gated }))
  else .next s

/-- The head entry of an engine is a walk-in that waits only on its WAIT field (R474): it fits, too (R206, R209). -/
def State.headWaits (s : State) (k : Nat) (e : Eng) : Bool :=
  let c := s.core k
  let x := c.eng e
  match x.headCommand e with
  | none => false
  | some t =>
    match t.built with
    | none => false
    | some b =>
      t.started.isNone && (t.decodeFault e).isNone && (bookOf b).isNone && !x.flt && x.loads.isEmpty && !c.waitMet b
        && !c.slotHeld e b && s.walkFits e k (durOf b)

/-- The idle count of the engines of a core stands while their heads wait only on WAIT (R474). -/
def State.pauseIdle (s : State) (k n : Nat) : Core :=
  [Eng.ce, .me, .ve, .sae].foldl (fun c e =>
    if s.headWaits k e then c.setEng e { c.eng e with idleFrom := (c.eng e).idleFrom + n } else c) (s.core k)

/-- Time passes: `n` ticks (R26); a refill is applied at the start of its cycle (R142), and values written to token counters count from
it on (R474). -/
def State.passTime (s : State) (n : Nat) : State :=
  if n = 0 then s
  else
    { s with
      tb := s.tb + n
      cores := s.cores.map fun p => (p.1, { (s.pauseIdle p.1 n).refillTo (s.tb + n) with tkWas := [] }) }

/-- `UNGATE_COMPLETE` (R465). -/
def execUngateComplete (core : Nat) (e : Eng) (s : State) : Host.Outcome State Fault Refusal :=
  let c := s.core core
  let x := c.eng e
  match x.gate with
  | .ungating t =>
    if t ≤ s.tb then .next (s.setCore core (c.setEng e { x with gate := .awake, idleFrom := s.tb })) else .next s
  | _ => .next s

/-- `PRE_BERTH_UNGATE` (R465): a booked berth begins within two berths. -/
def execPreBerthUngate (core : Nat) (e : Eng) (s : State) : Host.Outcome State Fault Refusal :=
  let booked := [0, 1, 2].any fun i =>
    match (s.cal (engCal e core)).row (s.berth + i) with
    | some r => r.st = .booked
    | none => false
  if calendared e && booked then
    let c := s.core core
    .next (s.setCore core (c.setEng e ((c.eng e).wakeUp s.tb e)))
  else .next s

/-! ### The ramp of the matrix engine (R389) -/

/-- The cadence granted at a ramp position (R389, R391). -/
def rampGrant (ramp : W32) (p : Nat) : Nat := if 8 ≤ p then 1 else ramp.toNat / 2 ^ (4 * p) % 16

/-- Rows are entering a lane. -/
def Core.injects (c : Core) (now : Nat) : Bool :=
  (c.rows.any fun r => r.on && r.busy now) || c.frows.any fun r => r.on && r.busy now

/-- The engine stands at position 0: no rows enter, and none entered in the running step (R389). -/
def Core.atRest (c : Core) (now : Nat) : Bool := c.ramp = 0 && !c.rampRows && !c.injects now

/-- The program lane runs a command that injects no rows (R389, R474). -/
def Core.otherMatrix (c : Core) : Bool :=
  c.me.q.any fun t => t.started.isSome && !t.done && match t.built with | some b => decide (opCode b ≠ 2) | none => false

/-- A 4-cycle step ends (R389): rows were injected in it and the position rises, or it falls; the table is read anew (R391). -/
def Core.rampEdge (c : Core) (csl : W32) (now : Nat) : Core :=
  let c := { c with rampRows := c.rampRows || c.injects (now - 1) }
  if c.atRest now then { c with rampTbl := csl, rampDown := false }
  else if now < c.rampAt + 4 then c
  else
    let x := { c with rampAt := c.rampAt + 4, rampTbl := csl, rampRows := false }
    if c.rampDown then { x with ramp := c.ramp - 1, rampDown := decide (1 < c.ramp) }
    else if c.rampRows then { x with ramp := min (c.ramp + 1) 8 }
    else x

/-- A row of a lane enters (R330, R390): at the larger of the cadence and the grant; one at rest, or in a fall, begins a rise (R389). -/
def Core.enter (c : Core) (now : Nat) (r : Rows) : Core × Rows :=
  if r.left = 0 || decide (now < r.next) then (c, r)
  else
    let c := if c.atRest now || c.rampDown then { c with rampDown := false, rampAt := now, rampRows := true } else c
    (c, { r with left := r.left - 1, next := now + r.q * max c.cadence (rampGrant c.rampTbl c.ramp), on := true })

/-- Rows enter both lanes. -/
def Core.enterRows (c : Core) (now : Nat) : Core :=
  let c := match c.rows with
    | some r => let p := c.enter now r; { p.1 with rows := some p.2 }
    | none => c
  match c.frows with
  | some r => let p := c.enter now r; { p.1 with frows := some p.2 }
  | none => c

/-- The last row has used its row slots and no other is ready: the engine begins to fall (R389). -/
def Core.beginFall (c : Core) (now : Nat) : Core :=
  if c.rampDown || c.injects now || c.otherMatrix then c
  else if c.ramp = 0 then { c with rampRows := false }
  else { c with rampDown := true, rampAt := now, rampRows := false }

/-- `RAMP_STEP` (R330, R389 to R391, R474): a cycle of the row injection of a core and of its ramp. -/
def execRampStep (core : Nat) (s : State) : Host.Outcome State Fault Refusal :=
  let c := s.core core
  .next (if c.stopped then s else s.setCore core (((c.rampEdge (s.die (dieOf core)).ramp s.tb).enterRows s.tb).beginFall s.tb))

end Sys2Proof.Machine
end

