-- ==== Sys2Proof/Machine/Tiles.lean ====
section
/-!
DEFINITION. The tile instructions (R278 to R281, R293, R294, R308 to R310, R315): each runs the checks of R279 in order, and
then makes an entry, begins a demand, or drops a handle.
-/

namespace Sys2Proof.Machine

/-- ILLEGAL with a check and a detail (R279, R435). -/
def illegalAt (s : State) (check detail : Nat) : Res := .trap s (mkTrap .illegal s.word.toNat check detail 0)

/-! ### Making an entry -/

/-- Make a new entry and bind the destination handle (R273, R275). -/
def makeCask (s : State) (kd : Hnd) (desc : CaskDesc) (st : CaskState) (depth : Nat) (src : List Nat) : Res :=
  let c := s.curCore
  match c.freeEntry with
  | none => .trap s (mkTrap .caskFull kd.toNat tableSize 0 0)
  | some e =>
    let x : Cask :=
      { st := st, age := c.age, pc := s.cur.pc, seq := c.wseq, depth := depth, src := src, desc := desc, memo := [] }
    let c := { c.setCask e (some x) with age := c.age + 1 }
    .ok (s.setCurCore (c.bind kd (some e))).retire

/-- Begin to materialise entries before the word can go on (R308, R310). -/
def materialiseFirst (s : State) (es : List Nat) : Res :=
  let c := s.curCore
  let pins := es.filterMap fun e => (c.cask e).map fun x => (e, tilesOf (fullBox x.desc.ext))
  startDemand s ((Demand.new s.focusFw (.materialise es) c.wseq).more s s.focusCore pins)

/-- A free entry exists, or is made (R308, R309). -/
def needEntry (s : State) (kd : Hnd) (k : Res) : Res :=
  let c := s.curCore
  if c.freeEntry.isSome then k
  else if c.ovfTrap then .trap s (mkTrap .caskFull kd.toNat tableSize 0 0)
  else
    match c.oldestSink with
    | some e => materialiseFirst s [e]
    | none => .trap s (mkTrap .caskFull kd.toNat tableSize 0 0)

/-- The first accumulator tile of a view that PART does not back (R24). -/
def Core.unbacked (c : Core) (v : ViewDesc) : Option Nat :=
  let t := v.tiles
  if v.acc && decide (c.backedTiles < t.1 + t.2) then some (max t.1 c.backedTiles) else none

/-- `t.view` (R281). -/
def execTView (kd : Hnd) (a : AReg) (s : State) :=
  (coreState s (raised s fun s =>
    readDesc s (s.cur.getA a) 64 fun s bs =>
      match viewReserved bs with
      | some o => illegalAt s 5 o
      | none =>
        let v := viewOf bs
        match s.curCore.unbacked v with
        | some z => illegalAt s 4 z
        | none => needEntry s kd (makeCask s kd (.view v) .view 0 []))).dropReads.out

/-- The first handle of a list that is not bound. -/
def Core.unboundHnd (c : Core) (hs : List Hnd) : Option Hnd := hs.find? fun h => (c.hnd h).isNone

/-- The source handles of an operation: ka, kb, SRC2, SRC3 as NSRC asks (R278, R285). -/
def sourceHnds (bs : List Byte) (ka kb : Hnd) : List Hnd :=
  [ka, kb, BitVec.ofNat 6 (field bs 5 1), BitVec.ofNat 6 (field bs 6 1)].take (nsrcOf bs)

/-- The checks of an operation descriptor that has been read, and its entry (R279, R287, R308 to R310). -/
def createOp (s : State) (op : CaskOp) (kd ka kb : Hnd) (bs : List Byte) : Res :=
  let c := s.curCore
  match opReserved op bs with
  | some o => illegalAt s 5 o
  | none =>
    let hs := sourceHnds bs ka kb
    match c.unboundHnd hs with
    | some h => illegalAt s 7 h.toNat
    | none =>
      let src := hs.filterMap c.hnd
      let xs := src.filterMap c.cask
      let srcs := xs.map Cask.desc
      let d := opOf op bs
      match opReservedFor d srcs, badMap d srcs with
      | some o, _ => illegalAt s 5 o
      | none, some i => illegalAt s 6 i
      | none, none =>
        needEntry s kd
          (let depth := 1 + xs.foldl (fun m x => max m x.depth) 0
           if maxDepth < depth then
             materialiseFirst s (src.filter fun e => ((c.cask e).map Cask.depth).getD 0 = maxDepth)
           else makeCask s kd (.op d) .pending depth src)

/-- An operation word (R279, R285): the header is read first, then one map for each source. -/
def opWord (op : CaskOp) (kd ka kb : Hnd) (a : AReg) (s : State) : Res :=
  coreState s (raised s fun s =>
    readDesc s (s.cur.getA a) 32 fun s hd =>
      readDesc s (s.cur.getA a) (32 + 32 * nsrcOf hd) fun s bs => createOp s op kd ka kb bs)

def execTMm (kd ka kb : Hnd) (a : AReg) (s : State) := (opWord .mm kd ka kb a s).dropReads.out
def execTEw (kd ka kb : Hnd) (a : AReg) (s : State) := (opWord .ew kd ka kb a s).dropReads.out
def execTRed (kd ka : Hnd) (a : AReg) (s : State) := (opWord .red kd ka 0 a s).dropReads.out
def execTTr (kd ka : Hnd) (a : AReg) (s : State) := (opWord .tr kd ka 0 a s).dropReads.out
def execTCvt (kd ka : Hnd) (a : AReg) (s : State) := (opWord .cvt kd ka 0 a s).dropReads.out
def execTPerm (kd ka : Hnd) (a : AReg) (s : State) := (opWord .perm kd ka 0 a s).dropReads.out

/-! ### Demands (R293, R294) -/

/-- The three demanding words. -/
inductive DemandKind where
  | st | pub | tap
deriving DecidableEq, Repr

/-- A view may stand as the destination of a demand (R294): an address view, for `tap` one of own scratchpad, or an
accumulator view. -/
def destKind (k : DemandKind) (v : ViewDesc) : Bool :=
  match k with
  | .st | .pub => !v.acc
  | .tap =>
    v.acc ||
      (let i := v.interval (fullBox v.ext)
       decide (0xFF * 2 ^ 64 ≤ i.1.toNat) && decide (i.1.toNat + i.2 ≤ 0xFF * 2 ^ 64 + 0x400000))

/-- The handle that fails the check of a demand's handles (R279, R294). -/
def Core.badHandle (c : Core) (k : DemandKind) (kv kc : Hnd) : Option Hnd :=
  let dest := match (c.hnd kv).bind c.cask with
    | some x => match x.desc with | .view v => destKind k v | _ => false
    | none => false
  if kv = kc then (if k = .tap && (c.hnd kc).isSome then none else some kv)
  else if !dest then some kv
  else if (c.hnd kc).isNone then some kc
  else none

/-- The lowest offset of a box field that the demanded cask and the destination do not allow (R291, R293). -/
def boxReserved (bs : List Byte) (x : CaskDesc) (dest : Option ViewDesc) : Option Nat :=
  let org (i : Nat) : Nat := field bs (2 * i) 2
  let ext (i : Nat) : Nat := field bs (0x10 + 2 * i) 2
  let fmtBad := match dest with | some v => decide (v.fmt ≠ x.fmt) | none => false
  let badOrg (i : Nat) : Bool := decide (nth x.ext i ≤ org i) || (decide (i = 0) && (fmtBad || (x.fmt = 6 && org 0 % 32 ≠ 0)))
  let badExt (i : Nat) : Bool :=
    decide (nth x.ext i ≤ org i + ext i)
      || (match dest with | some v => decide (nth v.ext i ≤ ext i) | none => false)
      || (decide (i = 0) && x.fmt = 6 && (ext 0 + 1) % 32 ≠ 0 &&
          !(decide (org 0 + ext 0 + 1 = nth x.ext 0) &&
            (match dest with | some v => decide (ext 0 + 1 = nth v.ext 0) | none => true)))
  match (List.range 6).find? badOrg, (List.range 6).find? badExt with
  | some i, _ => some (2 * i)
  | none, some i => some (0x10 + 2 * i)
  | none, none => none

/-- A demand whose checks have passed: its work and its chains (R295, R300, R313). Firmware raises no counter (R304): what was published
before its demand carries the value of the counter at most (R334). -/
def beginDemand (s : State) (k : DemandKind) (kv kc : Hnd) (ev ec : Nat) (bs : List Byte) (x : Cask) (dest : Option ViewDesc) :
    Res :=
  let c := s.curCore
  let org := (List.range 6).map fun i => field bs (2 * i) 2
  let ext := (List.range 6).map fun i => field bs (0x10 + 2 * i) 2
  let done := ((c.boxDone.find? fun b =>
    b.fw = s.focusFw && b.kv = kv.toNat && b.kc = kc.toNat && b.ev = ev && b.ec = ec && b.box = bs).map BoxDone.tiles).getD []
  if dest.isNone && x.st = .view then .ok s.retire
  else
    let d := Demand.new s.focusFw
      (.box kv.toNat kc.toNat ev ec (k = .tap) (k = .pub) bs org ext (field bs 0x0C 2 % 8))
      (if s.focusFw then c.wseq + 1 else c.wseq)
    let todo := boxTodo done (tilesOf (boxOf org ext))
    let staging := match dest with
      | some v => s.mustStage s.focusCore ec todo (todo.flatMap fun t => v.writes (destBox org (tilePart x.desc.ext t (boxOf org ext))))
      | none => false
    startDemand s { d with
      chains := s.demandChains s.focusCore ec dest org ext todo staging
      need := (c.needOf (c.plan (maxDepth + 1) ec todo []) ++ todo.map fun t => (ec, t)).dedup
      staging := staging
      done := done }

/-- A demanding word (R279, R293, R294). -/
def demandWord (k : DemandKind) (kv kc : Hnd) (a : AReg) (s : State) : Res :=
  coreState s (raised s fun s =>
    readDesc s (s.cur.getA a) 32 fun s bs =>
      let c := s.curCore
      let sc := field bs 0x0C 2 % 8
      if k = .pub && (sc = 0 || 6 ≤ sc) then illegalAt s 5 0x0C
      else
        match c.badHandle k kv kc, (c.hnd kv), (c.hnd kc) with
        | some h, _, _ => illegalAt s 7 h.toNat
        | none, some ev, some ec =>
          match c.cask ec with
          | none => illegalAt s 7 kc.toNat
          | some x =>
            let dest := if kv = kc then none
              else match (c.cask ev).map Cask.desc with | some (.view v) => some v | _ => none
            match boxReserved bs x.desc dest with
            | some o => illegalAt s 5 o
            | none =>
              let go (s : State) : Res := beginDemand s k kv kc ev ec bs x dest
              match k, dest with
              | .pub, some v =>
                let box := (List.range 6).map fun i => (0, field bs (0x10 + 2 * i) 2)
                match s.checkPages s.focusCore (pagesOf (v.writes box)) with
                | .bad s t => .trap s t
                | .wait s => .wait s
                | .ok s => go s
              | _, _ => go s
        | none, _, _ => illegalAt s 7 kc.toNat)

def execTSt (kv kc : Hnd) (a : AReg) (s : State) := (demandWord .st kv kc a s).dropReads.out
def execTPub (kv kc : Hnd) (a : AReg) (s : State) := (demandWord .pub kv kc a s).dropReads.out
def execTap (kv kc : Hnd) (a : AReg) (s : State) := (demandWord .tap kv kc a s).dropReads.out

/-- `t.drop` (R315). -/
def execTDrop (kd : Hnd) (s : State) :=
  (coreState s (raised s fun s => .ok (s.setCurCore (s.curCore.bind kd none)).retire)).out

end Sys2Proof.Machine
end

