-- ==== Sys2Proof/Machine/Sync.lean ====
section
/-!
DEFINITION. Ordering words and barriers: `fence` (R184, R185), `pub` (R187, R188), `bar` with its counters (R380 to R384), the
sluice window (R385), and pod barriers (R383, R388).
-/

namespace Sys2Proof.Machine

/-! ### `fence` -/

/-- Every earlier load of a context is performed (R184). -/
def State.loadsDone (s : State) (k : Nat) (fw : Bool) : Bool :=
  !s.anyFlight fun _ f => match f with | .load l => l.core = k && l.fw = fw | _ => false

/-- `fence` (R184, R185): it holds its context until the accesses it orders are performed. An acquire joins what happens before the values
of earlier loads (R363, R364). -/
def execFence (kind : FenceKind) (sc : Scope) (s : State) : Host.Outcome State Fault Refusal :=
  let k := s.focusCore
  let acq := kind ≠ .rel
  let rel := kind ≠ .acq
  let ready := sc = .lane || ((!acq || s.loadsDone k s.focusFw) && (!rel || s.released k s.focusFw sc))
  (if ready then
    let s := if acq then (s.acquire k sc).joinWrites k fun _ of => sc ≠ .lane && (s.die (dieOf k)).seen.contains of else s
    Res.ok (if rel then s.markRelease k sc else s).retire
   else .wait s).out

/-! ### `pub` -/

/-- A range of a publication: its first page and its 64 KiB units. -/
structure PubRange where
  base : VAddr
  npg : Nat

/-- The ranges of a range list (R187). -/
def pubRanges (bs : List Byte) : List PubRange :=
  (List.range (field bs 0 1 % 16)).map fun j =>
    { base := BitVec.ofNat 72 (field bs (16 + 16 * j) 8 + field bs (24 + 16 * j) 1 * 2 ^ 64), npg := field bs (26 + 16 * j) 4 }

/-- The pages of a range, in order. -/
def PubRange.pages (r : PubRange) : List VAddr := (List.range r.npg).map fun (i : Nat) => vadd r.base (65536 * i)

/-- The checks and the effect of a `pub` whose list is read (R188). -/
def pubBody (s : State) (sc : Scope) (rs : List PubRange) : Res :=
  let k := s.focusCore
  if rs.isEmpty || decide (8 < rs.length) || rs.any (fun r => r.npg = 0) then illegalAt s 5 0
  else
    match rs.find? fun r => decide (r.base.toNat % 65536 ≠ 0) with
    | some r => .trap s (mkTrap .align r.base.toNat 65536 0 0)
    | none =>
      let pages := rs.flatMap PubRange.pages
      match s.checkPages k pages with
      | .bad s t => .trap s t
      | .wait s => .wait s
      | .ok s =>
        checkWrites s (rs.map fun r => .mem r.base (65536 * r.npg)) fun s =>
          if s.released k s.focusFw sc && !s.entriesHeld k (.scalar s.focusFw) pages then
            .ok ((s.swapPages k (.scalar s.focusFw) sc pages).markRelease k sc).retire
          else .wait s

/-- `pub` (R187, R188), an access that an earlier acquire load holds (R165). -/
def execPub (a : AReg) (sc : Scope) (s : State) : Host.Outcome State Fault Refusal :=
  (raised s fun s =>
    if s.acquiring s.focusCore s.focusFw then .wait s
    else
      let va := s.cur.getA a
      readDesc s va 16 fun s hd =>
        readDesc s va (16 * (field hd 0 1 % 16 + 1)) fun s bs => pubBody s sc (pubRanges bs)).dropReads.out

/-! ### Barrier counters (R380) -/

/-- The number of a counter among a core's: scope and counter number. -/
def barKey (sc n : Nat) : Nat := sc * 16 + n

/-- The gang of a core: its job's number plus one, or zero where it runs none. -/
def State.gangOf (s : State) (k : Nat) : Nat := match (s.core k).job with | some j => j + 1 | none => 0

/-- The cores of a gang that lie in the same instance of a scope as a core. -/
def State.barMembers (s : State) (gang k sc : Nat) : List Nat :=
  if sc ≤ 1 then [k]
  else
    match (if gang = 0 then none else s.jobOf (gang - 1)) with
    | none => [k]
    | some j => j.members.filter fun m => instOf m sc = instOf k sc

/-- Whether a counter is the one of a gang, scope, instance and number. -/
def BarCtr.is (b : BarCtr) (gang sc inst n : Nat) : Bool := b.gang = gang && b.scope = sc && b.inst = inst && b.n = n

/-- A counter of a gang. -/
def State.barCtr (s : State) (gang sc inst n : Nat) : BarCtr :=
  (s.bars.find? fun b => b.is gang sc inst n).getD
    { gang := gang, scope := sc, inst := inst, n := n, arr := 0, ep := 0, root := 0, grp := 0, need := 0 }

/-- A counter replaced. -/
def State.setBar (s : State) (b : BarCtr) : State :=
  { s with bars := b :: s.bars.filter fun x => !x.is b.gang b.scope b.inst b.n }

/-- A core has joined an episode that is not yet released to it; the core-scope one needs its arrival to be counted, the fifth number
that is wanted, and every command published before the `bar` to retire (R381 to R383). -/
def Core.barHeld (c : Core) (sc n : Nat) : Bool :=
  if sc = 1 then
    c.barPend.get false (barKey sc n) &&
      ((c.barWant.get [] (barKey sc n)).zip [c.ce.done, c.me.done, c.ve.done, c.sae.done, 0]).any fun p => decide (p.2 < p.1)
  else c.barPend.get false (barKey sc n)

/-- An episode is released to a core (R383). -/
def Core.barFree (c : Core) (sc n : Nat) : Core := { c with barPend := c.barPend.put false (barKey sc n) false }

/-- An episode is released to cores of a gang, checkpointed members included (R383, R384). -/
def State.barRelease (s : State) (gang sc n : Nat) (ks : List Nat) : State :=
  let mine (k : Nat) : Bool := s.gangOf k = gang
  let s1 := s.mapCores (ks.filter mine) fun c => c.barFree sc n
  { s1 with saved := s1.saved.map fun v =>
      match s1.jobOf v.job with
      | some j =>
        if v.job + 1 = gang && (match j.members[v.run.member]? with | some m => ks.contains m | none => false) then
          { v with freed := (sc, n) :: v.freed }
        else v
      | none => v }

/-! ### Completion (R383, R385) -/

/-- The group of a core in a sluice map: `SLUICE.MAP` field of the core's number on its die (R385, R387). -/
def sluiceGroup (map : FMap W64) (groups k : Nat) : Nat :=
  min (nbits (map.get slMapReset (k % 64 / 16)).toNat (4 * (k % 16) + 2) (4 * (k % 16))) (groups - 1)

/-- The cores of a group of a sluice release. -/
def State.sluiceCores (s : State) (x : Sluice) (g : Nat) : List Nat :=
  (s.barMembers x.gang (x.die * 64) 4).filter fun k => dieOf k = x.die && sluiceGroup x.map x.groups k = g

/-- The sluice logic of a die starts the release of an episode in t0, with its registers as they stand: group 0 is released at
once, and with GAP 0 every group. -/
def State.startSluice (s : State) (d gang sc n : Nat) : State :=
  let r := s.takeTag
  let x := s.die d
  let w : Sluice :=
    { tag := r.2, die := d, gang := gang, scope := sc, n := n, t0 := s.tb, groups := x.slGroups, gap := x.slGap, map := x.slMap,
      left := if x.slGap = 0 then [] else (List.range x.slGroups).drop 1, last := s.tb }
  let now := if x.slGap = 0 then List.range x.slGroups else [0]
  { r.1 with sluices := r.1.sluices ++ (if w.left.isEmpty then [] else [w]) }.barRelease gang sc n (now.flatMap (s.sluiceCores w))

/-- A package or pod episode leaves IOD0 for the compute dies, and reaches all of them 140 ticks later. -/
def State.startWave (s : State) (gang sc n : Nat) : State :=
  let r := s.takeTag
  { r.1 with waves := r.1.waves ++ [{ tag := r.2, gang := gang, scope := sc, n := n, due := s.tb + 140, dies := List.range 8 }] }

/-- The fields of a BAR message (R383; log entry 6): group, counter, and release or arrival. -/
def barArg (grp n : Nat) (release : Bool) : W64 := BitVec.ofNat 64 (grp + n * 2 ^ 16 + (if release then 2 ^ 20 else 0))

/-- A pod episode is released to this package: every gang whose package-scope participants have all arrived on the counter. -/
def State.podRelease (s : State) (grp n : Nat) : State :=
  (s.bars.filter fun b => b.scope = 5 && b.n = n && b.grp = grp && decide (b.arr ≠ 0)
      && decide ((s.barMembers b.gang 0 5).length ≤ b.arr)).foldl (fun s b =>
    (s.setBar { b with arr := 0, ep := (b.ep + 1) % 65536 }).startWave b.gang 5 n) s

/-- The episode of a pod counter at the root (R383, R388): it begins with the first arrival there, of a core of this package or of
another package. -/
def State.podCtr (s : State) (grp n : Nat) : PodCtr :=
  (s.podCtrs.find? fun c => c.grp = grp && c.n = n).getD
    { grp := grp, n := n, pkgs := []
      need := match s.bars.find? fun b => b.scope = 5 && b.n = n && b.grp = grp && decide (b.arr ≠ 0) with
        | some b => b.need
        | none => max 1 s.podN }

/-- A package arrives on a pod counter at the root (R383): the last of NPKG distinct packages completes the episode, and the
releases leave. -/
def State.podArrive (s : State) (pkg grp n : Nat) : State :=
  let c := s.podCtr grp n
  let pkgs := insertNat pkg c.pkgs
  let rest := s.podCtrs.filter fun c => !(c.grp = grp && c.n = n)
  if c.need ≤ pkgs.length then
    pkgs.foldl (fun s p =>
      if p = s.pkg then s.podRelease grp n else s.send (ctrlPacket 0x17 s.pkg 0 p 0 (barArg grp n true) []))
      { s with podCtrs := rest }
  else { s with podCtrs := { c with pkgs := pkgs } :: rest }

/-- The arrivals of a pod counter that a package knows of (R380, R388): at the root the packages that have arrived, elsewhere its
own arrival (log entry 58). -/
def State.podArrived (s : State) (gang : Nat) (b : BarCtr) : Nat :=
  let root := if b.arr = 0 then s.podRoot else b.root
  let grp := if b.arr = 0 then s.podGrp else b.grp
  if root = s.pkg then (s.podCtr grp b.n).pkgs.length
  else if b.arr ≠ 0 && decide ((s.barMembers gang 0 5).length ≤ b.arr) then 1 else 0

/-- An arrival is counted, and the last one completes the episode (R381, R383). -/
def State.barArrive (s : State) (k sc n : Nat) : State :=
  let gang := s.gangOf k
  let ms := s.barMembers gang k sc
  let inst := instOf k sc
  let b := s.barCtr gang sc inst n
  let b :=
    if b.arr ≠ 0 then b
    else
      { b with
        root := s.podRoot
        grp := s.podGrp
        need := if sc = 5 && s.podRoot = s.pkg then (s.podCtr s.podGrp n).need else s.podN }
  if b.arr + 1 < ms.length then s.setBar { b with arr := b.arr + 1 }
  else if sc = 5 then
    let s := s.setBar { b with arr := b.arr + 1 }
    if b.root = s.pkg then s.podArrive s.pkg b.grp n
    else s.send (ctrlPacket 0x17 s.pkg k b.root 0 (barArg b.grp n false) [])
  else
    let s := s.setBar { b with arr := 0, ep := (b.ep + 1) % 65536 }
    match sc with
    | 0 => s.setCore k ((s.core k).barFree 0 n)
    | 1 =>
      let c := s.core k
      s.setCore k { c with barWant := c.barWant.put [] (barKey 1 n) ((c.barWant.get [] (barKey 1 n)).take 4) }
    | 2 => s.barRelease gang 2 n ms
    | 3 => s.startSluice (dieOf k) gang 3 n
    | _ => s.startWave gang sc n

/-- A core joins the episode of a counter (R381); at core scope with the commands published before the `bar` (R382). -/
def State.barJoin (s : State) (k sc n : Nat) : State :=
  let c := s.core k
  let key := barKey sc n
  s.setCore k { c with
    barLast := c.barLast.put 0 key (s.barCtr (s.gangOf k) sc (instOf k sc) n).ep
    barPend := c.barPend.put false key true
    barWant := c.barWant.put [] key (if sc = 1 then [c.ce.counted, c.me.counted, c.ve.counted, c.sae.counted, 1] else []) }

/-- `bar` (R381): a core whose last episode is not released to it holds; otherwise it joins, and goes on. The arrival is a posted
release: it is counted once the accesses that it orders are performed. -/
def execBar (n : BitVec 4) (sc : Scope) (s : State) : Host.Outcome State Fault Refusal :=
  (userOnly s (
    let k := s.focusCore
    if s.curCore.barHeld sc.code n.toNat then .wait s
    else
      let after := s.orderAfter k s.focusFw sc
      let t := (s.barJoin k sc.code n.toNat).markRelease k sc
      .ok (if t.allPerformed k after then t.barArrive k sc.code n.toNat
           else (t.addFlight (.arrive k sc.code n.toNat after)).1).retire)).out

/-- The arrivals whose earlier accesses are performed are counted. -/
def State.settleArrivals (s : State) : State :=
  s.flights.foldl (fun t p =>
    match p.2 with
    | some (.arrive k sc n after) => if t.allPerformed k after then (t.endFlight p.1).barArrive k sc n else t
    | _ => t) s

/-- `BARRIER_COMPLETION_AT_DIE` (R383): the completion reaches a compute die, whose sluice logic starts. -/
def execBarrierCompletionAtDie (tag die : Nat) (s : State) : Host.Outcome State Fault Refusal :=
  match s.waves.find? fun w => w.tag = tag && w.dies.contains die && decide (w.due ≤ s.tb) with
  | none => .next s
  | some w =>
    let ds := w.dies.filter (· ≠ die)
    let rest := s.waves.filter (·.tag ≠ tag)
    .next ({ s with waves := if ds.isEmpty then rest else rest ++ [{ w with dies := ds }] }.startSluice die w.gang w.scope w.n)

/-- `SLUICE_GROUP_RELEASE` (R385, R386): the next group `g` of a die is released at t0 + g × GAP, and GAP ticks after the last. -/
def execSluiceGroupRelease (tag g : Nat) (s : State) : Host.Outcome State Fault Refusal :=
  match s.sluices.find? fun x => x.tag = tag && x.left.head? = some g && decide (x.t0 + g * x.gap ≤ s.tb)
      && decide (x.last + x.gap ≤ s.tb) with
  | none => .next s
  | some x =>
    let left := x.left.drop 1
    let rest := s.sluices.filter (·.tag ≠ tag)
    .next ({ s with sluices := if left.isEmpty then rest else rest ++ [{ x with left := left, last := s.tb }] }.barRelease
      x.gang x.scope x.n (s.sluiceCores x g))

end Sys2Proof.Machine
end

