-- ==== Sys2Proof/Machine/Csr.lean ====
section
/-!
DEFINITION. Control and status registers (R135 to R144, R190, R191 and the register tables of the other chapters): what each
reads, what a write does, and `csr.r`, `csr.w`, `csr.x`.
-/

namespace Sys2Proof.Machine

/-! ### Words of registers -/

/-- `ISS.U` and `ISS.F` (R141). -/
def Bucket.word (b : Bucket) : W64 := BitVec.ofNat 64 (b.per * 2 ^ 24 + b.rate * 2 ^ 16 + b.cap)
/-- `ISS.UB` and `ISS.FB` (R141). -/
def Bucket.stat (b : Bucket) : W64 := BitVec.ofNat 64 (b.debt * 2 ^ 32 + b.bal)
/-- `WALLOW` (R232). -/
def Wallow.word (w : Wallow) : W64 := BitVec.ofNat 64 (w.ref * 2 ^ 48 + w.out * 2 ^ 32 + w.limit)

/-- The address of the head command, or the read address of an empty queue (R197); with a command published in part only, the read
address behind its words (DESIGN CHOICE, log entry 70). -/
def Engine.head (x : Engine) : VAddr :=
  match x.q.find? fun t => match t.kind with | .qmark _ => false | _ => true with
  | some t => t.addr
  | none => x.partialAddr

/-- `Q.x.STAT` (R198). -/
def Engine.stat (x : Engine) : W64 :=
  let busy := x.q.any fun t => t.started.isSome
  let depth := x.q.countP fun t => match t.kind with | .qmark _ => false | _ => true
  BitVec.ofNat 64 (x.mkr * 2 ^ 32 + (if x.mkv then 2 ^ 31 else 0) + (if x.tmplf then 2 ^ 30 else 0)
    + (if x.flt then 2 ^ 29 else 0) + (if busy then 2 ^ 28 else 0) + x.cause.toNat * 2 ^ 16 + min 64 depth)

/-- Register `o` of the block of an engine (R197). -/
def Engine.reg (x : Engine) (o : Nat) : W64 :=
  match o with
  | 0 => BitVec.ofNat 64 x.done
  | 1 => x.base.setWidth 64
  | 2 => BitVec.ofNat 64 (x.base.toNat / 2 ^ 64)
  | 3 => x.head.setWidth 64
  | 4 => x.tail.setWidth 64
  | 5 => BitVec.ofNat 64 (x.cw.toNat % 2 ^ 64 / 8 * 8)
  | 6 => BitVec.ofNat 64 (x.cw.toNat / 2 ^ 64)
  | _ => x.stat

/-- `CASK.STAT` (R276). -/
def Core.caskStat (c : Core) : W64 :=
  let used := ((c.memoSpans.foldl (fun n p => n + p.2) 0) + 1023) / 1024
  let pins := (c.live.flatMap fun p => p.2.memo.filter (·.pin)).length
  BitVec.ofNat 64 (used % 65536 * 2 ^ 32 + min 255 pins * 2 ^ 16 + c.hnds.length * 2 ^ 8 + c.live.length)

/-- `OM.CLM` (R321). -/
def Core.omClm (c : Core) : W64 :=
  BitVec.ofNat 64 ((List.range 32).foldl (fun m n => if c.omSt.get .free n = .claimed then m + 2 ^ n else m) 0)

/-- `ME.STAT` (R337). -/
def Core.meStat (c : Core) : W64 :=
  let exps := (List.range 32).countP fun n => c.omSt.get .free n = .exp
  BitVec.ofNat 64 (exps * 2 ^ 16 + (if c.wv then 2 ^ 15 else 0) + c.wfmt * 2 ^ 8)

/-- The value of an estimate that is unknown (R42). -/
def estUnknown : Nat := 0xFFFFFFFFFF

/-- `RUN.EST` (R42): it falls by one a tick, and an unknown estimate does not count. -/
def State.runEst (s : State) (k : Nat) : Nat :=
  let c := s.core k
  if c.est = estUnknown then estUnknown else c.est - (s.tb - c.estAt)

/-- `THERM.STAT` (R464). -/
def State.thermStat (s : State) : W64 :=
  let tj := (List.range 10).foldl (fun m d => max m (s.die d).tj) 0
  BitVec.ofNat 64 (tj * 256 + (if s.trip2 then 2 else if s.trip1 then 1 else 0))

/-- The calendars whose rows a die's booking unit keeps: two for each core of a compute die and its eight controllers, or the
ports of an I/O die (R13, R14). -/
def dieCals (d : Nat) : List Cal :=
  if d < 8 then
    (List.range 64).flatMap (fun i => [{ kind := .me, idx := 64 * d + i }, { kind := .ce, idx := 64 * d + i }])
      ++ (List.range 8).map fun i => { kind := .mcg, idx := 8 * d + i }
  else if d = 8 then (List.range 18).map fun i => { kind := .port, idx := i }
  else (List.range 17).map fun i => { kind := .port, idx := 18 + i }

/-- `BKU.STAT` (R85). -/
def State.bkuStat (s : State) (d : Nat) : W64 :=
  let x := s.die d
  let pois := (dieCals d).countP fun c => (s.cal c).poisoned
  BitVec.ofNat 64 (x.corr * 2 ^ 32 + pois * 2 ^ 16 + x.drop * 2 ^ 8 + (if x.failstop then 1 else 0))

/-- `BAR.VAL` (R388). -/
def State.barVal (s : State) (k : Nat) : W64 :=
  let c := s.core k
  let sc := c.barSel / 16
  let n := c.barSel % 16
  let gang := s.gangOf k
  let b := s.barCtr gang sc (instOf k sc) n
  let part := if sc ≠ 5 then (s.barMembers gang k sc).length else if b.arr ≠ 0 then b.need
    else if s.podRoot = s.pkg then (s.podCtr s.podGrp n).need else s.podN
  let arr := if sc ≠ 5 then b.arr else s.podArrived gang b
  BitVec.ofNat 64 (b.ep * 2 ^ 48 + c.barLast.get 0 (barKey sc n) * 2 ^ 32 + (if c.barHeld sc n then 2 ^ 31 else 0)
    + part * 2 ^ 16 + arr)

/-- `CSL.STAT` (R391). -/
def State.cslStat (s : State) (k : Nat) : W64 :=
  let c := s.core k
  let tbl := if c.atRest s.tb then (s.die (dieOf k)).ramp else c.rampTbl
  BitVec.ofNat 64 ((if c.rampDown then 256 else 0) + rampGrant tbl c.ramp * 16 + c.ramp)

/-! ### Reading -/

/-- The value of a register for a context, but for `CTXU.DAT`. -/
def State.csrGet (s : State) (k : Nat) (fw : Bool) (n : Nat) : W64 :=
  let c := s.core k
  let x := c.ctx fw
  let d := s.die (dieOf k)
  if 0x040 ≤ n ∧ n < 0x060 then
    (c.eng (match (n - 0x040) / 8 with | 0 => .ce | 1 => .me | 2 => .ve | _ => .sae)).reg (n % 8)
  else if 0x060 ≤ n ∧ n < 0x080 then BitVec.ofNat 64 (c.tk.get 0 (n - 0x060))
  else if 0x0EA ≤ n ∧ n < 0x0EE then d.slMap.get slMapReset (n - 0x0EA)
  else
    match n with
    | 0x000 => x.status fw
    | 0x001 => x.fcsr
    | 0x002 => x.tvec
    | 0x003 => BitVec.ofNat 64 s.tb
    | 0x008 => x.sstatus
    | 0x009 => x.epc
    | 0x00A => x.etgt
    | 0x00B => x.ecause
    | 0x00C => x.einfo0
    | 0x00D => x.einfo1
    | 0x00E => x.einfo2
    | 0x00F => x.einfo3
    | 0x010 => c.user.bucket.word
    | 0x011 => c.firm.bucket.word
    | 0x012 => c.user.bucket.stat
    | 0x013 => c.firm.bucket.stat
    | 0x014 => BitVec.ofNat 64 (x.countStall s.tb).stallCnt
    | 0x020 => if c.run then 1 else 0
    | 0x021 => c.ctxuIdx.setWidth 64
    | 0x080 => BitVec.ofNat 64 c.bsel
    | 0x081 => (c.slotOf c.bsel).bits
    | 0x082 => BitVec.ofNat 64 (c.slotOf c.bsel).promise
    | 0x090 => if c.ovfTrap then 1 else 0
    | 0x091 => c.caskStat
    | 0x092 => BitVec.ofNat 64 (c.scrSize * 2 ^ 16 + c.scrBase)
    | 0x0A0 => BitVec.ofNat 64 c.cadence
    | 0x0A1 => c.omClm
    | 0x0A2 => c.meStat
    | 0x0B0 => if c.nomerge then 1 else 0
    | 0x0B1 => BitVec.ofNat 64 (c.merge * 2 ^ 32)
    | 0x0C0 => BitVec.ofNat 64 (s.pkg * 2 ^ 32 + k)
    | 0x0C1 => c.part_.setWidth 64
    | 0x0C2 => BitVec.ofNat 64 (s.runEst k)
    | 0x0C3 => BitVec.ofNat 64 (c.asn * 2 ^ 48 + c.root)
    | 0x0C6 => BitVec.ofNat 64 d.drainMax
    | 0x0C7 => BitVec.ofNat 64 d.ckptMax
    | 0x0C9 => BitVec.ofNat 64 (c.eccCorr * 2 ^ 32 + c.eccUnc * 2 ^ 16 + c.eccUnit * 2 ^ 8)
    | 0x0CA => s.thermStat
    | 0x0D0 => BitVec.ofNat 64 d.holdTmo
    | 0x0D1 => BitVec.ofNat 64 d.retryMax
    | 0x0D2 => s.bkuStat (dieOf k)
    | 0x0E0 => BitVec.ofNat 64 c.barSel
    | 0x0E1 => s.barVal k
    | 0x0E2 => BitVec.ofNat 64 (s.podRoot * 2 ^ 32 + s.podGrp * 2 ^ 16 + s.podN)
    | 0x0E8 => BitVec.ofNat 64 d.slGroups
    | 0x0E9 => BitVec.ofNat 64 d.slGap
    | 0x0F0 => d.ramp.setWidth 64
    | 0x0F1 => s.cslStat k
    | 0x100 => x.wallowQ.word
    | 0x101 => x.wallowD.word
    | 0x102 => x.wallowX.word
    | 0x110 => BitVec.ofNat 64 (s.rtmo * 2 ^ 32 + s.ftmo * 2 ^ 16 + s.acktmo)
    | 0x111 => BitVec.ofNat 64 (c.nakCount * 2 ^ 48 + c.nakLast * 2 ^ 44 + (if c.cmm then 1 else 0))
    | 0x112 => BitVec.ofNat 64 (s.hmStby * 2 ^ 32 + s.hmPrim * 2 ^ 16 + s.hmGrp)
    | _ => 0

/-- Whether user control register `n` can be selected by `CTXU.IDX`: every defined one but the firmware-only registers
(R136, R138). -/
def ctxuReg (n : Nat) : Bool := csrDefined (BitVec.ofNat 12 n) && !(decide (0x020 ≤ n) && decide (n ≤ 0x022))

/-- The register that `CTXU.IDX` selects, as `CTXU.DAT` reads it while RUN = 0 (R138). The rule names indices 0x840 to 0x84F for writes
only: a read gives bits [71:64] of the register. Of the 72-bit user PC a read gives bits [63:0] (DESIGN CHOICE, log entry 70). -/
def State.ctxuGet (s : State) (k : Nat) : W64 :=
  let c := s.core k
  let u := c.user
  let i := c.ctxuIdx.toNat
  if c.run then 0
  else if i < 0x040 then u.getS (BitVec.ofNat 6 i)
  else if i < 0x050 then (u.getA (BitVec.ofNat 4 i)).setWidth 64
  else if i < 0x058 then if u.getP (BitVec.ofNat 3 i) then 1 else 0
  else if i = 0x058 then u.pc.setWidth 64
  else if 0x840 ≤ i ∧ i < 0x850 then BitVec.ofNat 64 ((u.getA (BitVec.ofNat 4 i)).toNat / 2 ^ 64)
  else if 0x400 ≤ i ∧ i < 0x800 ∧ ctxuReg (i - 0x400) then s.csrGet k false (i - 0x400)
  else 0

/-- The value of a register for a context (R190). -/
def State.csrRead (s : State) (k : Nat) (fw : Bool) (n : Nat) : W64 := if n = 0x022 then s.ctxuGet k else s.csrGet k fw n

/-! ### Registers whose writes have an effect of their own -/

/-- Set the bucket configuration of a context (R141): the balance is CAP, the debt zero, and the period begins again. -/
def State.writeIss (s : State) (k : Nat) (firm : Bool) (v : W64) : State :=
  let n := v.toNat
  let cap := max 1 (n % 65536)
  s.setCtx k firm { s.ctx k firm with
    bucket := { per := nbits n 31 24, rate := nbits n 23 16, cap := cap, bal := cap, debt := 0, last := s.tb } }

/-- Every earlier store of a context is performed at die scope (R143). -/
def State.storesDone (s : State) (k : Nat) (fw : Bool) : Bool :=
  !s.anyFlight fun _ f =>
    match f with
    | .store t => t.core = k && t.agent = .scalar fw
    | .remoteWrite w => w.core = k && w.agent = .scalar fw
    | .inval _ d _ o => d = dieOf k && o.maker = some (k, .scalar fw)
    | _ => false

/-- Empty the instruction cache (R143). -/
def State.writeIcInv (s : State) (k : Nat) : State := s.setCore k { s.core k with icache := [] }

/-- Empty the scalar data cache (R144). -/
def State.writeDcInv (s : State) (k : Nat) : State := s.setCore k { s.core k with dcache := [] }

/-- Write `UCTL.RUN` (R138): a stop ends the wait of a word that has begun to wait, which issues again later (R440), and its page walk
(R472); a pending delay-slot word that has not begun still issues. -/
def State.writeUctl (s : State) (k : Nat) (v : W64) : State :=
  let c := s.core k
  if nbit v.toNat 0 then s.setCore k { c with run := true, user := { c.user with halted := false } }
  else if c.user.sentCard then s.setCore k { c with run := false }
  else
    let u := { c.user.countStall s.tb with op := none, blocked := c.user.blocked || c.user.op.isSome }
    (s.setCore k (({ c with run := false, user := u }).leaveDemand false)).dropWalk k

/-- Q.x.BASE or Q.x.BASEX (R197): taken only while the queue is empty. -/
def Engine.writeBase (x : Engine) (ext : Bool) (v : W64) : Engine :=
  if !x.q.isEmpty || !x.partialWords.isEmpty then x
  else
    let b : VAddr := if ext then BitVec.ofNat 72 (v.toNat % 256 * 2 ^ 64 + x.base.toNat % 2 ^ 64)
      else BitVec.ofNat 72 (x.base.toNat / 2 ^ 64 * 2 ^ 64 + v.toNat)
    { x with base := b, tail := b, partialAddr := b, linkStop := false }

/-- Q.x.CW or Q.x.CWX (R197). -/
def Engine.writeCw (x : Engine) (ext : Bool) (v : W64) : Engine :=
  { x with cw := if ext then BitVec.ofNat 72 (v.toNat % 256 * 2 ^ 64 + x.cw.toNat % 2 ^ 64)
                 else BitVec.ofNat 72 (x.cw.toNat / 2 ^ 64 * 2 ^ 64 + v.toNat / 8 * 8) }

/-- Q.x.STAT (R198, R444): a 1 written to FLT clears the fault, and the queue goes on. -/
def Engine.writeStat (x : Engine) (v : W64) : Engine :=
  if nbit v.toNat 29 then { x with flt := false, rep := [] } else x

/-- A write of an engine's block. -/
def Engine.writeReg (x : Engine) (o : Nat) (v : W64) : Engine :=
  match o with
  | 1 => x.writeBase false v
  | 2 => x.writeBase true v
  | 5 => x.writeCw false v
  | 6 => x.writeCw true v
  | 7 => x.writeStat v
  | _ => x

/-- A token counter written (R204). -/
def Core.writeTk (c : Core) (n : Nat) (v : W64) : Core :=
  { c.setTk n (v.toNat % 65536) false with tkWas := c.tkWas.put none n (some (c.seenTk n)) }

/-- A materialised entry is PENDING again, and every memo tile is dropped (R276). -/
def Cask.resetMemo (x : Cask) : Cask :=
  { x with memo := [], st := match x.st with | .materialised => .pending | y => y }

/-- `CASK.SCR` (R276): ignored where the area does not fit or a pinned tile is held. -/
def Core.writeScr (c : Core) (v : W64) : Core :=
  let base := v.toNat % 4096
  let size := nbits v.toNat 27 16
  let pinned := c.live.any fun p => p.2.memo.any (·.pin)
  if c.spadSize < (base + size) * 1024 || pinned then c
  else { c with scrBase := base, scrSize := size, casks := c.casks.map fun p => (p.1, p.2.map Cask.resetMemo) }

/-- `ME.CADENCE` (R330, R463): a zero is stored as 1; while trip 2 is active the value is held for its end. -/
def State.writeCadence (s : State) (k : Nat) (v : W64) : State :=
  let n := max 1 (v.toNat % 16)
  let c := s.core k
  s.setCore k (if s.trip2 then { c with cadHeld := some n } else { c with cadence := n })

/-- The translations that a write to `XLAT.INV` names (R245). -/
def invNames (iva v : W64) (t : TlbEnt) : Bool :=
  let mode := v.toNat % 4
  let asn := v.toNat / 2 ^ 48
  mode = 2 || (mode = 1 && t.asn = asn)
    || (mode = 0 && t.asn = asn && decide (iva.toNat % 2 ^ 56 * 65536 / 2 ^ t.shift = t.vpn))

/-- Drop translations from every core and every die of the package; the walks under way begin anew. -/
def State.dropXlat (s : State) (iva v : W64) : State :=
  { s with
    flights := s.flights.filter fun p => match p.2 with | some (.remoteRead r) => r.walk.isNone | _ => true
    cores := s.cores.map fun p => (p.1, { p.2 with tlb := p.2.tlb.filter fun t => !invNames iva v t })
    dies := s.dies.map fun p => (p.1, { p.2 with tlb := p.2.tlb.filter fun t => !invNames iva v t }) }

/-- No access that may have used a named translation is on its way (R245). -/
def State.accessesDone (s : State) (v : W64) : Bool :=
  let hit (asn : Nat) : Bool := v.toNat % 4 = 2 || asn = v.toNat / 2 ^ 48
  !s.anyFlight fun _ f =>
    match f with
    | .load l => hit l.asn
    | .store t => hit t.asn
    | .amo a => hit a.asn
    | .sae e => hit e.asn
    | .remoteWrite w => hit w.asn
    | .remoteRead r => r.walk.isNone && hit (s.core r.core).asn
    | .winAck c .. => hit (s.core c).asn
    | .inval .. => true
    | .owed .. => false
    | .arrive .. => false

/-- `BAR.PODN` (R388). -/
def State.writePodn (s : State) (v : W64) : State :=
  { s with podRoot := nbits v.toNat 42 32, podGrp := nbits v.toNat 27 16, podN := max 1 (v.toNat % 2048) }

/-- `CSL.RAMP` (R391): a zero field is stored as 1. -/
def rampWord (v : W64) : W32 :=
  BitVec.ofNat 32 ((List.range 8).foldl (fun m i => m + max 1 (nbits v.toNat (4 * i + 3) (4 * i)) * 2 ^ (4 * i)) 0)

/-! ### Writing -/

/-- A register that only firmware writes (R135): a user write traps PRIV. -/
def firmwareWritten (n : Nat) : Bool :=
  [0x010, 0x011, 0x020, 0x021, 0x022, 0x0A0, 0x0C3, 0x0C4, 0x0C5, 0x0C6, 0x0C7, 0x0D0, 0x0D1, 0x0D2, 0x0E2, 0x0E8, 0x0E9,
   0x0EA, 0x0EB, 0x0EC, 0x0ED, 0x0F0, 0x100, 0x101, 0x102, 0x110, 0x112].contains n

/-- A register that the user context may not read (R136). -/
def firmwareOnly (n : Nat) : Bool := decide (0x020 ≤ n) && decide (n ≤ 0x022)

/-- Registers whose write stores a value and has no wait: the state after it (R135 to R144 and the tables of each chapter). -/
def State.csrSet (s : State) (k : Nat) (fw : Bool) (n : Nat) (v : W64) : State :=
  let c := s.core k
  let x := c.ctx fw
  let w := v.toNat
  let dn := dieOf k
  let d := s.die dn
  let lim := max 1 (w % 65536)
  if 0x040 ≤ n ∧ n < 0x060 then
    let e : Eng := match (n - 0x040) / 8 with | 0 => .ce | 1 => .me | 2 => .ve | _ => .sae
    s.setCore k (c.setEng e ((c.eng e).writeReg (n % 8) v))
  else if 0x060 ≤ n ∧ n < 0x080 then s.setCore k (c.writeTk (n - 0x060) v)
  else if 0x0EA ≤ n ∧ n < 0x0EE then
    s.setDie dn { d with slMap := d.slMap.put slMapReset (n - 0x0EA) (v &&& 0x7777777777777777) }
  else
    match n with
    | 0x001 => s.setCtx k fw (x.setFcsr v)
    | 0x002 => s.setCtx k fw { x with tvec := BitVec.ofNat 64 (w / 4 * 4) }
    | 0x008 => s.setCtx k fw { x with sstatus := (v &&& 0xFFFF000000000006) ||| (if fw then 1 else 0) }
    | 0x009 => s.setCtx k fw { x with epc := BitVec.ofNat 64 (w / 4 * 4) }
    | 0x00A => s.setCtx k fw { x with etgt := BitVec.ofNat 64 (w / 4 * 4) }
    | 0x010 => s.writeIss k false v
    | 0x011 => s.writeIss k true v
    | 0x018 => s.writeIcInv k
    | 0x019 => s.writeDcInv k
    | 0x020 => s.writeUctl k v
    | 0x021 => s.setCore k { c with ctxuIdx := BitVec.ofNat 12 w }
    | 0x080 => s.setCore k { c with bsel := w % 64 }
    | 0x090 => s.setCore k { c with ovfTrap := nbit w 0 }
    | 0x092 => s.setCore k (c.writeScr v)
    | 0x0A0 => s.writeCadence k v
    | 0x0B0 => s.setCore k { c with nomerge := nbit w 0 }
    | 0x0C2 => s.setCore k { c with est := w % 2 ^ 40, estAt := s.tb }
    | 0x0C3 => s.setCore k { c with asn := w / 2 ^ 48, root := w % 2 ^ 40 }
    | 0x0C5 => s.setCore k { c with iva := BitVec.ofNat 64 (w % 2 ^ 56) }
    | 0x0C6 => s.setDie dn { d with drainMax := w % 2 ^ 40 }
    | 0x0C7 => s.setDie dn { d with ckptMax := w % 2 ^ 40 }
    | 0x0D0 => s.setDie dn { d with holdTmo := max 512 (w % 2 ^ 24) }
    | 0x0D1 => s.setDie dn { d with retryMax := w % 16 }
    | 0x0E0 => if nbits w 6 4 ≤ 5 then s.setCore k { c with barSel := w % 128 } else s
    | 0x0E2 => s.writePodn v
    | 0x0E8 => s.setDie dn { d with slGroups := min 8 (max 1 (w % 16)) }
    | 0x0E9 => s.setDie dn { d with slGap := w % 65536 }
    | 0x0F0 => s.setDie dn { d with ramp := rampWord v }
    | 0x100 => s.setCtx k fw { x with wallowQ := { x.wallowQ with limit := lim } }
    | 0x101 => s.setCtx k fw { x with wallowD := { x.wallowD with limit := lim } }
    | 0x102 => s.setCtx k fw { x with wallowX := { x.wallowX with limit := lim } }
    | 0x110 => { s with rtmo := nbits w 47 32, ftmo := nbits w 31 16, acktmo := lim }
    | 0x111 => if nbit w 0 then s.setCore k { c with cmm := false } else s
    | 0x112 => { s with hmStby := nbits w 42 32, hmPrim := nbits w 26 16, hmGrp := w % 4096, noStby := false, hbSeen := s.tb }
    | _ => s

/-- A write that may have to wait (R143, R245): `none` while it waits. -/
def State.csrPut (s : State) (k : Nat) (fw : Bool) (n : Nat) (v : W64) : State × Bool :=
  if n = 0x018 then (if s.storesDone k fw then (s.writeIcInv k, true) else (s, false))
  else if n = 0x0C4 then
    if v.toNat % 4 = 3 then (s, true)
    else let t := s.dropXlat (s.core k).iva v; (t, t.accessesDone v)
  else (s.csrSet k fw n v, true)

/-- A write of the register that `CTXU.IDX` selects (R138), with firmware's rights. A write of the user PC keeps its bits [71:64] and
clears bits [1:0] (DESIGN CHOICE, log entry 70). -/
def State.ctxuPut (s : State) (k : Nat) (v : W64) : State × Bool :=
  let c := s.core k
  let u := c.user
  let i := c.ctxuIdx.toNat
  let hi (a : VAddr) : Nat := a.toNat / 2 ^ 64
  if c.run then (s, true)
  else if i < 0x040 then (s.setCtx k false (u.setS (BitVec.ofNat 6 i) v), true)
  else if i < 0x050 then
    (s.setCtx k false (u.setA (BitVec.ofNat 4 i) (BitVec.ofNat 72 (hi (u.getA (BitVec.ofNat 4 i)) * 2 ^ 64 + v.toNat))), true)
  else if i < 0x058 then (s.setCtx k false (u.setP (BitVec.ofNat 3 i) (nbit v.toNat 0)), true)
  else if i = 0x058 then (s.setCtx k false { u with pc := BitVec.ofNat 72 (hi u.pc * 2 ^ 64 + v.toNat / 4 * 4) }, true)
  else if 0x840 ≤ i ∧ i < 0x850 then
    (s.setCtx k false (u.setA (BitVec.ofNat 4 i)
      (BitVec.ofNat 72 (v.toNat % 256 * 2 ^ 64 + (u.getA (BitVec.ofNat 4 i)).toNat % 2 ^ 64))), true)
  else if 0x400 ≤ i ∧ i < 0x800 ∧ ctxuReg (i - 0x400) then s.csrPut k false (i - 0x400) v
  else (s, true)

/-- A write to a register (R190): the state, and whether it is done or waits. -/
def State.csrWrite (s : State) (k : Nat) (fw : Bool) (n : Nat) (v : W64) : State × Bool :=
  if n = 0x022 then s.ctxuPut k v else s.csrPut k fw n v

/-! ### The instructions (R190) -/

/-- Check 6 of R97 for a register access: firmware-only registers, firmware-written registers, and the cask registers while the
user context runs (R135, R136, R276). -/
def csrAllowed (s : State) (n : BitVec 12) (write : Bool) (k : Res) : Res :=
  let i := n.toNat
  if !s.focusFw && write && firmwareWritten i then .trap s (mkTrap .priv s.word.toNat 3 i 0)
  else if !s.focusFw && firmwareOnly i then .trap s (mkTrap .priv s.word.toNat 1 0 0)
  else if decide (0x090 ≤ i) && decide (i ≤ 0x092) then coreState s k
  else k

/-- `csr.r` (R190). -/
def execCsrR (d : Reg) (n : BitVec 12) (s : State) : Host.Outcome State Fault Refusal :=
  (csrAllowed s n false (waitDest s d (writeS s d (s.csrRead s.focusCore s.focusFw n.toNat)))).out

/-- `csr.w` (R190). -/
def execCsrW (n : BitVec 12) (a : Reg) (fa : Bool) (s : State) : Host.Outcome State Fault Refusal :=
  (csrAllowed s n true (readSrc s a fa fun v =>
    match s.csrWrite s.focusCore s.focusFw n.toNat v with
    | (t, true) => .ok t.retire
    | (t, false) => .wait t)).out

/-- `csr.x` (R190): the old value and the write in one step. -/
def execCsrX (d a : Reg) (fa : Bool) (n : BitVec 12) (s : State) : Host.Outcome State Fault Refusal :=
  (csrAllowed s n true (readSrc s a fa fun v => waitDest s d (
    let old := s.csrRead s.focusCore s.focusFw n.toNat
    match s.csrWrite s.focusCore s.focusFw n.toNat v with
    | (t, true) => writeS t d old
    | (t, false) => .wait t))).out

/-! ### Register writes as steps of the hardware -/

/-- `FCSR_WRITE` (R137). -/
def execFcsrWrite (core : Nat) (fw : Bool) (v : W64) (s : State) : Host.Outcome State Fault Refusal :=
  .next (s.csrSet core fw 0x001 v)
/-- `ISS_WRITE` (R141). -/
def execIssWrite (core : Nat) (firm : Bool) (v : W64) (s : State) : Host.Outcome State Fault Refusal :=
  .next (s.writeIss core firm v)
/-- `IC_INV_WRITE` (R143): it waits for the earlier stores of its context. -/
def execIcInvWrite (core : Nat) (fw : Bool) (s : State) : Host.Outcome State Fault Refusal :=
  .next (if s.storesDone core fw then s.writeIcInv core else s)
/-- `DC_INV_WRITE` (R144). -/
def execDcInvWrite (core : Nat) (_fw : Bool) (s : State) : Host.Outcome State Fault Refusal := .next (s.writeDcInv core)
/-- `UCTL_WRITE` (R138). -/
def execUctlWrite (core : Nat) (v : W64) (s : State) : Host.Outcome State Fault Refusal := .next (s.writeUctl core v)
/-- `CTXU_DAT_ACCESS` (R138): a read changes nothing. -/
def execCtxuDatAccess (core : Nat) (v : Option W64) (s : State) : Host.Outcome State Fault Refusal :=
  match v with
  | none => .next s
  | some v => .next (s.ctxuPut core v).1
/-- `Q_BASE_WRITE` (R197). -/
def execQBaseWrite (core : Nat) (e : Eng) (ext : Bool) (v : W64) (s : State) : Host.Outcome State Fault Refusal :=
  .next (s.setCore core ((s.core core).setEng e (((s.core core).eng e).writeBase ext v)))
/-- `Q_STAT_FLT_CLEAR` (R444). -/
def execQStatFltClear (core : Nat) (e : Eng) (v : W64) (s : State) : Host.Outcome State Fault Refusal :=
  .next (s.setCore core ((s.core core).setEng e (((s.core core).eng e).writeStat v)))
/-- `TK_ACCESS` (R204): a read changes nothing. -/
def execTkAccess (core : Nat) (n : BitVec 5) (op : TkOp) (s : State) : Host.Outcome State Fault Refusal :=
  match op with
  | .read => .next s
  | .write v => .next (s.setCore core ((s.core core).writeTk n.toNat v))
  | .exchange v => .next (s.setCore core ((s.core core).writeTk n.toNat v))
/-- `CASK_SCR_WRITE` (R276). -/
def execCaskScrWrite (core : Nat) (v : W64) (s : State) : Host.Outcome State Fault Refusal :=
  .next (s.setCore core ((s.core core).writeScr v))
/-- `ME_CADENCE_WRITE` (R330). -/
def execMeCadenceWrite (core : Nat) (v : W64) (s : State) : Host.Outcome State Fault Refusal := .next (s.writeCadence core v)
/-- `XLAT_INV_WRITE` (R245): the named translations are dropped. -/
def execXlatInvWrite (core : Nat) (v : W64) (s : State) : Host.Outcome State Fault Refusal :=
  .next (if v.toNat % 4 = 3 then s else s.dropXlat (s.core core).iva v)
/-- `BAR_PODN_WRITE` (R388). -/
def execBarPodnWrite (v : W64) (s : State) : Host.Outcome State Fault Refusal := .next (s.writePodn v)
/-- The state of a key slot of a direction of a port (R432). -/
def Port.slotSt (p : Port) (slot : Bool) : KeySt := if slot then p.st1 else p.st0
def RxKeys.slotSt (x : RxKeys) (slot : Bool) : KeySt := if slot then x.st1 else x.st0

/-- Eight bytes of a key of a port (R433), in each of its directions (R432); an ACTIVE slot ignores them. -/
def Port.writeKey (p : Port) (slot : Bool) (o : Nat) (v : W64) : Port :=
  let put (m : FMap Byte) : FMap Byte := writeBytes m o (leBytes 8 v.toNat)
  let rx :=
    if p.rx.slotSt slot = .active then p.rx
    else if slot then { p.rx with key1 := put p.rx.key1 }
    else { p.rx with key0 := put p.rx.key0 }
  if p.slotSt slot = .active then { p with rx := rx }
  else if slot then { p with key1 := put p.key1, rx := rx }
  else { p with key0 := put p.key0, rx := rx }

/-- The code of the state of a slot (R434). -/
def KeySt.code : KeySt → Nat
  | .empty => 0 | .loaded => 1 | .active => 2 | .retired => 3

/-- `CLP.KSTAT` (R434): the slots of the sending direction. -/
def Port.kstat (p : Port) : W64 := BitVec.ofNat 64 (p.st1.code * 2 ^ 34 + p.st0.code * 2 ^ 32 + p.inv % 2 ^ 32)

/-- `CLP.STAT` (R434). -/
def Port.stat (p : Port) : W64 :=
  BitVec.ofNat 64 (p.replay % 2 ^ 16 * 2 ^ 48 + p.authf % 2 ^ 16 * 2 ^ 32 + p.badopc % 2 ^ 16 * 2 ^ 16 + p.rsvb % 2 ^ 16)

/-- What a read at an offset of a port's registers gives (R433): keys and SALTs read as zero; SW reads as 1 while a switch is asked
for (log entry 51). -/
def Port.readReg (p : Port) (o : Nat) : W64 :=
  match o with
  | 0x00 => BitVec.ofNat 64 ((if p.en then 1 else 0) + (if p.enc then 2 else 0) + (if p.switch_ then 4 else 0))
  | 0x08 => p.kstat
  | 0x10 => p.stat
  | _ => 0

/-- A port of the package. -/
def State.port (s : State) (p : Nat) : Port := s.ports.get Port.reset p

/-- A port replaced. -/
def State.setPort (s : State) (p : Nat) (x : Port) : State := { s with ports := s.ports.put Port.reset p x }

/-- A routing table entry (R402). -/
def routeOf (v : W64) : Route := { via := nbits v.toNat 39 34, port := nbits v.toNat 33 28, hops := nbits v.toNat 27 26 }

/-- What management and system software set at bring-up (R402, R469), for which the manual gives no address: the numbers are the
model's (log entry 48). -/
def State.platformWrite (s : State) (n : Nat) (v : W64) : State :=
  let w := v.toNat
  if n < 0x300000 then
    (if s.ports.any fun p => p.2.en then s else { s with routes := s.routes.put Route.none ((n - 0x200000) / 8) (routeOf v) })
  else if 0x400000 ≤ n then { s with roots := s.roots.put 0 ((n - 0x400000) / 8) (w % 2 ^ 40) }
  else
    match n with
    | 0x300000 => { s with pkg := w % 2048 }
    | 0x300008 => { s with saveAddr := some w }
    | 0x300010 => { s with poolBase := w }
    | 0x300018 => { s with poolRoom := w }
    | _ => s

/-- A write at an offset of the register spaces that has no step of its own (R33, R36, R433): the upper half of a queue's tail,
and the keys of a port; the others are read-only. -/
def State.spaceWrite (s : State) (n : Nat) (v : W64) : State :=
  if n < 0x100000 then
    let q := (n - 0x40000) / 0x40
    if n % 0x40 = 0x28 then s.setLq q { s.lq q with tailHi := v } else s
  else if 0x200000 ≤ n then s.platformWrite n v
  else
    let p := (n - 0x100000) / 0x100
    let o := n % 0x100
    if 0x20 ≤ o ∧ o < 0x40 then s.setPort p ((s.port p).writeKey false (o - 0x20) v)
    else if 0x60 ≤ o ∧ o < 0x80 then s.setPort p ((s.port p).writeKey true (o - 0x60) v)
    else s

/-- What firmware, or management over I3C, reads of a port's registers in the register space of its I/O die (R433; log entry 48). -/
def State.portRead (s : State) (n : Nat) : W64 := (s.port ((n - 0x100000) / 0x100)).readReg (n % 0x100)

/-- `REGISTER_WRITE` (R135): a user write to a register that firmware writes traps PRIV; the user context reaches no register
space (R433). -/
def execRegisterWrite (core : Nat) (fw : Bool) (n : Nat) (v : W64) (s : State) : Host.Outcome State Fault Refusal :=
  if 4096 ≤ n then .next (if fw then s.spaceWrite n v else s)
  else if !fw && firmwareWritten n then .next (s.takeTrap core fw (mkTrap .priv s.word.toNat 3 n 0))
  else .next (s.csrWrite core fw n v).1

end Sys2Proof.Machine
end

