-- ==== Sys2Proof/Machine/Wait.lean ====
section
/-!
DEFINITION. `wait` (R145 to R148), notices (R446, R447), bucket refills (R142) and `exit` (R195, R457 to R459).
-/

namespace Sys2Proof.Machine

/-! ### Conditions (R146) -/

/-- The conditions of a descriptor whose header and records are read. -/
def waitConds (bs : List Byte) (n : Nat) : List WaitCond :=
  (List.range n).map fun j =>
    { kind := field bs (16 + 16 * j) 1, sel := field bs (17 + 16 * j) 1, value := BitVec.ofNat 64 (field bs (24 + 16 * j) 8) }

/-- A condition that makes its descriptor BAD_DESC (R146). -/
def WaitCond.bad (w : WaitCond) : Bool :=
  w.kind = 0 || decide (8 ≤ w.kind) || (w.kind = 2 && decide (6 ≤ nbits w.sel 6 4)) || (w.kind = 6 && w.sel % 16 = 0)

/-- The engine that SEL[1:0] names. -/
def engOf (n : Nat) : Eng :=
  match n % 4 with
  | 0 => .ce | 1 => .me | 2 => .ve | _ => .sae

/-- The engines whose queues a KIND 3 or KIND 6 condition reads. -/
def WaitCond.engines (w : WaitCond) : List Eng :=
  match w.kind with
  | 3 => [engOf w.sel]
  | 6 => engMask (BitVec.ofNat 4 w.sel)
  | _ => []

/-- A queue has retired marker `n` (R208). -/
def Engine.marked (x : Engine) (n : Nat) : Bool := x.mkv && decide ((x.mkr + 65536 - n) % 65536 < 32768)

/-- An engine of a KIND 3 or KIND 6 condition satisfies it. -/
def WaitCond.engMet (w : WaitCond) (x : Engine) : Bool :=
  if w.kind = 3 then decide (w.value.toNat ≤ x.done) else x.marked (w.value.toNat % 65536)

/-- The truth of a condition for a context (R146). -/
def State.condTrue (s : State) (k : Nat) (fw : Bool) (w : WaitCond) : Bool :=
  let c := s.core k
  match w.kind with
  | 1 => decide ((s.ctx k fw).getFE (BitVec.ofNat 6 w.sel) = .full)
  | 2 => !c.barHeld (nbits w.sel 6 4) (w.sel % 16)
  | 4 => (c.slotOf (w.sel % 64)).bits &&& w.value = w.value
  | 5 => decide (w.value.toNat ≤ s.tb)
  | 7 => decide (w.value.toNat % 65536 ≤ c.tk.get 0 (w.sel % 32))
  | _ => w.engines.all fun e => w.engMet (c.eng e)

/-- A pending fault for which a `wait` on a condition is dependent (R443): of an engine it names, or of the copy whose slot it
watches. -/
def State.condFault (s : State) (k : Nat) (w : WaitCond) : Option (Eng × FaultRep) :=
  let c := s.core k
  if w.kind = 4 then
    (c.ce.pendings.find? fun f => f.slot = some (w.sel % 64)).map fun f => (.ce, f)
  else w.engines.findSome? fun e => (c.eng e).pendingFault.map fun f => (e, f)

/-- The scope at which the truth of a condition is an acquire (R222, R364): of a barrier its scope; of a queue, a slot or a counter
that of the releases it consumes, of which only die scope or wider empties the scalar data cache; of a marker core scope. -/
def Core.acquires (c : Core) (w : WaitCond) : Scope :=
  let of (wide : Bool) : Scope := if wide then .die else .core
  match w.kind with
  | 1 | 5 => .lane
  | 2 => match nbits w.sel 6 4 with
    | 0 => .lane | 1 => of ([c.ce, c.me, c.ve, c.sae].any Engine.wide) | 2 => .quad | 3 => .die | 4 => .pkg | _ => .pod
  | 3 => of (c.eng (engOf w.sel)).wide
  | 4 => of (c.slotOf (w.sel % 64)).wide
  | 7 => of (c.tkWide.get false (w.sel % 32))
  | _ => .core

/-! ### One tick of a `wait` (R147) -/

/-- What a `wait` comes to in a tick: the trap of a pending fault, completion with its truth bits, a missed promise of
condition `j`, a time-out, or nothing. -/
inductive WaitNow where
  | fault (e : Eng) (f : FaultRep)
  | done (bits : List Bool)
  | miss (j : Nat) (w : WaitCond)
  | stall (j : Nat) (w : WaitCond)
  | hold
deriving DecidableEq, Repr

/-- The first condition of a list with a property, with its number. -/
def firstCond (p : WaitCond → Bool) : Nat → List WaitCond → Option (Nat × WaitCond)
  | _, [] => none
  | j, w :: ws => if p w then some (j, w) else firstCond p (j + 1) ws

/-- The promise of a KIND 4 condition is passed and the condition is false (R217). -/
def State.condMissed (s : State) (k : Nat) (fw : Bool) (w : WaitCond) : Bool :=
  let b := (s.core k).slotOf (w.sel % 64)
  w.kind = 4 && b.promise ≠ 0 && decide (b.promise < s.tb) && !s.condTrue k fw w

/-- What a `wait` comes to in the running tick, in the order fault, completion, promise, time-out (R147, R217, R443). A firmware
`wait` meets no engine fault: those go to the user context. -/
def State.waitNow (s : State) (k : Nat) (fw allOf : Bool) (ws : List WaitCond) (lim start : Nat) : WaitNow :=
  let t := ws.map (s.condTrue k fw)
  let met := if allOf then t.all id else t.any id
  match (if fw then none else ws.findSome? (s.condFault k)) with
  | some (e, f) => .fault e f
  | none =>
    if met && (lim = 0 || decide (s.tb - start ≤ lim)) then .done t
    else
      match firstCond (s.condMissed k fw) 0 ws with
      | some (j, w) => .miss j w
      | none =>
        if lim = 0 || decide (s.tb - start < lim) then .hold
        else
          match firstCond (fun w => !s.condTrue k fw w) 0 ws with
          | some (j, w) => .stall j w
          | none => match ws with | w :: _ => .stall 0 w | [] => .hold

/-- The truth bits of a `wait` as a result word. -/
def truthWord (ts : List Bool) : W64 :=
  BitVec.ofNat 64 ((List.range ts.length).foldl (fun n j => if ts[j]? = some true then n + 2 ^ j else n) 0)

/-- A `wait` of the executing context completes: the acquires of its true conditions, and the result (R147). -/
def State.waitDone (s : State) (d : Reg) (ws : List WaitCond) (ts : List Bool) : State :=
  let s := (ws.zip ts).foldl (fun s p => if p.2 then s.acquire s.focusCore (s.curCore.acquires p.1) else s) s
  s.setCur (((s.cur.countStall s.tb).setS d (truthWord ts)).advance)

/-- EINFO1 to EINFO3 of a time-out (R147): the lowest engine not satisfied with its number and head, or the watched value. A
register's state has its code of R9, 0 PENDING or 2 EMPTY (log entry 55); a queue that holds markers and no command is not empty, and
gives its read address as `Q.x.HEAD` does (DESIGN CHOICE, log entry 71); for a barrier the value is not stated, and is free (log
entry 4). -/
def State.stallInfo (s : State) (k : Nat) (fw : Bool) (w : WaitCond) : State × Nat × Nat × Nat :=
  let c := s.core k
  match w.kind with
  | 1 => (s, 0xFF, (match (s.ctx k fw).getFE (BitVec.ofNat 6 w.sel) with | .empty => 2 | _ => 0), 0)
  | 2 => let r := s.freeVal 64; (r.1, 0xFF, r.2, 0)
  | 4 => (s, 0xFF, (c.slotOf (w.sel % 64)).bits.toNat, 0)
  | 5 => (s, 0xFF, s.tb, 0)
  | 7 => (s, 0xFF, c.tk.get 0 (w.sel % 32), 0)
  | _ =>
    let e := (w.engines.find? fun e => !w.engMet (c.eng e)).getD .ce
    let x := c.eng e
    (s, e.code, x.done, if x.q.isEmpty then 0 else x.head.toNat)

/-- The trap that a `wait` of the executing context comes to; a missed promise is cleared in its slot (R217). -/
def waitTrap (s : State) (lim : Nat) (n : WaitNow) : Res :=
  let k := s.focusCore
  match n with
  | .fault e f => .trap (s.reportFault k e f) (engineTrap e f.seq f.thief f.cause f.addr)
  | .miss j w =>
    let c := s.core k
    let i := w.sel % 64
    let b := c.slotOf i
    .trap (s.setCore k (c.setSlot i { b with promise := 0 })) (mkTrap .promiseMiss j i b.promise b.bits.toNat)
  | .stall j w =>
    let r := s.stallInfo k s.focusFw w
    .trap (r.1.setCur { r.1.cur with op := none, stallCnt := lim + 1 }) (mkTrap .stall j r.2.1 r.2.2.1 r.2.2.2)
  | _ => .wait s

/-- `wait` (R145 to R147): the descriptor and the time-out are read, then its first tick. -/
def execWait (d : Reg) (a : AReg) (b : Reg) (fb : Bool) (s : State) : Host.Outcome State Fault Refusal :=
  (readSrc s b fb fun lim => waitDest s d (
    let va := s.cur.getA a
    readDesc s va 16 fun s hd =>
      let n := field hd 0 1 % 8
      let allOf := nbit (field hd 0 2) 8
      if n = 0 || decide (5 ≤ n) then writeS s d (0x1 <<< 60)
      else
        readDesc s va (16 + 16 * n) fun s bs =>
          let ws := waitConds bs n
          if ws.any WaitCond.bad then writeS s d (0x1 <<< 60)
          else
            match s.waitNow s.focusCore s.focusFw allOf ws lim.toNat s.tb with
            | .hold => .ok (s.setCur { s.cur with op := some (.wait d allOf ws lim.toNat s.tb), stallCnt := 0 })
            | .done ts => .ok ((s.setCur { s.cur with stallCnt := 0 }).waitDone d ws ts)
            | x => waitTrap (s.setCur { s.cur with stallCnt := 0 }) lim.toNat x)).dropReads.out

/-- A context that waits, made the executing one, in a tick: `f` gets its destination, conditions and time-out, and what it
comes to. -/
def State.inWait (s : State) (k : Nat) (fw : Bool) (f : State → Reg → List WaitCond → Nat → WaitNow → Host.Outcome State Fault Refusal) :
    Host.Outcome State Fault Refusal :=
  match (if (s.core k).stopped then none else (s.ctx k fw).op) with
  | some (.wait d allOf ws lim start) =>
    f { s with focusCore := k, focusFw := fw } d ws lim (s.waitNow k fw allOf ws lim start)
  | _ => .next s

/-- `WAIT_COMPLETE` (R147): the conditions are true in this tick; the next word issues in a later one (R474). A pending fault of an
engine it names is taken at once (R443). -/
def execWaitComplete (core : Nat) (fw : Bool) (s : State) : Host.Outcome State Fault Refusal :=
  s.inWait core fw fun t d ws lim n =>
    match n with
    | .done ts => .next ((t.waitDone d ws ts).turnTaken core fw)
    | .fault .. => (waitTrap t lim n).out
    | _ => .next s

/-- `STALL_TIMEOUT` (R147): the sample of this tick is false and the count passes the time-out. -/
def execStallTimeout (core : Nat) (fw : Bool) (s : State) : Host.Outcome State Fault Refusal :=
  s.inWait core fw fun t _ _ lim n =>
    match n with
    | .stall .. => (waitTrap t lim n).out
    | _ => .next s

/-- `PROMISE_MISS` (R217). -/
def execPromiseMiss (core : Nat) (fw : Bool) (s : State) : Host.Outcome State Fault Refusal :=
  s.inWait core fw fun t _ _ lim n =>
    match n with
    | .miss .. => (waitTrap t lim n).out
    | _ => .next s

/-! ### Notices (R446, R447) -/

/-- The clock of a quad in MHz (R462). -/
def clockMhz (step : BitVec 2) : Nat :=
  match step.toNat with
  | 0 => 2100 | 1 => 1600 | 2 => 1050 | _ => 0

/-- A notice reaches the user context of a core (R446): it merges with one that is held; one aimed at a run past its `exit` is
discarded (R458). -/
def State.postNotice (s : State) (k : Nat) (kind : BitVec 8) : State :=
  let c := s.core k
  match c.task with
  | none => s
  | some r =>
    if r.exited then s
    else
      let n : Notice :=
        { kind := kind, merged := (match c.user.notice with | some m => satInc m.merged 255 | none => 1), cadence := c.cadence,
          mhz := clockMhz c.clockStep, at_ := s.tb }
      s.setCore k { c with user := { c.user with notice := some n } }

/-- Every core that a run is placed on receives a notice. -/
def State.noticeRuns (s : State) (ks : List Nat) (kind : BitVec 8) : State := ks.foldl (fun s k => s.postNotice k kind) s

/-- The cores of the package. -/
def allCores : List Nat := List.range 512

/-- The trap of a notice (R446). -/
def noticeTrap (n : Notice) : Trap := mkTrap .notice (n.kind.toNat + n.merged * 256) n.cadence n.mhz n.at_

/-- A held notice is taken at this boundary (R440, R441, R446): the context runs and is not in a handler, and is not between a
taken branch and its slot unless the slot's word has begun to wait. -/
def State.takesNotice (s : State) (k : Nat) : Bool :=
  let c := s.core k
  let u := c.user
  !s.halted && !s.powerOff && !c.dead && !c.stopped && c.run && !u.halted && u.notice.isSome && !u.ih
    && (u.slot.isNone || u.blocked || u.op.isSome) && !u.sentCard

/-- Take the held notice of a user context. -/
def State.takeNotice (s : State) (k : Nat) : State :=
  let u := s.ctx k false
  match u.notice with
  | none => s
  | some n => (s.setCtx k false { u with notice := none }).takeTrapAt k false (noticeTrap n) true u.pc u.slot

/-- `NOTICE` (R446): a notice reaches a core, and is taken at once where the context stands at a boundary. -/
def execNotice (core : Nat) (kind : BitVec 8) (s : State) : Host.Outcome State Fault Refusal :=
  let s := s.postNotice core kind
  .next (if s.takesNotice core then s.takeNotice core else s)

/-! ### Buckets (R142) -/

/-- `BUCKET_REFILL` (R142): a refill period has ended. -/
def execBucketRefill (core : Nat) (fw : Bool) (s : State) : Host.Outcome State Fault Refusal :=
  let x := s.ctx core fw
  if x.bucket.last + x.bucket.per + 1 ≤ s.tb then .next (s.setCtx core fw { x with bucket := x.bucket.refill }) else .next s

/-! ### `exit` -/

/-- A published command of a core is bound to use `j` of a booking (R457). -/
def Core.boundTo (c : Core) (id j : Nat) : Bool :=
  [c.ce, c.me].any fun x => x.q.any fun t =>
    !t.control && (match t.built with | some b => decide (bookOf b = some (id, j)) | none => false)

/-- The uses of a live booking that have not started and carry no published command are cancelled (R457); a request still in its
rounds to which no command is bound is cancelled as a whole. -/
def State.exitBooking (s : State) (k : Nat) (b : Booking) : State :=
  let c := s.core k
  if b.status = .held && !(List.range b.uses.length).any fun j => c.boundTo b.id j then s.endBooking k b .cancelled 0
  else
    let started (j : Nat) (u : BUse) : Bool :=
      if b.status = .held then false
      else if s.useHere u then (match (s.cal u.cal).use (s.useId k b j) with | some o => o.start.isSome | none => false)
      else decide (256 * u.first ≤ s.tb)
    let ends (j : Nat) (u : BUse) : Bool := !u.fin && !started j u && !c.boundTo b.id j
    let s := (List.range b.uses.length).foldl (fun s j =>
      match b.uses[j]? with
      | some u => if ends j u then s.releaseUse k b j u (if b.status = .held then .release else .cancel) else s
      | none => s) s
    let us := b.uses.mapIdx fun j u => if ends j u then { u with fin := true, ans := if u.ans = .waiting then .waiting else .own } else u
    if us.all BUse.fin then s.deliverBooking k { b with uses := us, status := .cancelled, sub := 0 }
    else s.setBooking k { b with uses := us }

/-- `exit` (R195, R457): user fetch stops, the casks go, and uses that nothing will run are cancelled. -/
def execExit (s : State) : Host.Outcome State Fault Refusal :=
  (notInSlot s (userOnly s (faultCheck s [.ce, .me, .ve, .sae] (
    let k := s.focusCore
    let c := s.curCore.dropCasks
    let s := s.setCurCore { c with run := false, task := c.task.map fun r => { r with exited := true } }
    let s := ((s.core k).books.filter Booking.live).foldl (fun s b => s.exitBooking k b) s
    .ok (s.setCur { s.cur with notice := none }).retire)))).out

end Sys2Proof.Machine
end

