-- ==== Sys2Proof/Machine/Booking.lean ====
section
/-!
DEFINITION. Bookings: `bk.req`, `bk.cancel`, `bk.stat` (R80 to R83), search rounds and their answers (R61 to R68), owners'
actions (R65, R66), slips (R72, R75), and the running of booked uses (R55, R57, R69 to R77). Also the errors of a booking unit
(R87 to R89).
-/

namespace Sys2Proof.Machine

/-! ### The instructions -/

/-- The largest index of a kind of resource (R59). -/
def lastIndex (k : CalKind) : Nat := match k with | .me | .ce => 511 | .mcg => 63 | .port => 34

/-- Use `j` of a chain descriptor, from its record (R59); `none` where a field is outside its range (R60). -/
def useOfRecord (bs : List Byte) (j : Nat) : Option BUse :=
  let w := field bs (16 * j) 8
  let pred := field bs (16 * j + 8) 2
  let cal := calOfWord w
  let pkg := nbits w 61 51
  let dur := nbits w 16 0
  if (decide (pkg ≤ 1057) || pkg = 0x7FF) && decide (cal.idx ≤ lastIndex cal.kind) && decide (1 ≤ dur) && decide (dur ≤ 65536)
      && pred / 2 ^ j = 0 then
    some (newUse cal pkg (nbit w 32) dur pred)
  else none

/-- The uses of a descriptor, where every one is valid (R60). -/
def usesOf (bs : List Byte) (n : Nat) : Option (List BUse) := (List.range n).mapM (useOfRecord bs)

/-- A request reaches the booking unit (R78, R81, R88): the table is judged first (R81), then a stopped unit, then the descriptor: the
manual does not say which of R81 and R88 comes first on a stopped die (DESIGN CHOICE, log entry 71). -/
def State.request (s : State) (d : Reg) (notBefore : Nat) (us : Option (List BUse)) : State :=
  let k := s.focusCore
  let c := s.curCore
  if c.bookingsFull then s.setCur (s.cur.setS d tableFull)
  else
    let b := { newBooking c.nextId s.berth notBefore (us.getD []) (some (s.focusFw, d)) with next := s.tb }
    let ended (st : BookStatus) (sub : Nat) : State :=
      let b := { b with status := st, sub := sub, dest := none }
      let t := s.setCurCore (c.addBooking b)
      t.setCur (t.cur.setS d b.word)
    if (s.die (dieOf k)).failstop then ended .fatal 1
    else if us.isNone || decide (8191 < notBefore) then ended .refused 2
    else
      let t := s.setCurCore (c.addBooking b)
      t.setCur (t.cur.setFE d .pending)

/-- `bk.req` (R81). -/
def execBkReq (d : Reg) (a : AReg) (s : State) : Host.Outcome State Fault Refusal :=
  (coreState s (waitDest s d (
    let va := s.cur.getA a
    if va.toNat % 16 ≠ 0 then .trap s (mkTrap .align va.toNat 0 0 0)
    else
      readDesc s va 16 fun s hd =>
        let n := field hd 0 1
        let done (s : State) (us : Option (List BUse)) : Res :=
          let t := s.request d (field hd 4 3) us
          .ok (t.setCur t.cur.advance)
        if n = 0 || decide (16 < n) then done s none
        else readDesc s (va + 16) (16 * n) fun s bs => done s (usesOf bs n)))).dropReads.out

/-- The current result word of the booking that a register names (R82, R83). -/
def Core.bookWord (c : Core) (id : Nat) : W64 := match c.booking id with | some b => b.word | none => bookNone id

/-- `bk.cancel` (R82). -/
def execBkCancel (d a : Reg) (fa : Bool) (s : State) : Host.Outcome State Fault Refusal :=
  (coreState s (readSrc s a fa fun v => waitDest s d (
    let id := nbits v.toNat 51 40
    let k := s.focusCore
    let t := match s.curCore.booking id with
      | some b => if b.live then s.endBooking k b .cancelled 0 else s
      | none => s
    writeS t d (t.curCore.bookWord id)))).out

/-- `bk.stat` (R83). -/
def execBkStat (d a : Reg) (fa : Bool) (s : State) : Host.Outcome State Fault Refusal :=
  (coreState s (readSrc s a fa fun v => waitDest s d (writeS s d (s.curCore.bookWord (nbits v.toNat 51 40))))).out

/-! ### Rounds (R61, R67) -/

/-- How the answers of a round stand. -/
inductive RoundEnd where
  | waiting | fatal | noRoute | noRun | refused | late | held
deriving DecidableEq, Repr

/-- A use refused with every alternative beyond the horizon. -/
def Answer.noRun (a : Answer) : Bool := match a with | .refused none => true | _ => false

/-- A use refused with an alternative. -/
def Answer.alt (a : Answer) : Option Nat := match a with | .refused x => x | _ => none

/-- A hold that a commit sent now would not reach in time (R67). -/
def State.holdLate (s : State) (die : Nat) (u : BUse) : Bool :=
  match u.ans with
  | .held exp => decide (exp ≤ s.tb + s.tOwner die u + 16)
  | _ => false

/-- How a round of a booking unit stands (R67): every answer is awaited, and the cases are judged in their order. -/
def State.roundEnd (s : State) (die : Nat) (us : List BUse) : RoundEnd :=
  if us.any fun u => u.ans = .waiting then .waiting
  else if us.any fun u => u.ans = .fatal then .fatal
  else if us.any fun u => u.ans = .noRoute then .noRoute
  else if us.any fun u => u.ans.noRun then .noRun
  else if us.any fun u => u.ans.alt.isSome then .refused
  else if us.any (s.holdLate die) then .late
  else .held

/-- A refused round ends (R67): what it holds is released, and the next round waits for the next berth boundary, unless the
refused rounds exceed `BKU.RETRY_MAX`. -/
def State.nextRound (s : State) (k : Nat) (b : Booking) (raise_ : Bool) : State :=
  let s := s.releaseUses k b .release 0 b.uses
  let us := b.uses.map fun u =>
    { u with floor := (if raise_ then max u.floor (u.ans.alt.getD u.floor) else u.floor), ans := .refused none }
  let b := { b with uses := us, round := none, refusals := b.refusals + 1, next := 256 * (s.berth + 1) }
  if (s.die (dieOf k)).retryMax < b.refusals then s.deliverBooking k (b.ends .refused 1)
  else s.setBooking k b

/-- A round of a request goes on or ends (R67). -/
def State.judgeRound (s : State) (k : Nat) (b : Booking) : State :=
  match s.roundEnd (dieOf k) b.uses with
  | .waiting => s.setBooking k b
  | .fatal => s.endBooking k b .fatal 1
  | .noRoute => s.endBooking k b .refused 5
  | .noRun => s.endBooking k b .refused 3
  | .refused => s.nextRound k b true
  | .late => s.nextRound k b false
  | .held => s.setBooking k { b with next := s.tb + 16 }

/-- Send messages to the owners of the uses that another booking unit owns, at a tick: those for another package leave for it at that
tick (R61). -/
def State.tellOwners (s : State) (die core : Nat) (hm : Bool) (xid : Nat) (us : List BUse) (t : BookType) (at_ : Nat) : State :=
  let now := s.tb
  let n := s.out.length
  let s := (List.range us.length).foldl (fun s j =>
    match us[j]? with
    | some u => if s.ownedBy die u || u.fin then s else s.toOwner die core hm xid j u t u.first
    | none => s) { s with tb := at_ }
  if at_ ≤ now then { s with tb := now }
  else { s with tb := now, out := s.out.take n, outDue := s.outDue ++ (s.out.drop n).map fun p => (p, at_) }

/-- A use of an owner that no route reaches is answered NO_ROUTE at once (R67, R402). -/
def State.noRoutes (s : State) (us : List BUse) : List BUse :=
  us.map fun u => if !u.fin && !s.useHere u && s.hops u.pkg = 3 then { u with ans := .noRoute } else u

/-- A round begins (R61): its own rows are HELD, and HOLDs leave after its search steps. -/
def State.beginRound (s : State) (k : Nat) (b : Booking) : State :=
  let d := dieOf k
  match s.search d (s.useId k b) b.uses s.tb [] b.uses with
  | .horizon t j done =>
    let b := { b with uses := b.uses.mapIdx fun i u => { u with ans := if i < j then .own else .refused none } }
    (t.freeOwn d (s.useId k b) done).deliverBooking k (b.ends .refused 3)
  | .ok t us =>
    let sent := s.tb + 12 * s.ncal us
    let us := s.noRoutes us
    let t := t.tellOwners d k false b.id us .hold sent
    let own := us.all fun u => u.ans = .own
    let b := { b with uses := us, round := some s.tb, next := if own then sent + 16 else 0 }
    if own then t.setBooking k b else t.judgeRound k b

/-- A request commits (R67, R68); an owner that has become unreachable makes it FATAL. -/
def State.commitBooking (s : State) (k : Nat) (b : Booking) : State :=
  let d := dieOf k
  let t := (s.bookOwn d (s.useId k b) b.uses).tellOwners d k false b.id b.uses .commit s.tb
  let b := { b with uses := b.uses.map fun u => if s.passedUse d u then { u with fin := true } else u }
  let b := if b.rebook then { b with status := .slipped, rebook := false }
    else { b with status := .committed, berth := (match b.uses with | u :: _ => u.first | [] => 0) }
  let t := t.deliverBooking k b
  if (s.noRoutes b.uses).any fun u => u.ans = .noRoute then t.endBooking k { b with dest := none } .fatal 4 else t

/-- A request may begin a round in a tick: its first one from the tick in which it came, a later one at a berth boundary (R67). -/
def Booking.mayBegin (b : Booking) (t : Nat) : Bool :=
  b.status = .held && b.round.isNone && decide (b.next ≤ t) && (decide (b.refusals = 0) || decide (t % 256 = 0))

/-- A request of a die stands before another at its booking unit (R62): it came earlier, or with a lower core number. -/
def earlier (j : Nat) (x : Booking) (k : Nat) (b : Booking) : Bool :=
  decide (x.next < b.next) || (decide (x.next = b.next) && (decide (j < k) || (decide (j = k) && decide (x.order < b.order))))

/-- The booking unit of a die takes up a round of a request (R62): no other round is at its search steps, and none stands
before it. -/
def State.bkuTakes (s : State) (k : Nat) (b : Booking) : Bool :=
  (List.range 64).all fun i =>
    let j := 64 * dieOf k + i
    (s.core j).books.all fun x =>
      x.status ≠ .held || (decide (j = k) && decide (x.order = b.order)) ||
        match x.round with
        | some r => decide (r + 12 * s.ncal x.uses ≤ s.tb)
        | none => !x.mayBegin s.tb || !earlier j x k b

/-- A request of a core begins its round, or commits at the end of its commit step (R61, R62, R67, R68); on a stopped unit it is FATAL
(R88). -/
def State.requestRound (s : State) (k bid : Nat) : State :=
  match (s.core k).booking bid with
  | none => s
  | some b =>
    if b.status ≠ .held || decide (s.tb < b.next) then s
    else if (s.die (dieOf k)).failstop then s.endBooking k b .fatal 1
    else
      match b.round with
      | none => if b.mayBegin s.tb && s.bkuTakes k b then s.beginRound k b else s
      | some _ => if b.next = 0 then s else s.commitBooking k b

/-- The requests of a die's own cores, in their order (R62). -/
def State.localRounds (s : State) (d : Nat) : State :=
  (List.range 64).foldl (fun s i =>
    let k := 64 * d + i
    ((s.core k).books.filter fun b => b.status = .held).foldl (fun s b => s.requestRound k b.id) s) s

/-! ### Messages -/

/-- The source of a message that another package sent. -/
def outsideSrc : Nat := 10

/-- The message that comes next on the way from one die to another, the one that is due first: messages keep their order (R12). -/
def State.nextMsg (s : State) (src die : Nat) : Option MsgF :=
  (s.msgs.filter fun f => f.src = src && f.die = die).foldl (fun (best : Option MsgF) f =>
    match best with
    | none => some f
    | some g => if f.due < g.due then some f else best) none

/-- A booking message that has arrived: the state without it, and the message. One that no unit of this package sent comes from
another package. -/
def State.arrive (s : State) (t : BookType) (m : BookMsg) : Option (State × MsgF) :=
  let hit (f : MsgF) : Bool := f.type_ = t && f.msg = m && decide (f.due ≤ s.tb) && decide (s.nextMsg f.src f.die = some f)
  let outside (die : Nat) : State × MsgF := (s, { src := outsideSrc, die := die, due := s.tb, type_ := t, msg := m })
  match s.msgs.find? hit with
  | some f => some ({ s with msgs := s.msgs.erase f }, f)
  | none =>
    if s.msgs.any fun f => f.type_ = t && f.msg = m then none
    else if m.pkg = s.pkg then some (outside (reqDie m))
    else if s.ownPkg (nbits m.res.toNat 61 51) then some (outside (ownerDie (calOfWord m.res.toNat)))
    else none

/-- A message waits at its unit. -/
def State.queueMsg (s : State) (f : MsgF) : State := if s.msgs.contains f then s else { s with msgs := s.msgs ++ [f] }

/-- The identity that a message names. -/
def msgUse (m : BookMsg) : UseId := { pkg := m.pkg, core := m.core, hm := m.hm, xid := m.xid, use := m.use }

/-- A tide may begin a round in a tick, as a request may (R67, R424). -/
def Tide.mayBegin (t : Tide) (now : Nat) : Bool :=
  !t.committed && t.round.isNone && decide (t.next ≤ now) && (decide (t.refusals = 0) || decide (now % 256 = 0))

/-- Requests of a booking unit's own that came no later than a message stand before it (R62): of the die's cores, and on IOD0 tides of
the harbourmaster. -/
def State.localFirst (s : State) (d due : Nat) : Bool :=
  ((List.range 64).any fun i => (s.core (64 * d + i)).books.any fun b => b.mayBegin due && b.mayBegin s.tb)
  || (decide (d = 8) && s.hmRounds.any fun r => r.tides.any fun t => t.mayBegin due && t.mayBegin s.tb)

/-- A message to an owner (R65), from a requester of this package or of another, after the unit's own requests (R62); it acts with the
tick in which it arrived. -/
def State.atOwner (s : State) (t : BookType) (m : BookMsg) (f : State → Nat → Nat → Cal → State) : State :=
  match s.arrive t m with
  | none => s
  | some (x, g) =>
    if (g.src = outsideSrc && m.pkg = s.pkg) || ownerDie (calOfWord m.res.toNat) ≠ g.die then x
    else if s.localFirst g.die g.due then s.queueMsg g
    else f x g.die g.due (calOfWord m.res.toNat)

/-- The alternative of an answer that no run lies in the horizon (R65). -/
def noBerth : Nat := 2 ^ 56 - 1

/-- `HOLD` (R27, R65, R88, R89). -/
def execHold (m : BookMsg) (s : State) : Host.Outcome State Fault Refusal :=
  .next (s.atOwner .hold m fun t d _ c =>
    let n := nbits m.res.toNat 16 0
    let x := t.cal c
    if (t.die d).failstop then t.toRequester d .refusedFatal m
    else if x.freeRun m.berth n && decide (t.berth ≤ m.berth) && decide (m.berth + n ≤ t.horizon + 1) then
      let exp := t.tb + (t.die d).holdTmo
      let u : OwnUse :=
        { id := msgUse m, first := m.berth, n := n, st := .held, exp := exp, start := none, carried := false, stop := false, dur := 256 * n, link := nbit m.res.toNat 32 }
      (t.placeUse c u).toRequester d .held { m with exp := exp }
    else
      let b := if x.poisoned then noBerth else (t.freeFrom c (max (m.berth + 1) t.berth) n).getD noBerth
      t.toRequester d .refused { m with berth := b })

/-- `COMMIT` (R65, R66): it turns held rows BOOKED where it arrives up to and including the tick EXP. -/
def execCommit (m : BookMsg) (s : State) : Host.Outcome State Fault Refusal :=
  .next (s.atOwner .commit m fun t d due c =>
    if (t.die d).failstop then t.toRequester d .refusedFatal m
    else
      match (t.cal c).use (msgUse m) with
      | none => t
      | some u => if u.st = .held && decide (due ≤ u.exp) then t.placeUse c { u with st := .booked, exp := 0 } else t)

/-- `RELEASE` (R65). -/
def execRelease (m : BookMsg) (s : State) : Host.Outcome State Fault Refusal :=
  .next (s.atOwner .release m fun t _ _ c => t.ownerRelease c (msgUse m))

/-- `CANCEL` (R65). -/
def execCancel (m : BookMsg) (s : State) : Host.Outcome State Fault Refusal :=
  .next (s.atOwner .cancel m fun t _ _ c => t.ownerRelease c (msgUse m))

/-- `UNKNOWN_BOOKING_MESSAGE` (R64): it is dropped and counted. -/
def execUnknownBookingMessage (die : Nat) (type : Byte) (s : State) : Host.Outcome State Fault Refusal :=
  if 1 ≤ type.toNat ∧ type.toNat ≤ 10 then .next s
  else .next (s.setDie die { s.die die with drop := satInc (s.die die).drop 255 })

/-! ### Slips (R72, R75) -/

/-- What the owner of a use answers to a move: it is over, it stands at a berth, or no run lies in the horizon. -/
inductive Moved where
  | gone
  | at_ (s : State) (first : Nat)
  | noRun

/-- The owner moves a use to the earliest run of its rows at or after a floor that is FREE or its own; one that runs stays. -/
def State.moveUse (s : State) (c : Cal) (id : UseId) (floor : Nat) : Moved :=
  let x := s.cal c
  match x.use id with
  | none => .gone
  | some u =>
    if u.start.isSome then .at_ s u.first
    else
      let from_ := max floor s.berth
      match earliest (fun b => x.freeOrOwn id b u.n) (s.horizon + 2 - u.n - from_) from_ with
      | none => .noRun
      | some b => .at_ ((s.setCal c (x.dropUse id)).placeUse c { u with first := b }) b

/-- A use of a booking of the table has a new first berth and count. -/
def Booking.setUse (b : Booking) (j first n : Nat) : Booking :=
  { b with uses := b.uses.mapIdx fun i u => if i = j then { u with first := first, n := n } else u }

/-- A use has lost berths of its own to one that has extended over them (R72 rule 1). -/
def State.overlapped (s : State) (p u : BUse) : Bool :=
  s.samePkg p u && decide (p.cal = u.cal) && !p.fin && decide (u.first < p.first + p.n) && decide (p.first < u.first + u.n)

/-- The requester moves the dependants of use `i`, in index order, and theirs (R75): those whose floor has passed their first berth, and
one that has lost a berth to `i`; `fuel` bounds the chain. -/
def State.moveDeps (s : State) (k id : Nat) : Nat → Nat → State
  | 0, _ => s
  | fuel + 1, i =>
    (List.range 16).foldl (fun s j =>
      match (s.core k).booking id with
      | none => s
      | some b =>
        match b.uses[j]? with
        | none => s
        | some u =>
          let floor := s.afterPreds (b.uses.take j) u 0
          let lost := match b.uses[i]? with | some p => s.overlapped p u | none => false
          if !(b.status = .committed || b.status = .slipped) || !nbit u.pred i || u.fin || (decide (floor ≤ u.first) && !lost) then s
          else if s.ownedBy (dieOf k) u then
            match s.moveUse u.cal (s.useId k b j) floor with
            | .gone => s
            | .noRun => s.endBooking k b .fatal 3
            | .at_ t f => if f = u.first then t else State.moveDeps (t.setBooking k (b.setUse j f u.n)) k id fuel j
          else if !s.useHere u && s.hops u.pkg = 3 then s.endBooking k b .fatal 4
          else s.toOwner (dieOf k) k false id j u .slip floor) s

/-- The requester learns of the new extent of use `i`, and the cascade begins (R75): the booking is SLIPPED. -/
def State.slipped (s : State) (k id i first n : Nat) : State :=
  match (s.core k).booking id with
  | none => s
  | some b =>
    if b.status = .committed || b.status = .slipped then
      (s.setBooking k { b.setUse i first n with status := .slipped }).moveDeps k id 16 i
    else s

/-- The owner of an overrunning use acts, or reports in a SLIP message its first berth and new count (R75; log entry 6). -/
def State.reportSlip (s : State) (c : Cal) (u : OwnUse) : State :=
  if u.id.pkg = s.pkg && !u.id.hm && dieOf u.id.core = ownerDie c then s.slipped u.id.core u.id.xid u.id.use u.first u.n
  else
    s.toRequester (ownerDie c) .slip
      { use := u.id.use, xid := u.id.xid, pkg := u.id.pkg, core := u.id.core, hm := u.id.hm, res := useWord s.pkg c u.link u.n,
        berth := u.first, exp := 0 }

/-! ### Running uses -/

/-- A use has completed (R65, R71): its owner tells the requester. -/
def State.sendDone (s : State) (c : Cal) (id : UseId) (link : Bool) : State :=
  if id.pkg = s.pkg && !id.hm && dieOf id.core = ownerDie c then s.useDone id.core id.xid id.use
  else
    s.toRequester (ownerDie c) .done
      { use := id.use, xid := id.xid, pkg := id.pkg, core := id.core, hm := id.hm, res := useWord s.pkg c link 0, berth := 0, exp := 0 }

/-- The engine of a calendar. -/
def calEng (c : Cal) : Option Eng := match c.kind with | .me => some .me | .ce => some .ce | _ => none

/-- The commands bound to a use that were published by the start of its first berth (R71): the use is carried by the first. -/
def State.carrier (s : State) (c : Cal) (u : OwnUse) : Option Entry :=
  match calEng c with
  | none => none
  | some e =>
    if u.id.pkg ≠ s.pkg || u.id.hm || u.id.core ≠ c.idx then none
    else
      ((s.core c.idx).eng e).q.find? fun t =>
        t.isCommand e && !t.done && (u.carried || decide (t.pub ≤ 256 * u.first)) &&
          (match t.built with | some b => decide (bookOf b = some (u.id.xid, u.id.use)) | none => false)

/-- A use that a command carries waits for it to stand at the head of its queue (R69). -/
def State.carrierReady (s : State) (c : Cal) (t : Entry) : Bool :=
  match calEng c with
  | none => true
  | some e => (((s.core c.idx).eng e).headCommand e).map Entry.seq = some t.seq

/-- A walk-in still runs on the engine of a calendar and has not come to its boundary (R58). -/
def State.walkBusy (s : State) (c : Cal) : Bool :=
  match calEng c with
  | none => false
  | some e =>
    match s.runningWalk c.idx e with
    | some (_, t) => !t.susp
    | none => false

/-- Use `j` of a booking, AFTER its predecessors, waits for those that the same booking unit owns (R59, R75). -/
def State.predsRun (s : State) (c : Cal) (id : UseId) : Bool :=
  if id.pkg ≠ s.pkg || id.hm then false
  else
    match (s.core id.core).booking id.xid with
    | none => false
    | some b =>
      match b.uses[id.use]? with
      | none => false
      | some u =>
        !u.withLink && (List.range b.uses.length).any fun i =>
          match b.uses[i]? with
          | some p => nbit u.pred i && s.ownedBy (ownerDie c) p && ((s.cal p.cal).use { id with use := i }).isSome
          | none => false

/-- A use of a calendar starts (R69): its rows from the running berth on are RUNNING and BOOKED. -/
def State.startUse (s : State) (c : Cal) (u : OwnUse) (carried : Bool) : State :=
  let x := (s.cal c).setUse { u with start := some s.tb, carried := carried }
  s.setCal c (match x.row s.berth with
    | some r => if r.id = u.id then x.setRow s.berth (some { st := .running, id := u.id }) else x
    | none => x)

/-- `USE_START` (R69, R71): the next booked use of a calendar starts once its first berth has begun, the resource is free of the
use before it, a walk-in is suspended, and a command that carries it is at the head. -/
def execUseStart (cal : Cal) (s : State) : Host.Outcome State Fault Refusal :=
  let x := s.cal cal
  let ready (u : OwnUse) : Bool :=
    u.st = .booked && u.start.isNone && decide (u.first ≤ s.berth) && !s.predsRun cal u.id &&
      (match s.carrier cal u with | some t => s.carrierReady cal t | none => true)
  if (s.die (ownerDie cal)).failstop || x.poisoned || x.uses.any (fun u => u.start.isSome && (calEng cal).isSome) || s.walkBusy cal then
    .next s
  else
    match x.uses.find? ready with
    | none => .next s
    | some u => .next (s.startUse cal u (u.carried || (s.carrier cal u).isSome))

/-- The next berth of an overrunning use is FREE, or booked to a use of its booking that has it as a predecessor (R72 rule 1);
the chain of a requester of another package is not known here. -/
def State.mayExtend (s : State) (c : Cal) (u : OwnUse) : Bool :=
  match (s.cal c).row (u.first + u.n) with
  | none => true
  | some r =>
    r.id.pkg = u.id.pkg && r.id.core = u.id.core && r.id.xid = u.id.xid && r.id.hm = u.id.hm && decide (u.id.pkg = s.pkg)
      && match (s.core u.id.core).booking u.id.xid with
        | none => false
        | some b => match b.uses[r.id.use]? with | some v => nbit v.pred u.id.use | none => false

/-- A use becomes a continuation (R72 rule 2): booked at the earliest run of FREE rows after the running berth. -/
def State.continueUse (s : State) (c : Cal) (u : OwnUse) : State :=
  let dur := max 1 (u.dur - match u.start with | some t => s.tb - t | none => 0)
  let n := (dur + 255) / 256
  let s := s.setCal c ((s.cal c).dropUse u.id)
  match s.freeFrom c (s.berth + 1) n with
  | some b =>
    let v := { u with first := b, n := n, st := .booked, start := none, dur := dur }
    let s := s.placeUse c v
    if u.id.hm then s else s.reportSlip c { v with first := u.first, n := b + n - u.first }
  | none =>
    if u.id.pkg = s.pkg && !u.id.hm then
      match (s.core u.id.core).booking u.id.xid with
      | some b => s.endBooking u.id.core b .fatal 3
      | none => s
    else s.toRequester (ownerDie c) .moved
      { use := u.id.use, xid := u.id.xid, pkg := u.id.pkg, core := u.id.core, hm := u.id.hm, res := useWord s.pkg c u.link n,
        berth := noBerth, exp := 0 }

/-- A use of an engine in a chain of forced work that is in progress (R300): lost time makes it overrun, as a command does (R72). -/
def State.forcedChain (s : State) (c : Cal) (u : OwnUse) : Bool :=
  (calEng c).isSome && decide (u.id.pkg = s.pkg) && !u.id.hm && decide (u.id.core = c.idx)
    && (s.core c.idx).forcedWork.any (·.runs.any (·.id = u.id.xid))

/-- A forced pass runs in a use (R300, R316). -/
def State.forcedPass (s : State) (c : Cal) (u : OwnUse) : Bool :=
  c.kind = .me && u.id.pkg = s.pkg && !u.id.hm && u.id.core = c.idx && (s.core c.idx).fuse = some (u.id.xid, u.id.use)

/-- The last booked berth of a use ends (R71, R72): a standing use completes; one that a command carries, or that forced work runs in,
extends by rule 1, or is to yield. One that has not started is treated alike, and yields at once: R72 speaks only of a use that is still
running (DESIGN CHOICE, log entry 71). -/
def State.useEnds (s : State) (c : Cal) (u : OwnUse) : State :=
  if u.stop then s
  else if u.st = .held then s.setCal c ((s.cal c).dropUse u.id)
  else if !u.carried && (s.carrier c u).isNone && !s.forcedChain c u && !s.forcedPass c u then
    (s.setCal c ((s.cal c).dropUse u.id)).sendDone c u.id u.link
  else if (s.die (ownerDie c)).failstop || (s.cal c).poisoned then s
  else if s.mayExtend c u then
    let v := { u with n := u.n + 1 }
    let st := if u.start.isSome then RowState.running else .booked
    (s.setCal c (((s.cal c).setUse v).setRow (u.first + u.n) (some { st := st, id := u.id }))).reportSlip c v
  else if u.start.isNone then s.continueUse c { u with carried := !s.forcedChain c u }
  else s

/-- The row of a berth that has passed is FREE for the berth 8,192 later, and that of the next berth of a running use RUNNING
(R55, R56). -/
def Calendar.turn (x : Calendar) (b : Nat) : Calendar :=
  let covers (i : UseId) (b : Nat) : Bool :=
    match x.use i with | some u => decide (u.first ≤ b) && decide (b < u.first + u.n) | none => true
  let y := match x.row b with | some r => if covers r.id b then x.setRow b none else x | none => x
  match y.row (b + 1) with
  | some r =>
    if covers r.id (b + 1) && (match x.use r.id with | some u => u.start.isSome | none => false) then
      y.setRow (b + 1) (some { r with st := .running })
    else y
  | none => y

/-- `BERTH_END` (R55, R71, R72): the berth that a calendar stands at has ended. -/
def execBerthEnd (cal : Cal) (s : State) : Host.Outcome State Fault Refusal :=
  let x := s.cal cal
  if s.berth ≤ x.berth then .next s
  else if x.uses.isEmpty then .next (s.setCal cal { x with rows := [], berth := s.berth })
  else
    let t := match x.uses.find? fun u => u.first + u.n = x.berth + 1 with
      | some u => s.useEnds cal u
      | none => s
    .next (t.setCal cal { (t.cal cal).turn x.berth with berth := x.berth + 1 })

/-- The command that carries a started use stands at a tile boundary, or none does and no forced pass runs in it. -/
def State.atBoundary (s : State) (c : Cal) (u : OwnUse) : Bool :=
  match s.carrier c u with
  | some t => decide (t.since = 0)
  | none => !s.forcedPass c u

/-- `OVERRUN_YIELD` (R72 rule 2): a use whose booked berths have ended yields at a tile boundary of its command. -/
def execOverrunYield (cal : Cal) (s : State) : Host.Outcome State Fault Refusal :=
  match (s.cal cal).uses.find? fun u => u.start.isSome && (u.carried || s.forcedChain cal u) && !u.stop && decide (u.first + u.n ≤ s.berth) with
  | none => .next s
  | some u =>
    if (s.die (ownerDie cal)).failstop || (s.cal cal).poisoned || !s.atBoundary cal u then .next s
    else .next (s.continueUse cal u)

/-- The command that carries a stopped use ends without effect (R70, R76). -/
def State.stopCarrier (s : State) (c : Cal) (u : OwnUse) : State :=
  match calEng c, s.carrier c u with
  | some e, some t => if t.started.isSome then s.setCommand c.idx e { t with stop := true, done := true } else s
  | _, _ => s

/-- `RUNNING_USE_STOP` (R76): a cancelled running use stops at a tile boundary, and its remaining rows are FREE. -/
def execRunningUseStop (cal : Cal) (s : State) : Host.Outcome State Fault Refusal :=
  match (s.cal cal).uses.find? fun u => u.start.isSome && u.stop with
  | none => .next s
  | some u =>
    if !s.atBoundary cal u then .next s
    else
      let t := s.stopCarrier cal u
      .next (t.setCal cal ((t.cal cal).dropUse u.id))

/-- `HOLD_EXPIRY` (R66): the time base has passed EXP, and the held rows are FREE, but where a COMMIT that has arrived in time waits for
the unit's own requests. -/
def execHoldExpiry (cal : Cal) (s : State) : Host.Outcome State Fault Refusal :=
  let x := s.cal cal
  let comes (u : OwnUse) : Bool := s.msgs.any fun f =>
    f.type_ = .commit && f.die = ownerDie cal && decide (msgUse f.msg = u.id) && decide (f.due ≤ u.exp)
  match x.uses.find? fun u => u.st = .held && u.exp ≠ 0 && decide (u.exp < s.tb) && !comes u with
  | none => .next s
  | some u => .next (s.setCal cal (x.dropUse u.id))

/-! ### Errors of a booking unit (R87 to R89) -/

/-- Only the uses of a calendar that run stay. -/
def Calendar.onlyRunning (x : Calendar) : Calendar :=
  let us := x.uses.filter fun u => u.start.isSome
  { x with uses := us, rows := x.rows.filter fun p => match p.2 with | some r => us.any fun u => u.id = r.id | none => false }

/-- Every live booking of the package with a property becomes FATAL with a subcode, and its other uses are cancelled. -/
def State.fatalBookings (s : State) (sub : Nat) (f : State → Nat → Booking → Bool) : State :=
  allCores.foldl (fun s k =>
    ((s.core k).books.filter fun b => b.live && f s k b).foldl (fun s b => s.endBooking k b .fatal sub) s) s

/-- ABANDON to a participant (log entry 6): the status of its waits is 2 ABANDONED or 3 REPOST. -/
def State.sendAbandon (s : State) (r : HmRound) (status : Nat) : State :=
  r.mans.foldl (fun s m =>
    s.send (ctrlPacket 0x14 s.pkg m.core m.pkg 0 (BitVec.ofNat 64 (2 ^ 63 + status * 2 ^ 32 + r.grp * 2 ^ 16 + r.round)) [])) s

/-- The identity of use `j` of a tide. -/
def State.tideUse (s : State) (t : Tide) (j : Nat) : UseId := { pkg := s.pkg, core := 0, hm := true, xid := t.xid, use := j }

/-- Release or cancel what a tide holds (R67, R76). -/
def State.dropTide (s : State) (t : Tide) (ty : BookType) : State :=
  (List.range t.uses.length).foldl (fun s j =>
    match t.uses[j]? with
    | none => s
    | some u =>
      if s.ownedBy 8 u then s.ownerRelease u.cal (s.tideUse t j)
      else
        match u.ans with
        | .held _ | .waiting => s.toOwner 8 0 true t.xid j u ty u.first
        | _ => s) s

/-- The harbourmaster abandons a round (R427): its bookings are cancelled and every participant is told. -/
def State.abandonRound (s : State) (r : HmRound) (status : Nat) : State :=
  let s := r.tides.foldl (fun s t => s.dropTide t (if t.committed then .cancel else .release)) s
  { s with hmRounds := s.hmRounds.filter fun x => !(x.grp = r.grp && x.round = r.round) }.sendAbandon r status

/-- Every round of the harbourmaster with a tide that has become FATAL is abandoned (R424, R427). -/
def State.fatalTides (s : State) (f : Tide → Bool) : State :=
  (s.hmRounds.filter fun r => r.tides.any f).foldl (fun s r => s.abandonRound r 2) s

/-- `BKU_FAILSTOP` (R88): an uncorrectable error in the instruction memory of a booking unit. -/
def execBkuFailstop (die : Nat) (s : State) : Host.Outcome State Fault Refusal :=
  let x := s.die die
  let s := (s.setDie die { x with failstop := true, cals := x.cals.map fun p => (p.1, p.2.onlyRunning) }).tell (.bkuEcc die)
  let open_ (k : Nat) (b : Booking) : Bool := b.status = .held && dieOf k = die
  let ahead (t : Tide) : Bool := (t.committed || t.round.isSome) && t.uses.any fun u => s.ownedBy die u && decide (s.berth < u.first + u.n)
  .next ((s.fatalBookings 1 fun s k b => open_ k b || b.uses.any fun u => !u.fin && s.ownedBy die u).fatalTides fun t =>
    ahead t || (decide (die = 8) && !t.committed))

/-- `CALENDAR_POISON` (R89): an uncorrectable error in a calendar row. -/
def execCalendarPoison (cal : Cal) (s : State) : Host.Outcome State Fault Refusal :=
  let x := s.cal cal
  let lost := x.uses.filter fun u => u.start.isNone && u.id.hm && u.id.pkg = s.pkg
  let s := (s.setCal cal { x with poisoned := true, rows := [], uses := x.uses.filter fun u => u.start.isSome }).tell
    (.bkuEcc (ownerDie cal))
  let hit (s : State) (k : Nat) (b : Booking) : Bool :=
    (List.range b.uses.length).any fun j =>
      match b.uses[j]? with
      | some u => !u.fin && s.useHere u && u.cal = cal && ((s.cal cal).use (s.useId k b j)).isNone
      | none => false
  .next ((s.fatalBookings 2 hit).fatalTides fun t => lost.any fun u => u.id.xid = t.xid)

/-- `DIE_RESET` (R89, R441): poisoned calendars and a stopped booking unit start anew, and cores that a double trap halted are
free again. -/
def execDieReset (die : Nat) (s : State) : Host.Outcome State Fault Refusal :=
  let x := s.die die
  let fresh := x.failstop
  let s := s.setDie die { x with
    failstop := false
    cals := x.cals.map fun p => (p.1, if fresh || p.2.poisoned then { Calendar.reset with berth := p.2.berth } else p.2) }
  .next (s.mapCores ((List.range 64).map (64 * die + ·)) fun c => { c with dead := false })

/-- `CORRECTED_SINGLE_BIT_ERROR` (R87). -/
def execCorrectedSingleBitError (die : Nat) (s : State) : Host.Outcome State Fault Refusal :=
  .next (s.setDie die { s.die die with corr := satInc (s.die die).corr 0xFFFFFFFF })

end Sys2Proof.Machine
end

