-- ==== Sys2Proof/Machine/Fabric.lean ====
section
/-!
DEFINITION. Packets of the fabric (R402 to R408): remote writes, reads and atomics with their answers, NAKs, remote enqueue
(R37, R411 to R413), and count fences (R414 to R417).
-/

namespace Sys2Proof.Machine

/-! ### Receiving -/

/-- A packet that the package has sent to itself is here (R404). -/
def State.selfArrived (s : State) (p : Packet) : Bool :=
  match s.selfDue.find? fun d => d.1 = p with
  | some d => decide (d.2 ≤ s.tb)
  | none => true

/-- A packet reaches this package (R402, R408). One that this package sent to itself is taken from the list of sent packets;
one for another package goes on along its route, or is answered NAK(NO_ROUTE). -/
def State.receive (s : State) (opc : Nat) (p : Packet) (f : State → State) : State :=
  if p.opc ≠ opc then s
  else if s.ownPkg p.spkg then
    (if s.ownPkg p.dpkg && s.out.contains p && s.selfArrived p then
      f { s with out := s.out.erase p, selfDue := s.selfDue.eraseP fun d => d.1 = p } else s)
  else if s.ownPkg p.dpkg then f { s with out := s.out.erase p }
  else if s.hops p.dpkg = 3 then (if nakable p then s.send (nakOf s.pkg p.spkg 2 p) else s)
  else s.send p

/-- A packet that needs a page table of another package waits at this package until it can be taken (log entry 8). -/
def State.keepPacket (s : State) (p : Packet) : State := { s with out := s.out ++ [p] }

/-- An answer to a packet (R406): its TAG comes back, and SCORE is that of the core that asked. -/
def answerTo (pkg opc : Nat) (p : Packet) (arg : W64) (data : List Byte) : Packet where
  opc := opc
  ackreq := false
  ord := false
  dpkg := p.spkg
  spkg := pkg
  score := p.score
  tag := p.tag
  pa := 0
  arg := arg
  rsv := false
  data := data

/-- A packet is answered. -/
def State.answer (s : State) (opc : Nat) (p : Packet) (arg : W64) (data : List Byte) : State := s.send (answerTo s.pkg opc p arg data)

/-- Where a request packet goes in this package (log entry 6): a scratchpad with the requester's address space, or memory. -/
def packetPlace (p : Packet) : Place × Nat :=
  let a := p.arg.toNat
  if nbit a 63 then (.spad (nbits a 30 22) (nbits a 21 0), nbits a 62 47) else (.home (homeKey p.pa), 0)

/-- A request packet is refused at its place (R231, R235). -/
def State.packetRefused (s : State) (p : Packet) (n : Nat) : Bool :=
  match packetPlace p with
  | (.spad c o, asn) => s.windowRefused asn c o n
  | (.home _, _) => !paOk p.pa n
  | _ => true

/-- Bytes of a place of this package, as a packet reads them. -/
def State.placeBytes (s : State) (p : Place) (n : Nat) : List Byte :=
  match p with
  | .spad c o => (s.core c).spadRead o n
  | .home key => readBytes s.mem key n
  | _ => []

/-- The dies whose TLBs hold the entry of a swapped page that another package writes here (R243). -/
def State.staleAt (s : State) (key : Nat) (bs : List Byte) : List Nat :=
  let e : W64 := BitVec.ofNat 64 (leNat bs)
  let old (t : TlbEnt) : Bool :=
    decide (bs.length = 8) && s.ownPkg (nbits t.at_ 55 45) && decide (homeKey t.at_ = key) && decide (t.pte = flipPh e)
  (List.range 8).filter fun d => (s.die d).tlb.any old || s.cores.any fun p => decide (dieOf p.1 = d) && p.2.tlb.any old

/-- A write of another package at its home, under a tag (R361): it changes the bytes, and invalidations leave, also for a page-table entry
that it swaps. -/
def State.remoteWriteAs (s : State) (of key : Nat) (bs : List Byte) : State :=
  (s.staleAt key bs).foldl (fun s d => (s.addFlight (.inval (lineOf key) d of Origin.outside)).1) (s.homeWrite Origin.outside of key bs)

/-- A write of another package at its home, with a fresh tag (R361). -/
def State.remoteApply (s : State) (key : Nat) (bs : List Byte) : State :=
  let r := s.takeTag
  r.1.remoteWriteAs r.2 key bs

/-- The invalidations of a write to memory here that another package has made are on their way: the answer waits for them (R361,
R362). -/
def State.answerPerformed (s : State) (of : Nat) (p : Packet) : State :=
  if s.anyFlight fun _ f => match f with | .inval _ _ w _ => w = of | _ => false then (s.addFlight (.owed of p)).1 else s.send p

/-- Bytes of a place of this package are uncorrectable (R448). -/
def State.placeBad (s : State) (p : Place) (n : Nat) : Bool :=
  match p with
  | .spad c o => (s.core c).spadBad o n
  | .home key => s.homeBad key n
  | _ => false

/-- Bytes written to a place of this package by a packet. -/
def State.placeWrite (s : State) (p : Place) (bs : List Byte) : State :=
  match p with
  | .spad c o => s.setCore c ((s.core c).spadWrite o bs)
  | .home key => s.remoteApply key bs
  | _ => s

/-- The place moved on by bytes. -/
def Place.offset (p : Place) (i : Nat) : Place :=
  match p with
  | .spad c o => .spad c (o + i)
  | .home key => .home (key + i)
  | p => p

/-- The mask of a WR packet that carries pieces of one granule (R223; log entry 6); zero where it carries one run of bytes. -/
def wrMask (p : Packet) : Nat := nbits p.arg.toNat 46 31

/-- Bytes that a WR packet writes. -/
def wrCount (p : Packet) : Nat := if wrMask p = 0 then p.data.length else ((List.range 16).filter (nbit (wrMask p))).length

/-- The runs of bytes that a WR packet writes: offset and bytes. -/
def wrRuns (p : Packet) : List (Nat × List Byte) :=
  if wrMask p = 0 then [(0, p.data)]
  else
    let hit (i : Nat) : Bool := nbit (wrMask p) i && decide (i < 16)
    ((List.range 16).filter fun i => hit i && (i = 0 || !hit (i - 1))).map fun i =>
      (i, ((p.data.drop i).take (((List.range (16 - i)).takeWhile fun j => hit (i + j)).length)))

/-- The write of a WR packet in this package, in one step, under one tag. -/
def State.wrApply (s : State) (of : Nat) (p : Packet) : State :=
  (wrRuns p).foldl (fun s r =>
    match (packetPlace p).1.offset r.1 with
    | .home key => s.remoteWriteAs of key r.2
    | q => s.placeWrite q r.2) s

/-! ### Count fences at their target (R414, R415) -/

/-- The number of a source core of a package among the counts RCVD. -/
def rcvdKey (pkg core : Nat) : Nat := pkg * 512 + core

/-- Bytes of remote posted writes that have reached this package. -/
def State.addRcvd (s : State) (pkg core n : Nat) : State :=
  let k := rcvdKey pkg core
  { s with rcvd := s.rcvd.put 0 k ((s.rcvd.get 0 k + n) % 2 ^ 40) }

/-- A fence is answered FENCE_ANS(n, m): the count m is taken, and ARG carries it, with n as payload (log entry 6). -/
def State.answerFence (s : State) (f : FenceDst) : State :=
  let k := rcvdKey f.spkg f.score
  let m := s.rcvd.get 0 k
  { s with rcvd := s.rcvd.put 0 k 0, fenceDst := s.fenceDst.filter fun x => x.tag ≠ f.tag }.send
    (ctrlPacket 0xB s.pkg f.score f.spkg f.ptag (BitVec.ofNat 64 m) (leBytes 8 f.n))

/-- Fences of a source core whose bytes have all come are answered. -/
def State.settleFences (s : State) (pkg core : Nat) : State :=
  match s.fenceDst.find? fun f =>
    f.spkg = pkg && f.score = core && decide (f.n ≤ s.rcvd.get 0 (rcvdKey pkg core)) with
  | some f => s.answerFence f
  | none => s

/-! ### Requests -/

/-- The address that a write of an exchange copy carries in PA and ARG[15:0] (R425; log entry 6). -/
def copyAddr (p : Packet) : VAddr := BitVec.ofNat 72 (p.arg.toNat % 2 ^ 16 * 2 ^ 56 + p.pa)

/-- A write of an exchange copy at its destination (R425): to the twin pages of the posting core's address space, inside the
receive buffer of the round; or it faults, or waits for a page table. -/
def State.copyWrite (s : State) (of : Nat) (p : Packet) : ERes Unit :=
  let a := p.arg.toNat
  let bs := p.data
  match s.myRounds.find? fun r => r.grp = nbits a 45 34 && r.round = nbits a 61 46 with
  | none => eFault s fPage (copyAddr p)
  | some r =>
    match s.translate r.core false .engWrite (copyAddr p) with
    | (t, .ok (.home key) _) => .ok (t.remoteWriteAs of key bs) ()
    | (t, .wait) => .wait t
    | (t, _) => eFault t fPage (copyAddr p)

/-- `WR` (R231, R361, R408, R414): the write is performed or refused, counted in RCVD, and answered where an answer is asked for, once the
dies here have applied its invalidations. -/
def execWr (p : Packet) (s : State) : Host.Outcome State Fault Refusal :=
  .next (s.receive 1 p fun s =>
    let a := p.arg.toNat
    let r := s.takeTag
    let s := r.1
    let ack (s : State) (no : Bool) : State :=
      if p.ackreq then s.answerPerformed r.2 (answerTo s.pkg 6 p (if no then 1 else 0) []) else s
    if !nbit a 63 && nbit a 62 then
      match s.copyWrite r.2 p with
      | .ok t _ => ack t false
      | .fault t .. => ack t true
      | .wait t => t.keepPacket p
    else
      let no := s.packetRefused p p.data.length
      let s := if no then s else s.wrApply r.2 p
      ack ((s.addRcvd p.spkg p.score (wrCount p)).settleFences p.spkg p.score) no)

/-- The length that an RD packet asks for (log entry 6). -/
def rdLen (p : Packet) : Nat :=
  let a := p.arg.toNat
  if nbit a 63 then nbits a 46 34 else nbits a 12 0

/-- `RD` (R406, R231, R448): the answer carries the bytes, or says that the window refuses, or that the bytes are
uncorrectable. -/
def execRd (p : Packet) (s : State) : Host.Outcome State Fault Refusal :=
  .next (s.receive 2 p fun s =>
    let n := rdLen p
    if s.packetRefused p n then s.answer 3 p 1 []
    else if s.placeBad (packetPlace p).1 n then s.answer 3 p 2 []
    else s.answer 3 p 0 (s.placeBytes (packetPlace p).1 n))

/-- The operation, type and values of an AMO packet (log entry 6). -/
def amoOf (p : Packet) : Nat × Nat × List Nat :=
  let h := field p.data 0 1
  let n := amoSize (h / 16)
  (h % 16, h / 16, (List.range ((p.data.length - 1) / n)).map fun i => field p.data (1 + n * i) n)

/-- The new target of the operation of an AMO packet: `cas` has an operand and a compare value, the others a list of
contributions applied in order. -/
def amoPacketNew (p : Packet) (t : Nat) : Option Nat :=
  match amoOf p with
  | (7, ty, x :: y :: _) => amoNew 7 ty x y t
  | (op, ty, vs) => some (applyVals op ty vs t)

/-- `AMO` (R375, R395): the home performs the operation as one step, and answers the old target, or that the window refuses it, or
that the target is uncorrectable (R448); the answer waits until the dies here have applied its invalidations (R361). -/
def execAmo (p : Packet) (s : State) : Host.Outcome State Fault Refusal :=
  .next (s.receive 4 p fun s =>
    let n := amoSize (amoOf p).2.1
    if s.packetRefused p n then s.answer 5 p 1 []
    else
      let pl := (packetPlace p).1
      if s.placeBad pl n then s.answer 5 p 2 []
      else
      let old := leNat (s.placeBytes pl n)
      let r := s.takeTag
      let s := match amoPacketNew p old, pl with
        | some v, .home key => r.1.remoteWriteAs r.2 key (leBytes n v)
        | some v, _ => s.placeWrite pl (leBytes n v)
        | none, _ => s
      s.answerPerformed r.2 (answerTo s.pkg 5 p 0 (leBytes n old)))

/-! ### Answers -/

/-- The thing in flight whose tag an answer carries. -/
def State.tagged (s : State) (p : Packet) (f : Flight → Bool) : Option (Nat × Flight) :=
  s.flights.findSome? fun q =>
    match q.2 with
    | some x => if q.1 % 65536 = p.tag && f x then some (q.1, x) else none
    | none => none

/-- `RDRSP` (R406): the data of a load or a read has come. -/
def execRdrsp (p : Packet) (s : State) : Host.Outcome State Fault Refusal :=
  .next (s.receive 3 p fun s =>
    let f (x : Flight) : Bool :=
      match x with
      | .load l => l.core = p.score && l.data.isNone && (match l.place with | .remote .. => true | .rwin .. => true | _ => false)
      | .remoteRead r => r.core = p.score && r.data.isNone
      | _ => false
    match s.tagged p f with
    | some (t, .load l) =>
      if p.arg = 1 then s.setFlight t (.load { l with refused := true })
      else if p.arg = 2 then s.setFlight t (.load { l with data := some [], bad := true })
      else s.setFlight t (.load { l with data := some p.data })
    | some (t, .remoteRead r) =>
      if p.arg = 0 then s.setFlight t (.remoteRead { r with data := some p.data })
      else s.setFlight t (.remoteRead { r with nak := 256 + p.arg.toNat % 256 })
    | _ => s)

/-- What the answer to an AMO packet says. -/
def amoAnswer (p : Packet) : HomeRes :=
  if p.arg = 0 then .old (leNat p.data) else .bad (if p.arg = 2 then fEcc else fProt)

/-- `AMORSP` (R221, R397): the old target of an atomic operation has come, or its refusal. -/
def execAmorsp (p : Packet) (s : State) : Host.Outcome State Fault Refusal :=
  .next (s.receive 5 p fun s =>
    let f (x : Flight) : Bool :=
      match x with
      | .amo a => a.core = p.score
      | .sae e => e.core = p.score
      | _ => false
    match s.tagged p f with
    | some (t, .amo a) => (s.endFlight t).amoDone a (amoAnswer p)
    | some (t, .sae e) => (s.endFlight t).saeDone t e (amoAnswer p)
    | _ => s)

/-- A packet of an exchange copy has been performed, or refused at its destination: the copy ends at its first byte (R425). -/
def State.copyAck (s : State) (tag : Nat) (no : Bool) : State :=
  { s with copies := s.copies.map fun c =>
      match c.writes.find? fun w => w.1 % 65536 = tag with
      | none => c
      | some w =>
        let c := { c with writes := c.writes.filter fun x => x.1 ≠ w.1 }
        if no then { c with hi := min c.hi w.2, fin := true } else c }

/-- A swapped entry has reached its home in another package: every TLB here that still holds the old one takes the new one, and accesses on
their way follow (R243). -/
def State.swapReached (s : State) (tag : Nat) : State :=
  match s.swaps.find? fun w => w.tag = tag with
  | none => s
  | some w =>
    let fix (t : TlbEnt) : TlbEnt := if decide (t.at_ = w.pa) && decide (t.pte = flipPh w.e) then { t with pte := w.e } else t
    let s := if s.ownPkg (nbits (pteAddr w.e) 55 45) then s.reaim (fun _ => true) (homeKey (pteAddr w.e)) (ptePh w.e)
      else s.reaimRemote (fun _ => true) (pteAddr w.e) (ptePh w.e)
    { s with
      swaps := s.swaps.filter fun x => x.tag ≠ tag
      cores := s.cores.map fun p => (p.1, { p.2 with tlb := p.2.tlb.map fix })
      dies := s.dies.map fun p => (p.1, { p.2 with tlb := p.2.tlb.map fix }) }

/-- A remote posted write is answered (R231, R233, R408): a failure is charged to its command, or fails forced work; a scalar store lowers
OUT of its window, and a refusal is counted there. A store of the vector engine ends at a failure (R346). -/
def State.writeAnswered (s : State) (tag : Nat) (w : RemWrite) (bad : Option Byte) : State :=
  let s := s.swapReached tag
  let s := match w.record, bad with
    | some o, some _ => s.recordFails o
    | some o, none => s.recordDone o
    | none, _ => s
  match w.agent, w.eng, bad with
  | .scalar fw, _, _ =>
    match w.win with
    | some i => s.setCtx w.core fw ((s.ctx w.core fw).dropOut i (bad = some fProt))
    | none => s
  | _, some (e, seq), some c =>
    let s := if e = .ve then
        { s with flights := s.flights.filter fun p => match p.2 with
            | some (.store x) => !(decide (tag < p.1) && x.core = w.core && x.agent = w.agent && x.seq = seq)
            | _ => true }
      else s
    s.remoteFault w.core e seq c (va64 w.va)
  | .forced, _, some c => s.forcedFault w.core c (va64 w.va)
  | _, _, _ => s

/-- `ACK` (R233, R408): a remote posted write has been performed, or refused (R231). -/
def execAck (p : Packet) (s : State) : Host.Outcome State Fault Refusal :=
  .next (s.receive 6 p fun s =>
    let no := p.arg ≠ 0
    let f (x : Flight) : Bool := match x with | .remoteWrite w => w.core = p.score | _ => false
    match s.tagged p f with
    | some (t, .remoteWrite w) => (s.endFlight t).writeAnswered t w (if no then some fProt else none)
    | _ => s.copyAck p.tag no)

/-! ### Remote enqueue (R411 to R413) -/

/-- A context of a core whose `x.renq.ack` waits for the answer with a tag. -/
def State.renqOf (s : State) (k tag : Nat) : Option (Bool × Reg × W64 × VAddr) :=
  [true, false].findSome? fun fw =>
    match (s.ctx k fw).op with
    | some (.renq d t _ w va) => if t % 65536 = tag then some (fw, d, w, va) else none
    | _ => none

/-- An `x.renq.ack` ends without its answer: a NAK, or the time-out (R411). -/
def renqTrap (code : Nat) (t : W64) (card : VAddr) : Trap :=
  { mkTrap .fabricNak code 0 0 0 with e1 := t, e2 := card.setWidth 64 }

/-- The check, the reading of the card and the release that both forms of remote enqueue begin with (R411). -/
def renqWord (s : State) (a : AReg) (b : Reg) (fb : Bool) (d : Reg) (k : State → W64 → VAddr → List Byte → Res) : Res :=
  coreState s (readSrc s b fb fun t => waitDest s d (
    let va := s.cur.getA a
    let pkg := t.toNat % 2048
    if va.toNat % 128 ≠ 0 then .trap s (mkTrap .align va.toNat 128 0 0)
    else if 1057 < pkg && pkg ≠ 0x7FF then illegalAt s 5 0
    else
      readDesc s va 128 fun s card =>
        if s.released s.focusCore s.focusFw .pod then k s t va card else .wait s))

/-- The RENQ packet of a card. -/
def renqPacket (s : State) (t : W64) (tag : Nat) (ack : Bool) (card : List Byte) : Packet where
  opc := 8
  ackreq := ack
  ord := true
  dpkg := if t.toNat % 2048 = 0x7FF then s.pkg else t.toNat % 2048
  spkg := s.pkg
  score := s.focusCore
  tag := tag % 65536
  pa := 0
  arg := BitVec.ofNat 64 (nbits t.toNat 21 16)
  rsv := false
  data := card

/-- `x.renq` (R411): STATUS SENT, and no answer is awaited. -/
def execXRenq (d : Reg) (a : AReg) (b : Reg) (fb : Bool) (s : State) : Host.Outcome State Fault Refusal :=
  (renqWord s a b fb d fun s t _ card =>
    let r := s.takeTag
    writeS (r.1.send (renqPacket s t r.2 false card)) d 0).dropReads.out

/-- `x.renq.ack` (R411, R413): the context holds until the answer or the time-out. -/
def execXRenqAck (d : Reg) (a : AReg) (b : Reg) (fb : Bool) (s : State) : Host.Outcome State Fault Refusal :=
  (renqWord s a b fb d fun s t va card =>
    let r := s.takeTag
    let s := r.1.send (renqPacket s t r.2 true card)
    .ok (s.setCur { s.cur with op := some (.renq d r.2 (s.tb + s.acktmo) t va) })).dropReads.out

/-- The card of a queue that follows a LINK card, else the address itself (R37), given to the rest of the work; or that it cannot
be read, or a wait for another package. -/
def State.followLink (s : State) (asn : Nat) (va : VAddr) (k : VAddr → ERes Nat) : ERes Nat :=
  match s.asRead asn va 128 with
  | .fail => eFault s fPage va
  | .wait t => .wait t
  | .ok bs => k (if nbits (field bs 0 8) 63 60 = 2 then BitVec.ofNat 72 (field bs 0x10 9) else va)

/-- The status of a remote enqueue (R37, R412) and the state after it: 1 ACCEPTED, 2 QUEUE_FULL, 3 QUEUE_OWNER; a fault where a slot
cannot be reached. -/
def State.enqueue (s : State) (q : Nat) (card : List Byte) : ERes Nat :=
  let x := s.lq q
  if !x.owner || !x.en then .ok s 3
  else
    s.followLink x.asn x.tail fun slot => s.followLink x.asn x.head fun head => s.followLink x.asn (slot + 128) fun next =>
      if next = head then .ok s 2
      else
        match s.asWrite none x.asn 0 slot card with
        | .fail => eFault s fPage slot
        | .wait t => .wait t
        | .ok t => .ok (t.setLq q { x with tail := next }) 1

/-- `RENQ` (R37, R412): the launch unit writes the card and advances the tail in one step, or refuses it, and answers. A slot that
cannot be reached stops the queue with CARD_FAULT and gives no answer. -/
def execRenq (p : Packet) (s : State) : Host.Outcome State Fault Refusal :=
  .next (s.receive 8 p fun s =>
    match s.enqueue (p.arg.toNat % 64) p.data with
    | .ok t st => (t.dropAs 128).answer 9 p (BitVec.ofNat 64 (st * 2 ^ 60)) []
    | .fault t .. => (t.dropAs 128).stopQueue (p.arg.toNat % 64) 1
    | .wait t => t.keepPacket p)

/-- An answer that nothing waits for is counted (R412, R415). -/
def State.countUnasked (s : State) (k : Nat) : State :=
  let c := s.core k
  s.setCore k { c with unasked := c.unasked + 1 }

/-- `RENQ_ANS` (R411): the word goes on with the result; the answer to a plain `x.renq` is counted (R412). -/
def execRenqAns (p : Packet) (s : State) : Host.Outcome State Fault Refusal :=
  .next (s.receive 9 p fun s =>
    match s.renqOf p.score p.tag with
    | some (fw, d, _, _) => s.setCtx p.score fw (((s.ctx p.score fw).setS d p.arg).advance)
    | none => s.countUnasked p.score)

/-- `RENQ_ACK_TIMEOUT` (R411): no answer within ACKTMO ticks; the card is not withdrawn (R413). -/
def execRenqAckTimeout (core : Nat) (s : State) : Host.Outcome State Fault Refusal :=
  let late (fw : Bool) : Option (W64 × VAddr) :=
    match (s.ctx core fw).op with
    | some (.renq _ _ dl t va) => if dl ≤ s.tb then some (t, va) else none
    | _ => none
  match late true, late false with
  | some (t, va), _ => .next (s.takeTrap core true (renqTrap 3 t va))
  | none, some (t, va) => .next (s.takeTrap core false (renqTrap 3 t va))
  | none, none => .next s

/-! ### Count fences at their source (R415 to R417) -/

/-- A result word of `x.fence` (R416). -/
def fenceWord (status code miss : Nat) : W64 := BitVec.ofNat 64 (status * 2 ^ 60 + code * 2 ^ 44 + miss)

/-- A NAK is counted in the issuing core's `XF.STAT` (R408, R409). -/
def State.countNak (s : State) (k code : Nat) : State :=
  let c := s.core k
  s.setCore k { c with nakCount := satInc c.nakCount 65535, nakLast := code % 16 }

/-- Take the fence interval of a core towards a package: the count, and the state in which it restarts (R415). -/
def State.takeSent (s : State) (k pkg : Nat) : State × Nat :=
  let c := s.core k
  (s.setCore k { c with sent := c.sent.put 0 pkg 0 }, c.sent.get 0 pkg)

/-- Send a FENCE and record it at its source (R415). -/
def State.sendFence (s : State) (core : Nat) (fw : Bool) (d : Reg) (pkg n : Nat) (pc : VAddr) (retire : Bool) : State :=
  let r := s.takeTag
  let f : FenceSrc :=
    { tag := r.2, core := core, fw := fw, d := d, pkg := pkg, n := n, deadline := s.tb + s.ftmo + s.acktmo, pc := pc, retire := retire }
  { r.1 with fenceSrc := r.1.fenceSrc ++ [f] }.send
    { ctrlPacket 0xA s.pkg core pkg (r.2 % 65536) (BitVec.ofNat 64 n) [] with ackreq := true }

/-- `x.fence` (R415). -/
def execXFence (d a : Reg) (fa : Bool) (s : State) : Host.Outcome State Fault Refusal :=
  (coreState s (readSrc s a fa fun v =>
    let pkg := v.toNat % 2048
    if 1057 < pkg || pkg = s.pkg then illegalAt s 5 0
    else waitDest s d (
      if !s.released s.focusCore s.focusFw .pod then .wait s
      else
        let k := s.focusCore
        let r := s.takeSent k pkg
        if s.hops pkg = 3 then writeS (r.1.countNak k 2) d (fenceWord 2 2 0)
        else
          let t := r.1.sendFence k s.focusFw d pkg r.2 s.cur.pc false
          .ok (t.setCur (t.cur.setFE d .pending).advance)))).out

/-- `FENCE_MSG` (R415): the target answers once the bytes have come, or after FTMO. -/
def execFenceMsg (p : Packet) (s : State) : Host.Outcome State Fault Refusal :=
  .next (s.receive 0xA p fun s =>
    let r := s.takeTag
    let f : FenceDst := { tag := r.2, ptag := p.tag, spkg := p.spkg, score := p.score, n := p.arg.toNat % 2 ^ 40, deadline := s.tb + s.ftmo }
    { r.1 with fenceDst := r.1.fenceDst ++ [f] }.settleFences p.spkg p.score)

/-- `FENCE_FTMO_EXPIRY` (R415). -/
def execFenceFtmoExpiry (tag : Nat) (s : State) : Host.Outcome State Fault Refusal :=
  match s.fenceDst.find? fun f => f.tag = tag && decide (f.deadline ≤ s.tb) with
  | some f => .next (s.answerFence f)
  | none => .next s

/-- A fence at its source is over. -/
def State.dropFence (s : State) (f : FenceSrc) : State := { s with fenceSrc := s.fenceSrc.filter fun x => x.tag ≠ f.tag }

/-- A fence at its source ends without an answer (R415, R416). -/
def State.failFence (s : State) (f : FenceSrc) (code : Nat) : State :=
  let s := s.dropFence f
  if f.retire then s else s.deliver f.core f.fw f.d (fenceWord 2 code 0) none

/-- `FENCE_ANS` (R415 to R417): the result, marked where the counts differ; an answer that comes late is counted and discarded. -/
def execFenceAns (p : Packet) (s : State) : Host.Outcome State Fault Refusal :=
  .next (s.receive 0xB p fun s =>
    match s.fenceSrc.find? fun f => f.tag % 65536 = p.tag && f.core = p.score with
    | none => s.countUnasked p.score
    | some f =>
      let m := p.arg.toNat % 2 ^ 40
      let s := s.dropFence f
      if m = f.n then (if f.retire then s else s.deliver f.core f.fw f.d (fenceWord 0 0 0) none)
      else
        let c := s.core f.core
        if f.retire then s.setCore f.core { c with cmm := true, task := c.task.map fun r => { r with cmm := true } }
        else
          let s := s.setCore f.core { c with cmm := true }
          let t := { mkTrap .countMismatch f.pkg f.n m 0 with e3 := f.pc.setWidth 64 }
          s.deliver f.core f.fw f.d (fenceWord 1 0 ((f.n + 2 ^ 40 - m) % 2 ^ 40)) (some { trap := t, of := none }))

/-- `FENCE_ANSWER_TIMEOUT` (R415): a local answer, NAK(TIMEOUT), counted as one (R408). -/
def execFenceAnswerTimeout (tag : Nat) (s : State) : Host.Outcome State Fault Refusal :=
  match s.fenceSrc.find? fun f => f.tag = tag && decide (f.deadline ≤ s.tb) with
  | some f => .next ((s.countNak f.core 3).failFence f 3)
  | none => .next s

/-! ### NAK (R408) -/

/-- The result word of `x.post` and `x.wait` (R421). -/
def roundWord (status round rem : Nat) : W64 := BitVec.ofNat 64 (status * 2 ^ 60 + round * 2 ^ 40 + rem % 2 ^ 40)

/-- An `x.post` gets NO_HM (R420). -/
def State.failPost (s : State) (x : PostF) : State :=
  { s with posts := s.posts.filter fun y => y.tag ≠ x.tag
           myRounds := s.myRounds.filter fun r => r.tag ≠ x.tag }.deliver
    x.core x.fw x.d (roundWord 6 x.round 0) none

/-- What a NAK does to the thing in flight that it answers. -/
def State.nakFlight (s : State) (t : Nat) (f : Flight) (code : Nat) : State :=
  match f with
  | .load l => s.setFlight t (.load { l with nak := some code })
  | .remoteRead r => s.setFlight t (.remoteRead { r with nak := code })
  | .amo a => (s.endFlight t).remoteFault a.core .ce a.seq fNak (va64 a.va)
  | .sae e => (s.endFlight t).remoteFault e.core .sae e.seq fNak (va64 e.va)
  | .remoteWrite w => (s.endFlight t).writeAnswered t w (some fNak)
  | _ => s

/-- The core of a thing in flight that a NAK can answer. -/
def Flight.asked (k : Nat) (f : Flight) : Bool :=
  match f with
  | .load l => l.core = k && (match l.place with | .remote .. => true | .rwin .. => true | _ => false)
  | .remoteRead r => r.core = k
  | .amo a => a.core = k
  | .sae e => e.core = k
  | .remoteWrite w => w.core = k
  | _ => false

/-- The operation codes of R407. -/
def knownOpc (n : Nat) : Bool := (decide (1 ≤ n) && decide (n ≤ 0xB)) || (decide (0x10 ≤ n) && decide (n ≤ 0x18)) || n = 0x20

/-- `UNKNOWN_OPC` (R408): the packet is dropped, counted, and answered NAK(ERR_OPC) whatever ACKREQ says. -/
def execUnknownOpc (port : Nat) (p : Packet) (s : State) : Host.Outcome State Fault Refusal :=
  if knownOpc p.opc then .next s
  else
    let x := s.port port
    .next ((s.setPort port { x with badopc := satInc x.badopc 65535 }).send (nakOf s.pkg p.spkg 1 p))

/-! ### Pod barriers (R383) -/

/-- `BAR` (R383): an arrival at the root, or a release. -/
def execBarMsg (p : Packet) (s : State) : Host.Outcome State Fault Refusal :=
  .next (s.receive 0x17 p fun s =>
    let a := p.arg.toNat
    if nbit a 20 then s.podRelease (a % 4096) (nbits a 19 16) else s.podArrive p.spkg (a % 4096) (nbits a 19 16))

end Sys2Proof.Machine
end

