-- ==== Sys2Proof/Machine/Exchange.lean ====
section
/-!
DEFINITION. The scheduled exchange (R419 to R428): manifests, rounds and tides at the harbourmaster, grants, copies and reports,
the end and the abandonment of rounds; the harbourmaster's failover (R429); and time-base discipline (R405).
-/

namespace Sys2Proof.Machine

/-! ### Manifests (R419, R420) -/

/-- A manifest as a package keeps it, from its descriptor (R419). -/
def manifestOf (pkg core grp : Nat) (bs : List Byte) : Manifest where
  pkg := pkg
  core := core
  grp := grp
  round := field bs 0 2
  npart := field bs 2 2 % 2048
  pscope := field bs 5 1 % 8
  rbase := BitVec.ofNat 72 (field bs 8 9)
  rcap := field bs 0x18 5
  recs := (List.range (field bs 4 1)).map fun i =>
    let o := 32 + 32 * i
    { dst := field bs o 2 % 2048, len := field bs (o + 3) 5, post := field bs (o + 8) 5,
      src := BitVec.ofNat 72 (field bs (o + 0x10) 9), route := Route.none, nbr := none }

/-- The pages of a receive buffer (R419). -/
def Manifest.pages (m : Manifest) : List VAddr :=
  (List.range ((m.rcap + 65535) / 65536)).map fun (i : Nat) => vadd m.rbase (65536 * i)

/-- A malformed manifest (R420), its pages apart. -/
def State.malformed (s : State) (m : Manifest) : Bool :=
  let dsts := m.recs.map ManRec.dst
  m.npart = 0 || decide (1058 < m.npart) || !(m.pscope = 4 || m.pscope = 5) || dsts.any (fun d => decide (1057 < d) || d = s.pkg)
    || decide (dsts.dedup.length ≠ dsts.length) || decide (m.rbase.toNat % 65536 ≠ 0)

/-- The neighbour at the first hop of a two-hop route (R424). -/
def State.neighbour (s : State) (port : Nat) : Option Nat :=
  (List.range 1058).find? fun p => !s.ownPkg p && s.hops p = 1 && (s.routes.get Route.none p).port = port

/-- The route items that the posting package adds to a record (R424). -/
def State.routed (s : State) (r : ManRec) : ManRec :=
  let e := s.routes.get Route.none r.dst
  { r with route := e, nbr := if e.hops = 2 then s.neighbour e.port else none }

/-- The two route items of a record, and DST, in 36 bits of a MANIFEST packet (R424; log entry 6). -/
def ManRec.routeBits (r : ManRec) : Nat :=
  r.dst % 2 ^ 11 + (r.nbr.getD 0x7FF) % 2 ^ 11 * 2 ^ 11 + r.route.via % 64 * 2 ^ 22 + r.route.port % 64 * 2 ^ 28 + r.route.hops % 4 * 2 ^ 34

/-- The bytes of a MANIFEST packet (log entry 6): the header as the descriptor has it, then 15 bytes a record, with DST, POST, LEN and the
two route items; at most 255 records, so that LEN of the packet is below 4,096 (R406). SRC stays at the source, which alone reads it. -/
def manifestBytes (m : Manifest) : List Byte :=
  leBytes 2 m.round ++ leBytes 2 m.npart ++ leBytes 1 m.recs.length ++ leBytes 3 m.pscope ++ leBytes 16 m.rbase.toNat ++ leBytes 8 m.rcap
    ++ m.recs.flatMap fun r => leBytes 15 (r.routeBits + r.post % 2 ^ 40 * 2 ^ 36 + r.len % 2 ^ 40 * 2 ^ 76)

/-- The manifest that a MANIFEST packet carries. -/
def packetManifest (p : Packet) : Manifest :=
  let bs := p.data
  { manifestOf p.spkg p.score (p.arg.toNat % 4096) (bs.take 32) with
    recs := (List.range (field bs 4 1)).map fun i =>
      let e := field bs (32 + 15 * i) 15
      let n := nbits e 21 11
      { dst := nbits e 10 0, len := nbits e 115 76, post := nbits e 75 36, src := 0,
        route := { via := nbits e 27 22, port := nbits e 33 28, hops := nbits e 35 34 },
        nbr := if n ≤ 1057 then some n else none } }

/-- `x.post` (R420). -/
def execXPost (d : Reg) (a : AReg) (s : State) : Host.Outcome State Fault Refusal :=
  (coreState s (waitDest s d (
    let va := s.cur.getA a
    readDesc s va 32 fun s hd =>
      readDesc s va (32 + 32 * field hd 4 1) fun s bs =>
        let k := s.focusCore
        if !s.released k s.focusFw .core then .wait s
        else
          let m := manifestOf s.pkg k s.hmGrp bs
          if s.malformed m then writeS s d (roundWord 4 m.round 0)
          else
          match s.checkPages k m.pages with
          | .bad s _ => writeS s d (roundWord 4 m.round 0)
          | .wait s => .wait s
          | .ok s =>
            let s := s.dropWalk k
            let m := { m with recs := m.recs.map s.routed }
            let r := s.takeTag
            let x : PostF := { tag := r.2, core := k, fw := s.focusFw, d := d, round := m.round, deadline := s.tb + s.acktmo }
            let y : MyRound := { grp := m.grp, round := m.round, core := k, asn := s.curCore.asn, addr := va, man := m, tag := r.2, sent_ := [] }
            let t := { r.1 with posts := r.1.posts ++ [x], myRounds := r.1.myRounds ++ [y] }
            let t := t.send (ctrlPacket 0x11 s.pkg k s.hmPrim (r.2 % 65536) (BitVec.ofNat 64 m.grp) (manifestBytes m))
            .ok (t.setCur (t.cur.setFE d .pending).advance)))).dropReads.out

/-- `MANIFEST_ANSWER` (R420, R421): the harbourmaster's answer. -/
def execManifestAnswer (p : Packet) (s : State) : Host.Outcome State Fault Refusal :=
  if !nbit p.arg.toNat 63 then .next s
  else
    .next (s.receive 0x11 p fun s =>
      match s.posts.find? fun x => x.tag % 65536 = p.tag && x.core = p.score with
      | none => s
      | some x =>
        let st := p.arg.toNat % 16
        let keep (r : MyRound) : Bool := st = 0 || decide (r.tag ≠ x.tag)
        { s with posts := s.posts.filter (fun y => y.tag ≠ x.tag), myRounds := s.myRounds.filter keep }.deliver
          x.core x.fw x.d (roundWord st x.round 0) none)

/-- `POST_ANSWER_TIMEOUT` (R420): NO_HM. -/
def execPostAnswerTimeout (tag : Nat) (s : State) : Host.Outcome State Fault Refusal :=
  match s.posts.find? fun x => x.tag = tag && decide (x.deadline ≤ s.tb) with
  | some x => .next (s.failPost x)
  | none => .next s

/-! ### Demand and tides (R422, R423) -/

/-- The quantum: bytes of a pair in one berth (R422). -/
def quantum : Nat := 24576

/-- A pair of the demand: source, destination, where its stream begins at the destination, bytes granted, quanta, and its ports
as (package, port). -/
structure Pair where
  src : Nat
  dst : Nat
  off : Nat
  bytes : Nat
  q : Nat
  done : Nat
  ports : List (Nat × Nat)
deriving DecidableEq, Repr

/-- The ports of a record's route, where it can be granted (R424). -/
def ManRec.ports (r : ManRec) (src : Nat) : Option (List (Nat × Nat)) :=
  match r.route.hops, r.nbr with
  | 1, _ => some [(src, r.route.port)]
  | 2, some n => some [(src, r.route.port), (n, r.route.via)]
  | _, _ => none

/-- The pairs to one destination, from its sources in rising package number (R422). -/
def pairsTo (j : Manifest) : List Manifest → Nat → List Pair
  | [], _ => []
  | m :: ms, off =>
    match m.recs.find? fun r => r.dst = j.pkg with
    | none => pairsTo j ms off
    | some r =>
      let bytes := match r.ports m.pkg with | some _ => min r.post (j.rcap - off) | none => 0
      { src := m.pkg, dst := j.pkg, off := off, bytes := bytes, q := (bytes + quantum - 1) / quantum, done := 0,
        ports := (r.ports m.pkg).getD [] } :: pairsTo j ms (off + r.post)

/-- Insert a manifest in rising package number. -/
def insertMan (m : Manifest) : List Manifest → List Manifest
  | [] => [m]
  | x :: xs => if m.pkg < x.pkg then m :: x :: xs else x :: insertMan m xs

/-- The demand of a round (R422). -/
def demandOf (ms : List Manifest) : List Pair :=
  let ranked := ms.foldl (fun l m => insertMan m l) []
  ranked.flatMap fun j => pairsTo j ranked 0

/-- The destination that a source takes in a tide (R423): the largest demand whose destination and ports are free, ties to the
lower number. -/
def bestPair (ps : List Pair) (taken : List Nat) (used : List (Nat × Nat)) (i : Nat) : Option Pair :=
  ps.foldl (fun best p =>
    if p.src ≠ i || p.q = 0 || taken.contains p.dst || p.ports.any used.contains then best
    else
      match best with
      | none => some p
      | some b => if b.q < p.q || (b.q = p.q && decide (p.dst < b.dst)) then some p else best) none

/-- The pairs of one tide, over the sources in rising rank. -/
def tideOf (ps : List Pair) : List Nat → List Nat → List (Nat × Nat) → List Pair
  | [], _, _ => []
  | i :: is, taken, used =>
    match bestPair ps taken used i with
    | none => tideOf ps is taken used
    | some p => p :: tideOf ps is (p.dst :: taken) (p.ports ++ used)

/-- A tide of a round as it is formed: its length in berths and its pairs as they then stand. -/
structure Formed where
  len : Nat
  pairs : List Pair
deriving DecidableEq, Repr

/-- Split a demand into tides (R423); `fuel` bounds them. -/
def splitTides (srcs : List Nat) : Nat → List Pair → List Formed
  | 0, _ => []
  | fuel + 1, ps =>
    match tideOf ps srcs [] [] with
    | [] => []
    | t :: ts =>
      let len := ts.foldl (fun l p => min l p.q) t.q
      let inTide (p : Pair) : Bool := (t :: ts).any fun x => x.src = p.src && x.dst = p.dst
      let ps := ps.map fun p => if inTide p then { p with q := p.q - len, done := p.done + len * quantum } else p
      { len := len, pairs := t :: ts } :: splitTides srcs fuel ps

/-! ### Booking a tide (R424) -/

/-- The uses of a pair, each for the length of the tide: the posting core's copy engine and the first port from the first
berth, the second port one berth later. -/
def Pair.uses (p : Pair) (core len : Nat) : List BUse :=
  let use (c : Cal) (pkg off : Nat) : BUse := { newUse c pkg true (256 * len) 0 with floor := off, n := len }
  use { kind := .ce, idx := core } p.src 0 ::
    p.ports.mapIdx fun i x => use { kind := .port, idx := x.2 } x.1 (if i = 0 then 0 else 1)

/-- Where the receive buffer of a package begins. -/
def rbaseOf (ms : List Manifest) (pkg : Nat) : VAddr := match ms.find? fun m => m.pkg = pkg with | some m => m.rbase | none => 0

/-- The posting core of a package. -/
def postCore (ms : List Manifest) (pkg : Nat) : Nat := match ms.find? fun m => m.pkg = pkg with | some m => m.core | none => 0

/-- A tide to be booked from a berth. -/
def mkTide (ms : List Manifest) (xid berth now : Nat) (f : Formed) : Tide where
  xid := xid % 4096
  len := f.len
  berth := berth
  pairs := f.pairs.map fun p =>
    { src := p.src, dst := p.dst, lo := p.done, hi := min (p.done + f.len * quantum) p.bytes,
      addr := vadd (rbaseOf ms p.dst) (p.off + p.done) }
  uses := f.pairs.flatMap fun p => p.uses (postCore ms p.src) f.len
  committed := false
  dead := false
  refusals := 0
  next := now
  round := none

/-- The tides of a round one behind the other (R424): the first from a berth, each later one after the last berth of the one
before. -/
def mkTides (ms : List Manifest) (now : Nat) : Nat → Nat → List Formed → List Tide
  | _, _, [] => []
  | xid, b, f :: fs =>
    let two := f.pairs.any fun p => decide (p.ports.length = 2)
    mkTide ms xid b now f :: mkTides ms now (xid + 1) (b + f.len + (if two then 1 else 0)) fs

/-- A round of the harbourmaster replaced. -/
def State.setRound (s : State) (r : HmRound) : State :=
  { s with hmRounds := s.hmRounds.map fun x => if x.grp = r.grp && x.round = r.round then r else x }

/-- A tide of a round replaced. -/
def HmRound.setTide (r : HmRound) (t : Tide) : HmRound := { r with tides := r.tides.map fun x => if x.xid = t.xid then t else x }

/-- The berth after the last berth of a tide (R424): a second port stands one berth later. -/
def Tide.after (t : Tide) : Nat := t.berth + t.len + (if t.uses.any fun u => decide (u.floor = 1) then 1 else 0)

/-- The tides behind one that has moved (R424): each begins in the berth after the last one of the tide before, and what it held is
released; a tide that has committed stays (DESIGN CHOICE, log entry 71). -/
def State.placeTides (s : State) (b : Nat) : List Tide → State × List Tide
  | [] => (s, [])
  | t :: ts =>
    if t.committed || decide (t.berth = b) then
      let r := State.placeTides s (max b t.after) ts
      (r.1, t :: r.2)
    else
      let s := if t.round.isSome then s.dropTide t .release else s
      let t' := { t with
        berth := b, round := none, next := if t.round.isSome then 256 * (s.berth + 1) else t.next,
        uses := t.uses.map fun u => { u with ans := .refused none } }
      let r := State.placeTides s t'.after ts
      (r.1, t' :: r.2)

/-- A refused round of a tide (R67, R424): every use moves with the latest alternative, and the later tides behind it. -/
def State.nextTide (s : State) (r : HmRound) (t : Tide) (raise_ : Bool) : State :=
  let s := s.dropTide t .release
  let b := if raise_ then
      t.uses.foldl (fun b u => match u.ans with | .refused (some a) => max b (a - u.floor) | _ => b) t.berth
    else t.berth
  if (s.die 8).retryMax < t.refusals + 1 then s.abandonRound r 2
  else
    let t := { t with
      berth := b, refusals := t.refusals + 1, round := none, next := 256 * (s.berth + 1),
      uses := t.uses.map fun u => { u with ans := .refused none } }
    let front := r.tides.takeWhile fun x => x.xid ≠ t.xid
    let q := s.placeTides t.after (r.tides.drop (front.length + 1))
    q.1.setRound { r with tides := front ++ t :: q.2 }

/-- A round of a tide goes on or ends (R67, R424). -/
def State.judgeTide (s : State) (r : HmRound) (t : Tide) : State :=
  match s.roundEnd 8 t.uses with
  | .waiting => s.setRound (r.setTide t)
  | .fatal | .noRoute | .noRun => s.abandonRound (r.setTide t) 2
  | .refused => s.nextTide r t true
  | .late => s.nextTide r t false
  | .held => s.setRound (r.setTide { t with next := s.tb + 16 })

/-- One use of a tide is asked for (R424): its own unit holds the rows or finds an alternative. -/
def State.askUse (s : State) (t : Tide) (j : Nat) (u : BUse) : State × BUse :=
  let u := { u with first := t.berth + u.floor, ans := .waiting }
  if s.ownedBy 8 u then
    if (s.cal u.cal).freeRun u.first u.n && decide (s.berth ≤ u.first) then (s.markOwn (s.tideUse t j) u .held, { u with ans := .own })
    else (s, { u with ans := .refused (s.freeFrom u.cal (max (u.first + 1) s.berth) u.n) })
  else if !s.useHere u && s.hops u.pkg = 3 then (s, { u with ans := .noRoute })
  else (s, u)

/-- Ask for every use of a tide from one first berth. -/
def State.askUses (s : State) (t : Tide) : Nat → List BUse → State × List BUse
  | _, [] => (s, [])
  | j, u :: us =>
    let r := s.askUse t j u
    let q := State.askUses r.1 t (j + 1) us
    (q.1, r.2 :: q.2)

/-- A round of a tide begins (R61, R424). -/
def State.beginTide (s : State) (r : HmRound) (t : Tide) : State :=
  let q := s.askUses t 0 t.uses
  let us := q.2
  let sent := s.tb + 12 * s.ncal us
  let own := us.all fun u => u.ans = .own
  let t := { t with uses := us, round := some s.tb, next := if own then sent + 16 else 0 }
  if us.any fun u => decide (s.horizon < u.first + u.n - 1) then q.1.abandonRound (r.setTide t) 2
  else
    let s1 := q.1.tellOwners 8 0 true t.xid us .hold sent
    if own then s1.setRound (r.setTide t) else s1.judgeTide r t

/-- The bytes of a GRANT packet (log entry 6). -/
def grantBytes (berth : Nat) (p : TidePair) : List Byte :=
  leBytes 2 p.dst ++ leBytes 8 berth ++ leBytes 8 p.lo ++ leBytes 8 p.hi ++ leBytes 9 p.addr.toNat

/-- A tide commits (R424): its rows are BOOKED, and each source receives its GRANT. An owner that has become unreachable makes it FATAL
(R67). -/
def State.commitTide (s : State) (r : HmRound) (t : Tide) : State :=
  let s := (List.range t.uses.length).foldl (fun s j =>
    match t.uses[j]? with
    | some u => if s.ownedBy 8 u && !s.passedUse 8 u then s.markOwn (s.tideUse t j) u .booked else s
    | none => s) s
  let s := s.tellOwners 8 0 true t.xid t.uses .commit s.tb
  let r := r.setTide { t with committed := true, round := none }
  let s := s.setRound r
  if (s.noRoutes t.uses).any fun u => u.ans = .noRoute then s.abandonRound r 2
  else
    t.pairs.foldl (fun s p =>
      s.send (ctrlPacket 0x12 s.pkg (postCore r.mans p.src) p.src 0 (BitVec.ofNat 64 (r.grp * 2 ^ 16 + r.round))
        (grantBytes t.berth p))) s

/-- The booking unit of IOD0 takes up a round of a tide (R62): no other tide is at its search steps, and none stands before it. -/
def State.tideTakes (s : State) (t : Tide) : Bool :=
  let ts := s.hmRounds.flatMap HmRound.tides
  let place (x : Tide) : Nat := ts.findIdx fun y => y.xid = x.xid
  ts.all fun x =>
    x.xid = t.xid || x.committed ||
      match x.round with
      | some r => decide (r + 12 * s.ncal x.uses ≤ s.tb)
      | none => !x.mayBegin s.tb || decide (t.next < x.next) || (decide (t.next = x.next) && decide (place t < place x))

/-- A search round of the booking unit of IOD0 for a tide: `SEARCH_ROUND` with core number 512 (R424). On a stopped unit it is FATAL
(R88). -/
def State.tideRound (s : State) (xid : Nat) : State :=
  match s.hmRounds.findSome? fun r => (r.tides.find? fun t => t.xid = xid && !t.committed).map fun t => (r, t) with
  | none => s
  | some (r, t) =>
    if s.tb < t.next then s
    else if (s.die 8).failstop then s.abandonRound r 2
    else
      match t.round with
      | none => if t.mayBegin s.tb && s.tideTakes t then s.beginTide r t else s
      | some _ => if t.next = 0 then s else s.commitTide r t

/-- An answer of an owner to a use of a tide, or a NAK of its message (R67, R88). -/
def State.tideAnswer (s : State) (xid j : Nat) (a : Answer) : State :=
  match s.hmRounds.findSome? fun r => (r.tides.find? fun t => t.xid = xid).map fun t => (r, t) with
  | none => s
  | some (r, t) =>
    if t.committed then (if a = .fatal || a = .noRoute then s.abandonRound r 2 else s)
    else if t.round.isNone then s
    else
      s.judgeTide r { t with uses := t.uses.mapIdx fun i u => if i = j && u.ans = .waiting then { u with ans := a } else u }

/-! ### A round at the harbourmaster (R422, R426, R427) -/

/-- ROUND_END to every participant (R426). -/
def State.endRound (s : State) (r : HmRound) : State :=
  r.mans.foldl (fun s m => s.send (ctrlPacket 0x13 s.pkg m.core m.pkg 0 (BitVec.ofNat 64 (r.grp * 2 ^ 16 + r.round)) []))
    { s with hmRounds := s.hmRounds.filter fun x => !(x.grp = r.grp && x.round = r.round) }

/-- A round starts (R422 to R424). -/
def State.startRound (s : State) (r : HmRound) : State :=
  let ps := demandOf r.mans
  let srcs := (r.mans.foldl (fun l m => insertMan m l) []).map Manifest.pkg
  let ts := mkTides r.mans s.tb s.hmXid (s.berth + 8) (splitTides srcs ps.length ps)
  let r := { r with started := true, tides := ts, waitRep := ts.foldl (fun n t => n + t.pairs.length) 0 }
  let s := { s.setRound r with hmXid := (s.hmXid + ts.length) % 4096 }
  if ts.isEmpty then s.endRound r else s

/-- The answer to a manifest (R420, R421; log entry 6). -/
def State.answerPost (s : State) (p : Packet) (status : Nat) : State :=
  s.send (ctrlPacket 0x11 s.pkg p.score p.spkg p.tag (BitVec.ofNat 64 (2 ^ 63 + status)) [])

/-- `MANIFEST` (R420, R422): the manifest is recorded and answered, and the last one starts the round. -/
def execManifest (p : Packet) (s : State) : Host.Outcome State Fault Refusal :=
  if nbit p.arg.toNat 63 then .next s
  else
    .next (s.receive 0x11 p fun s =>
      let m := packetManifest p
      if s.hmPrim ≠ s.pkg then s
      else
        match s.hmRounds.find? fun r => r.grp = m.grp && r.round = m.round with
        | none =>
          let r : HmRound :=
            { grp := m.grp, round := m.round, opened := s.berth, started := false, mans := [m], tides := [], waitRep := 0, sent_ := [] }
          let t := { s with hmRounds := s.hmRounds ++ [r] }.answerPost p 0
          if m.npart ≤ 1 then t.startRound r else t
        | some r =>
          let same : Bool := match r.mans with | f :: _ => f.npart = m.npart && f.pscope = m.pscope | [] => true
          if r.mans.any fun x => x.pkg = m.pkg then s.answerPost p 5
          else if !same || r.started then s.answerPost p 4
          else
            let r := { r with mans := r.mans ++ [m] }
            let t := (s.setRound r).answerPost p 0
            if m.npart ≤ r.mans.length then t.startRound r else t)

/-- `ROUND_TIMEOUT` (R422, R427): RTMO berths have passed before the round starts. -/
def execRoundTimeout (grp round : Nat) (s : State) : Host.Outcome State Fault Refusal :=
  match s.hmRounds.find? fun r => r.grp = grp && r.round = round with
  | some r =>
    if !r.started && s.rtmo ≠ 0 && decide (r.opened + s.rtmo ≤ s.berth) then .next (s.abandonRound r 2) else .next s
  | none => .next s

/-- `PAIR_REPORT` (R425, R426; log entry 6): a source names the bytes it sent of a pair. -/
def execPairReport (p : Packet) (s : State) : Host.Outcome State Fault Refusal :=
  if !nbit p.arg.toNat 63 then .next s
  else
    .next (s.receive 0x12 p fun s =>
      let a := p.arg.toNat
      match s.hmRounds.find? fun r => r.grp = nbits a 27 16 && r.round = a % 65536 && r.started with
      | none => s
      | some r =>
        let r := { r with waitRep := r.waitRep - 1, sent_ := r.sent_ ++ [(p.spkg, field p.data 0 2, field p.data 2 8)] }
        if r.waitRep = 0 then s.endRound r else s.setRound r)

/-! ### A round at a participant (R425, R426) -/

/-- The own round of a group and number. -/
def State.myRound (s : State) (grp round : Nat) : Option MyRound := s.myRounds.find? fun r => r.grp = grp && r.round = round

/-- A report of a pair to the harbourmaster. -/
def State.report (s : State) (core grp round dst n : Nat) : State :=
  s.send (ctrlPacket 0x12 s.pkg core s.hmPrim 0 (BitVec.ofNat 64 (2 ^ 63 + grp * 2 ^ 16 + round)) (leBytes 2 dst ++ leBytes 8 n))

/-- `GRANT` (R424, R425): the source's copy begins in its berths, with the bytes of the range below LEN; a grant of a round that
this package no longer has is reported as nothing sent. -/
def execGrant (p : Packet) (s : State) : Host.Outcome State Fault Refusal :=
  if nbit p.arg.toNat 63 then .next s
  else
    .next (s.receive 0x12 p fun s =>
      let grp := nbits p.arg.toNat 27 16
      let round := p.arg.toNat % 65536
      let dst := field p.data 0 2
      match s.myRound grp round with
      | none => s.report p.score grp round dst 0
      | some r =>
        let lo := field p.data 10 8
        let len := match r.man.recs.find? fun x => x.dst = dst with | some x => x.len | none => 0
        let t := s.takeTag
        let c : ExCopy :=
          { tag := t.2, grp := grp, round := round, core := r.core, dst := dst, berth := field p.data 2 8,
            to_ := field p.data 2 8 + (field p.data 18 8 - lo + quantum - 1) / quantum, lo := lo, hi := max lo (min (field p.data 18 8) len), pos := lo, addr := BitVec.ofNat 72 (field p.data 26 9), fin := false, writes := [] }
        { t.1 with copies := t.1.copies ++ [c] })

/-- An exchange copy replaced. -/
def State.setCopy (s : State) (c : ExCopy) : State := { s with copies := s.copies.map fun x => if x.tag = c.tag then c else x }

/-- The source address of a record of a round. -/
def MyRound.src (r : MyRound) (dst : Nat) : VAddr := match r.man.recs.find? fun x => x.dst = dst with | some x => x.src | none => 0

/-- The bytes that a copy may send now (R425): 96 a tick from the first tick of its granted berths to the last, up to 4,096 in a
packet (R406), and not across a page of its source or its destination. -/
def ExCopy.room (c : ExCopy) (now : Nat) (src : VAddr) : Nat :=
  let to_ := min c.hi (c.lo + 96 * (now + 1 - 256 * c.berth))
  let at_ := c.pos - c.lo
  min (min 4096 (to_ - c.pos)) (min (65536 - (src.toNat + c.pos) % 65536) (65536 - (c.addr.toNat + at_) % 65536))

/-- A read of the source of a copy, in pieces of 16 bytes. -/
def State.copyRead (s : State) (c : ExCopy) (va : VAddr) (n : Nat) : ERes (List Byte) :=
  s.engReadN { core := c.core, eng := some (.ce, 0) } va (n + 1) n

/-- `EXCHANGE_COPY` (R425): a packet of a copy leaves; a fault at its source ends it there, and so does the end of its granted
berths. -/
def execExchangeCopy (tag : Nat) (s : State) : Host.Outcome State Fault Refusal :=
  match s.copies.find? fun c => c.tag = tag && !c.fin with
  | none => .next s
  | some c =>
    match s.myRound c.grp c.round with
    | none => .next s
    | some r =>
      if decide (c.to_ ≤ s.berth) && decide (c.pos < c.hi) then .next (s.setCopy { c with hi := c.pos, fin := true })
      else
      let src := r.src c.dst
      let n := c.room s.tb src
      if n = 0 then .next s
      else
        match s.copyRead c (vadd src c.pos) n with
        | .wait t => .next t
        | .fault _ _ _ => .next (s.setCopy { c with hi := c.pos, fin := true })
        | .ok t bs =>
          let w := t.dropEngReads { core := c.core, eng := some (.ce, 0) }
          let q := w.takeTag
          let to_ := (vadd c.addr (c.pos - c.lo)).toNat
          let arg := BitVec.ofNat 64 (2 ^ 62 + c.round * 2 ^ 46 + c.grp * 2 ^ 34 + to_ / 2 ^ 56)
          .next ((q.1.setCopy { c with pos := c.pos + n, writes := c.writes ++ [(q.2, c.pos)] }).send
            { opc := 1, ackreq := true, ord := true, dpkg := c.dst, spkg := s.pkg, score := c.core, tag := q.2 % 65536,
              pa := to_ % 2 ^ 56, arg := arg, rsv := false, data := bs })

/-- A use of a calendar completes early: its berths are FREE at once (R74), and its owner sends DONE (R65). -/
def State.finishUse (s : State) (c : Cal) (u : OwnUse) : State := (s.setCal c ((s.cal c).dropUse u.id)).sendDone c u.id u.link

/-- The uses of a copy's engine and of its first port complete: berths that have not ended return FREE (R74, R425). -/
def State.freeCopy (s : State) (c : ExCopy) : State :=
  let ce : Cal := { kind := .ce, idx := c.core }
  match (s.cal ce).uses.find? fun u => u.id.hm && u.first = c.berth with
  | none => s
  | some u =>
    let s := s.finishUse ce u
    let port : Cal := { kind := .port, idx := (s.routes.get Route.none c.dst).port }
    match (s.cal port).uses.find? fun v => v.id.hm && v.id.xid = u.id.xid && v.id.pkg = u.id.pkg && v.first = c.berth with
    | none => s
    | some v => s.finishUse port v

/-- `EXCHANGE_COPY_END` (R425): every byte of the copy is sent and performed; the source reports. -/
def execExchangeCopyEnd (tag : Nat) (s : State) : Host.Outcome State Fault Refusal :=
  match s.copies.find? fun c => c.tag = tag && (c.fin || decide (c.hi ≤ c.pos)) && c.writes.isEmpty with
  | none => .next s
  | some c =>
    let n := min c.pos c.hi - c.lo
    let add (r : MyRound) : MyRound :=
      if r.grp = c.grp && r.round = c.round then { r with sent_ := r.sent_.put 0 c.dst (r.sent_.get 0 c.dst + n) } else r
    let s := { s with copies := s.copies.filter fun x => x.tag ≠ tag, myRounds := s.myRounds.map add }
    .next ((s.freeCopy c).report c.core c.grp c.round c.dst n)

/-- A round's result for this package is kept among the 16 latest, and delivered to every wait on it (R426 to R428). -/
def State.roundResult (s : State) (grp round : Nat) (word : W64) (sc : Option Scope) : State :=
  let rest := s.results.filter fun r => !(r.1 = grp && r.2.1 = round)
  let s := { s with results := ((grp, round, word) :: rest).take 16 }
  let s := (s.xwaits.filter fun x => x.grp = grp && x.round = round).foldl (fun s x =>
    let s := match sc with | some v => s.acquire x.core v | none => s
    s.deliver x.core x.fw x.d word none) s
  { s with xwaits := s.xwaits.filter fun x => !(x.grp = grp && x.round = round) }

/-- REM of a record is written to the manifest, where its page can still be written (R426). -/
def State.writeRem (s : State) (r : MyRound) (i rem : Nat) : State :=
  s.writeParts none r.asn r.core [(vadd r.addr (32 + 32 * i + 0x1B), leBytes 5 rem)]

/-- The pages of a list that can be published, or a wait for a page table of another package. -/
def State.goodPages (s : State) (k : Nat) : List VAddr → State × Option (List VAddr)
  | [] => (s, some [])
  | va :: vas =>
    match s.checkPages k [va] with
    | .wait t => (t, none)
    | .ok t => let r := State.goodPages t k vas; (r.1, r.2.map (va :: ·))
    | .bad t _ => State.goodPages t k vas

/-- The REM of a record (R426). -/
def MyRound.rem (r : MyRound) (x : ManRec) : Nat := x.len - min x.len (r.sent_.get 0 x.dst)

/-- `ROUND_END` (R426): the receive buffer is published, REM written, and DONE delivered. -/
def execRoundEnd (p : Packet) (s : State) : Host.Outcome State Fault Refusal :=
  .next (s.receive 0x13 p fun s =>
    let grp := nbits p.arg.toNat 27 16
    let round := p.arg.toNat % 65536
    match s.myRound grp round with
    | none => s
    | some r =>
      let sc := if r.man.pscope = 4 then Scope.pkg else .pod
      match s.goodPages r.core r.man.pages with
      | (s, none) => s.keepPacket p
      | (s, some pages) =>
      if s.entriesHeld r.core .forced pages then s.keepPacket p
      else
      let s := s.swapPages r.core .forced sc pages
      let rems := r.man.recs.map r.rem
      let s := (List.range rems.length).foldl (fun s i => s.writeRem r i (rems.getD i 0)) s
      { s with myRounds := s.myRounds.filter fun x => !(x.grp = grp && x.round = round) }.roundResult grp round
        (roundWord 1 round rems.sum) (some sc))

/-- A round of this package is abandoned (R427): its waits receive the status, and its copies stop. -/
def State.dropRound (s : State) (grp round status : Nat) : State :=
  { s with
    myRounds := s.myRounds.filter fun x => !(x.grp = grp && x.round = round)
    copies := s.copies.filter fun c => !(c.grp = grp && c.round = round) }.roundResult grp round (roundWord status round 0) none

/-- `ABANDON` (R427): from a participant to the harbourmaster, or from it to a participant (log entry 6). -/
def execAbandon (p : Packet) (s : State) : Host.Outcome State Fault Refusal :=
  .next (s.receive 0x14 p fun s =>
    let a := p.arg.toNat
    let grp := nbits a 27 16
    let round := a % 65536
    if nbit a 63 then
      match s.myRound grp round with
      | some _ => s.dropRound grp round (nbits a 35 32)
      | none => s
    else
      match s.hmRounds.find? fun r => r.grp = grp && r.round = round && r.mans.any fun m => m.pkg = p.spkg with
      | some r => s.abandonRound r 2
      | none => s)

/-- `x.wait` (R428). -/
def execXWait (d a : Reg) (fa : Bool) (s : State) : Host.Outcome State Fault Refusal :=
  (coreState s (readSrc s a fa fun v => waitDest s d (
    let round := nbits v.toNat 55 40
    if v.toNat / 2 ^ 60 ≠ 0 then writeS s d v
    else
      match s.myRound s.hmGrp round with
      | some r =>
        let w : XWaitF := { core := s.focusCore, fw := s.focusFw, d := d, grp := r.grp, round := round }
        .ok ({ s with xwaits := s.xwaits ++ [w] }.setCur (s.cur.setFE d .pending).advance)
      | none =>
        match s.results.find? fun r => r.1 = s.hmGrp && r.2.1 = round with
        | some r => writeS (s.acquire s.focusCore .pod) d r.2.2
        | none => writeS s d (roundWord 7 round 0)))).out

/-! ### Failover (R429) -/

/-- `HEARTBEAT_TIMER` (R429): the primary tells the standby, every 2,048 ticks. -/
def execHeartbeatTimer (s : State) : Host.Outcome State Fault Refusal :=
  if s.pkg ≠ s.hmPrim || s.hmStby = s.hmPrim || s.noStby || decide (s.tb < s.hbSent + 2048) then .next s
  else .next ({ s with hbSent := s.tb }.send (ctrlPacket 0x15 s.pkg 0 s.hmStby 0 (BitVec.ofNat 64 s.hmGrp) []))

/-- `HEARTBEAT` (R429): the standby restarts its watch. -/
def execHeartbeat (p : Packet) (s : State) : Host.Outcome State Fault Refusal :=
  .next (s.receive 0x15 p fun s => { s with hbSeen := s.tb })

/-- The packages that the routing table reaches. -/
def State.reachable (s : State) : List Nat :=
  s.routes.filterMap fun r => if !s.ownPkg r.1 && (r.2.hops = 1 || r.2.hops = 2) then some r.1 else none

/-- Every booking unit of the package cancels the uses that the harbourmaster of a package asked for (R429). -/
def State.cancelHm (s : State) (old : Nat) : State :=
  ((List.range 10).flatMap dieCals).foldl (fun s c =>
    ((s.cal c).uses.filter fun u => u.id.hm && u.id.pkg = old).foldl (fun s u => s.ownerRelease c u.id) s) s

/-- A package of the group follows a TAKEOVER (R429): PRIM and STBY change places, the old primary's uses are cancelled, and open rounds
end with REPOST. -/
def State.takeOver (s : State) (old : Nat) : State :=
  let s := s.cancelHm old
  let mine := s.myRounds.filter fun r => r.grp = s.hmGrp
  let s := { s with hmRounds := s.hmRounds.filter fun r => r.grp ≠ s.hmGrp, hmPrim := s.hmStby, hmStby := s.hmPrim, noStby := true }
  mine.foldl (fun s r => s.dropRound r.grp r.round 3) s

/-- `TAKEOVER_TIMEOUT` (R429): 6,144 ticks without a heartbeat. -/
def execTakeoverTimeout (s : State) : Host.Outcome State Fault Refusal :=
  if s.pkg ≠ s.hmStby || s.hmStby = s.hmPrim || s.noStby || decide (s.tb < s.hbSeen + 6144) then .next s
  else
    let old := s.hmPrim
    let t := s.reachable.foldl (fun s p => s.send (ctrlPacket 0x16 s.pkg 0 p 0 (BitVec.ofNat 64 (old * 2 ^ 16 + s.hmGrp)) [])) s
    .next ({ t with hbSent := s.tb }.takeOver old)

/-- `TAKEOVER` (R429; log entry 6): ARG[11:0] is the group, ARG[26:16] the old primary. A package of another group owns a port of a
two-hop route, say: its booking units cancel the old primary's uses. -/
def execTakeover (p : Packet) (s : State) : Host.Outcome State Fault Refusal :=
  .next (s.receive 0x16 p fun s =>
    let old := nbits p.arg.toNat 26 16
    if p.arg.toNat % 4096 = s.hmGrp then (s.takeOver s.hmPrim).cancelHm old else s.cancelHm old)

/-! ### Time (R405) -/

/-- `TIME` (R26, R405): the message names the sender's time base as it arrives; the own one comes within 16 ticks of it and
never runs back. Which tick of those it takes is free (log entry 4). -/
def execTimeMsg (p : Packet) (s : State) : Host.Outcome State Fault Refusal :=
  .next (s.receive 0x18 p fun s =>
    let f := s.freeVal 6
    { f.1 with tb := max s.tb (p.arg.toNat + min 32 f.2 - 16) })

end Sys2Proof.Machine
end

