-- ==== Sys2Proof/Machine/BookMsg.lean ====
section
/-!
DEFINITION. Search rounds (R61), and the booking messages that a requester receives (R65, R67, R75, R77): for a request of a
core, or for a tide of the harbourmaster (R424); and NAKs (R408).
-/

namespace Sys2Proof.Machine

/-- `SEARCH_ROUND` (R61, R62, R67, R68): of a request of a core, or, with core number 512, of a tide (R424). -/
def execSearchRound (core bid : Nat) (s : State) : Host.Outcome State Fault Refusal :=
  .next (if core = 512 then s.tideRound bid else s.requestRound core bid)

/-- An answer to use `j` of a request in its round. -/
def State.requestAnswer (s : State) (m : BookMsg) (outside : Bool) (a : Answer) (berth : Option Nat) : State :=
  match (s.core m.core).booking m.xid with
  | none => s
  | some b =>
    match b.uses[m.use]? with
    | none => s
    | some u =>
      if b.status ≠ .held || b.round.isNone || u.ans ≠ .waiting || (outside && s.useHere u) then s
      else
        s.judgeRound m.core
          { b with uses := b.uses.mapIdx (fun i v => if i = m.use then { v with ans := if v.fin then .own else a } else v), berth := berth.getD b.berth }

/-- A message to a requester (R65), after the requests of its unit's own cores (R62). -/
def State.atRequester (s : State) (t : BookType) (m : BookMsg) (f : State → Bool → State) : State :=
  if m.pkg ≠ s.pkg then s
  else
    match s.arrive t m with
    | none => s
    | some (x, g) => if s.localFirst g.die g.due then s.queueMsg g else f x (g.src = outsideSrc)

/-- `HELD` (R67). -/
def execHeld (m : BookMsg) (s : State) : Host.Outcome State Fault Refusal :=
  .next (s.atRequester .held m fun s outside =>
    if m.hm then s.tideAnswer m.xid m.use (.held m.exp) else s.requestAnswer m outside (.held m.exp) none)

/-- `REFUSED` (R67): the alternative is the floor of a later round. -/
def execRefused (m : BookMsg) (s : State) : Host.Outcome State Fault Refusal :=
  .next (s.atRequester .refused m fun s outside =>
    let a := Answer.refused (if m.berth = noBerth then none else some m.berth)
    if m.hm then s.tideAnswer m.xid m.use a else s.requestAnswer m outside a (some m.berth))

/-- `REFUSED_FATAL` (R67, R88): it ends a request, or a committed booking, as FATAL, subcode 1. -/
def execRefusedFatal (m : BookMsg) (s : State) : Host.Outcome State Fault Refusal :=
  .next (s.atRequester .refusedFatal m fun s outside =>
    if m.hm then s.tideAnswer m.xid m.use .fatal
    else
      match (s.core m.core).booking m.xid with
      | none => s
      | some b =>
        if b.status = .committed || b.status = .slipped then s.endBooking m.core b .fatal 1
        else s.requestAnswer m outside .fatal none)

/-- The owner of a use moves it to a floor and answers (R75, R88). The spec gives no answer for a move that finds no run: MOVED with BERTH
all ones, as REFUSED has it, tells the requester (DESIGN CHOICE, log entry 70). -/
def State.slipOwner (s : State) (m : BookMsg) : State :=
  let c := calOfWord m.res.toNat
  let d := ownerDie c
  if (s.die d).failstop then s.toRequester d .refusedFatal m
  else
    match s.moveUse c (msgUse m) m.berth with
    | .gone => s
    | .noRun => s.toRequester d .moved { m with berth := noBerth }
    | .at_ t f => t.toRequester d .moved { m with berth := f }

/-- `SLIP` (R75), after the unit's own requests (R62): to the owner of a dependant it carries the floor; to the requester it reports an
overrunning use. -/
def execSlip (m : BookMsg) (s : State) : Host.Outcome State Fault Refusal :=
  match s.arrive .slip m with
  | none => .next s
  | some (x, f) =>
    let mine : Bool := if f.src = outsideSrc then m.pkg ≠ s.pkg else ownerDie (calOfWord m.res.toNat) = f.die
    if s.localFirst f.die f.due then .next (s.queueMsg f)
    else if !mine then .next (x.slipped m.core m.xid m.use m.berth (nbits m.res.toNat 16 0))
    else .next (x.slipOwner m)

/-- `MOVED` (R75): the cascade goes on from the new first berth; a move that found no run makes the booking FATAL, subcode 3. -/
def execMoved (m : BookMsg) (s : State) : Host.Outcome State Fault Refusal :=
  .next (s.atRequester .moved m fun s _ =>
    if m.hm then s
    else
      match (s.core m.core).booking m.xid with
      | none => s
      | some b =>
        if !(b.status = .committed || b.status = .slipped) then s
        else if m.berth = noBerth then s.endBooking m.core b .fatal 3
        else match b.uses[m.use]? with | some u => s.slipped m.core m.xid m.use m.berth u.n | none => s)

/-- `DONE` (R65, R77): a use of another booking unit has completed. -/
def execDoneMsg (m : BookMsg) (s : State) : Host.Outcome State Fault Refusal :=
  .next (s.atRequester .done m fun s outside =>
    if m.hm then s
    else
      match (s.core m.core).booking m.xid with
      | some b => match b.uses[m.use]? with | some u => if outside && s.useHere u then s else s.useDone m.core m.xid m.use | none => s
      | none => s)

/-! ### NAK (R408) -/

/-- A booking message was answered NAK (R67): its tag names the use, of a request of a core or of a tide (log entry 6). The requests of the
unit's own cores come first (R62). -/
def State.nakBooking (s : State) (k tag : Nat) : State :=
  match s.bookTags.find? fun p => p.1 = tag && p.2.core = k with
  | none => s
  | some (_, id) =>
    let s := { s with bookTags := s.bookTags.filter fun p => p.2 ≠ id }
    let s := if id.hm then s else s.localRounds (dieOf k)
    if id.hm then s.tideAnswer id.xid id.use .noRoute
    else
      match (s.core k).booking id.xid with
      | none => s
      | some b =>
        match b.status with
        | .held =>
          match b.uses[id.use]? with
          | some u =>
            if b.round.isSome && u.ans = .waiting then
              s.judgeRound k { b with uses := b.uses.mapIdx fun i v => if i = id.use then { v with ans := .noRoute } else v }
            else s
          | none => s
        | .committed | .slipped => s.endBooking k b .fatal 4
        | _ => s

/-- `NAK` (R408): it is counted, and acts by the kind of request it answers; one that answers a response is counted only. -/
def execNak (p : Packet) (s : State) : Host.Outcome State Fault Refusal :=
  .next (s.receive 7 p fun s =>
    let code := p.arg.toNat % 256
    let k := p.score
    let s := s.countNak k code
    if [3, 5, 9, 0xB].contains (nbits p.arg.toNat 15 8) then s
    else
    match s.renqOf k p.tag with
    | some (fw, _, t, va) => s.takeTrap k fw (renqTrap code t va)
    | none =>
      match s.fenceSrc.find? fun f => f.tag % 65536 = p.tag && f.core = k with
      | some f => s.failFence f code
      | none =>
        match s.posts.find? fun x => x.tag % 65536 = p.tag && x.core = k with
        | some x => s.failPost x
        | none =>
          match s.tagged p (Flight.asked k) with
          | some (t, f) => s.nakFlight t f code
          | none =>
            if s.copies.any fun c => c.core = k && c.writes.any fun w => w.1 % 65536 = p.tag then s.copyAck p.tag true
            else s.nakBooking k p.tag)


end Sys2Proof.Machine
end

