-- ==== Sys2Proof/Machine/FpOps.lean ====
section
/-!
DEFINITION. Scalar floating point (R174 to R182). An fp64 operand is the whole register; an fp32 operand is bits [31:0], and
an fp32 result has bits [63:32] zero.
-/

namespace Sys2Proof.Machine

/-- An fp64 operation on two sources. -/
def f64Op (s : State) (r : FRound) (d a b : Reg) (fa fb : Bool) (f : Nat → Nat → RMode → Nat × FlagSet) : Res :=
  srcAB s a b fa fb fun x y => waitDest s d
    (let v := f x.toNat y.toNat (s.cur.roundMode r)
     writeF s d (BitVec.ofNat 64 v.1, v.2))

/-- An fp32 operation on two sources. -/
def f32Op (s : State) (r : FRound) (d a b : Reg) (fa fb : Bool) (f : Nat → Nat → RMode → Nat × FlagSet) : Res :=
  srcAB s a b fa fb fun x y => waitDest s d
    (let v := f (lo32 x) (lo32 y) (s.cur.roundMode r)
     writeF s d (of32 v.1, v.2))

def execFaddF64 (r : FRound) (d a b : Reg) (fa fb : Bool) (s : State) := (f64Op s r d a b fa fb fp64.add).out
def execFsubF64 (r : FRound) (d a b : Reg) (fa fb : Bool) (s : State) := (f64Op s r d a b fa fb fp64.sub).out
def execFmulF64 (r : FRound) (d a b : Reg) (fa fb : Bool) (s : State) := (f64Op s r d a b fa fb fp64.mul).out
/-- `fma` reads its destination with policy 0 (R175). -/
def execFmaF64 (r : FRound) (d a b : Reg) (fa fb : Bool) (s : State) :=
  (srcAB s a b fa fb fun x y => readSrc s d false fun z =>
    (let v := fp64.fma x.toNat y.toNat z.toNat (s.cur.roundMode r) false
     writeF s d (BitVec.ofNat 64 v.1, v.2))).out
def execFdivF64 (r : FRound) (d a b : Reg) (fa fb : Bool) (s : State) := (f64Op s r d a b fa fb fp64.div).out
def execFsqrtF64 (r : FRound) (d a : Reg) (fa : Bool) (s : State) :=
  (readSrc s a fa fun x => waitDest s d
    (let v := fp64.sqrt x.toNat (s.cur.roundMode r)
     writeF s d (BitVec.ofNat 64 v.1, v.2))).out
/-- Minimum and maximum never round (R178). -/
def execFminF64 (r : FRound) (d a b : Reg) (fa fb : Bool) (s : State) :=
  (f64Op s r d a b fa fb fun x y _ => fp64.minMax x y false).out
def execFmaxF64 (r : FRound) (d a b : Reg) (fa fb : Bool) (s : State) :=
  (f64Op s r d a b fa fb fun x y _ => fp64.minMax x y true).out

def execFaddF32 (r : FRound) (d a b : Reg) (fa fb : Bool) (s : State) := (f32Op s r d a b fa fb fp32.add).out
def execFsubF32 (r : FRound) (d a b : Reg) (fa fb : Bool) (s : State) := (f32Op s r d a b fa fb fp32.sub).out
def execFmulF32 (r : FRound) (d a b : Reg) (fa fb : Bool) (s : State) := (f32Op s r d a b fa fb fp32.mul).out
def execFmaF32 (r : FRound) (d a b : Reg) (fa fb : Bool) (s : State) :=
  (srcAB s a b fa fb fun x y => readSrc s d false fun z =>
    (let v := fp32.fma (lo32 x) (lo32 y) (lo32 z) (s.cur.roundMode r) false
     writeF s d (of32 v.1, v.2))).out
def execFdivF32 (r : FRound) (d a b : Reg) (fa fb : Bool) (s : State) := (f32Op s r d a b fa fb fp32.div).out
def execFsqrtF32 (r : FRound) (d a : Reg) (fa : Bool) (s : State) :=
  (readSrc s a fa fun x => waitDest s d
    (let v := fp32.sqrt (lo32 x) (s.cur.roundMode r)
     writeF s d (of32 v.1, v.2))).out
def execFminF32 (r : FRound) (d a b : Reg) (fa fb : Bool) (s : State) :=
  (f32Op s r d a b fa fb fun x y _ => fp32.minMax x y false).out
def execFmaxF32 (r : FRound) (d a b : Reg) (fa fb : Bool) (s : State) :=
  (f32Op s r d a b fa fb fun x y _ => fp32.minMax x y true).out

/-- The scalar format of a conversion type, where it is floating. -/
def cvtFmt (t : CvtType) : Option Fmt :=
  match t with
  | .f64 => some fp64 | .f32 => some fp32 | _ => none

/-- Width and signedness of a conversion type, where it is an integer. -/
def cvtInt (t : CvtType) : Nat × Bool :=
  match t with
  | .i64 => (64, true) | .n64 => (64, false) | .i32 => (32, true) | .n32 => (32, false) | _ => (64, true)

/-- The result of `fcvt` (R179): an i32 result is sign-extended to 64 bits, an n32 result zero-extended. -/
def fcvtF (t u : CvtType) (m : RMode) (x : W64) : W64 × FlagSet :=
  match cvtFmt t, cvtFmt u with
  | some g, some f =>
    let r := convFF f g (if u = .f32 then lo32 x else x.toNat) m false
    (BitVec.ofNat 64 r.1, r.2)
  | some g, none =>
    let i := cvtInt u
    let r := convIF g (intVal i.1 i.2 x.toNat) m false
    (BitVec.ofNat 64 r.1, r.2)
  | none, some f =>
    let i := cvtInt t
    let r := convFI f i.1 i.2 (if u = .f32 then lo32 x else x.toNat) m
    (BitVec.ofInt 64 (intVal i.1 i.2 r.1), r.2)
  | none, none => (x, FlagSet.none)

def execFcvt (r : FRound) (t u : CvtType) (d a : Reg) (fa : Bool) (s : State) :=
  (readSrc s a fa fun x => waitDest s d (writeF s d (fcvtF t u (s.cur.roundMode r) x))).out

/-- The class of an encoding, one bit of [9:0] (R180). -/
def classOf (f : Fmt) (v : Nat) : Nat :=
  match f.decode v with
  | .nan _ fr => if f.signalling fr then 8 else 9
  | .inf n => if n then 0 else 7
  | .fin n m _ => if m = 0 then (if n then 3 else 4)
      else if m < 2 ^ f.fw then (if n then 2 else 5) else (if n then 1 else 6)

def execFclassF64 (d a : Reg) (fa : Bool) (s : State) :=
  (unOp s d a fa fun x => BitVec.ofNat 64 (2 ^ classOf fp64 x.toNat)).out
def execFclassF32 (d a : Reg) (fa : Bool) (s : State) :=
  (unOp s d a fa fun x => BitVec.ofNat 64 (2 ^ classOf fp32 (lo32 x))).out

/-- A floating comparison and whether it raises NV (R181). -/
def fcmpF (f : Fmt) (c : FCond) (a b : Nat) : Bool × Bool :=
  let x := f.decode a
  let y := f.decode b
  let isNaN (v : FVal) : Bool := match v with | .nan .. => true | _ => false
  let isSig (v : FVal) : Bool := match v with | .nan _ fr => f.signalling fr | _ => false
  let un := isNaN x || isNaN y
  let sig := isSig x || isSig y
  let r := cmpVals x y
  match c with
  | .eq => (!un && r = 0, sig)
  | .ne => (un || r ≠ 0, sig)
  | .lt => (!un && r < 0, un)
  | .le => (!un && r ≤ 0, un)
  | .gt => (!un && 0 < r, un)
  | .ge => (!un && 0 ≤ r, un)
  | .un => (un, sig)
  | .ord => (!un, sig)

/-- Write the truth of a comparison and its NV. -/
def writeCmp (s : State) (d : PReg) (r : Bool × Bool) : Res :=
  .ok (s.setCur ((s.cur.orFlags { FlagSet.none with nv := r.2 }).setP d r.1).advance)

def execFcmpF64 (c : FCond) (d : PReg) (a b : Reg) (fa fb : Bool) (s : State) :=
  (srcAB s a b fa fb fun x y => writeCmp s d (fcmpF fp64 c x.toNat y.toNat)).out
def execFcmpF32 (c : FCond) (d : PReg) (a b : Reg) (fa fb : Bool) (s : State) :=
  (srcAB s a b fa fb fun x y => writeCmp s d (fcmpF fp32 c (lo32 x) (lo32 y))).out

end Sys2Proof.Machine
end

