-- ==== Sys2Proof/Machine/IntOps.lean ====
section
/-!
DEFINITION. Integer operations, immediates and constants, compares and predicates, address arithmetic (R151 to R160).
-/

namespace Sys2Proof.Machine

/-! ### Functions of the operands -/

/-- The high 64 bits of a signed product (R151). -/
def mulhS (x y : W64) : W64 := BitVec.ofInt 64 (x.toInt * y.toInt / 2 ^ 64)
/-- The high 64 bits of an unsigned product. -/
def mulhU (x y : W64) : W64 := BitVec.ofNat 64 (x.toNat * y.toNat / 2 ^ 64)

/-- Quotient and remainder of a signed division (R152): a zero divisor gives all ones and the dividend. -/
def divS (x y : W64) : W64 := if y = 0 then BitVec.allOnes 64 else BitVec.ofInt 64 (x.toInt.tdiv y.toInt)
def remS (x y : W64) : W64 := if y = 0 then x else BitVec.ofInt 64 (x.toInt.tmod y.toInt)
/-- Quotient and remainder of an unsigned division (R152). -/
def divU (x y : W64) : W64 := if y = 0 then BitVec.allOnes 64 else x / y
def remU (x y : W64) : W64 := if y = 0 then x else x % y

/-- Shift amount sb[5:0] (R151). -/
def shAmt (y : W64) : Nat := y.toNat % 64

/-- Shifts and rotation by sb[5:0] (R151). -/
def shlF (x y : W64) : W64 := x <<< shAmt y
def shrF (x y : W64) : W64 := x >>> shAmt y
def sraF (x y : W64) : W64 := x.sshiftRight (shAmt y)
def rotlF (x y : W64) : W64 := x.rotateLeft (shAmt y)

/-- Minimum and maximum, signed and unsigned (R151). -/
def minS (x y : W64) : W64 := if x.slt y then x else y
def maxS (x y : W64) : W64 := if x.slt y then y else x
def minU (x y : W64) : W64 := if x.ult y then x else y
def maxU (x y : W64) : W64 := if x.ult y then y else x

/-- Leading zeros of the low `n` bits. -/
def clzN (v : Nat) : Nat → Nat
  | 0 => 0
  | n + 1 => if nbit v n then 0 else 1 + clzN v n

/-- Trailing zeros of `v`, at most `n`. -/
def ctzN (v : Nat) : Nat → Nat
  | 0 => 0
  | n + 1 => if nbit v 0 then 0 else 1 + ctzN (v / 2) n

/-- Set bits among the low `n` bits. -/
def popcN (v : Nat) : Nat → Nat
  | 0 => 0
  | n + 1 => (if nbit v 0 then 1 else 0) + popcN (v / 2) n

def clzF (x : W64) : W64 := BitVec.ofNat 64 (clzN x.toNat 64)
def ctzF (x : W64) : W64 := BitVec.ofNat 64 (ctzN x.toNat 64)
def popcF (x : W64) : W64 := BitVec.ofNat 64 (popcN x.toNat 64)

/-- Sign- and zero-extension of the low sb[6:0] bits (R153). -/
def sextF (x y : W64) : W64 :=
  let n := y.toNat % 128
  if n = 0 then 0 else if 64 ≤ n then x else BitVec.ofInt 64 (signed n x.toNat)
def zextF (x y : W64) : W64 :=
  let n := y.toNat % 128
  if 64 ≤ n then x else BitVec.ofNat 64 (x.toNat % 2 ^ n)

/-- Bit field parameters in sb (R153): position sb[5:0] and length min(sb[14:8], 64). -/
def bfPos (y : W64) : Nat := y.toNat % 64
def bfLen (y : W64) : Nat := min (nbits y.toNat 14 8) 64

/-- Field extraction and insertion (R153). -/
def bfxF (x y : W64) : W64 := BitVec.ofNat 64 (x.toNat / 2 ^ bfPos y % 2 ^ bfLen y)
def bfiF (x y z : W64) : W64 :=
  let m : W64 := BitVec.ofNat 64 ((2 ^ bfLen y - 1) * 2 ^ bfPos y)
  (z &&& ~~~m) ||| ((x <<< bfPos y) &&& m)

/-- Conditions of `cmp` and `cmpi` (R157). -/
def condHolds (c : Cond) (x y : W64) : Bool :=
  match c with
  | .eq => x = y
  | .ne => x ≠ y
  | .lt => x.slt y
  | .ge => !x.slt y
  | .ltn => x.ult y
  | .gen => !x.ult y

/-- Conditions of `a.cmp` (R160). -/
def acondHolds (c : ACond) (x y : VAddr) : Bool :=
  match c with
  | .eq => x = y
  | .ne => x ≠ y
  | .ltn => x.ult y
  | .gen => !x.ult y

/-! ### Register-register integer words (R151 to R154) -/

def execAdd (d a b : Reg) (fa fb : Bool) (s : State) := (binOp s d a b fa fb (· + ·)).out
def execSub (d a b : Reg) (fa fb : Bool) (s : State) := (binOp s d a b fa fb (· - ·)).out
def execMul (d a b : Reg) (fa fb : Bool) (s : State) := (binOp s d a b fa fb (· * ·)).out
def execMulh (d a b : Reg) (fa fb : Bool) (s : State) := (binOp s d a b fa fb mulhS).out
def execMulhn (d a b : Reg) (fa fb : Bool) (s : State) := (binOp s d a b fa fb mulhU).out
def execDiv (d a b : Reg) (fa fb : Bool) (s : State) := (binOp s d a b fa fb divS).out
def execDivn (d a b : Reg) (fa fb : Bool) (s : State) := (binOp s d a b fa fb divU).out
def execRem (d a b : Reg) (fa fb : Bool) (s : State) := (binOp s d a b fa fb remS).out
def execRemn (d a b : Reg) (fa fb : Bool) (s : State) := (binOp s d a b fa fb remU).out
def execIAnd (d a b : Reg) (fa fb : Bool) (s : State) := (binOp s d a b fa fb (· &&& ·)).out
def execIOr (d a b : Reg) (fa fb : Bool) (s : State) := (binOp s d a b fa fb (· ||| ·)).out
def execIXor (d a b : Reg) (fa fb : Bool) (s : State) := (binOp s d a b fa fb (· ^^^ ·)).out
def execAndn (d a b : Reg) (fa fb : Bool) (s : State) := (binOp s d a b fa fb fun x y => x &&& ~~~y).out
def execShl (d a b : Reg) (fa fb : Bool) (s : State) := (binOp s d a b fa fb shlF).out
def execShr (d a b : Reg) (fa fb : Bool) (s : State) := (binOp s d a b fa fb shrF).out
def execSra (d a b : Reg) (fa fb : Bool) (s : State) := (binOp s d a b fa fb sraF).out
def execRotl (d a b : Reg) (fa fb : Bool) (s : State) := (binOp s d a b fa fb rotlF).out
def execIMin (d a b : Reg) (fa fb : Bool) (s : State) := (binOp s d a b fa fb minS).out
def execIMax (d a b : Reg) (fa fb : Bool) (s : State) := (binOp s d a b fa fb maxS).out
def execMinn (d a b : Reg) (fa fb : Bool) (s : State) := (binOp s d a b fa fb minU).out
def execMaxn (d a b : Reg) (fa fb : Bool) (s : State) := (binOp s d a b fa fb maxU).out
def execClz (d a : Reg) (fa : Bool) (s : State) := (unOp s d a fa clzF).out
def execCtz (d a : Reg) (fa : Bool) (s : State) := (unOp s d a fa ctzF).out
def execPopc (d a : Reg) (fa : Bool) (s : State) := (unOp s d a fa popcF).out
def execSext (d a b : Reg) (fa fb : Bool) (s : State) := (binOp s d a b fa fb sextF).out
def execZext (d a b : Reg) (fa fb : Bool) (s : State) := (binOp s d a b fa fb zextF).out
def execBfx (d a b : Reg) (fa fb : Bool) (s : State) := (binOp s d a b fa fb bfxF).out
/-- `bfi` reads its destination as a source (R153). -/
def execBfi (d a b : Reg) (fa fb : Bool) (s : State) := (triOp s d a b fa fb bfiF).out
/-- `sel` reads both sources whichever is selected (R154). -/
def execSel (n : PReg) (d a b : Reg) (fa fb : Bool) (s : State) :=
  (binOp s d a b fa fb fun x y => if s.cur.getP n then x else y).out

/-! ### Predicates and compares (R157, R158) -/

def execPAnd (d a b : PReg) (s : State) := (writeP s d (s.cur.getP a && s.cur.getP b)).out
def execPOr (d a b : PReg) (s : State) := (writeP s d (s.cur.getP a || s.cur.getP b)).out
def execPXor (d a b : PReg) (s : State) := (writeP s d (s.cur.getP a != s.cur.getP b)).out
def execPNot (d a : PReg) (s : State) := (writeP s d (!s.cur.getP a)).out
def execPMov (d a : PReg) (s : State) := (writeP s d (s.cur.getP a)).out
def execCmp (c : Cond) (d : PReg) (a b : Reg) (fa fb : Bool) (s : State) :=
  (srcAB s a b fa fb fun x y => writeP s d (condHolds c x y)).out
def execCmpi (c : Cond) (d : PReg) (a : Reg) (fa : Bool) (imm : BitVec 13) (s : State) :=
  (readSrc s a fa fun x => writeP s d (condHolds c x (sext13 imm))).out

/-! ### Address arithmetic (R159, R160) -/

/-- `aA` plus a multiple of a scalar, modulo 2^72. -/
def aLea (d a : AReg) (b : Reg) (fb : Bool) (k : Nat) (s : State) : Res :=
  readSrc s b fb fun y => writeA s d (s.cur.getA a + sext72 y * BitVec.ofNat 72 k)

def execAAdd (d a : AReg) (b : Reg) (fb : Bool) (s : State) := (aLea d a b fb 1 s).out
def execALea2 (d a : AReg) (b : Reg) (fb : Bool) (s : State) := (aLea d a b fb 2 s).out
def execALea4 (d a : AReg) (b : Reg) (fb : Bool) (s : State) := (aLea d a b fb 4 s).out
def execALea8 (d a : AReg) (b : Reg) (fb : Bool) (s : State) := (aLea d a b fb 8 s).out
def execALea16 (d a : AReg) (b : Reg) (fb : Bool) (s : State) := (aLea d a b fb 16 s).out
def execAMov (d a : AReg) (s : State) := (writeA s d (s.cur.getA a)).out
/-- `aD` := sb[7:0] joined with sa. -/
def execAMovScalar (d : AReg) (a b : Reg) (fa fb : Bool) (s : State) :=
  (srcAB s a b fa fb fun x y => writeA s d (BitVec.ofNat 72 (y.toNat % 256 * 2 ^ 64 + x.toNat))).out
def execAGet (d : Reg) (a : AReg) (s : State) :=
  (waitDest s d (writeS s d ((s.cur.getA a).setWidth 64))).out
def execAGetHi (d : Reg) (a : AReg) (s : State) :=
  (waitDest s d (writeS s d (BitVec.ofNat 64 ((s.cur.getA a).toNat / 2 ^ 64)))).out
def execACmp (c : ACond) (d : PReg) (a b : AReg) (s : State) :=
  (writeP s d (acondHolds c (s.cur.getA a) (s.cur.getA b))).out
def execAAddi (d a : AReg) (imm : BitVec 13) (s : State) :=
  (writeA s d (s.cur.getA a + imm.signExtend 72)).out

/-! ### Immediates and constants (R155, R156) -/

def execAddi (d a : Reg) (fa : Bool) (imm : BitVec 13) (s : State) := (unOp s d a fa (· + sext13 imm)).out
def execAndi (d a : Reg) (fa : Bool) (imm : BitVec 13) (s : State) := (unOp s d a fa (· &&& sext13 imm)).out
def execOri (d a : Reg) (fa : Bool) (imm : BitVec 13) (s : State) := (unOp s d a fa (· ||| sext13 imm)).out
def execXori (d a : Reg) (fa : Bool) (imm : BitVec 13) (s : State) := (unOp s d a fa (· ^^^ sext13 imm)).out
def execShli (d a : Reg) (fa : Bool) (sh : BitVec 6) (s : State) := (unOp s d a fa (shlF · (sh.setWidth 64))).out
def execShri (d a : Reg) (fa : Bool) (sh : BitVec 6) (s : State) := (unOp s d a fa (shrF · (sh.setWidth 64))).out
def execSrai (d a : Reg) (fa : Bool) (sh : BitVec 6) (s : State) := (unOp s d a fa (sraF · (sh.setWidth 64))).out
def execLih (d : Reg) (imm : BitVec 20) (s : State) :=
  (waitDest s d (writeS s d (BitVec.ofNat 64 (imm.toNat * 2 ^ 12)))).out
/-- `lim` and `lit` read their destination with policy 0 (R156). -/
def execLim (d : Reg) (imm : BitVec 20) (s : State) :=
  (readSrc s d false fun z => writeS s d ((z &&& ~~~(0xFFFFF00000000 : W64)) ||| BitVec.ofNat 64 (imm.toNat * 2 ^ 32))).out
def execLit (d : Reg) (imm : BitVec 12) (s : State) :=
  (readSrc s d false fun z => writeS s d ((z &&& (0xFFFFFFFFFFFFF : W64)) ||| BitVec.ofNat 64 (imm.toNat * 2 ^ 52))).out

end Sys2Proof.Machine
end

