-- ==== Sys2Proof/Machine/Record.lean ====
section
/-!
DEFINITION. The checkpoint record (R454) and the save area (R50) as bytes, their CRC-32C, and writing them to far memory.
-/

namespace Sys2Proof.Machine

/-! ### Sparse images -/

/-- The bytes of segments at rising offsets, as sparse storage: zero bytes are not listed. -/
def imageOf (segs : List (Nat × List Byte)) : FMap Byte :=
  segs.flatMap fun p => (p.2.mapIdx fun i b => (p.1 + i, b)).filter fun q => q.2 ≠ 0

/-- An image moved up by `o`. -/
def imageAt (o : Nat) (m : FMap Byte) : FMap Byte := m.map fun p => (o + p.1, p.2)

/-- The CRC-32C of `n` bytes of an image from an offset on, before its last inversion. -/
def crcSparse : Nat → Nat → FMap Byte → Nat → Nat
  | 0, _, _, c => c
  | n + 1, o, [], c => crcSparse n (o + 1) [] (crcByte c 0)
  | n + 1, o, (i, b) :: m, c => if i = o then crcSparse n (o + 1) m (crcByte c b) else crcSparse n (o + 1) ((i, b) :: m) (crcByte c 0)

/-- The CRC-32C of an image of `n` bytes (R118). -/
def imageCrc (n : Nat) (m : FMap Byte) : Nat := crcSparse n 0 m 0xFFFFFFFF ^^^ 0xFFFFFFFF

/-- An image whose four bytes at offset 8 are zero, with its CRC put there (R50, R454). -/
def sealImage (n : Nat) (m : FMap Byte) : FMap Byte := writeBytes m 8 (leBytes 4 (imageCrc n m))

/-- A range of far memory that exists (R235): its key and length lie in one far home. -/
def farOk (key n : Nat) : Bool :=
  decide (8 ≤ homeOf key) && decide (homeOf key ≤ 9) && decide (key % 2 ^ 41 + n ≤ homeCap (homeOf key))

/-- The listed bytes of an image from `lo` up to `hi`, in the canonical form of sparse storage. -/
def clipImage (hi : Nat) : Nat → FMap Byte → FMap Byte
  | _, [] => []
  | lo, (i, b) :: m => if lo ≤ i ∧ i < hi ∧ b ≠ 0 then (i, b) :: clipImage hi (i + 1) m else clipImage hi lo m

/-- Write an image of `n` bytes to memory: invalidations leave for every die copy of the range (R361). -/
def State.writeImage (s : State) (key n : Nat) (m : FMap Byte) : State :=
  let r := s.takeTag
  let inside (l : Nat) : Bool := decide (lineOf key ≤ l) && decide (l ≤ lineOf (key + n - 1))
  let s := { r.1 with
    memBad := s.memBad.filter fun g => !(decide (key ≤ g * 16) && decide (g * 16 + 16 ≤ key + n))
    mem := s.mem.filter (fun p => p.1 < key) ++ clipImage (key + n) key (imageAt key m) ++ s.mem.filter (fun p => key + n ≤ p.1) }
  (List.range 10).foldl (fun s d =>
    ((s.die d).copies.filter fun p => inside p.1).foldl (fun s p => (s.addFlight (.inval p.1 d r.2 Origin.outside)).1) s) s

/-- The image that memory holds in a range. -/
def State.readImage (s : State) (key n : Nat) : FMap Byte :=
  (s.mem.filter fun p => decide (key ≤ p.1) && decide (p.1 < key + n)).map fun p => (p.1 - key, p.2)

/-! ### The checkpoint record (R454) -/

/-- The size of a record. -/
def recordSize : Nat := 0x500000

/-- The state of a register in a record: 0 FULL, 2 EMPTY, and 1 for a PENDING one, whose producer is a command that has not
started (log entry 46). -/
def regStateByte (x : Ctx) (r : Nat) : Byte :=
  let i : Reg := BitVec.ofNat 6 r
  let st : Nat := match x.getFE i with | .full => 0 | .pending => 1 | .empty => 2
  let mk : Nat := match x.getMark i with
    | none => 0
    | some m => if m.trap.cause = .countMismatch then 16 else if m.of.isSome then 8 else 4
  BitVec.ofNat 8 (st + mk)

/-- The predicates of a context as a byte. -/
def predByte (x : Ctx) : Nat := (List.range 8).foldl (fun m i => if x.getP (BitVec.ofNat 3 i) then m + 2 ^ i else m) 0

/-- The 128 bytes of an engine: its read address is that of the first entry that has not retired. -/
def engineBytes (x : Engine) : List Byte :=
  leBytes 16 x.head.toNat ++ leBytes 16 x.tail.toNat ++ leBytes 8 x.done ++ leBytes 16 x.cw.toNat ++ leBytes 8 x.stat.toNat
    ++ leBytes 8 x.counted ++ List.replicate 56 (0 : Byte)

/-- The bytes of a use in a chain descriptor (R59), with its remaining duration. -/
def useBytes (u : BUse) : List Byte :=
  leBytes 8 (useWord u.pkg u.cal u.withLink u.dur).toNat ++ leBytes 8 u.pred

/-- A booking of a record: its result word, the mask of its finished uses, and its descriptor. -/
def bookingBytes (b : Booking) : List Byte :=
  let mask := (List.range b.uses.length).foldl (fun m j => match b.uses[j]? with | some u => if u.fin then m + 2 ^ j else m | none => m) 0
  let body := leBytes 8 b.word.toNat ++ leBytes 8 mask ++ leBytes 16 (b.uses.length + b.notBefore * 2 ^ 32)
    ++ b.uses.flatMap useBytes
  body ++ List.replicate (288 - body.length) (0 : Byte)

/-- The bytes of a map (R285, R286). -/
def mapBytes (m : List MapEnt) : List Byte :=
  let w := m.flatMap fun e => leBytes 4 (e.sel + (e.coef % 256).toNat * 2 ^ 8 + (e.off % 65536).toNat * 2 ^ 16)
  w ++ List.replicate (32 - w.length) 0

/-- The descriptor of an entry in 64 bytes (R281, R285). -/
def descBytes (d : CaskDesc) : List Byte :=
  match d with
  | .view v =>
    leBytes 8 v.base.toNat ++ leBytes 1 (if v.acc then 0 else v.base.toNat / 2 ^ 64) ++ leBytes 1 v.fmt
      ++ leBytes 1 (v.rank + (if v.acc then 8 else 0)) ++ leBytes 5 (v.scl.toNat / 2 ^ 64)
      ++ (List.range 6).flatMap (fun i => leBytes 2 (nth v.ext i - 1)) ++ leBytes 4 0
      ++ (List.range 6).flatMap (fun i => leBytes 4 (nthInt v.str i % 2 ^ 32).toNat) ++ leBytes 8 v.scl.toNat
  | .op o =>
    leBytes 1 o.maps.length ++ leBytes 1 o.ofmt ++ leBytes 1 o.rank ++ leBytes 1 (rmCode o.mode + (if o.sat then 8 else 0))
      ++ leBytes 1 o.fn ++ leBytes 2 0 ++ leBytes 1 (match o.tbl with | some t => t + 16 | none => 0)
      ++ (List.range 6).flatMap (fun i => leBytes 2 (nth o.ext i - 1)) ++ leBytes 2 o.kext ++ leBytes 42 0

/-- A cask entry of a record. The layout of its ranges is not given: a view's read range is its first and last byte, 16 bytes
each (log entry 46). -/
def caskBytes (c : Core) (e : Nat) : List Byte :=
  match c.cask e with
  | none => List.replicate 384 0
  | some x =>
    let st : Nat := match x.st with | .view => 1 | .pending => 2 | .materialised => 3
    let maps := match x.desc with | .view _ => [] | .op o => o.maps
    let ranges := match x.desc with
      | .view v => if v.acc then [] else
          (let r := v.interval (fullBox v.ext); leBytes 16 r.1.toNat ++ leBytes 16 (vadd r.1 (r.2 - 1)).toNat)
      | .op _ => []
    leBytes 1 st ++ leBytes 1 ((c.handleOf e).getD 0xFF) ++ leBytes 1 x.depth ++ leBytes 1 x.src.length
      ++ (List.range 4).flatMap (fun i => leBytes 1 (nth x.src i)) ++ leBytes 8 x.age ++ leBytes 16 x.pc.toNat
      ++ leBytes 8 x.seq ++ List.replicate 24 0 ++ descBytes x.desc
      ++ (List.range 4).flatMap (fun i => mapBytes ((maps[i]?).getD [])) ++ ranges ++ List.replicate (128 - ranges.length) 0

/-- The memo records: scratch tiles are counted in units of 4 KiB (R454). -/
def memoBytes (c : Core) : List Byte :=
  let rows := c.live.flatMap fun p => p.2.memo.map fun m =>
    leBytes 1 p.1 ++ leBytes 1 (if m.pin then 1 else 0) ++ leBytes 2 (m.off / 4096)
      ++ (List.range 6).flatMap fun i => leBytes 2 (nth m.key i)
  rows.flatten ++ (List.replicate (1024 - rows.length) (0xFF :: List.replicate 15 (0 : Byte))).flatten

/-- The templates 0 to 62 of an engine. -/
def templateBytes (x : Engine) : List Byte := (List.range 63).flatMap fun i => tmplBytes (x.tmpl.get tmplReset i)

/-- A chunk-bitmap slot of a record. -/
def bmapBytes (b : BmapSlot) : List Byte :=
  leBytes 8 b.bits.toNat ++ leBytes 8 b.promise ++ leBytes 8 (b.holder.getD 0) ++ List.replicate 8 0

/-- A permutation table. -/
def permBytes (t : List Nat) : List Byte := let b := t.flatMap fun v => leBytes 2 v; b ++ List.replicate (8192 - b.length) 0

/-- The barrier state of a core (R380, R454). -/
def barrierBytes (c : Core) : List Byte :=
  (List.range 96).flatMap fun i => leBytes 4 (c.barLast.get 0 i + (if c.barHeld (i / 16) (i % 16) then 2 ^ 16 else 0))

/-- The fixed part of a record, below the pool. -/
def recordSegs (r : Run) (card : VAddr) (v : Core) : List (Nat × List Byte) :=
  let u := v.user
  let tgt := u.slot.getD 0
  [(0, leBytes 4 1 ++ leBytes 4 recordSize ++ leBytes 8 0 ++ leBytes 16 card.toNat ++ leBytes 4 r.idx ++ leBytes 4 r.member
      ++ leBytes 4 v.part_.toNat ++ leBytes 2 v.asn ++ leBytes 2 v.idCtr ++ leBytes 8 v.wseq),
   (0x40, (List.range 64).flatMap fun i => leBytes 8 (u.getS (BitVec.ofNat 6 i)).toNat),
   (0x240, (List.range 64).map (regStateByte u)),
   (0x280, (List.range 16).flatMap fun i => leBytes 16 (u.getA (BitVec.ofNat 4 i)).toNat),
   (0x380, leBytes 16 u.pc.toNat ++ leBytes 15 tgt.toNat ++ leBytes 1 (if u.slot.isSome then 1 else 0)
      ++ [u.status false, u.sstatus, u.epc, u.etgt, u.ecause, u.einfo0, u.einfo1, u.einfo2, u.einfo3, u.fcsr, u.tvec].flatMap
        (fun w => leBytes 8 w.toNat)
      ++ [v.est, (if v.ovfTrap then 1 else 0), v.scrSize * 2 ^ 16 + v.scrBase, (if v.nomerge then 1 else 0), v.barSel, v.bsel,
          predByte u].flatMap (leBytes 8)),
   (0x480, (List.range 32).flatMap fun i => leBytes 2 (v.tk.get 0 i)),
   (0x4C0, engineBytes v.ce ++ engineBytes v.me ++ engineBytes v.ve ++ engineBytes v.sae),
   (0x6C0, v.books.flatMap bookingBytes),
   (0x4EC0, (List.range 64).flatMap fun i => leBytes 1 ((v.hnds.get none i).getD 0xFF)),
   (0x4F00, (List.range 128).flatMap (caskBytes v)),
   (0x10F00, memoBytes v),
   (0x14F00, templateBytes v.ce ++ templateBytes v.me ++ templateBytes v.ve ++ templateBytes v.sae),
   (0x18E00, (List.range 64).flatMap fun i => bmapBytes (v.bmap.get BmapSlot.reset i)),
   (0x19600, (List.range 16).flatMap fun i => leBytes 4 (v.perm.get [] i).length),
   (0x19640, (List.range 16).flatMap fun i => permBytes (v.perm.get [] i)),
   (0x39640, leBytes 8 v.omClm.toNat ++ leBytes 8 ((if v.wv then 1 else 0) + v.wfmt * 2 ^ 8 + v.kw * 2 ^ 16)),
   (0x39680, barrierBytes v),
   (0x39800, (List.range 15).flatMap fun i => leBytes 64 (v.masks.get 0 (i + 1)).toNat),
   (0x39BC0, readBytes v.plane 0 33792)]

/-- The bytes of a storage that lie in a block of a size, moved to an offset. -/
def blockAt (m : FMap Byte) (size n to_ : Nat) : FMap Byte :=
  (m.filter fun p => p.1 / size = n).map fun p => (to_ + p.1 % size, p.2)

/-- Operand slots 0 to 31 with their side stores, from offset 0x4_1FC0. -/
def slotImage (v : Core) : FMap Byte :=
  (List.range 32).flatMap fun n =>
    blockAt v.om 16384 n (0x41FC0 + n * 16896) ++ blockAt v.omSide 512 n (0x41FC0 + n * 16896 + 16384)

/-- The record of a checkpointed run (R454). -/
def recordImage (r : Run) (card : VAddr) (v : Core) : FMap Byte :=
  sealImage recordSize (imageOf (recordSegs r card v) ++ slotImage v ++ imageAt 0x100000 (v.sram.filter fun p => p.1 < 0x400000))

/-! ### The save area (R50) -/

/-- `LQ.CTL` (R34). -/
def LQueue.ctl (x : LQueue) : Nat := x.asn * 2 ^ 48 + x.priocap * 2 ^ 36 + (if x.owner then 2 else 0) + (if x.en then 1 else 0)

/-- A job that is being dealt: records are left or given back. -/
def Job.dealing (j : Job) : Bool := decide (0 < j.left) || !j.returned.isEmpty

/-- The job of a queue that is being dealt, the earliest where there are several. -/
def State.dealt (s : State) (q : Nat) : Option Job := s.jobs.find? fun j => j.q = q && j.dealing

/-- `LQ.STAT` (R35). -/
def State.lqStat (s : State) (q : Nat) (x : LQueue) : Nat :=
  x.ign * 2 ^ 32 + x.err * 16 + (if (s.dealt q).isSome then 2 else 0) + (if x.stop then 1 else 0)

/-- Records of a job that are dealt and not retired, those that came back among them (R50). -/
def State.openRecords (s : State) (j : Job) : Nat :=
  j.returned.length + (j.cores.foldl (fun n k => n + (s.core k).chunk.length + (if (s.core k).task.isSome then 1 else 0)) 0)
    + s.saved.countP fun v => v.job = j.id

/-- A queue record of the save area (R50). The manual does not say whose records offset 0x54 counts where several jobs of the queue have
unretired ones, nor what it holds where none is being dealt: it counts those of the job being dealt, and else holds zero (DESIGN CHOICE,
log entry 71). -/
def State.queueBytes (s : State) (qs : FMap LQueue) (q : Nat) : List Byte :=
  let x := qs.get LQueue.reset q
  let j := s.dealt q
  leBytes 16 x.base.toNat ++ leBytes 16 x.head.toNat ++ leBytes 16 x.tail.toNat ++ leBytes 8 x.ctl ++ leBytes 8 (s.lqStat q x)
    ++ leBytes 16 (match j with | some j => j.card.addr.toNat | none => 0)
    ++ leBytes 4 (match j with | some j => j.left | none => 0)
    ++ leBytes 4 (match j with | some j => s.openRecords j | none => 0) ++ List.replicate 40 0

/-- Where the contexts of a save area begin. -/
def areaHead : Nat := 64 + 64 * 128

/-- A launch queue from its record of a save area (R50). -/
def lqOfRecord (bs : List Byte) : LQueue :=
  let ctl := field bs 0x30 8
  let stat := field bs 0x38 8
  { base := BitVec.ofNat 72 (field bs 0 9), head := BitVec.ofNat 72 (field bs 0x10 9), tail := BitVec.ofNat 72 (field bs 0x20 9),
    tailHi := BitVec.ofNat 64 (field bs 0x28 8), asn := nbits ctl 63 48, priocap := nbits ctl 39 36, owner := nbit ctl 1,
    en := nbit ctl 0, ign := nbits stat 63 32, err := nbits stat 7 4, stop := nbit stat 0, card := none }

/-- The size of a save area with `n` contexts. -/
def areaSize (n : Nat) : Nat := areaHead + n * recordSize

/-- The record of a saved run. -/
def State.savedImage (s : State) (v : Saved) : FMap Byte :=
  recordImage v.run (match s.jobOf v.job with | some j => j.card.addr | none => 0) v.core

/-- The save area as bytes: header, queue records and contexts. -/
def State.areaImage (s : State) (qs : FMap LQueue) : FMap Byte :=
  let n := s.saved.length
  sealImage (areaSize n)
    (imageOf [(0, leBytes 2 1 ++ leBytes 2 64 ++ leBytes 4 n), (64, (List.range 64).flatMap (s.queueBytes qs))]
      ++ (s.saved.mapIdx fun i v => imageAt (areaHead + i * recordSize) (s.savedImage v)).flatten)

end Sys2Proof.Machine
end

