-- ==== Sys2Proof/Machine/Restore.lean ====
section
/-!
DEFINITION. Reading a checkpoint record (R454, R455) and a save area (R50, R51) back: every field that their layouts hold comes from
the bytes. Where those of a field are the ones written, what firmware kept of it stands, with what the layout has no place for (log
entry 47).
-/

namespace Sys2Proof.Machine

/-- LAYOUT is 1 and the CRC of `n` bytes matches (R50, R51, R454, R455). -/
def areaOk (n : Nat) (m : FMap Byte) : Bool :=
  decide (leNat (readBytes m 0 2) = 1) && decide (imageCrc n (clearRange m 8 12) = leNat (readBytes m 8 4))

/-- A record being read: its bytes, and those that were written. -/
structure RecordIn where
  m : FMap Byte
  old : FMap Byte
deriving DecidableEq, Repr

/-- The bytes of an image from `o` on, counted from zero. -/
def partOf (m : FMap Byte) (o n : Nat) : FMap Byte :=
  (m.filter fun p => decide (o ≤ p.1) && decide (p.1 < o + n)).map fun p => (p.1 - o, p.2)

/-- The number at an offset. -/
def RecordIn.num (r : RecordIn) (o n : Nat) : Nat := leNat (readBytes r.m o n)

/-- A field's bytes are the ones written. -/
def RecordIn.same (r : RecordIn) (o n : Nat) : Bool := decide (partOf r.m o n = partOf r.old o n)

/-- A table of `n` numbers of `w` bytes. -/
def RecordIn.nums (r : RecordIn) (o w n : Nat) : List Nat := (List.range n).map fun i => r.num (o + w * i) w

/-! ### The context -/

/-- The mark that a register's state byte names; what its trap carries is not in the record and is a free value. -/
def markOfByte (b free : Nat) : Option Mark :=
  let e (i : Nat) : Nat := Config.freeNat (free + i) % 2 ^ 64
  let t (c : Cause) : Option Mark := some { trap := mkTrap c (e 0) (e 1) (e 2) (e 3), of := none }
  if nbit b 2 then t .ecc else if nbit b 3 then t .engineFault else if nbit b 4 then t .countMismatch else none

/-- Scalar register `i` of a record: its value, state and mark. -/
def RecordIn.scalar (r : RecordIn) (free : Nat) (v u : Ctx) (i : Nat) : Ctx :=
  let x : Reg := BitVec.ofNat 6 i
  let b := r.num (0x240 + i) 1
  let st : FE := match b % 4 with | 0 => .full | 1 => .pending | _ => .empty
  let mk := if r.same (0x240 + i) 1 then v.getMark x else markOfByte b (free + 4 * i)
  ((u.setS x (BitVec.ofNat 64 (r.num (0x40 + 8 * i) 8))).setFE x st).setMark x mk

/-- The user context of a record. -/
def RecordIn.ctx (r : RecordIn) (free : Nat) (v : Ctx) : Ctx :=
  let w (i : Nat) : W64 := BitVec.ofNat 64 (r.num (0x3A0 + 8 * i) 8)
  let u := (List.range 64).foldl (r.scalar free v) v
  let u := (List.range 16).foldl (fun u i => u.setA (BitVec.ofNat 4 i) (BitVec.ofNat 72 (r.num (0x280 + 16 * i) 9))) u
  let ps := r.num (0x3A0 + 8 * 17) 1
  let u := (List.range 8).foldl (fun u i => u.setP (BitVec.ofNat 3 i) (nbit ps i)) u
  let u := { u with
    pc := BitVec.ofNat 72 (r.num 0x380 9)
    slot := if nbit (r.num 0x39F 1) 0 then some (BitVec.ofNat 72 (r.num 0x390 9)) else none
    ih := nbit (w 0).toNat 1, ds := nbit (w 0).toNat 2
    sstatus := w 1, epc := w 2, etgt := w 3, ecause := w 4, einfo0 := w 5, einfo1 := w 6, einfo2 := w 7, einfo3 := w 8, tvec := w 10 }
  u.setFcsr (w 9)

/-! ### Queues -/

/-- An engine of a record: where its 128 bytes are those written, its queue stands as firmware kept it; else its registers are those
of the record, and the words from its read address on are still to be read. -/
def RecordIn.engine (r : RecordIn) (v : Engine) (i : Nat) : Engine :=
  let o := 0x4C0 + 128 * i
  let t (j : Nat) : Tmpl :=
    (List.range 32).foldl (fun t f => t.put 0 f (BitVec.ofNat 16 (r.num (0x14F00 + 64 * (63 * i + j) + 2 * f) 2))) []
  let x := { v with tmpl := (List.range 63).foldl (fun m j => m.put tmplReset j (t j)) v.tmpl }
  if r.same o 128 then x
  else
    let st := r.num (o + 56) 8
    let head : VAddr := BitVec.ofNat 72 (r.num o 9)
    { x with
      q := [], partialAddr := head, partialWords := [], linkStop := false
      tail := BitVec.ofNat 72 (r.num (o + 16) 9), done := r.num (o + 32) 8, cw := BitVec.ofNat 72 (r.num (o + 40) 9)
      mkr := nbits st 63 32 % 65536, mkv := nbit st 31, tmplf := nbit st 30, flt := nbit st 29
      cause := BitVec.ofNat 8 (nbits st 23 16), counted := r.num (o + 64) 8, retired := [], rep := [] }

/-! ### Bookings -/

/-- A use of a chain descriptor (R59), with the ticks that remain of it. -/
def RecordIn.use (r : RecordIn) (o mask j : Nat) : BUse :=
  let w := r.num (o + 32 + 16 * j) 8
  { newUse (calOfWord w) (nbits w 61 51) (nbit w 32) (nbits w 16 0) (r.num (o + 40 + 16 * j) 2) with fin := nbit mask j }

/-- A booking of a record (R79, R454). -/
def RecordIn.booking (r : RecordIn) (i : Nat) : Option Booking :=
  let o := 0x6C0 + 288 * i
  let w := r.num o 8
  let st : Option BookStatus := match nbits w 63 60 with
    | 0 => some .held | 1 => some .refused | 2 => some .committed | 3 => some .cancelled | 4 => some .slipped | 5 => some .fatal
    | 6 => some .complete | _ => none
  if partOf r.m o 288 = [] then none
  else st.map fun st =>
    { newBooking (nbits w 51 40) (nbits w 39 0) (r.num (o + 20) 3) ((List.range (min 16 (r.num (o + 16) 1))).map (r.use o (r.num (o + 8) 8)))
        none with status := st, sub := nbits w 59 56, berth := nbits w 39 0, order := i }

/-- The bookings of a record, in the order of their places. -/
def RecordIn.books (r : RecordIn) (v : List Booking) : List Booking :=
  (List.range 64).filterMap fun i => if r.same (0x6C0 + 288 * i) 288 then v[i]? else r.booking i

/-! ### Casks -/

/-- The memo tiles of an entry, in the order of their records. -/
def RecordIn.memo (r : RecordIn) (e : Nat) : List MemoTile :=
  (List.range 1024).filterMap fun i =>
    let o := 0x10F00 + 16 * i
    if r.num o 1 = e then
      some { key := r.nums (o + 4) 2 6, pin := nbit (r.num (o + 1) 1) 0, off := 4096 * r.num (o + 2) 2, used := i }
    else none

/-- A cask entry of a record. The layout does not name the operation: it is the one that firmware kept (log entry 46). -/
def RecordIn.cask (r : RecordIn) (v : Option Cask) (e : Nat) : Option Cask :=
  let o := 0x4F00 + 384 * e
  let b (i n : Nat) : Nat := r.num (o + i) n
  let desc := readBytes r.m (o + 64) 64
  let memo := if r.same 0x10F00 16384 then (match v with | some x => x.memo | none => []) else r.memo e
  let entry (st : CaskState) (d : CaskDesc) : Option Cask :=
    some { st := st, age := b 8 8, pc := BitVec.ofNat 72 (b 16 9), seq := b 32 8, depth := b 2 1, src := r.nums (o + 4) 1 (min 4 (b 3 1)),
           desc := d, memo := memo }
  if r.same o 384 then v.map fun x => { x with memo := memo }
  else
    let kept : Option CaskOp := v.bind fun x => match x.desc with | .op p => some p.op | .view _ => none
    match b 0 1, kept with
    | 1, _ => entry .view (.view (viewOf desc))
    | 2, some p => entry .pending (.op (opOf p (desc.take 32 ++ readBytes r.m (o + 128) 128)))
    | 3, some p => entry .materialised (.op (opOf p (desc.take 32 ++ readBytes r.m (o + 128) 128)))
    | _, _ => none

/-! ### The core -/

/-- A chunk-bitmap slot of a record. -/
def RecordIn.bmapSlot (r : RecordIn) (v : BmapSlot) (i : Nat) : BmapSlot :=
  let o := 0x18E00 + 32 * i
  let h := r.num (o + 16) 8
  { bits := BitVec.ofNat 64 (r.num o 8), promise := r.num (o + 8) 8, holder := if h = 0 then none else some h, wide := v.wide }

/-- Operand slots 0 to 31 of a record, or with `side` their side stores. -/
def RecordIn.slots (r : RecordIn) (side : Bool) : FMap Byte :=
  (partOf r.m 0x41FC0 540672).filterMap fun p =>
    let x := p.1 % 16896
    let n := p.1 / 16896
    if side then (if 16384 ≤ x then some (n * 512 + (x - 16384), p.2) else none)
    else if x < 16384 then some (n * 16384 + x, p.2) else none

/-- The core that a record restores (R454, R455), over what firmware kept of the run. -/
def RecordIn.core (r : RecordIn) (free : Nat) (v : Core) : Core :=
  let scr := r.num (0x3A0 + 8 * 13) 8
  let clm := r.num 0x39640 8
  let wst := r.num 0x39648 8
  let bar (i : Nat) : Nat := r.num (0x39680 + 4 * i) 4
  { v with
    user := r.ctx free v.user
    part_ := BitVec.ofNat 32 (r.num 0x28 4)
    idCtr := r.num 0x2E 2
    wseq := r.num 0x30 8
    est := r.num (0x3A0 + 8 * 11) 8
    ovfTrap := nbit (r.num (0x3A0 + 8 * 12) 8) 0
    scrBase := scr % 2 ^ 16
    scrSize := scr / 2 ^ 16
    nomerge := nbit (r.num (0x3A0 + 8 * 14) 8) 0
    barSel := r.num (0x3A0 + 8 * 15) 8
    bsel := r.num (0x3A0 + 8 * 16) 8
    tk := (List.range 32).foldl (fun m i => m.put 0 i (r.num (0x480 + 2 * i) 2)) v.tk
    ce := r.engine v.ce 0
    me := r.engine v.me 1
    ve := r.engine v.ve 2
    sae := r.engine v.sae 3
    books := r.books v.books
    hnds := (List.range 64).foldl (fun m i => let h := r.num (0x4EC0 + i) 1; m.put none i (if h < 128 then some h else none)) v.hnds
    casks := (List.range 128).foldl (fun m e => m.put none e (r.cask (v.casks.get none e) e)) v.casks
    bmap := (List.range 64).foldl (fun m i => m.put BmapSlot.reset i (r.bmapSlot (v.bmap.get BmapSlot.reset i) i)) v.bmap
    perm := (List.range 16).foldl (fun m j => m.put [] j (r.nums (0x19640 + 8192 * j) 2 (min 4096 (r.num (0x19600 + 4 * j) 4)))) v.perm
    omSt := (List.range 32).foldl (fun m n => m.put .free n (if nbit clm n then .claimed else .free)) v.omSt
    wv := nbit wst 0
    wfmt := nbits wst 15 8
    kw := nbits wst 63 16
    barLast := (List.range 96).foldl (fun m i => m.put 0 i (bar i % 2 ^ 16)) v.barLast
    barPend := (List.range 96).foldl (fun m i => m.put false i (nbit (bar i) 16)) v.barPend
    masks := (List.range 15).foldl (fun m i => m.put 0 (i + 1) (BitVec.ofNat 512 (r.num (0x39800 + 64 * i) 64))) v.masks
    plane := partOf r.m 0x39BC0 33792
    om := r.slots false ++ v.om.filter fun p => 32 * 16384 ≤ p.1
    omSide := r.slots true ++ v.omSide.filter fun p => 32 * 512 ≤ p.1
    sram := partOf r.m 0x100000 0x400000 }

end Sys2Proof.Machine
end

