-- ==== Sys2Proof/Machine/Launch.lean ====
section
/-!
DEFINITION. Launching (R32 to R54): the registers of a launch queue, reading cards, placing gangs with pre-emption (R450 to
R456), dealing chunks, starting and retiring runs (R44, R457), and checkpoint, resume and the save area (R49 to R51).
-/

namespace Sys2Proof.Machine

/-! ### Registers of a launch queue (R33 to R36) -/

/-- `LQ_BASE_WRITE` (R33): ignored while EN = 1. -/
def execLqBaseWrite (q : Nat) (v : VAddr) (s : State) : Host.Outcome State Fault Refusal :=
  let x := s.lq q
  .next (if x.en then s
    else s.setLq q { x with base := v, head := v, tail := v, tailHi := BitVec.ofNat 64 (v.toNat / 2 ^ 64), card := none })

/-- `LQ_TAIL_DOORBELL` (R36): ignored and counted while OWNER = 1. -/
def execLqTailDoorbell (q : Nat) (v : W64) (s : State) : Host.Outcome State Fault Refusal :=
  let x := s.lq q
  .next (s.setLq q (if x.owner then { x with ign := satInc x.ign 0xFFFFFFFF }
    else { x with tail := BitVec.ofNat 72 (x.tailHi.toNat % 256 * 2 ^ 64 + v.toNat) }))

/-- A write to `LQ.CTL` (R34): one that changes ASN or OWNER while EN = 1 is ignored as a whole; EN rising clears ERR and STOP.
No queue is enabled before the boot has verified the firmware (R467, R469). -/
def LQueue.write (x : LQueue) (ok : Bool) (v : W64) : LQueue :=
  let n := v.toNat
  let asn := n / 2 ^ 48
  let owner := nbit n 1
  let en := nbit n 0 && ok
  if x.en && (decide (asn ≠ x.asn) || decide (owner ≠ x.owner)) then x
  else
    let y := { x with asn := asn, priocap := nbits n 39 36, owner := owner, en := en, card := if en then x.card else none }
    if en && !x.en then { y with err := 0, stop := false } else y

/-- `LQ_CTL_WRITE` (R34): a queue that is no longer enabled keeps no cores for its card. -/
def execLqCtlWrite (q : Nat) (v : W64) (s : State) : Host.Outcome State Fault Refusal :=
  let x := (s.lq q).write s.verified v
  let t := s.setLq q x
  .next (if x.en then t else { t with reserved := t.reserved.filter fun r => r.1 ≠ q })

/-- A queue is read and dealt: it is enabled and has not stopped (R34, R35). -/
def LQueue.runs (x : LQueue) : Bool := x.en && !x.stop

/-! ### Cards (R38, R39) -/

/-- The bits of PART that are not reserved (R22). -/
def partWord (n : Nat) : W32 := BitVec.ofNat 32 (nbits n 2 0 + nbits n 13 8 * 256)

/-- A partition is valid (R23). -/
def partOk (n : Nat) : Bool :=
  decide (nbits n 2 0 ≤ 4) && decide (nbits n 13 8 ≤ 32) && decide (nbits n 2 0 + nbits n 13 8 + 4 ≤ 64)

/-- Cores in one instance of a gang's scope (R38). -/
def instSize (sc : Nat) : Nat := match sc with | 1 => 1 | 2 => 4 | 3 => 64 | _ => 512

/-- The fields of a job card (R38). -/
def cardOf (at_ : VAddr) (asn : Nat) (bs : List Byte) : Card :=
  let hdr := field bs 0 8
  let gang := field bs 8 8
  { addr := at_, asn := asn, prio := nbits hdr 59 56, restart := nbit hdr 47, part_ := partWord hdr, minchunk := nbits gang 63 48,
    scope := nbits gang 28 26, n := nbits gang 25 16, entry := BitVec.ofNat 72 (field bs 0x10 9),
    args := BitVec.ofNat 72 (field bs 0x20 9), acnt := field bs 0x30 4, rsize := field bs 0x38 2,
    done := BitVec.ofNat 72 (field bs 0x40 9) }

/-- The reason for which a card is refused, in the order of R39. -/
def cardReason (bs : List Byte) : Option Nat :=
  let hdr := field bs 0 8
  let c := cardOf 0 0 bs
  if nbits hdr 63 60 ≠ 1 then some 1
  else if nbits hdr 55 48 ≠ 1 then some 2
  else if !partOk hdr then some 3
  else if c.scope = 0 || decide (4 < c.scope) || c.n = 0 || decide (instSize c.scope < c.n) then some 4
  else if c.acnt = 0 || c.rsize % 16 ≠ 0 || c.rsize = 0 || decide (4096 < c.rsize) || c.minchunk = 0 then some 5
  else if c.entry.toNat % 4 ≠ 0 || c.args.toNat % 16 ≠ 0 then some 6
  else none

/-- A refused card gets its completion record, and the queue moves on once that is written; where it cannot be, the queue stops at the
card (R39). -/
def State.refuseCard (s : State) (q : Nat) (bs : List Byte) (reason : Nat) : State :=
  let x := s.lq q
  let done := (cardOf 0 0 bs).done
  if done.toNat % 32 ≠ 0 then s.stopQueue q 1
  else s.writeRecord { q := q, card := some x.head } x.asn 0 done (recordBytes 5 0 0 0 0 s.tb reason)

/-- `CARD_READ` (R32, R35, R36, R39): the card at the head of a queue is read once every record of its current job is dealt. R32
requires `LQ.BASE` and NEXT to be 128-byte aligned and gives no effect for another address: the 128 bytes from that address on are
the card (DESIGN CHOICE, log entry 70). -/
def execCardRead (q : Nat) (s : State) : Host.Outcome State Fault Refusal :=
  let x := s.lq q
  if !s.verified || !x.runs || x.card.isSome || decide (x.head = x.tail) || (s.dealt q).isSome || s.recordOut { q := q, card := some x.head } then .next s
  else
    match s.asRead x.asn x.head 128 with
    | .wait t => .next t
    | .fail => .next ((s.dropAs 128).stopQueue q 1)
    | .ok bs =>
      let s := s.dropAs 128
      let kind := nbits (field bs 0 8) 63 60
      .next (
        if kind = 2 then s.setLq q { x with head := BitVec.ofNat 72 (field bs 0x10 9) }
        else if kind = 0 then s.stopQueue q 2
        else
          match cardReason bs with
          | some r => s.refuseCard q bs r
          | none =>
            let c := cardOf x.head x.asn bs
            if c.done.toNat % 32 ≠ 0 then s.stopQueue q 1 else s.setLq q { x with card := some c })

/-! ### Placement (R52, R53) -/

/-- Instances of a scope. -/
def instCount (sc : Nat) : Nat := 512 / instSize sc

/-- The cores of an instance of a scope. -/
def instCores (sc i : Nat) : List Nat := (List.range (instSize sc)).map (instSize sc * i + ·)

/-- A core is reserved for the gang of a queue other than `q` (R450). -/
def State.heldFor (s : State) (q k : Nat) : Bool := s.reserved.any fun r => decide (r.1 ≠ q) && r.2.contains k

/-- A core is free for a gang of queue `q` (R52). -/
def State.freeCore (s : State) (q k : Nat) : Bool :=
  let c := s.core k
  c.job.isNone && c.task.isNone && !c.dead && !s.heldFor q k

/-- The cores on which a gang of `n` is placed (R53), if an instance has enough free ones. -/
def State.pick (s : State) (q sc n : Nat) : Option (List Nat) :=
  (List.range (instCount sc)).findSome? fun i =>
    let fs := (instCores sc i).filter (s.freeCore q)
    if n ≤ fs.length then some (fs.take n) else none

/-- The cores reserved for the card of a queue. -/
def State.reservation (s : State) (q : Nat) : Option (List Nat) := (s.reserved.find? fun r => r.1 = q).map (·.2)

/-- Where the gang of a queue can be placed now: on its reserved cores, or by R53. -/
def State.placeable (s : State) (q sc n : Nat) : Option (List Nat) :=
  match s.reservation q with
  | some ks => if ks.all (s.freeCore q) then some ks else none
  | none => s.pick q sc n

/-- What a queue has to place: a job whose cores have left and whose records wait (R452, R456), else its checked card, with the
effective priority (R40). A queue that is not read and dealt has nothing to place (R34, R35); a job with checkpointed runs comes back
through them, and a card waits until every record of the job before it is dealt. -/
def State.candidate (s : State) (q : Nat) : Option (Card × Option Job) :=
  let x := s.lq q
  if !x.runs then none
  else
  match s.jobs.find? fun j => j.q = q && j.cores.isEmpty && j.dealing && !s.saved.any fun v => v.job = j.id with
  | some j => some (j.card, some j)
  | none => if (s.dealt q).isSome then none else x.card.map fun c => ({ c with prio := min c.prio x.priocap }, none)

/-- The place of a queue in the order that breaks ties (R40): rising from the queue after the one last served. -/
def State.tieRank (s : State) (q : Nat) : Nat := match s.lastServed with | some l => (q + 63 - l) % 64 | none => q

/-- A queue is served before another (R40). -/
def State.servedFirst (s : State) (q : Nat) (c : Card) : Bool :=
  (List.range 64).all fun r =>
    r = q ||
      match s.candidate r with
      | none => true
      | some (d, _) =>
        (s.placeable r d.scope d.n).isNone || decide (d.prio < c.prio)
          || (decide (d.prio = c.prio) && decide (s.tieRank q < s.tieRank r))

/-- A gang is placed on cores (R43, R53): they take the address space of the job. -/
def State.placeGang (s : State) (q : Nat) (c : Card) (j : Option Job) (ks : List Nat) : State :=
  let id := match j with | some j => j.id | none => s.jobCtr
  let root := s.roots.get 0 c.asn
  let s := s.mapCores ks fun x => { x with job := some id, asn := c.asn, root := root, chunk := [] }
  let s := { s with reserved := s.reserved.filter fun r => r.1 ≠ q, bars := s.bars.filter fun b => b.gang ≠ id + 1 }
  match j with
  | some j => s.setJob { j with cores := ks, members := ks, leaving := false }
  | none =>
    let x := s.lq q
    let job : Job :=
      { id := id, q := q, card := c, next := 0, returned := [], again := [], cores := ks, members := ks, leaving := false }
    { s with jobs := s.jobs ++ [job], jobCtr := id + 1, lastServed := some q }.setLq q { x with head := x.head + 128, card := none }

/-! ### Leaving a core -/

/-- A core leaves its job (R43, R452): records dealt to it and not started return. -/
def State.vacate (s : State) (k : Nat) : State :=
  let c := s.core k
  match c.job with
  | none => s
  | some id =>
    let s := match s.jobOf id with
      | some j => s.setJob { j.giveBack c.chunk with cores := j.cores.filter (· ≠ k) }
      | none => s
    (s.setCore k { s.core k with job := none, chunk := [] }).settleJob id

/-- Begin to checkpoint the run of a core (R453): its context stops at the next boundary, no further command of it starts, and
its rounds are abandoned. -/
def State.startCheckpoint (s : State) (k : Nat) : State :=
  let s := s.writeUctl k 0
  let c := s.core k
  (s.setCore k { c with task := c.task.map fun r => { r with saving := true } }).abandonRounds k

/-! ### Pre-emption (R450 to R452, R456) -/

/-- Members of a gang whose run has not passed its `exit`, and has not begun to be saved. -/
def State.openRuns (s : State) (j : Job) : List Nat :=
  j.cores.filter fun k => match (s.core k).task with | some r => !r.exited | none => false

/-- The largest estimate of a gang, unbounded where one is unknown (R451). -/
def State.gangEst (s : State) (j : Job) : Option Nat :=
  j.cores.foldl (fun m k =>
    match m, (s.core k).task with
    | none, _ => none
    | some a, some _ => if s.runEst k = estUnknown then none else some (max a (s.runEst k))
    | some a, none => some a) (some 0)

/-- Free records of the checkpoint pool (R451): those neither written nor about to be. -/
def State.poolFree (s : State) : Nat :=
  s.poolRoom - (s.saved.length + (allCores.countP fun k => match (s.core k).task with | some r => r.saving | none => false))

/-- The policies of R451. -/
inductive Policy where
  | drain | checkpoint | kill
deriving DecidableEq, Repr

/-- The policy of a victim gang (R451, rows 2 to 6). -/
def State.policy (s : State) (j : Job) : Policy :=
  let d := s.die (dieOf (j.cores.headD 0))
  let e := s.gangEst j
  let below (m : Nat) : Bool := match e with | some a => decide (a ≤ m) | none => false
  let room := decide (j.cores.length ≤ s.poolFree)
  if below d.drainMax then .drain
  else if below d.ckptMax && room then .checkpoint
  else if j.card.restart then .kill
  else if room then .checkpoint
  else .drain

/-- Apply a policy to a victim gang. A run past its `exit` is only drained (R458). -/
def State.evict (s : State) (j : Job) (p : Policy) : State :=
  let runs := s.openRuns j
  let s := s.setJob { j with leaving := true }
  match p with
  | .drain => s
  | .checkpoint => runs.foldl (fun s k => s.startCheckpoint k) s
  | .kill => ((runs.foldl (fun s k => s.killOne k 3 0) s).killSaved j.id).settleJob j.id

/-- A gang with the cores of it that a newcomer of queue `q` would gain in an instance. -/
structure Victim where
  job : Job
  gain : List Nat

/-- A victim before another in the order of R450: rising priority, ties by the lowest core. -/
def Victim.before (a b : Victim) : Bool :=
  decide (a.job.card.prio < b.job.card.prio)
    || (decide (a.job.card.prio = b.job.card.prio) && decide (a.job.cores.headD 0 ≤ b.job.cores.headD 0))

/-- Insert a victim in order. -/
def insertVictim (v : Victim) : List Victim → List Victim
  | [] => [v]
  | w :: ws => if v.before w then v :: w :: ws else w :: insertVictim v ws

/-- The gangs of lower priority that hold cores of an instance, in order. -/
def State.victims (s : State) (q prio sc i : Nat) : List Victim :=
  let inside := instCores sc i
  s.jobs.foldl (fun l j =>
    let gain := j.cores.filter fun k => inside.contains k && !s.heldFor q k && !(s.core k).dead
    if gain.isEmpty || decide (prio ≤ j.card.prio) then l else insertVictim { job := j, gain := gain } l) []

/-- Victims taken in order until `need` cores are gained; `none` where they do not suffice. -/
def takeVictims : Nat → List Victim → Option (List Victim)
  | 0, _ => some []
  | _ + 1, [] => none
  | n + 1, v :: vs => (takeVictims (n + 1 - v.gain.length) vs).map (v :: ·)

/-- The victims of an instance for a gang of `n`, and the keys of R450. -/
def State.feasible (s : State) (q prio sc n i : Nat) : Option (List Victim × Nat × Nat) :=
  let free := ((instCores sc i).filter (s.freeCore q)).length
  (takeVictims (n - free) (s.victims q prio sc i)).map fun vs =>
    (vs, vs.foldl (fun m v => max m v.job.card.prio) 0, vs.foldl (fun m v => m + v.job.cores.length) 0)

/-- The instance that pre-emption chooses (R450), with its victims. -/
def State.chooseInstance (s : State) (q prio sc n : Nat) : Option (Nat × List Victim) :=
  ((List.range (instCount sc)).foldl (fun best i =>
    match s.feasible q prio sc n i, best with
    | none, _ => best
    | some (vs, p, m), none => some (i, vs, p, m)
    | some (vs, p, m), some (j, ws, p', m') =>
      if decide (p < p') || (decide (p = p') && decide (m < m')) then some (i, vs, p, m) else some (j, ws, p', m'))
    (none : Option (Nat × List Victim × Nat × Nat))).map fun r => (r.1, r.2.1)

/-- Pre-emption for the card of a queue (R450, R451): the victims' policies begin, and the cores that will be free are reserved
for the newcomer. -/
def State.preempt (s : State) (q : Nat) (c : Card) : State :=
  match s.chooseInstance q c.prio c.scope c.n with
  | none => s
  | some (i, vs) =>
    let ks := ((instCores c.scope i).filter fun k => s.freeCore q k || vs.any fun v => v.gain.contains k).take c.n
    let s := vs.foldl (fun s v => s.evict v.job (s.policy v.job)) s
    { s with reserved := s.reserved ++ [(q, ks)] }

/-- `GANG_PLACEMENT` (R40, R53, R450): the card or waiting job of a queue is placed whole where it is the next to be served;
one for which no instance has room pre-empts, once. -/
def execGangPlacement (q : Nat) (s : State) : Host.Outcome State Fault Refusal :=
  if !s.verified || s.pending.isSome then .next s
  else
    match s.candidate q with
    | none => .next s
    | some (c, j) =>
      match s.placeable q c.scope c.n with
      | some ks => .next (if s.servedFirst q c then s.placeGang q c j ks else s)
      | none => .next (if (s.reservation q).isSome || j.isSome then s else s.preempt q c)

/-! ### Dealing (R43) -/

/-- The size of the next chunk. -/
def Job.chunkSize (j : Job) : Nat := min j.left (max j.card.minchunk ((j.left + 2 * j.card.n - 1) / (2 * j.card.n)))

/-- A core asks for a chunk (R43): its job is placed on it, and no run or record is left on it. -/
def State.asks (s : State) (k : Nat) : Bool := (s.core k).job.isSome && (s.core k).task.isNone && (s.core k).chunk.isEmpty

/-- `CHUNK_ASK` (R34, R35, R43): asks are served in rising core number, while the queue is dealt; a core of a gang that drains, or for
which nothing is left, leaves, also where the queue is not dealt. -/
def execChunkAsk (core : Nat) (s : State) : Host.Outcome State Fault Refusal :=
  let c := s.core core
  match c.job.bind s.jobOf with
  | none => .next s
  | some j =>
    if c.task.isSome then .next s
    else if j.leaving || s.pending.isSome then .next (s.vacate core)
    else if !c.chunk.isEmpty || j.cores.any (fun k => decide (k < core) && s.asks k) then .next s
    else if !j.dealing then .next (s.vacate core)
    else if !s.verified || !(s.lq j.q).runs then .next s
    else
      match j.returned with
      | r :: rs => .next ((s.setJob { j with returned := rs }).setCore core { c with chunk := [r] })
      | [] =>
        let n := j.chunkSize
        .next ((s.setJob { j with next := j.next + n }).setCore core { c with chunk := (List.range n).map (j.next + ·) })

/-! ### Starting a run (R44, R45) -/

/-- An engine at run start (R200): its gating belongs to the engine and stays (R465). -/
def Engine.startRun (x : Engine) : Engine := { Engine.reset with gate := x.gate, idleFrom := x.idleFrom }

/-- The user context at run start (R44): what firmware sets for a core, its bucket and its allowances' limits, stays. -/
def Ctx.startRun (u : Ctx) (entry : VAddr) : Ctx :=
  { Ctx.reset false with
    pc := entry
    bucket := u.bucket
    wallowQ := { u.wallowQ with ref := 0, out := 0 }
    wallowD := { u.wallowD with ref := 0, out := 0 }
    wallowX := { u.wallowX with ref := 0, out := 0 } }

/-- The per-core state at run start (R44, R78, R197, R200, R216, R272, R304, R316, R319): `keep` is the value of s3. -/
def Core.startRun (c : Core) (keep : Bool) : Core :=
  { c with
    ctxuIdx := c.ctxuIdx
    icache := []
    dcache := []
    sram := if keep then c.sram else []
    bad := if keep then c.bad else []
    masks := if keep then c.masks else []
    maskBad := if keep then c.maskBad else []
    om := if keep then c.om else []
    omSide := if keep then c.omSide else []
    omBad := if keep then c.omBad else []
    omSt := []
    wv := false
    rows := none
    partEnd := 0
    frows := none
    fuse := none
    fwv := false
    forcing := []
    tk := []
    perm := []
    bmap := []
    bsel := 0
    nomerge := false
    merge := 0
    ovfTrap := false
    scrBase := 0
    scrSize := 0
    casks := []
    hnds := []
    age := 0
    useClock := 0
    demand := none
    boxDone := []
    wseq := 0
    books := []
    idCtr := 1
    barSel := 0
    barLast := []
    barPend := []
    barWant := []
    nakCount := 0
    nakLast := 0
    cmm := false
    me := c.me.startRun
    ce := c.ce.startRun
    ve := c.ve.startRun
    sae := c.sae.startRun }

/-- The record header of a record (R41). -/
def State.recordHeader (s : State) (c : Card) (i : Nat) : AsRead := s.asRead c.asn (vadd c.args (c.rsize * i)) 8

/-- The estimate of a record header (R41, R42): zero, and one that cannot be read, mean unknown. -/
def State.recordEst (s : State) (c : Card) (i : Nat) : Nat :=
  match s.recordHeader c i with
  | .ok bs => if field bs 0 8 % 2 ^ 40 = 0 then estUnknown else field bs 0 8 % 2 ^ 40
  | _ => estUnknown

/-- The address one past the last byte of the own scratchpad (R44, R226). -/
def Core.spadEnd (c : Core) : VAddr := BitVec.ofNat 72 (0xFF * 2 ^ 64 + c.spadSize)

/-- The place of a core in a gang. -/
def Job.member (j : Job) (k : Nat) : Nat := (j.members.findIdx? (· = k)).getD 0

/-- Start the run of record `i` on a core (R44, R45). -/
def State.startRun (s : State) (k : Nat) (j : Job) (i : Nat) (rest : List Nat) : State :=
  let c := s.core k
  let keep := c.lastJob = some j.id
  let m := j.member k
  let x := { c.startRun keep with part_ := j.card.part_ }
  let u := x.user.startRun j.card.entry
  let u := (((u.setA 14 (vadd j.card.args (j.card.rsize * i))).setA 15 x.spadEnd).setS 1 (BitVec.ofNat 64 i)).setS 2
    (BitVec.ofNat 64 m)
  let u := u.setS 3 (if keep then 1 else 0)
  let r : Run :=
    { job := j.id, idx := i, member := m, start := s.tb, released := true, exited := false, ckpted := false,
      again := j.again.contains i, cmm := false, saving := false }
  s.setCore k { x with user := u, run := true, est := s.recordEst j.card i, estAt := s.tb, chunk := rest, task := some r }

/-- `RUN_START` (R44, R47, R48): the next record of a core's chunk becomes a run, where the core is set for its address space; verified
firmware starts it, once it has read the record's header. -/
def execRunStart (core : Nat) (s : State) : Host.Outcome State Fault Refusal :=
  let c := s.core core
  match c.job.bind s.jobOf, c.chunk with
  | some j, i :: rest =>
    if !s.verified || c.task.isSome || c.dead || j.leaving || s.pending.isSome || c.asn ≠ j.card.asn then .next s
    else
      match s.recordHeader j.card i with
      | .wait t => .next t
      | _ => .next ((s.startRun core j i rest).dropAs 8)
  | _, _ => .next s

/-! ### The save area (R49 to R51, R463) -/

/-- Every queue with EN = 0. -/
def State.disableQueues (s : State) : State :=
  { s with lqs := (List.range 64).foldl (fun m q => m.put LQueue.reset q { m.get LQueue.reset q with en := false, card := none }) s.lqs
           reserved := [] }

/-- The queues as a save area holds them (R49, R50): as they stand, with EN as it was before the save cleared it. -/
def State.savedQueues (s : State) (old : FMap LQueue) : FMap LQueue :=
  (List.range 64).foldl (fun m q => m.put LQueue.reset q { m.get LQueue.reset q with en := (old.get LQueue.reset q).en }) s.lqs

/-- A save fails: management is told, and no run resumes after the reset (R463). -/
def State.failSave (s : State) : State := { s with saveArea := some { addr := 0, queues := [], jobs := [], runs := [] } }.tell .saveFailed

/-- A save of the package that waits for no run any more: the area is written, or cannot be, and firmware reports (R49, R463). -/
def State.finishSave (s : State) : State :=
  match s.pending with
  | none => s
  | some p =>
    if p.written || allCores.any fun k => (s.core k).task.isSome then s
    else
      let s := allCores.foldl (fun s k => s.vacate k) s
      let n := areaSize s.saved.length
      let s := { s with pending := some { p with written := true } }
      let s := match p.addr with
        | some a =>
          if farOk a n then
            let put (i : Nat) (v : Saved) : Saved := { v with addr := a + areaHead + i * recordSize }
            let s := { s with saved := s.saved.mapIdx put }
            let qs := s.savedQueues p.queues
            let s := s.writeImage a n (s.areaImage qs)
            { s with saveArea := some { addr := a, queues := qs, jobs := s.jobs, runs := s.saved } }.tell
              (if p.trip3 then .trip3 else .updateReady)
          else s.failSave
        | none => s.failSave
      if p.trip3 then { s with halted := true } else s

/-- Firmware saves the package (R49): queues are disabled, and every placed run is checkpointed. Trip 3 turns a save in progress to the
standing area, and one that is written is written there too (R463). -/
def State.savePackage (s : State) (addr : Option Nat) (trip3 : Bool) : State :=
  match s.pending with
  | some p => if trip3 && !p.trip3 then { s with pending := some { p with addr := s.saveAddr, trip3 := true, written := false } }.finishSave else s
  | none =>
    let a := match addr with | some a => some a | none => s.saveAddr
    let s := { s with pending := some { addr := a, queues := s.lqs, trip3 := trip3, written := false } }.disableQueues
    let s := allCores.foldl (fun s k =>
      match (s.core k).task with
      | some r => if r.exited || r.saving then s else s.startCheckpoint k
      | none => s.vacate k) s
    s.finishSave

/-- `FIRMWARE_UPDATE_REQUEST` (R48, R49): verified firmware saves the package. -/
def execFirmwareUpdateRequest (addr : Option Nat) (s : State) : Host.Outcome State Fault Refusal :=
  .next (if s.verified then s.savePackage addr false else s)

/-- The job that firmware kept of a queue record of a save area: its card is the one being dealt. -/
def keptJob (kept : List Job) (q : Nat) (bs : List Byte) : Option Job :=
  kept.find? fun j => j.q = q && decide (j.card.addr.toNat = field bs 0x40 9)

/-- The read of the card of a queue record of a save area (R50), where one was being dealt that firmware did not keep. -/
def State.restoreCard (s : State) (kept : List Job) (q : Nat) (bs : List Byte) : Option AsRead :=
  if field bs 0x40 9 = 0 || (keptJob kept q bs).isSome then none
  else some (s.asRead (lqOfRecord bs).asn (BitVec.ofNat 72 (field bs 0x40 9)) 128)

/-- The job of a queue record of a save area (R49, R50): the card being dealt, with the records left. What the layout has no place for,
the records that came back among it, is what firmware kept (log entry 47); a card that cannot be read stops the queue (R35). -/
def State.restoreJob (s : State) (kept : List Job) (q : Nat) (bs : List Byte) : State :=
  let add (j : Job) : State :=
    { s with jobs := s.jobs ++ [{ j with next := j.card.acnt - field bs 0x50 4, cores := [], leaving := false }] }
  match keptJob kept q bs, s.restoreCard kept q bs with
  | some j, _ => add j
  | none, some (.ok cs) =>
    let x := s.lq q
    let c := cardOf (BitVec.ofNat 72 (field bs 0x40 9)) x.asn cs
    { add { id := s.jobCtr, q := q, card := { c with prio := min c.prio x.priocap }, next := 0, returned := [], again := [], cores := [],
            members := List.replicate c.n 0, leaving := false } with jobCtr := s.jobCtr + 1 }
  | none, some .fail => s.stopQueue q 1
  | none, _ => s

/-- A context of a save area (R50, R454): the run of the job whose card it names, with what firmware kept of it; its record is checked
and read when it resumes (R455). -/
def State.restoreRun (s : State) (kept : List Saved) (at_ : Nat) : Option Saved :=
  let m := s.readImage at_ 64
  let card : VAddr := BitVec.ofNat 72 (leNat (readBytes m 16 9))
  (s.jobs.find? fun j => j.card.addr = card && decide (j.card.asn = leNat (readBytes m 0x2C 2))).map fun j =>
    let run : Run :=
      { job := j.id, idx := leNat (readBytes m 0x20 4), member := leNat (readBytes m 0x24 4), start := s.tb, released := true, exited := false,
        ckpted := true, again := false, cmm := false, saving := false }
    match kept.find? fun v => v.addr = at_ && v.job = j.id with
    | some v => { v with run := { v.run with idx := run.idx, member := run.member } }
    | none => { job := j.id, run := run, addr := at_, core := Core.reset, freed := [] }

/-- What the area at an address of far memory restores (R49, R51): its queues, the jobs they deal, and its checkpointed runs. Jobs whose
records are all dealt, which no queue record names, are those that firmware kept for their runs. -/
def State.restoreArea (s : State) (addr runs : Nat) (m : FMap Byte) : State :=
  let rec_ (q : Nat) : List Byte := readBytes m (64 + 128 * q) 128
  let a : SaveArea := s.saveArea.getD { addr := addr, queues := [], jobs := [], runs := [] }
  let s : State := { s with
    lqs := (List.range 64).foldl (fun l q => l.put LQueue.reset q (lqOfRecord (rec_ q))) []
    jobs := (a.jobs.filter fun j => !j.dealing).map fun j => { j with cores := [], leaving := false }
    jobCtr := a.jobs.foldl (fun c j => max c (j.id + 1)) s.jobCtr }
  let s := ((List.range 64).foldl (fun s q => s.restoreJob a.jobs q (rec_ q)) s).dropAs 128
  let vs := (List.range runs).filterMap fun i => s.restoreRun a.runs (addr + areaHead + i * recordSize)
  { s with saved := vs, jobs := s.jobs.filter fun j => j.dealing || vs.any fun v => v.job = j.id }

/-- `SAVE_AREA_RESTORE` (R48, R49, R51): once after a device reset, verified firmware looks at the save area, and restores it where
LAYOUT is 1 and its CRC matches; else every queue keeps EN = 0 and management is told. -/
def execSaveAreaRestore (s : State) : Host.Outcome State Fault Refusal :=
  if !s.verified || s.restored || s.jobCtr ≠ 0 then .next s
  else
    let t := { s with restored := true }
    let refuse := t.disableQueues.tell .saveRefused
    match (match s.saveArea with | some a => some a.addr | none => s.saveAddr) with
    | none => .next refuse
    | some addr =>
      let n := areaSize (leNat (readBytes s.mem (addr + 4) 4))
      let m := s.readImage addr n
      let kept := match s.saveArea with | some a => a.jobs | none => []
      let waits (q : Nat) : Option State :=
        match s.restoreCard kept q (readBytes m (64 + 128 * q) 128) with | some (.wait u) => some u | _ => none
      if !farOk addr n || !areaOk n m then .next refuse
      else
        match (List.range 64).findSome? waits with
        | some u => .next u
        | none => .next (t.restoreArea addr (leNat (readBytes m 4 4)) m)

/-! ### Checkpoint and resume (R453 to R455) -/

/-- Nothing of a stopped run is outstanding (R453): its context has stopped, behind a delay slot that had not begun (R138), no command
of it runs, its open requests, rounds, loads of data and of templates, writes and scatter entries are over. -/
def State.quiet (s : State) (k : Nat) : Bool :=
  let c := s.core k
  !c.run && c.user.op.isNone && (c.user.slot.isNone || c.user.blocked) && (match c.demand with | some d => d.fw | none => true)
    && !([c.ce, c.me, c.ve, c.sae].any fun x => x.q.any (fun t => t.started.isSome) || x.loads.any fun l => !l.fw)
    && !(c.books.any fun b => b.status = .held)
    && !(s.myRounds.any fun r => r.core = k) && !(s.posts.any fun p => p.core = k && !p.fw)
    && !(s.xwaits.any fun x => x.core = k && !x.fw) && !(s.fenceSrc.any fun f => f.core = k && !f.fw)
    && s.released k false .pod
    && !s.anyFlight fun _ f =>
      match f with
      | .load l => l.core = k && !l.fw
      | .store t => t.core = k && t.agent ≠ .scalar true
      | .inval _ _ _ o => o.maker.any fun m => m.1 = k && m.2 ≠ .scalar true
      | .remoteWrite w => w.core = k && w.agent ≠ .scalar true
      | .amo a => a.core = k
      | .sae e => e.core = k
      | .remoteRead r => r.core = k && !r.fw
      | .arrive c _ _ _ => c = k
      | _ => false

/-- The remaining ticks of a use of a booking (R454). -/
def State.remaining (s : State) (k : Nat) (b : Booking) (j : Nat) (u : BUse) : Nat :=
  let started : Option Nat :=
    if s.useHere u then (match (s.cal u.cal).use (s.useId k b j) with | some o => o.start | none => none)
    else if 256 * u.first ≤ s.tb then some (256 * u.first) else none
  match started with
  | some t => max 1 (u.dur - (s.tb - t))
  | none => u.dur

/-- A booking as a record holds it: durations are the remaining ticks. -/
def State.savedBooking (s : State) (k : Nat) (b : Booking) : Booking :=
  { b with uses := b.uses.mapIdx fun j u => if u.fin then u else { u with dur := s.remaining k b j u } }

/-- The state of a core that a checkpoint keeps: entries not started, and the remaining time as it stands. -/
def State.savedCore (s : State) (k : Nat) : Core :=
  let c := s.core k
  { c with est := s.runEst k, estAt := 0, books := c.books.map (s.savedBooking k), demand := none, forcing := [], rows := none,
           frows := none, fuse := none, tlb := [], icache := [], dcache := [], task := none, job := none, chunk := [], sent := [] }

/-- A free record of the checkpoint pool (R451). -/
def State.poolSlot (s : State) : Nat :=
  let used (i : Nat) : Bool := s.saved.any fun v => v.addr = s.poolBase + i * recordSize
  s.poolBase + (((List.range (s.saved.length + 1)).find? fun i => !used i).getD 0) * recordSize

/-- Where the next record is written: in the checkpoint pool, or in the save area while the package is saved (R49, R454). -/
def State.recordAddr (s : State) : Option Nat :=
  match s.pending with
  | some p => p.addr.map fun a => a + areaHead + s.saved.length * recordSize
  | none => some s.poolSlot

/-- The run of a core is saved, and the core becomes free (R453). -/
def State.saveRun (s : State) (k : Nat) (r : Run) : State :=
  let v := s.savedCore k
  let r := { r with saving := false, ckpted := true }
  let s := s.endBookings k .cancelled 0
  let c := s.core k
  let at_ := s.recordAddr
  let saved : Saved := { job := r.job, run := r, addr := at_.getD 0, core := v, freed := [] }
  let s := match at_ with
    | some a => if farOk a recordSize then s.writeImage a recordSize (s.savedImage saved) else s
    | none => s
  let c := { c.dropCasks with
    user := { c.user with notice := none }, task := none, lastJob := some r.job, me := c.me.discard, ce := c.ce.discard,
    ve := c.ve.discard, sae := c.sae.discard }
  ({ s.setCore k c with saved := s.saved ++ [saved] }.vacate k)

/-- `CHECKPOINT_COMPLETE` (R48, R453, R454): once everything of the stopped run is over, verified firmware writes the record. -/
def execCheckpointComplete (core : Nat) (s : State) : Host.Outcome State Fault Refusal :=
  match (s.core core).task with
  | none => .next s
  | some r => if s.verified && r.saving && s.quiet core then .next (s.saveRun core r).finishSave else .next s

/-- The calendar of a use on the engines of a core, moved to another core (R76). -/
def Cal.moved (c : Cal) (old new : Nat) : Cal := if (c.kind = .me || c.kind = .ce) && c.idx = old then { c with idx := new } else c

/-- A booking of a resumed run: a live one is booked again for its unfinished uses, those of this package on the new core's engines
(R76). -/
def Booking.again (b : Booking) (here : BUse → Bool) (old new berth now : Nat) : Booking :=
  if b.live then
    { b with
      status := .held, rebook := true, round := none, next := now, refusals := 0
      uses := b.uses.map fun u =>
        if u.fin then u else { u with cal := if here u then Cal.moved u.cal old new else u.cal, floor := berth, first := 0, n := 0, ans := .refused none } }
  else b

/-- An engine of a resumed run: its queue and registers come back, its gating is the new core's. -/
def Engine.resume (x v : Engine) : Engine := { v with gate := x.gate, idleFrom := x.idleFrom }

/-- The user context of a resumed run (R455): s3 reads 0 and STALL.CNT restarts; the bucket and the allowances are the core's. -/
def Ctx.resume (u v : Ctx) : Ctx :=
  { v.setS 3 0 with
    stallCnt := 0, op := none, notice := none, noticeLeft := 0, blocked := false, halted := false, bucket := u.bucket,
    wallowQ := { u.wallowQ with ref := 0, out := 0 }, wallowD := { u.wallowD with ref := 0, out := 0 },
    wallowX := { u.wallowX with ref := 0, out := 0 } }

/-- A core takes a saved run (R455): chunk-bitmap promises are cleared, bookings are made again. -/
def Core.resume (c v : Core) (here : BUse → Bool) (old new berth now : Nat) : Core :=
  { c with
    user := c.user.resume v.user
    part_ := v.part_
    est := v.est
    estAt := now
    icache := []
    dcache := []
    sram := v.sram
    bad := v.bad
    omBad := v.omBad
    masks := v.masks
    maskBad := v.maskBad
    om := v.om
    omSide := v.omSide
    omSt := v.omSt
    plane := v.plane
    wv := v.wv
    wfmt := v.wfmt
    kw := v.kw
    tk := v.tk
    perm := v.perm
    bmap := (v.bmap.map fun p => (p.1, { p.2 with promise := 0 })).filter fun p => p.2 ≠ BmapSlot.reset
    bsel := v.bsel
    nomerge := v.nomerge
    merge := v.merge
    ovfTrap := v.ovfTrap
    scrBase := v.scrBase
    scrSize := v.scrSize
    casks := v.casks
    hnds := v.hnds
    age := v.age
    useClock := v.useClock
    demand := none
    boxDone := v.boxDone
    wseq := v.wseq
    books := v.books.map fun b => b.again here old new berth now
    idCtr := v.idCtr
    bookOrder := v.bookOrder
    barSel := v.barSel
    barLast := v.barLast
    barPend := v.barPend
    barWant := v.barWant
    nakCount := v.nakCount
    nakLast := v.nakLast
    cmm := v.cmm
    me := c.me.resume v.me
    ce := c.ce.resume v.ce
    ve := c.ve.resume v.ve
    sae := c.sae.resume v.sae }

/-- The core on which a checkpointed run is placed (R54): in the instance that holds placed members, else as a gang of one. -/
def State.resumeCore (s : State) (j : Job) : Option Nat :=
  match j.cores with
  | m :: _ => (instCores j.card.scope (m / instSize j.card.scope)).find? (s.freeCore 64)
  | [] => (s.pick 64 j.card.scope 1).bind List.head?

/-- The published words of a queue whose part of the record is not the one written are read from its read address on (R202, R455);
where they cannot be, they are read with those of the next `q.tail` (log entry 47). -/
def State.rereadQueue (s : State) (k : Nat) (e : Eng) : State :=
  let x := (s.core k).eng e
  match publishLoop e x.tmpl (s.core k).wseq x.tail tailFuel
      { s := { s with focusCore := k, focusFw := false }, addr := x.partialAddr, words := [], new := [], counted := x.done, stop := false } with
  | .ok p =>
    s.setCore k ((s.core k).setEng e { x with
      q := p.new.map fun t => { t with pub := s.tb }, partialAddr := p.addr, partialWords := p.words, counted := p.counted, linkStop := p.stop })
  | _ => s.setCore k ((s.core k).setEng e { x with counted := x.done })

/-- The engines of a record, in its order. -/
def recordEngines : List Eng := [.ce, .me, .ve, .sae]

/-- `RESUME` (R48, R54, R384, R455): a saved run is placed, LAYOUT and the CRC of its record are checked, and its state comes back from
the record; one that fails the check ends the run as unhandled (R441). -/
def execResume (idx : Nat) (s : State) : Host.Outcome State Fault Refusal :=
  match s.saved[idx]? with
  | none => .next s
  | some v =>
    match s.jobOf v.job with
    | none => .next s
    | some j =>
      match (if !s.verified || s.pending.isSome || j.leaving then none else s.resumeCore j) with
      | none => .next s
      | some k =>
        let old := (j.members[v.run.member]?).getD k
        let r : RecordIn := { m := s.readImage v.addr recordSize, old := s.savedImage v }
        let ok := farOk v.addr recordSize && areaOk recordSize r.m
        let run := { v.run with idx := r.num 0x20 4, member := r.num 0x24 4 }
        let c := (s.core k).resume (v.freed.foldl (fun x p => x.barFree p.1 p.2) (if ok then r.core s.free v.core else v.core)) s.useHere old k
          s.berth s.tb
        let c := { c with
          asn := j.card.asn, root := s.roots.get 0 j.card.asn, job := some j.id, chunk := [], lastJob := none, run := true,
          task := some (if ok then run else v.run) }
        let t := { s with saved := s.saved.eraseIdx idx, free := s.free + 256 }
        let t := (t.setJob { j with cores := insertNat k j.cores, members := j.members.set v.run.member k }).setCore k c
        if ok then
          .next ((List.range 4).foldl (fun t i =>
            if r.same (0x4C0 + 128 * i) 128 then t else t.rereadQueue k ((recordEngines[i]?).getD .ce)) t)
        else
          let f := t.freeVal 8
          .next (f.1.kill k 2 (f.2 + v.core.user.pc.toNat % 2 ^ 56 * 256))

/-! ### Retirement (R457, R460) -/

/-- The conditions of R457 other than the count fences; the writes of the run are performed, since its record is a release at pod
scope (R461). -/
def State.retirable (s : State) (k : Nat) : Bool :=
  let c := s.core k
  [c.ce, c.me, c.ve, c.sae].all (fun x => x.q.isEmpty && x.loads.all (·.fw))
    && !(c.books.any Booking.live)
    && !(s.myRounds.any fun r => r.core = k) && !(s.posts.any fun p => p.core = k && !p.fw)
    && !(s.xwaits.any fun x => x.core = k && !x.fw) && !(s.fenceSrc.any fun f => f.core = k && !f.fw)
    && decide (c.user.outs = 0)
    && !s.anyFlight fun _ f =>
      match f with
      | .load l => l.core = k && !l.fw
      | .store t => t.core = k && t.agent ≠ .scalar true
      | .inval _ _ _ o => o.maker.any fun m => m.1 = k && m.2 ≠ .scalar true
      | .amo a => a.core = k
      | .sae e => e.core = k
      | .winAck c g _ _ => c = k && !g
      | .remoteWrite w => w.core = k && w.agent ≠ .scalar true
      | .remoteRead r => r.core = k && !r.fw
      | .arrive c _ _ _ => c = k
      | .owed .. => false

/-- Firmware closes a count fence towards every package with a non-zero SENT of a core (R457). -/
def State.retireFences (s : State) (k : Nat) : State :=
  ((s.core k).sent.map (·.1)).foldl (fun s p =>
    let r := s.takeSent k p
    if s.hops p = 3 then r.1.countNak k 2 else r.1.sendFence k true 0 p r.2 0 true) s

/-- `RETIREMENT` (R43, R48, R457, R460): verified firmware closes its count fences, then writes the completion record. -/
def execRetirement (core : Nat) (s : State) : Host.Outcome State Fault Refusal :=
  let c := s.core core
  match c.task, c.job.bind s.jobOf with
  | some r, some j =>
    if !s.verified || !r.exited || !s.retirable core || s.fenceSrc.any (fun f => f.core = core && f.retire) then .next s
    else if !c.sent.isEmpty then .next (s.retireFences core)
    else
      let t := s.endRecord core j r 1 0
      .next ((t.setCore core { t.core core with task := none, lastJob := some j.id }).finishSave)
  | _, _ => .next s

end Sys2Proof.Machine
end

