-- ==== Sys2Proof/Machine/Link.lean ====
section
/-!
DEFINITION. The links of the fabric (R430 to R434, R466): flits, their check fields and encryption, replay, key slots, the
registers of a port, and its lanes. A packet that a link has brought whole acts as its operation says (R406, R407).
-/

namespace Sys2Proof.Machine

/-! ### Packets as bytes (R406) -/

/-- The 32-byte header of a packet with its payload. -/
def packetBytes (p : Packet) : List Byte :=
  leBytes 1 p.opc ++ leBytes 1 ((if p.ackreq then 1 else 0) + (if p.ord then 2 else 0)) ++ leBytes 2 p.dpkg ++ leBytes 2 p.spkg
    ++ leBytes 2 p.score ++ leBytes 2 p.tag ++ leBytes 2 p.data.length ++ leBytes 4 0 ++ leBytes 8 p.pa ++ leBytes 8 p.arg.toNat
    ++ p.data

/-- Reserved bits of a header that are not zero (R408). -/
def headerReserved (bs : List Byte) : Bool :=
  decide (4 ≤ field bs 1 1) || decide (2048 ≤ field bs 2 2) || decide (2048 ≤ field bs 4 2) || decide (512 ≤ field bs 6 2)
    || decide (8192 ≤ field bs 0x0A 2) || field bs 0x0C 4 ≠ 0 || decide (2 ^ 56 ≤ field bs 0x10 8)

/-- The packet that bytes stand for. -/
def packetOf (bs : List Byte) : Packet where
  opc := field bs 0 1
  ackreq := nbit (field bs 1 1) 0
  ord := nbit (field bs 1 1) 1
  dpkg := field bs 2 2 % 2048
  spkg := field bs 4 2 % 2048
  score := field bs 6 2 % 512
  tag := field bs 8 2
  pa := field bs 0x10 8 % 2 ^ 56
  arg := BitVec.ofNat 64 (field bs 0x18 8)
  rsv := headerReserved bs
  data := (bs.drop 32).take (field bs 0x0A 2 % 8192)

/-! ### Flits (R430) -/

/-- Bytes of the packet stream in a flit. -/
def bodySize : Nat := 232

/-- Bytes cut or filled with zeros to a length. -/
def fillTo (n : Nat) (bs : List Byte) : List Byte := (bs ++ List.replicate (n - bs.length) 0).take n

/-- A flit header. -/
def flitHeader (eop sop ks : Bool) (hop vc seq inv : Nat) : W64 :=
  BitVec.ofNat 64 ((if eop then 2 ^ 62 else 0) + (if sop then 2 ^ 61 else 0) + (if ks then 2 ^ 60 else 0) + hop % 4 * 2 ^ 58
    + vc % 16 * 2 ^ 54 + seq % 2 ^ 22 * 2 ^ 32 + inv % 2 ^ 32)

/-- The link sequence number of a flit. -/
def flitSeq (f : Flit) : Nat := nbits f.header.toNat 53 32
/-- The key slot of a flit. -/
def flitKs (f : Flit) : Bool := nbit f.header.toNat 60
/-- A packet starts, or ends, in a flit. -/
def flitSop (f : Flit) : Bool := nbit f.header.toNat 61
def flitEop (f : Flit) : Bool := nbit f.header.toNat 62

/-- The header of a flit with a slot and an INV. -/
def reHeader (f : Flit) (ks : Bool) (inv : Nat) : W64 :=
  flitHeader (flitEop f) (flitSop f) ks (nbits f.header.toNat 59 58) (nbits f.header.toNat 57 54) (flitSeq f) inv

/-- The IV of a flit: SALT and INV, 96 bits (R430). -/
def flitIv (salt : W64) (inv : Nat) : List Byte := leBytes 8 salt.toNat ++ leBytes 4 inv

/-- Bytes combined with a key stream (log entry 12). -/
def xorBytes (bs ks : List Byte) : List Byte := bs.mapIdx fun i b => b ^^^ (ks[i]?).getD 0

/-- The check field of an unencrypted flit: the CRC-32C of its first 240 bytes (R430). -/
def crcCheck (header : W64) (body : List Byte) : List Byte :=
  leBytes 4 (crc32c (leBytes 8 header.toNat ++ body)) ++ List.replicate 12 0

/-- The key and SALT of a slot. -/
def Port.key (x : Port) (slot : Bool) : List Byte := readBytes (if slot then x.key1 else x.key0) 0 32
def Port.salt (x : Port) (slot : Bool) : W64 := if slot then x.salt1 else x.salt0
def RxKeys.key (x : RxKeys) (slot : Bool) : List Byte := readBytes (if slot then x.key1 else x.key0) 0 32
def RxKeys.salt (x : RxKeys) (slot : Bool) : W64 := if slot then x.salt1 else x.salt0

/-- The slot that a receiver takes flits under: its ACTIVE one, and before the first flit a LOADED one, slot 0 before slot 1 (R432; log
entry 51). -/
def RxKeys.slot (x : RxKeys) : Bool :=
  if x.st0 = .active then false else if x.st1 = .active then true else x.st0 ≠ .loaded && x.st1 = .loaded

/-- The receiver's slots behind a flit that it has taken: the slot of the flit is ACTIVE. -/
def RxKeys.took (x : RxKeys) : RxKeys :=
  if x.slot then (if x.st1 = .loaded then { x with st1 := .active } else x)
  else if x.st0 = .loaded then { x with st0 := .active } else x

/-- The receiver's slots behind a KEYMARK that names a slot (R432): it is ACTIVE, and the other one, where it was, RETIRED. -/
def RxKeys.switchTo (x : RxKeys) (slot : Bool) : RxKeys :=
  let old (k : KeySt) : KeySt := if k = .active then .retired else k
  if slot then { x with st0 := old x.st0, st1 := .active } else { x with st0 := .active, st1 := old x.st1 }

/-- A flit in the clear, with the check field and encryption of its port. -/
def Port.seal (x : Port) (slot : Bool) (header : W64) (body : List Byte) : Flit :=
  if x.enc then
    let iv := flitIv (x.salt slot) (header.toNat % 2 ^ 32)
    let text := xorBytes body (Config.gcmStream (x.key slot) iv bodySize)
    { header := header, body := text, check := fillTo 16 (Config.gcmTag (x.key slot) iv (leBytes 8 header.toNat) text) }
  else { header := header, body := body, check := crcCheck header body }

/-- The clear text of a flit that a port receives, where its CRC or its tag holds (R430, R431). -/
def Port.unseal (x : Port) (f : Flit) : Option (List Byte) :=
  if x.enc then
    let r := x.rx
    let iv := flitIv (r.salt r.slot) (f.header.toNat % 2 ^ 32)
    let tag := fillTo 16 (Config.gcmTag (r.key r.slot) iv (leBytes 8 f.header.toNat) f.body)
    if flitKs f = r.slot && tag = f.check then some (xorBytes f.body (Config.gcmStream (r.key r.slot) iv bodySize)) else none
  else if f.check = crcCheck f.header f.body then some f.body else none

/-! ### Key slots (R432) -/

/-- The state of a slot of a port replaced. -/
def Port.setSlotSt (x : Port) (slot : Bool) (k : KeySt) : Port := if slot then { x with st1 := k } else { x with st0 := k }

/-- The ACTIVE slot of a port. -/
def Port.active (x : Port) : Option Bool := if x.st0 = .active then some false else if x.st1 = .active then some true else none

/-- With encryption and no ACTIVE slot, a LOADED slot becomes ACTIVE at the first flit, slot 0 before slot 1 (log entry 51). -/
def Port.activate (x : Port) : Port :=
  if x.active.isSome || !x.enc then x
  else if x.st0 = .loaded then { x with st0 := .active, inv := 0 }
  else if x.st1 = .loaded then { x with st1 := .active, inv := 0 }
  else x

/-! ### Sending -/

/-- The port at which the minimal route of a packet begins (R402). -/
def State.minimalPort (s : State) (p : Packet) : Nat := (s.routes.get Route.none p.dpkg).port

/-- Flits that a packet takes. -/
def flitsOf (p : Packet) : Nat := (p.data.length + 32 + bodySize - 1) / bodySize

/-- Flits queued ahead of a packet, on its class, at the port of its minimal route (R403): of the packets that wait, and of the one
that the port is sending. -/
def State.flitsAhead (s : State) (p : Packet) : Nat :=
  let vc := trafficClass p.opc
  let sending := ((s.port (s.minimalPort p)).tx.filter (·.vc = vc)).foldl (fun n t => n + (t.left.length + bodySize - 1) / bodySize) 0
  (s.out.takeWhile (· ≠ p)).foldl (fun n q =>
    if trafficClass q.opc = vc && s.minimalPort q = s.minimalPort p && !s.ownPkg q.dpkg then n + flitsOf q else n) sending

/-- The neighbours of this package, one hop away. -/
def State.neighbours (s : State) : List Nat := (s.routes.filter fun r => decide (r.2.hops = 1)).map (·.1)

/-- A packet is one of the use that runs on the calendar of a port (R418): a copy of a tide, or a packet of the core that booked it. -/
def State.booked (s : State) (port : Nat) (p : Packet) : Bool :=
  match (s.cal { kind := .port, idx := port }).row s.berth with
  | some r =>
    decide (r.st = .running) &&
      (if r.id.hm then p.opc = 1 && !nbit p.arg.toNat 63 && nbit p.arg.toNat 62
       else p.spkg = r.id.pkg && p.score = r.id.core)
  | none => false

/-- A request packet of this package that need not take its minimal route, and whose first port there holds more than 64 flits
queued on its class, leaves by way of a neighbour (R403); one of a booked use of that port stays. -/
def State.detours (s : State) (p : Packet) : Bool :=
  s.ownPkg p.spkg && !p.ord && decide (trafficClass p.opc = 2) && decide (64 < s.flitsAhead p) && !s.neighbours.isEmpty
    && !s.booked (s.minimalPort p) p

/-- The port through which a packet leaves (R402, R403): that of its minimal route, or of a neighbour, which is free by the tag
of the packet (log entry 4). -/
def State.firstPort (s : State) (p : Packet) : Nat :=
  if s.detours p then
    s.minimalPort { p with dpkg := (s.neighbours[Config.freeNat p.tag % s.neighbours.length]?).getD p.dpkg }
  else s.minimalPort p

/-- A packet leaves through a port (R402, R403): its route begins there. -/
def State.leavesBy (s : State) (port : Nat) (p : Packet) : Bool :=
  !s.ownPkg p.dpkg && (let r := s.routes.get Route.none p.dpkg; decide (r.hops ≠ 3) && decide (s.firstPort p = port))

/-- The next packet of a class that leaves through a port: those of its booked use are sent first (R57, R418). -/
def State.nextFor (s : State) (port vc : Nat) : Option Packet :=
  let ps := s.out.filter fun p => s.leavesBy port p && decide (trafficClass p.opc = vc)
  (ps.find? (s.booked port)).or ps.head?

/-- A port with no packet of a class in hand takes the next one; the hop number rises by one (R404). -/
def State.loadClass (s : State) (port vc : Nat) : State :=
  if (s.port port).tx.any (·.vc = vc) then s
  else
    match s.nextFor port vc with
    | none => s
    | some p =>
      let t : TxPacket := { vc := vc, hop := p.hop + 1, first := true, left := packetBytes p }
      { s with out := s.out.erase p }.setPort port { s.port port with tx := (s.port port).tx ++ [t] }

/-- A port has a packet of each class in hand, where one waits: no class waits behind another (R404). -/
def State.loadPort (s : State) (port : Nat) : State := (List.range 4).foldl (fun s vc => s.loadClass port vc) s

/-- A flit leaves: it takes the INV of the ACTIVE slot, which rises (R432), and stays in the replay buffer in the clear. -/
def Port.emit (x : Port) (f : Flit) : Port :=
  let ks := x.active.getD false
  let h := reHeader f ks (if x.active.isSome then x.inv else 0)
  { x with line := x.line ++ [x.seal ks h f.body], inv := if x.active.isSome then x.inv + 1 else x.inv }

/-- A new flit leaves with the next SEQ. -/
def Port.emitNew (x : Port) (f : Flit) : Port :=
  { x.emit f with seq := (x.seq + 1) % 2 ^ 22, sent_ := x.sent_ ++ [f] }

/-- The KEYMARK flit that names a slot: a packet of OPC 0x20 whose ARG is the slot (R407, R432; log entry 51). -/
def keymarkFlit (seq : Nat) (slot : Bool) : Flit :=
  { header := flitHeader true true false 1 0 seq 0
    body := fillTo bodySize (packetBytes (ctrlPacket 0x20 0 0 0 0 (if slot then 1 else 0) []))
    check := [] }

/-- The port sends a KEYMARK under its old slot and goes on under the new one from INV 0; the old slot is RETIRED. -/
def Port.switchKey (x : Port) (old : Bool) : Port :=
  let y := x.emitNew (keymarkFlit x.seq (!old))
  { (y.setSlotSt old .retired).setSlotSt (!old) .active with inv := 0, switch_ := false }

/-- The packet whose flit is next: control and enqueues never wait behind data (R404, R412). -/
def Port.nextTx (x : Port) : Option TxPacket := (List.range 4).findSome? fun vc => x.tx.find? (·.vc = vc)

/-- The next flit of a packet that a port is sending. -/
def Port.sendData (x : Port) (t : TxPacket) : Port :=
  let last := decide (t.left.length ≤ bodySize)
  let f : Flit :=
    { header := flitHeader last t.first false t.hop t.vc x.seq 0, body := fillTo bodySize (t.left.take bodySize), check := [] }
  let rest := x.tx.filter fun y => y.vc ≠ t.vc
  { x.emitNew f with tx := if last then rest else { t with first := false, left := t.left.drop bodySize } :: rest }

/-- A port sends nothing: it is disabled or down, its encryption lacks a key, or the alarm stops it (R432, R468). The last INV
below 0xFFFF_FFFF is kept for a KEYMARK. -/
def Port.stopped (x : Port) (alarm : Bool) : Bool :=
  !x.en || x.down ||
    (x.enc && (alarm ||
      match x.active with
      | none => true
      | some a => decide (0xFFFFFFFE ≤ x.inv) && !(decide (x.inv = 0xFFFFFFFE) && x.slotSt (!a) = .loaded)))

/-- The next flit is a KEYMARK under this slot (R432): the other slot is LOADED, and the next INV forces the switch, also ahead of flits to
be replayed, or firmware has asked for one and none is. -/
def Port.switchNow (x : Port) : Option Bool :=
  match (if x.enc then x.active else none) with
  | some a =>
    if (decide (0xFFFF0000 ≤ x.inv) || (x.switch_ && x.replaying.isEmpty)) && x.slotSt (!a) = .loaded then some a else none
  | none => none

/-- Management is told at the flit whose INV would force a switch while the other slot is not LOADED (R432). -/
def State.keyShort (s : State) (port : Nat) : State :=
  let x := s.port port
  if x.enc && x.active.isSome && decide (x.inv = 0xFFFF0000) then s.tell (.keyShort port) else s

/-- A port is kept at full width: its calendar holds a booked use in the next 16 berths. -/
def State.portBooked (s : State) (port : Nat) : Bool :=
  let x := s.cal { kind := .port, idx := port }
  (List.range 16).any fun i => match x.row (s.berth + i) with | some r => r.st ≠ .held | none => false

/-- Traffic waits at a port. -/
def State.portBusy (s : State) (port : Nat) : Bool :=
  !(s.port port).tx.isEmpty || !(s.port port).replaying.isEmpty || s.out.any (s.leavesBy port)

/-- A port with fewer lanes has its full width back once its queues grow or a booked use is near (R466). -/
def State.regain (s : State) (port : Nat) : State :=
  let x := s.port port
  if decide (x.lanes < 8) && (s.portBooked port || s.portBusy port) then s.setPort port { x with lanes := 8, lanesAt := s.tb } else s

/-- `FLIT_SEND` (R430 to R432): a KEYMARK where the keys are to switch, a replayed flit, or the next flit of a packet. A port sheds no lanes for
more than 4,096 ticks of traffic (R466). -/
def execFlitSend (port : Nat) (s : State) : Host.Outcome State Fault Refusal :=
  let s := if (s.port port).lanesAt + 4096 ≤ s.tb then s.sendDue.regain port else s.sendDue
  let x := (s.port port).activate
  if x.stopped s.alarm then .next s
  else
    let s := s.setPort port x
    match x.switchNow with
    | some a => .next (s.setPort port (x.switchKey a))
    | none =>
      match x.replaying with
      | f :: fs => .next ((s.keyShort port).setPort port { x.emit f with replaying := fs, replay := satInc x.replay 65535 })
      | [] =>
        let s := s.loadPort port
        let x := s.port port
        .next (match x.nextTx with | some t => (s.keyShort port).setPort port (x.sendData t) | none => s)

/-! ### Receiving -/

/-- The state of an outcome that goes on. -/
def nextOr (s : State) (o : Host.Outcome State Fault Refusal) : State := match o with | .next t => t | _ => s

/-- The booking message of a BOOK packet (R64). -/
def bookMsgOf (bs : List Byte) : BookMsg where
  use := field bs 1 1 + (if nbit (field bs 6 2) 15 then field bs 2 2 / 4096 * 256 else 0)
  xid := field bs 2 2 % 4096
  pkg := field bs 4 2 % 2048
  core := field bs 6 2 % 512
  hm := nbit (field bs 6 2) 15
  res := BitVec.ofNat 64 (field bs 8 8)
  berth := field bs 0x10 8 % 2 ^ 56
  exp := field bs 0x18 8

/-- A booking message of another package acts as its TYPE says (R64, R65). One with another TYPE is dropped and counted; the manual does
not say by which die's unit: by the owner of the calendar in RES (DESIGN CHOICE, log entry 71). -/
def State.bookIn (s : State) (bs : List Byte) : State :=
  let m := bookMsgOf bs
  nextOr s (match field bs 0 1 with
    | 1 => execHold m s
    | 2 => execHeld m s
    | 3 => execRefused m s
    | 4 => execRefusedFatal m s
    | 5 => execCommit m s
    | 6 => execRelease m s
    | 7 => execCancel m s
    | 8 => execSlip m s
    | 9 => execMoved m s
    | 10 => execDoneMsg m s
    | n => execUnknownBookingMessage (ownerDie (calOfWord m.res.toNat)) (BitVec.ofNat 8 n) s)

/-- A packet that has arrived whole acts as its operation says (R406 to R408). -/
def State.packetIn (s : State) (port : Nat) (p : Packet) : State :=
  let mark := nbit p.arg.toNat 63
  nextOr s (match p.opc with
    | 0x01 => execWr p s
    | 0x02 => execRd p s
    | 0x03 => execRdrsp p s
    | 0x04 => execAmo p s
    | 0x05 => execAmorsp p s
    | 0x06 => execAck p s
    | 0x07 => execNak p s
    | 0x08 => execRenq p s
    | 0x09 => execRenqAns p s
    | 0x0A => execFenceMsg p s
    | 0x0B => execFenceAns p s
    | 0x10 => .next (s.receive 0x10 p fun s => s.bookIn p.data)
    | 0x11 => if mark then execManifestAnswer p s else execManifest p s
    | 0x12 => if mark then execPairReport p s else execGrant p s
    | 0x13 => execRoundEnd p s
    | 0x14 => execAbandon p s
    | 0x15 => execHeartbeat p s
    | 0x16 => execTakeover p s
    | 0x17 => execBarMsg p s
    | 0x18 => execTimeMsg p s
    | 0x20 => .next s
    | _ => execUnknownOpc port p s)

/-- The receiver discards a flit and asks for replay from the SEQ it waits for (R431). -/
def Port.askReplay (x : Port) : Port := { x with asks := x.asks ++ [x.rxSeq] }

/-- The hop number of a flit, and its virtual channel: its class and hop number (R404, R430). -/
def flitHop (f : Flit) : Nat := nbits f.header.toNat 59 58
def flitVc (f : Flit) : Nat := nbits f.header.toNat 59 54

/-- The receiver's bytes of the packet in hand on a flit's virtual channel, after the flit. -/
def Port.gather (x : Port) (f : Flit) (body : List Byte) : List Byte := (if flitSop f then [] else x.rxBytes.get [] (flitVc f)) ++ body

/-- A flit whose check holds and whose SEQ is the next (R431, R432): a KEYMARK switches the slot; a whole packet acts. -/
def State.acceptFlit (s : State) (port : Nat) (f : Flit) (body : List Byte) : State :=
  let x := s.port port
  let bs := x.gather f body
  let x := { x with rx := (if x.enc then x.rx.took else x.rx), rxSeq := (x.rxSeq + 1) % 2 ^ 22, rxBytes := x.rxBytes.put [] (flitVc f) (if flitEop f then [] else bs) }
  if !flitEop f then s.setPort port x
  else
    let p : Packet := { packetOf bs with hop := flitHop f }
    let x := { x with rsvb := if p.rsv then satInc x.rsvb 65535 else x.rsvb }
    if p.opc = 0x20 then s.setPort port { x with rx := if x.enc then x.rx.switchTo (nbit p.arg.toNat 0) else x.rx }
    else (s.setPort port x).packetIn port p

/-- A flit reaches a port (R431). -/
def State.flitIn (s : State) (port : Nat) (f : Flit) : State :=
  let x := s.port port
  if !x.en || x.down then s
  else
    match x.unseal f with
    | none => s.setPort port { x.askReplay with authf := satInc x.authf 65535 }
    | some body =>
      if flitSeq f ≠ x.rxSeq then (if x.asks.contains x.rxSeq then s else s.setPort port x.askReplay)
      else s.acceptFlit port f body

/-- `FLIT_RECEIVE` (R430, R431). -/
def execFlitReceive (port : Nat) (f : Flit) (s : State) : Host.Outcome State Fault Refusal := .next (s.flitIn port f)

/-- `KEYMARK` (R432): the receiver authenticates a KEYMARK flit and switches to the slot it names. -/
def execKeymark (port : Nat) (f : Flit) (s : State) : Host.Outcome State Fault Refusal :=
  match (s.port port).unseal f with
  | some body => .next (if flitSop f && (packetOf body).opc = 0x20 then s.flitIn port f else s)
  | none => .next s

/-! ### Replay (R431) -/

/-- A port is taken down: routes that begin there are unreachable, so that packets waiting for them are answered NO_ROUTE, each at its
source (R408), and management is told. -/
def State.portFails (s : State) (port : Nat) : State :=
  let cut (p : Nat × Route) : Nat × Route := if p.2.port = port && p.2.hops ≠ 0 then (p.1, { p.2 with hops := 3 }) else p
  let stuck := s.out.filter (s.leavesBy port)
  let t := { s with
    routes := (s.routes.map cut).filter (fun p => p.2 ≠ Route.none), out := s.out.filter fun p => !s.leavesBy port p }
  let t := (t.setPort port { t.port port with down := true, replaying := [], tx := [] }).tell (.portDown port)
  stuck.foldl (fun s p =>
    if s.ownPkg p.spkg || s.hops p.dpkg ≠ 3 then s.send p
    else if nakable p then s.send (nakOf s.pkg p.spkg 2 p) else s) t

/-- `REPLAY_REQUEST` (R431): the receiver of the other end asks for the flits from a SEQ on; the 16th failed try of one SEQ takes
the port down. -/
def execReplayRequest (port seq : Nat) (s : State) : Host.Outcome State Fault Refusal :=
  let x := s.port port
  if x.down || !x.sent_.any fun f => flitSeq f = seq then .next s
  else
    let tries := if x.tries ≠ 0 && x.trySeq = seq then x.tries + 1 else 1
    let rest := x.sent_.dropWhile fun f => flitSeq f ≠ seq
    let t := s.setPort port { x with tries := tries, trySeq := seq, sent_ := rest, replaying := rest }
    .next (if 16 ≤ tries then t.portFails port else t)

/-! ### Registers of a port (R432, R433) -/

/-- `CLP_CTL_WRITE` (R433): EN, which verified firmware sets (R469), and ENC, which stays while EN = 1; SW starts a switch. -/
def execClpCtlWrite (port : Nat) (v : W64) (s : State) : Host.Outcome State Fault Refusal :=
  let x := s.port port
  let n := v.toNat
  .next (s.setPort port
    { x with en := nbit n 0 && s.verified, enc := if x.en then x.enc else nbit n 1, switch_ := x.switch_ || nbit n 2 })

/-- A SALT makes the slot of the receiving direction LOADED, where it is not ACTIVE (R432). -/
def RxKeys.load (x : RxKeys) (slot : Bool) (v : W64) : RxKeys :=
  if x.slotSt slot = .active then x
  else if slot then { x with salt1 := v, st1 := .loaded }
  else { x with salt0 := v, st0 := .loaded }

/-- `CLP_SALT_WRITE` (R432): a slot that is not ACTIVE becomes LOADED, in each direction of the port, with INV 0 when it is used. -/
def execClpSaltWrite (port : Nat) (slot : Bool) (v : W64) (s : State) : Host.Outcome State Fault Refusal :=
  let z := s.port port
  let x := { z with rx := z.rx.load slot v }
  if x.slotSt slot = .active then .next (s.setPort port x)
  else
    let y := if slot then { x with salt1 := v } else { x with salt0 := v }
    .next (s.setPort port (y.setSlotSt slot .loaded))

/-! ### Lanes (R466) -/

/-- `PORT_LANE_SHED` (R466): from 8 lanes to 4 or 2, under light traffic. -/
def execPortLaneShed (port lanes : Nat) (s : State) : Host.Outcome State Fault Refusal :=
  let x := s.port port
  if (lanes = 4 || lanes = 2) && decide (lanes < x.lanes) && !s.portBooked port && !s.portBusy port then
    .next (s.setPort port { x with lanes := lanes, lanesAt := s.tb })
  else .next s

/-- `PORT_WIDTH_REGAIN` (R466): full width comes back once queues grow or a booked use is near. -/
def execPortWidthRegain (port : Nat) (s : State) : Host.Outcome State Fault Refusal :=
  .next (s.regain port)

end Sys2Proof.Machine
end

