-- ==== Sys2Proof/Machine/Platform.lean ====
section
/-!
DEFINITION. The platform: errors of core storage (R448), rails and clocks (R462), thermal trips (R463), boot, attestation and
the alarm (R467, R468), and package reset (R26, R469).
-/

namespace Sys2Proof.Machine

/-! ### Rails and trips -/

/-- `RAIL_CLOCK_CHANGE` (R446, R462): a quad's clock step changes; a slower one is NOTICE kind 1, a faster one kind 2. -/
def execRailClockChange (die quad : Nat) (step : BitVec 2) (s : State) : Host.Outcome State Fault Refusal :=
  let ks := (List.range 4).map (64 * die + 4 * quad + ·)
  let old := (s.core (64 * die + 4 * quad)).clockStep
  let t := s.mapCores ks fun c => { c with clockStep := step }
  .next (if step = old then s else t.noticeRuns ks (if old < step then 1 else 2))

/-- The junction temperature of a die. -/
def State.sense (s : State) (die : Nat) (tj : Byte) : State := s.setDie die { s.die die with tj := tj.toNat }

/-- The hottest die (R463). -/
def State.hottest (s : State) : Nat := (List.range 10).foldl (fun m d => max m (s.die d).tj) 0

/-- `TRIP_1` (R463): it rises at 95 degrees; every run receives NOTICE kind 3. -/
def execTrip1 (die : Nat) (tj : Byte) (s : State) : Host.Outcome State Fault Refusal :=
  let s := s.sense die tj
  .next (if s.trip1 || decide (s.hottest < 95) then s else { s with trip1 := true }.noticeRuns allCores 3)

/-- `TRIP_1_CLEAR` (R463): below 90 degrees. -/
def execTrip1Clear (die : Nat) (tj : Byte) (s : State) : Host.Outcome State Fault Refusal :=
  let s := s.sense die tj
  .next (if s.hottest < 90 then { s with trip1 := false } else s)

/-- The cadence of a core as trip 2 raises it; the value before is held (R463). -/
def Core.slow (c : Core) : Core := { c with cadHeld := some c.cadence, cadence := max c.cadence 4 }

/-- The cadence of a core as trip 2 clears (R463). -/
def Core.restoreCadence (c : Core) : Core := { c with cadence := c.cadHeld.getD c.cadence, cadHeld := none }

/-- `TRIP_2` (R463): it rises at 105 degrees; cadences are raised, and every run receives NOTICE kind 4. -/
def execTrip2 (die : Nat) (tj : Byte) (s : State) : Host.Outcome State Fault Refusal :=
  let s := s.sense die tj
  .next (if s.trip2 || decide (s.hottest < 105) then s
    else ({ s with trip2 := true }.mapCores allCores Core.slow).noticeRuns allCores 4)

/-- `TRIP_2_CLEAR` (R463): below 100 degrees; cadences return, and every run receives NOTICE kind 2. -/
def execTrip2Clear (die : Nat) (tj : Byte) (s : State) : Host.Outcome State Fault Refusal :=
  let s := s.sense die tj
  .next (if !s.trip2 || decide (100 ≤ s.hottest) then s
    else ({ s with trip2 := false }.mapCores allCores Core.restoreCadence).noticeRuns allCores 2)

/-- `TRIP_3` (R48, R463): at 115 degrees verified firmware saves the package in the standing save area and halts the cores. -/
def execTrip3 (die : Nat) (tj : Byte) (s : State) : Host.Outcome State Fault Refusal :=
  let s := s.sense die tj
  .next (if decide (s.hottest < 115) || !s.verified then s else s.savePackage none true)

/-- `TRIP_4` (R463): at 125 degrees package power goes, and no state is saved. -/
def execTrip4 (die : Nat) (tj : Byte) (s : State) : Host.Outcome State Fault Refusal :=
  let s := s.sense die tj
  .next (if s.hottest < 125 then s else { State.reset with powerOff := true })

/-! ### Errors of core storage (R448) -/

/-- A corrected error is counted. -/
def Core.countCorrected (c : Core) (unit : Byte) : Core :=
  { c with eccCorr := satInc c.eccCorr 0xFFFFFFFF, eccUnit := unit.toNat }

/-- An uncorrectable error is counted. -/
def Core.countUncorrectable (c : Core) (unit : Byte) : Core :=
  { c with eccUnc := satInc c.eccUnc 65535, eccUnit := unit.toNat }

/-- The granule of an error in storage is uncorrectable: `addr` counts bytes in the scratchpad, the vector registers with the masks
behind them, the accumulator tiles, or operand memory with its side stores behind it (log entry 53). -/
def Core.spoil (c : Core) (unit : Byte) (addr : Nat) : Core :=
  match unit.toNat with
  | 1 => { c with bad := insertNat ((c.spadBase + addr % c.spadSize) / 16) c.bad }
  | 2 =>
    let a := addr % (c.vru * 65536 + 1024)
    if a < c.vru * 65536 then { c with bad := insertNat (a / 16) c.bad }
    else { c with maskBad := insertNat ((a - c.vru * 65536) / 16) c.maskBad }
  | 3 => { c with bad := insertNat ((c.accBase + addr % (max 1 c.acu * 65536)) / 16) c.bad }
  | 4 => { c with omBad := insertNat (addr / 16) c.omBad }
  | _ => c

/-- A line of a cache of a core is dropped; it is read again from memory. -/
def Core.dropLine (c : Core) (unit : Byte) (addr : Nat) : Core :=
  if unit = 5 then { c with icache := c.icache.filter fun p => lineOf p.1 ≠ lineOf addr }
  else { c with dcache := c.dcache.filter fun p => p.1 ≠ lineOf addr }

/-- An error in control state, templates or tables ends the run as unhandled with status FAULT; under RESTART its record is dealt
again. -/
def State.loseControl (s : State) (k : Nat) : State :=
  let pc := (s.ctx k false).pc
  match (s.core k).task, (s.core k).job.bind s.jobOf with
  | some _, some j =>
    if j.card.restart then
      let c := s.core k
      ((s.setCore k { c with run := false, user := { c.user with halted := true } }).tell
        (.trap k .ecc pc (BitVec.ofNat 64 pc.toNat) 0 0 0)).kill k 3 0
    else s.unhandled k false (mkTrap .ecc pc.toNat 0 0 0) pc
  | _, _ => s

/-- `SRAM_ECC_ERROR` (R448). -/
def execSramEccError (core : Nat) (unit : Byte) (addr : Nat) (unc : Bool) (s : State) : Host.Outcome State Fault Refusal :=
  let c := s.core core
  if unit = 5 || unit = 6 then .next (s.setCore core ((c.dropLine unit addr).countCorrected unit))
  else if !unc then .next (s.setCore core (c.countCorrected unit))
  else
    let t := (s.setCore core ((c.spoil unit addr).countUncorrectable unit)).tell (.ecc core unit.toNat)
    .next (if unit = 7 || unit = 8 then t.loseControl core else t)

/-! ### Security (R467, R468) -/

/-- `SECURITY_ALARM` (R468): it latches; key slots become EMPTY, and the device key-wrapping key is erased. -/
def execSecurityAlarm (s : State) : Host.Outcome State Fault Refusal :=
  let wipe (x : Port) : Port := { x with st0 := .empty, st1 := .empty, key0 := [], key1 := [], salt0 := 0, salt1 := 0, rx := RxKeys.reset }
  let ps : FMap Port := (s.ports.map fun p => (p.1, wipe p.2)).filter fun (p : Nat × Port) => p.2 ≠ Port.reset
  .next ({ s with ports := ps, wrapKey := false, alarm := true }.tell .alarm)

/-- `ROOT_OF_TRUST_BOOT` (R467): the digest of the image is verified and extends the measurement; on a failure no firmware runs,
and management is told. -/
def execRootOfTrustBoot (image sig : List Byte) (s : State) : Host.Outcome State Fault Refusal :=
  if s.verified || s.bootFailed then .next s
  else
    let d := Config.sm3 image
    .next (if Config.sm2Verify d sig then { s with verified := true, measure := Config.sm3 (s.measure ++ d) }
      else { s with bootFailed := true }.tell .bootRefused)

/-- `ATTESTATION_QUOTE` (R467): a signature over the nonce and the measurements; after the alarm quotes are refused (R468). -/
def execAttestationQuote (nonce : List Byte) (s : State) : Host.Outcome State Fault Refusal :=
  .next (if s.alarm || !s.wrapKey then s else s.tell (.quote (Config.sm2Sign (nonce ++ s.measure))))

/-! ### Package reset (R26, R463, R469) -/

/-- `PACKAGE_RESET`: every piece of state is as right after reset; far memory keeps its contents, what management has been told
stays told, and an erased key-wrapping key stays erased (log entry 54). -/
def execPackageReset (s : State) : Host.Outcome State Fault Refusal :=
  .next { State.reset with
    mem := s.mem.filter fun p => 8 ≤ homeOf p.1
    memBad := s.memBad.filter fun g => 8 ≤ homeOf (g * 16)
    saveArea := s.saveArea
    wrapKey := s.wrapKey
    notes := s.notes
    agenda := s.agenda }

end Sys2Proof.Machine
end

