-- ==== Sys2Proof/Machine/Vector.lean ====
section
/-!
DEFINITION. The commands of the vector engine (R338 to R357): registers of 512 slots, masks, loads and stores with conversion,
element-wise operations, approximations, reductions, scans and mask operations.
-/

namespace Sys2Proof.Machine

/-! ### Registers and masks (R338, R340) -/

/-- Elements of an element type in a register; `none` is no element type. -/
def vCap (et : Nat) : Option Nat :=
  match et with
  | 1 | 10 | 14 => some 512
  | 0 | 11 | 15 => some 256
  | _ => none

/-- Element `e` of a vector register in a type. -/
def Core.vElem (k : Core) (r et e : Nat) : Nat := leNat (k.poolRead (r * 2048 + e * fmtBytes et) (fmtBytes et))

/-- A mask; `m0` reads all ones. -/
def Core.mask (k : Core) (n : Nat) : BitVec 512 := if n = 0 then BitVec.allOnes 512 else k.masks.get 0 n

/-- The bit of a mask for element `e` lies in an uncorrectable granule (R448); `m0` is no storage. -/
def Core.maskLost (k : Core) (n e : Nat) : Bool := decide (n ≠ 0) && k.maskBad.contains (4 * n + e / 128)

/-- Write a mask; a write to `m0` changes nothing. A granule in which no bit is kept is correct again (R448). -/
def Core.setMask (k : Core) (n : Nat) (v : BitVec 512) (kept : Nat → Bool) : Core :=
  if n = 0 then k
  else
    { k with
      masks := k.masks.put 0 n v
      maskBad := k.maskBad.filter fun g => decide (g / 4 ≠ n) || (List.range 128).any fun i => kept (g % 4 * 128 + i) }

/-! ### Fields (R341) -/

def vVD (c : Tmpl) : Nat := fieldOf c 24 % 128
def vVA (c : Tmpl) : Nat := fieldOf c 24 / 256 % 128
def vVB (c : Tmpl) : Nat := fieldOf c 25 % 128
def vVC (c : Tmpl) : Nat := fieldOf c 25 / 256 % 128
def vMK (c : Tmpl) : Nat := fieldOf c 26 % 16
def vET (c : Tmpl) : Nat := fieldOf c 26 / 16 % 16
def vMFMT (c : Tmpl) : Nat := fieldOf c 26 / 4096
def vSat (c : Tmpl) : Bool := opFlag c 4
def vZM (c : Tmpl) : Bool := opFlag c 6
/-- The condition or operation subfield E1[10:8]. -/
def vSub (c : Tmpl) : Nat := fieldOf c 25 / 256 % 8
/-- The element count N (R342): the whole nest for `v.lds` and `v.sts`. -/
def vN (c : Tmpl) : Nat := if opCode c = 2 || opCode c = 5 then product (counts c 6) else cntOf c 0

/-- Element `e` is active (R342). -/
def vActive (k : Core) (c : Tmpl) (e : Nat) : Bool := decide (e < vN c) && (k.mask (vMK c)).getLsbD e

/-! ### Checks and results -/

/-- The checks of R343 that every command with elements shares: its registers are backed, ET is an element type, and N fits. -/
def vBase (regs : List Nat) (k : Core) (c : Tmpl) : Bool :=
  regs.all (fun r => decide (r < 32 * k.vru)) &&
    (match vCap (vET c) with | some n => decide (vN c ≤ n) | none => false)

/-- ET is an integer type. -/
def vInt (c : Tmpl) : Bool := (intFmt (vET c)).isSome

/-- The mask of a command is uncorrectable below element N (R448). -/
def vMaskUnc (k : Core) (c : Tmpl) : Bool := (List.range ((vN c + 127) / 128)).any fun j => k.maskLost (vMK c) (128 * j)

/-- The mask, or a source register, holds an uncorrectable granule below element N (R448). -/
def vUnc (k : Core) (c : Tmpl) (regs : List Nat) : Bool :=
  vMaskUnc k c || regs.any fun r => k.poolBad (r * 2048) (vN c * fmtBytes (vET c))

/-- A register written in every element: active ones from `f`, the others kept or zero (R342). A granule that holds a kept element
stays uncorrectable where it is (R448). -/
def Core.vWrite (k : Core) (c : Tmpl) (act : Nat → Bool) (f : Nat → Nat) : Core :=
  let w := fmtBytes (vET c)
  let kept (g : Nat) : Bool :=
    !vZM c && decide (g / 128 = vVD c) && (List.range (16 / w)).any fun i => !act (g % 128 * (16 / w) + i)
  let x := k.poolWrite (vVD c * 2048) ((List.range (2048 / w)).flatMap fun e =>
    leBytes w (if act e then f e else if vZM c then 0 else k.vElem (vVD c) (vET c) e))
  { x with bad := k.bad.filter fun g => kept g || x.bad.contains g }

/-- A vector command ends with a result. -/
def vEnd (s : State) (r : W64) : Part := { s := s, pos := 0, since := 0, tags := [], end_ := .finished r }

/-- A command that computes VD from registers. -/
def vMapPart (srcs : Tmpl → List Nat) (f : Core → Tmpl → Nat → Nat) (s : State) (w : Who) (t : Entry) (c : Tmpl) : Part :=
  let k := s.core w.core
  if vUnc k c (srcs c) then partFault s t fEcc 0
  else vEnd (s.setCore w.core (k.vWrite c (vActive k c) (f k c))) 0

/-- Run a vector command. -/
def State.runV (s : State) (w : CmdAt) (c : Tmpl) (code : Nat) (check : Core → Tmpl → Bool)
    (part : State → Who → Entry → Tmpl → Part) : Host.Outcome State Fault Refusal :=
  .next (s.runCommand .ve w c (opCode c = code) check part)

/-! ### Element-wise operations (R347) -/

/-- The low bits, or the nearest bound, of an exact integer (R347). -/
def vNarrow (c : Tmpl) (x : Int) : Nat :=
  match intFmt (vET c) with | some (w, sg) => narrowInt w sg (vSat c) x | none => 0

/-- An element as an integer of ET. -/
def vIntOf (c : Tmpl) (v : Nat) : Int := match intFmt (vET c) with | some (w, sg) => intVal w sg v | none => 0

/-- A sum, or difference, of two elements. -/
def vAddOp (neg : Bool) (c : Tmpl) (a b : Nat) : Nat :=
  match floatFmt (vET c) with
  | some f =>
    let x := f.decode a
    let y := f.decode b
    ((f.nanOf [x, y]).getD (f.addVals x (if neg then y.neg else y) (mxMode c) (vSat c))).1
  | none => vNarrow c (if neg then vIntOf c a - vIntOf c b else vIntOf c a + vIntOf c b)

/-- A product of two elements. -/
def vMulOp (c : Tmpl) (a b : Nat) : Nat :=
  match floatFmt (vET c) with
  | some f =>
    let x := f.decode a
    let y := f.decode b
    ((f.nanOf [x, y]).getD
      (match mulVals x y with
       | some v => f.roundVal v (mxMode c) (vSat c)
       | none => (f.genNaN 4, FlagSet.invalid))).1
  | none => vNarrow c (vIntOf c a * vIntOf c b)

/-- A fused a × b + z, or − z: NaNs in the order a, b, z. -/
def vFmaOp (neg : Bool) (c : Tmpl) (a b z : Nat) : Nat :=
  match floatFmt (vET c) with
  | some f =>
    let x := f.decode a
    let y := f.decode b
    let d := f.decode z
    ((f.nanOf [x, y, d]).getD
      (match mulVals x y with
       | some v => f.addVals (if neg then d.neg else d) v (mxMode c) (vSat c)
       | none => (f.genNaN 4, FlagSet.invalid))).1
  | none =>
    let p := vIntOf c a * vIntOf c b
    vNarrow c (if neg then p - vIntOf c z else p + vIntOf c z)

/-- The smaller or the larger of two elements. -/
def vMinMaxOp (max_ : Bool) (c : Tmpl) (a b : Nat) : Nat :=
  match floatFmt (vET c) with
  | some f => (f.minMax a b max_).1
  | none => if decide (vIntOf c a < vIntOf c b) != max_ then a else b

/-- The absolute value: a float's sign bit is cleared. -/
def vAbsOp (c : Tmpl) (a : Nat) : Nat :=
  match floatFmt (vET c) with
  | some f => a % 2 ^ (f.bits - 1)
  | none => vNarrow c (vIntOf c a).natAbs

/-- The negation: a float's sign bit is inverted. -/
def vNegOp (c : Tmpl) (a : Nat) : Nat :=
  match floatFmt (vET c) with
  | some f => (a + 2 ^ (f.bits - 1)) % 2 ^ f.bits
  | none => vNarrow c (-(vIntOf c a))

/-- The shift count of an element. -/
def vShift (c : Tmpl) (b : Nat) : Nat := b % (8 * fmtBytes (vET c))

/-- A shift: 0 left, 1 right logical, 2 right arithmetic. -/
def vShiftOp (kind : Nat) (c : Tmpl) (a b : Nat) : Nat :=
  let w := 8 * fmtBytes (vET c)
  match kind with
  | 0 => a * 2 ^ vShift c b % 2 ^ w
  | 1 => a / 2 ^ vShift c b
  | _ => (Int.fdiv (intVal w true a) (2 ^ vShift c b) % 2 ^ w).toNat

/-- A command of one source. -/
def vUnary (f : Tmpl → Nat → Nat) : State → Who → Entry → Tmpl → Part :=
  vMapPart (fun c => [vVA c]) fun k c e => f c (k.vElem (vVA c) (vET c) e)

/-- A command of two sources. -/
def vBinary (f : Tmpl → Nat → Nat → Nat) : State → Who → Entry → Tmpl → Part :=
  vMapPart (fun c => [vVA c, vVB c]) fun k c e => f c (k.vElem (vVA c) (vET c) e) (k.vElem (vVB c) (vET c) e)

/-- A command of three sources. -/
def vTernary (f : Tmpl → Nat → Nat → Nat → Nat) : State → Who → Entry → Tmpl → Part :=
  vMapPart (fun c => [vVA c, vVB c, vVC c]) fun k c e =>
    f c (k.vElem (vVA c) (vET c) e) (k.vElem (vVB c) (vET c) e) (k.vElem (vVC c) (vET c) e)

/-- The checks of a command of one, two or three sources. -/
def vOk1 (k : Core) (c : Tmpl) : Bool := vBase [vVD c, vVA c] k c
def vOk2 (k : Core) (c : Tmpl) : Bool := vBase [vVD c, vVA c, vVB c] k c
def vOk3 (k : Core) (c : Tmpl) : Bool := vBase [vVD c, vVA c, vVB c, vVC c] k c
/-- The checks of a logic or shift command: ET is an integer type. -/
def vOkInt (k : Core) (c : Tmpl) : Bool := vOk2 k c && vInt c

/-- `v.add` (R347). -/
def execVAdd (w : CmdAt) (c : Tmpl) (s : State) : Host.Outcome State Fault Refusal :=
  s.runV w c 0x07 vOk2 (vBinary (vAddOp false))
/-- `v.sub` (R347). -/
def execVSub (w : CmdAt) (c : Tmpl) (s : State) : Host.Outcome State Fault Refusal :=
  s.runV w c 0x08 vOk2 (vBinary (vAddOp true))
/-- `v.mul` (R347). -/
def execVMul (w : CmdAt) (c : Tmpl) (s : State) : Host.Outcome State Fault Refusal := s.runV w c 0x09 vOk2 (vBinary vMulOp)
/-- `v.fma` (R347). -/
def execVFma (w : CmdAt) (c : Tmpl) (s : State) : Host.Outcome State Fault Refusal :=
  s.runV w c 0x0A vOk3 (vTernary (vFmaOp false))
/-- `v.fms` (R347). -/
def execVFms (w : CmdAt) (c : Tmpl) (s : State) : Host.Outcome State Fault Refusal :=
  s.runV w c 0x0B vOk3 (vTernary (vFmaOp true))
/-- `v.min` (R347). -/
def execVMin (w : CmdAt) (c : Tmpl) (s : State) : Host.Outcome State Fault Refusal :=
  s.runV w c 0x0C vOk2 (vBinary (vMinMaxOp false))
/-- `v.max` (R347). -/
def execVMax (w : CmdAt) (c : Tmpl) (s : State) : Host.Outcome State Fault Refusal :=
  s.runV w c 0x0D vOk2 (vBinary (vMinMaxOp true))
/-- `v.abs` (R347). -/
def execVAbs (w : CmdAt) (c : Tmpl) (s : State) : Host.Outcome State Fault Refusal := s.runV w c 0x0E vOk1 (vUnary vAbsOp)
/-- `v.neg` (R347). -/
def execVNeg (w : CmdAt) (c : Tmpl) (s : State) : Host.Outcome State Fault Refusal := s.runV w c 0x0F vOk1 (vUnary vNegOp)
/-- `v.and` (R347). -/
def execVAnd (w : CmdAt) (c : Tmpl) (s : State) : Host.Outcome State Fault Refusal :=
  s.runV w c 0x10 vOkInt (vBinary fun _ a b => a &&& b)
/-- `v.or` (R347). -/
def execVOr (w : CmdAt) (c : Tmpl) (s : State) : Host.Outcome State Fault Refusal :=
  s.runV w c 0x11 vOkInt (vBinary fun _ a b => a ||| b)
/-- `v.xor` (R347). -/
def execVXor (w : CmdAt) (c : Tmpl) (s : State) : Host.Outcome State Fault Refusal :=
  s.runV w c 0x12 vOkInt (vBinary fun _ a b => a ^^^ b)
/-- `v.shl` (R347). -/
def execVShl (w : CmdAt) (c : Tmpl) (s : State) : Host.Outcome State Fault Refusal :=
  s.runV w c 0x13 vOkInt (vBinary (vShiftOp 0))
/-- `v.shr` (R347). -/
def execVShr (w : CmdAt) (c : Tmpl) (s : State) : Host.Outcome State Fault Refusal :=
  s.runV w c 0x14 vOkInt (vBinary (vShiftOp 1))
/-- `v.sra` (R347). -/
def execVSra (w : CmdAt) (c : Tmpl) (s : State) : Host.Outcome State Fault Refusal :=
  s.runV w c 0x15 vOkInt (vBinary (vShiftOp 2))

/-! ### Comparison (R348) -/

/-- The truth of a floating condition by its code. -/
def fcondOf (n : Nat) : FCond :=
  match n with | 0 => .eq | 1 => .ne | 2 => .lt | 3 => .le | 4 => .gt | 5 => .ge | 6 => .un | _ => .ord

/-- The truth of a condition between two elements. -/
def vCmpOp (c : Tmpl) (a b : Nat) : Bool :=
  match floatFmt (vET c) with
  | some f => (fcmpF f (fcondOf (vSub c)) a b).1
  | none =>
    let x := vIntOf c a
    let y := vIntOf c b
    match vSub c with
    | 0 => decide (x = y) | 1 => decide (x ≠ y) | 2 => decide (x < y) | 3 => decide (x ≤ y) | 4 => decide (y < x)
    | _ => decide (y ≤ x)

/-- A mask of 512 bits from its bits. -/
def maskOf (f : Nat → Bool) : BitVec 512 :=
  (List.range 512).foldl (fun m e => if f e then m ||| (1 <<< e) else m) 0

/-- A comparison. -/
def vCmpPart (s : State) (w : Who) (t : Entry) (c : Tmpl) : Part :=
  let k := s.core w.core
  let md := fieldOf c 24 % 16
  if vUnc k c [vVA c, vVB c] then partFault s t fEcc 0
  else
    let old := k.mask md
    let m := maskOf fun e =>
      if vActive k c e then vCmpOp c (k.vElem (vVA c) (vET c) e) (k.vElem (vVB c) (vET c) e)
      else !vZM c && old.getLsbD e
    vEnd (s.setCore w.core (k.setMask md m fun e => !vZM c && !vActive k c e)) 0

/-- The checks of `v.cmp`. -/
def vCmpOk (k : Core) (c : Tmpl) : Bool := vBase [vVA c, vVB c] k c && (!vInt c || decide (vSub c ≤ 5))

/-- `v.cmp` (R348). -/
def execVCmp (w : CmdAt) (c : Tmpl) (s : State) : Host.Outcome State Fault Refusal := s.runV w c 0x16 vCmpOk vCmpPart

/-! ### Data movement (R349) -/

/-- A selection: every element below N is written. -/
def vSelPart (s : State) (w : Who) (t : Entry) (c : Tmpl) : Part :=
  let k := s.core w.core
  if vUnc k c [vVA c, vVB c] then partFault s t fEcc 0
  else
    let f (e : Nat) : Nat := k.vElem (if (k.mask (vMK c)).getLsbD e then vVA c else vVB c) (vET c) e
    vEnd (s.setCore w.core (k.vWrite c (fun e => decide (e < vN c)) f)) 0

/-- `v.sel` (R349). -/
def execVSel (w : CmdAt) (c : Tmpl) (s : State) : Host.Outcome State Fault Refusal := s.runV w c 0x17 vOk2 vSelPart

/-- `v.mov` (R349). -/
def execVMov (w : CmdAt) (c : Tmpl) (s : State) : Host.Outcome State Fault Refusal :=
  s.runV w c 0x1F vOk1 (vUnary fun _ a => a)

/-- The element that `v.bcast` copies. -/
def vIndex (c : Tmpl) : Nat := fieldOf c 25 % 512

/-- A broadcast. -/
def vBcastPart (s : State) (w : Who) (t : Entry) (c : Tmpl) : Part :=
  let k := s.core w.core
  if vMaskUnc k c || k.poolBad (vVA c * 2048 + vIndex c * fmtBytes (vET c)) (fmtBytes (vET c)) then partFault s t fEcc 0
  else vEnd (s.setCore w.core (k.vWrite c (vActive k c) fun _ => k.vElem (vVA c) (vET c) (vIndex c))) 0

/-- The index of `v.bcast` lies in the register. -/
def vBcastOk (k : Core) (c : Tmpl) : Bool :=
  vOk1 k c && (match vCap (vET c) with | some n => decide (vIndex c < n) | none => false)

/-- `v.bcast` (R349). -/
def execVBcast (w : CmdAt) (c : Tmpl) (s : State) : Host.Outcome State Fault Refusal := s.runV w c 0x20 vBcastOk vBcastPart

/-- A permutation by the indices of VB, slots of 32 bits whatever ET is. -/
def vPermPart (s : State) (w : Who) (t : Entry) (c : Tmpl) : Part :=
  let k := s.core w.core
  if vUnc k c [vVA c] || k.poolBad (vVB c * 2048) (4 * vN c) then partFault s t fEcc 0
  else
    let f (e : Nat) : Nat := let i := k.vElem (vVB c) 14 e; if i < vN c then k.vElem (vVA c) (vET c) i else 0
    vEnd (s.setCore w.core (k.vWrite c (vActive k c) f)) 0

/-- `v.perm` (R349). -/
def execVPerm (w : CmdAt) (c : Tmpl) (s : State) : Host.Outcome State Fault Refusal := s.runV w c 0x21 vOk2 vPermPart

/-! ### Conversion (R350) -/

/-- A pair that `v.cvt` allows, N fitting both. -/
def vCvtOk (k : Core) (c : Tmpl) : Bool :=
  vOk1 k c &&
    ((match vCap (vMFMT c) with | some n => decide (vN c ≤ n) | none => false) || (vMFMT c = 7 && vET c = 10))

/-- A conversion. -/
def vCvtPart (s : State) (w : Who) (t : Entry) (c : Tmpl) : Part :=
  let k := s.core w.core
  if vMaskUnc k c || k.poolBad (vVA c * 2048) (vN c * fmtBytes (vMFMT c)) then partFault s t fEcc 0
  else
    let f (e : Nat) : Nat := (convert (vMFMT c) (vET c) (k.vElem (vVA c) (vMFMT c) e) (mxMode c) (vSat c)).getD 0
    vEnd (s.setCore w.core (k.vWrite c (vActive k c) f)) 0

/-- `v.cvt` (R350). -/
def execVCvt (w : CmdAt) (c : Tmpl) (s : State) : Host.Outcome State Fault Refusal := s.runV w c 0x18 vCvtOk vCvtPart

/-! ### Approximations (R351) -/

/-- The result of an approximation of magnitude m × 2^e, or a little more where `sticky`: 16 significant bits. -/
def approx (neg : Bool) (m : Nat) (e : Int) (sticky sat : Bool) : Nat :=
  if m = 0 then 0
  else
    let q : Int := max (ilog2 m + e) (-126) - 15
    let sh := (q - e).toNat
    let n := if q ≤ e then m * 2 ^ (e - q).toNat else roundInt (m / 2 ^ sh) (m % 2 ^ sh) (2 ^ sh) sticky neg .rne
    if n = 0 then 0 else (fp32.round neg n q false .rne sat).1

/-- 1 ÷ a. -/
def rcpOf (sat : Bool) (a : Nat) : Nat :=
  match fp32.decode a with
  | .nan n fr => fp32.quiet n fr
  | .inf n => fp32.zero n
  | .fin n m e =>
    if m = 0 then fp32.infinity n
    else
      let k := ilog2 m + 40
      approx n (2 ^ k / m) (-e - k) (2 ^ k % m ≠ 0) sat

/-- 1 ÷ √a. -/
def rsqOf (sat : Bool) (a : Nat) : Nat :=
  match fp32.decode a with
  | .nan n fr => fp32.quiet n fr
  | .inf n => if n then fp32.genNaN 6 else fp32.zero false
  | .fin n m e =>
    if m = 0 then fp32.infinity n
    else if n then fp32.genNaN 6
    else
      let k := ilog2 m + 40
      let odd : Nat := if e % 2 = 0 then 0 else 1
      let v := 2 ^ (2 * k + odd)
      let r := Nat.sqrt (v / m)
      approx false r ((-e - odd) / 2 - k) (r * r * m ≠ v) sat

/-- Bits of the fixed-point working of `v.exp2` and `v.log2` (log entry 40). -/
def workBits : Nat := 256

/-- 2^f for a fraction f of `n` bits below bit `n`, by square roots of two: `c` is 2^(2^−i) and `acc` the product so far. -/
def exp2Bits : Nat → Nat → Nat → Nat → Nat
  | 0, _, _, acc => acc
  | n + 1, f, c, acc =>
    let c := Nat.sqrt (c * 2 ^ workBits)
    exp2Bits n f c (if nbit f n then acc * c / 2 ^ workBits else acc)

/-- 2^a. -/
def exp2Of (sat : Bool) (a : Nat) : Nat :=
  match fp32.decode a with
  | .nan n fr => fp32.quiet n fr
  | .inf n => if n then 0 else fp32.infinity false
  | .fin n m e =>
    let big := if 0 ≤ e then m * 2 ^ e.toNat else m / 2 ^ (-e).toNat
    if 200 ≤ big then (if n then 0 else fp32.overflow false .rne sat)
    else
      let fx : Int := if 0 ≤ e then m * 2 ^ (e.toNat + 128) else m * 2 ^ 128 / 2 ^ (-e).toNat
      let exact := 0 ≤ e || m % 2 ^ (-e).toNat = 0
      let x : Int := if n then (if exact || m * 2 ^ 128 % 2 ^ (-e).toNat = 0 then -fx else -fx - 1) else fx
      let i := Int.fdiv x (2 ^ 128)
      let f := (x - i * 2 ^ 128).toNat
      let y := exp2Bits 128 f (2 * 2 ^ workBits) (2 ^ workBits)
      approx false y (i - workBits) (!exact) sat

/-- The first `n` bits of the fraction of log2 of t ÷ 2^workBits in [1, 2), by squaring. -/
def log2Bits : Nat → Nat → Nat → Nat
  | 0, _, acc => acc
  | n + 1, t, acc =>
    let u := t * t / 2 ^ workBits
    if 2 * 2 ^ workBits ≤ u then log2Bits n (u / 2) (2 * acc + 1) else log2Bits n u (2 * acc)

/-- log2 a. -/
def log2Of (sat : Bool) (a : Nat) : Nat :=
  match fp32.decode a with
  | .nan n fr => fp32.quiet n fr
  | .inf n => if n then fp32.genNaN 6 else fp32.infinity false
  | .fin n m e =>
    if m = 0 then fp32.infinity true
    else if n then fp32.genNaN 6
    else
      let k := ilog2 m
      let y : Int := ((k : Int) + e) * 2 ^ 128 + log2Bits 128 (m * 2 ^ workBits / 2 ^ k) 0
      approx (y < 0) y.natAbs (-128) false sat

/-- The checks of an approximation: ET is fp32. -/
def vApproxOk (k : Core) (c : Tmpl) : Bool := vOk1 k c && vET c = 1

/-- `v.rcp` (R351). -/
def execVRcp (w : CmdAt) (c : Tmpl) (s : State) : Host.Outcome State Fault Refusal :=
  s.runV w c 0x1B vApproxOk (vUnary fun c a => rcpOf (vSat c) a)
/-- `v.rsq` (R351). -/
def execVRsq (w : CmdAt) (c : Tmpl) (s : State) : Host.Outcome State Fault Refusal :=
  s.runV w c 0x1C vApproxOk (vUnary fun c a => rsqOf (vSat c) a)
/-- `v.exp2` (R351). -/
def execVExp2 (w : CmdAt) (c : Tmpl) (s : State) : Host.Outcome State Fault Refusal :=
  s.runV w c 0x1D vApproxOk (vUnary fun c a => exp2Of (vSat c) a)
/-- `v.log2` (R351). -/
def execVLog2 (w : CmdAt) (c : Tmpl) (s : State) : Host.Outcome State Fault Refusal :=
  s.runV w c 0x1E vApproxOk (vUnary fun c a => log2Of (vSat c) a)

/-! ### Reductions and scans (R269, R352, R353) -/

/-- One combine: 0 add, 1 min, 2 max, 3 and, 4 or, 5 xor. Integer combines wrap (R269). A floating overflow follows R250 under SAT in
a scan; the reduction ignores SAT (R352). -/
def vCombine (c : Tmpl) (a b : Nat) : Nat :=
  match vSub c with
  | 0 =>
    match floatFmt (vET c) with
    | some f => (f.add a b (mxMode c) (opCode c = 0x1A && vSat c)).1
    | none => (a + b) % 2 ^ (8 * fmtBytes (vET c))
  | 1 => vMinMaxOp false c a b
  | 2 => vMinMaxOp true c a b
  | 3 => a &&& b
  | 4 => a ||| b
  | _ => a ^^^ b

/-- The identity of an operation. -/
def vIdentity (c : Tmpl) : Nat :=
  let w := 8 * fmtBytes (vET c)
  match vSub c, floatFmt (vET c), intFmt (vET c) with
  | 1, some f, _ => f.infinity false
  | 2, some f, _ => f.infinity true
  | 1, _, some (_, sg) => (intMax w sg % 2 ^ w).toNat
  | 2, _, some (_, sg) => (intMin w sg % 2 ^ w).toNat
  | 3, _, _ => 2 ^ w - 1
  | _, _, _ => 0

/-- Combine two sides, either of which may hold no active element. -/
def vJoin (c : Tmpl) (a b : Option Nat) : Option Nat :=
  match a, b with
  | some x, some y => some (vCombine c x y)
  | some x, none => some x
  | none, y => y

/-- One level of the pairwise tree. -/
def vLevel (c : Tmpl) : List (Option Nat) → List (Option Nat)
  | a :: b :: l => vJoin c a b :: vLevel c l
  | l => l

/-- The reduction in the order of R269. -/
def vReduce (k : Core) (c : Tmpl) : Option Nat :=
  let lane (l : Nat) : Option Nat :=
    (List.range 8).foldl (fun a b =>
      let e := 64 * b + l
      if vActive k c e then vJoin c a (some (k.vElem (vVA c) (vET c) e)) else a) none
  let lv := vLevel c
  ((lv (lv (lv (lv (lv (lv ((List.range 64).map lane)))))))[0]?).getD none

/-- A scalar result of an element type (R352). -/
def vScalar (c : Tmpl) (v : Nat) : W64 :=
  if vET c = 10 then (BitVec.ofNat 32 v).signExtend 64 else BitVec.ofNat 64 v

/-- SRES. -/
def vSres (c : Tmpl) : Bool := opFlag c 3

/-- The operation of a reduction or scan exists for ET. -/
def vOpOk (c : Tmpl) : Bool := decide (vSub c ≤ 2) || (decide (vSub c ≤ 5) && vInt c)

/-- The checks of `v.red`: VD is not checked with SRES. -/
def vRedOk (k : Core) (c : Tmpl) : Bool := vBase (if vSres c then [vVA c] else [vVA c, vVD c]) k c && vOpOk c

/-- A reduction. -/
def vRedPart (s : State) (w : Who) (t : Entry) (c : Tmpl) : Part :=
  let k := s.core w.core
  if vUnc k c [vVA c] then partFault s t fEcc 0
  else
    let v := (vReduce k c).getD (vIdentity c)
    if vSres c then vEnd s (vScalar c v)
    else vEnd (s.setCore w.core (k.poolWrite (vVD c * 2048) (leBytes (fmtBytes (vET c)) v))) 0

/-- `v.red` (R352). -/
def execVRed (w : CmdAt) (c : Tmpl) (s : State) : Host.Outcome State Fault Refusal := s.runV w c 0x19 vRedOk vRedPart

/-- The running values of a scan: one for each element below N, the value so far at an inactive one. -/
def vRunning (k : Core) (c : Tmpl) : List (Option Nat) :=
  ((List.range (vN c)).foldl (fun (p : Option Nat × List (Option Nat)) e =>
    let a := if vActive k c e then vJoin c p.1 (some (k.vElem (vVA c) (vET c) e)) else p.1
    (a, a :: p.2)) (none, [])).2.reverse

/-- The checks of `v.scan`. -/
def vScanOk (k : Core) (c : Tmpl) : Bool := vOk1 k c && vOpOk c

/-- A scan. -/
def vScanPart (s : State) (w : Who) (t : Entry) (c : Tmpl) : Part :=
  let k := s.core w.core
  if vUnc k c [vVA c] then partFault s t fEcc 0
  else
    let r := vRunning k c
    let last := ((r.getLast?).getD none).getD (vIdentity c)
    vEnd (s.setCore w.core (k.vWrite c (vActive k c) fun e => ((r[e]?).getD none).getD 0)) (vScalar c last)

/-- `v.scan` (R353). -/
def execVScan (w : CmdAt) (c : Tmpl) (s : State) : Host.Outcome State Fault Refusal := s.runV w c 0x1A vScanOk vScanPart

/-! ### Masks (R355) -/

/-- A mask command. -/
def vMaskPart (two : Bool) (f : BitVec 512 → BitVec 512 → BitVec 512) (s : State) (w : Who) (t : Entry) (c : Tmpl) : Part :=
  let k := s.core w.core
  let a := fieldOf c 24 / 256 % 16
  let b := fieldOf c 25 % 16
  if (List.range 4).any fun j => k.maskLost a (128 * j) || (two && k.maskLost b (128 * j)) then partFault s t fEcc 0
  else vEnd (s.setCore w.core (k.setMask (fieldOf c 24 % 16) (f (k.mask a) (k.mask b)) fun _ => false)) 0

/-- `vm.and` (R355). -/
def execVmAnd (w : CmdAt) (c : Tmpl) (s : State) : Host.Outcome State Fault Refusal :=
  s.runV w c 0x22 (fun _ _ => true) (vMaskPart true fun a b => a &&& b)
/-- `vm.or` (R355). -/
def execVmOr (w : CmdAt) (c : Tmpl) (s : State) : Host.Outcome State Fault Refusal :=
  s.runV w c 0x23 (fun _ _ => true) (vMaskPart true fun a b => a ||| b)
/-- `vm.not` (R355). -/
def execVmNot (w : CmdAt) (c : Tmpl) (s : State) : Host.Outcome State Fault Refusal :=
  s.runV w c 0x24 (fun _ _ => true) (vMaskPart false fun a _ => ~~~a)

/-! ### Loads and stores (R344 to R346) -/

/-- The address of element `e` of `v.ld` and `v.st`. -/
def vAddrSeq (_k : Core) (c : Tmpl) (e : Nat) : VAddr := vadd (addr0 c) (e * fmtBytes (vMFMT c))

/-- The address of element `e` of `v.lds` and `v.sts`. -/
def vAddrNest (_k : Core) (c : Tmpl) (e : Nat) : VAddr :=
  vadd (addr0 c) (dot (indices (counts c 6) e) ((List.range 6).map fun i => strOf c i * unitOf (fieldOf c 18)))

/-- The address of element `e` of `v.ldx` and `v.stx`. -/
def vAddrIdx (k : Core) (c : Tmpl) (e : Nat) : VAddr :=
  vadd (addr1 c) (intVal 32 true (k.vElem (vVB c) 10 e) * fmtBytes (vMFMT c))

/-- The pair of MFMT and ET is one that R345 allows; bq8 only where `seq`. -/
def vPairOk (seq : Bool) (c : Tmpl) : Bool :=
  let m := vMFMT c
  let et := vET c
  ((floatFmt m).isSome && (floatFmt et).isSome) || ((intFmt m).isSome && (intFmt et).isSome)
    || (m = 6 && et = 1 && seq) || (m = 7 && (et = 10 || et = 14))

/-- A value read from memory, converted to ET (R345); `sc` is the scale byte of a bq8 element. -/
def vLoadConv (c : Tmpl) (v sc : Nat) : Nat :=
  if vMFMT c = 6 then (fromBq v sc 1 (mxMode c) (vSat c)).getD 0
  else if vMFMT c = 7 then v
  else (convert (vMFMT c) (vET c) v (mxMode c) (vSat c)).getD 0

/-- Element `e` of a memory command cannot be made: its bit of the mask is uncorrectable, or it is active and its index, or the
value that it stores, is (R346, R448). -/
def vLost (k : Core) (c : Tmpl) (e : Nat) : Bool :=
  let n := fmtBytes (vET c)
  k.maskLost (vMK c) e
    || vActive k c e && (((opCode c = 3 || opCode c = 6) && k.poolBad (vVB c * 2048 + 4 * e) 4)
      || (4 ≤ opCode c && k.poolBad (vVA c * 2048 + e * n) n))

/-- Read the elements of a load in rising order; each is one access, and a bq8 scale another. -/
def State.vReads (s : State) (w : Who) (k : Core) (c : Tmpl) (ad : Nat → VAddr) : List Nat → ERes (FMap Nat)
  | [] => .ok s []
  | e :: es =>
    let n := fmtBytes (vMFMT c)
    if vLost k c e then eFault s fEcc 0
    else if !vActive k c e then State.vReads s w k c ad es
    else if (ad e).toNat % n ≠ 0 then eFault s fAlign (ad e)
    else
      (s.engRead w (ad e) n).bind fun s bs =>
        let scale : ERes Nat :=
          if vMFMT c = 6 then (s.engRead w (vadd (addr1 c) ((e : Int) / 32)) 1).bind fun s b => .ok s (leNat b) else .ok s 0
        scale.bind fun s sc =>
          (State.vReads s w k c ad es).bind fun s m => .ok s ((e, vLoadConv c (leNat bs) sc) :: m)

/-- A load: all reads come before VD is written. -/
def vLoadPart (ad : Core → Tmpl → Nat → VAddr) (s : State) (w : Who) (t : Entry) (c : Tmpl) : Part :=
  let k := s.core w.core
  (s.vReads w k c (ad k c) (List.range (vN c))).part t fun s m =>
    let k := s.core w.core
    vEnd (s.setCore w.core (k.vWrite c (vActive k c) fun e => m.get 0 e)) 0

/-- A value of ET converted to MFMT. -/
def vStoreConv (c : Tmpl) (v : Nat) : Nat :=
  if vMFMT c = 7 then v else (convert (vET c) (vMFMT c) v (mxMode c) (vSat c)).getD 0

/-- What a store writes, in order: each active element in rising e; for bq8 the scale of a block behind its elements. `none` stands for
an element that cannot be made, and for a bq8 block with one, whose scale it takes part in. -/
def vPieces (k : Core) (c : Tmpl) (ad : Nat → VAddr) : List (Option (VAddr × List Byte)) :=
  let n := fmtBytes (vMFMT c)
  let val (e : Nat) : Nat := k.vElem (vVA c) (vET c) e
  if vMFMT c = 6 then
    (List.range ((vN c + 31) / 32)).flatMap fun (b : Nat) =>
      let es : List Nat := (List.range 32).map fun e => 32 * b + e
      let q := quantise 1 (es.map fun e => if vActive k c e then val e else 0) (mxMode c)
      let act := es.filter (vActive k c)
      if es.any fun e => decide (e < vN c) && vLost k c e then [none]
      else if act.isEmpty then []
      else act.map (fun e => some (ad e, leBytes 1 (q.1.getD (e % 32) 0))) ++ [some (vadd (addr1 c) (b : Int), leBytes 1 q.2)]
  else (List.range (vN c)).flatMap fun e =>
    if vLost k c e then [none] else if vActive k c e then [some (ad e, leBytes n (vStoreConv c (val e)))] else []

/-- A store: its pieces one by one. -/
def vStorePart (ad : Core → Tmpl → Nat → VAddr) (s : State) (w : Who) (t : Entry) (c : Tmpl) : Part :=
  let k := s.core w.core
  let ps := vPieces k c (ad k c)
  runElements s w t ps.length fun s i =>
    match ps[i]? with
    | none => .ok s (0, [])
    | some none => eFault s fEcc 0
    | some (some (a, bs)) =>
      if a.toNat % bs.length ≠ 0 then eFault s fAlign a
      else (s.cmdWrite w t.wseq a bs).bind fun s ts => .ok s (0, ts)

/-- The checks of a load or store. -/
def vLdOk (k : Core) (c : Tmpl) : Bool := vBase [vVD c] k c && vPairOk (opCode c = 1) c
def vLdxOk (k : Core) (c : Tmpl) : Bool := vBase [vVD c, vVB c] k c && vPairOk false c
def vStOk (k : Core) (c : Tmpl) : Bool := vBase [vVA c] k c && vPairOk (opCode c = 4) c
def vStxOk (k : Core) (c : Tmpl) : Bool := vBase [vVA c, vVB c] k c && vPairOk false c

/-- `v.ld` (R344). -/
def execVLd (w : CmdAt) (c : Tmpl) (s : State) : Host.Outcome State Fault Refusal := s.runV w c 0x01 vLdOk (vLoadPart vAddrSeq)
/-- `v.lds` (R344). -/
def execVLds (w : CmdAt) (c : Tmpl) (s : State) : Host.Outcome State Fault Refusal :=
  s.runV w c 0x02 vLdOk (vLoadPart vAddrNest)
/-- `v.ldx` (R344). -/
def execVLdx (w : CmdAt) (c : Tmpl) (s : State) : Host.Outcome State Fault Refusal :=
  s.runV w c 0x03 vLdxOk (vLoadPart vAddrIdx)
/-- `v.st` (R344). -/
def execVSt (w : CmdAt) (c : Tmpl) (s : State) : Host.Outcome State Fault Refusal :=
  s.runV w c 0x04 vStOk (vStorePart vAddrSeq)
/-- `v.sts` (R344). -/
def execVSts (w : CmdAt) (c : Tmpl) (s : State) : Host.Outcome State Fault Refusal :=
  s.runV w c 0x05 vStOk (vStorePart vAddrNest)
/-- `v.stx` (R344). -/
def execVStx (w : CmdAt) (c : Tmpl) (s : State) : Host.Outcome State Fault Refusal :=
  s.runV w c 0x06 vStxOk (vStorePart vAddrIdx)

end Sys2Proof.Machine
end

