-- ==== Sys2Proof/Machine/Dispatch.lean ====
section
/-!
DEFINITION. The meaning of every instruction: one arm per constructor, each a direct call of its meaning.
-/

namespace Sys2Proof.Machine

/-- What an instruction does. -/
def exec (i : Instr) (s : State) : Host.Outcome State Fault Refusal :=
  match i with
  | .add d a b fa fb => Sys2Proof.Machine.execAdd d a b fa fb s
  | .sub d a b fa fb => Sys2Proof.Machine.execSub d a b fa fb s
  | .mul d a b fa fb => Sys2Proof.Machine.execMul d a b fa fb s
  | .mulh d a b fa fb => Sys2Proof.Machine.execMulh d a b fa fb s
  | .mulhn d a b fa fb => Sys2Proof.Machine.execMulhn d a b fa fb s
  | .div d a b fa fb => Sys2Proof.Machine.execDiv d a b fa fb s
  | .divn d a b fa fb => Sys2Proof.Machine.execDivn d a b fa fb s
  | .rem d a b fa fb => Sys2Proof.Machine.execRem d a b fa fb s
  | .remn d a b fa fb => Sys2Proof.Machine.execRemn d a b fa fb s
  | .iAnd d a b fa fb => Sys2Proof.Machine.execIAnd d a b fa fb s
  | .iOr d a b fa fb => Sys2Proof.Machine.execIOr d a b fa fb s
  | .iXor d a b fa fb => Sys2Proof.Machine.execIXor d a b fa fb s
  | .andn d a b fa fb => Sys2Proof.Machine.execAndn d a b fa fb s
  | .shl d a b fa fb => Sys2Proof.Machine.execShl d a b fa fb s
  | .shr d a b fa fb => Sys2Proof.Machine.execShr d a b fa fb s
  | .sra d a b fa fb => Sys2Proof.Machine.execSra d a b fa fb s
  | .rotl d a b fa fb => Sys2Proof.Machine.execRotl d a b fa fb s
  | .iMin d a b fa fb => Sys2Proof.Machine.execIMin d a b fa fb s
  | .iMax d a b fa fb => Sys2Proof.Machine.execIMax d a b fa fb s
  | .minn d a b fa fb => Sys2Proof.Machine.execMinn d a b fa fb s
  | .maxn d a b fa fb => Sys2Proof.Machine.execMaxn d a b fa fb s
  | .clz d a fa => Sys2Proof.Machine.execClz d a fa s
  | .ctz d a fa => Sys2Proof.Machine.execCtz d a fa s
  | .popc d a fa => Sys2Proof.Machine.execPopc d a fa s
  | .sext d a b fa fb => Sys2Proof.Machine.execSext d a b fa fb s
  | .zext d a b fa fb => Sys2Proof.Machine.execZext d a b fa fb s
  | .bfx d a b fa fb => Sys2Proof.Machine.execBfx d a b fa fb s
  | .bfi d a b fa fb => Sys2Proof.Machine.execBfi d a b fa fb s
  | .sel n d a b fa fb => Sys2Proof.Machine.execSel n d a b fa fb s
  | .pAnd d a b => Sys2Proof.Machine.execPAnd d a b s
  | .pOr d a b => Sys2Proof.Machine.execPOr d a b s
  | .pXor d a b => Sys2Proof.Machine.execPXor d a b s
  | .pNot d a => Sys2Proof.Machine.execPNot d a s
  | .pMov d a => Sys2Proof.Machine.execPMov d a s
  | .cmp c d a b fa fb => Sys2Proof.Machine.execCmp c d a b fa fb s
  | .aAdd d a b fb => Sys2Proof.Machine.execAAdd d a b fb s
  | .aLea2 d a b fb => Sys2Proof.Machine.execALea2 d a b fb s
  | .aLea4 d a b fb => Sys2Proof.Machine.execALea4 d a b fb s
  | .aLea8 d a b fb => Sys2Proof.Machine.execALea8 d a b fb s
  | .aLea16 d a b fb => Sys2Proof.Machine.execALea16 d a b fb s
  | .aMov d a => Sys2Proof.Machine.execAMov d a s
  | .aMovScalar d a b fa fb => Sys2Proof.Machine.execAMovScalar d a b fa fb s
  | .aGet d a => Sys2Proof.Machine.execAGet d a s
  | .aGetHi d a => Sys2Proof.Machine.execAGetHi d a s
  | .aCmp c d a b => Sys2Proof.Machine.execACmp c d a b s
  | .faddF64 r d a b fa fb => Sys2Proof.Machine.execFaddF64 r d a b fa fb s
  | .fsubF64 r d a b fa fb => Sys2Proof.Machine.execFsubF64 r d a b fa fb s
  | .fmulF64 r d a b fa fb => Sys2Proof.Machine.execFmulF64 r d a b fa fb s
  | .fmaF64 r d a b fa fb => Sys2Proof.Machine.execFmaF64 r d a b fa fb s
  | .fdivF64 r d a b fa fb => Sys2Proof.Machine.execFdivF64 r d a b fa fb s
  | .fsqrtF64 r d a fa => Sys2Proof.Machine.execFsqrtF64 r d a fa s
  | .fminF64 r d a b fa fb => Sys2Proof.Machine.execFminF64 r d a b fa fb s
  | .fmaxF64 r d a b fa fb => Sys2Proof.Machine.execFmaxF64 r d a b fa fb s
  | .faddF32 r d a b fa fb => Sys2Proof.Machine.execFaddF32 r d a b fa fb s
  | .fsubF32 r d a b fa fb => Sys2Proof.Machine.execFsubF32 r d a b fa fb s
  | .fmulF32 r d a b fa fb => Sys2Proof.Machine.execFmulF32 r d a b fa fb s
  | .fmaF32 r d a b fa fb => Sys2Proof.Machine.execFmaF32 r d a b fa fb s
  | .fdivF32 r d a b fa fb => Sys2Proof.Machine.execFdivF32 r d a b fa fb s
  | .fsqrtF32 r d a fa => Sys2Proof.Machine.execFsqrtF32 r d a fa s
  | .fminF32 r d a b fa fb => Sys2Proof.Machine.execFminF32 r d a b fa fb s
  | .fmaxF32 r d a b fa fb => Sys2Proof.Machine.execFmaxF32 r d a b fa fb s
  | .fcvt r t u d a fa => Sys2Proof.Machine.execFcvt r t u d a fa s
  | .fclassF64 d a fa => Sys2Proof.Machine.execFclassF64 d a fa s
  | .fclassF32 d a fa => Sys2Proof.Machine.execFclassF32 d a fa s
  | .fcmpF64 c d a b fa fb => Sys2Proof.Machine.execFcmpF64 c d a b fa fb s
  | .fcmpF32 c d a b fa fb => Sys2Proof.Machine.execFcmpF32 c d a b fa fb s
  | .feClr d => Sys2Proof.Machine.execFeClr d s
  | .feSet d => Sys2Proof.Machine.execFeSet d s
  | .feTst d a => Sys2Proof.Machine.execFeTst d a s
  | .wait d a b fb => Sys2Proof.Machine.execWait d a b fb s
  | .qTail e a => Sys2Proof.Machine.execQTail e a s
  | .qMark m a fa => Sys2Proof.Machine.execQMark m a fa s
  | .qSeq d e => Sys2Proof.Machine.execQSeq d e s
  | .tmplLd d e a => Sys2Proof.Machine.execTmplLd d e a s
  | .omClaim n => Sys2Proof.Machine.execOmClaim n s
  | .omRel n => Sys2Proof.Machine.execOmRel n s
  | .jr a => Sys2Proof.Machine.execJr a s
  | .jalr d a => Sys2Proof.Machine.execJalr d a s
  | .xPost d a => Sys2Proof.Machine.execXPost d a s
  | .xWait d a fa => Sys2Proof.Machine.execXWait d a fa s
  | .xRenq d a b fb => Sys2Proof.Machine.execXRenq d a b fb s
  | .xRenqAck d a b fb => Sys2Proof.Machine.execXRenqAck d a b fb s
  | .xFence d a fa => Sys2Proof.Machine.execXFence d a fa s
  | .addi d a fa imm => Sys2Proof.Machine.execAddi d a fa imm s
  | .andi d a fa imm => Sys2Proof.Machine.execAndi d a fa imm s
  | .ori d a fa imm => Sys2Proof.Machine.execOri d a fa imm s
  | .xori d a fa imm => Sys2Proof.Machine.execXori d a fa imm s
  | .shli d a fa sh => Sys2Proof.Machine.execShli d a fa sh s
  | .shri d a fa sh => Sys2Proof.Machine.execShri d a fa sh s
  | .srai d a fa sh => Sys2Proof.Machine.execSrai d a fa sh s
  | .cmpi c d a fa imm => Sys2Proof.Machine.execCmpi c d a fa imm s
  | .aAddi d a imm => Sys2Proof.Machine.execAAddi d a imm s
  | .csrR d n => Sys2Proof.Machine.execCsrR d n s
  | .csrW n a fa => Sys2Proof.Machine.execCsrW n a fa s
  | .csrX d a fa n => Sys2Proof.Machine.execCsrX d a fa n s
  | .lih d imm => Sys2Proof.Machine.execLih d imm s
  | .lim d imm => Sys2Proof.Machine.execLim d imm s
  | .lit d imm => Sys2Proof.Machine.execLit d imm s
  | .ldI8 d a sc o off => Sys2Proof.Machine.execLdI8 d a sc o off s
  | .ldN8 d a sc o off => Sys2Proof.Machine.execLdN8 d a sc o off s
  | .ldI16 d a sc o off => Sys2Proof.Machine.execLdI16 d a sc o off s
  | .ldN16 d a sc o off => Sys2Proof.Machine.execLdN16 d a sc o off s
  | .ldI32 d a sc o off => Sys2Proof.Machine.execLdI32 d a sc o off s
  | .ldN32 d a sc o off => Sys2Proof.Machine.execLdN32 d a sc o off s
  | .ld64 d a sc o off => Sys2Proof.Machine.execLd64 d a sc o off s
  | .ldp d a sc o off => Sys2Proof.Machine.execLdp d a sc o off s
  | .st8 d a fa sc o off => Sys2Proof.Machine.execSt8 d a fa sc o off s
  | .st16 d a fa sc o off => Sys2Proof.Machine.execSt16 d a fa sc o off s
  | .st32 d a fa sc o off => Sys2Proof.Machine.execSt32 d a fa sc o off s
  | .st64 d a fa sc o off => Sys2Proof.Machine.execSt64 d a fa sc o off s
  | .stp d a fa sc o off => Sys2Proof.Machine.execStp d a fa sc o off s
  | .bkReq d a => Sys2Proof.Machine.execBkReq d a s
  | .bkCancel d a fa => Sys2Proof.Machine.execBkCancel d a fa s
  | .bkStat d a fa => Sys2Proof.Machine.execBkStat d a fa s
  | .bT n hint off => Sys2Proof.Machine.execBT n hint off s
  | .bF n hint off => Sys2Proof.Machine.execBF n hint off s
  | .j off => Sys2Proof.Machine.execJ off s
  | .jal off => Sys2Proof.Machine.execJal off s
  | .tView kd a => Sys2Proof.Machine.execTView kd a s
  | .tMm kd ka kb a => Sys2Proof.Machine.execTMm kd ka kb a s
  | .tEw kd ka kb a => Sys2Proof.Machine.execTEw kd ka kb a s
  | .tRed kd ka a => Sys2Proof.Machine.execTRed kd ka a s
  | .tTr kd ka a => Sys2Proof.Machine.execTTr kd ka a s
  | .tCvt kd ka a => Sys2Proof.Machine.execTCvt kd ka a s
  | .tPerm kd ka a => Sys2Proof.Machine.execTPerm kd ka a s
  | .tSt kv kc a => Sys2Proof.Machine.execTSt kv kc a s
  | .tPub kv kc a => Sys2Proof.Machine.execTPub kv kc a s
  | .tap kv kc a => Sys2Proof.Machine.execTap kv kc a s
  | .tDrop kd => Sys2Proof.Machine.execTDrop kd s
  | .nop => Sys2Proof.Machine.execNop s
  | .exit => Sys2Proof.Machine.execExit s
  | .trap n => Sys2Proof.Machine.execTrap n s
  | .tret => Sys2Proof.Machine.execTret s
  | .wake m => Sys2Proof.Machine.execWake m s
  | .fence k sc => Sys2Proof.Machine.execFence k sc s
  | .bar n sc => Sys2Proof.Machine.execBar n sc s
  | .pub a sc => Sys2Proof.Machine.execPub a sc s
  | .hint3C payload => Sys2Proof.Machine.execHint3C payload s
  | .hint3D payload => Sys2Proof.Machine.execHint3D payload s
  | .hint3E payload => Sys2Proof.Machine.execHint3E payload s
  | .cpNest w c => Sys2Proof.Machine.execCpNest w c s
  | .cpPack w c => Sys2Proof.Machine.execCpPack w c s
  | .cpUnpack w c => Sys2Proof.Machine.execCpUnpack w c s
  | .cpPermLoad w c => Sys2Proof.Machine.execCpPermLoad w c s
  | .cpPermApply w c => Sys2Proof.Machine.execCpPermApply w c s
  | .cpFill w c => Sys2Proof.Machine.execCpFill w c s
  | .cpAmoAdd w c => Sys2Proof.Machine.execCpAmoAdd w c s
  | .cpAmoMin w c => Sys2Proof.Machine.execCpAmoMin w c s
  | .cpAmoMax w c => Sys2Proof.Machine.execCpAmoMax w c s
  | .cpAmoAnd w c => Sys2Proof.Machine.execCpAmoAnd w c s
  | .cpAmoOr w c => Sys2Proof.Machine.execCpAmoOr w c s
  | .cpAmoXor w c => Sys2Proof.Machine.execCpAmoXor w c s
  | .cpAmoXchg w c => Sys2Proof.Machine.execCpAmoXchg w c s
  | .cpAmoCas w c => Sys2Proof.Machine.execCpAmoCas w c s
  | .mxWload w c => Sys2Proof.Machine.execMxWload w c s
  | .mxRun w c => Sys2Proof.Machine.execMxRun w c s
  | .mxZero w c => Sys2Proof.Machine.execMxZero w c s
  | .mxMov w c => Sys2Proof.Machine.execMxMov w c s
  | .mxMovRaw w c => Sys2Proof.Machine.execMxMovRaw w c s
  | .mxMovin w c => Sys2Proof.Machine.execMxMovin w c s
  | .vLd w c => Sys2Proof.Machine.execVLd w c s
  | .vLds w c => Sys2Proof.Machine.execVLds w c s
  | .vLdx w c => Sys2Proof.Machine.execVLdx w c s
  | .vSt w c => Sys2Proof.Machine.execVSt w c s
  | .vSts w c => Sys2Proof.Machine.execVSts w c s
  | .vStx w c => Sys2Proof.Machine.execVStx w c s
  | .vAdd w c => Sys2Proof.Machine.execVAdd w c s
  | .vSub w c => Sys2Proof.Machine.execVSub w c s
  | .vMul w c => Sys2Proof.Machine.execVMul w c s
  | .vFma w c => Sys2Proof.Machine.execVFma w c s
  | .vFms w c => Sys2Proof.Machine.execVFms w c s
  | .vMin w c => Sys2Proof.Machine.execVMin w c s
  | .vMax w c => Sys2Proof.Machine.execVMax w c s
  | .vAbs w c => Sys2Proof.Machine.execVAbs w c s
  | .vNeg w c => Sys2Proof.Machine.execVNeg w c s
  | .vAnd w c => Sys2Proof.Machine.execVAnd w c s
  | .vOr w c => Sys2Proof.Machine.execVOr w c s
  | .vXor w c => Sys2Proof.Machine.execVXor w c s
  | .vShl w c => Sys2Proof.Machine.execVShl w c s
  | .vShr w c => Sys2Proof.Machine.execVShr w c s
  | .vSra w c => Sys2Proof.Machine.execVSra w c s
  | .vCmp w c => Sys2Proof.Machine.execVCmp w c s
  | .vSel w c => Sys2Proof.Machine.execVSel w c s
  | .vCvt w c => Sys2Proof.Machine.execVCvt w c s
  | .vRed w c => Sys2Proof.Machine.execVRed w c s
  | .vScan w c => Sys2Proof.Machine.execVScan w c s
  | .vRcp w c => Sys2Proof.Machine.execVRcp w c s
  | .vRsq w c => Sys2Proof.Machine.execVRsq w c s
  | .vExp2 w c => Sys2Proof.Machine.execVExp2 w c s
  | .vLog2 w c => Sys2Proof.Machine.execVLog2 w c s
  | .vMov w c => Sys2Proof.Machine.execVMov w c s
  | .vBcast w c => Sys2Proof.Machine.execVBcast w c s
  | .vPerm w c => Sys2Proof.Machine.execVPerm w c s
  | .vmAnd w c => Sys2Proof.Machine.execVmAnd w c s
  | .vmOr w c => Sys2Proof.Machine.execVmOr w c s
  | .vmNot w c => Sys2Proof.Machine.execVmNot w c s
  | .saAdd w c => Sys2Proof.Machine.execSaAdd w c s
  | .saMin w c => Sys2Proof.Machine.execSaMin w c s
  | .saMax w c => Sys2Proof.Machine.execSaMax w c s
  | .saAnd w c => Sys2Proof.Machine.execSaAnd w c s
  | .saOr w c => Sys2Proof.Machine.execSaOr w c s
  | .saXchg w c => Sys2Proof.Machine.execSaXchg w c s
  | .saFlush w c => Sys2Proof.Machine.execSaFlush w c s
  | .chNop w c => Sys2Proof.Machine.execChNop w c s
  | .chLink w c => Sys2Proof.Machine.execChLink w c s
  | .chMark w c => Sys2Proof.Machine.execChMark w c s
  | .commandRetire core e seq => Sys2Proof.Machine.execCommandRetire core e seq s
  | .markerRetire core e => Sys2Proof.Machine.execMarkerRetire core e s
  | .templateSwap core e => Sys2Proof.Machine.execTemplateSwap core e s
  | .steal thief owner e seq => Sys2Proof.Machine.execSteal thief owner e seq s
  | .walkinSuspend core e => Sys2Proof.Machine.execWalkinSuspend core e s
  | .loadDelivery tag bad => Sys2Proof.Machine.execLoadDelivery tag bad s
  | .windowAccessArrival tag => Sys2Proof.Machine.execWindowAccessArrival tag s
  | .windowStoreAck tag => Sys2Proof.Machine.execWindowStoreAck tag s
  | .demandComplete core fw => Sys2Proof.Machine.execDemandComplete core fw s
  | .waitComplete core fw => Sys2Proof.Machine.execWaitComplete core fw s
  | .stallTimeout core fw => Sys2Proof.Machine.execStallTimeout core fw s
  | .promiseMiss core fw => Sys2Proof.Machine.execPromiseMiss core fw s
  | .notice core kind => Sys2Proof.Machine.execNotice core kind s
  | .bucketRefill core fw => Sys2Proof.Machine.execBucketRefill core fw s
  | .searchRound core bid => Sys2Proof.Machine.execSearchRound core bid s
  | .hold m => Sys2Proof.Machine.execHold m s
  | .held m => Sys2Proof.Machine.execHeld m s
  | .refused m => Sys2Proof.Machine.execRefused m s
  | .refusedFatal m => Sys2Proof.Machine.execRefusedFatal m s
  | .commit m => Sys2Proof.Machine.execCommit m s
  | .release m => Sys2Proof.Machine.execRelease m s
  | .cancel m => Sys2Proof.Machine.execCancel m s
  | .slip m => Sys2Proof.Machine.execSlip m s
  | .moved m => Sys2Proof.Machine.execMoved m s
  | .doneMsg m => Sys2Proof.Machine.execDoneMsg m s
  | .unknownBookingMessage die type => Sys2Proof.Machine.execUnknownBookingMessage die type s
  | .holdExpiry cal => Sys2Proof.Machine.execHoldExpiry cal s
  | .useStart cal => Sys2Proof.Machine.execUseStart cal s
  | .berthEnd cal => Sys2Proof.Machine.execBerthEnd cal s
  | .overrunYield cal => Sys2Proof.Machine.execOverrunYield cal s
  | .runningUseStop cal => Sys2Proof.Machine.execRunningUseStop cal s
  | .bkuFailstop die => Sys2Proof.Machine.execBkuFailstop die s
  | .calendarPoison cal => Sys2Proof.Machine.execCalendarPoison cal s
  | .dieReset die => Sys2Proof.Machine.execDieReset die s
  | .packageReset => Sys2Proof.Machine.execPackageReset s
  | .barrierCompletionAtDie tag die => Sys2Proof.Machine.execBarrierCompletionAtDie tag die s
  | .sluiceGroupRelease tag g => Sys2Proof.Machine.execSluiceGroupRelease tag g s
  | .rampStep core => Sys2Proof.Machine.execRampStep core s
  | .engineGate core e => Sys2Proof.Machine.execEngineGate core e s
  | .ungateComplete core e => Sys2Proof.Machine.execUngateComplete core e s
  | .preBerthUngate core e => Sys2Proof.Machine.execPreBerthUngate core e s
  | .saeEntryApply tag => Sys2Proof.Machine.execSaeEntryApply tag s
  | .atomicApply tag => Sys2Proof.Machine.execAtomicApply tag s
  | .homeWriteApply tag => Sys2Proof.Machine.execHomeWriteApply tag s
  | .dieCopyInvalidation tag die => Sys2Proof.Machine.execDieCopyInvalidation tag die s
  | .dieCopyEvict die line => Sys2Proof.Machine.execDieCopyEvict die line s
  | .cardRead q => Sys2Proof.Machine.execCardRead q s
  | .gangPlacement q => Sys2Proof.Machine.execGangPlacement q s
  | .checkpointComplete core => Sys2Proof.Machine.execCheckpointComplete core s
  | .resume idx => Sys2Proof.Machine.execResume idx s
  | .chunkAsk core => Sys2Proof.Machine.execChunkAsk core s
  | .runStart core => Sys2Proof.Machine.execRunStart core s
  | .retirement core => Sys2Proof.Machine.execRetirement core s
  | .firmwareUpdateRequest addr => Sys2Proof.Machine.execFirmwareUpdateRequest addr s
  | .saveAreaRestore => Sys2Proof.Machine.execSaveAreaRestore s
  | .wr p => Sys2Proof.Machine.execWr p s
  | .rd p => Sys2Proof.Machine.execRd p s
  | .rdrsp p => Sys2Proof.Machine.execRdrsp p s
  | .amo p => Sys2Proof.Machine.execAmo p s
  | .amorsp p => Sys2Proof.Machine.execAmorsp p s
  | .ack p => Sys2Proof.Machine.execAck p s
  | .nak p => Sys2Proof.Machine.execNak p s
  | .unknownOpc port p => Sys2Proof.Machine.execUnknownOpc port p s
  | .renq p => Sys2Proof.Machine.execRenq p s
  | .renqAns p => Sys2Proof.Machine.execRenqAns p s
  | .renqAckTimeout core => Sys2Proof.Machine.execRenqAckTimeout core s
  | .fenceMsg p => Sys2Proof.Machine.execFenceMsg p s
  | .fenceFtmoExpiry tag => Sys2Proof.Machine.execFenceFtmoExpiry tag s
  | .fenceAns p => Sys2Proof.Machine.execFenceAns p s
  | .fenceAnswerTimeout tag => Sys2Proof.Machine.execFenceAnswerTimeout tag s
  | .manifest p => Sys2Proof.Machine.execManifest p s
  | .manifestAnswer p => Sys2Proof.Machine.execManifestAnswer p s
  | .postAnswerTimeout tag => Sys2Proof.Machine.execPostAnswerTimeout tag s
  | .roundTimeout grp round => Sys2Proof.Machine.execRoundTimeout grp round s
  | .grant p => Sys2Proof.Machine.execGrant p s
  | .exchangeCopy tag => Sys2Proof.Machine.execExchangeCopy tag s
  | .exchangeCopyEnd tag => Sys2Proof.Machine.execExchangeCopyEnd tag s
  | .pairReport p => Sys2Proof.Machine.execPairReport p s
  | .roundEnd p => Sys2Proof.Machine.execRoundEnd p s
  | .abandon p => Sys2Proof.Machine.execAbandon p s
  | .heartbeatTimer => Sys2Proof.Machine.execHeartbeatTimer s
  | .heartbeat p => Sys2Proof.Machine.execHeartbeat p s
  | .takeoverTimeout => Sys2Proof.Machine.execTakeoverTimeout s
  | .takeover p => Sys2Proof.Machine.execTakeover p s
  | .barMsg p => Sys2Proof.Machine.execBarMsg p s
  | .timeMsg p => Sys2Proof.Machine.execTimeMsg p s
  | .flitSend port => Sys2Proof.Machine.execFlitSend port s
  | .flitReceive port f => Sys2Proof.Machine.execFlitReceive port f s
  | .replayRequest port seq => Sys2Proof.Machine.execReplayRequest port seq s
  | .keymark port f => Sys2Proof.Machine.execKeymark port f s
  | .portLaneShed port lanes => Sys2Proof.Machine.execPortLaneShed port lanes s
  | .portWidthRegain port => Sys2Proof.Machine.execPortWidthRegain port s
  | .railClockChange die quad step => Sys2Proof.Machine.execRailClockChange die quad step s
  | .trip1 die tj => Sys2Proof.Machine.execTrip1 die tj s
  | .trip1Clear die tj => Sys2Proof.Machine.execTrip1Clear die tj s
  | .trip2 die tj => Sys2Proof.Machine.execTrip2 die tj s
  | .trip2Clear die tj => Sys2Proof.Machine.execTrip2Clear die tj s
  | .trip3 die tj => Sys2Proof.Machine.execTrip3 die tj s
  | .trip4 die tj => Sys2Proof.Machine.execTrip4 die tj s
  | .sramEccError core unit addr unc => Sys2Proof.Machine.execSramEccError core unit addr unc s
  | .securityAlarm => Sys2Proof.Machine.execSecurityAlarm s
  | .rootOfTrustBoot image sig => Sys2Proof.Machine.execRootOfTrustBoot image sig s
  | .attestationQuote nonce => Sys2Proof.Machine.execAttestationQuote nonce s
  | .fcsrWrite core fw v => Sys2Proof.Machine.execFcsrWrite core fw v s
  | .issWrite core firm v => Sys2Proof.Machine.execIssWrite core firm v s
  | .icInvWrite core fw => Sys2Proof.Machine.execIcInvWrite core fw s
  | .dcInvWrite core fw => Sys2Proof.Machine.execDcInvWrite core fw s
  | .uctlWrite core v => Sys2Proof.Machine.execUctlWrite core v s
  | .ctxuDatAccess core v => Sys2Proof.Machine.execCtxuDatAccess core v s
  | .qBaseWrite core e ext v => Sys2Proof.Machine.execQBaseWrite core e ext v s
  | .qStatFltClear core e v => Sys2Proof.Machine.execQStatFltClear core e v s
  | .tkAccess core n op => Sys2Proof.Machine.execTkAccess core n op s
  | .caskScrWrite core v => Sys2Proof.Machine.execCaskScrWrite core v s
  | .meCadenceWrite core v => Sys2Proof.Machine.execMeCadenceWrite core v s
  | .xlatInvWrite core v => Sys2Proof.Machine.execXlatInvWrite core v s
  | .barPodnWrite v => Sys2Proof.Machine.execBarPodnWrite v s
  | .lqBaseWrite q v => Sys2Proof.Machine.execLqBaseWrite q v s
  | .lqTailDoorbell q v => Sys2Proof.Machine.execLqTailDoorbell q v s
  | .lqCtlWrite q v => Sys2Proof.Machine.execLqCtlWrite q v s
  | .clpCtlWrite port v => Sys2Proof.Machine.execClpCtlWrite port v s
  | .clpSaltWrite port slot v => Sys2Proof.Machine.execClpSaltWrite port slot v s
  | .registerWrite core fw n v => Sys2Proof.Machine.execRegisterWrite core fw n v s
  | .illegal w check => Sys2Proof.Machine.execIllegal w check s
  | .fetchFault prot => Sys2Proof.Machine.execFetchFault prot s
  | .decodeFault w e cause => Sys2Proof.Machine.execDecodeFault w e cause s
  | .correctedSingleBitError die => Sys2Proof.Machine.execCorrectedSingleBitError die s

end Sys2Proof.Machine
end

