-- ==== Sys2Proof/Machine/Issue.lean ====
section
/-!
DEFINITION. Issue (R139 to R143): fetching a word through the instruction cache (R173), the issue bucket and the notice
allowance (R140 to R142, R447), and one issue of a context. Also the state in which a word stands where the next step
fetches (log entry 5).
-/

namespace Sys2Proof.Machine

/-! ### Fetch -/

/-- What a fetch gives: a word, a fault at the PC, or a wait for another package. -/
inductive Fetch where
  | word (s : State) (w : W32)
  | fault (s : State) (t : Trap)
  | wait (s : State)
deriving DecidableEq, Repr

/-- A fetched word enters the instruction cache, which holds 64 KiB (R18, R143). -/
def State.keepWord (s : State) (k key : Nat) (bs : List Byte) : Fetch :=
  let w : W32 := BitVec.ofNat 32 (leNat bs)
  let c := s.core k
  .word (s.setCore k { c with icache := ((key, w) :: c.icache).take 16384 }) w

/-- The key of a word of another package in the instruction cache, apart from those of this package, which are keys of homes. -/
def remoteKey (pa : Nat) : Nat := 2 ^ 56 + pa

/-- Fetch a word of another package's memory (R235, R406): an RD leaves, and the fetch waits for its answer; a refusal or a NAK is a
trap at the PC (log entry 8). -/
def State.fetchRemote (s : State) (k : Nat) (fw : Bool) (va : VAddr) (p : Place) (pa : Nat) : Fetch :=
  let mine (f : Flight) : Bool :=
    match f with
    | .remoteRead r => r.core = k && r.fw = fw && r.eng.isNone && r.place = p && r.n = 4
    | _ => false
  match s.flightTags mine with
  | [] =>
    let r := s.addFlight (.remoteRead { core := k, fw := fw, eng := none, place := p, n := 4, nak := 0, data := none })
    .wait (r.1.send (rdPacket s.pkg k r.2 (s.core k).asn 4 p))
  | t :: _ =>
    match s.flight t with
    | some (.remoteRead r) =>
      match r.data with
      | some bs => (s.endFlight t).keepWord k (remoteKey pa) bs
      | none =>
        if r.nak = 0 then .wait s
        else if r.nak = 258 then .fault (s.endFlight t) (mkTrap .ecc (va.toNat % 2 ^ 64) (va.toNat % 2 ^ 64) 0 0)
        else .fault (s.endFlight t) (if r.nak = 257 then fetchTrap .prot va else mkTrap .fabricNak r.nak (va.toNat % 2 ^ 64) 0 0)
    | _ => .wait s

/-- Fetch the word at an address for a context (R143, R173): from the instruction cache where it holds the word, else from
memory. -/
def State.fetch (s : State) (k : Nat) (fw : Bool) (va : VAddr) : Fetch :=
  match s.translate k fw .fetch va with
  | (s, .page) => .fault s (fetchTrap .page va)
  | (s, .prot) => .fault s (fetchTrap .prot va)
  | (s, .wait) => .wait s
  | (s, .ok p _) =>
    let cached (key : Nat) (miss : Fetch) : Fetch :=
      match (s.core k).icache.find? fun e => e.1 = key with
      | some e => .word s e.2
      | none => miss
    match p with
    | .home key => cached key (let r := s.readLine k (.scalar fw) key 4; r.1.keepWord k key r.2)
    | .remote _ pa => cached (remoteKey pa) (s.fetchRemote k fw va p pa)
    | _ => .fault s (fetchTrap .prot va)

/-! ### Buckets (R140 to R142) -/

/-- Tokens an instruction costs (R140). -/
def cost (i : Instr) : Nat :=
  match i with
  | .mul .. | .mulh .. | .mulhn .. | .ldp .. | .stp .. => 2
  | .div .. | .divn .. | .rem .. | .remn .. => 34
  | .fdivF32 .. | .fsqrtF32 .. => 12
  | .fdivF64 .. | .fsqrtF64 .. => 24
  | _ => 1

/-- The issue test for a cost (R142). -/
def Bucket.canIssue (b : Bucket) (c : Nat) : Bool :=
  decide (b.debt = 0) && (if c ≤ b.cap then decide (c ≤ b.bal) else decide (b.bal = b.cap))

/-- The bucket after an issue of a cost (R142). -/
def Bucket.pay (b : Bucket) (c : Nat) : Bucket :=
  if c ≤ b.cap then { b with bal := b.bal - c } else { b with debt := c - b.cap, bal := 0 }

/-- Whether a context may issue a word of a cost: from the notice allowance, else from its bucket (R447); what is paid already
costs nothing. -/
def Ctx.mayIssue (c : Ctx) (n : Nat) : Bool := decide (n = 0) || decide (0 < c.noticeLeft) || c.bucket.canIssue n

/-- Charge a word (R142, R447). -/
def Ctx.charge (c : Ctx) (n : Nat) : Ctx :=
  if n = 0 then c
  else if 0 < c.noticeLeft then { c with noticeLeft := c.noticeLeft - 1 } else { c with bucket := c.bucket.pay n }

/-! ### One issue -/

/-- Whether a context has an instruction to issue: its core and context run, its quad's clock is not stopped (R462), firmware is
verified (R48), and no held operation is waiting. The firmware
context never issues between a taken branch of the user context and its delay slot (R139). -/
def State.live (s : State) (k : Nat) (fw : Bool) : Bool :=
  let c := s.core k
  let x := c.ctx fw
  !s.halted && !s.powerOff && !c.dead && !x.halted && !c.stopped && (!fw || s.verified) && (fw || c.run || (x.slot.isSome && !x.blocked))
    && (!fw || c.user.slot.isNone || c.user.blocked || c.user.op.isSome || c.user.halted)
    && (x.op.isNone || x.resumed || decide (x.op = some .tailed))

/-- The tick of the core's issue slot that a context is offered: one instruction a cycle (R139). -/
def State.slotTick (s : State) (k : Nat) (fw : Bool) : State :=
  (s.passTime (max (s.issuedAt.get 0 k) (s.issuedAt.get 0 (slotKey k fw)) - s.tb)).turnTaken k fw

/-- A context takes the issue slot of its core. -/
def State.takeSlot (s : State) (k : Nat) : State := { s with issuedAt := s.issuedAt.put 0 k (s.tb + 1) }

/-- After a word has issued, the slot is taken; one that waits at issue leaves the slot to the other context (R139), and its
tokens are given back: cycles spent blocked are not charged (R140). -/
def State.unpay (s : State) (old : Ctx) : State :=
  if s.cur.blocked then s.setCur { s.cur with bucket := old.bucket, noticeLeft := old.noticeLeft } else s.takeSlot s.focusCore

/-- Issue in the executing context: the word is charged, it has its effect, and one that waits is not charged. -/
def State.issueWith (s : State) (w : W32) (n : Nat) (f : State → Host.Outcome State Fault Refusal) :
    Host.Outcome State Fault Refusal :=
  let c := s.cur
  match f { s.setCur { c.charge n with blocked := false } with word := w } with
  | .next t => .next (t.unpay c)
  | .fault f => .fault f
  | .refused r => .refused r

/-- Tokens that the word at the PC costs: one whose forcing is done was paid for when it began (R140). -/
def Ctx.due (c : Ctx) (i : Instr) : Nat := if c.resumed then 0 else cost i

/-- Issue a fetched word: an instruction, or a word that fails a check of R97, which costs one token too (R140). A context that
cannot pay leaves the slot. -/
def State.issueWord (s : State) (w : W32) : Host.Outcome State Fault Refusal :=
  match decodeWord w with
  | .ok i => if s.cur.mayIssue (s.cur.due i) then s.issueWith w (s.cur.due i) (exec i) else .next s
  | .error n => if s.cur.mayIssue 1 then s.issueWith w 1 (execIllegal w n) else .next s

/-- The word at the PC of a context can be paid for, and does not wait at issue. -/
def State.canIssue (s : State) (k : Nat) (fw : Bool) : Bool :=
  let s := { s with focusCore := k, focusFw := fw }
  match s.fetch k fw s.cur.pc with
  | .word s w =>
    s.cur.mayIssue (match decodeWord w with | .ok i => s.cur.due i | .error _ => 1)
      && (match s.issueWord w with | .next t => !(t.ctx k fw).blocked | _ => false)
  | .fault s _ => s.cur.mayIssue 1
  | .wait _ => false

/-- Firmware has an instruction ready in the running cycle, and its bucket allows it: the user context waits for a later one
(R139). A word that would wait leaves the slot to the user context. -/
def State.firmFirst (s : State) (k : Nat) : Bool :=
  decide (s.issuedAt.get 0 (slotKey k true) ≤ s.tb) && s.live k true && s.canIssue k true

/-- One issue of a context in the slot of its core: a held notice, else the word at its PC. A fetch that faults has no word; it costs
one token, as a word that traps at decode does (DESIGN CHOICE, log entry 70). -/
def State.issue (s : State) (k : Nat) (fw : Bool) : Host.Outcome State Fault Refusal :=
  let s := { s with focusCore := k, focusFw := fw }
  if !fw && s.takesNotice k then .next (s.takeNotice k)
  else if !s.live k fw then .next s
  else
    let s := s.slotTick k fw
    if !fw && s.firmFirst k then .next s
    else
      match s.fetch k fw s.cur.pc with
      | .wait s => .next s
      | .fault s t => if s.cur.mayIssue 1 then s.issueWith 0 1 (execFetchTrap t) else .next s
      | .word s w => s.issueWord w

/-! ### A word where the next step fetches (log entry 5) -/

/-- Bytes of the page tables and the code page that stand for a loaded program: L5, L4 and L3 tables at 1 MiB, 2 MiB and
3 MiB of far memory of IOD0, a 2 GiB leaf over near memory of CD0 for virtual addresses below 2 GiB, and the word at
0x1000. -/
def loadedMem (w : Nat) : FMap Byte :=
  let far := 8 * 2 ^ 41
  let pte (attrs pa : Nat) : List Byte := leBytes 8 (attrs * 2 ^ 56 + pa)
  let m := writeBytes [] 0x1000 (leBytes 4 w)
  let m := writeBytes m (far + 0x100000) (pte 0x80 (0x7FF * 2 ^ 45 + far + 0x200000))
  let m := writeBytes m (far + 0x200000) (pte 0x80 (0x7FF * 2 ^ 45 + far + 0x300000))
  writeBytes m (far + 0x300000) (pte 0xFC (0x7FF * 2 ^ 45))

/-- A state in which the user context of core 0 runs a program of a job placed by system software, its next word at the
PC: what withFetchWord sets. -/
def State.placeWord (s : State) (w : Nat) : State :=
  let c := s.core 0
  { s with
    mem := loadedMem w
    focusCore := 0
    focusFw := false
    agenda := []
    cores := s.cores.put Core.reset 0
      { c with
        run := true
        root := (0x7FF * 2 ^ 45 + 8 * 2 ^ 41 + 0x100000) / 65536
        tlb := []
        icache := []
        user :=
          { c.user with
            pc := 0x1000, slot := none, op := none, halted := false, blocked := false, bucket := Bucket.reset 15 64 } } }

end Sys2Proof.Machine
end

