-- ==== Sys2Proof/Machine/Schedule.lean ====
section
/-!
DEFINITION. The schedule of the model (log entry 3): what a turn does, and what comes when the agenda names none: the contexts
whose issue slot of the running tick is free issue one after another; then a tick passes, and every step of the hardware that
is due happens.
-/

namespace Sys2Proof.Machine

/-- A step of the hardware, where it answers a next state. -/
def State.after (s : State) (f : State → Host.Outcome State Fault Refusal) : State := nextOr s (f s)

/-- A step for each member of a list. -/
def State.afterEach {α : Type} (s : State) (l : List α) (f : α → State → Host.Outcome State Fault Refusal) : State :=
  l.foldl (fun s a => s.after (f a)) s

/-! ### What is due in a tick -/

/-- A thing in flight arrives, where it may. -/
def State.flightTurn (s : State) (tag : Nat) : State :=
  match s.flight tag with
  | some (.load _) => (s.after (execWindowAccessArrival tag)).after (execLoadDelivery tag false)
  | some (.store _) => (s.after (execWindowAccessArrival tag)).after (execHomeWriteApply tag)
  | some (.amo _) => s.after (execAtomicApply tag)
  | some (.sae _) => s.after (execSaeEntryApply tag)
  | some (.winAck ..) => s.after (execWindowStoreAck tag)
  | some (.inval _ d _ _) => s.after (execDieCopyInvalidation tag d)
  | _ => s

/-- An entry of a queue: its decode fault, or the row its built command names. -/
def State.entryTurn (s : State) (k : Nat) (e : Eng) (t : Entry) : State :=
  let w : CmdAt := { core := k, seq := t.seq }
  match t.decodeFault e with
  | some f => s.after (execDecodeFault w e f)
  | none =>
    match decodeCmd e t.control w (t.built.getD []) with
    | .ok i => s.after (exec i)
    | .error _ => s

/-- An engine's gating, and the command that it runs: the walk-in stops or goes on, and a running command comes to its next tile
boundary. -/
def State.engineRuns (s : State) (k : Nat) (e : Eng) : State :=
  let s := ((s.after (execUngateComplete k e)).after (execPreBerthUngate k e)).after (execWalkinSuspend k e)
  (((s.core k).eng e).q.filter fun t => t.isCommand e && t.started.isSome).foldl (fun s t => s.entryTurn k e t) s

/-- An engine's queue, from its head on: markers, chain control, decode faults and retirements, whose signals are applied (R205). -/
def State.engineRetires (s : State) (k : Nat) (e : Eng) : State :=
  let s := ((s.core k).eng e).q.foldl (fun s t =>
    match t.kind with
    | .qmark _ => s.after (execMarkerRetire k e)
    | _ =>
      let s := if !t.isCommand e || (t.decodeFault e).isSome then s.entryTurn k e t else s
      if t.isCommand e then s.after (execCommandRetire k e t.seq) else s) s
  s.after (execTemplateSwap k e)

/-- The command at the head of an engine's queue starts where it may (R206). -/
def State.engineStarts (s : State) (k : Nat) (e : Eng) : State :=
  match ((s.core k).eng e).headCommand e with
  | some t => if t.started.isNone && (t.decodeFault e).isNone then s.entryTurn k e t else s
  | none => s

/-- An engine as a thief: it tries the queues of its quad (R210). -/
def State.engineSteals (s : State) (k : Nat) (e : Eng) : State :=
  (quadCores k).foldl (fun s o => match s.stealNext o e with | some t => s.after (execSteal k o e t.seq) | none => s) s

/-- An engine and its queue, by itself. -/
def State.engineTurn (s : State) (k : Nat) (e : Eng) : State :=
  ((((s.engineRuns k e).engineRetires k e).engineStarts k e).engineSteals k e).after (execEngineGate k e)

/-- The engines of a core, in the order in which they take (R205). -/
def engines : List Eng := [.ce, .me, .ve, .sae]

/-- Every engine of the package once (R205, R206): commands run; then signals are applied; then the cores' own commands start; then
thieves take, in rising core number. -/
def State.enginesTurn (s : State) : State :=
  let each (f : State → Nat → Eng → State) (s : State) : State :=
    (s.cores.map (·.1)).foldl (fun s k => engines.foldl (fun s e => f s k e) s) s
  each State.engineSteals (each State.engineStarts (each State.engineRetires (each State.engineRuns s)))

/-- A calendar. -/
def State.calTurn (s : State) (c : Cal) : State :=
  let s := (s.after (execHoldExpiry c)).after (execBerthEnd c)
  ((s.after (execUseStart c)).after (execOverrunYield c)).after (execRunningUseStop c)

/-- The calendar of a number of the model. -/
def calOfKey (n : Nat) : Cal :=
  { kind := match n / 1024 with | 0 => .me | 1 => .ce | 2 => .mcg | _ => .port, idx := n % 1024 }

/-- A context that waits is sampled at the end of the cycle: a `wait` completes in the cycle in which its condition becomes true, and
the word after it issues in the next one (R147, R383, R474). -/
def State.waitTurn (s : State) (k : Nat) (fw : Bool) : State :=
  match (s.ctx k fw).op with
  | some (.wait ..) =>
    let focus := (s.focusCore, s.focusFw)
    let s := ((s.after (execWaitComplete k fw)).after (execPromiseMiss k fw)).after (execStallTimeout k fw)
    let s := { s with focusCore := focus.1, focusFw := focus.2 }
    if (s.ctx k fw).op.isNone then s.turnTaken k fw else s
  | _ => s

/-- Forced work of a core: the demands of its contexts, and what its commands wait for. -/
def State.forcedTurn (s : State) (k : Nat) : State :=
  ((s.after (execDemandComplete k true)).after (execDemandComplete k false)).forcingTick k

/-- A core: gating and ramp, requests and runs. -/
def State.coreTurn (s : State) (k : Nat) : State :=
  let s := engines.foldl (fun s e => s.after (execEngineGate k e)) s
  let s := (s.after (execRampStep k)).after (execRenqAckTimeout k)
  let s := s.afterEach ((s.core k).books.map (·.id)) fun b => execSearchRound k b
  let s := (s.after (execCheckpointComplete k)).after (execRetirement k)
  (s.after (execChunkAsk k)).after (execRunStart k)

/-- A booking message that is due. -/
def State.msgTurn (s : State) (f : MsgF) : State :=
  if s.tb < f.due then s
  else
    s.after (match f.type_ with
      | .hold => execHold f.msg
      | .held => execHeld f.msg
      | .refused => execRefused f.msg
      | .refusedFatal => execRefusedFatal f.msg
      | .commit => execCommit f.msg
      | .release => execRelease f.msg
      | .cancel => execCancel f.msg
      | .slip => execSlip f.msg
      | .moved => execMoved f.msg
      | .done => execDoneMsg f.msg)

/-- Barrier waves and sluices, fences, posts, copies and rounds. -/
def State.fabricTurn (s : State) : State :=
  let s := s.waves.foldl (fun s w => s.afterEach w.dies fun d => execBarrierCompletionAtDie w.tag d) s
  let s := s.sluices.foldl (fun s x => s.afterEach x.left fun g => execSluiceGroupRelease x.tag g) s
  let s := s.afterEach s.fenceDst fun f => execFenceFtmoExpiry f.tag
  let s := s.afterEach s.fenceSrc fun f => execFenceAnswerTimeout f.tag
  let s := s.afterEach s.posts fun p => execPostAnswerTimeout p.tag
  let s := s.afterEach s.copies fun c => execExchangeCopy c.tag
  let s := s.afterEach s.copies fun c => execExchangeCopyEnd c.tag
  let s := s.afterEach (s.hmRounds.flatMap Sys2Proof.Machine.HmRound.tides) fun t => execSearchRound 512 t.xid
  let s := s.afterEach s.hmRounds fun r => execRoundTimeout r.grp r.round
  (s.after execHeartbeatTimer).after execTakeoverTimeout

/-- Packets that the package has sent to itself, and those for it that wait. -/
def State.selfTurn (s : State) : State :=
  (s.out.filter fun p => s.ownPkg p.dpkg).foldl (fun s p => s.packetIn 0 p) s

/-- Links of the ports that are enabled, at full width where traffic waits (R466). -/
def State.portTurn (s : State) : State := (s.afterEach (s.ports.map (·.1)) execPortWidthRegain).afterEach (s.ports.map (·.1)) execFlitSend

/-- Launch queues, saved runs, and what is owed to another package's memory. -/
def State.launchTurn (s : State) : State :=
  let qs := s.lqs.map (·.1)
  let s := (s.afterEach qs execCardRead).afterEach qs execGangPlacement
  (s.afterEach (List.range s.saved.length).reverse execResume).writeOwed

/-- A step for every core that holds anything. -/
def State.eachCore (s : State) (f : State → Nat → State) : State := (s.cores.map (·.1)).foldl f s

/-- The calendars of the package. -/
def State.calendarsTurn (s : State) : State :=
  (s.dies.flatMap fun p => p.2.cals.map (·.1)).foldl (fun s c => s.calTurn (calOfKey c)) s

/-- What is in flight: accesses, and arrivals at barriers. -/
def State.flightsTurn (s : State) : State :=
  ((s.flights.map (·.1)).foldl (fun s t => s.flightTurn t) s).settleArrivals

/-- The booking units at the end of a cycle: the requests of their own cores, and then the messages that have come in it (R62). -/
def State.bookingTurn (s : State) : State :=
  let s := (s.cores.map (·.1)).foldl (fun s k => s.afterEach ((s.core k).books.map (·.id)) fun b => execSearchRound k b) s
  let s := s.afterEach (s.hmRounds.flatMap Sys2Proof.Machine.HmRound.tides) fun t => execSearchRound 512 t.xid
  s.msgs.foldl (fun s f => s.msgTurn f) s

/-- A tick ends, the next begins, and every step of the hardware that is due happens (log entry 3). -/
def State.tick (s : State) : State :=
  let s := if s.powerOff then s else s.bookingTurn
  let s := s.eachCore fun s k => (s.waitTurn k true).waitTurn k false
  let s := (s.passTime 1).sendDue
  if s.powerOff then s
  else
    let s := (s.calendarsTurn.flightsTurn.eachCore State.forcedTurn).enginesTurn
    (s.eachCore State.coreTurn).fabricTurn.selfTurn.portTurn.launchTurn

/-! ### Turns -/

/-- Run one turn: a context issues, a step of the hardware happens, an engine advances, or time passes. -/
def runTurn (s : State) (t : Turn) : Host.Outcome State Fault Refusal :=
  match t with
  | .issue k fw => s.issue k fw
  | .event i => exec i s
  | .engine k e => .next (s.engineTurn k e)
  | .ticks n => .next (s.passTime n)

/-- The issue slot of a core and a context's turn at it are free in the running tick (R139), and the context has a word to
issue. -/
def State.ready (s : State) (k : Nat) (fw : Bool) : Bool :=
  decide (s.issuedAt.get 0 k ≤ s.tb) && decide (s.issuedAt.get 0 (slotKey k fw) ≤ s.tb)
    && ((!fw && s.takesNotice k) || s.live k fw)

/-- The context that issues next: on the core that issued last while one of its contexts is ready, else on the lowest core;
firmware first (R139). -/
def State.nextContext (s : State) : Option (Nat × Bool) :=
  (s.focusCore :: s.cores.map (·.1)).findSome? fun k =>
    if s.ready k true then some (k, true) else if s.ready k false then some (k, false) else none

/-- The turn that comes when the agenda names none. -/
def autoTurn (s : State) : Host.Outcome State Fault Refusal :=
  match s.nextContext with
  | some (k, fw) => s.issue k fw
  | none => .next s.tick

end Sys2Proof.Machine
end

