-- ==== Sys2Proof/Machine/Step.lean ====
section
/-!
DEFINITION. One step of the package: the head of the agenda, or the turn that the model's schedule gives (log entry 3).
-/

namespace Sys2Proof.Machine

/-- One step. -/
def step (s : State) : Host.Outcome State Fault Refusal :=
  match s.agenda with
  | t :: ts => runTurn { s with agenda := ts } t
  | [] => autoTurn s

/-- `s` with an instruction word stored where the next step fetches, in the user context of core 0 (log entry 5). -/
def State.withFetchWord (s : State) (nbits w : Nat) : State := s.placeWord (w % 2 ^ nbits)

end Sys2Proof.Machine
end

