-- ==== Sys2Proof/Safety.lean ====
section
/-!
DEFINITION. What the claims are stated in: the invariant of memory, when a word's operands can be read, what a word that has
completed leaves as it was, and when a command can start.
-/

namespace Sys2Proof.Machine

/-! ### Invariants -/

/-- Memory is in its canonical form (log entry 2). -/
def State.MemInv (s : State) : Prop := Memory.wf s.mem = true

/-- The byte of physical memory at a key. -/
def State.byteAt (s : State) (key : Nat) : Byte := FMap.get 0 s.mem key

/-! ### Operands of a word -/

/-- The executing context reads the value `v` of a scalar register and does not wait or trap (R130, R169): it is FULL and holds
no mark. -/
def State.Reads (s : State) (r : Reg) (v : W64) : Prop :=
  s.cur.getFE r = .full ∧ s.cur.getMark r = none ∧ s.cur.getS r = v

/-- A scalar destination is not PENDING (R131). -/
def State.Takes (s : State) (d : Reg) : Prop := s.cur.getFE d ≠ .pending

/-- The executing word is not in a delay slot (R100). -/
def State.NoSlot (s : State) : Prop := s.cur.slot = none

/-! ### What a completed word leaves -/

/-- The context goes on at the word after, or after a delay slot at the branch's target (R98). -/
def Ctx.Moved (c d : Ctx) : Prop := d.pc = c.slot.getD (c.pc + 4) ∧ d.slot = none ∧ d.op = none

/-- Everything outside the executing context is as it was: memory, the other context, every other core, every unit. -/
def State.OnlyCtx (s t : State) : Prop := t = s.setCur t.cur

/-- A context differs from another at most in its register files and in where it goes on: its flags, status, save registers,
handler address, counters, buckets and notices are as they were. -/
def Ctx.OnlyRegs (c d : Ctx) : Prop :=
  d = { c with s := d.s, fe := d.fe, mark := d.mark, a := d.a, p := d.p, pc := d.pc, slot := d.slot, op := d.op }

/-- Every scalar register but those of a list is as it was: value, full/empty state and mark. -/
def Ctx.KeepsS (c d : Ctx) (l : List Reg) : Prop :=
  ∀ r, r ∉ l → d.getS r = c.getS r ∧ d.getFE r = c.getFE r ∧ d.getMark r = c.getMark r

/-- Every address register but those of a list is as it was. -/
def Ctx.KeepsA (c d : Ctx) (l : List AReg) : Prop := ∀ r, r ∉ l → d.getA r = c.getA r

/-- Every predicate but those of a list is as it was. -/
def Ctx.KeepsP (c d : Ctx) (l : List PReg) : Prop := ∀ r, r ∉ l → d.getP r = c.getP r

/-- A scalar register holds a value that its producer has delivered; `s0` reads zero whatever is written to it (R92, R131). -/
def Ctx.Holds (c : Ctx) (r : Reg) (v : W64) : Prop :=
  c.getS r = (if r = 0 then 0 else v) ∧ c.getFE r = .full ∧ c.getMark r = none

/-- A word has written `v` to `sD` and nothing else: the frame of every word with one scalar result. -/
def State.WroteS (s : State) (d : Reg) (v : W64) (t : State) : Prop :=
  s.OnlyCtx t ∧ s.cur.OnlyRegs t.cur ∧ s.cur.Moved t.cur ∧ t.cur.Holds d v
    ∧ s.cur.KeepsS t.cur [d] ∧ s.cur.KeepsA t.cur [] ∧ s.cur.KeepsP t.cur []

/-- A word has written `v` to `aD` and nothing else. -/
def State.WroteA (s : State) (d : AReg) (v : VAddr) (t : State) : Prop :=
  s.OnlyCtx t ∧ s.cur.OnlyRegs t.cur ∧ s.cur.Moved t.cur ∧ t.cur.getA d = v
    ∧ s.cur.KeepsS t.cur [] ∧ s.cur.KeepsA t.cur [d] ∧ s.cur.KeepsP t.cur []

/-- A word has written `v` to `pD` and nothing else; `p0` reads true whatever is written to it (R92). -/
def State.WroteP (s : State) (d : PReg) (v : Bool) (t : State) : Prop :=
  s.OnlyCtx t ∧ s.cur.OnlyRegs t.cur ∧ s.cur.Moved t.cur ∧ t.cur.getP d = (if d = 0 then true else v)
    ∧ s.cur.KeepsS t.cur [] ∧ s.cur.KeepsA t.cur [] ∧ s.cur.KeepsP t.cur [d]

/-- The accrued flags of a context after a word: those it had and the word's own (R182). -/
def Ctx.Raised (c d : Ctx) (f : FlagSet) : Prop :=
  d.nv = (c.nv || f.nv) ∧ d.dz = (c.dz || f.dz) ∧ d.of = (c.of || f.of) ∧ d.uf = (c.uf || f.uf) ∧ d.nx = (c.nx || f.nx)

/-- `OnlyRegs`, but for the accrued flags. -/
def Ctx.OnlyRegsAndFlags (c d : Ctx) : Prop :=
  ({ c with nv := d.nv, dz := d.dz, of := d.of, uf := d.uf, nx := d.nx } : Ctx).OnlyRegs d

/-- A floating word has written `v` to `sD`, raised its flags, and done nothing else. -/
def State.WroteF (s : State) (d : Reg) (v : W64) (f : FlagSet) (t : State) : Prop :=
  s.OnlyCtx t ∧ s.cur.OnlyRegsAndFlags t.cur ∧ s.cur.Raised t.cur f ∧ s.cur.Moved t.cur ∧ t.cur.Holds d v
    ∧ s.cur.KeepsS t.cur [d] ∧ s.cur.KeepsA t.cur [] ∧ s.cur.KeepsP t.cur []

/-- A floating comparison has written `v` to `pD`, raised NV where it is invalid, and done nothing else. -/
def State.WroteFP (s : State) (d : PReg) (v nv : Bool) (t : State) : Prop :=
  s.OnlyCtx t ∧ s.cur.OnlyRegsAndFlags t.cur ∧ s.cur.Raised t.cur { FlagSet.none with nv := nv } ∧ s.cur.Moved t.cur
    ∧ t.cur.getP d = (if d = 0 then true else v)
    ∧ s.cur.KeepsS t.cur [] ∧ s.cur.KeepsA t.cur [] ∧ s.cur.KeepsP t.cur [d]

/-- A word has changed nothing but where its context goes on. -/
def State.Passed (s t : State) : Prop :=
  s.OnlyCtx t ∧ s.cur.Moved t.cur ∧ t.cur = { s.cur with pc := t.cur.pc, slot := none, op := none }

/-- A branch or jump is taken: the delay slot comes next, the target after it (R98), and nothing else has changed. -/
def State.Branched (s : State) (tgt : VAddr) (t : State) : Prop :=
  s.OnlyCtx t ∧ t.cur = { s.cur with pc := s.cur.pc + 4, slot := some tgt, op := none }

/-- The state in which a counted word has its effect: the write-sequence counter has risen (R304). -/
def State.counted (s : State) : State :=
  if s.focusFw || s.cur.resumed then s else s.setCurCore { s.curCore with wseq := s.curCore.wseq + 1 }

/-- No pending cask of the core reads what a counted word writes, so that nothing is forced (R305, R306). -/
def State.NoAlias (s : State) (ws : List WRange) : Prop :=
  s.focusFw = true ∨ s.cur.resumed = true
    ∨ ∀ w ∈ ws, s.counted.aliasSets s.focusCore s.counted.curCore.wseq w = []

/-- An ordered access that must follow every earlier access of its context finds them performed (R165). -/
def State.MayOrder (s : State) (sc : Scope) (o : MemOrd) : Prop :=
  ordered o sc = true → s.released s.focusCore s.focusFw sc = true

/-- The address of a scalar access (R161). -/
def State.Address (s : State) (a : AReg) (off : BitVec 10) (size : Nat) : VAddr :=
  BitVec.ofInt 72 ((s.cur.getA a).toNat + off.toInt * size)

/-- An address leads to byte `x` of the core's own scratchpad, open to the context (R227, R277). -/
def State.Own (s : State) (acc : Acc) (va : VAddr) (n x : Nat) : Prop :=
  va.toNat % n = 0 ∧ (∃ win, s.translate s.focusCore s.focusFw acc va = (s, .ok (.spad s.focusCore x) win))
    ∧ s.acquiring s.focusCore s.focusFw = false ∧ (s.focusFw = true ∨ s.curCore.inScratch x n = false)

/-- An address leads to a place that is not the core's own scratchpad, through a window where it names one, by a translation that leaves
the state `s'`; no acquire load holds the access (R165). A load's window is not looked at (`none`). -/
def State.Elsewhere (s : State) (acc : Acc) (va : VAddr) (n : Nat) (p : Place) (win : Option Nat) (s' : State) : Prop :=
  va.toNat % n = 0 ∧ (∃ w, s.translate s.focusCore s.focusFw acc va = (s', .ok p w) ∧ (acc = .store → w = win))
    ∧ (∀ x, p ≠ .spad s.focusCore x) ∧ s'.acquiring s.focusCore s.focusFw = false

/-- A scalar load has left (R162): it is in flight under a tag, its registers are PENDING, and the context has gone on. -/
def State.LeftLoad (s : State) (tag : Nat) (d : Reg) (n : Nat) (sx : Bool) (o : MemOrd) (sc : Scope) (p : Place) (t : State) : Prop :=
  (∃ l : LoadF, t.flight tag = some (.load l) ∧ l.core = s.focusCore ∧ l.fw = s.focusFw ∧ l.d = d ∧ l.size = n
    ∧ l.sext = sx ∧ l.place = p ∧ l.data = none ∧ (l.ord ≠ .relaxed ↔ ordered o sc = true))
  ∧ t.cur.getFE d = (if d = 0 then .full else .pending)
  ∧ (n = 16 → t.cur.getFE (d + 1) = (if d + 1 = 0 then .full else .pending))
  ∧ s.cur.Moved t.cur ∧ ({ s.cur with scLast := t.cur.scLast } : Ctx).OnlyRegs t.cur
  ∧ (∀ r, t.cur.getS r = s.cur.getS r)
  ∧ s.cur.KeepsS t.cur (if n = 16 then [d, d + 1] else [d]) ∧ s.cur.KeepsA t.cur [] ∧ s.cur.KeepsP t.cur []
  ∧ t.mem = s.mem

/-- No engine of a list has a fault that the executing context must report first (R438, R443). -/
def State.NoFault (s : State) (es : List Eng) : Prop :=
  s.focusFw = true ∨ ∀ e ∈ es, (s.curCore.eng e).pendingFault = none

/-- Firmware may use per-core state: the user context does not run (R133). -/
def State.MayUseCore (s : State) : Prop := s.focusFw = true → s.curCore.run = false

/-- The executing word reads `n` bytes of a descriptor at an address for the first time, leaving the state `s'` (R279). -/
def State.Desc (s : State) (va : VAddr) (n : Nat) (bs : List Byte) (s' : State) : Prop :=
  s.cur.descRead va n = none ∧ va.toNat % 16 = 0 ∧ s.readGranules s.focusCore s.focusFw va (n / 16) = .ok s' bs

/-- A context has gone on past a word that has put a value in a register, and nothing else of its registers has changed. -/
def Ctx.Took (c d : Ctx) (r : Reg) (v : W64) : Prop :=
  c.Moved d ∧ d.Holds r v ∧ c.KeepsS d [r] ∧ c.KeepsA d [] ∧ c.KeepsP d []

/-- A context has gone on past a word whose result is still to come (R129): its register is PENDING. -/
def Ctx.Awaits (c d : Ctx) (r : Reg) : Prop :=
  c.Moved d ∧ d.getFE r = (if r = 0 then .full else .pending) ∧ c.KeepsS d [r] ∧ c.KeepsA d [] ∧ c.KeepsP d []

/-- A context has gone on past a word and no register of it has changed. -/
def Ctx.WentOn (c d : Ctx) : Prop := c.Moved d ∧ c.KeepsS d [] ∧ c.KeepsA d [] ∧ c.KeepsP d []

/-- A context stays at its word, with its registers as they were. -/
def Ctx.Stays (c d : Ctx) : Prop :=
  d.pc = c.pc ∧ d.slot = c.slot ∧ c.KeepsS d [] ∧ c.KeepsA d [] ∧ c.KeepsP d []

/-- One packet has left, of which something holds. -/
def State.Sent (s t : State) (q : Packet → Prop) : Prop := ∃ p, t.out = s.out ++ [p] ∧ q p

/-- A packet of an operation reaches this package, from outside or from its own list of packets; `s'` is the state without
it in that list (R402, R406). -/
def State.Got (s : State) (opc : Nat) (p : Packet) (s' : State) : Prop :=
  p.opc = opc ∧ s.ownPkg p.dpkg = true ∧ (s.ownPkg p.spkg = true → p ∈ s.out ∧ s.selfArrived p = true)
    ∧ s' = { s with
        out := s.out.erase p
        selfDue := if s.ownPkg p.spkg then s.selfDue.eraseP fun d => d.1 = p else s.selfDue }

/-! ### Engine commands -/

/-- A command stands at the head of its queue, built and decoded, its queue neither faulted nor waiting for a template, and its
core neither stealing nor being checkpointed, with its clock running (R206, R462). -/
def State.AtHead (s : State) (k : Nat) (e : Eng) (t : Entry) (c : Tmpl) : Prop :=
  let x := (s.core k).eng e
  s.command k e t.seq = some t ∧ t.done = false ∧ t.started = none ∧ t.built = some c ∧ t.decodeFault e = none
    ∧ (x.headCommand e).map Entry.seq = some t.seq ∧ s.savingRun k = false ∧ (s.core k).stopped = false ∧ x.flt = false
    ∧ x.loads = [] ∧ s.stealing k e = false ∧ t.pos = 0 ∧ t.since = 0

/-- The command at the head of a queue starts (R206): its tokens are there, its bitmap slot is free, its engine is awake, and it
fits as a walk-in or its booked use has begun. `b` and `t1` are the state and its entry from which its work goes on. -/
def State.Starts (s : State) (k : Nat) (e : Eng) (t : Entry) (c : Tmpl) (b : State) (t1 : Entry) : Prop :=
  s.AtHead k e t c ∧ opScope c < 6 ∧ (s.core k).waitMet c = true ∧ (s.core k).slotHeld e c = false
    ∧ ((s.core k).eng e).gate = .awake
    ∧ ∃ u : Option OwnUse,
        (match (if calendared e then bookOf c else none) with
         | none => u = none ∧ s.walkFits e k (durOf c) = true
         | some (id, j) => ∃ o, u = some o ∧ s.bound k e id j = .go o)
        ∧ s.begin k e t c u = .go b t1

/-- What the work of a command leaves of its entry: the position it has come to, whether that is its end, its result, the writes
still to be performed, and at its end what its retirement must follow besides (R201). A copy's result is the old value of an atomic
operation, which its home has put there (R221). -/
def Entry.After (t : Entry) (e : Eng) (n : Nat) (done : Bool) (r : W64) (tags after : List Nat) : Entry :=
  { t with
    pos := n, since := 0, susp := false, done := done, result := (if done ∧ e ≠ .ce then r else t.result), writes := t.writes ++ tags,
    after := (if done then after else t.after) }

/-- The command has ended with nothing to write but the storage of its own core: its entry, and the frame. -/
def State.RanInside (b : State) (k : Nat) (e : Eng) (t : Entry) (n : Nat) (r : W64) (u : State) : Prop :=
  u.command k e t.seq = some (t.After e n true r [] (b.laneAfter k e)) ∧ (∀ j, j ≠ k → u.core j = b.core j) ∧ u.mem = b.mem
    ∧ (u.core k).user = (b.core k).user ∧ (u.core k).firm = (b.core k).firm

/-- A vector command has written its destination register as an element list says, and no other byte of the pool: active
elements take `f`, the others keep their value or are zeroed (R342). -/
def Core.WroteV (x y : Core) (c : Tmpl) (act : Nat → Bool) (f : Nat → Nat) : Prop :=
  y = { x with sram := y.sram, bad := y.bad, ve := y.ve }
    ∧ (∀ e, e < 2048 / fmtBytes (vET c) → y.vElem (vVD c) (vET c) e =
        if act e then f e % 2 ^ (8 * fmtBytes (vET c)) else if vZM c then 0 else x.vElem (vVD c) (vET c) e)
    ∧ ∀ j, (j < vVD c * 2048 ∨ vVD c * 2048 + 2048 ≤ j) → y.sram.get 0 j = x.sram.get 0 j

/-- The registers of a vector command are backed and its count fits its element type (R343). -/
def Core.VFits (x : Core) (c : Tmpl) (regs : List Nat) : Prop :=
  (∀ r ∈ regs, r < 32 * x.vru) ∧ ∃ n, vCap (vET c) = some n ∧ vN c ≤ n

/-- No register that a vector command reads holds an uncorrectable granule (R448). -/
def Core.VGood (x : Core) (c : Tmpl) (regs : List Nat) : Prop := vUnc x c regs = false

/-- The work of a command goes on from the state `b` and entry `t1`: it starts there, or it has started, stands at a tile
boundary, and may go on (R58, R206, R214). -/
def State.Runs (s : State) (k : Nat) (e : Eng) (t : Entry) (c : Tmpl) (b : State) (t1 : Entry) : Prop :=
  s.Starts k e t c b t1
    ∨ (s.command k e t.seq = some t ∧ t.done = false ∧ t.started.isSome = true ∧ t.built = some c ∧ s.mayGoOn k e t c = true
        ∧ t.since = 0 ∧ b = s ∧ t1 = t)

/-- Element `i` of a command leads from the state `sts i` to `sts (i + 1)`, writing `size i` bytes under the tags `tags i`. -/
def Follows (w : Who) (el : State → Nat → ERes (Nat × List Nat)) (p m : Nat) (sts : Nat → State) (size : Nat → Nat)
    (tags : Nat → List Nat) : Prop :=
  ∀ i, p ≤ i → i < m → ∃ x, el (sts i) i = .ok x (size i, tags i) ∧ sts (i + 1) = x.dropEngReads w

/-- The position `m` to which a command of `n` elements runs from `p` on: its next tile boundary, at the first element that
completes 1 KiB, or its end (R214). -/
def TileEnd (n : Nat) (size : Nat → Nat) (p m : Nat) : Prop :=
  let bytes (j : Nat) : Nat := ((List.range (j - p)).map fun i => size (p + i)).sum
  p ≤ m ∧ m ≤ n ∧ (p < n → p < m) ∧ (m < n → 1024 ≤ bytes m) ∧ ∀ j, p < j → j < m → bytes j < 1024

/-- A command has gone through its elements from its position to `m`. -/
def State.RanElements (b : State) (k : Nat) (e : Eng) (t : Entry) (n m : Nat) (tags : Nat → List Nat) (u : State) : Prop :=
  u.command k e t.seq =
      some (t.After e m (decide (m = n)) 0 ((List.range (m - t.pos)).flatMap fun i => tags (t.pos + i)) (b.laneAfter k e))
    ∧ u.mem = b.mem ∧ (u.core k).sram = (b.core k).sram ∧ (u.core k).perm = (b.core k).perm
    ∧ (∀ j, j ≠ k → u.core j = b.core j) ∧ (u.core k).user = (b.core k).user ∧ (u.core k).firm = (b.core k).firm

/-- A part of a matrix command has begun and runs, its effect made: its entry, with the tags of its writes, and the frame: only the
storage of the matrix engine and the pool have changed. -/
def State.BeganPart (b : State) (k : Nat) (t : Entry) (tags : List Nat) (u : State) : Prop :=
  u.command k .me t.seq = some { t with since := 1, susp := false, writes := t.writes ++ tags }
    ∧ (∀ j, j ≠ k → u.core j = b.core j) ∧ u.mem = b.mem
    ∧ u.core k = { b.core k with
        sram := (u.core k).sram, bad := (u.core k).bad, om := (u.core k).om, omSide := (u.core k).omSide, omBad := (u.core k).omBad,
        plane := (u.core k).plane, wv := (u.core k).wv, wfmt := (u.core k).wfmt, kw := (u.core k).kw, perm := (u.core k).perm,
        partEnd := (u.core k).partEnd, rows := (u.core k).rows, me := (u.core k).me }

/-- A part of a matrix command that takes a number of cycles has begun, and it writes nothing outside its core. -/
def State.BeganTile (b : State) (k : Nat) (t : Entry) (cycles : Nat) (u : State) : Prop :=
  b.BeganPart k t [] u ∧ (u.core k).partEnd = b.tb + cycles

/-- A running part of a matrix command: the command has started, and the clock of the core whose engine runs it is not stopped (R462). -/
def State.InPart (s : State) (k : Nat) (t : Entry) (c : Tmpl) (since : Nat) : Prop :=
  s.command k .me t.seq = some t ∧ t.done = false ∧ t.started.isSome = true ∧ t.built = some c ∧ t.since = since
    ∧ (s.core (t.runner k)).stopped = false

/-- The pool of a core holds the bytes `bs` from byte `o` on, and its other bytes are as they were. -/
def Core.PoolTook (x y : Core) (o : Nat) (bs : List Byte) : Prop :=
  ∀ j, y.sram.get 0 j = if o ≤ j ∧ j < o + bs.length then bs.getD (j - o) 0 else x.sram.get 0 j

/-- A range of the own scratchpad is there, outside the scratch area, and correct (R324, R448). -/
def Core.SpadGood (x : Core) (o n : Nat) : Prop := spadRange x o n = none ∧ spadUnc x o n = none

/-! ### Booking messages -/

/-- A booking message has arrived at the owner it names, and no request of that unit's own stands before it; `x` is the state without it
(R62, R64, R65). -/
def State.AtOwner (s : State) (t : BookType) (m : BookMsg) (x : State) : Prop :=
  ∃ f, s.arrive t m = some (x, f) ∧ f.die = ownerDie (calOfWord m.res.toNat) ∧ (f.src = outsideSrc → m.pkg ≠ s.pkg)
    ∧ s.localFirst f.die f.due = false

/-- A booking message has arrived at its requester, and no request of that unit's own stands before it; `o` says that another package
sent it (R62, R64, R65). -/
def State.AtRequester (s : State) (t : BookType) (m : BookMsg) (x : State) (o : Bool) : Prop :=
  m.pkg = s.pkg ∧ ∃ f, s.arrive t m = some (x, f) ∧ o = decide (f.src = outsideSrc) ∧ s.localFirst f.die f.due = false

/-- An owner's booking unit has answered a message with another. -/
def State.Answered (x u : State) (t : BookType) (m : BookMsg) : Prop :=
  let y := x.toRequester (ownerDie (calOfWord m.res.toNat)) t m
  u.msgs = y.msgs ∧ u.out = y.out

/-- No row of a calendar belongs to a use any more, and every row of another use is as it was (R65). -/
def Calendar.Freed (x y : Calendar) (id : UseId) : Prop :=
  y.use id = none ∧ (∀ b r, y.row b = some r → r.id ≠ id) ∧ ∀ b r, x.row b = some r → r.id ≠ id → y.row b = some r

/-- No use of a booking of this package depends on a use, so that a move of it moves no other (R75). -/
def State.NoDependants (s : State) (id : UseId) : Prop :=
  id.pkg = s.pkg → id.hm = false → ∀ b, (s.core id.core).booking id.xid = some b → ∀ v ∈ b.uses, nbit v.pred id.use = false

/-- The answer to a packet has left, where its source can be reached (R403, R406). -/
def State.Replied (s u : State) (p : Packet) (opc : Nat) (arg : W64) (data : List Byte) : Prop :=
  s.hops p.spkg ≠ 3 → s.Sent u fun q =>
    q.opc = opc ∧ q.dpkg = p.spkg ∧ q.spkg = s.pkg ∧ q.score = p.score ∧ q.tag = p.tag ∧ q.arg = arg ∧ q.data = data

/-- A packet answers a thing in flight: of all in flight, only that one bears its tag. -/
def State.AnswerTo (s : State) (p : Packet) (t : Nat) (f : Flight) : Prop :=
  s.flight t = some f ∧ t % 65536 = p.tag ∧ ∀ q ∈ s.flights, q.1 % 65536 = p.tag → q = (t, some f)

/-- A context has taken a trap at its own word (R439): its cause and four numbers. -/
def Ctx.Trapped (c d : Ctx) (cause : Nat) (e0 e1 e2 e3 : W64) : Prop :=
  d.ecause = BitVec.ofNat 64 cause ∧ d.einfo0 = e0 ∧ d.einfo1 = e1 ∧ d.einfo2 = e2 ∧ d.einfo3 = e3
    ∧ d.epc = c.pc.extractLsb' 0 64 ∧ d.ds = c.slot.isSome ∧ d.ih = true ∧ d.op = none
    ∧ c.KeepsS d [] ∧ c.KeepsA d [] ∧ c.KeepsP d []

/-- A trap of a context finds its handler: none is being handled, and a user context has one (R441). -/
def Ctx.CanTrap (c : Ctx) (fw : Bool) : Prop := c.ih = false ∧ (fw = true ∨ c.tvec ≠ 0)

/-- An instruction answers a next state of which something holds. -/
def State.Ends (s : State) (i : Instr) (P : State → Prop) : Prop := ∃ t, exec i s = .next t ∧ P t

end Sys2Proof.Machine
end

