-- ==== Sys2Proof/Certificates/Slice0/Obligations.lean ====
section
/-!
DEFINITION. The statements about the model.
-/

open Sys2Proof Sys2Proof.Machine

/-! ### Scalar words -/

/-- R151: sums, differences, products and bitwise operations, modulo 2^64. R151, R155: shifts and rotation by the low six bits of
the amount, and their immediate forms. R151: minima and maxima, signed and unsigned. R151: `clz`, `ctz` and `popc` count the
bits they name; `clz` and `ctz` of zero give 64. R153: extension, extraction and insertion of bit fields, bit by bit. -/
def Obligations.IntegerResults : Prop :=
  (∀ (s : State) (d a b : Reg) (fa fb : Bool) (x y : W64), s.Reads a x → s.Reads b y → s.Takes d →
     s.Ends (.add d a b fa fb) (s.WroteS d (BitVec.ofNat 64 (x.toNat + y.toNat)))
     ∧ s.Ends (.sub d a b fa fb) (s.WroteS d (BitVec.ofInt 64 (x.toInt - y.toInt)))
     ∧ s.Ends (.mul d a b fa fb) (s.WroteS d (BitVec.ofNat 64 (x.toNat * y.toNat)))
     ∧ s.Ends (.mulh d a b fa fb) (s.WroteS d (BitVec.ofInt 64 (x.toInt * y.toInt / 2 ^ 64)))
     ∧ s.Ends (.mulhn d a b fa fb) (s.WroteS d (BitVec.ofNat 64 (x.toNat * y.toNat / 2 ^ 64)))
     ∧ s.Ends (.iAnd d a b fa fb) (s.WroteS d (x &&& y))
     ∧ s.Ends (.iOr d a b fa fb) (s.WroteS d (x ||| y))
     ∧ s.Ends (.iXor d a b fa fb) (s.WroteS d (x ^^^ y))
     ∧ s.Ends (.andn d a b fa fb) (s.WroteS d (x &&& ~~~y)))
  ∧ (∀ (s : State) (d a b : Reg) (fa fb : Bool) (x y : W64) (sh : BitVec 6), s.Reads a x → s.Takes d →
       (s.Reads b y →
         s.Ends (.shl d a b fa fb) (s.WroteS d (BitVec.ofNat 64 (x.toNat * 2 ^ (y.toNat % 64))))
         ∧ s.Ends (.shr d a b fa fb) (s.WroteS d (BitVec.ofNat 64 (x.toNat / 2 ^ (y.toNat % 64))))
         ∧ s.Ends (.sra d a b fa fb) (s.WroteS d (BitVec.ofInt 64 (x.toInt / 2 ^ (y.toNat % 64))))
         ∧ s.Ends (.rotl d a b fa fb)
             (s.WroteS d (BitVec.ofNat 64 (x.toNat * 2 ^ (y.toNat % 64) + x.toNat / 2 ^ (64 - y.toNat % 64)))))
       ∧ s.Ends (.shli d a fa sh) (s.WroteS d (BitVec.ofNat 64 (x.toNat * 2 ^ sh.toNat)))
       ∧ s.Ends (.shri d a fa sh) (s.WroteS d (BitVec.ofNat 64 (x.toNat / 2 ^ sh.toNat)))
       ∧ s.Ends (.srai d a fa sh) (s.WroteS d (BitVec.ofInt 64 (x.toInt / 2 ^ sh.toNat))))
  ∧ (∀ (s : State) (d a b : Reg) (fa fb : Bool) (x y : W64), s.Reads a x → s.Reads b y → s.Takes d →
       s.Ends (.iMin d a b fa fb) (s.WroteS d (BitVec.ofInt 64 (min x.toInt y.toInt)))
       ∧ s.Ends (.iMax d a b fa fb) (s.WroteS d (BitVec.ofInt 64 (max x.toInt y.toInt)))
       ∧ s.Ends (.minn d a b fa fb) (s.WroteS d (BitVec.ofNat 64 (min x.toNat y.toNat)))
       ∧ s.Ends (.maxn d a b fa fb) (s.WroteS d (BitVec.ofNat 64 (max x.toNat y.toNat))))
  ∧ (∀ (s : State) (d a : Reg) (fa : Bool) (x : W64), s.Reads a x → s.Takes d →
       (∃ n, n ≤ 64 ∧ s.Ends (.clz d a fa) (s.WroteS d (BitVec.ofNat 64 n))
         ∧ (∀ i, i < n → x.getLsbD (63 - i) = false) ∧ (n < 64 → x.getLsbD (63 - n) = true))
       ∧ (∃ n, n ≤ 64 ∧ s.Ends (.ctz d a fa) (s.WroteS d (BitVec.ofNat 64 n))
         ∧ (∀ i, i < n → x.getLsbD i = false) ∧ (n < 64 → x.getLsbD n = true))
       ∧ s.Ends (.popc d a fa) (s.WroteS d (BitVec.ofNat 64 ((List.range 64).countP fun i => x.getLsbD i))))
  ∧ (∀ (s : State) (d a b : Reg) (fa fb : Bool) (x y : W64), s.Reads a x → s.Reads b y →
       let n := y.toNat % 128
       let pos := y.toNat % 64
       let len := min (y.toNat / 256 % 128) 64
       (s.Takes d →
         (∃ v : W64, s.Ends (.sext d a b fa fb) (s.WroteS d v)
           ∧ ∀ i, i < 64 → v.getLsbD i = (if n = 0 then false else x.getLsbD (min i (n - 1))))
         ∧ (∃ v : W64, s.Ends (.zext d a b fa fb) (s.WroteS d v) ∧ ∀ i, i < 64 → v.getLsbD i = (decide (i < n) && x.getLsbD i))
         ∧ (∃ v : W64, s.Ends (.bfx d a b fa fb) (s.WroteS d v)
           ∧ ∀ i, i < 64 → v.getLsbD i = (decide (i < len) && x.getLsbD (pos + i))))
       ∧ (∀ z : W64, s.Reads d z → ∃ v : W64, s.Ends (.bfi d a b fa fb) (s.WroteS d v)
           ∧ ∀ i, i < 64 → v.getLsbD i = (if pos ≤ i ∧ i < pos + len then x.getLsbD (i - pos) else z.getLsbD i)))

/-- R152: division truncates towards zero and never traps; a zero divisor and the one overflow have the results the rule gives. -/
def Obligations.DivisionResults : Prop :=
  ∀ (s : State) (d a b : Reg) (fa fb : Bool) (x y : W64), s.Reads a x → s.Reads b y → s.Takes d →
    (y = 0 →
      s.Ends (.div d a b fa fb) (s.WroteS d (BitVec.allOnes 64)) ∧ s.Ends (.divn d a b fa fb) (s.WroteS d (BitVec.allOnes 64))
      ∧ s.Ends (.rem d a b fa fb) (s.WroteS d x) ∧ s.Ends (.remn d a b fa fb) (s.WroteS d x))
    ∧ (y ≠ 0 →
      s.Ends (.divn d a b fa fb) (s.WroteS d (BitVec.ofNat 64 (x.toNat / y.toNat)))
      ∧ s.Ends (.remn d a b fa fb) (s.WroteS d (BitVec.ofNat 64 (x.toNat % y.toNat)))
      ∧ (x.toInt = -2 ^ 63 → y.toInt = -1 →
        s.Ends (.div d a b fa fb) (s.WroteS d x) ∧ s.Ends (.rem d a b fa fb) (s.WroteS d 0))
      ∧ (¬ (x.toInt = -2 ^ 63 ∧ y.toInt = -1) → ∃ q r : W64,
        s.Ends (.div d a b fa fb) (s.WroteS d q) ∧ s.Ends (.rem d a b fa fb) (s.WroteS d r)
        ∧ x.toInt = q.toInt * y.toInt + r.toInt ∧ r.toInt.natAbs < y.toInt.natAbs
        ∧ (r.toInt = 0 ∨ (r.toInt < 0 ↔ x.toInt < 0))))

/-- R155, R156: immediates are sign-extended; `lih`, `lim` and `lit` build a constant from its parts. R154: `sel` writes sa where
its predicate is true, sb where it is not. R157, R158, R160: compares write the truth of their condition, predicate words the
value the rule names. R159: address arithmetic modulo 2^72, and the moves between address and scalar registers. -/
def Obligations.ImmediatePredicateAndAddressResults : Prop :=
  (∀ (s : State) (d a : Reg) (fa : Bool) (x : W64) (imm : BitVec 13) (up : BitVec 20) (top : BitVec 12),
     (s.Reads a x → s.Takes d →
       s.Ends (.addi d a fa imm) (s.WroteS d (BitVec.ofInt 64 (x.toInt + imm.toInt)))
       ∧ s.Ends (.andi d a fa imm) (s.WroteS d (x &&& BitVec.ofInt 64 imm.toInt))
       ∧ s.Ends (.ori d a fa imm) (s.WroteS d (x ||| BitVec.ofInt 64 imm.toInt))
       ∧ s.Ends (.xori d a fa imm) (s.WroteS d (x ^^^ BitVec.ofInt 64 imm.toInt)))
     ∧ (s.Takes d → s.Ends (.lih d up) (s.WroteS d ((0 : BitVec 32) ++ up ++ (0 : BitVec 12))))
     ∧ (s.Reads d x →
       s.Ends (.lim d up) (s.WroteS d (x.extractLsb' 52 12 ++ up ++ x.extractLsb' 0 32))
       ∧ s.Ends (.lit d top) (s.WroteS d (top ++ x.extractLsb' 0 52))))
  ∧ (∀ (s : State) (n : PReg) (d a b : Reg) (fa fb : Bool) (x y : W64), s.Reads a x → s.Reads b y → s.Takes d →
       (s.cur.getP n = true → s.Ends (.sel n d a b fa fb) (s.WroteS d x))
       ∧ (s.cur.getP n = false → s.Ends (.sel n d a b fa fb) (s.WroteS d y)))
  ∧ (∀ (s : State) (d m n : PReg) (a b : Reg) (e f : AReg) (fa fb : Bool) (x y : W64) (imm : BitVec 13),
       (s.Ends (.pAnd d m n) (s.WroteP d (s.cur.getP m && s.cur.getP n))
         ∧ s.Ends (.pOr d m n) (s.WroteP d (s.cur.getP m || s.cur.getP n))
         ∧ s.Ends (.pXor d m n) (s.WroteP d (s.cur.getP m ^^ s.cur.getP n))
         ∧ s.Ends (.pNot d m) (s.WroteP d (!s.cur.getP m))
         ∧ s.Ends (.pMov d m) (s.WroteP d (s.cur.getP m)))
       ∧ (s.Reads a x → ∀ c : Cond,
         let v (y : W64) : Bool :=
           match c with
           | .eq => decide (x = y) | .ne => decide (x ≠ y) | .lt => decide (x.toInt < y.toInt) | .ge => decide (y.toInt ≤ x.toInt)
           | .ltn => decide (x.toNat < y.toNat) | .gen => decide (y.toNat ≤ x.toNat)
         (s.Reads b y → s.Ends (.cmp c d a b fa fb) (s.WroteP d (v y)))
         ∧ s.Ends (.cmpi c d a fa imm) (s.WroteP d (v (BitVec.ofInt 64 imm.toInt))))
       ∧ (∀ c : ACond,
         let v : Bool :=
           match c with
           | .eq => decide (s.cur.getA e = s.cur.getA f) | .ne => decide (s.cur.getA e ≠ s.cur.getA f)
           | .ltn => decide ((s.cur.getA e).toNat < (s.cur.getA f).toNat) | .gen => decide ((s.cur.getA f).toNat ≤ (s.cur.getA e).toNat)
         s.Ends (.aCmp c d e f) (s.WroteP d v)))
  ∧ (∀ (s : State) (d e : AReg) (sd a b : Reg) (fa fb : Bool) (x y : W64) (imm : BitVec 13),
       let sum (k : Int) : VAddr := BitVec.ofInt 72 ((s.cur.getA e).toNat + y.toInt * k)
       (s.Reads b y →
         s.Ends (.aAdd d e b fb) (s.WroteA d (sum 1)) ∧ s.Ends (.aLea2 d e b fb) (s.WroteA d (sum 2))
         ∧ s.Ends (.aLea4 d e b fb) (s.WroteA d (sum 4)) ∧ s.Ends (.aLea8 d e b fb) (s.WroteA d (sum 8))
         ∧ s.Ends (.aLea16 d e b fb) (s.WroteA d (sum 16))
         ∧ (s.Reads a x → s.Ends (.aMovScalar d a b fa fb) (s.WroteA d (y.setWidth 8 ++ x))))
       ∧ s.Ends (.aMov d e) (s.WroteA d (s.cur.getA e))
       ∧ s.Ends (.aAddi d e imm) (s.WroteA d (BitVec.ofInt 72 ((s.cur.getA e).toNat + imm.toInt)))
       ∧ (s.Takes sd →
         s.Ends (.aGet sd e) (s.WroteS sd ((s.cur.getA e).extractLsb' 0 64))
         ∧ s.Ends (.aGetHi sd e) (s.WroteS sd (((s.cur.getA e).extractLsb' 64 8).setWidth 64))))

/-- R174, R175, R178: scalar arithmetic in fp64 on whole registers and in fp32 on their low halves, rounded once in the word's mode,
with the flags of the operation ORed into FCSR (R182). R179 to R181: conversions, classes and comparisons of floating values.
Where the manual is silent, the model's choice: log entry 27. -/
def Obligations.FloatResults : Prop :=
  (∀ (s : State) (r : FRound) (d a b : Reg) (fa fb : Bool) (x y : W64), s.Reads a x → s.Reads b y →
     let m := s.cur.roundMode r
     let p := x.toNat % 2 ^ 32
     let q := y.toNat % 2 ^ 32
     let d64 (i : Instr) (v : Nat × FlagSet) : Prop := s.Ends i (s.WroteF d (BitVec.ofNat 64 v.1) v.2)
     let d32 (i : Instr) (v : Nat × FlagSet) : Prop := s.Ends i (s.WroteF d (BitVec.ofNat 64 (v.1 % 2 ^ 32)) v.2)
     (s.Takes d →
       d64 (.faddF64 r d a b fa fb) (fp64.add x.toNat y.toNat m) ∧ d64 (.fsubF64 r d a b fa fb) (fp64.sub x.toNat y.toNat m)
       ∧ d64 (.fmulF64 r d a b fa fb) (fp64.mul x.toNat y.toNat m) ∧ d64 (.fdivF64 r d a b fa fb) (fp64.div x.toNat y.toNat m)
       ∧ d64 (.fsqrtF64 r d a fa) (fp64.sqrt x.toNat m)
       ∧ d64 (.fminF64 r d a b fa fb) (fp64.minMax x.toNat y.toNat false)
       ∧ d64 (.fmaxF64 r d a b fa fb) (fp64.minMax x.toNat y.toNat true)
       ∧ d32 (.faddF32 r d a b fa fb) (fp32.add p q m) ∧ d32 (.fsubF32 r d a b fa fb) (fp32.sub p q m)
       ∧ d32 (.fmulF32 r d a b fa fb) (fp32.mul p q m) ∧ d32 (.fdivF32 r d a b fa fb) (fp32.div p q m)
       ∧ d32 (.fsqrtF32 r d a fa) (fp32.sqrt p m)
       ∧ d32 (.fminF32 r d a b fa fb) (fp32.minMax p q false) ∧ d32 (.fmaxF32 r d a b fa fb) (fp32.minMax p q true))
     ∧ (∀ z : W64, s.Reads d z →
       d64 (.fmaF64 r d a b fa fb) (fp64.fma x.toNat y.toNat z.toNat m false)
       ∧ d32 (.fmaF32 r d a b fa fb) (fp32.fma p q (z.toNat % 2 ^ 32) m false)))
  ∧ (∀ (s : State) (r : FRound) (d a b : Reg) (pd : PReg) (fa fb : Bool) (x y : W64), s.Reads a x →
       let m := s.cur.roundMode r
       let p := x.toNat % 2 ^ 32
       let q := y.toNat % 2 ^ 32
       (s.Takes d →
         s.Ends (.fcvt r .f32 .f64 d a fa) (s.WroteF d (BitVec.ofNat 64 (convFF fp64 fp32 x.toNat m false).1) (convFF fp64 fp32 x.toNat m false).2)
         ∧ s.Ends (.fcvt r .f64 .f32 d a fa) (s.WroteF d (BitVec.ofNat 64 (convFF fp32 fp64 p m false).1) (convFF fp32 fp64 p m false).2)
         ∧ s.Ends (.fcvt r .f64 .i64 d a fa) (s.WroteF d (BitVec.ofNat 64 (convIF fp64 x.toInt m false).1) (convIF fp64 x.toInt m false).2)
         ∧ s.Ends (.fcvt r .f32 .n64 d a fa) (s.WroteF d (BitVec.ofNat 64 (convIF fp32 x.toNat m false).1) (convIF fp32 x.toNat m false).2)
         ∧ s.Ends (.fcvt r .i64 .f64 d a fa) (s.WroteF d (BitVec.ofNat 64 (convFI fp64 64 true x.toNat m).1) (convFI fp64 64 true x.toNat m).2)
         ∧ s.Ends (.fcvt r .n32 .f32 d a fa)
             (s.WroteF d (BitVec.ofNat 64 ((convFI fp32 32 false p m).1 % 2 ^ 32)) (convFI fp32 32 false p m).2)
         ∧ s.Ends (.fcvt r .i32 .f64 d a fa)
             (s.WroteF d ((BitVec.ofNat 32 (convFI fp64 32 true x.toNat m).1).signExtend 64) (convFI fp64 32 true x.toNat m).2)
         ∧ (∀ t u, ∃ v f, s.Ends (.fcvt r t u d a fa) (s.WroteF d v f))
         ∧ (∃ i < 10, s.Ends (.fclassF64 d a fa) (s.WroteS d (BitVec.ofNat 64 (2 ^ i)))
             ∧ (i < 4 ↔ x.toNat / 2 ^ 63 = 1 ∧ x.toNat % 2 ^ 63 ≤ 0x7FF * 2 ^ 52)
             ∧ (8 ≤ i ↔ 0x7FF * 2 ^ 52 < x.toNat % 2 ^ 63)
             ∧ (i = 0 ∨ i = 7 ↔ x.toNat % 2 ^ 63 = 0x7FF * 2 ^ 52)
             ∧ (i = 3 ∨ i = 4 ↔ x.toNat % 2 ^ 63 = 0) ∧ (i = 2 ∨ i = 5 ↔ 0 < x.toNat % 2 ^ 63 ∧ x.toNat % 2 ^ 63 < 2 ^ 52)
             ∧ (i = 9 ↔ 0xFFF * 2 ^ 51 ≤ x.toNat % 2 ^ 63))
         ∧ (∃ i < 10, s.Ends (.fclassF32 d a fa) (s.WroteS d (BitVec.ofNat 64 (2 ^ i)))
             ∧ (i < 4 ↔ p / 2 ^ 31 = 1 ∧ p % 2 ^ 31 ≤ 0xFF * 2 ^ 23)
             ∧ (8 ≤ i ↔ 0xFF * 2 ^ 23 < p % 2 ^ 31)
             ∧ (i = 0 ∨ i = 7 ↔ p % 2 ^ 31 = 0xFF * 2 ^ 23)
             ∧ (i = 3 ∨ i = 4 ↔ p % 2 ^ 31 = 0) ∧ (i = 2 ∨ i = 5 ↔ 0 < p % 2 ^ 31 ∧ p % 2 ^ 31 < 2 ^ 23)
             ∧ (i = 9 ↔ 0x1FF * 2 ^ 22 ≤ p % 2 ^ 31)))
       ∧ (s.Reads b y → ∀ c : FCond,
         let truth (f : Fmt) (v w : Nat) : Bool × Bool :=
           let nan (u : Nat) : Bool := match f.decode u with | .nan .. => true | _ => false
           let sig (u : Nat) : Bool := match f.decode u with | .nan _ fr => decide (fr < 2 ^ (f.fw - 1)) | _ => false
           let o := cmpVals (f.decode v) (f.decode w)
           let un := nan v || nan w
           let sg := sig v || sig w
           match c with
           | .eq => (!un && decide (o = 0), sg) | .ne => (un || decide (o ≠ 0), sg) | .lt => (!un && decide (o < 0), un)
           | .le => (!un && decide (o ≤ 0), un) | .gt => (!un && decide (0 < o), un) | .ge => (!un && decide (0 ≤ o), un)
           | .un => (un, sg) | .ord => (!un, sg)
         s.Ends (.fcmpF64 c pd a b fa fb) (s.WroteFP pd (truth fp64 x.toNat y.toNat).1 (truth fp64 x.toNat y.toNat).2)
         ∧ s.Ends (.fcmpF32 c pd a b fa fb) (s.WroteFP pd (truth fp32 p q).1 (truth fp32 p q).2)))

/-- R249: rounding a value that the format holds gives its encoding back, with no event, in every mode. R249, R250: in the directed
modes the result never passes the exact value: towards −∞ it is not above it, towards +∞ not below it, and towards zero its
magnitude is not larger. R254, R256: an fp32 number survives the conversion to fp64 and back, in every mode. -/
def Obligations.RoundingLaws : Prop :=
  (∀ f ∈ [fp64, fp32, fp16, bf16, fp8e4, fp8e5], ∀ (v : Nat) (neg : Bool) (m : Nat) (e : Int) (mode : RMode) (sat : Bool),
     v < 2 ^ f.bits → f.decode v = .fin neg m e → f.round neg m e false mode sat = (v, FlagSet.none))
  ∧ (∀ f ∈ [fp64, fp32, fp16, bf16, fp8e4, fp8e5], ∀ (neg : Bool) (m : Nat) (e : Int),
       let r (mode : RMode) : FVal := f.decode (f.round neg m e false mode false).1
       cmpVals (r .rdn) (.fin neg m e) ≤ 0 ∧ 0 ≤ cmpVals (r .rup) (.fin neg m e)
         ∧ (∃ (n : Bool) (k : Nat) (x : Int), r .rtz = .fin n k x ∧ n = neg ∧ cmpVals (.fin false k x) (.fin false m e) ≤ 0))
  ∧ (∀ (v : Nat) (m n : RMode), v < 2 ^ 32 → (∀ s fr, fp32.decode v ≠ .nan s fr) →
       convFF fp64 fp32 (convFF fp32 fp64 v m false).1 n false = (v, FlagSet.none) ∧ (convFF fp32 fp64 v m false).2 = FlagSet.none)

/-- R183: `fe.clr` and `fe.set` change the state of a register and keep its value; `fe.tst` never waits. R130, R131: a word whose
source is PENDING under policy 0, or whose destination is PENDING, waits at issue and changes nothing; a source that is EMPTY,
or PENDING under policy 1, traps FE_EMPTY with its number and how it stood. Stated of `add`. R96, R192, R196: `nop` and the hint
words do nothing; `wake` starts the ungating of the gated engines it names, and of no other, and changes nothing else. -/
def Obligations.FullEmptyAndPlainWords : Prop :=
  (∀ (s : State) (d : Reg) (pd : PReg) (a : Reg),
     let sets (e : FE) (t : State) : Prop :=
       s.OnlyCtx t ∧ s.cur.OnlyRegs t.cur ∧ s.cur.Moved t.cur ∧ t.cur.getFE d = (if d = 0 then .full else e)
         ∧ t.cur.getS d = s.cur.getS d ∧ t.cur.getMark d = s.cur.getMark d
         ∧ s.cur.KeepsS t.cur [d] ∧ s.cur.KeepsA t.cur [] ∧ s.cur.KeepsP t.cur []
     (s.Takes d → s.Ends (.feClr d) (sets .empty) ∧ s.Ends (.feSet d) (sets .full))
     ∧ s.Ends (.feTst pd a) (s.WroteP pd (decide (s.cur.getFE a = .full))))
  ∧ (∀ (s : State) (d a b : Reg) (fa fb : Bool) (x y : W64),
       let waits (t : State) : Prop := t = s.setCur { s.cur with blocked := true }
       let traps (r : Reg) (how : Nat) (t : State) : Prop :=
         t = s.takeTrap s.focusCore s.focusFw
           { cause := .feEmpty, e0 := r.setWidth 64, e1 := BitVec.ofNat 64 how, e2 := 0, e3 := 0 }
       (s.cur.getFE a = .empty → s.Ends (.add d a b fa fb) (traps a 1))
       ∧ (s.cur.getFE a = .pending → s.Ends (.add d a b true fb) (traps a 0) ∧ s.Ends (.add d a b false fb) waits)
       ∧ (s.Reads a x →
         (s.cur.getFE b = .empty → s.Ends (.add d a b fa fb) (traps b 1))
         ∧ (s.cur.getFE b = .pending → s.Ends (.add d a b fa true) (traps b 0) ∧ s.Ends (.add d a b fa false) waits)
         ∧ (s.Reads b y → s.cur.getFE d = .pending → s.Ends (.add d a b fa fb) waits)))
  ∧ (∀ (s : State) (pl : BitVec 26) (m : BitVec 4),
       s.Ends .nop s.Passed ∧ s.Ends (.hint3C pl) s.Passed ∧ s.Ends (.hint3D pl) s.Passed ∧ s.Ends (.hint3E pl) s.Passed
       ∧ s.Ends (.wake m) fun t => ∃ c : Core,
           (s.setCurCore c).Passed t
           ∧ (∀ e : Eng, c.eng e = { s.curCore.eng e with
               gate := if m.getLsbD e.code && decide ((s.curCore.eng e).gate = .gated) then
                         .ungating (s.tb + (if e = .me then 256 else 64)) else (s.curCore.eng e).gate })
           ∧ c = { s.curCore with me := c.me, ce := c.ce, ve := c.ve, sae := c.sae })

/-- R98, R99, R170 to R172: a taken branch or jump goes to its target after one delay slot; a branch that is not taken has none;
`jal` and `jalr` write the address after the slot. A jump to an address that is not 4-byte aligned traps ALIGN. R100: the words
that may not stand in a delay slot trap ILLEGAL_SLOT there, whether or not they would be taken. -/
def Obligations.BranchesAndDelaySlots : Prop :=
  (∀ (s : State) (n : PReg) (h : Bool) (off : BitVec 21) (joff : BitVec 25) (d a : AReg), s.NoSlot →
     let tgt (k : Int) : VAddr := BitVec.ofInt 72 (s.cur.pc.toNat + 4 * k)
     let linked (r : AReg) (v : VAddr) (t : State) : Prop :=
       (s.setCur { s.cur with a := t.cur.a }).Branched v t ∧ t.cur.getA r = s.cur.pc + 8 ∧ s.cur.KeepsA t.cur [r]
     (s.cur.getP n = true → s.Ends (.bT n h off) (s.Branched (tgt off.toInt)) ∧ s.Ends (.bF n h off) s.Passed)
     ∧ (s.cur.getP n = false → s.Ends (.bT n h off) s.Passed ∧ s.Ends (.bF n h off) (s.Branched (tgt off.toInt)))
     ∧ s.Ends (.j joff) (s.Branched (tgt joff.toInt))
     ∧ s.Ends (.jal joff) (linked 13 (tgt joff.toInt))
     ∧ ((s.cur.getA a).toNat % 4 = 0 →
         s.Ends (.jr a) (s.Branched (s.cur.getA a)) ∧ s.Ends (.jalr d a) (linked d (s.cur.getA a)))
     ∧ ((s.cur.getA a).toNat % 4 ≠ 0 →
         let trapped (t : State) : Prop :=
           t = s.takeTrap s.focusCore s.focusFw { cause := .align, e0 := (s.cur.getA a).setWidth 64, e1 := 0, e2 := 0, e3 := 0 }
         s.Ends (.jr a) trapped ∧ s.Ends (.jalr d a) trapped))
  ∧ (∀ (s : State) (tgt : VAddr) (n : PReg) (h : Bool) (off : BitVec 21) (joff : BitVec 25) (d a : AReg),
       s.cur.slot = some tgt →
       ∀ i ∈ [Instr.bT n h off, .bF n h off, .j joff, .jal joff, .jr a, .jalr d a, .tret, .exit],
         s.Ends i fun t => t = s.takeTrap s.focusCore s.focusFw
           { cause := .illegalSlot, e0 := s.word.setWidth 64, e1 := 0, e2 := 0, e3 := 0 })

/-! ### Traps, registers, memory -/

/-- R439: what taking a trap saves, where it goes, and that it changes nothing else of the machine; an asynchronous one forgets the
table entries that the walks of the core have read, as R472 lets a later walk find. R441: a synchronous trap of the firmware
context inside a handler halts its core, and no save register changes. R95, R97, R173: a word that fails to decode traps ILLEGAL
with the word and the check; a fetch that fails traps PAGE or PROT with the PC. R161: an access whose address is not a multiple
of its size traps ALIGN with the address and the size. R161, R227, R241, R277: a scalar access whose address has no translation
traps PAGE, one that its page does not grant, or that meets the scratch area, PROT, with the address; the state is the one that
the walk leaves. R133, R190, R198, R276: a word that uses per-core state traps PRIV with 2 in EINFO1 in the firmware context
while the user context runs; `bar` is the user context's alone, and traps PRIV with 1 there. -/
def Obligations.TrapsAreTaken : Prop :=
  (∀ (s : State) (k : Nat) (fw : Bool) (t : Trap) (async : Bool) (pc : VAddr) (slot : Option VAddr),
     let c := s.ctx k fw
     c.ih = false → (fw = true ∨ c.tvec ≠ 0) →
     let u := s.takeTrapAt k fw t async pc slot
     let d := u.ctx k fw
     d.sstatus = pc.extractLsb' 64 8 ++ (slot.getD 0).extractLsb' 64 8 ++ (0 : BitVec 45) ++ BitVec.ofBool c.ds ++ BitVec.ofBool false
         ++ BitVec.ofBool fw
       ∧ d.epc = pc.extractLsb' 0 64 ∧ d.etgt = (slot.getD 0).extractLsb' 0 64
       ∧ d.ecause = BitVec.ofBool async ++ (0 : BitVec 55) ++ BitVec.ofNat 8 t.cause.code
       ∧ d.einfo0 = t.e0 ∧ d.einfo1 = t.e1 ∧ d.einfo2 = t.e2 ∧ d.einfo3 = t.e3
       ∧ d.ih = true ∧ d.ds = slot.isSome ∧ d.pc = (0 : BitVec 8) ++ c.tvec.extractLsb' 2 62 ++ (0 : BitVec 2) ∧ d.slot = none
       ∧ c.KeepsS d [] ∧ c.KeepsA d [] ∧ c.KeepsP d [] ∧ d.bucket = c.bucket ∧ d.fcsr = c.fcsr ∧ d.tvec = c.tvec
       ∧ u.ctx k (!fw) = s.ctx k (!fw) ∧ (∀ j, j ≠ k → u.core j = s.core j)
       ∧ u = { s with cores := u.cores, flights := if async then (s.dropWalk k).flights else s.flights })
  ∧ (∀ (s : State) (k : Nat) (t : Trap), (s.ctx k true).ih = true →
       let u := s.takeTrap k true t
       (u.core k) = { s.core k with dead := true } ∧ (∀ j, j ≠ k → u.core j = s.core j) ∧ u.mem = s.mem)
  ∧ (∀ (s : State) (w : W32) (check : Nat) (prot : Bool),
       s.Ends (.illegal w check) (fun t => t = s.takeTrap s.focusCore s.focusFw
         { cause := .illegal, e0 := w.setWidth 64, e1 := BitVec.ofNat 64 check, e2 := 0, e3 := 0 })
       ∧ s.Ends (.fetchFault prot) (fun t => t = s.takeTrap s.focusCore s.focusFw
         { cause := if prot then .prot else .page, e0 := s.cur.pc.extractLsb' 0 64, e1 := 0, e2 := 0, e3 := 0 }))
  ∧ (∀ (s : State) (d : Reg) (a : AReg) (fa : Bool) (sc : Scope) (o : MemOrd) (off : BitVec 10) (v w : W64),
       let traps (x : State) (i : Instr) (n : Nat) : Prop :=
         (s.Address a off n).toNat % n ≠ 0 → s.Ends i fun t =>
           t = x.takeTrap s.focusCore s.focusFw
             { cause := .align, e0 := (s.Address a off n).extractLsb' 0 64, e1 := BitVec.ofNat 64 n, e2 := 0, e3 := 0 }
       (s.Takes d → traps s (.ldI16 d a sc o off) 2 ∧ traps s (.ldN16 d a sc o off) 2 ∧ traps s (.ldI32 d a sc o off) 4
         ∧ traps s (.ldN32 d a sc o off) 4 ∧ traps s (.ld64 d a sc o off) 8
         ∧ (s.Takes (d + 1) → traps s (.ldp d a sc o off) 16))
       ∧ (s.Reads d v → traps s.counted (.st16 d a fa sc o off) 2 ∧ traps s.counted (.st32 d a fa sc o off) 4
         ∧ traps s.counted (.st64 d a fa sc o off) 8
         ∧ (s.Reads (d + 1) w → traps s.counted (.stp d a fa sc o off) 16)))
  ∧ (∀ (s s' : State) (d : Reg) (a : AReg) (fa : Bool) (sc : Scope) (o : MemOrd) (off : BitVec 10) (x : Nat) (v w : W64),
       let refused (r : State) (acc : Acc) (i : Instr) (n : Nat) : Prop :=
         let va := s.Address a off n
         let took (u : State) (c : Cause) (t : State) : Prop :=
           t = u.takeTrap s.focusCore s.focusFw { cause := c, e0 := va.extractLsb' 0 64, e1 := 0, e2 := 0, e3 := 0 }
         va.toNat % n = 0 →
         (r.translate s.focusCore s.focusFw acc va = (s', .page) → s.Ends i (took s' .page))
         ∧ (r.translate s.focusCore s.focusFw acc va = (s', .prot) → s.Ends i (took s' .prot))
         ∧ (s.focusFw = false → r.acquiring s.focusCore false = false → r.translate s.focusCore false acc va = (r, .ok (.spad s.focusCore x) none) →
             s.curCore.inScratch x n = true → s.Ends i (took r .prot))
       (s.Takes d →
         refused s .load (.ldI8 d a sc o off) 1 ∧ refused s .load (.ldN8 d a sc o off) 1
         ∧ refused s .load (.ldI16 d a sc o off) 2 ∧ refused s .load (.ldN16 d a sc o off) 2
         ∧ refused s .load (.ldI32 d a sc o off) 4 ∧ refused s .load (.ldN32 d a sc o off) 4 ∧ refused s .load (.ld64 d a sc o off) 8
         ∧ (s.Takes (d + 1) → refused s .load (.ldp d a sc o off) 16))
       ∧ (s.Reads d v →
         refused s.counted .store (.st8 d a fa sc o off) 1 ∧ refused s.counted .store (.st16 d a fa sc o off) 2
         ∧ refused s.counted .store (.st32 d a fa sc o off) 4 ∧ refused s.counted .store (.st64 d a fa sc o off) 8
         ∧ (s.Reads (d + 1) w → refused s.counted .store (.stp d a fa sc o off) 16)))
  ∧ (∀ (s : State) (d b : Reg) (a : AReg) (fa : Bool) (e : Eng) (m : BitVec 4) (n : BitVec 5) (kd ka kb : Hnd) (sc : Scope), s.focusFw = true →
       let denied (code : W64) (i : Instr) : Prop := s.Ends i fun t => ∃ u, (u = s ∨ u = s.dropReads) ∧
         t = u.takeTrap s.focusCore true { cause := .priv, e0 := s.word.setWidth 64, e1 := code, e2 := 0, e3 := 0 }
       (s.curCore.run = true →
         ∀ i ∈ [Instr.qTail e a, .qMark m b fa, .qSeq d e, .tmplLd d e a, .omClaim n, .omRel n, .xPost d a, .xWait d b fa, .xRenq d a b fa,
             .xRenqAck d a b fa, .xFence d b fa, .bkReq d a, .bkCancel d b fa, .bkStat d b fa, .tView kd a, .tMm kd ka kb a, .tEw kd ka kb a,
             .tRed kd ka a, .tTr kd ka a, .tCvt kd ka a, .tPerm kd ka a, .tSt ka kb a, .tPub ka kb a, .tap ka kb a, .tDrop kd,
             .csrR d 0x090, .csrR d 0x091, .csrR d 0x092, .csrW 0x090 b fa, .csrX d b fa 0x090], denied 2 i)
       ∧ denied 1 (.bar m sc))

/-- R193: `trap n` completes and then raises SWTRAP with its number and PC; `tret` continues after it, in a delay slot at the
branch's target. -/
def Obligations.TrapWordRaisesSwtrap : Prop :=
  (∀ (s : State) (n : BitVec 16), s.cur.ih = false → (s.focusFw = true ∨ s.cur.tvec ≠ 0) →
    let next : VAddr := s.cur.slot.getD (s.cur.pc + 4)
    s.Ends (.trap n) fun t =>
      t.cur.ecause = 0x16 ∧ t.cur.einfo0 = n.setWidth 64 ∧ t.cur.einfo1 = s.cur.pc.extractLsb' 0 64
        ∧ t.cur.einfo2 = 0 ∧ t.cur.einfo3 = 0
        ∧ t.cur.epc = next.extractLsb' 0 64 ∧ t.cur.sstatus.extractLsb' 56 8 = next.extractLsb' 64 8 ∧ t.cur.ds = false ∧ t.cur.etgt = 0
        ∧ t.cur.ih = true ∧ t.cur.pc = (0 : BitVec 8) ++ s.cur.tvec.extractLsb' 2 62 ++ (0 : BitVec 2) ∧ t.cur.slot = none
        ∧ s.cur.KeepsS t.cur [] ∧ s.cur.KeepsA t.cur [] ∧ s.cur.KeepsP t.cur [] ∧ t = { s with cores := t.cores }
        ∧ t.Ends .tret fun u => u.cur.pc = next ∧ u.cur.slot = none ∧ u.cur.ih = false)
  ∧ decodeWord 0xEC020005 = .ok (.trap 5)

/-- R194: `tret` restores STATUS and the PC; a trap taken in a delay slot resumes there, before the branch's target. Outside a
handler it traps TRET_CTX, in a delay slot ILLEGAL_SLOT. -/
def Obligations.TretRestores : Prop :=
  decodeWord 0xEC030000 = .ok .tret
  ∧ ∀ s : State,
    (s.NoSlot → s.cur.ih = true → s.Ends .tret fun t =>
      s.OnlyCtx t ∧
      t.cur = { s.cur with
        ih := s.cur.sstatus.getLsbD 1
        ds := s.cur.sstatus.getLsbD 2
        pc := s.cur.sstatus.extractLsb' 56 8 ++ s.cur.epc
        slot := if s.cur.ds then some (s.cur.sstatus.extractLsb' 48 8 ++ s.cur.etgt) else none
        op := none
        noticeLeft := 0 }
      ∧ t.cur.status s.focusFw = (0 : BitVec 61) ++ (s.cur.sstatus.extractLsb' 1 2) ++ BitVec.ofBool s.focusFw)
    ∧ (s.NoSlot → s.cur.ih = false → s.Ends .tret fun t =>
        t = s.takeTrap s.focusCore s.focusFw { cause := .tretCtx, e0 := 0, e1 := 0, e2 := 0, e3 := 0 })
    ∧ (∀ tgt, s.cur.slot = some tgt → s.Ends .tret fun t =>
        t = s.takeTrap s.focusCore s.focusFw { cause := .illegalSlot, e0 := s.word.setWidth 64, e1 := 0, e2 := 0, e3 := 0 })

/-- R135 to R138, R190: a register of the context or the core reads as the manual says, is written with its reserved bits dropped,
and is exchanged in one step; a register that firmware writes traps PRIV on a user write. R137: FCSR reads its five flags and
its rounding mode; a write takes every flag, and a reserved rounding mode leaves the mode as it was. Where the manual is silent,
the model's choice: log entry 52. -/
def Obligations.ControlRegisterWords : Prop :=
  (∀ (s : State) (d a : Reg) (fa : Bool) (n : BitVec 12) (v : W64),
     (∀ m w, (m, w) ∈ [((0x002 : BitVec 12), s.cur.tvec), (0x003, BitVec.ofNat 64 s.tb), (0x009, s.cur.epc), (0x00A, s.cur.etgt),
         (0x00B, s.cur.ecause), (0x00C, s.cur.einfo0), (0x00D, s.cur.einfo1), (0x00E, s.cur.einfo2), (0x00F, s.cur.einfo3),
         (0x0C0, BitVec.ofNat 64 (s.pkg * 2 ^ 32 + s.focusCore))] → s.Takes d → s.Ends (.csrR d m) (s.WroteS d w))
     ∧ (s.Reads a v → ∀ m x, (m, x) ∈ [((0x002 : BitVec 12), { s.cur with tvec := v.extractLsb' 2 62 ++ (0 : BitVec 2) }),
           (0x009, { s.cur with epc := v.extractLsb' 2 62 ++ (0 : BitVec 2) }),
           (0x00A, { s.cur with etgt := v.extractLsb' 2 62 ++ (0 : BitVec 2) }),
           (0x008, { s.cur with sstatus := v.extractLsb' 48 16 ++ (0 : BitVec 45) ++ v.extractLsb' 1 2 ++ BitVec.ofBool s.focusFw })] →
         s.Ends (.csrW m a fa) (s.setCur x).Passed
         ∧ (s.Takes d → s.Ends (.csrX d a fa m) ((s.setCur x).WroteS d (s.csrRead s.focusCore s.focusFw m.toNat))))
     ∧ (s.focusFw = false → firmwareWritten n.toNat = true →
         s.Ends (.csrW n a fa) fun t => t = s.takeTrap s.focusCore false
           { cause := .priv, e0 := s.word.setWidth 64, e1 := 3, e2 := n.setWidth 64, e3 := 0 }))
  ∧ (∀ (c : Ctx) (v : W64),
       c.fcsr = (0 : BitVec 55) ++ BitVec.ofBool c.nv ++ BitVec.ofBool c.dz ++ BitVec.ofBool c.of ++ BitVec.ofBool c.uf
           ++ BitVec.ofBool c.nx ++ (0 : BitVec 1) ++ BitVec.ofNat 3 (rmCode c.rm)
       ∧ (c.setFcsr v).nv = v.getLsbD 8 ∧ (c.setFcsr v).dz = v.getLsbD 7 ∧ (c.setFcsr v).of = v.getLsbD 6
       ∧ (c.setFcsr v).uf = v.getLsbD 5 ∧ (c.setFcsr v).nx = v.getLsbD 4
       ∧ (v.toNat % 8 < 4 → rmCode (c.setFcsr v).rm = v.toNat % 8) ∧ (4 ≤ v.toNat % 8 → (c.setFcsr v).rm = c.rm)
       ∧ c.KeepsS (c.setFcsr v) [])

/-- R162, R165, R167, R370: a load from the own scratchpad that has nothing to follow delivers its bytes, extended as the word says,
before the next word; an ordered one acquires at its scope (R144). R169, R448: where they are uncorrectable its registers hold
the mark of ECC. One that has to follow an access of its context that is not performed leaves as a load in flight. R162, R165: a
load from anywhere else marks its destination PENDING and goes on; the load in flight knows where and how it reads. One of
another package waits at issue while a store of its context to the same bytes has not left for it (R164). Where the manual is
silent, the model's choice: log entries 13, 15. -/
def Obligations.LoadsReadTheirBytes : Prop :=
  (∀ (s : State) (d : Reg) (a : AReg) (sc : Scope) (o : MemOrd) (off : BitVec 10) (x : Nat), s.Takes d →
     let u := s.followSc s.focusCore s.focusFw
     let after := if ordered o sc then u.acquire s.focusCore sc else u
     let here (i : Instr) (n : Nat) (sx : Bool) (P : State → Prop) : Prop :=
       let va := s.Address a off n
       let now : Prop :=
         u.allPerformed s.focusCore ((if o = .sc then u.orderAfter s.focusCore s.focusFw sc else []) ++ u.cur.scLast) = true
           ∧ u.olderOverlap u.nextTag s.focusCore (.scalar s.focusFw) (.spad s.focusCore x) n true false = false
       let marked (t : State) (r : Reg) : Prop :=
         t.cur.getFE r = .full ∧ (r ≠ 0 → t.cur.getMark r = some
           { trap := { cause := .ecc, e0 := s.cur.pc.extractLsb' 0 64, e1 := va.extractLsb' 0 64, e2 := r.setWidth 64, e3 := 0 }, of := none })
       (n = 16 → s.Takes (d + 1)) → s.Own .load va n x →
         (now → s.curCore.spadBad x n = false → s.Ends i P)
         ∧ (now → s.curCore.spadBad x n = true → s.Ends i fun t =>
             marked t d ∧ (n = 16 → marked t (d + 1)) ∧ s.cur.Moved t.cur ∧ s.cur.KeepsS t.cur (if n = 16 then [d, d + 1] else [d])
               ∧ s.cur.KeepsA t.cur [] ∧ s.cur.KeepsP t.cur [] ∧ t.mem = s.mem)
         ∧ (¬ now → s.Ends i (s.LeftLoad s.nextTag d n sx o sc (.spad s.focusCore x)))
     let load (i : Instr) (n : Nat) (sx : Bool) : Prop :=
       let v := BitVec.ofNat (8 * n) (leNat (s.curCore.spadRead x n))
       here i n sx (after.WroteS d (if sx then v.signExtend 64 else v.setWidth 64))
     load (.ldI8 d a sc o off) 1 true ∧ load (.ldN8 d a sc o off) 1 false
     ∧ load (.ldI16 d a sc o off) 2 true ∧ load (.ldN16 d a sc o off) 2 false
     ∧ load (.ldI32 d a sc o off) 4 true ∧ load (.ldN32 d a sc o off) 4 false ∧ load (.ld64 d a sc o off) 8 false
     ∧ (let bs := s.curCore.spadRead x 16
        here (.ldp d a sc o off) 16 false fun t =>
          after.OnlyCtx t ∧ ({ s.cur with scLast := t.cur.scLast } : Ctx).OnlyRegs t.cur ∧ s.cur.Moved t.cur
            ∧ t.cur.Holds d (BitVec.ofNat 64 (leNat (bs.take 8))) ∧ t.cur.Holds (d + 1) (BitVec.ofNat 64 (leNat (bs.drop 8)))
            ∧ s.cur.KeepsS t.cur [d, d + 1] ∧ s.cur.KeepsA t.cur [] ∧ s.cur.KeepsP t.cur []))
  ∧ (∀ (s s' : State) (d : Reg) (a : AReg) (sc : Scope) (o : MemOrd) (off : BitVec 10) (p : Place), s.Takes d →
       let load (i : Instr) (n : Nat) (sx : Bool) : Prop :=
         s.Elsewhere .load (s.Address a off n) n p none s' → (n = 16 → s.Takes (d + 1)) →
         (p.pkg.isSome = true → s'.anyFlight (fun _ f => match f with
           | .store g => decide (g.core = s.focusCore) && decide (g.agent = .scalar s.focusFw) && placesMeet p n g.place g.bytes.length
           | _ => false) = false) →
         s.Ends i (s.LeftLoad s'.nextTag d n sx o sc p)
       load (.ldI8 d a sc o off) 1 true ∧ load (.ldN8 d a sc o off) 1 false
       ∧ load (.ldI16 d a sc o off) 2 true ∧ load (.ldN16 d a sc o off) 2 false
       ∧ load (.ldI32 d a sc o off) 4 true ∧ load (.ldN32 d a sc o off) 4 false
       ∧ load (.ld64 d a sc o off) 8 false ∧ load (.ldp d a sc o off) 16 false)

/-- R163, R167: a store to the own scratchpad that has no access to follow writes its bytes there before the next word, and no other
byte; a store to anywhere else goes on with its bytes in flight and leaves memory as it is until its target applies it, and a
window store raises OUT (R233). Where the manual is silent, the model's choice: log entry 15. -/
def Obligations.StoresWriteTheirBytes : Prop :=
  ∀ (s s' : State) (d : Reg) (a : AReg) (fa : Bool) (sc : Scope) (o : MemOrd) (off : BitVec 10) (x : Nat) (p : Place) (win : Option Nat)
    (v w : W64), s.Reads d v →
    let store (i : Instr) (n : Nat) (bs : List Byte) : Prop :=
      let va := s.Address a off n
      s.NoAlias [.mem va n] →
      (s.Own .store va n x → s.MayOrder sc o →
        s.olderOverlap s.nextTag s.focusCore (.scalar s.focusFw) (.spad s.focusCore x) n true false = false → s.Ends i fun t =>
          let base := s.curCore.spadBase + x
          (∀ j, t.curCore.sram.get 0 j = if base ≤ j ∧ j < base + n then bs.getD (j - base) 0 else s.curCore.sram.get 0 j)
            ∧ s.cur.OnlyRegs t.cur ∧ s.cur.Moved t.cur ∧ s.cur.KeepsS t.cur [] ∧ s.cur.KeepsA t.cur [] ∧ s.cur.KeepsP t.cur []
            ∧ (∀ k, k ≠ s.focusCore → t.core k = s.core k)
            ∧ t = { (if ordered o sc then s.markRelease s.focusCore sc else s) with cores := t.cores })
      ∧ (s.counted.Elsewhere .store va n p win s' → s.cur.outFull win = false → s.Ends i fun t =>
          (∃ f : StoreF, t.flight s'.nextTag = some (.store f) ∧ f.core = s.focusCore ∧ f.agent = .scalar s.focusFw
            ∧ f.place = p ∧ f.bytes = bs ∧ f.ord = o ∧ f.scope = sc ∧ f.va = va ∧ f.win = win)
          ∧ t.mem = s.mem ∧ s.cur.Moved t.cur ∧ (({ s.cur with scLast := t.cur.scLast } : Ctx).addOut win).OnlyRegs t.cur
          ∧ s.cur.KeepsS t.cur [] ∧ s.cur.KeepsA t.cur [] ∧ s.cur.KeepsP t.cur [])
    let bytes (n : Nat) (u : W64) : List Byte := (List.range n).map fun i => u.extractLsb' (8 * i) 8
    store (.st8 d a fa sc o off) 1 (bytes 1 v) ∧ store (.st16 d a fa sc o off) 2 (bytes 2 v)
    ∧ store (.st32 d a fa sc o off) 4 (bytes 4 v) ∧ store (.st64 d a fa sc o off) 8 (bytes 8 v)
    ∧ (s.Reads (d + 1) w → store (.stp d a fa sc o off) 16 (bytes 8 v ++ bytes 8 w))

/-! ### Release, waits, queues -/

/-- R184, R185, R144: `fence` goes on once the accesses it orders are performed, and waits until then; one that acquires at die
scope or wider empties the data cache, and so does one at quad scope behind such an acquire of another core of the quad. R363,
R364: an acquire joins what happens before the values that its die may have read. R381 to R383: `bar` joins and goes on, and its
arrival is counted once the accesses that it orders are performed; the last arrival of a quad-scope episode frees every
participant, a core-scope one is released once the commands published before it have retired, and a participant whose last
episode has not been released to it waits. Where the manual is silent, the model's choice: log entries 15, 49. -/
def Obligations.FencesAndBarriers : Prop :=
  (∀ (s : State) (kind : FenceKind) (sc : Scope),
     let k := s.focusCore
     let ready : Prop := sc = .lane ∨
       ((kind ≠ .rel → s.loadsDone k s.focusFw = true) ∧ (kind ≠ .acq → s.released k s.focusFw sc = true))
     let acquired := if kind = .rel then s
       else (s.acquire k sc).joinWrites k fun _ of => decide (sc ≠ .lane) && (s.die (dieOf k)).seen.contains of
     (ready → s.Ends (.fence kind sc) (if kind = .acq then acquired else acquired.markRelease k sc).Passed)
     ∧ (¬ ready → s.Ends (.fence kind sc) fun t => t = s.setCur { s.cur with blocked := true })
     ∧ (let n := s.acqs.get 0 (quadOf k)
        (s.acquire k sc).curCore = { s.curCore with
          dcache := if 3 ≤ sc.code ∨ (sc = .quad ∧ s.curCore.acqSeen ≠ n) then [] else s.curCore.dcache
          acqSeen := if 3 ≤ sc.code then n + 1 else if sc = .quad then n else s.curCore.acqSeen }))
  ∧ (∀ (s : State) (n : BitVec 4) (sc : Scope), s.focusFw = false →
       let k := s.focusCore
       let gang := s.gangOf k
       let ms := s.barMembers gang k sc.code
       let inst := instOf k sc.code
       let b := s.barCtr gang sc.code inst n.toNat
       (s.curCore.barHeld sc.code n.toNat = false →
         s.Ends (.bar n sc) fun t =>
           s.cur.Moved t.cur ∧ s.cur.OnlyRegs t.cur ∧ s.cur.KeepsS t.cur [] ∧ s.cur.KeepsA t.cur [] ∧ s.cur.KeepsP t.cur [] ∧ t.mem = s.mem
             ∧ (s.released k false sc = true → b.arr + 1 < ms.length →
                 (t.barCtr gang sc.code inst n.toNat).arr = b.arr + 1 ∧ t.curCore.barHeld sc.code n.toNat = true)
             ∧ (s.released k false sc = true → sc = .core →
                 (t.curCore.barHeld 1 n.toNat = true ↔ ∃ e : Eng, (s.curCore.eng e).done < (s.curCore.eng e).counted))
             ∧ (s.released k false sc = true → sc = .quad → ms.length ≤ b.arr + 1 →
                 (t.barCtr gang 2 inst n.toNat).arr = 0 ∧ (t.barCtr gang 2 inst n.toNat).ep = (b.ep + 1) % 65536
                 ∧ ∀ m ∈ ms, s.gangOf m = gang → (t.core m).barHeld 2 n.toNat = false)
             ∧ (s.released k false sc = false →
                 t.flight s.nextTag = some (.arrive k sc.code n.toNat (s.orderAfter k false sc))
                 ∧ t.barCtr gang sc.code inst n.toNat = b ∧ t.curCore.barHeld sc.code n.toNat = true))
       ∧ (s.curCore.barHeld sc.code n.toNat = true → s.Ends (.bar n sc) fun t => t = s.setCur { s.cur with blocked := true }))

/-- R188: `pub` of a correct range list swaps the visible page and the twin of each named page once and in one step, after the
release at its scope. R187, R188: a list of no ranges, of more than eight, or with an empty one traps ILLEGAL; a range that is
not 64 KiB aligned traps ALIGN; the first page that is not mapped traps PAGE, the first that is not user, writable and shadow
PROT, and no page has changed. R188, R243: swapping one page inverts PH of its entry, and only the bytes of that entry change;
every first-level TLB of the scope's instance that holds the page holds the new entry, and no other TLB of a core changes. R235:
an entry in another package is written over the CL. Where the manual is silent, the model's choice: log entry 35. -/
def Obligations.PublicationSwapsPages : Prop :=
  (∀ (s s1 s2 : State) (a : AReg) (sc : Scope) (hd bs : List Byte), s.acquiring s.focusCore s.focusFw = false →
     let va := s.cur.getA a
     let k := s.focusCore
     s.counted.Desc va 16 hd s1 → s1.Desc va (16 * (field hd 0 1 % 16 + 1)) bs s2 →
     let rs := pubRanges bs
     let pages := rs.flatMap PubRange.pages
     let traps (u : State) (c : Cause) (e0 e1 : W64) : Prop := s.Ends (.pub a sc) fun t =>
       t = u.dropReads.takeTrap k s.focusFw { cause := c, e0 := e0, e1 := e1, e2 := 0, e3 := 0 }
     ((rs.length = 0 ∨ 8 < rs.length ∨ ∃ r ∈ rs, r.npg = 0) → traps s2 .illegal (s.word.setWidth 64) 5)
     ∧ (1 ≤ rs.length → rs.length ≤ 8 → (∀ r ∈ rs, r.npg ≠ 0) →
       (∀ r, rs.find? (fun r => decide (r.base.toNat % 65536 ≠ 0)) = some r → traps s2 .align (r.base.extractLsb' 0 64) 65536)
       ∧ ((∀ r ∈ rs, r.base.toNat % 65536 = 0) →
         (∀ u, s2.checkPages k pages = .ok u →
           (s.focusFw = true ∨ s.cur.resumed = true ∨
             ∀ r ∈ rs, u.aliasSets k u.curCore.wseq (.mem r.base (65536 * r.npg)) = []) →
           u.released k s.focusFw sc = true → u.entriesHeld k (.scalar s.focusFw) pages = false →
           s.Ends (.pub a sc) fun t =>
             t = ((u.swapPages k (.scalar s.focusFw) sc pages).markRelease k sc).retire.dropReads)
         ∧ (∀ (u v : State) (before after : List VAddr) (p : VAddr), pages = before ++ p :: after → s2.checkPages k before = .ok u →
           (p.toNat / 2 ^ 64 = 0xFF → traps u .prot (p.extractLsb' 0 64) 0)
           ∧ (p.toNat / 2 ^ 64 ≠ 0xFF → u.pageEntry k p = (v, .fault) → traps (v.dropWalk k) .page (p.extractLsb' 0 64) 0)
           ∧ (∀ lo e at_, u.pageEntry k p = (v, .leaf lo e at_) →
               ¬ (e.getLsbD 58 = true ∧ e.getLsbD 60 = true ∧ e.getLsbD 56 = true) →
               traps (v.dropWalk k) .prot (p.extractLsb' 0 64) 0)))))
  ∧ (∀ (s s1 : State) (k : Nat) (g : Agent) (sc : Scope) (va : VAddr) (lo : Nat) (e : W64) (at_ : Nat),
       s.pageEntry k va = (s1, .leaf lo e at_) →
       let q := nbits at_ 55 45
       let t := s.swapPages k g sc [va]
       (s.ownPkg q = true →
         leNat (readBytes t.mem (homeKey at_) 8) = (e ^^^ 0x80).toNat
           ∧ (∀ key, (key < homeKey at_ ∨ homeKey at_ + 8 ≤ key) → t.byteAt key = s.byteAt key))
       ∧ (s.ownPkg q = false → t.mem = s.mem ∧ (s.hops q ≠ 3 → s.Sent t fun p =>
           p.opc = 1 ∧ p.dpkg = q ∧ p.spkg = s.pkg ∧ p.pa = at_ ∧ p.ackreq = true ∧ p.data.length = 8 ∧ leNat p.data = (e ^^^ 0x80).toNat))
       ∧ ∀ j, (t.core j).tlb =
           if sameInst j k sc then (s.core j).tlb.map (·.flip (s.core k).asn va) else (s.core j).tlb)

/-- R195, R314, R457: `exit` stops user fetch, discards the casks, and leaves memory as it is; in the firmware context it traps
PRIV. Where the manual is silent, the model's choice: log entry 60. -/
def Obligations.ExitStopsTheUserContext : Prop :=
  ∀ s : State, s.NoSlot →
    (s.focusFw = false → s.NoFault [.ce, .me, .ve, .sae] →
      s.Ends .exit fun t =>
        t.curCore.run = false ∧ t.curCore.casks = [] ∧ t.curCore.hnds = []
          ∧ t.curCore.task = s.curCore.task.map (fun r => { r with exited := true }) ∧ t.mem = s.mem)
    ∧ (s.focusFw = true → s.Ends .exit fun t => t = s.takeTrap s.focusCore true
        { cause := .priv, e0 := s.word.setWidth 64, e1 := 1, e2 := 0, e3 := 0 })

/-- R145 to R147: a `wait` whose conditions hold completes at once with its truth bits; one whose conditions do not holds its
context; one of no condition, of more than four, or with a condition that the manual does not allow gives BAD_DESC. R147, R217:
what ends a `wait` in a tick, for a context that holds one: its conditions come true and its register takes the truth bits; a
promise has passed, which traps PROMISE_MISS and clears it; its time-out has passed, which traps STALL. Where the manual is
silent, the model's choice: log entries 55, 56. -/
def Obligations.WaitsBeginAndEnd : Prop :=
  (∀ (s s1 s2 : State) (d : Reg) (a : AReg) (b : Reg) (fb : Bool) (lim : W64) (hd bs : List Byte),
     let va := s.cur.getA a
     let n := field hd 0 1 % 8
     s.Reads b lim → s.Takes d → s.Desc va 16 hd s1 →
     let badDesc : Prop := s.Ends (.wait d a b fb) fun t => s.cur.Took t.cur d 0x1000000000000000 ∧ t.mem = s.mem
     ((n = 0 ∨ 4 < n) → badDesc)
     ∧ (1 ≤ n → n ≤ 4 → s1.Desc va (16 + 16 * n) bs s2 →
       let ws := waitConds bs n
       let allOf := nbit (field hd 0 2) 8
       let ts := ws.map (s2.condTrue s.focusCore s.focusFw)
       ((∃ w ∈ ws, w.kind = 0 ∨ 7 < w.kind ∨ (w.kind = 2 ∧ 5 < w.sel / 16 % 8) ∨ (w.kind = 6 ∧ w.sel % 16 = 0)) → badDesc)
       ∧ ((∀ w ∈ ws, w.bad = false) → (s.focusFw = false → ∀ w ∈ ws, s2.condFault s.focusCore w = none) →
         let met : Prop := if allOf then ∀ t ∈ ts, t = true else ∃ t ∈ ts, t = true
         (met → s.Ends (.wait d a b fb) fun t => s.cur.Took t.cur d (truthWord ts) ∧ t.mem = s.mem)
         ∧ (¬ met → (∀ w ∈ ws, s2.condMissed s.focusCore s.focusFw w = false) →
             s.Ends (.wait d a b fb) fun t =>
               t.cur.op = some (.wait d allOf ws lim.toNat s.tb) ∧ s.cur.Stays t.cur ∧ t.mem = s.mem))))
  ∧ (∀ (s : State) (k : Nat) (fw : Bool) (d : Reg) (allOf : Bool) (ws : List WaitCond) (lim start : Nat),
       let c := s.ctx k fw
       c.op = some (.wait d allOf ws lim start) → ws ≠ [] → (s.core k).stopped = false →
       (fw = false → ∀ w ∈ ws, s.condFault k w = none) →
       let ts := ws.map (s.condTrue k fw)
       let met : Prop := if allOf then ∀ t ∈ ts, t = true else ∃ t ∈ ts, t = true
       (met → (lim = 0 ∨ s.tb - start ≤ lim) → s.Ends (.waitComplete k fw) fun t =>
         let e := t.ctx k fw
         c.Moved e ∧ e.Holds d (truthWord ts) ∧ c.KeepsS e [d] ∧ c.KeepsA e [] ∧ c.KeepsP e [] ∧ t.mem = s.mem
           ∧ t.ctx k (!fw) = s.ctx k (!fw))
       ∧ (¬ met → c.ih = false → (fw = true ∨ c.tvec ≠ 0) →
         (∀ j w, firstCond (s.condMissed k fw) 0 ws = some (j, w) →
           let b := (s.core k).slotOf (w.sel % 64)
           s.Ends (.promiseMiss k fw) fun t =>
             let e := t.ctx k fw
             e.ecause = 0x0A ∧ e.einfo0 = BitVec.ofNat 64 j ∧ e.einfo1 = BitVec.ofNat 64 (w.sel % 64)
               ∧ e.einfo2 = BitVec.ofNat 64 b.promise ∧ e.einfo3 = b.bits ∧ e.epc = c.pc.extractLsb' 0 64
               ∧ (t.core k).slotOf (w.sel % 64) = { b with promise := 0 } ∧ c.KeepsS e [] ∧ t.mem = s.mem)
         ∧ (firstCond (s.condMissed k fw) 0 ws = none → lim ≠ 0 → lim ≤ s.tb - start →
           s.Ends (.stallTimeout k fw) fun t =>
             let e := t.ctx k fw
             e.ecause = 0x09 ∧ e.epc = c.pc.extractLsb' 0 64 ∧ e.op = none ∧ c.KeepsS e [] ∧ t.mem = s.mem
               ∧ (∃ j, j < ws.length ∧ e.einfo0 = BitVec.ofNat 64 j ∧ ts[j]? = some false ∧ ∀ i, i < j → ts[i]? = some true))))

/-- R203, R207: `q.seq` reads the number of commands counted; `q.mark` places its marker behind the queue of each engine it names,
and of no other. R202: `q.tail` releases at core scope, advances the tail, counts the commands it has read, appends them to the
queue in their order, and marks their promise registers PENDING. R213, R438: a template load that has failed traps TMPL_CRC
first, once; then a tail that is not 4-byte aligned traps ALIGN. R117 to R119, R213: `tmpl.ld` marks its register PENDING with
the load behind it; at a command boundary the plane is swapped in where the load is good, and otherwise stays as it was and the
failure is kept for the next `q.tail`. R319, R320: `om.claim` marks a slot CLAIMED unless the expander holds it, for which it
waits; `om.rel` frees a slot that no unretired command names. Where the manual is silent, the model's choice: log entries 43,
70. -/
def Obligations.QueueWords : Prop :=
  (∀ (s : State) (d : Reg) (e : Eng) (m : BitVec 4) (a : Reg) (fa : Bool) (v : W64), s.MayUseCore →
     (s.NoFault [e] → s.Takes d → s.Ends (.qSeq d e) (s.WroteS d (BitVec.ofNat 64 (s.curCore.eng e).counted)))
     ∧ (s.Reads a v → s.NoFault ([Eng.ce, .me, .ve, .sae].filter fun e => m.getLsbD e.code) →
         s.Ends (.qMark m a fa) fun t => ∃ c : Core,
           (s.setCurCore c).Passed t
           ∧ (∀ e : Eng, ∃ x : Entry, x.kind = .qmark (v.toNat % 65536) ∧ x.seq = 0 ∧ c.eng e = { s.curCore.eng e with
               q := (s.curCore.eng e).q ++ (if m.getLsbD e.code then [x] else []) })
           ∧ c = { s.curCore with me := c.me, ce := c.ce, ve := c.ve, sae := c.sae }))
  ∧ (∀ (s : State) (e : Eng) (a : AReg) (p : Pub), s.MayUseCore → s.NoFault [e] →
       let x := s.curCore.eng e
       (x.tmplf = true → s.cur.op ≠ some .tailed → s.cur.CanTrap s.focusFw → s.Ends (.qTail e a) fun t =>
         s.cur.Trapped t.cur Cause.tmplCrc.code x.tmplRes (BitVec.ofNat 64 e.code) 0 0 ∧ (t.curCore.eng e).tmplf = false ∧ t.mem = s.mem)
       ∧ (x.tmplf = false → (s.cur.getA a).toNat % 4 ≠ 0 → s.cur.CanTrap s.focusFw → s.Ends (.qTail e a) fun t =>
           s.cur.Trapped t.cur Cause.align.code ((s.cur.getA a).extractLsb' 0 64) 4 0 0 ∧ (t.curCore.eng e).q = x.q ∧ t.mem = s.mem)
       ∧ (x.tmplf = false → x.loads = [] → (s.cur.getA a).toNat % 4 = 0 →
       publishLoop e x.tmpl (if s.focusFw then 0 else s.counted.curCore.wseq) (s.cur.getA a) tailFuel
         { s := s.counted, addr := x.partialAddr, words := x.partialWords, new := [], counted := x.counted, stop := x.linkStop } = .ok p →
       p.s.released s.focusCore s.focusFw .core = true →
       s.Ends (.qTail e a) fun t =>
         (∃ es : List Entry, es.map Entry.addr = p.new.map Entry.addr ∧ es.map Entry.seq = p.new.map Entry.seq
             ∧ es.map Entry.built = p.new.map Entry.built ∧ (t.curCore.eng e).q = x.q ++ es)
           ∧ (t.curCore.eng e).tail = s.cur.getA a ∧ (t.curCore.eng e).counted = p.counted
           ∧ (∀ y ∈ p.new, y.promOn = true → y.prom ≠ 0 → t.cur.getFE y.prom = .pending)
           ∧ s.cur.Moved t.cur ∧ (∀ r, t.cur.getS r = s.cur.getS r) ∧ s.cur.KeepsA t.cur [] ∧ s.cur.KeepsP t.cur [] ∧ t.mem = s.mem))
  ∧ ((∀ (s s' : State) (d : Reg) (e : Eng) (a : AReg) (ds : List Delta), s.MayUseCore → s.NoFault [e] → s.Takes d →
       (s.cur.getA a).toNat % 8 = 0 → readDeltas s (s.cur.getA a) 63 = .ok s' ds →
       let x := s'.curCore.eng e
       let base := match x.loads.getLast? with | some l => l.plane | none => x.tmpl
       s.Ends (.tmplLd d e a) fun t =>
         (∃ l : TmplLoad, (t.curCore.eng e).loads = x.loads ++ [l] ∧ l.d = d ∧ l.fw = s.focusFw ∧ l.result = (applyDeltas 0 base ds).2
             ∧ l.plane = (if l.result = 0 then (applyDeltas 0 base ds).1 else base))
           ∧ t.cur.getFE d = (if d = 0 then .full else .pending) ∧ s.cur.Moved t.cur ∧ s.cur.KeepsS t.cur [d]
           ∧ s.cur.KeepsA t.cur [] ∧ s.cur.KeepsP t.cur [] ∧ t.mem = s.mem)
     ∧ ∀ (s : State) (k : Nat) (e : Eng) (l : TmplLoad) (ls : List TmplLoad),
       let x := (s.core k).eng e
       x.loads = l :: ls → x.executing = false → (s.core k).stopped = false →
       s.Ends (.templateSwap k e) fun t =>
         let y := (t.core k).eng e
         (l.result = 0 → y.tmpl = l.plane ∧ y.tmplf = x.tmplf)
           ∧ (l.result ≠ 0 → y.tmpl = x.tmpl ∧ y.tmplf = true ∧ y.tmplRes = l.result)
           ∧ y.loads = ls ∧ (t.ctx k l.fw).Holds l.d l.result ∧ (s.ctx k l.fw).KeepsS (t.ctx k l.fw) [l.d] ∧ t.mem = s.mem)
  ∧ (∀ (s : State) (n : BitVec 5), s.MayUseCore →
       let set (v : SlotSt) (t : State) : Prop := ∃ c : Core,
         (s.setCurCore c).Passed t ∧ c = { s.curCore with omSt := c.omSt }
           ∧ ∀ i, c.slot i = if i = n.toNat then v else s.curCore.slot i
       (s.curCore.slot n.toNat ≠ .exp → s.Ends (.omClaim n) (set .claimed))
       ∧ (s.curCore.slot n.toNat = .exp → s.Ends (.omClaim n) fun t => t = s.setCur { s.cur with blocked := true })
       ∧ (s.NoFault [.me] → s.curCore.slotNamed n.toNat = false → s.Ends (.omRel n) (set .free))
       ∧ (s.NoFault [.me] → s.curCore.slotNamed n.toNat = true →
           s.Ends (.omRel n) fun t => t = s.setCur { s.cur with blocked := true }))

/-- R411 to R413: `x.renq` sends its card and goes on with STATUS SENT; `x.renq.ack` sends it and holds its context; both read the
card and release at pod scope first. A card that is not 128-byte aligned traps ALIGN. R415, R416: `x.fence` takes the bytes sent
to a package since the last fence, sends them in a FENCE, and its register awaits the answer; towards an unreachable package it
ends at once. R419 to R421, R428: `x.post` of a correct manifest sends it to the harbourmaster and awaits the answer, and
refuses a malformed one, or one whose receive buffer cannot be published, with status 4; `x.wait` copies a failed result word,
awaits a round that is posted, and answers a round that is over. Where the manual is silent, the model's choice: log entry 6. -/
def Obligations.FabricWords : Prop :=
  (∀ (s s' : State) (d : Reg) (a : AReg) (b : Reg) (fb : Bool) (v : W64) (card : List Byte),
     let va := s.cur.getA a
     let pkg := v.toNat % 2048
     let dst := if pkg = 0x7FF then s.pkg else pkg
     s.MayUseCore → s.Reads b v → s.Takes d →
     (va.toNat % 128 = 0 → (pkg ≤ 1057 ∨ pkg = 0x7FF) → s.Desc va 128 card s' →
       s'.released s.focusCore s.focusFw .pod = true → s.hops dst ≠ 3 →
       let packet (ack : Bool) (q : Packet) : Prop :=
         q.opc = 8 ∧ q.ackreq = ack ∧ q.dpkg = dst ∧ q.spkg = s.pkg ∧ q.score = s.focusCore
           ∧ q.arg = BitVec.ofNat 64 (nbits v.toNat 21 16) ∧ q.data = card
       s.Ends (.xRenq d a b fb) (fun t => s.cur.Took t.cur d 0 ∧ s.Sent t (packet false) ∧ t.mem = s.mem)
       ∧ s.Ends (.xRenqAck d a b fb) (fun t => s.cur.Stays t.cur ∧ s.Sent t (packet true) ∧ t.mem = s.mem
           ∧ ∃ tag, t.cur.op = some (.renq d tag (s.tb + s.acktmo) v va)))
     ∧ (va.toNat % 128 ≠ 0 → ∀ i ∈ [Instr.xRenq d a b fb, .xRenqAck d a b fb], s.Ends i fun t =>
         t = s.dropReads.takeTrap s.focusCore s.focusFw { cause := .align, e0 := va.extractLsb' 0 64, e1 := 128, e2 := 0, e3 := 0 }))
  ∧ (∀ (s : State) (d a : Reg) (fa : Bool) (v : W64),
       let pkg := v.toNat % 2048
       s.MayUseCore → s.Reads a v → s.Takes d → pkg ≤ 1057 → pkg ≠ s.pkg → s.released s.focusCore s.focusFw .pod = true →
       (s.hops pkg ≠ 3 → s.Ends (.xFence d a fa) fun t =>
         s.cur.Awaits t.cur d ∧ t.curCore.sent.get 0 pkg = 0 ∧ t.mem = s.mem
           ∧ (∃ f : FenceSrc, t.fenceSrc = s.fenceSrc ++ [f] ∧ f.core = s.focusCore ∧ f.d = d ∧ f.pkg = pkg
               ∧ f.n = s.curCore.sent.get 0 pkg ∧ f.deadline = s.tb + s.ftmo + s.acktmo ∧ f.pc = s.cur.pc)
           ∧ s.Sent t fun q => q.opc = 0xA ∧ q.dpkg = pkg ∧ q.spkg = s.pkg ∧ q.score = s.focusCore ∧ q.ackreq = true
               ∧ q.arg = BitVec.ofNat 64 (s.curCore.sent.get 0 pkg))
       ∧ (s.hops pkg = 3 → s.Ends (.xFence d a fa) fun t =>
           s.cur.Took t.cur d (BitVec.ofNat 64 (2 * 2 ^ 60 + 2 * 2 ^ 44)) ∧ t.out = s.out ∧ t.mem = s.mem))
  ∧ ((∀ (s s1 s2 : State) (d : Reg) (a : AReg) (hd bs : List Byte),
       let va := s.cur.getA a
       s.MayUseCore → s.Takes d → s.Desc va 32 hd s1 → s1.Desc va (32 + 32 * field hd 4 1) bs s2 →
       s2.released s.focusCore s.focusFw .core = true →
       let m := manifestOf s.pkg s.focusCore s.hmGrp bs
       (s2.malformed m = true → s.Ends (.xPost d a) fun t =>
         s.cur.Took t.cur d (BitVec.ofNat 64 (4 * 2 ^ 60 + m.round * 2 ^ 40)) ∧ t.out = s.out ∧ t.mem = s.mem)
       ∧ (∀ u tr, s2.malformed m = false → s2.checkPages s.focusCore m.pages = .bad u tr → s.Ends (.xPost d a) fun t =>
         s.cur.Took t.cur d (BitVec.ofNat 64 (4 * 2 ^ 60 + m.round * 2 ^ 40)) ∧ t.out = s.out ∧ t.mem = s.mem)
       ∧ (∀ u, s2.malformed m = false → s2.checkPages s.focusCore m.pages = .ok u → s.hops s.hmPrim ≠ 3 → s.Ends (.xPost d a) fun t =>
           s.cur.Awaits t.cur d ∧ t.mem = s.mem
             ∧ (∃ x : PostF, t.posts = s.posts ++ [x] ∧ x.core = s.focusCore ∧ x.d = d ∧ x.round = m.round ∧ x.deadline = s.tb + s.acktmo)
             ∧ (∃ y : MyRound, t.myRounds = s.myRounds ++ [y] ∧ y.grp = s.hmGrp ∧ y.round = m.round ∧ y.core = s.focusCore ∧ y.addr = va)
             ∧ s.Sent t fun q => q.opc = 0x11 ∧ q.dpkg = s.hmPrim ∧ q.spkg = s.pkg))
     ∧ ∀ (s : State) (d a : Reg) (fa : Bool) (v : W64), s.MayUseCore → s.Reads a v → s.Takes d →
       let round := nbits v.toNat 55 40
       (v.toNat / 2 ^ 60 ≠ 0 → s.Ends (.xWait d a fa) (s.WroteS d v))
       ∧ (v.toNat / 2 ^ 60 = 0 →
         (∀ r, s.myRound s.hmGrp round = some r → s.Ends (.xWait d a fa) fun t =>
           s.cur.Awaits t.cur d ∧ t.mem = s.mem
             ∧ ∃ w : XWaitF, t.xwaits = s.xwaits ++ [w] ∧ w.core = s.focusCore ∧ w.d = d ∧ w.round = round)
         ∧ (s.myRound s.hmGrp round = none →
           (∀ r, s.results.find? (fun r => r.1 = s.hmGrp && r.2.1 = round) = some r →
             s.Ends (.xWait d a fa) ((s.acquire s.focusCore .pod).WroteS d r.2.2))
           ∧ (s.results.find? (fun r => r.1 = s.hmGrp && r.2.1 = round) = none →
             s.Ends (.xWait d a fa) (s.WroteS d (BitVec.ofNat 64 (7 * 2 ^ 60 + round * 2 ^ 40)))))))

/-- R78, R79, R81 to R83, R88: `bk.req` enters a request in the table and awaits its result, or ends it at once where the table is
full, the booking unit has stopped, or the descriptor is not valid, one of no use or of more than 16 among them; `bk.stat` reads
the word of a booking; `bk.cancel` ends a live one. That a stopped unit is judged before the descriptor is the model's choice.
Where the manual is silent, the model's choice: log entries 68, 71. -/
def Obligations.BookingWords : Prop :=
  (∀ (s s1 s2 : State) (d : Reg) (a : AReg) (hd bs : List Byte),
    let va := s.cur.getA a
    let n := field hd 0 1
    s.MayUseCore → s.Takes d → s.Desc va 16 hd s1 → (1 ≤ n → n ≤ 16 → s1.Desc (va + 16) (16 * n) bs s2) →
    let first := field hd 4 3
    let us : Option (List BUse) := if 1 ≤ n ∧ n ≤ 16 then usesOf bs n else none
    let entered (b : Booking) (t : State) : Prop :=
      t.curCore.booking b.id = some b ∧ b.id = s.curCore.nextId ∧ b.breq = s.berth ∧ t.curCore.idCtr = (b.id + 1) % 4096
        ∧ t.mem = s.mem
    (s.curCore.bookingsFull = true → s.Ends (.bkReq d a) fun t => s.cur.Took t.cur d tableFull ∧ t.curCore.books = s.curCore.books)
    ∧ (s.curCore.bookingsFull = false → (s.die (dieOf s.focusCore)).failstop = true →
        s.Ends (.bkReq d a) fun t => ∃ b, entered b t ∧ b.status = .fatal ∧ b.sub = 1 ∧ s.cur.Took t.cur d b.word)
    ∧ (s.curCore.bookingsFull = false → (s.die (dieOf s.focusCore)).failstop = false →
        ((us = none ∨ 8191 < first) →
          s.Ends (.bkReq d a) fun t => ∃ b, entered b t ∧ b.status = .refused ∧ b.sub = 2 ∧ s.cur.Took t.cur d b.word)
        ∧ (∀ vs, us = some vs → first ≤ 8191 →
          s.Ends (.bkReq d a) fun t => ∃ b, entered b t ∧ b.status = .held ∧ b.notBefore = first ∧ b.round = none
            ∧ b.uses = vs.map (fun u => { u with floor := s.berth + first }) ∧ s.cur.Awaits t.cur d)))
  ∧ ∀ (s : State) (d a : Reg) (fa : Bool) (v : W64), s.MayUseCore → s.Reads a v → s.Takes d →
    let id := nbits v.toNat 51 40
    (s.curCore.booking id = none →
      s.Ends (.bkStat d a fa) (s.WroteS d (BitVec.ofNat 64 (7 * 2 ^ 60 + id * 2 ^ 40)))
      ∧ s.Ends (.bkCancel d a fa) (s.WroteS d (BitVec.ofNat 64 (7 * 2 ^ 60 + id * 2 ^ 40))))
    ∧ (∀ b, s.curCore.booking id = some b →
      s.Ends (.bkStat d a fa) (s.WroteS d b.word)
      ∧ (b.live = false → s.Ends (.bkCancel d a fa) (s.WroteS d b.word))
      ∧ (b.live = true → b.dest = none → s.Ends (.bkCancel d a fa) fun t =>
          (∃ x, t.curCore.booking id = some x ∧ x.status = .cancelled ∧ x.sub = 0)
            ∧ s.cur.Took t.cur d (BitVec.ofNat 64 (3 * 2 ^ 60 + id * 2 ^ 40)) ∧ t.mem = s.mem)
      ∧ (∀ r, b.live = true → b.dest = some (s.focusFw, r) → r ≠ d → s.Ends (.bkCancel d a fa) fun t =>
          let w : W64 := BitVec.ofNat 64 (3 * 2 ^ 60 + id * 2 ^ 40)
          s.cur.Moved t.cur ∧ t.cur.Holds d w ∧ t.cur.Holds r w ∧ s.cur.KeepsS t.cur [d, r]))

/-- R273, R275, R279 to R281, R288: a tile word whose checks pass takes the first free entry of the cask table, binds its handle to
it, and records the view or the operation with its sources, depth, PC and write-sequence value. R274, R275, R315: `t.drop`
unbinds its handle and no other; an entry that another handle names stays. Where the manual is silent, the model's choice: log
entry 30. -/
def Obligations.TileWords : Prop :=
  (∀ (s s1 : State) (kd ka kb : Hnd) (a : AReg) (e : Nat), s.MayUseCore → s.curCore.freeEntry = some e →
     let va := s.cur.getA a
     let made (st : CaskState) (depth : Nat) (src : List Nat) (desc : CaskDesc) (t : State) : Prop :=
       (∃ x : Cask, t.curCore.cask e = some x ∧ x.st = st ∧ x.depth = depth ∧ x.src = src ∧ x.desc = desc ∧ x.memo = []
           ∧ x.age = s.curCore.age ∧ x.pc = s.cur.pc ∧ x.seq = s.counted.curCore.wseq)
         ∧ t.curCore.hnd kd = some e ∧ (∀ h, h ≠ kd → t.curCore.hnd h = s.curCore.hnd h) ∧ t.curCore.age = s.curCore.age + 1
         ∧ s.cur.WentOn t.cur ∧ t.mem = s.mem
     (∀ bs, s.counted.Desc va 64 bs s1 → viewReserved bs = none → s.curCore.unbacked (viewOf bs) = none →
       s.Ends (.tView kd a) (made .view 0 [] (.view (viewOf bs))))
     ∧ ∀ (s2 : State) (hd bs : List Byte), s.counted.Desc va 32 hd s1 → s1.Desc va (32 + 32 * nsrcOf hd) bs s2 →
       let op (i : Instr) (o : CaskOp) (k1 k2 : Hnd) : Prop :=
         let hs := sourceHnds bs k1 k2
         let src := hs.filterMap s.curCore.hnd
         let xs := src.filterMap s.curCore.cask
         let depth := 1 + xs.foldl (fun m x => max m x.depth) 0
         opReserved o bs = none → s.curCore.unboundHnd hs = none → opReservedFor (opOf o bs) (xs.map Cask.desc) = none →
         badMap (opOf o bs) (xs.map Cask.desc) = none → depth ≤ maxDepth →
         s.Ends i (made .pending depth src (.op (opOf o bs)))
       op (.tMm kd ka kb a) .mm ka kb ∧ op (.tEw kd ka kb a) .ew ka kb ∧ op (.tRed kd ka a) .red ka 0
         ∧ op (.tTr kd ka a) .tr ka 0 ∧ op (.tCvt kd ka a) .cvt ka 0 ∧ op (.tPerm kd ka a) .perm ka 0)
  ∧ (∀ (s : State) (kd : Hnd), s.MayUseCore →
       s.Ends (.tDrop kd) fun t =>
         t.curCore.hnd kd = none ∧ (∀ h, h ≠ kd → t.curCore.hnd h = s.curCore.hnd h)
           ∧ (∀ h e, h ≠ kd → s.curCore.hnd h = some e → t.curCore.cask e = s.curCore.cask e)
           ∧ s.cur.WentOn t.cur ∧ t.mem = s.mem)

/-- R279, R293 to R298, R313: a demanding word whose checks pass begins its demand and holds its context, and has read its
descriptor once; the tiles that an earlier issue of the same demand has written are not to be written again; `tap` of a view
alone does nothing. Where the manual is silent, the model's choice: log entries 18, 32. -/
def Obligations.DemandsBegin : Prop :=
  ∀ (s s1 : State) (kv kc : Hnd) (a : AReg) (bs : List Byte) (ev ec : Nat) (x : Cask), s.MayUseCore →
    s.counted.Desc (s.cur.getA a) 32 bs s1 →
    s.curCore.hnd kv = some ev → s.curCore.hnd kc = some ec → s.curCore.cask ec = some x →
    let dest : Option ViewDesc := if kv = kc then none
      else match (s.curCore.cask ev).map Cask.desc with | some (.view v) => some v | _ => none
    let org := (List.range 6).map fun i => field bs (2 * i) 2
    let ext := (List.range 6).map fun i => field bs (0x10 + 2 * i) 2
    boxReserved bs x.desc dest = none →
    let begins (i : Instr) (k : DemandKind) : Prop :=
      s.curCore.badHandle k kv kc = none →
      let work := DemandWork.box kv.toNat kc.toNat ev ec (k = .tap) (k = .pub) bs org ext (field bs 0x0C 2 % 8)
      let done := ((s.curCore.boxDone.find? fun b =>
        b.fw = s.focusFw && b.kv = kv.toNat && b.kc = kc.toNat && b.ev = ev && b.ec = ec && b.box = bs).map BoxDone.tiles).getD []
      s.Ends i fun t =>
        t.cur.op = some .demand ∧ s.cur.Stays t.cur ∧ t.mem = s.mem
          ∧ ∃ y, t.curCore.demand = some y ∧ y.work = work ∧ y.fw = s.focusFw ∧ y.done = done ∧ y.runs = [] ∧ y.written = false
              ∧ y.wseq = s.counted.curCore.wseq + (if s.focusFw then 1 else 0) ∧ y.descs = [(s.cur.getA a, bs)]
    (dest.isSome = true → begins (.tSt kv kc a) .st)
    ∧ (dest.isSome = true → 1 ≤ field bs 0x0C 2 % 8 → field bs 0x0C 2 % 8 ≤ 5 →
        (∀ v, dest = some v → ∃ u, s1.checkPages s.focusCore
          (pagesOf (v.writes ((List.range 6).map fun i => (0, field bs (0x10 + 2 * i) 2)))) = .ok u) →
        begins (.tPub kv kc a) .pub)
    ∧ ((dest.isSome = true ∨ x.st ≠ .view) → begins (.tap kv kc a) .tap)
    ∧ (kv = kc → x.st = .view → s.Ends (.tap kv kc a) fun t => s.cur.WentOn t.cur ∧ t.curCore.demand = s.curCore.demand ∧ t.mem = s.mem)

/-! ### Engine commands -/

/-- R205, R206, R217: a command that starts has its WAIT target taken from its counter and no other counter changed; a copy that
names a register, but for `cp.amo`, has delivered there the tick it promises. R400: a scatter-accumulate command keeps NOMERGE
as it stands. R201, R205, R212, R217: a command whose work is done, whose writes and what its retirement must follow are
performed, and whose paths have had their time, leaves its queue with its completion word written; without a fault it signals
its token and delivers its result; with one it halts its queue, keeps its cause, and its register holds zero, marked for the
user context. Where the manual is silent, the model's choice: log entries 16, 41. -/
def Obligations.CommandsStartAndRetire : Prop :=
  (∀ (s b : State) (k : Nat) (e : Eng) (t t1 : Entry) (c : Tmpl), s.Starts k e t c b t1 →
     t1 = { t with started := some s.tb, pos := if e = .sae then (if (s.core k).nomerge then 2 else 1) else 0 }
       ∧ b.command k e t.seq = some t1
       ∧ (∀ n, (b.core k).tk.get 0 n =
           if n = fieldOf c 29 / 2048 then (s.core k).tk.get 0 n - fieldOf c 29 % 2048 else (s.core k).tk.get 0 n)
       ∧ (e = .ce → opCode c ≠ 6 → t.promOn = true → bookOf c = none →
           (b.ctx k t.fw).Holds t.prom (BitVec.ofNat 64 (s.tb + fieldOf c 28 + 1)) ∧ (s.ctx k t.fw).KeepsS (b.ctx k t.fw) [t.prom])
       ∧ ((e ≠ .ce ∨ opCode c = 6 ∨ t.promOn = false) → (b.core k).user = (s.core k).user ∧ (b.core k).firm = (s.core k).firm)
       ∧ (∀ j, j ≠ k → b.core j = s.core j) ∧ b.mem = s.mem)
  ∧ (∀ (s s' : State) (k : Nat) (e : Eng) (t : Entry),
       let c := t.built.getD []
       s.command k e t.seq = some t → t.done = true → (s.core k).stopped = false → s.writesDone k t c (t.writes ++ t.after) = true → s.pathsDone k e t = true →
       (if t.fault.isSome ∧ t.started = none then s' = s
         else s.completionWord k e t c (((s.core k).eng e).retireSeq t.seq).done = .ok s' ()) →
       (∀ r, (s'.core k).task = some r → r.exited = false) → (∀ h, t.thief = some h → h ≠ k) →
       s.Ends (.commandRetire k e t.seq) fun u =>
         let x := (s'.core k).eng e
         let y := (u.core k).eng e
         y.q = x.q.filter (fun z => !(z.isCommand e && z.seq = t.seq)) ∧ u.command k e t.seq = none
           ∧ (x.retired = [] → t.seq = x.done + 1 → y.done = t.seq) ∧ u.mem = s'.mem
           ∧ (t.fault = none → t.refused = none →
               y.flt = x.flt
                 ∧ (t.void = false → t.stop = false → ∀ n, (u.core k).tk.get 0 n =
                     if n = fieldOf c 30 / 2048 ∧ fieldOf c 30 % 2048 ≠ 0 then min 65535 ((s'.core k).tk.get 0 n + fieldOf c 30 % 2048)
                     else (s'.core k).tk.get 0 n)
                 ∧ ((e ≠ .ce ∨ opCode c = 6 ∨ t.started = none) → t.promOn = true →
                     (u.ctx k t.fw).Holds t.prom (if t.void || t.stop then 0 else t.result)
                       ∧ (s'.ctx k t.fw).KeepsS (u.ctx k t.fw) [t.prom]))
           ∧ (∀ cause a, (t.fault = some (cause, a) ∨ (t.fault = none ∧ ∃ i, t.refused = some (i, cause, a))) →
               y.flt = true ∧ y.cause = cause ∧ (∀ n, (u.core k).tk.get 0 n = (s'.core k).tk.get 0 n)
                 ∧ (t.promOn = true → t.prom ≠ 0 →
                     (u.ctx k t.fw).getS t.prom = 0 ∧ (u.ctx k t.fw).getFE t.prom = .full
                       ∧ (u.ctx k t.fw).getMark t.prom = if t.fw then none else
                           some { trap := engineTrap e t.seq t.thief cause a, of := some (e, t.seq) })))

/-- R342, R343, R347: integer element-wise commands of the vector engine, on exact integers narrowed to the element's width: the
nearest bound with SAT, the low bits without. Where the manual is silent, the model's choice: log entry 17. -/
def Obligations.VectorIntegerCommands : Prop :=
  ∀ (s b : State) (k : Nat) (t t1 : Entry) (c : Tmpl) (wd : Nat) (sg : Bool), s.Runs k .ve t c b t1 → intFmt (vET c) = some (wd, sg) →
    let x := b.core k
    let el (r e : Nat) : Nat := x.vElem r (vET c) e
    let num (v : Nat) : Int := if sg ∧ 2 ^ (wd - 1) ≤ v then (v : Int) - 2 ^ wd else v
    let lo : Int := if sg then -2 ^ (wd - 1) else 0
    let hi : Int := if sg then 2 ^ (wd - 1) - 1 else 2 ^ wd - 1
    let nar (z : Int) : Nat := ((if vSat c then max lo (min hi z) else z) % 2 ^ wd).toNat
    let sh (e : Nat) : Nat := el (vVB c) e % wd
    let runs (i : Instr) (code : Nat) (srcs : List Nat) (f : Nat → Nat) : Prop :=
      opCode c = code → (s.core k).VFits c (vVD c :: srcs) → x.VGood c srcs →
      s.Ends i fun u => b.RanInside k .ve t1 0 0 u ∧ x.WroteV (u.core k) c (vActive x c) f
    let w : CmdAt := { core := k, seq := t.seq }
    let a (e : Nat) : Nat := el (vVA c) e
    let y (e : Nat) : Nat := el (vVB c) e
    let z (e : Nat) : Nat := el (vVC c) e
    runs (.vAdd w c) 0x07 [vVA c, vVB c] (fun e => nar (num (a e) + num (y e)))
    ∧ runs (.vSub w c) 0x08 [vVA c, vVB c] (fun e => nar (num (a e) - num (y e)))
    ∧ runs (.vMul w c) 0x09 [vVA c, vVB c] (fun e => nar (num (a e) * num (y e)))
    ∧ runs (.vFma w c) 0x0A [vVA c, vVB c, vVC c] (fun e => nar (num (a e) * num (y e) + num (z e)))
    ∧ runs (.vFms w c) 0x0B [vVA c, vVB c, vVC c] (fun e => nar (num (a e) * num (y e) - num (z e)))
    ∧ runs (.vMin w c) 0x0C [vVA c, vVB c] (fun e => if num (a e) ≤ num (y e) then a e else y e)
    ∧ runs (.vMax w c) 0x0D [vVA c, vVB c] (fun e => if num (y e) ≤ num (a e) then a e else y e)
    ∧ runs (.vAbs w c) 0x0E [vVA c] (fun e => nar (num (a e)).natAbs)
    ∧ runs (.vNeg w c) 0x0F [vVA c] (fun e => nar (-num (a e)))
    ∧ runs (.vAnd w c) 0x10 [vVA c, vVB c] (fun e => a e &&& y e)
    ∧ runs (.vOr w c) 0x11 [vVA c, vVB c] (fun e => a e ||| y e)
    ∧ runs (.vXor w c) 0x12 [vVA c, vVB c] (fun e => a e ^^^ y e)
    ∧ runs (.vShl w c) 0x13 [vVA c, vVB c] (fun e => a e * 2 ^ sh e)
    ∧ runs (.vShr w c) 0x14 [vVA c, vVB c] (fun e => a e / 2 ^ sh e)
    ∧ runs (.vSra w c) 0x15 [vVA c, vVB c]
        (fun e => (((if 2 ^ (wd - 1) ≤ a e then (a e : Int) - 2 ^ wd else a e) / 2 ^ sh e) % 2 ^ wd).toNat)

/-- R342, R343, R347 to R351: floating element-wise commands, approximations, selection, moves, broadcast, permutation and
conversion. The floating sum, difference and product are those of the scalar words, but that an overflow saturates with SAT
(R250); the minima are those of the scalar words. The approximations are what the procedure of R351 gives. Where the manual is
silent, the model's choice: log entries 17, 40. -/
def Obligations.VectorFloatAndMoveCommands : Prop :=
  ∀ (s b : State) (k : Nat) (t t1 : Entry) (c : Tmpl), s.Runs k .ve t c b t1 →
    let x := b.core k
    let w : CmdAt := { core := k, seq := t.seq }
    let a (e : Nat) : Nat := x.vElem (vVA c) (vET c) e
    let y (e : Nat) : Nat := x.vElem (vVB c) (vET c) e
    let z (e : Nat) : Nat := x.vElem (vVC c) (vET c) e
    let runs (i : Instr) (code : Nat) (srcs : List Nat) (act : Nat → Bool) (f : Nat → Nat) : Prop :=
      opCode c = code → (s.core k).VFits c (vVD c :: srcs) → x.VGood c srcs →
      s.Ends i fun u => b.RanInside k .ve t1 0 0 u ∧ x.WroteV (u.core k) c act f
    let act := vActive x c
    (∀ f, floatFmt (vET c) = some f →
      let m := mxMode c
      runs (.vAdd w c) 0x07 [vVA c, vVB c] act (fun e => (f.add (a e) (y e) m (vSat c)).1)
      ∧ runs (.vSub w c) 0x08 [vVA c, vVB c] act (fun e => (f.sub (a e) (y e) m (vSat c)).1)
      ∧ runs (.vMul w c) 0x09 [vVA c, vVB c] act (fun e => (f.mul (a e) (y e) m (vSat c)).1)
      ∧ runs (.vFma w c) 0x0A [vVA c, vVB c, vVC c] act (fun e => (f.fma (a e) (y e) (z e) m (vSat c)).1)
      ∧ runs (.vFms w c) 0x0B [vVA c, vVB c, vVC c] act (fun e => vFmaOp true c (a e) (y e) (z e))
      ∧ runs (.vMin w c) 0x0C [vVA c, vVB c] act (fun e => (f.minMax (a e) (y e) false).1)
      ∧ runs (.vMax w c) 0x0D [vVA c, vVB c] act (fun e => (f.minMax (a e) (y e) true).1)
      ∧ runs (.vAbs w c) 0x0E [vVA c] act (fun e => a e % 2 ^ (f.bits - 1))
      ∧ runs (.vNeg w c) 0x0F [vVA c] act (fun e => a e ^^^ 2 ^ (f.bits - 1)))
    ∧ (vET c = 1 →
      runs (.vRcp w c) 0x1B [vVA c] act (fun e => rcpOf (vSat c) (a e))
      ∧ runs (.vRsq w c) 0x1C [vVA c] act (fun e => rsqOf (vSat c) (a e))
      ∧ runs (.vExp2 w c) 0x1D [vVA c] act (fun e => exp2Of (vSat c) (a e))
      ∧ runs (.vLog2 w c) 0x1E [vVA c] act (fun e => log2Of (vSat c) (a e)))
    ∧ runs (.vSel w c) 0x17 [vVA c, vVB c] (fun e => decide (e < vN c))
        (fun e => if (x.mask (vMK c)).getLsbD e then a e else y e)
    ∧ runs (.vMov w c) 0x1F [vVA c] act a
    ∧ (∀ n, vCap (vET c) = some n → vIndex c < n → x.poolBad (vVA c * 2048 + vIndex c * fmtBytes (vET c)) (fmtBytes (vET c)) = false →
        x.VGood c [] → opCode c = 0x20 → (s.core k).VFits c [vVD c, vVA c] →
        s.Ends (.vBcast w c) fun u => b.RanInside k .ve t1 0 0 u ∧ x.WroteV (u.core k) c act (fun _ => a (vIndex c)))
    ∧ runs (.vPerm w c) 0x21 [vVA c, vVB c] act
        (fun e => let i := x.vElem (vVB c) 14 e; if i < vN c then a i else 0)
    ∧ (((∃ n, vCap (vMFMT c) = some n ∧ vN c ≤ n) ∨ (vMFMT c = 7 ∧ vET c = 10)) →
        x.poolBad (vVA c * 2048) (vN c * fmtBytes (vMFMT c)) = false → x.VGood c [] →
        opCode c = 0x18 → (s.core k).VFits c [vVD c, vVA c] →
        s.Ends (.vCvt w c) fun u => b.RanInside k .ve t1 0 0 u ∧
          x.WroteV (u.core k) c act (fun e => (convert (vMFMT c) (vET c) (x.vElem (vVA c) (vMFMT c) e) (mxMode c) (vSat c)).getD 0))

/-- R348, R352, R353, R355: comparisons and mask commands write one mask and nothing else; `m0` keeps its ones; reductions and scans
give their value as a register's element or as the command's result. Where the manual is silent, the model's choice: log entry
17. -/
def Obligations.VectorMasksAndReductions : Prop :=
  ∀ (s b : State) (k : Nat) (t t1 : Entry) (c : Tmpl), s.Runs k .ve t c b t1 →
    let x := b.core k
    let w : CmdAt := { core := k, seq := t.seq }
    let a (e : Nat) : Nat := x.vElem (vVA c) (vET c) e
    let y (e : Nat) : Nat := x.vElem (vVB c) (vET c) e
    let md := fieldOf c 24 % 16
    let masks (f : Nat → Bool) (u : State) : Prop :=
      b.RanInside k .ve t1 0 0 u ∧ u.core k = { x with masks := (u.core k).masks, maskBad := (u.core k).maskBad, ve := (u.core k).ve }
        ∧ (∀ e, e < 512 → ((u.core k).mask md).getLsbD e = if md = 0 then true else f e)
        ∧ ∀ n, n ≠ md → (u.core k).mask n = x.mask n
    let na := fieldOf c 24 / 256 % 16
    let nb := fieldOf c 25 % 16
    let ma := x.mask na
    let mb := x.mask nb
    let good (n : Nat) : Prop := ∀ e, e < 512 → x.maskLost n e = false
    (opCode c = 0x22 → good na → good nb → s.Ends (.vmAnd w c) (masks fun e => ma.getLsbD e && mb.getLsbD e))
    ∧ (opCode c = 0x23 → good na → good nb → s.Ends (.vmOr w c) (masks fun e => ma.getLsbD e || mb.getLsbD e))
    ∧ (opCode c = 0x24 → good na → s.Ends (.vmNot w c) (masks fun e => !ma.getLsbD e))
    ∧ (opCode c = 0x16 → (s.core k).VFits c [vVA c, vVB c] → (vInt c = true → vSub c ≤ 5) → x.VGood c [vVA c, vVB c] →
        s.Ends (.vCmp w c) (masks fun e =>
          if vActive x c e then vCmpOp c (a e) (y e) else !vZM c && (x.mask md).getLsbD e))
    ∧ (opCode c = 0x19 → (vSub c ≤ 2 ∨ (vSub c ≤ 5 ∧ vInt c = true)) → x.VGood c [vVA c] →
        let v := (vReduce x c).getD (vIdentity c)
        (vSres c = true → (s.core k).VFits c [vVA c] → s.Ends (.vRed w c) fun u =>
          b.RanInside k .ve t1 0 (if vET c = 10 then (BitVec.ofNat 32 v).signExtend 64 else BitVec.ofNat 64 v) u
            ∧ u.core k = { x with ve := (u.core k).ve })
        ∧ (vSres c = false → (s.core k).VFits c [vVA c, vVD c] → s.Ends (.vRed w c) fun u =>
          b.RanInside k .ve t1 0 0 u ∧ (u.core k).vElem (vVD c) (vET c) 0 = v % 2 ^ (8 * fmtBytes (vET c))
            ∧ u.core k = { x with sram := (u.core k).sram, bad := (u.core k).bad, ve := (u.core k).ve }
            ∧ ∀ j, (j < vVD c * 2048 ∨ vVD c * 2048 + fmtBytes (vET c) ≤ j) → (u.core k).sram.get 0 j = x.sram.get 0 j))
    ∧ (opCode c = 0x1A → (vSub c ≤ 2 ∨ (vSub c ≤ 5 ∧ vInt c = true)) → x.VGood c [vVA c] → (s.core k).VFits c [vVD c, vVA c] →
        let run (e : Nat) : Option Nat :=
          (List.range (e + 1)).foldl (fun acc i => if vActive x c i then vJoin c acc (some (a i)) else acc) none
        s.Ends (.vScan w c) fun u =>
          b.RanInside k .ve t1 0
              (let v := (run (vN c - 1)).getD (vIdentity c)
               if vET c = 10 then (BitVec.ofNat 32 v).signExtend 64 else BitVec.ofNat 64 v) u
            ∧ x.WroteV (u.core k) c (vActive x c) fun e => (run e).getD 0)

/-- R269, R352: the lane and pairwise order of a reduction is the sum of exact integers: reducing by integer addition gives the sum
of the active elements modulo 2 to the width, whatever the mask. -/
def Obligations.IntegerReductionIsTheSum : Prop :=
  ∀ (x : Core) (c : Tmpl) (wd : Nat) (sg : Bool), intFmt (vET c) = some (wd, sg) → vCap (vET c) ≠ none → vSub c = 0 → vN c ≤ 512 →
    (vReduce x c).getD (vIdentity c)
      = (((List.range (vN c)).filter (vActive x c)).map fun e => x.vElem (vVA c) (vET c) e).sum % 2 ^ wd

/-- R344 to R346: a vector load reads its active elements in rising order, each converted to ET, and writes its register only then;
a store writes its pieces in order, up to the first that an uncorrectable granule keeps from being made (R448). Where the manual
is silent, the model's choice: log entries 16, 17. -/
def Obligations.VectorLoadsAndStores : Prop :=
  ∀ (s b : State) (k : Nat) (t t1 : Entry) (c : Tmpl) (sts : Nat → State), s.Runs k .ve t c b t1 → sts 0 = b →
    let x := b.core k
    let w : CmdAt := { core := k, seq := t.seq }
    let who : Who := cmdWho k .ve t
    let es := (List.range (vN c)).filter (vActive x c)
    let seqAt (e : Nat) : VAddr := vadd (addr0 c) (e * fmtBytes (vMFMT c))
    let nestAt (e : Nat) : VAddr :=
      vadd (addr0 c) (dot (indices (counts c 6) e) ((List.range 6).map fun i => strOf c i * unitOf (fieldOf c 18)))
    let idxAt (e : Nat) : VAddr := vadd (addr1 c) (intVal 32 true (x.vElem (vVB c) 10 e) * fmtBytes (vMFMT c))
    let loads (i : Instr) (code : Nat) (regs : List Nat) (at_ : Nat → VAddr) : Prop :=
      opCode c = code → (s.core k).VFits c regs → vPairOk (code = 1) c = true →
      (∀ e, e < vN c → vLost x c e = false) →
      ∀ (bs sc : Nat → List Byte),
      (∀ i e, es[i]? = some e → (at_ e).toNat % fmtBytes (vMFMT c) = 0 ∧ ∃ mid,
        (sts i).engRead who (at_ e) (fmtBytes (vMFMT c)) = .ok mid (bs e) ∧
          if vMFMT c = 6 then mid.engRead who (vadd (addr1 c) ((e : Int) / 32)) 1 = .ok (sts (i + 1)) (sc e)
          else sts (i + 1) = mid ∧ sc e = []) →
      let f := sts es.length
      f.command k .ve t.seq = some t1 → (f.core k).masks = x.masks → (f.core k).sram = x.sram →
      s.Ends i fun u => f.RanInside k .ve t1 0 0 u ∧
        (f.core k).WroteV (u.core k) c (vActive x c) fun e => vLoadConv c (leNat (bs e)) (leNat (sc e))
    let stores (i : Instr) (code : Nat) (regs : List Nat) (at_ : Nat → VAddr) (tags : Nat → List Nat) : Prop :=
      opCode c = code → (s.core k).VFits c regs → vPairOk (code = 4) c = true → t1.pos = 0 →
      let ps := vPieces x c at_
      let goes (m : Nat) : Prop := Follows who (fun y i => match ps[i]? with
          | none => .ok y (0, [])
          | some none => .fault y fEcc 0
          | some (some (a, bs)) => if a.toNat % bs.length ≠ 0 then .fault y fAlign (va64 a)
                            else (y.cmdWrite who t1.wseq a bs).bind fun y ts => .ok y (0, ts))
        0 m sts (fun _ => 0) tags ∧ (sts m).command k .ve t.seq = some t1
      let sent (m : Nat) : List Nat := (List.range m).flatMap tags
      (goes ps.length → s.Ends i ((sts ps.length).RanElements k .ve t1 ps.length ps.length tags))
      ∧ ∀ m, ps[m]? = some none → goes m → s.Ends i fun u =>
          u.command k .ve t.seq = some { t1 with
              pos := m, since := 0, susp := false, done := true, fault := some (9, 0), writes := t1.writes ++ sent m
              after := (sts m).laneAfter k .ve }
            ∧ u.mem = (sts m).mem ∧ (u.core k).sram = ((sts m).core k).sram
    loads (.vLd w c) 1 [vVD c] seqAt ∧ loads (.vLds w c) 2 [vVD c] nestAt ∧ loads (.vLdx w c) 3 [vVD c, vVB c] idxAt
    ∧ ∀ tags, stores (.vSt w c) 4 [vVA c] seqAt tags ∧ stores (.vSts w c) 5 [vVA c] nestAt tags
        ∧ stores (.vStx w c) 6 [vVA c, vVB c] idxAt tags

/-- R214, R215, R218 to R220: a copy goes through its elements in order, each from its source to its destination address, up to its
next tile boundary or its end; the address of element `p` follows from the nest, the streams, or the table. R215, R229, R230:
the bytes of an element of up to 16 bytes are those its source held when it was read, and they leave as one write for its
destination, here in the own scratchpad, where no pending cask reads it; the scratchpad takes them as the write arrives. An
element whose source, or else destination, is not aligned faults ALIGN at that address. Where the manual is silent, the model's
choice: log entries 16, 37. -/
def Obligations.CopyCommands : Prop :=
  (∀ (s b : State) (k : Nat) (t t1 : Entry) (c : Tmpl) (sts : Nat → State) (size : Nat → Nat) (tags : Nat → List Nat) (m : Nat),
     s.Runs k .ce t c b t1 → sts t1.pos = b →
     let x := b.core k
     let w : CmdAt := { core := k, seq := t.seq }
     let who : Who := cmdWho k .ce t
     let f := sts m
     let runs (i : Instr) (n : Nat) (el : State → Nat → ERes (Nat × List Nat)) : Prop :=
       t1.pos < n → Follows who el t1.pos m sts size tags → TileEnd n size t1.pos m → f.command k .ce t.seq = some t1 →
       s.Ends i (f.RanElements k .ce t1 n m tags)
     let esz := eszOf c
     let strides (u : Nat) : List Int := (List.range 6).map fun i => strOf c i * u
     let n0 := cntOf c 0
     let g := fieldOf c 24 % 128
     let zero (l : List Nat) : Prop := ∀ i ∈ l, fieldOf c i = 0
     let packed (st j q : Nat) : Int := (st / g * (n0 * g) + j * (if cntOf c 1 - st / g * g < g ∧ flagX c = false then cntOf c 1 - st / g * g else g) + q : Nat)
     let stream (base : VAddr) (u st j : Nat) : VAddr := vadd base (j * (strOf c 0 * u) + st * (strOf c 1 * u))
     (opCode c = 1 → runs (.cpNest w c) (product (counts c 6)) fun y p =>
       y.copyElem who t1 esz (vadd (addr0 c) (dot (indices (counts c 6) p) (strides (srcUnit c))))
         (vadd (addr1 c) (dot (indices (counts c 6) p) ([24, 25, 26, 15, 16, 17].map fun i => sfield c i * dstUnit c))))
     ∧ (opCode c = 5 → runs (.cpFill w c) (product (counts c 6)) fun y p =>
       y.fillElem who t1 (vadd (addr1 c) (dot (indices (counts c 6) p) (strides (dstUnit c)))) (fillBytes c))
     ∧ (1 ≤ g → g ≤ 64 → zero [8, 9, 10, 11] →
       (opCode c = 2 → runs (.cpPack w c) (if flagX c then (cntOf c 1 + g - 1) / g * g * n0 else n0 * cntOf c 1) fun y p =>
         let st := p / n0
         let d := vadd (addr1 c) (packed st (p % n0) (st % g) * esz)
         if st < cntOf c 1 then y.copyElem who t1 esz (stream (addr0 c) (srcUnit c) st (p % n0)) d
         else y.fillElem who t1 d (padBytes c))
       ∧ (opCode c = 3 → runs (.cpUnpack w c) (n0 * cntOf c 1) fun y p =>
         let st := p / n0
         y.copyElem who t1 esz (vadd (addr0 c) (packed st (p % n0) (st % g) * esz)) (stream (addr1 c) (dstUnit c) st (p % n0))))
     ∧ (opCode c = 4 → flagX c = true → n0 ≤ 4096 → runs (.cpPermLoad w c) n0 fun y p =>
       (y.engRead who (vadd (addr0 c) (2 * p)) 1).bind fun y lo => (y.engRead who (vadd (addr0 c) (2 * p) + 1) 1).bind fun y hi =>
         .ok (y.stagePerm k (permId c) p (leNat (lo ++ hi))) (0, []))
     ∧ (opCode c = 4 → flagX c = false → zero [8, 9, 10, 11] → (t1.pos = 0 → permUsable x c = true) →
       runs (.cpPermApply w c) (n0 * cntOf c 1) fun y p =>
         let ch : Int := (x.perm.get [] (permId c)).getD (p / n0) 0
         y.copyElem who t1 esz (vadd (addr0 c) (ch * (strOf c 1 * srcUnit c) + (p % n0 : Nat) * (strOf c 0 * srcUnit c)))
           (vadd (addr1 c) ((p / n0 : Nat) * (sfield c 25 * dstUnit c) + (p % n0 : Nat) * (sfield c 26 * dstUnit c)))))
  ∧ ((∀ (s s1 s2 : State) (k seq : Nat) (t : Entry) (n : Nat) (a d : VAddr) (bs : List Byte) (o : Nat) (win : Option Nat),
       n ∈ [1, 4, 16] →
       let who : Who := { core := k, eng := some (.ce, seq) }
       (a.toNat % n = 0 → d.toNat % n = 0 → s.engRead who a n = .ok s1 bs → bs.length = n →
         s1.aliasSets k t.wseq (.mem d n) = [] → s1.translate k false .engWrite d = (s2, .ok (.spad k o) win) →
         o + n ≤ (s2.core k).spadSize → (s2.core k).inScratch o n = false →
         ∃ u tag f, s.copyElem who t n a d = .ok u (n, [tag]) ∧ u.flight tag = some (.store f) ∧ f.core = k ∧ f.agent = .lane .ce
           ∧ f.place = .spad k o ∧ f.bytes = bs ∧ (u.core k).sram = (s2.core k).sram ∧ u.mem = s2.mem ∧ ∀ j, j ≠ k → u.core j = s2.core j)
       ∧ (a.toNat % n ≠ 0 → s.copyElem who t n a d = .fault s 5 (a.extractLsb' 0 64))
       ∧ (a.toNat % n = 0 → d.toNat % n ≠ 0 → s.copyElem who t n a d = .fault s 5 (d.extractLsb' 0 64)))
     ∧ ∀ (s : State) (tag : Nat) (f : StoreF) (o : Nat), s.flight tag = some (.store f) → f.place = .spad f.core o →
         f.agent = .lane .ce → f.origin.die = dieOf f.core → s.leftDie tag f = true → s.granuleWaits f = false →
         s.Ends (.windowAccessArrival tag) fun u =>
           (s.core f.core).PoolTook (u.core f.core) ((s.core f.core).spadBase + o) f.bytes ∧ u.flight tag = none ∧ u.mem = s.mem
             ∧ ∀ j, j ≠ f.core → u.core j = s.core j)

/-- R221: a `cp.amo` sends one operation for each element, from the operand array to the target array, and a home of this package
performs it in one step: the new target is the combination of the old one and the operand, and nothing else is written. R393 to
R398: a scatter-accumulate command sends the entries that its window makes of its elements, each to its target, and counts the
contributions that joined an entry; a home of this package applies an entry, one contribution after another, in one step;
`sa.flush` awaits the earlier commands of its queue and every write still on its way. Where the manual is silent, the model's
choice: log entries 16, 17, 44, 60. -/
def Obligations.AtomicAndScatterCommands : Prop :=
  ((∀ (s b : State) (k : Nat) (t t1 : Entry) (c : Tmpl) (sts : Nat → State) (size : Nat → Nat) (tags : Nat → List Nat) (m : Nat),
     s.Runs k .ce t c b t1 → sts t1.pos = b → opCode c = 6 →
     let op := fieldOf c 24 % 16
     let ty := fieldOf c 24 / 16 % 16
     op ≤ 7 → ty ≤ 5 → ¬ (4 ≤ ty ∧ 3 ≤ op ∧ op ≤ 5) → (∀ i ∈ [7, 8, 9, 10, 11], fieldOf c i = 0) →
     let w : CmdAt := { core := k, seq := t.seq }
     let who : Who := cmdWho k .ce t
     let f := sts m
     t1.pos < cntOf c 0 → Follows who (fun y i => y.amoElem who t1 c i) t1.pos m sts size tags →
     TileEnd (cntOf c 0) size t1.pos m → f.command k .ce t.seq = some t1 →
     ∀ p ∈ [(0, Instr.cpAmoAdd w c), (1, .cpAmoMin w c), (2, .cpAmoMax w c), (3, .cpAmoAnd w c), (4, .cpAmoOr w c),
         (5, .cpAmoXor w c), (6, .cpAmoXchg w c), (7, .cpAmoCas w c)],
       op = p.1 → s.Ends p.2 fun u => f.RanElements k .ce t1 (cntOf c 0) m tags u ∧ u.flights = f.flights)
   ∧ ∀ (s : State) (tag : Nat) (a : AmoF) (key : Nat), s.flight tag = some (.amo a) → a.place = .home key → tag < s.nextTag →
     let n := if a.ty = 2 ∨ a.ty = 3 ∨ a.ty = 5 then 8 else 4
     s.amoWaits tag a.core .ce a.seq n a.place a.origin = false → s.homeBad key n = false →
     let old := leNat (readBytes s.mem key n)
     s.Ends (.atomicApply tag) fun u =>
       u.flight tag = none
         ∧ (a.op ≠ 7 → leNat (readBytes u.mem key n) = combine a.op a.ty old a.operand % 2 ^ (8 * n))
         ∧ (a.op = 7 → leNat (readBytes u.mem key n) = if old = a.compare then a.operand % 2 ^ (8 * n) else old)
         ∧ (∀ j, (j < key ∨ key + n ≤ j) → u.byteAt j = s.byteAt j)
         ∧ (∀ t, s.command a.core .ce a.seq = some t → a.idx = 0 →
             u.command a.core .ce a.seq = some { t with result := BitVec.ofNat 64 old }))
  ∧ ((∀ (s b f : State) (k : Nat) (t t1 : Entry) (c : Tmpl) (l : List Contrib), s.Runs k .sae t c b t1 →
       let w : CmdAt := { core := k, seq := t.seq }
       let who : Who := cmdWho k .sae t
       (∀ p ∈ [(1, Instr.saAdd w c), (2, .saMin w c), (3, .saMax w c), (4, .saAnd w c), (5, .saOr w c), (6, .saXchg w c)],
         opCode c = p.1 → saOk (s.core k) c = true → saCheck (b.core k) c = none →
         b.saGather who t1 c 0 (cntOf c 0) = .ok f { s := f, list := l, fault := none } → f.command k .sae t.seq = some t1 →
         let r := windowOf (saNoMerge t1) l
         s.Ends p.2 fun u => ∃ tags : List Nat,
           u.command k .sae t.seq = some (t1.After .sae 0 true 0 tags (u.laneAfter k .sae)) ∧ tags.length = r.1.length
             ∧ (u.core k).merge = min 0xFFFFFFFF ((f.core k).merge + r.2) ∧ u.mem = f.mem ∧ (u.core k).sram = (f.core k).sram
             ∧ ∀ (i : Nat) (e : WinEnt) (tag : Nat), r.1[i]? = some e → tags[i]? = some tag →
                 ∃ o : Origin, o.maker = some (k, .lane .sae)
                   ∧ u.flight tag = some (.sae { core := k, seq := t.seq, op := saOp c, et := saTy c, place := e.place, va := e.va,
                                                 vals := e.vals, lane := e.lane, asn := (f.core k).asn, asked := false, origin := o }))
       ∧ (opCode c = 7 → (b.core k).sae.ahead .sae t.seq = true → s.Ends (.saFlush w c) fun u =>
           u.command k .sae t.seq = some { t1 with pos := 0, since := 0, susp := false } ∧ u.mem = b.mem)
       ∧ (opCode c = 7 → (b.core k).sae.ahead .sae t.seq = false → s.Ends (.saFlush w c) fun u => ∃ tags : List Nat,
           u.command k .sae t.seq = some (t1.After .sae 0 true 0 tags (u.laneAfter k .sae)) ∧ u.mem = b.mem ∧ (∀ j, j ≠ k → u.core j = b.core j)
             ∧ ∀ tag line die src of, b.flight tag = some (.inval line die of src) → of ∈ tags))
     ∧ (∀ (noMerge : Bool) (l : List Contrib) (va : VAddr),
         (((windowOf noMerge l).1.filter fun e => e.va = va).flatMap WinEnt.vals) = (l.filter fun x => x.va = va).map Contrib.val)
     ∧ ∀ (s : State) (tag key : Nat) (e : SaeF), s.flight tag = some (.sae e) → e.place = .home key → s.saeBehind tag e = false →
       tag < s.nextTag →
       let n := if e.et = 2 ∨ e.et = 3 ∨ e.et = 5 then 8 else 4
       s.amoWaits tag e.core .sae e.seq n e.place e.origin = false → s.homeBad key n = false →
       s.Ends (.saeEntryApply tag) fun u =>
         u.flight tag = none
           ∧ leNat (readBytes u.mem key n) = (e.vals.foldl (combine e.op e.et) (leNat (readBytes s.mem key n))) % 2 ^ (8 * n)
           ∧ ∀ j, (j < key ∨ key + n ≤ j) → u.byteAt j = s.byteAt j)

/-- R325 to R332: what each command of the matrix engine moves as it begins a part, and the cycles that the part takes: a fill from
the scratchpad, the latched weights, zeroed tiles, a tile to the scratchpad converted or raw, and a pass of a run, whose rows
then enter. A command of one part ends as its cycles are over; a run drains for 127 cycles behind its last row, and then ends.
Where the manual is silent, the model's choice: log entries 16, 59. -/
def Obligations.MatrixCommands : Prop :=
  (∀ (s b : State) (k : Nat) (t t1 : Entry) (c : Tmpl), s.Runs k .me t c b t1 →
    let x := b.core k
    let w : CmdAt := { core := k, seq := t.seq }
    let who : Who := cmdWho k .me t
    let free (l : List Nat) : Prop := ∀ z ∈ l, b.aliasSets k t1.wseq (.tiles z 1) = []
    (opCode c = 3 → fieldOf c 6 < 128 → tilesBacked (s.core k) c = true →
      let z := mxTile c + t1.pos
      free [z] → s.Ends (.mxZero w c) fun u =>
        b.BeganTile k t1 4 u ∧ x.PoolTook (u.core k) (x.tileAt z) (List.replicate 16384 0)
          ∧ (u.core k).om = x.om ∧ (u.core k).plane = x.plane)
    ∧ (opCode c = 1 → mxFmt c ≤ 6 → (∀ n ∈ slotsNamed c, n < 32) → slotsClaimed x c = true →
      let sl := fieldOf c 24 % 32
      let n := weightBytes (mxFmt c)
      x.omUnc (sl * 16384) n = false → (mxFmt c = 6 → x.omUnc (sideBase + sl * 512) 512 = false) →
      s.Ends (.mxWload w c) fun u =>
        b.BeganTile k t1 (if mxFmt c = 0 ∨ mxFmt c = 6 then 128 else 64) u
          ∧ (u.core k).wv = true ∧ (u.core k).wfmt = mxFmt c ∧ passDepth (mxFmt c) = some (u.core k).kw
          ∧ (∀ j, j < n → (u.core k).plane.get 0 j = x.om.get 0 (sl * 16384 + j))
          ∧ (mxFmt c = 6 → ∀ j, j < 512 → (u.core k).plane.get 0 (32768 + j) = x.omSide.get 0 (sl * 512 + j))
          ∧ (u.core k).sram = x.sram ∧ (u.core k).om = x.om)
    ∧ (opCode c = 5 → slotsClaimed x c = true →
      (opFlag c 3 = true →
        let sl := fieldOf c 25 % 32
        let n := if opFlag c 4 then 16896 else 16384
        let bs := b.mxSpad who (mxOff c) n
        x.SpadGood (mxOff c) n → b.mxHalf who (mxOff c) n = false → s.Ends (.mxMovin w c) fun u =>
          b.BeganTile k t1 (n / 128) u ∧ (u.core k).sram = x.sram ∧ (u.core k).plane = x.plane
            ∧ (∀ j, j < 16384 → (u.core k).om.get 0 (sl * 16384 + j) = bs.getD j 0)
            ∧ (opFlag c 4 = true → ∀ j, j < 512 → (u.core k).omSide.get 0 (sl * 512 + j) = bs.getD (16384 + j) 0)
            ∧ (opFlag c 4 = false → (u.core k).omSide = x.omSide))
      ∧ (opFlag c 3 = false → mxZfmt c ≤ 1 → tilesBacked (s.core k) c = true → free (tilesNamed c) →
        let n := if mxZfmt c = 0 then 32768 else 16384
        x.SpadGood (mxOff c) n → b.mxHalf who (mxOff c) n = false → s.Ends (.mxMovin w c) fun u =>
          b.BeganTile k t1 (n / 128) u ∧ x.PoolTook (u.core k) (x.tileAt (mxTile c)) (b.mxSpad who (mxOff c) n)
            ∧ (u.core k).om = x.om ∧ (u.core k).plane = x.plane))
    ∧ (opCode c = 4 → tilesBacked (s.core k) c = true →
      let va : VAddr := BitVec.ofNat 72 (0xFF * 2 ^ 64 + mxOff c)
      let sends (i : Instr) (bs : List Byte) : Prop :=
        spadRange x (mxOff c) bs.length = none → b.aliasSets k t1.wseq (.mem va bs.length) = [] →
        s.Ends i fun u => ∃ tags : List Nat,
          b.BeganPart k t1 tags u ∧ (u.core k).partEnd = b.tb + bs.length / 128 ∧ (u.core k).om = x.om ∧ (u.core k).sram = x.sram
            ∧ 16 * tags.length = bs.length
            ∧ ∀ i tag, tags[i]? = some tag → ∃ f, u.flight tag = some (.store f) ∧ f.core = k ∧ f.agent = .lane .me
                ∧ f.place = .spad k (mxOff c + 16 * i) ∧ f.bytes = (bs.drop (16 * i)).take 16
      (opFlag c 3 = true → x.poolBad (x.tileAt (mxTile c)) 16384 = false → sends (.mxMovRaw w c) (x.tileRead (mxTile c) 0 16384))
      ∧ (opFlag c 3 = false → (mxZfmt c = 1 ∧ 1 ≤ mxFmt c ∧ mxFmt c ≤ 5) ∨ (mxZfmt c = 0 ∧ mxFmt c ≤ 1) →
        let m := if mxZfmt c = 0 then 32768 else 16384
        x.poolBad (x.tileAt (mxTile c)) m = false →
        sends (.mxMov w c) ((List.range 4096).flatMap fun i =>
          leBytes (fmtBytes (mxFmt c)) ((convert (mxZfmt c) (mxFmt c)
            (elemAt (x.tileRead (mxTile c) 0 m) (fmtBytes (mxZfmt c)) i) (mxMode c) (opFlag c 4)).getD 0))))
    ∧ (opCode c = 2 → runOk (s.core k) c = true → (t1.pos = 0 → runFields x c = true ∧ runTableOk x c = true) →
      ∀ (g z : Int), (runPasses c)[t1.pos]? = some (g, z) →
      let wd := if mxFmt c = 0 then 8 else 4
      free (if mxFmt c = 0 then [z.toNat, z.toNat + 1] else [z.toNat]) → passUnc x c g.toNat = false →
      (opFlag c 3 = true → opFlag c 5 = false → x.poolBad (x.tileAt z.toNat) (mxRows c * 64 * wd) = false) →
      let table := if t1.pos = 0 then (if opFlag c 4 then x.perm.get [] (fieldOf c 26 / 16 % 16) else []) else x.perm.get [] runTable
      let x1 : Core := { x with perm := x.perm.put [] runTable table }
      s.Ends (.mxRun w c) fun u =>
        b.BeganPart k t1 [] u ∧ (u.core k).om = x.om ∧ (u.core k).plane = x.plane
          ∧ (∃ r, (u.core k).rows = some r ∧ r.left = mxRows c ∧ r.next = b.tb ∧ r.q = rowCost (mxFmt c) x.wfmt)
          ∧ (∀ m n, m < mxRows c → n < 64 →
              let old := leNat (x.tileRead z.toNat (wd * (64 * m + n)) wd)
              leNat ((u.core k).tileRead z.toNat (wd * (64 * m + n)) wd)
                = passElem x1 c (actRow x1 (mxFmt c) (g.toNat + m)) n (if opFlag c 3 then old else 0) % 2 ^ (8 * wd))
          ∧ ∀ j, (j < x.tileAt z.toNat ∨ x.tileAt z.toNat + mxRows c * 64 * wd ≤ j) →
              (u.core k).sram.get 0 j = x.sram.get 0 j))
  ∧ ∀ (s : State) (k : Nat) (t : Entry) (c : Tmpl),
    let w : CmdAt := { core := k, seq := t.seq }
    let ended (n : Nat) (u : State) : Prop :=
      u.command k .me t.seq = some (t.After .me n true 0 [] (u.laneAfter k .me)) ∧ u.cores = (s.setCommand k .me (t.After .me n true 0 [] (u.laneAfter k .me))).cores
        ∧ u.mem = s.mem
    (s.InPart k t c 1 → (s.core k).partEnd ≤ s.tb →
      (opCode c = 1 → s.Ends (.mxWload w c) (ended (t.pos + 1)))
      ∧ (opCode c = 4 → opFlag c 3 = false → s.Ends (.mxMov w c) (ended (t.pos + 1)))
      ∧ (opCode c = 4 → opFlag c 3 = true → s.Ends (.mxMovRaw w c) (ended (t.pos + 1)))
      ∧ (opCode c = 5 → s.Ends (.mxMovin w c) (ended (t.pos + 1)))
      ∧ (opCode c = 3 → cntOf c 0 ≤ t.pos + 1 → s.Ends (.mxZero w c) (ended (t.pos + 1))))
    ∧ (opCode c = 2 → (runPasses c).length ≤ t.pos + 1 → s.InPart k t c 1 → (∀ r, (s.core k).rows = some r → r.busy s.tb = false) →
        s.Ends (.mxRun w c) fun u =>
          u.command k .me t.seq = some { t with pos := t.pos + 1, since := 2, susp := false } ∧ (u.core k).partEnd = s.tb + 127
            ∧ (u.core k).rows = none ∧ u.mem = s.mem)
    ∧ (opCode c = 2 → (runPasses c).length ≤ t.pos → s.InPart k t c 2 → (s.core k).partEnd ≤ s.tb → s.Ends (.mxRun w c) (ended t.pos))

/-- R112, R115, R200: a command that does not decode is done at the head of its queue with the cause of its fault, and has had no
other effect; R24, R112, R221: so is one that names a vector register or an accumulator tile that is not backed, or an element
type that is reserved, with BAD_FIELD. R116, R207, R208: markers and chain-control commands leave the head of their queue; a
marker and `ch.mark` set MKR and MKV, and `ch.mark` retires its own number; R208, R364: the two wait until everything that the
queue has written and read is performed at core scope, since their retirement is a release there. A halted queue keeps them
(R212). R58, R210, R465: a command is stolen: it starts on the thief with its owner's tokens; a walk-in stops at its tile
boundary where a booked berth has begun, and runs on where its calendar is poisoned. An engine gates after 1,024 idle cycles,
wakes for a booked berth two berths ahead, and is awake when its ungating time is over. Where the manual is silent, the model's
choice: log entries 19, 42, 50. -/
def Obligations.FaultsMarkersAndGates : Prop :=
  ((∀ (s : State) (k : Nat) (e : Eng) (t : Entry) (cause : Byte),
     let x := (s.core k).eng e
     s.command k e t.seq = some t → t.done = false → t.decodeFault e = some cause → (s.core k).stopped = false → x.flt = false →
     x.loads = [] →
     (x.headCommand e).map Entry.seq = some t.seq →
     s.Ends (.decodeFault { core := k, seq := t.seq } e cause) fun u =>
       u.command k e t.seq = some { t with fault := some (cause, 0), done := true }
         ∧ (∀ j, j ≠ k → u.core j = s.core j) ∧ u.mem = s.mem ∧ (u.core k).tk = (s.core k).tk ∧ (u.core k).sram = (s.core k).sram)
   ∧ ∀ (s : State) (k : Nat) (e : Eng) (t : Entry) (c : Tmpl), s.AtHead k e t c →
     let w : CmdAt := { core := k, seq := t.seq }
     let faults (u : State) : Prop :=
       u.command k e t.seq = some { t with fault := some (3, 0), done := true }
         ∧ (∀ j, j ≠ k → u.core j = s.core j) ∧ u.mem = s.mem ∧ (u.core k).tk = (s.core k).tk ∧ (u.core k).sram = (s.core k).sram
     (e = .ce → 6 ≤ fieldOf c 24 / 16 % 16 →
       ∀ p ∈ [(0, Instr.cpAmoAdd w c), (1, .cpAmoMin w c), (2, .cpAmoMax w c), (3, .cpAmoAnd w c), (4, .cpAmoOr w c), (5, .cpAmoXor w c),
           (6, .cpAmoXchg w c), (7, .cpAmoCas w c)],
         opCode c = 6 → fieldOf c 24 % 16 = p.1 → s.Ends p.2 faults)
     ∧ (e = .me → opCode c = 3 → tilesBacked (s.core k) c = false → s.Ends (.mxZero w c) faults)
     ∧ (e = .ve → (∃ r ∈ [vVD c, vVA c, vVB c], 32 * (s.core k).vru ≤ r) →
       ∀ p ∈ [(0x07, Instr.vAdd w c), (0x08, .vSub w c), (0x09, .vMul w c), (0x0A, .vFma w c), (0x0C, .vMin w c), (0x0D, .vMax w c)],
         opCode c = p.1 → s.Ends p.2 faults)
     ∧ (e = .sae → saOk (s.core k) c = false →
       ∀ p ∈ [(1, Instr.saAdd w c), (2, .saMin w c), (3, .saMax w c), (4, .saAnd w c), (5, .saOr w c), (6, .saXchg w c)],
         opCode c = p.1 → s.Ends p.2 faults))
  ∧ ((∀ (s : State) (k : Nat) (e : Eng) (t : Entry) (q : List Entry) (n : Nat),
       let x := (s.core k).eng e
       x.q = t :: q → t.kind = .qmark n → (s.core k).stopped = false →
       let performed : Prop := ∀ w ∈ s.laneAfter k e, s.performed k .core w = true
       (x.flt = false → performed → s.Ends (.markerRetire k e) fun u =>
         u = (s.setCore k ((s.core k).setEng e { x with q := q, mkr := n % 65536, mkv := true })).markRelease k .core)
       ∧ ((x.flt = true ∨ ¬ performed) → s.Ends (.markerRetire k e) fun u => u = s))
     ∧ ∀ (s : State) (k : Nat) (e : Eng) (t : Entry) (q : List Entry) (c : Tmpl),
       let x := (s.core k).eng e
       x.q = t :: q → (s.core k).headControl t.seq c = some e → (s.core k).stopped = false →
       let w : CmdAt := { core := k, seq := t.seq }
       let performed : Prop := ∀ w ∈ s.laneAfter k e, s.performed k .core w = true
       (x.flt = false → s.Ends (.chNop w c) fun u => u = s.setCore k ((s.core k).setEng e { x with q := q }))
       ∧ (x.flt = false → s.Ends (.chLink w c) fun u => u = s.setCore k ((s.core k).setEng e { x with q := q }))
       ∧ (x.flt = false → performed → s.Ends (.chMark w c) fun u => ∃ d r,
           u = (s.setCore k ((s.core k).setEng e { x with q := q, mkr := fieldOf c 24, mkv := true, done := d, retired := r })).markRelease k .core
             ∧ (x.retired = [] → t.seq = x.done + 1 → d = t.seq))
       ∧ ((x.flt = true ∨ ¬ performed) → s.Ends (.chMark w c) fun u => u = s)
       ∧ (x.flt = true → ∀ i ∈ [Instr.chNop w c, .chLink w c], s.Ends i fun u => u = s))
  ∧ ((∀ (s : State) (thief owner : Nat) (e : Eng) (t : Entry) (c : Tmpl),
       s.stealNext owner e = some t → t.built = some c → s.mayThieve thief owner e c = true → s.mayBeStolen owner e t c = true →
       ((s.core thief).eng e).gate = .awake → s.Ends (.steal thief owner e t.seq) fun u =>
         u.command owner e t.seq = some
             { t with thief := some thief, started := some s.tb, pos := if e = .sae then (if (s.core owner).nomerge then 2 else 1) else t.pos }
           ∧ (∀ n, (u.core owner).tk.get 0 n =
               if n = fieldOf c 29 / 2048 then (s.core owner).tk.get 0 n - fieldOf c 29 % 2048 else (s.core owner).tk.get 0 n)
           ∧ (∀ j, j ≠ owner → u.core j = s.core j) ∧ u.mem = s.mem)
     ∧ (∀ (s : State) (k o : Nat) (e : Eng) (t : Entry), s.runningWalk k e = some (o, t) →
         (calendared e = true → t.since = 0 → s.freeUntil e k s.tb = false → (s.cal (engCal e k)).poisoned = false →
           s.Ends (.walkinSuspend k e) fun u => u.command o e t.seq = some { t with susp := true } ∧ u.mem = s.mem
             ∧ ∀ j, j ≠ o → u.core j = s.core j)
         ∧ (s.freeUntil e k s.tb = true ∨ (s.cal (engCal e k)).poisoned = true → s.Ends (.walkinSuspend k e) fun u => u = s))
     ∧ ∀ (s : State) (k : Nat) (e : Eng),
       let x := (s.core k).eng e
       let set (g : Gate) (f : Nat) (u : State) : Prop := u = s.setCore k ((s.core k).setEng e { x with gate := g, idleFrom := f })
       (x.gate = .awake → s.busy k e = false → x.idleFrom + 1024 ≤ s.tb → s.Ends (.engineGate k e) (set .gated x.idleFrom))
       ∧ (x.gate = .awake → (s.busy k e = true ∨ s.tb < x.idleFrom + 1024) → s.Ends (.engineGate k e) fun u => u = s)
       ∧ (∀ t, x.gate = .ungating t → t ≤ s.tb → s.Ends (.ungateComplete k e) (set .awake s.tb))
       ∧ (∀ i r, calendared e = true → i ≤ 2 → (s.cal (engCal e k)).row (s.berth + i) = some r → r.st = .booked → x.gate = .gated →
           s.Ends (.preBerthUngate k e) (set (.ungating (s.tb + if e = .me then 256 else 64)) x.idleFrom)))

/-! ### Steps of the hardware -/

/-- R144, R162, R164, R169, R231, R361, R448: a load in flight delivers its bytes, or a mark that traps its reader; an access
through a window is performed or refused by its target core, and its acknowledgement lowers OUT; a store is applied by its home
in one step, which sends an invalidation to every die with a copy; a die drops its copy where an invalidation arrives. Where the
manual is silent, the model's choice: log entries 10, 13, 15. -/
def Obligations.MemoryStepsHappen : Prop :=
  (∀ (s : State) (tag : Nat) (l : LoadF), s.flight tag = some (.load l) → l.due ≤ s.tb →
    s.olderOverlap tag l.core (.scalar l.fw) l.place l.size true (decide (l.ord ≠ .relaxed)) = false → s.allPerformed l.core l.after = true →
    let y := s.joinRead l
    let c := s.ctx l.core l.fw
    let regs := if l.size = 16 then [l.d, l.d + 1] else [l.d]
    let delivers (bs : List Byte) (mark : Option (Cause × W64 × W64)) (u : State) : Prop :=
      let d := u.ctx l.core l.fw
      u.flight tag = none ∧ u.mem = s.mem ∧ u.ctx l.core (!l.fw) = s.ctx l.core (!l.fw)
        ∧ c.KeepsS d regs ∧ c.KeepsA d [] ∧ c.KeepsP d [] ∧ d.pc = c.pc
        ∧ (l.size = 16 → l.d + 1 ≠ 0 → d.getS (l.d + 1) = BitVec.ofNat 64 (leNat (bs.drop 8)))
        ∧ (l.size = 16 → l.d ≠ 0 → l.d + 1 ≠ l.d → d.getS l.d = BitVec.ofNat 64 (leNat (bs.take 8)))
        ∧ (l.size ≠ 16 → l.d ≠ 0 → d.getS l.d = if l.sext then (BitVec.ofNat (8 * l.size) (leNat bs)).signExtend 64 else BitVec.ofNat 64 (leNat bs))
        ∧ ∀ r ∈ regs, d.getFE r = .full ∧ (r ≠ 0 → d.getMark r =
            mark.map fun m => { trap := { cause := m.1, e0 := m.2.1, e1 := m.2.2, e2 := r.setWidth 64, e3 := 0 }, of := none })
    let zero := List.replicate l.size (0 : Byte)
    (∀ n, l.nak = some n → s.Ends (.loadDelivery tag false)
      (delivers zero (some (.fabricNak, BitVec.ofNat 64 n, l.pc.extractLsb' 0 64))))
    ∧ (l.nak = none → l.refused = true → s.Ends (.loadDelivery tag false)
      (delivers zero (some (.prot, l.pc.extractLsb' 0 64, l.va.extractLsb' 0 64))))
    ∧ (l.nak = none → l.refused = false →
      let lost (bad : Bool) : Prop :=
        ∃ bs, s.Ends (.loadDelivery tag bad) (delivers bs (some (.ecc, l.pc.extractLsb' 0 64, l.va.extractLsb' 0 64)))
      (∀ key, l.place = .home key →
        (l.bad = false → s.homeBad key l.size = false → s.Ends (.loadDelivery tag false) (delivers (y.bindLoad tag l key).2 none))
        ∧ lost true ∧ (s.homeBad key l.size = true → lost false)
        ∧ (homeDie key = dieOf l.core → key % 64 + l.size ≤ 64 → l.size ≠ 0 →
            (l.ord ≠ .relaxed ∨ l.after ≠ [] ∨ s.ownInval l.core (.scalar l.fw) (key / 64) = true
              ∨ s.lineStored l.core (key / 64) = true ∨ ∀ p ∈ (s.core l.core).dcache, p.1 ≠ key / 64) →
            (y.bindLoad tag l key).2 = s.forward l.core (.scalar l.fw) tag l.place l.size (readBytes s.mem key l.size)))
      ∧ ∀ bs, l.data = some bs → (∀ key, l.place ≠ .home key) →
        (l.bad = false → s.Ends (.loadDelivery tag false) (delivers bs none)) ∧ (l.bad = true → lost false)))
  ∧ (∀ (s : State) (tag c o : Nat),
    (∀ l : LoadF, s.flight tag = some (.load l) → l.place = .spad c o → l.data = none → l.refused = false →
      s.olderOverlap tag l.core (.scalar l.fw) l.place l.size true true = false → s.allPerformed l.core l.after = true →
      s.Ends (.windowAccessArrival tag) fun u => u.flight tag = some (.load
        (if c ≠ l.core ∧ s.windowRefused l.asn c o l.size = true then { l with refused := true }
         else { l with data := some ((s.core c).spadRead o l.size), bad := (s.core c).spadBad o l.size })) ∧ u.mem = s.mem ∧ u.cores = s.cores)
    ∧ ∀ (t : StoreF) (fw : Bool), s.flight tag = some (.store t) → t.place = .spad c o → t.agent = .scalar fw →
      (∀ p ∈ s.flights, tag ≤ p.1) → s.allPerformed t.core t.after = true →
      (dieOf c = t.origin.die ∨ s.causalWait t.origin (dieOf c) = false) →
      let no := decide (c ≠ t.core) && s.windowRefused t.asn c o t.bytes.length
      s.Ends (.windowAccessArrival tag) fun u =>
        u.flight tag = some (.winAck t.core fw (t.win.getD 2) no) ∧ u.mem = s.mem ∧ (∀ j, j ≠ c → u.core j = s.core j)
          ∧ (no = true → u.core c = s.core c)
          ∧ (no = false → (s.core c).PoolTook (u.core c) ((s.core c).spadBase + o) t.bytes))
  ∧ (∀ (s : State) (tag k : Nat) (fw no : Bool) (w : Nat), s.flight tag = some (.winAck k fw w no) →
    s.Ends (.windowStoreAck tag) fun u =>
      let x := (s.ctx k fw).wallow w
      u.flight tag = none ∧ (u.ctx k fw).wallow w = { x with out := x.out - 1, ref := if no then min 65535 (x.ref + 1) else x.ref }
        ∧ (s.ctx k fw).KeepsS (u.ctx k fw) [] ∧ u.mem = s.mem)
  ∧ (∀ (s : State) (tag : Nat) (t : StoreF), s.flight tag = some (.store t) → tag < s.nextTag →
    s.olderOverlap tag t.core t.agent t.place t.bytes.length true true = false → s.allPerformed t.core t.after = true →
    (∀ key, t.place = .home key → s.heldBack tag t.origin.die (homeDie key) t.origin = false → s.veBehind tag t = false → s.granuleWaits t = false →
      s.Ends (.homeWriteApply tag) fun u =>
        u.flight tag = none
          ∧ (∀ j, u.byteAt j = if key ≤ j ∧ j < key + t.bytes.length then t.bytes.getD (j - key) 0 else s.byteAt j)
          ∧ (∀ d line, d < 10 → line ∈ linesOf key t.bytes.length → s.hasCopy d line = true →
              ∃ g, u.flight g = some (.inval line d tag t.origin)))
    ∧ (∀ pkg pa fw, t.place = .remote pkg pa → t.agent = .scalar fw → s.writtenThere tag t = false → s.hops pkg ≠ 3 →
      s.Ends (.homeWriteApply tag) fun u =>
        u.flight tag = some (.remoteWrite { core := t.core, agent := t.agent, win := t.win, eng := none, place := t.place, va := t.va, asn := t.asn }) ∧ u.mem = s.mem
          ∧ s.Sent u fun q => q.opc = 1 ∧ q.ackreq = true ∧ q.dpkg = pkg ∧ q.spkg = s.pkg ∧ q.data = t.bytes))
  ∧ ∀ (s : State) (die line : Nat),
    let drops (u : State) : Prop :=
      u.hasCopy die line = false ∧ (∀ l, l ≠ line → u.hasCopy die l = s.hasCopy die l) ∧ (∀ d, d ≠ die → u.die d = s.die d)
        ∧ u.mem = s.mem
    s.Ends (.dieCopyEvict die line) drops
    ∧ ∀ tag of o, s.flight tag = some (.inval line die of o) → s.heldBack tag (homeDie (line * 64)) die o = false →
        s.Ends (.dieCopyInvalidation tag die) fun u => drops u ∧ u.flight tag = none

/-- R64 to R66, R75, R88: what the booking unit that owns a calendar does with a message: it holds FREE rows until an expiry or
refuses with the next run, books held rows, frees them or asks a running use to stop, and moves a use; a message of an unknown
type is counted. Where the manual is silent, the model's choice: log entries 20, 22, 71. -/
def Obligations.OwnersActOnMessages : Prop :=
  (∀ (s x : State) (m : BookMsg),
    let c := calOfWord m.res.toNat
    let d := ownerDie c
    let n := nbits m.res.toNat 16 0
    (s.AtOwner .hold m x →
      ((x.die d).failstop = true → s.Ends (.hold m) fun u => x.Answered u .refusedFatal m ∧ u.dies = x.dies)
      ∧ ((x.die d).failstop = false →
        ((x.cal c).freeRun m.berth n = true → x.berth ≤ m.berth → m.berth + n ≤ x.horizon + 1 → s.Ends (.hold m) fun u =>
          x.Answered u .held { m with exp := x.tb + (x.die d).holdTmo }
            ∧ (∀ i, i < n → (u.cal c).row (m.berth + i) = some { st := .held, id := msgUse m })
            ∧ (∃ v, (u.cal c).use (msgUse m) = some v ∧ v.exp = x.tb + (x.die d).holdTmo ∧ v.st = .held ∧ v.start = none))
        ∧ (((x.cal c).freeRun m.berth n = false ∨ m.berth < x.berth ∨ x.horizon + 1 < m.berth + n) → s.Ends (.hold m) fun u => ∃ b,
          x.Answered u .refused { m with berth := b } ∧ u.dies = x.dies
            ∧ ((m.berth < b ∧ x.berth ≤ b ∧ b + n ≤ x.horizon + 1 ∧ (x.cal c).freeRun b n = true
                  ∧ ∀ a, m.berth < a → x.berth ≤ a → a < b → (x.cal c).freeRun a n = false)
                ∨ (b = 2 ^ 56 - 1
                  ∧ ∀ a, m.berth < a → x.berth ≤ a → a + n ≤ x.horizon + 1 → (x.cal c).freeRun a n = false)))))
    ∧ (s.AtOwner .commit m x →
      ((x.die d).failstop = true → s.Ends (.commit m) fun u => x.Answered u .refusedFatal m)
      ∧ ∀ v, (x.die d).failstop = false → (x.cal c).use (msgUse m) = some v → v.id = msgUse m →
        ∀ f, s.arrive .commit m = some (x, f) →
          (v.st = .held → f.due ≤ v.exp → s.Ends (.commit m) fun u =>
            ∀ b, x.berth ≤ b → v.first ≤ b → b < v.first + v.n → (u.cal c).row b = some { st := .booked, id := msgUse m })
          ∧ (v.exp < f.due → s.Ends (.commit m) fun u => u = x))
    ∧ (∀ v, (x.cal c).use (msgUse m) = some v →
      let acts (u : State) : Prop :=
        (v.start = none → (x.cal c).Freed (u.cal c) (msgUse m))
          ∧ (v.start.isSome = true → (x.die d).failstop = false → (x.cal c).poisoned = false →
              (u.cal c).use v.id = some { v with stop := true } ∧ (u.cal c).rows = (x.cal c).rows)
          ∧ u.cores = x.cores ∧ u.mem = x.mem
      (s.AtOwner .release m x → s.Ends (.release m) acts) ∧ (s.AtOwner .cancel m x → s.Ends (.cancel m) acts))
    ∧ (∀ v b, s.AtOwner .slip m x → (x.die d).failstop = false → (x.cal c).use (msgUse m) = some v →
      v.id = msgUse m → v.start = none → max m.berth x.berth ≤ b → b + v.n ≤ x.horizon + 1 →
      (x.cal c).freeOrOwn (msgUse m) b v.n = true → (∀ a, max m.berth x.berth ≤ a → a < b → (x.cal c).freeOrOwn (msgUse m) a v.n = false) →
      s.Ends (.slip m) fun u =>
        x.Answered u .moved { m with berth := b } ∧ (u.cal c).use (msgUse m) = some { v with first := b }
          ∧ ∀ i, i < v.n → (u.cal c).row (b + i) = some { st := v.st, id := msgUse m }))
  ∧ ∀ (s : State) (die : Nat) (ty : Byte),
    ((ty = 0 ∨ 10 < ty.toNat) → s.Ends (.unknownBookingMessage die ty) fun u =>
        u = s.setDie die { s.die die with drop := min 255 ((s.die die).drop + 1) })

/-- R61, R67, R68, R75, R77, R79: how a request goes on: its round begins, its answers are judged when the last arrives, it commits
and delivers its word, and it learns of moves, of completion, and of a stopped owner. Where the manual is silent, the model's
choice: log entries 22, 61, 68. -/
def Obligations.RequestsGoOn : Prop :=
  (∀ (s t : State) (k : Nat) (b : Booking) (us : List BUse), k ≠ 512 → (s.core k).booking b.id = some b → b.status = .held →
    b.next ≤ s.tb → (s.die (dieOf k)).failstop = false →
    let d := dieOf k
    (b.mayBegin s.tb = true → s.bkuTakes k b = true → s.search d (s.useId k b) b.uses s.tb [] b.uses = .ok t us →
      (∀ u ∈ us, u.ans = .own ∧ s.ownedBy d u = true) → s.Ends (.searchRound k b.id) fun u =>
        (u.core k).booking b.id = some { b with uses := us, round := some s.tb, next := s.tb + 12 * s.ncal us + 16 }
          ∧ u.dies = t.dies ∧ u.msgs = t.msgs)
    ∧ (b.round.isSome = true → b.next ≠ 0 → b.rebook = false → (∀ u ∈ b.uses, u.ans = .own ∧ s.ownedBy d u = true) →
      s.Ends (.searchRound k b.id) fun u =>
        let b' := { b with
          uses := b.uses.map fun v => if v.first + v.n ≤ s.berth then { v with fin := true } else v
          status := .committed, berth := (b.uses.head?.map BUse.first).getD 0, dest := none }
        (u.core k).booking b.id = some b' ∧ u.dies = (s.bookOwn d (s.useId k b) b.uses).dies
          ∧ (∀ fw r, b.dest = some (fw, r) → (u.ctx k fw).Holds r (BitVec.ofNat 64 (2 * 2 ^ 60 + b.sub * 2 ^ 56 + b.id * 2 ^ 40 + b'.berth % 2 ^ 40)))))
  ∧ (∀ (s x : State) (m : BookMsg) (o : Bool) (b : Booking) (v : BUse), m.hm = false → (x.core m.core).booking m.xid = some b →
    b.uses[m.use]? = some v → (o = true → x.useHere v = false) →
    let k := m.core
    let has (f : Booking → Prop) (u : State) : Prop := ∃ y, (u.core k).booking m.xid = some y ∧ f y
    let ends (st : BookStatus) (sub : Nat) : State → Prop :=
      has fun y => y.status = (if b.rebook then .fatal else st) ∧ y.sub = (if b.rebook then 2 else sub) ∧ y.dest = none
    let judged (i : Instr) (a : Answer) (berth : Nat) : Prop :=
      let us := b.uses.mapIdx fun j u => if j = m.use then { u with ans := if u.fin then .own else a } else u
      let y : Booking := { b with uses := us, berth := berth }
      b.status = .held → b.round.isSome = true → v.ans = .waiting →
        (x.roundEnd (dieOf k) us = .waiting → s.Ends i (has fun z => z = y))
        ∧ (x.roundEnd (dieOf k) us = .held → s.Ends i (has fun z => z = { y with next := x.tb + 16 }))
        ∧ (x.roundEnd (dieOf k) us = .fatal → s.Ends i (ends .fatal 1))
        ∧ (x.roundEnd (dieOf k) us = .noRoute → s.Ends i (ends .refused 5))
        ∧ (x.roundEnd (dieOf k) us = .noRun → s.Ends i (ends .refused 3))
        ∧ (x.roundEnd (dieOf k) us = .refused → (x.die (dieOf k)).retryMax < b.refusals + 1 → s.Ends i (ends .refused 1))
        ∧ (x.roundEnd (dieOf k) us = .refused → b.refusals + 1 ≤ (x.die (dieOf k)).retryMax →
            s.Ends i (has fun z => z.status = .held ∧ z.round = none ∧ z.refusals = b.refusals + 1 ∧ z.next = 256 * (x.berth + 1)
              ∧ ∀ (j : Nat) (u : BUse), us[j]? = some u → ∃ w, z.uses[j]? = some w ∧ w.floor = max u.floor (u.ans.alt.getD u.floor)))
    (s.AtRequester .held m x o → judged (.held m) (.held m.exp) b.berth)
    ∧ (s.AtRequester .refused m x o →
        judged (.refused m) (.refused (if m.berth = 2 ^ 56 - 1 then none else some m.berth)) m.berth)
    ∧ (s.AtRequester .refusedFatal m x o →
        judged (.refusedFatal m) .fatal b.berth
        ∧ ((b.status = .committed ∨ b.status = .slipped) → s.Ends (.refusedFatal m) (ends .fatal 1)))
    ∧ (s.AtRequester .moved m x o → (b.status = .committed ∨ b.status = .slipped) →
        (m.berth = 2 ^ 56 - 1 → s.Ends (.moved m) (ends .fatal 3))
        ∧ (m.berth ≠ 2 ^ 56 - 1 → (∀ w ∈ b.uses, nbit w.pred m.use = false) → s.Ends (.moved m)
            (has fun z => z.status = .slipped ∧ (z.uses[m.use]?).map BUse.first = some m.berth ∧ (z.uses[m.use]?).map BUse.n = some v.n)))
    ∧ (s.AtRequester .done m x o → s.Ends (.doneMsg m)
        (has fun z => (z.uses[m.use]?).map BUse.fin = some true
          ∧ ((∀ u ∈ z.uses, u.fin = true) → b.status = .committed ∨ b.status = .slipped → z.status = .complete))))

/-- R55, R57, R66, R69 to R72, R76, R87 to R89: what happens to the uses of a calendar as time passes, and on its errors. Where the
manual is silent, the model's choice: log entries 61, 62, 71. -/
def Obligations.CalendarsRun : Prop :=
  (∀ (s : State) (c : Cal) (v : OwnUse),
    let x := s.cal c
    let d := ownerDie c
    let comes (u : OwnUse) : Bool := s.msgs.any fun f =>
      f.type_ = .commit && f.die = d && decide (msgUse f.msg = u.id) && decide (f.due ≤ u.exp)
    (x.uses.find? (fun u => u.st = .held && u.exp ≠ 0 && decide (u.exp < s.tb) && !comes u) = some v →
      s.Ends (.holdExpiry c) fun u => x.Freed (u.cal c) v.id ∧ u.cores = s.cores ∧ u.mem = s.mem)
    ∧ ((s.die d).failstop = false → x.poisoned = false →
      ((∀ u ∈ x.uses, u.start = none ∨ calEng c = none) → s.walkBusy c = false → v ∈ x.uses → v.start = none →
        (∀ u ∈ x.uses, u ≠ v → u.st ≠ .booked ∨ s.berth < u.first ∨ u.start.isSome = true) →
        v.st = .booked → v.first ≤ s.berth → s.predsRun c v.id = false → (∀ t, s.carrier c v = some t → s.carrierReady c t = true) →
        s.Ends (.useStart c) fun u =>
          (u.cal c).use v.id = some { v with start := some s.tb, carried := v.carried || (s.carrier c v).isSome }
            ∧ (∀ i, i ≠ v.id → (u.cal c).use i = x.use i)
            ∧ (∀ r, x.row s.berth = some r → r.id = v.id → (u.cal c).row s.berth = some { r with st := .running })
            ∧ u.cores = s.cores ∧ u.mem = s.mem)
      ∧ (x.berth < s.berth → x.uses.find? (fun u => u.first + u.n = x.berth + 1) = some v → v.stop = false → v.st = .booked → v.carried = false →
          s.carrier c v = none → s.forcedChain c v = false → s.forcedPass c v = false → s.Ends (.berthEnd c) fun u =>
            (u.cal c).use v.id = none ∧ (u.cal c).berth = x.berth + 1 ∧ ∀ b r, (u.cal c).row b = some r → r.id ≠ v.id)
      ∧ (x.berth < s.berth → (∀ u ∈ x.uses, u.first + u.n ≠ x.berth + 1) → x.uses ≠ [] → s.Ends (.berthEnd c) fun u =>
            (u.cal c).uses = x.uses ∧ (u.cal c).berth = x.berth + 1
              ∧ ∀ r, x.row x.berth = some r → x.use r.id = some v → v.first ≤ x.berth → x.berth < v.first + v.n →
                  (u.cal c).row x.berth = none)
      ∧ (x.uses.find? (fun u => u.start.isSome && (u.carried || s.forcedChain c u) && !u.stop && decide (u.first + u.n ≤ s.berth)) = some v →
          s.atBoundary c v = true → s.NoDependants v.id → ∀ b,
          let dur := max 1 (v.dur - match v.start with | some t => s.tb - t | none => 0)
          let n := (dur + 255) / 256
          let y := x.dropUse v.id
          s.berth < b → b + n ≤ s.horizon + 1 → y.freeRun b n = true → (∀ a, s.berth < a → a < b → y.freeRun a n = false) →
          s.Ends (.overrunYield c) fun u =>
            (u.cal c).use v.id = some { v with first := b, n := n, st := .booked, start := none, dur := dur }
              ∧ (∀ i, i < n → (u.cal c).row (b + i) = some { st := .booked, id := v.id }) ∧ u.mem = s.mem))
    ∧ (x.uses.find? (fun u => u.start.isSome && u.stop) = some v → s.atBoundary c v = true →
        s.Ends (.runningUseStop c) fun u => x.Freed (u.cal c) v.id ∧ u.mem = s.mem)
    ∧ (x.uses = [] → x.berth < s.berth → s.Ends (.berthEnd c) fun u => u = s.setCal c { x with rows := [], berth := s.berth })
    ∧ s.Ends (.calendarPoison c) fun u =>
        (u.cal c).poisoned = true ∧ (∀ b, (u.cal c).row b = none) ∧ (∀ w ∈ (u.cal c).uses, w.start.isSome = true)
          ∧ u.notes = s.notes ++ [.bkuEcc d] ∧ u.mem = s.mem)
  ∧ ∀ (s : State) (die : Nat),
    (s.Ends (.bkuFailstop die) fun u =>
      (u.die die).failstop = true ∧ u.notes = s.notes ++ [.bkuEcc die] ∧ u.mem = s.mem
        ∧ ∀ c, ownerDie c = die → ∀ w ∈ (u.cal c).uses, w.start.isSome = true)
    ∧ (s.Ends (.correctedSingleBitError die) fun u =>
        u = s.setDie die { s.die die with corr := min 0xFFFFFFFF ((s.die die).corr + 1) })
    ∧ (s.Ends (.dieReset die) fun u =>
        (u.die die).failstop = false ∧ u.mem = s.mem
          ∧ (∀ c, ownerDie c = die → (u.cal c).poisoned = false ∧
              (((s.die die).failstop = true ∨ (s.cal c).poisoned = true) → (u.cal c).rows = [] ∧ (u.cal c).uses = [])
              ∧ ((s.die die).failstop = false → (s.cal c).poisoned = false → u.cal c = s.cal c))
          ∧ ∀ k, 64 * die ≤ k → k < 64 * die + 64 → u.core k = { s.core k with dead := false })

/-- R84, R294, R295, R298, R300, R301, R305, R306, R308, R312, R313: a tick of a demand. A chain is submitted where none is held;
one that is refused or ends FATAL traps BOOK_FAIL; a failed forcing traps CASK_FAULT with the entry, its PC and cause. When
every chain is over, sources are pinned and the word issues again; a box is written tile by tile, none twice, and the word goes
on once its writes are performed; a publication swaps its pages after the release. Where the manual is silent, the model's
choice: log entries 18, 32, 37. -/
def Obligations.DemandsComplete : Prop :=
  ∀ (s : State) (k : Nat) (d : Demand), (s.core k).demand = some d →
    ((s.core k).stopped = true → s.Ends (.demandComplete k d.fw) fun u => u = s)
    ∧ ((s.core k).stopped = false →
    let c := s.core k
    let x := s.ctx k d.fw
    let done := d.chains = [] ∧ d.runs = []
    let traps := x.ih = false ∧ (d.fw = true ∨ x.tvec ≠ 0)
    s.Ends (.demandComplete k (!d.fw)) (fun u => u = s)
    ∧ (∀ b, d.runs.findSome? (fun r => (c.booking r.id).filter Booking.failed) = some b → d.failed = none → traps →
        s.Ends (.demandComplete k d.fw) fun u =>
          (u.ctx k d.fw).ecause = 0x0E ∧ (u.ctx k d.fw).einfo0 = b.word
            ∧ (u.ctx k d.fw).einfo1 = BitVec.ofNat 64 b.endedAt.1 ∧ (u.ctx k d.fw).einfo2 = b.endedAt.2
            ∧ (u.ctx k d.fw).epc = x.pc.extractLsb' 0 64 ∧ (u.core k).demand = none ∧ u.mem = s.mem)
    ∧ (∀ us rest, d.chains = us :: rest → d.runs = [] → d.failed = none →
        (∀ t w, s.submitForced k (d.after - s.berth) (bookingUses us) = .refused t w → traps →
          t.ctx k d.fw = x → s.Ends (.demandComplete k d.fw) fun u =>
            (u.ctx k d.fw).ecause = 0x0E ∧ (u.ctx k d.fw).einfo0 = w ∧ (u.ctx k d.fw).einfo1 = 16 ∧ (u.ctx k d.fw).einfo2 = 0
              ∧ (u.core k).demand = none ∧ u.mem = s.mem)
        ∧ (∀ t id, s.submitForced k (d.after - s.berth) (bookingUses us) = .ok t id →
          let r : ChainRun := { id := id, uses := us, todo := us.filterMap (·.tile) }
          let e : Demand := { d with chains := rest, runs := [r] }
          (∀ j, t.forcedUse k e r j = .on t e) → t.chainOver k r = false →
            s.Ends (.demandComplete k d.fw) fun u =>
              u.core k = { (t.core k).settlePins e with demand := some e } ∧ (∀ j, j ≠ k → u.core j = t.core j) ∧ u.mem = t.mem))
    ∧ (∀ t e i cause a, s.demandStep k d = .inl (.fail t e i cause a) → (t.ctx k d.fw).ih = false →
        (d.fw = true ∨ (t.ctx k d.fw).tvec ≠ 0) → s.Ends (.demandComplete k d.fw) fun u =>
          (u.ctx k d.fw).ecause = 0x0C ∧ (u.ctx k d.fw).einfo2 = cause.setWidth 64
            ∧ (u.ctx k d.fw).einfo0 = BitVec.ofNat 64 (((t.core k).handleOf i).getD 0xFF + i * 65536)
            ∧ (∀ y, (t.core k).cask i = some y → (u.ctx k d.fw).einfo1 = y.pc.extractLsb' 0 64)
            ∧ (u.ctx k d.fw).epc = (t.ctx k d.fw).pc.extractLsb' 0 64 ∧ (u.ctx k d.fw).op = none ∧ u.mem = t.mem)
    ∧ (done → d.work = .pin → s.Ends (.demandComplete k d.fw) fun u =>
        (u.core k).demand = none ∧ u.ctx k d.fw = { x with op := some (.resumed d.descs) } ∧ u.mem = s.mem
          ∧ ∀ p ∈ d.pins, ∀ y m, c.cask p.1 = some y → m ∈ y.memo → p.2.contains m.key = true →
              ∃ z, (u.core k).cask p.1 = some z ∧ ({ m with pin := true } : MemoTile) ∈ z.memo)
    ∧ (done → ∀ es, d.work = .materialise es → s.Ends (.demandComplete k d.fw) fun u =>
        (u.core k).demand = none ∧ u.ctx k d.fw = { x with op := some (.resumed d.descs) } ∧ u.mem = s.mem
          ∧ ∀ i y, es = [i] → c.cask i = some y → y.st = .pending → y.src = [] →
              ∃ z, (u.core k).cask i = some z ∧ z.st = .materialised ∧ z.depth = 0)
    ∧ (done → ∀ kv kc ev ec tap pub box org ext sc v y,
        d.work = .box kv kc ev ec tap pub box org ext sc → kv ≠ kc → c.cask ev = some y → y.desc = .view v →
        ∀ z, c.cask ec = some z →
        let todo := boxTodo d.done (tilesOf (boxOf org ext))
        (∀ t e, d.written = false → s.writeBox k d ec v z.desc.ext org ext todo = .on t e →
          s.Ends (.demandComplete k d.fw) fun u =>
            (u.core k).demand = some e ∧ u.mem = t.mem ∧ u.ctx k d.fw = t.ctx k d.fw ∧ (e.written = true → e.done = d.done ++ todo))
        ∧ (∀ cause a, d.written = true → d.bad = some (cause, a) → traps → s.Ends (.demandComplete k d.fw) fun u =>
            (u.ctx k d.fw).ecause = 0x0C ∧ (u.ctx k d.fw).einfo2 = cause.setWidth 64 ∧ u.mem = s.mem)
        ∧ (d.written = true → d.bad = none → s.forcedDone k = false → s.Ends (.demandComplete k d.fw) fun u =>
            u = s.setCore k { c with demand := some d })
        ∧ (d.written = true → d.bad = none → s.forcedDone k = true → pub = false → s.Ends (.demandComplete k d.fw) fun u =>
            (u.core k).demand = none ∧ x.WentOn (u.ctx k d.fw) ∧ u.mem = s.mem ∧ (u.core k).sram = c.sram)
        ∧ (d.written = true → d.bad = none → s.forcedDone k = true → pub = true →
            (s.released k d.fw (scopeOf sc) = false → s.Ends (.demandComplete k d.fw) fun u =>
              u = s.setCore k { c with demand := some d })
            ∧ (s.released k d.fw (scopeOf sc) = true →
              let pages := pagesOf (v.writes (destBox org (boxOf org ext)))
              (s.entriesHeld k (.scalar d.fw) pages = true → s.Ends (.demandComplete k d.fw) fun u =>
                u = s.setCore k { c with demand := some d })
              ∧ (s.entriesHeld k (.scalar d.fw) pages = false → s.Ends (.demandComplete k d.fw) fun u =>
                (u.core k).demand = none ∧ x.WentOn (u.ctx k d.fw)
                  ∧ u.mem = (s.swapPages k (.scalar d.fw) (scopeOf sc) pages).mem)))))

/-- R142, R446, R458: a notice traps at once where the user context stands at a boundary, with its kind and merge count, cadence,
clock and tick; else it is held, merged with the one before; a run past its `exit` gets none. A bucket refills at the end of its
period, its debt first. R383, R385, R386, R389 to R391: a package or pod episode reaches a die, whose sluice logic takes its
registers as they stand and releases group 0 at once; a later group is released at its time and GAP ticks after the one before,
and only cores of its gang on that die. The ramp of the matrix engine rises while rows enter and falls when they have, a step
every four cycles; a row takes the larger of the cadence and the grant; the table is taken at a step. R383: a pod episode: a
package's arrival is counted at the root, once for each package, and the last sends the releases; a release frees every gang
that has arrived, its wave reaching the dies 140 ticks later. Where the manual is silent, the model's choice: log entries 3, 19,
22, 49. -/
def Obligations.NoticesBucketsAndBarrierWaves : Prop :=
  ((∀ (s : State) (k : Nat) (kind : BitVec 8) (r : Run), (s.core k).task = some r →
     let c := s.core k
     (r.exited = true → s.takesNotice k = false → s.Ends (.notice k kind) fun u => u = s)
     ∧ (r.exited = false →
       let merged := match c.user.notice with | some m => min 255 (m.merged + 1) | none => 1
       let n : Notice :=
         { kind := kind, merged := merged, cadence := c.cadence
           mhz := (match c.clockStep.toNat with | 0 => 2100 | 1 => 1600 | 2 => 1050 | _ => 0), at_ := s.tb }
       ((s.setCtx k false { c.user with notice := some n }).takesNotice k = false → s.Ends (.notice k kind) fun u =>
           u.ctx k false = { c.user with notice := some n } ∧ u.ctx k true = s.ctx k true ∧ u.mem = s.mem)
       ∧ ((s.setCtx k false { c.user with notice := some n }).takesNotice k = true → c.user.tvec ≠ 0 →
           s.Ends (.notice k kind) fun u =>
             let d := u.ctx k false
             d.ecause = BitVec.ofNat 64 (2 ^ 63 + 0x11) ∧ d.einfo0 = BitVec.ofNat 64 (kind.toNat + merged * 256)
               ∧ d.einfo1 = BitVec.ofNat 64 c.cadence ∧ d.einfo2 = BitVec.ofNat 64 n.mhz ∧ d.einfo3 = BitVec.ofNat 64 s.tb
               ∧ d.notice = none ∧ d.ih = true ∧ d.epc = c.user.pc.extractLsb' 0 64 ∧ d.ds = c.user.slot.isSome
               ∧ c.user.KeepsS d [] ∧ u.mem = s.mem)))
   ∧ ∀ (s : State) (k : Nat) (fw : Bool),
     let b := (s.ctx k fw).bucket
     (b.last + b.per + 1 ≤ s.tb → s.Ends (.bucketRefill k fw) fun u =>
       u = s.setCtx k fw { s.ctx k fw with bucket := { b with
         debt := b.debt - b.rate, bal := min b.cap (b.bal + (b.rate - b.debt)), last := b.last + b.per + 1 } })
     ∧ (s.tb < b.last + b.per + 1 → s.Ends (.bucketRefill k fw) fun u => u = s))
  ∧ ((∀ (s : State) (tag die : Nat) (w : BarWave),
       s.waves.find? (fun w => w.tag = tag && w.dies.contains die && decide (w.due ≤ s.tb)) = some w → 1 < w.scope →
       let x := s.die die
       let grp (k : Nat) : Nat := sluiceGroup x.slMap x.slGroups k
       s.Ends (.barrierCompletionAtDie tag die) fun u =>
         (∀ k ∈ s.barMembers w.gang (die * 64) 4, dieOf k = die → s.gangOf k = w.gang →
             (grp k = 0 ∧ x.slGap ≠ 0 ∨ grp k < x.slGroups ∧ x.slGap = 0) → (u.core k).barHeld w.scope w.n = false)
           ∧ (∀ k, (dieOf k ≠ die ∨ s.gangOf k ≠ w.gang ∨ (x.slGap ≠ 0 ∧ grp k ≠ 0)) → u.core k = s.core k)
           ∧ (x.slGap ≠ 0 → 1 < x.slGroups → ∃ y : Sluice, u.sluices = s.sluices ++ [y] ∧ y.die = die ∧ y.gang = w.gang
               ∧ y.scope = w.scope ∧ y.n = w.n ∧ y.t0 = s.tb ∧ y.last = s.tb ∧ y.groups = x.slGroups ∧ y.gap = x.slGap
               ∧ y.map = x.slMap ∧ y.left = (List.range x.slGroups).drop 1)
           ∧ (x.slGap = 0 → u.sluices = s.sluices)
           ∧ (∀ v ∈ u.waves, v.tag = tag → die ∉ v.dies) ∧ u.mem = s.mem)
     ∧ (∀ (s : State) (tag g : Nat) (x : Sluice),
       s.sluices.find? (fun x => x.tag = tag && x.left.head? = some g && decide (x.t0 + g * x.gap ≤ s.tb)
         && decide (x.last + x.gap ≤ s.tb)) = some x → 1 < x.scope →
       s.Ends (.sluiceGroupRelease tag g) fun u =>
         (∀ k ∈ s.barMembers x.gang (x.die * 64) 4, dieOf k = x.die → s.gangOf k = x.gang → sluiceGroup x.map x.groups k = g →
             (u.core k).barHeld x.scope x.n = false)
           ∧ (∀ k, (dieOf k ≠ x.die ∨ s.gangOf k ≠ x.gang ∨ sluiceGroup x.map x.groups k ≠ g) → u.core k = s.core k)
           ∧ (∀ y ∈ u.sluices, y.tag = tag → y = { x with left := x.left.drop 1, last := s.tb }) ∧ u.mem = s.mem)
     ∧ ∀ (s : State) (k : Nat),
       let c := s.core k
       let csl := (s.die (dieOf k)).ramp
       let empty := c.rows = none ∧ c.frows = none
       let becomes (d : Core) : Prop := s.Ends (.rampStep k) fun u => u = s.setCore k d
       (c.stopped = true → s.Ends (.rampStep k) fun u => u = s) ∧ (c.stopped = false →
       (empty → c.ramp = 0 → c.rampRows = false → becomes { c with rampTbl := csl, rampDown := false })
       ∧ (empty → c.ramp ≠ 0 → c.rampDown = true → c.rampAt + 4 ≤ s.tb →
           becomes { c with ramp := c.ramp - 1, rampDown := decide (1 < c.ramp), rampAt := c.rampAt + 4, rampTbl := csl, rampRows := false })
       ∧ (empty → c.ramp ≠ 0 → c.rampDown = false → s.tb < c.rampAt + 4 → c.otherMatrix = false →
           becomes { c with rampDown := true, rampAt := s.tb, rampRows := false })
       ∧ (∀ r, c.rows = some r → c.frows = none → r.on = true → r.left ≠ 0 → c.rampDown = false →
           (s.tb < r.next → c.rampAt + 4 ≤ s.tb →
             becomes { c with ramp := min (c.ramp + 1) 8, rampAt := c.rampAt + 4, rampTbl := csl, rampRows := false })
           ∧ (r.next ≤ s.tb → s.tb < c.rampAt + 4 → 0 < r.q → 0 < c.cadence →
             becomes { c with
               rampRows := true
               rows := some { r with left := r.left - 1, next := s.tb + r.q * max c.cadence (rampGrant c.rampTbl c.ramp) } }))
       ∧ (∀ r, c.rows = some r → c.frows = none → r.on = false → r.left ≠ 0 → r.next ≤ s.tb → c.ramp = 0 → c.rampRows = false →
           0 < r.q → 0 < c.cadence →
           becomes { c with
             rampTbl := csl, rampDown := false, rampAt := s.tb, rampRows := true
             rows := some { r with left := r.left - 1, next := s.tb + r.q * max c.cadence (rampGrant csl 0), on := true } })))
  ∧ (∀ (s x : State) (p : Packet), s.Got 0x17 p x →
       let grp := p.arg.toNat % 4096
       let n := nbits p.arg.toNat 19 16
       (nbit p.arg.toNat 20 = false →
         let c := x.podCtr grp n
         let pkgs := insertNat p.spkg c.pkgs
         ((x.podCtrs.find? fun c => c.grp = grp && c.n = n) = none →
             (∀ b ∈ x.bars, b.scope = 5 → b.n = n → b.grp = grp → b.arr = 0) → c.need = max 1 x.podN ∧ c.pkgs = [])
         ∧ (pkgs.length < c.need → s.Ends (.barMsg p) fun u =>
           (u.podCtrs.find? fun c => c.grp = grp && c.n = n) = some { c with pkgs := pkgs, grp := grp, n := n } ∧ u.out = x.out ∧ u.bars = x.bars)
         ∧ (c.need ≤ pkgs.length → x.pkg ∉ pkgs → s.Ends (.barMsg p) fun u =>
           (u.podCtrs.find? fun c => c.grp = grp && c.n = n) = none ∧ u.bars = x.bars
             ∧ ∀ k ∈ pkgs, x.hops k ≠ 3 → ∃ q ∈ u.out, q.opc = 0x17 ∧ q.dpkg = k ∧ q.arg = BitVec.ofNat 64 (grp + n * 2 ^ 16 + 2 ^ 20)))
       ∧ (nbit p.arg.toNat 20 = true →
         let due (b : BarCtr) : Bool := b.scope = 5 && b.n = n && b.grp = grp && decide (b.arr ≠ 0)
           && decide ((x.barMembers b.gang 0 5).length ≤ b.arr)
         (x.bars.filter due = [] → s.Ends (.barMsg p) fun u => u = x)
         ∧ ∀ b, x.bars.filter due = [b] → s.Ends (.barMsg p) fun u =>
             u.barCtr b.gang 5 b.inst n = { b with arr := 0, ep := (b.ep + 1) % 65536 }
               ∧ u.waves = x.waves ++ [{ tag := x.nextTag, gang := b.gang, scope := 5, n := n, due := x.tb + 140, dies := List.range 8 }]
               ∧ u.cores = x.cores ∧ u.mem = x.mem))

/-! ### Launching -/

/-- R33 to R36, R38, R39: the registers of a launch queue, and what reading the card at its head leads to. Where the manual is
silent, the model's choice: log entries 8, 19, 25, 48, 63, 64, 70. -/
def Obligations.LaunchQueuesReadCards : Prop :=
  ∀ (s : State) (q : Nat),
    let x := s.lq q
    (∀ v : VAddr,
      (x.en = true → s.Ends (.lqBaseWrite q v) fun u => u = s)
      ∧ (x.en = false → s.Ends (.lqBaseWrite q v) fun u => u = s.setLq q
        { x with base := v, head := v, tail := v, tailHi := BitVec.ofNat 64 (v.toNat / 2 ^ 64), card := none }))
    ∧ (∀ v : W64,
      (x.owner = true → s.Ends (.lqTailDoorbell q v) fun u => u = s.setLq q { x with ign := min 0xFFFFFFFF (x.ign + 1) })
      ∧ (x.owner = false → s.Ends (.lqTailDoorbell q v) fun u => u = s.setLq q { x with tail := x.tailHi.extractLsb' 0 8 ++ v })
      ∧ (x.en = true → (v.toNat / 2 ^ 48 ≠ x.asn ∨ v.getLsbD 1 ≠ x.owner) → s.Ends (.lqCtlWrite q v) fun u => u.lq q = x ∧ u.mem = s.mem)
      ∧ ((x.en = false ∨ (v.toNat / 2 ^ 48 = x.asn ∧ v.getLsbD 1 = x.owner)) → s.Ends (.lqCtlWrite q v) fun u =>
          let y := u.lq q
          y.asn = v.toNat / 2 ^ 48 ∧ y.priocap = v.toNat / 2 ^ 36 % 16 ∧ y.owner = v.getLsbD 1 ∧ y.en = (v.getLsbD 0 && s.verified)
            ∧ (v.getLsbD 0 = true → s.verified = true → x.en = false → y.err = 0 ∧ y.stop = false)
            ∧ (x.en = true → y.err = x.err ∧ y.stop = x.stop)
            ∧ y.base = x.base ∧ y.head = x.head ∧ y.tail = x.tail ∧ y.ign = x.ign ∧ u.mem = s.mem))
    ∧ ((s.verified = false ∨ x.en = false ∨ x.stop = true ∨ (s.dealt q).isSome = true) → s.Ends (.cardRead q) fun u => u = s)
    ∧ (s.verified = true → x.en = true → x.stop = false → x.card = none → x.head ≠ x.tail → s.dealt q = none →
      let of : RecordOf := { q := q, card := some x.head }
      s.recordOut of = false →
      let stops (e : Nat) (u : State) : Prop :=
        u.lq q = { x with err := e, stop := true } ∧ u.notes = s.notes ++ [.hostInterrupt q] ∧ u.mem = s.mem ∧ u.cores = s.cores
      let o := s.dropAs 128
      (s.asRead x.asn x.head 128 = .fail → s.Ends (.cardRead q) (stops 1))
      ∧ (∀ t, s.asRead x.asn x.head 128 = .wait t → s.Ends (.cardRead q) fun u => u = t)
      ∧ ∀ bs, s.asRead x.asn x.head 128 = .ok bs →
        let kind := field bs 0 8 / 2 ^ 60
        let done : VAddr := BitVec.ofNat 72 (field bs 0x40 9)
        (bs.length = 128 → kind = 2 → s.Ends (.cardRead q) fun u => u = o.setLq q { x with head := BitVec.ofNat 72 (field bs 0x10 9) })
        ∧ (bs.length = 128 → kind = 0 → s.Ends (.cardRead q) (stops 2))
        ∧ (bs.length = 128 → kind ≠ 0 → kind ≠ 2 → done.toNat % 32 ≠ 0 → s.Ends (.cardRead q) (stops 1))
        ∧ (kind = 1 → cardReason bs = none → done.toNat % 32 = 0 → s.Ends (.cardRead q) fun u =>
            u = o.setLq q { x with card := some (cardOf x.head x.asn bs) })
        ∧ (∀ r, bs.length = 128 → kind ≠ 0 → kind ≠ 2 → cardReason bs = some r → done.toNat % 32 = 0 →
            let rec_ := recordBytes 5 0 0 0 0 s.tb r
            s.Ends (.cardRead q) fun u => u = o.writeRecord of x.asn 0 done rec_
              ∧ (∀ s1 a b, o.asWrite (some of) x.asn 0 (done + 16) (rec_.drop 16) = .ok s1 →
                  (o.asPlace x.asn .store (done + 16)).2 = .ok (.home b) none → (s1.asPlace x.asn .store done).2 = .ok (.home a) none →
                  u.lq q = { x with head := x.head + 128 } ∧ readBytes u.mem a 1 = [5])
              ∧ (o.asWrite (some of) x.asn 0 (done + 16) (rec_.drop 16) = .fail → u.lq q = { x with err := 1, stop := true })))

/-- R43 to R45, R53: a gang is placed whole on its cores; a core that asks is dealt the next chunk, of the size the rule gives, a
returned record first; a run starts with its address space, its partition and the registers the rule names, and no other
register, cask, booking or command of a run before it. R457, R460, R461: a run past its `exit` with nothing outstanding retires:
its completion record is written, its bytes 10H to 1FH before the granule that holds STATUS, and its core is free for the next
record. Where the manual is silent, the model's choice: log entries 19, 25, 64, 65. -/
def Obligations.RunsStartAndRetire : Prop :=
  ((∀ (s : State) (q : Nat) (c : Card) (ks : List Nat), s.verified = true → s.pending = none → s.candidate q = some (c, none) →
     (s.placeable q c.scope c.n = some ks → s.servedFirst q c = true → s.Ends (.gangPlacement q) fun u =>
       (∀ k ∈ ks, (u.core k).job = some s.jobCtr ∧ (u.core k).asn = c.asn ∧ (u.core k).root = s.roots.get 0 c.asn
           ∧ (u.core k).chunk = [])
         ∧ (∀ k, k ∉ ks → u.core k = s.core k)
         ∧ (∃ j : Job, u.jobs = s.jobs ++ [j] ∧ j.id = s.jobCtr ∧ j.q = q ∧ j.card = c ∧ j.next = 0 ∧ j.cores = ks ∧ j.members = ks
             ∧ j.leaving = false)
         ∧ (u.lq q).head = (s.lq q).head + 128 ∧ (u.lq q).card = none ∧ u.lastServed = some q ∧ u.mem = s.mem)
     ∧ (s.placeable q c.scope c.n = some ks → s.servedFirst q c = false → s.Ends (.gangPlacement q) fun u => u = s)
     ∧ (s.placeable q c.scope c.n = none → s.chooseInstance q c.prio c.scope c.n = none →
         s.Ends (.gangPlacement q) fun u => u = s))
   ∧ (∀ (s : State) (k : Nat) (j : Job),
     let c := s.core k
     c.job.bind s.jobOf = some j → c.task = none → s.pending = none →
     (j.leaving = true → s.Ends (.chunkAsk k) fun u => (u.core k).job = none ∧ (u.core k).chunk = [] ∧ u.mem = s.mem)
     ∧ (j.leaving = false → j.dealing = true → (s.verified = false ∨ (s.lq j.q).en = false ∨ (s.lq j.q).stop = true) →
         s.Ends (.chunkAsk k) fun u => u = s)
     ∧ (j.leaving = false → c.chunk = [] → (∀ i ∈ j.cores, i < k → s.asks i = false) →
       (j.dealing = false → s.Ends (.chunkAsk k) fun u => (u.core k).job = none ∧ u.mem = s.mem)
       ∧ (s.verified = true → (s.lq j.q).en = true → (s.lq j.q).stop = false →
       let left := j.card.acnt - j.next
       let n := min left (max j.card.minchunk ((left + 2 * j.card.n - 1) / (2 * j.card.n)))
       (∀ r rs, j.returned = r :: rs → s.Ends (.chunkAsk k) fun u =>
           (u.core k).chunk = [r] ∧ u.jobOf j.id = some { j with returned := rs } ∧ u.mem = s.mem)
       ∧ (j.returned = [] → left ≠ 0 → s.Ends (.chunkAsk k) fun u =>
           (u.core k).chunk = (List.range n).map (j.next + ·) ∧ u.jobOf j.id = some { j with next := j.next + n } ∧ u.mem = s.mem))))
   ∧ ∀ (s : State) (k i : Nat) (rest : List Nat) (j : Job),
     let c := s.core k
     c.job.bind s.jobOf = some j → c.chunk = i :: rest → c.task = none → c.dead = false → j.leaving = false → s.pending = none →
     s.verified = true →
     (c.asn ≠ j.card.asn → s.Ends (.runStart k) fun u => u = s)
     ∧ (c.asn = j.card.asn → (∀ t, s.recordHeader j.card i ≠ .wait t) → s.Ends (.runStart k) fun u =>
       let d := u.core k
       let keep := c.lastJob = some j.id
       let m := j.member k
       d.run = true ∧ d.part_ = j.card.part_ ∧ d.asn = j.card.asn ∧ d.root = c.root ∧ d.chunk = rest
         ∧ (∃ r : Run, d.task = some r ∧ r.job = j.id ∧ r.idx = i ∧ r.member = m ∧ r.start = s.tb ∧ r.exited = false)
         ∧ (∀ bs, s.recordHeader j.card i = .ok bs → field bs 0 8 % 2 ^ 40 ≠ 0 → d.est = field bs 0 8 % 2 ^ 40)
         ∧ d.user.pc = j.card.entry ∧ d.user.ih = false ∧ d.user.slot = none ∧ d.user.op = none
         ∧ d.user.getA 14 = vadd j.card.args (j.card.rsize * i)
         ∧ d.user.getA 15 = BitVec.ofNat 72 (0xFF * 2 ^ 64 + (64 - j.card.part_.toNat % 8 - j.card.part_.toNat / 256 % 64) * 65536)
         ∧ d.user.getS 1 = BitVec.ofNat 64 i ∧ d.user.getS 2 = BitVec.ofNat 64 m ∧ d.user.getS 3 = (if keep then 1 else 0)
         ∧ (∀ r, r ∉ [1, 2, 3] → d.user.getS r = 0) ∧ (∀ r, d.user.getFE r = .full ∧ d.user.getMark r = none)
         ∧ (∀ r, r ∉ [14, 15] → d.user.getA r = 0) ∧ (∀ r : PReg, r ≠ 0 → d.user.getP r = false)
         ∧ (keep → d.sram = c.sram ∧ d.om = c.om ∧ d.masks = c.masks) ∧ (¬ keep → d.sram = [] ∧ d.om = [] ∧ d.masks = [])
         ∧ d.casks = [] ∧ d.hnds = [] ∧ d.books = [] ∧ d.tk = [] ∧ d.wv = false ∧ d.firm = c.firm
         ∧ (∀ e, (d.eng e).q = [] ∧ (d.eng e).done = 0 ∧ (d.eng e).flt = false)
         ∧ (∀ n, n ≠ k → u.core n = s.core n) ∧ u.mem = s.mem))
  ∧ ((∀ (s : State) (k : Nat) (j : Job) (r : Run),
       let c := s.core k
       c.task = some r → c.job.bind s.jobOf = some j → r.exited = true → s.retirable k = true → c.sent = [] → s.pending = none → s.verified = true →
       (∀ f ∈ s.fenceSrc, f.core = k → f.retire = false) →
       s.Ends (.retirement k) fun u => ∃ flags,
         u.mem = (s.writeRecord { q := j.q, card := none } j.card.asn k (vadd j.card.done (32 * r.idx)) (recordBytes 1 flags k r.idx r.start s.tb 0)).mem
           ∧ flags < 8 ∧ flags / 2 % 2 = (if r.ckpted then 1 else 0) ∧ flags / 4 = (if r.again then 1 else 0)
           ∧ flags % 2 = (if r.cmm = true ∨ c.user.unreadMismatch = true then 1 else 0)
           ∧ (u.core k).task = none ∧ (u.core k).lastJob = some j.id ∧ (u.core k).job = c.job ∧ (u.core k).chunk = c.chunk)
     ∧ (∀ (s s1 : State) (of : RecordOf) (asn k a b : Nat) (va : VAddr) (bs : List Byte), bs.length = 32 → of.card = none →
       s.asWrite (some of) asn k (va + 16) (bs.drop 16) = .ok s1 → (s.asPlace asn .store (va + 16)).2 = .ok (.home b) none →
       (s1.asPlace asn .store va).2 = .ok (.home a) none → (b + 16 ≤ a ∨ a + 16 ≤ b) →
       let u := s.writeRecord of asn k va bs
       readBytes u.mem a 16 = bs.take 16 ∧ readBytes u.mem b 16 = bs.drop 16
         ∧ (∀ i, (i < a ∨ a + 16 ≤ i) → (i < b ∨ b + 16 ≤ i) → u.byteAt i = s.byteAt i) ∧ u.lqs = s.lqs)
     ∧ ∀ (status flags core idx start end_ detail : Nat),
       let bs := recordBytes status flags core idx start end_ detail
       bs.length = 32 ∧ field bs 0 1 = status % 256 ∧ field bs 1 1 = flags % 256 ∧ field bs 2 2 = core % 2 ^ 16
         ∧ field bs 4 4 = idx % 2 ^ 32 ∧ field bs 8 8 = start % 2 ^ 64 ∧ field bs 0x10 8 = end_ % 2 ^ 64
         ∧ field bs 0x18 8 = detail % 2 ^ 64)

/-- R48, R49, R51, R384, R453 to R455: verified firmware acts on an update request, a finished checkpoint, a saved run and, once
after a device reset, the save area: an update request disables every queue and begins to checkpoint every run; a run whose work
is over is saved and leaves its core; a saved run resumes on another core with its registers, storage, casks and tokens, but for
s3, which reads 0, and with the barrier episodes released meanwhile; a save area is restored where its layout and CRC are right,
with the queues as their records say, and refused otherwise. Where the manual is silent, the model's choice: log entries 19, 46,
47, 54, 64. -/
def Obligations.RunsAreSavedAndResumed : Prop :=
  (∀ (s : State) (addr : Option Nat), s.pending = none → s.verified = true → s.Ends (.firmwareUpdateRequest addr) fun u =>
    (∀ q, q < 64 → (u.lq q).en = false) ∧ u.pending.isSome = true
      ∧ ∀ k r, k < 512 → (s.core k).task = some r → r.exited = false → r.saving = false → (s.core k).user.sentCard = false →
          (u.core k).task = some { r with saving := true } ∧ (u.core k).run = false ∧ (u.core k).user.op = none)
  ∧ (∀ (s : State) (k : Nat) (r : Run), (s.core k).task = some r → r.saving = true → s.quiet k = true → s.pending = none →
    s.verified = true → s.Ends (.checkpointComplete k) fun u => ∃ v : Saved,
      u.saved = s.saved ++ [v] ∧ v.job = r.job ∧ v.run.idx = r.idx ∧ v.run.ckpted = true ∧ v.run.saving = false
        ∧ v.core.user = (s.core k).user ∧ v.core.sram = (s.core k).sram ∧ v.core.om = (s.core k).om
        ∧ v.core.casks = (s.core k).casks ∧ v.core.tk = (s.core k).tk
        ∧ (∀ e, (v.core.eng e).q = ((s.core k).eng e).q)
        ∧ (u.core k).task = none ∧ (u.core k).job = none ∧ (u.core k).casks = [] ∧ ∀ e, ((u.core k).eng e).q = [])
  ∧ (∀ (s : State) (n k : Nat) (v : Saved) (j : Job), s.saved[n]? = some v → s.jobOf v.job = some j → s.pending = none →
    s.verified = true → j.leaving = false → s.resumeCore j = some k →
    let m := s.readImage v.addr recordSize
    let at_ (o w : Nat) : Nat := leNat (readBytes m o w)
    let ok := farOk v.addr recordSize && areaOk recordSize m
    (ok = true → s.Ends (.resume n) fun u =>
      let d := u.core k
      d.run = true ∧ d.task = some { v.run with idx := at_ 0x20 4, member := at_ 0x24 4 } ∧ d.job = some j.id ∧ d.asn = j.card.asn
        ∧ d.part_ = BitVec.ofNat 32 (at_ 0x28 4) ∧ d.wseq = at_ 0x30 8
        ∧ d.user.pc = BitVec.ofNat 72 (at_ 0x380 9) ∧ d.user.slot = (if nbit (at_ 0x39F 1) 0 then some (BitVec.ofNat 72 (at_ 0x390 9)) else none)
        ∧ d.user.sstatus = BitVec.ofNat 64 (at_ 0x3A8 8) ∧ d.user.epc = BitVec.ofNat 64 (at_ 0x3B0 8)
        ∧ d.user.ecause = BitVec.ofNat 64 (at_ 0x3C0 8) ∧ d.user.tvec = BitVec.ofNat 64 (at_ 0x3F0 8)
        ∧ d.user.Holds 3 0 ∧ (∀ r : Reg, r ≠ 0 → r ≠ 3 → d.user.getS r = BitVec.ofNat 64 (at_ (0x40 + 8 * r.toNat) 8))
        ∧ (∀ r : AReg, d.user.getA r = BitVec.ofNat 72 (at_ (0x280 + 16 * r.toNat) 9))
        ∧ (∀ r : PReg, r ≠ 0 → d.user.getP r = nbit (at_ 0x428 1) r.toNat)
        ∧ (∀ i, i < 32 → d.tk.get 0 i = at_ (0x480 + 2 * i) 2)
        ∧ (∀ i, i < 0x400000 → d.sram.get 0 i = m.get 0 (0x100000 + i))
        ∧ (∀ t i, t < 32 → i < 16384 → d.om.get 0 (16384 * t + i) = m.get 0 (0x41FC0 + 16896 * t + i))
        ∧ (∀ p ∈ v.freed, d.barPend.get false (barKey p.1 p.2) = false)
        ∧ (m = s.savedImage v → (∀ i, i < 128 → d.cask i = v.core.cask i)
            ∧ ∀ e, (d.eng e).q = (v.core.eng e).q ∧ (d.eng e).done = (v.core.eng e).done)
        ∧ d.firm = (s.core k).firm ∧ u.saved = s.saved.eraseIdx n ∧ u.mem = s.mem ∧ ∀ i, i ≠ k → u.core i = s.core i)
    ∧ (ok = false → s.Ends (.resume n) fun u => (u.core k).run = false ∧ (u.core k).task = none ∧ ∀ x ∈ u.saved, x.job ≠ j.id))
  ∧ ∀ s : State,
    let refused (u : State) : Prop :=
      (∀ q, q < 64 → (u.lq q).en = false) ∧ u.notes = s.notes ++ [.saveRefused] ∧ u.jobs = s.jobs ∧ u.cores = s.cores
    let at_ := match s.saveArea with | some a => some a.addr | none => s.saveAddr
    ((s.verified = false ∨ s.restored = true ∨ s.jobCtr ≠ 0) → s.Ends .saveAreaRestore fun u => u = s)
    ∧ (s.verified = true → s.restored = false → s.jobCtr = 0 →
      (at_ = none → s.Ends .saveAreaRestore refused)
      ∧ ∀ a, at_ = some a →
        let n := areaSize (leNat (readBytes s.mem (a + 4) 4))
        let m := s.readImage a n
        let rec_ (q : Nat) : List Byte := readBytes m (64 + 128 * q) 128
        let kept := match s.saveArea with | some a => a.jobs | none => []
        (farOk a n = true → areaOk n m = true → (∀ q t, q < 64 → s.restoreCard kept q (rec_ q) ≠ some (.wait t)) →
          s.Ends .saveAreaRestore fun u =>
            (∀ q, q < 64 → (u.lq q).base = BitVec.ofNat 72 (field (rec_ q) 0 9) ∧ (u.lq q).head = BitVec.ofNat 72 (field (rec_ q) 0x10 9)
                ∧ (u.lq q).tail = BitVec.ofNat 72 (field (rec_ q) 0x20 9) ∧ (u.lq q).asn = field (rec_ q) 0x30 8 / 2 ^ 48
                ∧ (u.lq q).en = nbit (field (rec_ q) 0x30 8) 0 ∧ (u.lq q).owner = nbit (field (rec_ q) 0x30 8) 1)
              ∧ (∀ v ∈ u.saved, ∃ i, i < leNat (readBytes m 4 4) ∧ v.addr = a + areaHead + i * recordSize
                  ∧ let h := s.readImage v.addr 64
                    v.run.idx = leNat (readBytes h 0x20 4) ∧ v.run.member = leNat (readBytes h 0x24 4)
                      ∧ ∃ j ∈ u.jobs, v.job = j.id ∧ j.card.addr = BitVec.ofNat 72 (leNat (readBytes h 16 9)))
              ∧ u.restored = true ∧ u.cores = s.cores ∧ u.mem = s.mem)
        ∧ ((farOk a n = false ∨ areaOk n m = false) → s.Ends .saveAreaRestore refused))

/-! ### The fabric -/

/-- R231, R361, R375, R406, R414, R425, R448: a write, a read and an atomic operation of another package are performed at their
place in this one, invalidations leaving for the die copies of what they write, or refused, or found uncorrectable, and
answered; the bytes of a write are counted, and release a fence that waits for them. Where the manual is silent, the model's
choice: log entries 6, 15, 22, 25. -/
def Obligations.RemoteRequestsAct : Prop :=
  ∀ (s x : State) (p : Packet),
    let window := nbit p.arg.toNat 63
    let core := nbits p.arg.toNat 30 22
    let off := nbits p.arg.toNat 21 0
    let key := homeKey p.pa
    let wrote (bs : List Byte) (hit : Nat → Bool) (u : State) : Prop :=
      (window = true → u.mem = x.mem ∧ (∀ j, j ≠ core → u.core j = x.core j)
          ∧ ∀ j, (u.core core).sram.get 0 j =
              let o := (x.core core).spadBase + off
              if o ≤ j ∧ hit (j - o) = true then bs.getD (j - o) 0 else (x.core core).sram.get 0 j)
        ∧ (window = false → u.cores = x.cores
          ∧ (∀ j, u.byteAt j = if key ≤ j ∧ hit (j - key) = true then bs.getD (j - key) 0 else x.byteAt j)
          ∧ ∀ d i, d < 10 → hit i = true → x.hasCopy d ((key + i) / 64) = true →
              ∃ t of, u.flight t = some (.inval ((key + i) / 64) d of Origin.outside))
    let kept (u : State) : Prop := u.cores = x.cores ∧ u.mem = x.mem
    let waits (u : State) : Prop := ∃ q ∈ u.flights, ∃ l d o, q.2 = some (.inval l d x.nextTag o)
    let told (b : State) (opc : Nat) (arg : W64) (bs : List Byte) (u : State) : Prop :=
      (¬ waits u → b.Replied u p opc arg bs)
        ∧ (waits u → u.out = b.out ∧ ∃ t q, u.flight t = some (.owed x.nextTag q) ∧ q.opc = opc ∧ q.dpkg = p.spkg ∧ q.score = p.score
            ∧ q.tag = p.tag ∧ q.arg = arg ∧ q.data = bs)
    (s.Got 1 p x → (window = true ∨ nbit p.arg.toNat 62 = false) →
      let n := p.data.length
      let mask := nbits p.arg.toNat 46 31
      let hit (i : Nat) : Bool := decide (i < n) && (decide (mask = 0) || decide (i < 16) && nbit mask i)
      let rk := p.spkg * 512 + p.score
      let got := (x.rcvd.get 0 rk + if mask = 0 then n else ((List.range 16).filter (nbit mask)).length) % 2 ^ 40
      let effect (u : State) : Prop := (x.packetRefused p n = true → kept u) ∧ (x.packetRefused p n = false → wrote p.data hit u)
      ((∀ f ∈ x.fenceDst, f.spkg ≠ p.spkg ∨ f.score ≠ p.score) → s.Ends (.wr p) fun u =>
          effect u ∧ u.rcvd.get 0 rk = got
            ∧ (p.ackreq = true → told x 6 (if x.packetRefused p n then 1 else 0) [] u)
            ∧ (p.ackreq = false → u.out = x.out))
      ∧ (∀ f, x.fenceDst = [f] → f.spkg = p.spkg → f.score = p.score → f.n ≤ got → s.Ends (.wr p) fun u =>
          effect u ∧ u.rcvd.get 0 rk = 0 ∧ u.fenceDst = []
            ∧ (x.hops p.spkg ≠ 3 → ∃ q ∈ u.out, q.opc = 0xB ∧ q.dpkg = f.spkg ∧ q.tag = f.ptag ∧ q.arg = BitVec.ofNat 64 got
                ∧ q.data = leBytes 8 f.n)))
    ∧ (s.Got 1 p x → window = false → nbit p.arg.toNat 62 = true →
      let y : State := { x with nextTag := x.nextTag + 1 }
      (∀ t c a, y.copyWrite x.nextTag p = .fault t c a → s.Ends (.wr p) fun u => u.mem = t.mem ∧ (p.ackreq = true → told t 6 1 [] u))
      ∧ (∀ t, y.copyWrite x.nextTag p = .wait t → s.Ends (.wr p) fun u => u = { t with out := t.out ++ [p] })
      ∧ ∀ t, y.copyWrite x.nextTag p = .ok t () → s.Ends (.wr p) fun u => u.mem = t.mem ∧ (p.ackreq = true → told t 6 0 [] u))
    ∧ (s.Got 2 p x →
      let n := if window then nbits p.arg.toNat 46 34 else nbits p.arg.toNat 12 0
      (x.packetRefused p n = true → s.Ends (.rd p) fun u => kept u ∧ x.Replied u p 3 1 [])
      ∧ (x.packetRefused p n = false →
        let bad := if window then (x.core core).spadBad off n else x.homeBad key n
        (bad = true → s.Ends (.rd p) fun u => kept u ∧ x.Replied u p 3 2 [])
        ∧ (bad = false → s.Ends (.rd p) fun u =>
            kept u ∧ x.Replied u p 3 0 (if window then (x.core core).spadRead off n else readBytes x.mem key n))))
    ∧ (s.Got 4 p x →
      let n := amoSize (field p.data 0 1 / 16)
      let old := leNat (if window then (x.core core).spadRead off n else readBytes x.mem key n)
      (x.packetRefused p n = true → s.Ends (.amo p) fun u => kept u ∧ x.Replied u p 5 1 [])
      ∧ (x.packetRefused p n = false → (if window then (x.core core).spadBad off n else x.homeBad key n) = true →
          s.Ends (.amo p) fun u => kept u ∧ x.Replied u p 5 2 [])
      ∧ (x.packetRefused p n = false → (if window then (x.core core).spadBad off n else x.homeBad key n) = false →
        (∀ v, amoPacketNew p old = some v → s.Ends (.amo p) fun u =>
            wrote (leBytes n v) (fun i => decide (i < n)) u ∧ told x 5 0 (leBytes n old) u)
        ∧ (amoPacketNew p old = none → s.Ends (.amo p) fun u => kept u ∧ told x 5 0 (leBytes n old) u)))

/-- R62, R64, R65, R75, R231, R375, R406, R414: booking messages and memory requests of another package complete. Where no request
of the owner's own stands before it, a HOLD of FREE rows inside the horizon holds them, a COMMIT in time books held rows, a
RELEASE and a CANCEL free a use that has not started, and a SLIP moves one to its floor; a message of an unknown TYPE is
counted. A write, a read and an atomic operation at a valid place are performed and answered. Where the manual is silent, the
model's choice: log entries 6, 20, 71. -/
def Obligations.RequestsOfOthersComplete : Prop :=
  (∀ (s : State) (m : BookMsg),
    let c := calOfWord m.res.toNat
    let d := ownerDie c
    let n := nbits m.res.toNat 16 0
    let id := msgUse m
    m.pkg ≠ s.pkg → s.ownPkg (nbits m.res.toNat 61 51) = true → (∀ f ∈ s.msgs, f.msg ≠ m) → s.localFirst d s.tb = false →
    (s.die d).failstop = false →
    ((s.cal c).freeRun m.berth n = true → s.berth ≤ m.berth → m.berth + n ≤ s.horizon + 1 →
      ∃ t, exec (.hold m) s = .next t ∧ t.mem = s.mem ∧ t.cores = s.cores
        ∧ ∀ i, i < n → (t.cal c).row (m.berth + i) = some { st := .held, id := id })
    ∧ ∀ v, (s.cal c).use id = some v → v.id = id →
      (v.st = .held → s.tb ≤ v.exp → ∃ t, exec (.commit m) s = .next t ∧ t.mem = s.mem ∧ t.cores = s.cores
        ∧ ∀ b, s.berth ≤ b → v.first ≤ b → b < v.first + v.n → (t.cal c).row b = some { st := .booked, id := id })
      ∧ (v.start = none →
        (∃ t, exec (.release m) s = .next t ∧ t.mem = s.mem ∧ t.cores = s.cores ∧ (s.cal c).Freed (t.cal c) id)
        ∧ (∃ t, exec (.cancel m) s = .next t ∧ t.mem = s.mem ∧ t.cores = s.cores ∧ (s.cal c).Freed (t.cal c) id)
        ∧ (let b := max m.berth s.berth
           b + v.n ≤ s.horizon + 1 → (s.cal c).freeOrOwn id b v.n = true →
           ∃ t, exec (.slip m) s = .next t ∧ t.mem = s.mem ∧ t.cores = s.cores ∧ (t.cal c).use id = some { v with first := b }
             ∧ ∀ i, i < v.n → (t.cal c).row (b + i) = some { st := v.st, id := id })))
  ∧ (∀ (s : State) (die : Nat) (ty : Byte), (ty = 0 ∨ 10 < ty.toNat) → ∃ t, exec (.unknownBookingMessage die ty) s = .next t
      ∧ (t.die die).drop = min 255 ((s.die die).drop + 1) ∧ (∀ d, d ≠ die → t.die d = s.die d) ∧ t.cores = s.cores ∧ t.mem = s.mem)
  ∧ ∀ (s : State) (p : Packet), s.ownPkg p.dpkg = true → s.ownPkg p.spkg = false →
    let a := p.arg.toNat
    let core := nbits a 30 22
    let off := nbits a 21 0
    let key := homeKey p.pa
    let window (n : Nat) : Prop := nbit a 63 = true ∧ s.windowRefused (nbits a 62 47) core off n = false
    let memory (n : Nat) : Prop := nbit a 63 = false ∧ paOk p.pa n = true
    let pool (bs : List Byte) (hit : Nat → Bool) (t : State) : Prop :=
      let o := (s.core core).spadBase + off
      (∀ j, (t.core core).sram.get 0 j = if o ≤ j ∧ hit (j - o) = true then bs.getD (j - o) 0 else (s.core core).sram.get 0 j)
        ∧ (∀ j, j ≠ core → t.core j = s.core j) ∧ t.mem = s.mem
    let homes (bs : List Byte) (hit : Nat → Bool) (t : State) : Prop :=
      t.cores = s.cores ∧ ∀ j, t.byteAt j = if key ≤ j ∧ hit (j - key) = true then bs.getD (j - key) 0 else s.byteAt j
    let waits (t : State) : Prop := ∃ q ∈ t.flights, ∃ l d o, q.2 = some (.inval l d s.nextTag o)
    let is (q : Packet) (opc : Nat) (bs : List Byte) : Prop :=
      q.opc = opc ∧ q.dpkg = p.spkg ∧ q.score = p.score ∧ q.tag = p.tag ∧ q.arg = 0 ∧ q.data = bs
    let told (opc : Nat) (bs : List Byte) (t : State) : Prop := s.hops p.spkg ≠ 3 → ¬ waits t → ∃ q ∈ t.out, is q opc bs
    let owes (opc : Nat) (bs : List Byte) (t : State) : Prop := waits t → ∃ i q, t.flight i = some (.owed s.nextTag q) ∧ is q opc bs
    (p.opc = 1 →
      let n := p.data.length
      let mask := nbits a 46 31
      let hit (i : Nat) : Bool := decide (i < n) && (decide (mask = 0) || decide (i < 16) && nbit mask i)
      (window n → ∃ t, exec (.wr p) s = .next t ∧ pool p.data hit t ∧ (p.ackreq = true → told 6 [] t ∧ owes 6 [] t))
      ∧ (memory n → nbit a 62 = false →
          ∃ t, exec (.wr p) s = .next t ∧ homes p.data hit t ∧ (p.ackreq = true → told 6 [] t ∧ owes 6 [] t)))
    ∧ (p.opc = 2 →
      (∀ n, n = nbits a 46 34 → window n → (s.core core).spadBad off n = false →
        ∃ t, exec (.rd p) s = .next t ∧ t.cores = s.cores ∧ t.mem = s.mem ∧ (s.hops p.spkg ≠ 3 → ∃ q ∈ t.out, is q 3 ((s.core core).spadRead off n)))
      ∧ (∀ n, n = nbits a 12 0 → memory n → s.homeBad key n = false →
        ∃ t, exec (.rd p) s = .next t ∧ t.cores = s.cores ∧ t.mem = s.mem ∧ (s.hops p.spkg ≠ 3 → ∃ q ∈ t.out, is q 3 (readBytes s.mem key n))))
    ∧ (p.opc = 4 → ∀ n, n = amoSize (field p.data 0 1 / 16) →
      (window n → (s.core core).spadBad off n = false →
        let old := leNat ((s.core core).spadRead off n)
        (∀ v, amoPacketNew p old = some v →
          ∃ t, exec (.amo p) s = .next t ∧ pool (leBytes n v) (fun i => decide (i < n)) t ∧ told 5 (leBytes n old) t ∧ owes 5 (leBytes n old) t)
        ∧ (amoPacketNew p old = none →
          ∃ t, exec (.amo p) s = .next t ∧ t.cores = s.cores ∧ t.mem = s.mem ∧ told 5 (leBytes n old) t ∧ owes 5 (leBytes n old) t))
      ∧ (memory n → s.homeBad key n = false →
        let old := leNat (readBytes s.mem key n)
        (∀ v, amoPacketNew p old = some v →
          ∃ t, exec (.amo p) s = .next t ∧ homes (leBytes n v) (fun i => decide (i < n)) t ∧ told 5 (leBytes n old) t ∧ owes 5 (leBytes n old) t)
        ∧ (amoPacketNew p old = none →
          ∃ t, exec (.amo p) s = .next t ∧ t.cores = s.cores ∧ t.mem = s.mem ∧ told 5 (leBytes n old) t ∧ owes 5 (leBytes n old) t)))

/-- R169, R212, R221, R231, R233, R397, R406, R425: an answer reaches the thing in flight whose tag it bears: a load takes its data,
its refusal, or that its bytes are uncorrectable; a read of an engine takes its data; an atomic operation its old target; a
refused command has a fault; an acknowledgement ends a posted write, and lowers OUT. Where the manual is silent, the model's
choice: log entries 4, 6, 7, 8, 23. -/
def Obligations.RemoteAnswersArrive : Prop :=
  ∀ (s x : State) (p : Packet) (t : Nat),
    (s.Got 3 p x →
      (∀ l : LoadF, x.AnswerTo p t (.load l) → l.core = p.score → l.data = none →
        ((∃ q pa, l.place = .remote q pa) ∨ ∃ q c o, l.place = .rwin q c o) →
        let then_ (y : LoadF) (u : State) : Prop := u = x.setFlight t (.load y)
        (p.arg = 0 → s.Ends (.rdrsp p) (then_ { l with data := some p.data }))
        ∧ (p.arg = 1 → s.Ends (.rdrsp p) (then_ { l with refused := true }))
        ∧ (p.arg = 2 → s.Ends (.rdrsp p) (then_ { l with data := some [], bad := true })))
      ∧ ∀ r : RemRead, x.AnswerTo p t (.remoteRead r) → r.core = p.score → r.data = none →
        s.Ends (.rdrsp p) fun u => u = x.setFlight t (.remoteRead
          (if p.arg = 0 then { r with data := some p.data } else { r with nak := 256 + p.arg.toNat % 256 })))
    ∧ (s.Got 5 p x →
      (∀ (a : AmoF) (e : Entry), x.AnswerTo p t (.amo a) → a.core = p.score → x.command a.core .ce a.seq = some e →
        s.Ends (.amorsp p) fun u => u.flight t = none ∧ u.command a.core .ce a.seq = some
          (if p.arg ≠ 0 then e.refuse a.idx (if p.arg = 2 then fEcc else fProt) a.va
           else if a.idx = 0 then { e with result := BitVec.ofNat 64 (leNat p.data) } else e))
      ∧ ∀ (f : SaeF) (e : Entry), x.AnswerTo p t (.sae f) → f.core = p.score → x.command f.core .sae f.seq = some e →
        s.Ends (.amorsp p) fun u => u.flight t = none
          ∧ u.command f.core .sae f.seq = some
              (if p.arg = 0 then e else e.refuse t (if p.arg = 2 then fEcc else fProt) f.va))
    ∧ (s.Got 6 p x →
      (∀ w : RemWrite, x.AnswerTo p t (.remoteWrite w) → w.core = p.score → (∀ y ∈ x.swaps, y.tag ≠ t) →
        (∀ fw i, w.agent = .scalar fw → w.win = some i → w.record = none → s.Ends (.ack p) fun u =>
          let y := (x.ctx w.core fw).wallow i
          u.flight t = none ∧ (x.ctx w.core fw).KeepsS (u.ctx w.core fw) [] ∧ u.mem = x.mem
            ∧ (u.ctx w.core fw).wallow i = { y with out := y.out - 1, ref := if p.arg = 0 then y.ref else min 65535 (y.ref + 1) })
        ∧ (∀ of, w.agent = .scalar true → w.win = none → w.record = some of → p.arg ≠ 0 → s.Ends (.ack p) fun u =>
          u.flight t = none ∧ (u.lq of.q).err = 1 ∧ (u.lq of.q).stop = true ∧ (u.lq of.q).head = (x.lq of.q).head
            ∧ u.notes = x.notes ++ [.hostInterrupt of.q] ∧ u.mem = x.mem ∧ u.cores = x.cores)
        ∧ (∀ e seq c, w.agent = .lane e → w.eng = some (e, seq) → w.record = none → x.command w.core e seq = some c →
          s.Ends (.ack p) fun u => u.flight t = none ∧ u.command w.core e seq = some
            (if p.arg = 0 then c else { c with fault := some (c.fault.getD (fProt, w.va.extractLsb' 0 64)) })))
      ∧ ∀ (c : ExCopy) (w : Nat × Nat), (∀ q ∈ x.flights, q.1 % 65536 ≠ p.tag) → x.copies = [c] →
        c.writes.find? (fun w => w.1 % 65536 = p.tag) = some w →
        let d := { c with writes := c.writes.filter fun v => v.1 ≠ w.1 }
        s.Ends (.ack p) fun u =>
          u = { x with copies := [if p.arg = 0 then d else { d with hi := min c.hi w.2, fin := true }] })

/-- R67, R169, R212, R408, R409, R411, R416, R420: a NAK is counted with its code, and acts by the request it answers; an unknown
operation is counted and answered with a NAK. Where the manual is silent, the model's choice: log entries 6, 23. -/
def Obligations.NaksActByTheirRequest : Prop :=
  (∀ (s x : State) (p : Packet), s.Got 7 p x →
    let k := p.score
    let code := p.arg.toNat % 256
    let counted (u : State) : Prop := (u.core k).nakCount = min 65535 ((x.core k).nakCount + 1) ∧ (u.core k).nakLast = code % 16
    let of := nbits p.arg.toNat 15 8
    (of ∈ [3, 5, 9, 0xB] → s.Ends (.nak p) fun u => counted u ∧ u.flights = x.flights ∧ u.fenceSrc = x.fenceSrc ∧ u.mem = x.mem)
    ∧ (of ∉ [3, 5, 9, 0xB] →
    (∀ fw d tv va, x.renqOf k p.tag = some (fw, d, tv, va) → (x.ctx k fw).CanTrap fw → s.Ends (.nak p) fun u =>
      (x.ctx k fw).Trapped (u.ctx k fw) 0x10 (BitVec.ofNat 64 code) tv (va.extractLsb' 0 64) 0 ∧ counted u)
    ∧ (x.renqOf k p.tag = none →
      (∀ f, x.fenceSrc.find? (fun f => f.tag % 65536 = p.tag && f.core = k) = some f → f.retire = false →
        s.Ends (.nak p) fun u => (u.ctx k f.fw).Holds f.d (BitVec.ofNat 64 (2 * 2 ^ 60 + code * 2 ^ 44))
          ∧ (x.ctx k f.fw).KeepsS (u.ctx k f.fw) [f.d] ∧ (∀ g ∈ u.fenceSrc, g.tag ≠ f.tag) ∧ counted u)
      ∧ (x.fenceSrc.find? (fun f => f.tag % 65536 = p.tag && f.core = k) = none →
        (∀ y, x.posts.find? (fun y => y.tag % 65536 = p.tag && y.core = k) = some y → s.Ends (.nak p) fun u =>
          (u.ctx k y.fw).Holds y.d (BitVec.ofNat 64 (6 * 2 ^ 60 + y.round * 2 ^ 40)) ∧ (∀ z ∈ u.posts, z.tag ≠ y.tag)
            ∧ u.myRounds = (x.myRounds.filter fun r => r.tag ≠ y.tag) ∧ counted u)
        ∧ (x.posts.find? (fun y => y.tag % 65536 = p.tag && y.core = k) = none →
          (∀ t (l : LoadF), x.AnswerTo p t (.load l) → l.core = k →
            ((∃ q pa, l.place = .remote q pa) ∨ ∃ q c o, l.place = .rwin q c o) →
            s.Ends (.nak p) fun u => u.flight t = some (.load { l with nak := some code }) ∧ counted u)
          ∧ (∀ t (r : RemRead), x.AnswerTo p t (.remoteRead r) → r.core = k →
            s.Ends (.nak p) fun u => u.flight t = some (.remoteRead { r with nak := code }) ∧ counted u)
          ∧ (∀ t (w : RemWrite) fw i, x.AnswerTo p t (.remoteWrite w) → w.core = k → (∀ y ∈ x.swaps, y.tag ≠ t) → w.record = none →
            w.agent = .scalar fw → w.win = some i → s.Ends (.nak p) fun u =>
            let y := (x.ctx k fw).wallow i
            u.flight t = none ∧ (u.ctx k fw).wallow i = { y with out := y.out - 1 } ∧ counted u)
          ∧ (∀ t (e : Eng) (seq : Nat) (va : W64) (c : Entry),
            ((∃ w : RemWrite, x.AnswerTo p t (.remoteWrite w) ∧ w.core = k ∧ w.agent = .lane e ∧ w.eng = some (e, seq) ∧ w.record = none
                ∧ (∀ y ∈ x.swaps, y.tag ≠ t) ∧ va = w.va.extractLsb' 0 64)
              ∨ (∃ a : AmoF, x.AnswerTo p t (.amo a) ∧ a.core = k ∧ e = .ce ∧ a.seq = seq ∧ va = a.va.extractLsb' 0 64)
              ∨ (∃ f : SaeF, x.AnswerTo p t (.sae f) ∧ f.core = k ∧ e = .sae ∧ f.seq = seq ∧ va = f.va.extractLsb' 0 64)) →
            x.command k e seq = some c → s.Ends (.nak p) fun u =>
              u.flight t = none ∧ u.command k e seq = some { c with fault := some (c.fault.getD (fNak, va)) } ∧ counted u)
          ∧ (∀ (b : Booking) (id : UseId), (∀ q ∈ x.flights, q.1 % 65536 ≠ p.tag) → x.copies = [] →
            (∀ i, i < 64 → ∀ z ∈ (x.core (64 * dieOf k + i)).books, z.status = .held → x.tb < z.next) →
            x.bookTags.find? (fun y => y.1 = p.tag && y.2.core = k) = some (p.tag, id) → id.hm = false →
            (x.core k).booking id.xid = some b → (b.status = .committed ∨ b.status = .slipped) → s.Ends (.nak p) fun u =>
              ∃ y, (u.core k).booking b.id = some y ∧ y.status = .fatal ∧ y.sub = (if b.rebook then 2 else 4) ∧ y.dest = none))))))
  ∧ ∀ (s : State) (port : Nat) (p : Packet), knownOpc p.opc = false → s.Ends (.unknownOpc port p) fun u =>
      u.port port = { s.port port with badopc := min 65535 ((s.port port).badopc + 1) } ∧ s.Replied u p 7 (BitVec.ofNat 64 (p.opc % 256 * 256 + 1)) []
        ∧ u.cores = s.cores ∧ u.mem = s.mem

/-- R37, R405, R411 to R413, R415 to R417: remote enqueue, count fences and the time base as packets and time-outs: a card is
written and the tail rises in one step, or is refused; a fence is answered once its bytes have come or its time is over; the
answers reach the words that wait. Where the manual is silent, the model's choice: log entries 6, 19, 21, 22, 63. -/
def Obligations.EnqueueFenceAndTimePackets : Prop :=
  (∀ (s x : State) (p : Packet), s.Got 8 p x →
    let q := p.arg.toNat % 64
    let y := x.lq q
    let follows (va w : VAddr) : Prop := ∃ bs, x.asRead y.asn va 128 = .ok bs
      ∧ w = if field bs 0 8 / 2 ^ 60 = 2 then BitVec.ofNat 72 (field bs 0x10 9) else va
    let told (st : Nat) (u : State) : Prop := x.Replied u p 9 (BitVec.ofNat 64 (st * 2 ^ 60)) [] ∧ u.mem = x.mem ∧ u.lq q = y
    ((y.owner = false ∨ y.en = false) → s.Ends (.renq p) (told 3))
    ∧ (y.owner = true → y.en = true → ∀ slot head next, follows y.tail slot → follows y.head head → follows (slot + 128) next →
      (next = head → s.Ends (.renq p) (told 2))
      ∧ (next ≠ head →
        (∀ t, x.asWrite none y.asn 0 slot p.data = .ok t → s.Ends (.renq p) fun u =>
            t.Replied u p 9 (BitVec.ofNat 64 (2 ^ 60)) [] ∧ u.mem = t.mem ∧ u.lq q = { y with tail := next })
        ∧ (∀ t, x.asWrite none y.asn 0 slot p.data = .wait t → s.Ends (.renq p) fun u => u = { t with out := t.out ++ [p] })
        ∧ (x.asWrite none y.asn 0 slot p.data = .fail → s.Ends (.renq p) fun u => (u.lq q).stop = true ∧ (u.lq q).err = 1 ∧ u.mem = x.mem))))
  ∧ (∀ (s x : State) (p : Packet), s.Got 9 p x →
    (∀ fw d tv va, x.renqOf p.score p.tag = some (fw, d, tv, va) → s.Ends (.renqAns p) fun u =>
      (x.ctx p.score fw).Took (u.ctx p.score fw) d p.arg ∧ u.mem = x.mem)
    ∧ (x.renqOf p.score p.tag = none → s.Ends (.renqAns p) fun u =>
        u = x.setCore p.score { x.core p.score with unasked := (x.core p.score).unasked + 1 }))
  ∧ (∀ (s : State) (k : Nat) (fw : Bool) (d : Reg) (tag dl : Nat) (tv : W64) (va : VAddr),
    (s.ctx k fw).op = some (.renq d tag dl tv va) → (fw = false → ∀ d t l v a, (s.ctx k true).op ≠ some (.renq d t l v a)) →
    (dl ≤ s.tb → (s.ctx k fw).CanTrap fw → s.Ends (.renqAckTimeout k) fun u =>
      (s.ctx k fw).Trapped (u.ctx k fw) 0x10 3 tv (va.extractLsb' 0 64) 0)
    ∧ (fw = false → s.tb < dl → s.Ends (.renqAckTimeout k) fun u => u = s))
  ∧ (∀ (s x : State) (p : Packet), s.Got 0xA p x →
    let rk := p.spkg * 512 + p.score
    let n := p.arg.toNat % 2 ^ 40
    let m := x.rcvd.get 0 rk
    (∀ f ∈ x.fenceDst, f.spkg = p.spkg → f.score = p.score → m < f.n) →
    (n ≤ m → s.Ends (.fenceMsg p) fun u => x.Replied u p 0xB (BitVec.ofNat 64 m) (leBytes 8 n) ∧ u.rcvd.get 0 rk = 0)
    ∧ (m < n → s.Ends (.fenceMsg p) fun u => u.rcvd = x.rcvd ∧ u.out = x.out ∧ u.fenceDst = x.fenceDst ++
        [{ tag := x.nextTag, ptag := p.tag, spkg := p.spkg, score := p.score, n := n, deadline := x.tb + x.ftmo }]))
  ∧ (∀ (s : State) (tag : Nat) (f : FenceDst), s.fenceDst.find? (fun f => f.tag = tag && decide (f.deadline ≤ s.tb)) = some f →
    s.Ends (.fenceFtmoExpiry tag) fun u =>
      (∀ g ∈ u.fenceDst, g.tag ≠ f.tag) ∧ u.rcvd.get 0 (f.spkg * 512 + f.score) = 0
        ∧ (s.hops f.spkg ≠ 3 → s.Sent u fun q => q.opc = 0xB ∧ q.dpkg = f.spkg ∧ q.score = f.score ∧ q.tag = f.ptag
            ∧ q.arg = BitVec.ofNat 64 (s.rcvd.get 0 (f.spkg * 512 + f.score)) ∧ q.data = leBytes 8 f.n))
  ∧ (∀ (s x : State) (p : Packet), s.Got 0xB p x →
    x.fenceSrc.find? (fun f => f.tag % 65536 = p.tag && f.core = p.score) = none → s.Ends (.fenceAns p) fun u =>
      u = x.setCore p.score { x.core p.score with unasked := (x.core p.score).unasked + 1 })
  ∧ (∀ (s x : State) (p : Packet) (f : FenceSrc), s.Got 0xB p x →
    x.fenceSrc.find? (fun f => f.tag % 65536 = p.tag && f.core = p.score) = some f → f.retire = false →
    let m := p.arg.toNat % 2 ^ 40
    let miss := (f.n + 2 ^ 40 - m) % 2 ^ 40
    s.Ends (.fenceAns p) fun u =>
      let d := u.ctx f.core f.fw
      (∀ g ∈ u.fenceSrc, g.tag ≠ f.tag) ∧ (x.ctx f.core f.fw).KeepsS d [f.d] ∧ u.mem = x.mem
        ∧ (m = f.n → d.Holds f.d 0 ∧ (u.core f.core).cmm = (x.core f.core).cmm)
        ∧ (m ≠ f.n → (u.core f.core).cmm = true ∧ (f.d ≠ 0 → d.getS f.d = BitVec.ofNat 64 (2 ^ 60 + miss) ∧ d.getFE f.d = .full
            ∧ d.getMark f.d = some { trap := { cause := .countMismatch, e0 := BitVec.ofNat 64 f.pkg, e1 := BitVec.ofNat 64 f.n,
                                               e2 := BitVec.ofNat 64 m, e3 := f.pc.extractLsb' 0 64 }, of := none })))
  ∧ (∀ (s : State) (tag : Nat) (f : FenceSrc), s.fenceSrc.find? (fun f => f.tag = tag && decide (f.deadline ≤ s.tb)) = some f →
    f.retire = false → s.Ends (.fenceAnswerTimeout tag) fun u =>
      (u.ctx f.core f.fw).Holds f.d (BitVec.ofNat 64 (2 * 2 ^ 60 + 3 * 2 ^ 44)) ∧ (∀ g ∈ u.fenceSrc, g.tag ≠ f.tag)
        ∧ (u.core f.core).nakCount = min 65535 ((s.core f.core).nakCount + 1) ∧ (u.core f.core).nakLast = 3)
  ∧ ∀ (s x : State) (p : Packet), s.Got 0x18 p x → s.Ends (.timeMsg p) fun u =>
      x.tb ≤ u.tb ∧ u.tb ≤ max x.tb (p.arg.toNat + 16) ∧ p.arg.toNat ≤ u.tb + 16 ∧ u.mem = x.mem ∧ u.cores = x.cores

/-- R422 to R424: the demand of a round never takes more of a destination than its receive buffer holds, its streams lie one behind
the other without overlapping, and no tide names a source or a destination twice. -/
def Obligations.TidesFitTheReceiveBuffers : Prop :=
  (∀ (j : Manifest) (ms : List Manifest), ((pairsTo j ms 0).map Pair.bytes).sum ≤ j.rcap
    ∧ (∀ p ∈ pairsTo j ms 0, p.bytes = 0 ∨ p.off + p.bytes ≤ j.rcap)
    ∧ (pairsTo j ms 0).Pairwise fun p q => p.off + p.bytes ≤ q.off)
  ∧ ∀ (ps : List Pair) (srcs : List Nat), srcs.Nodup → ∀ (fuel : Nat), ∀ f ∈ splitTides srcs fuel ps,
      (f.pairs.map Pair.src).Nodup ∧ (f.pairs.map Pair.dst).Nodup ∧ 0 < f.len ∧ ∀ p ∈ f.pairs, f.len ≤ p.q

/-- R88, R420 to R422, R424, R426, R427: the harbourmaster records a manifest and answers it, or refuses one that is late,
contradicts the round or comes twice; the last starts the round; a round whose manifests stay away, or that a participant
abandons, is over for all, and so is one whose tide meets a stopped booking unit; and the last report of a pair ends it. R429:
the primary's heartbeats, the standby's watch, and taking over: PRIM and STBY change places, the standby goes, every package is
told, the rounds of the group are over, and what the old primary has booked is cancelled, in a package of any group. Where the
manual is silent, the model's choice: log entries 6, 19, 20, 69, 71. -/
def Obligations.HarbourmasterRunsRounds : Prop :=
  ((∀ (s x : State) (p : Packet), s.Got 0x11 p x → nbit p.arg.toNat 63 = false →
     let m := packetManifest p
     let here (r : HmRound) : Bool := r.grp = m.grp && r.round = m.round
     let told (st : Nat) (u : State) : Prop := x.hops p.spkg ≠ 3 → ∃ q ∈ u.out, q.opc = 0x11 ∧ q.dpkg = p.spkg
       ∧ q.score = p.score ∧ q.tag = p.tag ∧ q.arg = BitVec.ofNat 64 (2 ^ 63 + st)
     let starts (mans : List Manifest) (u : State) : Prop :=
       let ps := demandOf mans
       let srcs := (mans.foldl (fun l m => insertMan m l) []).map Manifest.pkg
       let ts := mkTides mans x.tb x.hmXid (x.berth + 8) (splitTides srcs ps.length ps)
       (ts = [] → u.hmRounds.find? here = none ∧ ∀ n ∈ mans, x.hops n.pkg ≠ 3 → ∃ q ∈ u.out, q.opc = 0x13 ∧ q.dpkg = n.pkg
           ∧ q.score = n.core ∧ q.arg = BitVec.ofNat 64 (m.grp * 2 ^ 16 + m.round))
         ∧ (ts ≠ [] → ∃ r, u.hmRounds.find? here = some r ∧ r.started = true ∧ r.tides = ts ∧ r.mans = mans
           ∧ r.waitRep = (ts.map fun t => t.pairs.length).sum)
     (x.hmPrim ≠ x.pkg → s.Ends (.manifest p) fun u => u = x)
     ∧ (x.hmPrim = x.pkg →
       (x.hmRounds.find? here = none →
         (1 < m.npart → s.Ends (.manifest p) fun u => told 0 u ∧ u.hmRounds = x.hmRounds ++
             [{ grp := m.grp, round := m.round, opened := x.berth, started := false, mans := [m], tides := [], waitRep := 0, sent_ := [] }])
         ∧ (m.npart ≤ 1 → s.Ends (.manifest p) fun u => told 0 u ∧ starts [m] u))
       ∧ ∀ r f ms, x.hmRounds.find? here = some r → r.mans = f :: ms →
         ((∃ y ∈ r.mans, y.pkg = m.pkg) → s.Ends (.manifest p) fun u => told 5 u ∧ u.hmRounds = x.hmRounds)
         ∧ ((∀ y ∈ r.mans, y.pkg ≠ m.pkg) →
           ((f.npart ≠ m.npart ∨ f.pscope ≠ m.pscope ∨ r.started = true) →
             s.Ends (.manifest p) fun u => told 4 u ∧ u.hmRounds = x.hmRounds)
           ∧ (f.npart = m.npart → f.pscope = m.pscope → r.started = false →
             (r.mans.length + 1 < m.npart → s.Ends (.manifest p) fun u =>
                 told 0 u ∧ u.hmRounds.find? here = some { r with mans := r.mans ++ [m] })
             ∧ (m.npart ≤ r.mans.length + 1 → s.Ends (.manifest p) fun u => told 0 u ∧ starts (r.mans ++ [m]) u)))))
   ∧ (∀ (s : State) (grp round : Nat) (r : HmRound),
     s.hmRounds.find? (fun r => r.grp = grp && r.round = round) = some r →
     (r.started = false → r.tides = [] → s.rtmo ≠ 0 → r.opened + s.rtmo ≤ s.berth → s.Ends (.roundTimeout grp round) fun u =>
       u.hmRounds.find? (fun r => r.grp = grp && r.round = round) = none
         ∧ ∀ n ∈ r.mans, s.hops n.pkg ≠ 3 → ∃ q ∈ u.out, q.opc = 0x14 ∧ q.dpkg = n.pkg ∧ q.score = n.core
             ∧ q.arg = BitVec.ofNat 64 (2 ^ 63 + 2 * 2 ^ 32 + grp * 2 ^ 16 + round))
     ∧ ((r.started = true ∨ s.rtmo = 0 ∨ s.berth < r.opened + s.rtmo) → s.Ends (.roundTimeout grp round) fun u => u = s))
   ∧ (∀ (s x : State) (p : Packet), s.Got 0x12 p x → nbit p.arg.toNat 63 = true →
     let grp := nbits p.arg.toNat 27 16
     let round := p.arg.toNat % 65536
     ∀ r, x.hmRounds.find? (fun r => r.grp = grp && r.round = round && r.started) = some r →
       (1 < r.waitRep → s.Ends (.pairReport p) fun u =>
         u.hmRounds.find? (fun r => r.grp = grp && r.round = round) =
           some { r with waitRep := r.waitRep - 1, sent_ := r.sent_ ++ [(p.spkg, field p.data 0 2, field p.data 2 8)] })
       ∧ (r.waitRep ≤ 1 → s.Ends (.pairReport p) fun u =>
         u.hmRounds.find? (fun r => r.grp = grp && r.round = round) = none
           ∧ ∀ n ∈ r.mans, x.hops n.pkg ≠ 3 → ∃ q ∈ u.out, q.opc = 0x13 ∧ q.dpkg = n.pkg ∧ q.score = n.core
               ∧ q.arg = BitVec.ofNat 64 (grp * 2 ^ 16 + round)))
   ∧ (∀ (s : State) (r : HmRound) (t : Tide), s.hmRounds = [r] → r.tides = [t] → t.committed = false → t.next ≤ s.tb →
     (s.die 8).failstop = true → s.Ends (.searchRound 512 t.xid) fun u =>
       u.hmRounds = [] ∧ ∀ n ∈ r.mans, s.hops n.pkg ≠ 3 → ∃ q ∈ u.out, q.opc = 0x14 ∧ q.dpkg = n.pkg ∧ q.score = n.core
           ∧ q.arg = BitVec.ofNat 64 (2 ^ 63 + 2 * 2 ^ 32 + r.grp * 2 ^ 16 + r.round))
   ∧ ∀ (s x : State) (p : Packet), s.Got 0x14 p x → nbit p.arg.toNat 63 = false →
     let grp := nbits p.arg.toNat 27 16
     let round := p.arg.toNat % 65536
     ∀ r, x.hmRounds.find? (fun r => r.grp = grp && r.round = round && r.mans.any fun m => m.pkg = p.spkg) = some r →
       s.Ends (.abandon p) fun u =>
         u.hmRounds.find? (fun r => r.grp = grp && r.round = round) = none
           ∧ ∀ n ∈ r.mans, x.hops n.pkg ≠ 3 → ∃ q ∈ u.out, q.opc = 0x14 ∧ q.dpkg = n.pkg)
  ∧ (let cleared (old : Nat) (x u : State) : Prop := ∀ c ∈ (List.range 10).flatMap dieCals, ((x.cal c).uses.map OwnUse.id).Nodup →
       (∀ v ∈ (u.cal c).uses, v.id.hm = true → v.id.pkg = old → v.start.isSome = true)
         ∧ ∀ v ∈ (x.cal c).uses, (v.id.hm = false ∨ v.id.pkg ≠ old) → v ∈ (u.cal c).uses
     (∀ s : State,
       (s.pkg = s.hmPrim → s.hmStby ≠ s.hmPrim → s.noStby = false → s.hbSent + 2048 ≤ s.tb → s.hops s.hmStby ≠ 3 →
         s.Ends .heartbeatTimer fun u => u.hbSent = s.tb ∧ u.cores = s.cores ∧ u.mem = s.mem
           ∧ s.Sent u fun q => q.opc = 0x15 ∧ q.dpkg = s.hmStby ∧ q.arg = BitVec.ofNat 64 s.hmGrp)
       ∧ ((s.pkg ≠ s.hmPrim ∨ s.hmStby = s.hmPrim ∨ s.noStby = true ∨ s.tb < s.hbSent + 2048) →
           s.Ends .heartbeatTimer fun u => u = s))
     ∧ (∀ (s x : State) (p : Packet), s.Got 0x15 p x → s.Ends (.heartbeat p) fun u => u = { x with hbSeen := x.tb })
     ∧ (∀ s : State,
       (s.pkg = s.hmStby → s.hmStby ≠ s.hmPrim → s.noStby = false → s.hbSeen + 6144 ≤ s.tb →
         s.Ends .takeoverTimeout fun u => u.hmPrim = s.hmStby ∧ u.hmStby = s.hmPrim ∧ u.noStby = true ∧ u.hbSent = s.tb
           ∧ (∀ r ∈ u.hmRounds, r.grp ≠ s.hmGrp) ∧ (∀ r ∈ u.myRounds, r.grp ≠ s.hmGrp) ∧ cleared s.hmPrim s u
           ∧ ∀ k ∈ s.reachable, s.hops k ≠ 3 → ∃ q ∈ u.out, q.opc = 0x16 ∧ q.dpkg = k
               ∧ q.arg = BitVec.ofNat 64 (s.hmPrim * 2 ^ 16 + s.hmGrp))
       ∧ ((s.pkg ≠ s.hmStby ∨ s.hmStby = s.hmPrim ∨ s.noStby = true ∨ s.tb < s.hbSeen + 6144) →
           s.Ends .takeoverTimeout fun u => u = s))
     ∧ ∀ (s x : State) (p : Packet), s.Got 0x16 p x →
       let old := nbits p.arg.toNat 26 16
       (p.arg.toNat % 4096 = x.hmGrp → s.Ends (.takeover p) fun u =>
         u.hmPrim = x.hmStby ∧ u.hmStby = x.hmPrim ∧ u.noStby = true ∧ (∀ r ∈ u.hmRounds, r.grp ≠ x.hmGrp)
           ∧ (∀ r ∈ u.myRounds, r.grp ≠ x.hmGrp) ∧ (old = x.hmPrim → cleared old x u))
       ∧ (p.arg.toNat % 4096 ≠ x.hmGrp → s.Ends (.takeover p) fun u => cleared old x u ∧ u.hmPrim = x.hmPrim ∧ u.hmStby = x.hmStby
           ∧ u.noStby = x.noStby ∧ u.hmRounds = x.hmRounds ∧ u.myRounds = x.myRounds ∧ u.cores = x.cores))

/-- R420, R421, R424 to R428: a posting package: it learns of its post's answer, or that none came; a grant begins a copy, whose
packets carry what its berths allow and end at a fault; the source reports; and the round's end publishes the receive buffer, or
its abandonment leaves it, every wait receiving the result. Where the manual is silent, the model's choice: log entries 6, 19,
35, 69. -/
def Obligations.ParticipantsCopyAndReceive : Prop :=
  (∀ (s x : State) (p : Packet) (y : PostF), s.Got 0x11 p x → nbit p.arg.toNat 63 = true →
    x.posts.find? (fun y => y.tag % 65536 = p.tag && y.core = p.score) = some y →
    let st := p.arg.toNat % 16
    s.Ends (.manifestAnswer p) fun u =>
      (u.ctx y.core y.fw).Holds y.d (BitVec.ofNat 64 (st * 2 ^ 60 + y.round * 2 ^ 40)) ∧ (∀ z ∈ u.posts, z.tag ≠ y.tag)
        ∧ (st = 0 → u.myRounds = x.myRounds) ∧ (st ≠ 0 → u.myRounds = x.myRounds.filter fun r => r.tag ≠ y.tag))
  ∧ (∀ (s : State) (tag : Nat) (y : PostF), s.posts.find? (fun y => y.tag = tag && decide (y.deadline ≤ s.tb)) = some y →
    s.Ends (.postAnswerTimeout tag) fun u =>
      (u.ctx y.core y.fw).Holds y.d (BitVec.ofNat 64 (6 * 2 ^ 60 + y.round * 2 ^ 40)) ∧ (∀ z ∈ u.posts, z.tag ≠ y.tag)
        ∧ u.myRounds = s.myRounds.filter fun r => r.tag ≠ y.tag)
  ∧ (∀ (s x : State) (p : Packet), s.Got 0x12 p x → nbit p.arg.toNat 63 = false →
    let grp := nbits p.arg.toNat 27 16
    let round := p.arg.toNat % 65536
    let dst := field p.data 0 2
    let lo := field p.data 10 8
    (x.myRound grp round = none → x.hops x.hmPrim ≠ 3 → s.Ends (.grant p) fun u =>
      u.copies = x.copies ∧ x.Sent u fun q => q.opc = 0x12 ∧ q.dpkg = x.hmPrim ∧ q.data = leBytes 2 dst ++ leBytes 8 0)
    ∧ ∀ r, x.myRound grp round = some r → s.Ends (.grant p) fun u =>
      let len := ((r.man.recs.find? fun y => y.dst = dst).map ManRec.len).getD 0
      u.out = x.out ∧ u.copies = x.copies ++
        [{ tag := x.nextTag, grp := grp, round := round, core := r.core, dst := dst, berth := field p.data 2 8,
           to_ := field p.data 2 8 + (field p.data 18 8 - lo + 24575) / 24576, lo := lo,
           hi := max lo (min (field p.data 18 8) len), pos := lo, addr := BitVec.ofNat 72 (field p.data 26 9), fin := false, writes := [] }])
  ∧ (∀ (s : State) (c : ExCopy) (r : MyRound), s.copies = [c] → c.fin = false → s.myRound c.grp c.round = some r →
    let src := ((r.man.recs.find? fun y => y.dst = c.dst).map ManRec.src).getD 0
    let due := min c.hi (c.lo + 96 * (s.tb + 1 - 256 * c.berth)) - c.pos
    let n := min (min 4096 due) (min (65536 - (src.toNat + c.pos) % 65536) (65536 - (c.addr.toNat + (c.pos - c.lo)) % 65536))
    let late : Prop := c.to_ ≤ s.tb / 256 ∧ c.pos < c.hi
    (late → s.Ends (.exchangeCopy c.tag) fun u => u = { s with copies := [{ c with hi := c.pos, fin := true }] })
    ∧ (¬ late → n = 0 → s.Ends (.exchangeCopy c.tag) fun u => u = s)
    ∧ (¬ late → n ≠ 0 →
      (∀ t bs, s.copyRead c (vadd src c.pos) n = .ok t bs → t.hops c.dst ≠ 3 → s.Ends (.exchangeCopy c.tag) fun u =>
        u.copies = [{ c with pos := c.pos + n, writes := c.writes ++ [(t.nextTag, c.pos)] }] ∧ u.mem = t.mem
          ∧ t.Sent u fun q => q.opc = 1 ∧ q.ackreq = true ∧ q.ord = true ∧ q.dpkg = c.dst ∧ q.data = bs
              ∧ q.pa = (vadd c.addr (c.pos - c.lo)).toNat % 2 ^ 56
              ∧ q.arg = BitVec.ofNat 64 (2 ^ 62 + c.round * 2 ^ 46 + c.grp * 2 ^ 34 + (vadd c.addr (c.pos - c.lo)).toNat / 2 ^ 56))
      ∧ (∀ t, s.copyRead c (vadd src c.pos) n = .wait t → s.Ends (.exchangeCopy c.tag) fun u => u = t)
      ∧ (∀ t f v, s.copyRead c (vadd src c.pos) n = .fault t f v → s.Ends (.exchangeCopy c.tag) fun u =>
          u = { s with copies := [{ c with hi := c.pos, fin := true }] })))
  ∧ (∀ (s : State) (c : ExCopy), s.copies = [c] → c.writes = [] → (c.fin = true ∨ c.hi ≤ c.pos) →
    let n := min c.pos c.hi - c.lo
    let ce : Cal := { kind := .ce, idx := c.core }
    s.Ends (.exchangeCopyEnd c.tag) fun u =>
      u.copies = [] ∧ u.mem = s.mem ∧ u.cores = s.cores
        ∧ (∀ r, s.myRound c.grp c.round = some r → ∃ y, u.myRound c.grp c.round = some y ∧ y.man = r.man
            ∧ y.sent_.get 0 c.dst = r.sent_.get 0 c.dst + n ∧ ∀ d, d ≠ c.dst → y.sent_.get 0 d = r.sent_.get 0 d)
        ∧ (∀ v, (s.cal ce).uses.find? (fun w => w.id.hm && w.first = c.berth) = some v → (u.cal ce).use v.id = none
            ∧ (v.id.pkg = s.pkg → ∃ f ∈ u.msgs, f.type_ = .done ∧ f.msg.hm = true ∧ f.msg.xid = v.id.xid ∧ f.msg.use = v.id.use)
            ∧ (v.id.pkg ≠ s.pkg → s.hops v.id.pkg ≠ 3 → ∃ q ∈ u.out, q.opc = 0x10 ∧ q.dpkg = v.id.pkg))
        ∧ (s.hops s.hmPrim ≠ 3 → ∃ q ∈ u.out, q.opc = 0x12 ∧ q.dpkg = s.hmPrim
            ∧ q.arg = BitVec.ofNat 64 (2 ^ 63 + c.grp * 2 ^ 16 + c.round) ∧ q.data = leBytes 2 c.dst ++ leBytes 8 n))
  ∧ (∀ (s x : State) (p : Packet),
    let grp := nbits p.arg.toNat 27 16
    let round := p.arg.toNat % 65536
    let result (word : W64) (u : State) : Prop :=
      u.myRound grp round = none ∧ u.results.head? = some (grp, round, word) ∧ u.results.length ≤ 16
        ∧ (∀ w ∈ u.xwaits, w.grp = grp → w.round ≠ round)
        ∧ ∀ w, x.xwaits.filter (fun w => w.grp = grp && w.round = round) = [w] → (u.ctx w.core w.fw).Holds w.d word
    (s.Got 0x13 p x → ∀ r, x.myRound grp round = some r →
      let rems := r.man.recs.map fun y => y.len - min y.len (r.sent_.get 0 y.dst)
      let sc := if r.man.pscope = 4 then Scope.pkg else .pod
      (∀ t, x.goodPages r.core r.man.pages = (t, none) → s.Ends (.roundEnd p) fun u => u = { t with out := t.out ++ [p] })
      ∧ (∀ t pages, x.goodPages r.core r.man.pages = (t, some pages) → t.entriesHeld r.core .forced pages = true →
          s.Ends (.roundEnd p) fun u => u = { t with out := t.out ++ [p] })
      ∧ ∀ t pages, x.goodPages r.core r.man.pages = (t, some pages) → t.entriesHeld r.core .forced pages = false →
        s.Ends (.roundEnd p) fun u =>
        result (BitVec.ofNat 64 (2 ^ 60 + round * 2 ^ 40 + rems.sum % 2 ^ 40)) u
          ∧ (r.man.recs = [] → u.mem = (t.swapPages r.core .forced sc pages).mem))
    ∧ (s.Got 0x13 p x → x.myRound grp round = none → s.Ends (.roundEnd p) fun u => u = x)
    ∧ (s.Got 0x14 p x → nbit p.arg.toNat 63 = true → ∀ r, x.myRound grp round = some r → s.Ends (.abandon p) fun u =>
        result (BitVec.ofNat 64 (nbits p.arg.toNat 35 32 * 2 ^ 60 + round * 2 ^ 40)) u ∧ u.mem = x.mem
          ∧ ∀ c ∈ u.copies, c.grp = grp → c.round ≠ round))

/-- R404, R406, R430 to R432, R466: a port sends the flits of its packets, control and enqueues before data, each with the next SEQ
and INV and its check field; replays lost flits before anything new; and switches its keys by a KEYMARK under the old slot,
which a forced switch sends ahead of replays too. Where the other slot holds no key by then, management is told. A port that is
disabled, down or without a key sends nothing; one that has had fewer lanes for 4,096 ticks first looks whether it needs them
all. Where the manual is silent, the model's choice: log entries 12, 19, 51, 66. -/
def Obligations.PortsSendFlits : Prop :=
  ∀ (s : State) (port : Nat),
    let w := if (s.port port).lanesAt + 4096 ≤ s.tb then s.sendDue.regain port else s.sendDue
    let x := (w.port port).activate
    let ks := x.active.getD false
    let inv := if x.active.isSome then x.inv else 0
    let next := if x.active.isSome then x.inv + 1 else x.inv
    let flit (h : W64) (body : List Byte) : Flit := { header := h, body := body, check := [] }
    let kept (u : State) : Prop := u.cores = s.cores ∧ u.mem = s.mem
    let told (u : State) : Prop :=
      u.notes = if x.enc = true ∧ x.active.isSome = true ∧ x.inv = 0xFFFF0000 then s.notes ++ [.keyShort port] else s.notes
    let now (a : Bool) : Prop := x.enc = true ∧ x.active = some a ∧ x.slotSt (!a) = .loaded
      ∧ (0xFFFF0000 ≤ x.inv ∨ (x.switch_ = true ∧ x.replaying = []))
    ((∀ q ∈ s.outDue, s.tb < q.2) → (s.port port).lanes = 8 → w = s)
    ∧ (x.stopped s.alarm = true → s.Ends (.flitSend port) fun u => u = w)
    ∧ (x.stopped s.alarm = false →
      (∀ a, now a → s.Ends (.flitSend port) fun u => kept u ∧ u.out = w.out ∧ u.notes = s.notes ∧
        let y := u.port port
        let mark := fillTo 232 (packetBytes (ctrlPacket 0x20 0 0 0 0 (if a then 0 else 1) []))
        y.line = x.line ++ [x.seal a (flitHeader true true a 1 0 x.seq x.inv) mark]
          ∧ y.seq = (x.seq + 1) % 2 ^ 22 ∧ y.inv = 0 ∧ y.switch_ = false ∧ y.slotSt a = .retired ∧ y.slotSt (!a) = .active
          ∧ y.sent_ = x.sent_ ++ [flit (flitHeader true true false 1 0 x.seq 0) mark] ∧ y.replaying = x.replaying)
      ∧ ((∀ a, ¬ now a) →
        (∀ f fs, x.replaying = f :: fs → s.Ends (.flitSend port) fun u => kept u ∧ told u ∧ u.out = w.out ∧ u.port port =
          { x with line := x.line ++ [x.seal ks (reHeader f ks inv) f.body], inv := next, replaying := fs, replay := min 65535 (x.replay + 1) })
        ∧ (x.replaying = [] →
          let load := (w.setPort port x).loadPort port
          let y := load.port port
          let waits (vc : Nat) : Prop := ∃ p ∈ w.out, w.leavesBy port p = true ∧ trafficClass p.opc = vc
          (∀ t, y.nextTx = some t →
            let last := decide (t.left.length ≤ 232)
            let body := fillTo 232 (t.left.take 232)
            let rest := y.tx.filter fun z => z.vc ≠ t.vc
            s.Ends (.flitSend port) fun u => kept u ∧ told u ∧ u.out = load.out ∧ u.port port =
              { y with line := x.line ++ [x.seal ks (flitHeader last t.first ks t.hop t.vc x.seq inv) body]
                       inv := next, seq := (x.seq + 1) % 2 ^ 22
                       sent_ := x.sent_ ++ [flit (flitHeader last t.first false t.hop t.vc x.seq 0) body]
                       tx := if last then rest else { t with first := false, left := t.left.drop 232 } :: rest })
          ∧ (y.nextTx = none → s.Ends (.flitSend port) fun u => kept u ∧ u.out = load.out ∧ u.port port = y)
          ∧ (∀ t, t.vc < 4 → x.tx = [t] → (∀ vc, vc < 4 → vc ≠ t.vc → ¬ waits vc) → y.nextTx = some t ∧ load.out = w.out)
          ∧ (∀ vc p, vc < 4 → x.tx = [] → (∀ v, v < 4 → v ≠ vc → ¬ waits v) → w.nextFor port vc = some p →
              y.nextTx = some { vc := vc, hop := p.hop + 1, first := true, left := packetBytes p } ∧ load.out = w.out.erase p)
          ∧ (∀ t l, t.vc < l.vc → l.vc < 4 → x.tx = [l, t] → (∀ v, v < t.vc → ¬ waits v) → y.nextTx = some t)
          ∧ (x.tx = [] → (∀ vc, vc < 4 → ¬ waits vc) → y.nextTx = none ∧ load.out = w.out))))

/-- R408, R430 to R432: a port takes flits in the order of SEQ; one that fails its check is counted and asked for again, and so is
every flit after a lost one; a KEYMARK switches the slot; and a packet that is whole acts as its operation says, a booking
message for another package going on along its route. R431 to R434, R466, R469: a request for replay sends again the flits from
its SEQ on, and its 16th try takes the port down with its routes; CLP.CTL and a SALT take effect as their rules say, an ACTIVE
slot of a direction ignoring a write, and EN waiting for verified firmware; CLP.CTL, KSTAT and STAT read as laid out, and the
keys as zero; and lanes are shed under light traffic and come back. Where the manual is silent, the model's choice: log entries
12, 19, 48, 51, 66, 71. -/
def Obligations.PortsReceiveAndReplay : Prop :=
  (∀ (s : State) (port : Nat) (f : Flit),
     let x := s.port port
     let is (y : Port) (u : State) : Prop := u = s.setPort port y
     ((x.en = false ∨ x.down = true) → s.Ends (.flitReceive port f) fun u => u = s)
     ∧ (x.en = true → x.down = false →
       (x.unseal f = none → s.Ends (.flitReceive port f)
         (is { x with asks := x.asks ++ [x.rxSeq], authf := min 65535 (x.authf + 1) }))
       ∧ ∀ body, x.unseal f = some body →
         (flitSeq f ≠ x.rxSeq →
           (x.rxSeq ∈ x.asks → s.Ends (.flitReceive port f) fun u => u = s)
           ∧ (x.rxSeq ∉ x.asks → s.Ends (.flitReceive port f) (is { x with asks := x.asks ++ [x.rxSeq] })))
         ∧ (flitSeq f = x.rxSeq →
           let vc := nbits f.header.toNat 59 54
           let bs := (if flitSop f then [] else x.rxBytes.get [] vc) ++ body
           let p : Packet := { packetOf bs with hop := nbits f.header.toNat 59 58 }
           let rx := if x.enc then x.rx.took else x.rx
           let slot := nbit p.arg.toNat 0
           let z : RxKeys := if x.enc then rx.switchTo slot else rx
           let y : Port := { x with rx := rx, rxSeq := (x.rxSeq + 1) % 2 ^ 22, rxBytes := x.rxBytes.put [] vc [], rsvb := if p.rsv then min 65535 (x.rsvb + 1) else x.rsvb }
           (flitEop f = false → s.Ends (.flitReceive port f) (is { x with rx := rx, rxSeq := (x.rxSeq + 1) % 2 ^ 22, rxBytes := x.rxBytes.put [] vc bs }))
           ∧ (x.enc = true → z.slotSt slot = .active ∧ (z.slotSt (!slot) = if rx.slotSt (!slot) = .active then .retired else rx.slotSt (!slot))
             ∧ rx.slotSt (rx.slot) = if x.rx.slotSt x.rx.slot = .loaded then .active else x.rx.slotSt x.rx.slot)
           ∧ (flitEop f = true → p.opc = 0x20 →
             s.Ends (.flitReceive port f) (is { y with rx := z })
             ∧ (flitSop f = true → s.Ends (.keymark port f) (is { y with rx := z })))
           ∧ (flitEop f = true → s.Ends (.flitReceive port f) fun u =>
             let mark := nbit p.arg.toNat 63
             (∀ i, (p.opc, i) ∈ [(0x01, Instr.wr p), (0x02, .rd p), (0x03, .rdrsp p), (0x04, .amo p), (0x05, .amorsp p), (0x06, .ack p),
                 (0x07, .nak p), (0x08, .renq p), (0x09, .renqAns p), (0x0A, .fenceMsg p), (0x0B, .fenceAns p),
                 (0x11, if mark then .manifestAnswer p else .manifest p), (0x12, if mark then .pairReport p else .grant p),
                 (0x13, .roundEnd p), (0x14, .abandon p), (0x15, .heartbeat p), (0x16, .takeover p), (0x17, .barMsg p),
                 (0x18, .timeMsg p)] → exec i (s.setPort port y) = .next u)
             ∧ (knownOpc p.opc = false → exec (.unknownOpc port p) (s.setPort port y) = .next u)
             ∧ (p.opc = 0x10 → s.ownPkg p.dpkg = false → s.ownPkg p.spkg = false → s.hops p.dpkg ≠ 3 →
                 u = { s.setPort port y with out := s.out ++ [p] })
             ∧ ∀ i, p.opc = 0x10 → s.ownPkg p.dpkg = true → s.ownPkg p.spkg = false → (field p.data 0 1, i) ∈ [(1, Instr.hold (bookMsgOf p.data)), (2, .held (bookMsgOf p.data)),
                 (3, .refused (bookMsgOf p.data)), (4, .refusedFatal (bookMsgOf p.data)), (5, .commit (bookMsgOf p.data)),
                 (6, .release (bookMsgOf p.data)), (7, .cancel (bookMsgOf p.data)), (8, .slip (bookMsgOf p.data)),
                 (9, .moved (bookMsgOf p.data)), (10, .doneMsg (bookMsgOf p.data))] →
                 exec i { s.setPort port y with out := s.out.erase p } = .next u))))
  ∧ (∀ (s : State) (port : Nat),
       let x := s.port port
       (∀ seq,
         ((x.down = true ∨ ∀ f ∈ x.sent_, flitSeq f ≠ seq) → s.Ends (.replayRequest port seq) fun u => u = s)
         ∧ (x.down = false → (∃ f ∈ x.sent_, flitSeq f = seq) →
           let tries := if x.tries ≠ 0 ∧ x.trySeq = seq then x.tries + 1 else 1
           let rest := x.sent_.dropWhile fun f => flitSeq f ≠ seq
           (tries < 16 → s.Ends (.replayRequest port seq) fun u =>
             u = s.setPort port { x with tries := tries, trySeq := seq, sent_ := rest, replaying := rest })
           ∧ (16 ≤ tries → FMap.wf Route.none s.routes = true → s.Ends (.replayRequest port seq) fun u =>
             (u.port port).down = true ∧ (u.port port).replaying = [] ∧ (u.port port).tx = []
               ∧ (∀ p, (s.routes.get Route.none p).port = port → (s.routes.get Route.none p).hops ≠ 0 → (u.routes.get Route.none p).hops = 3)
               ∧ (∀ p, (s.routes.get Route.none p).port ≠ port → u.routes.get Route.none p = s.routes.get Route.none p)
               ∧ u.notes = s.notes ++ [.portDown port] ∧ u.cores = s.cores ∧ u.mem = s.mem)))
       ∧ (∀ v : W64, s.Ends (.clpCtlWrite port v) fun u => u = s.setPort port
           { x with en := v.getLsbD 0 && s.verified, enc := if x.en then x.enc else v.getLsbD 1, switch_ := x.switch_ || v.getLsbD 2 })
       ∧ (∀ (slot : Bool) (v : W64),
         let rx : RxKeys := if x.rx.slotSt slot = .active then x.rx
           else if slot then { x.rx with salt1 := v, st1 := .loaded } else { x.rx with salt0 := v, st0 := .loaded }
         let y : Port := if x.slotSt slot = .active then x
           else if slot then { x with salt1 := v, st1 := .loaded } else { x with salt0 := v, st0 := .loaded }
         s.Ends (.clpSaltWrite port slot v) fun u => u = s.setPort port { y with rx := rx })
       ∧ (let reg (o : Nat) : W64 := s.portRead (0x100000 + 0x100 * port + o)
         let code (k : KeySt) : Nat := match k with | .empty => 0 | .loaded => 1 | .active => 2 | .retired => 3
         ((reg 0).getLsbD 0 = x.en ∧ (reg 0).getLsbD 1 = x.enc)
           ∧ (x.inv < 2 ^ 32 → (reg 8).toNat = code x.st1 * 2 ^ 34 + code x.st0 * 2 ^ 32 + x.inv)
           ∧ (x.replay < 65536 → x.authf < 65536 → x.badopc < 65536 → x.rsvb < 65536 →
               (reg 0x10).toNat = x.replay * 2 ^ 48 + x.authf * 2 ^ 32 + x.badopc * 2 ^ 16 + x.rsvb)
           ∧ ∀ o, 0x20 ≤ o → o < 0x100 → reg o = 0)
       ∧ (∀ lanes, (lanes = 4 ∨ lanes = 2) → lanes < x.lanes →
         (s.portBooked port = false → s.portBusy port = false → s.Ends (.portLaneShed port lanes) fun u =>
           u = s.setPort port { x with lanes := lanes, lanesAt := s.tb })
         ∧ ((s.portBooked port = true ∨ s.portBusy port = true) → s.Ends (.portLaneShed port lanes) fun u => u = s))
       ∧ (x.lanes < 8 →
         ((s.portBooked port = true ∨ s.portBusy port = true) → s.Ends (.portWidthRegain port) fun u =>
           u = s.setPort port { x with lanes := 8, lanesAt := s.tb })
         ∧ (s.portBooked port = false → s.portBusy port = false → s.Ends (.portWidthRegain port) fun u => u = s)))

/-! ### The platform and its registers -/

/-- R446, R462, R463: a change of clock step and the four trips: what they set and clear, the cadences they raise and give back, the
notices that every placed run receives, and what the third, which verified firmware answers, and the fourth do to the package.
Where the manual is silent, the model's choice: log entry 19. -/
def Obligations.ClocksAndTrips : Prop :=
  ∀ (s : State),
    let told (ks : List Nat) (kind : BitVec 8) (u : State) : Prop :=
      ∀ k ∈ ks, ∀ r, (s.core k).task = some r →
        (r.exited = true → (u.core k).user = (s.core k).user)
        ∧ (r.exited = false → ∃ n, (u.core k).user = { (s.core k).user with notice := some n } ∧ n.kind = kind ∧ n.at_ = s.tb
            ∧ n.cadence = (u.core k).cadence
            ∧ n.merged = match (s.core k).user.notice with | some m => min 255 (m.merged + 1) | none => 1)
    let all := List.range 512
    (∀ (die quad : Nat) (step : BitVec 2),
      let ks := (List.range 4).map fun i => 64 * die + 4 * quad + i
      let old := (s.core (64 * die + 4 * quad)).clockStep
      (step = old → s.Ends (.railClockChange die quad step) fun u => u = s)
      ∧ (step ≠ old → s.Ends (.railClockChange die quad step) fun u =>
          (∀ k ∈ ks, (u.core k).clockStep = step) ∧ (∀ k, k ∉ ks → u.core k = s.core k) ∧ u.mem = s.mem
            ∧ told ks (if old < step then 1 else 2) u))
    ∧ ∀ (die : Nat) (tj : Byte),
      let t := s.setDie die { s.die die with tj := tj.toNat }
      let tjs := (List.range 10).map fun d => (t.die d).tj
      let hot (n : Nat) : Prop := ∃ d ∈ tjs, n ≤ d
      let same (i : Instr) : Prop := s.Ends i fun u => u = t
      (s.trip1 = false → hot 95 → s.Ends (.trip1 die tj) fun u => u.trip1 = true ∧ told all 3 u ∧ u.mem = s.mem)
      ∧ ((s.trip1 = true ∨ ¬hot 95) → same (.trip1 die tj))
      ∧ (¬hot 90 → s.Ends (.trip1Clear die tj) fun u => u = { t with trip1 := false }) ∧ (hot 90 → same (.trip1Clear die tj))
      ∧ (s.trip2 = false → hot 105 → s.Ends (.trip2 die tj) fun u =>
          u.trip2 = true ∧ told all 4 u ∧ u.mem = s.mem
            ∧ ∀ k ∈ all, (u.core k).cadence = max (s.core k).cadence 4 ∧ (u.core k).cadHeld = some (s.core k).cadence)
      ∧ ((s.trip2 = true ∨ ¬hot 105) → same (.trip2 die tj))
      ∧ (s.trip2 = true → ¬hot 100 → s.Ends (.trip2Clear die tj) fun u =>
          u.trip2 = false ∧ told all 2 u ∧ u.mem = s.mem
            ∧ ∀ k ∈ all, (u.core k).cadence = (s.core k).cadHeld.getD (s.core k).cadence ∧ (u.core k).cadHeld = none)
      ∧ ((s.trip2 = false ∨ hot 100) → same (.trip2Clear die tj))
      ∧ (hot 115 → s.verified = true → ∀ p, s.pending = some p → p.trip3 = false → s.Ends (.trip3 die tj) fun u =>
          ∃ p, u.pending = some p ∧ p.trip3 = true ∧ p.addr = s.saveAddr)
      ∧ (hot 115 → s.verified = true → s.pending = none → s.Ends (.trip3 die tj) fun u =>
          (∀ q, q < 64 → (u.lq q).en = false) ∧ (∃ p, u.pending = some p ∧ p.trip3 = true)
            ∧ ((∀ k ∈ all, (s.core k).task = none) → u.halted = true))
      ∧ ((¬hot 115 ∨ s.verified = false) → same (.trip3 die tj))
      ∧ (hot 125 → s.Ends (.trip4 die tj) fun u => u.powerOff = true ∧ u.mem = State.reset.mem ∧ u.cores = State.reset.cores)
      ∧ (¬hot 125 → same (.trip4 die tj))

/-- R26, R448, R463, R467 to R469: an error of core storage is counted, a cache's line is read again, an uncorrectable granule stays
marked, and one in control state ends the run; the alarm erases the keys; boot measures its image and firmware runs only where
the signature holds; a quote signs the measurement; and reset clears all but far memory. Where the manual is silent, the model's
choice: log entries 11, 12, 19, 53, 54, 67. -/
def Obligations.ErrorsSecurityAndReset : Prop :=
  (∀ (s : State) (k : Nat) (unit : Byte) (addr : Nat) (unc : Bool),
    let c := s.core k
    let corrected (d : Core) : Prop := d.eccCorr = min 0xFFFFFFFF (c.eccCorr + 1) ∧ d.eccUnc = c.eccUnc ∧ d.eccUnit = unit.toNat
    let counted (d : Core) : Prop := d.eccUnc = min 65535 (c.eccUnc + 1) ∧ d.eccCorr = c.eccCorr ∧ d.eccUnit = unit.toNat
    let i := Instr.sramEccError k unit addr
    (unit = 5 → s.Ends (i unc) fun u => corrected (u.core k) ∧ (u.core k).bad = c.bad ∧ u.mem = s.mem ∧
        (u.core k).icache = c.icache.filter fun p => decide (p.1 / 64 ≠ addr / 64))
    ∧ (unit = 6 → s.Ends (i unc) fun u => corrected (u.core k) ∧ (u.core k).bad = c.bad ∧ u.mem = s.mem ∧
        (u.core k).dcache = c.dcache.filter fun p => decide (p.1 ≠ addr / 64))
    ∧ (unit ≠ 5 → unit ≠ 6 → s.Ends (i false) fun u => corrected (u.core k) ∧ (u.core k).bad = c.bad ∧ u.mem = s.mem ∧ u.notes = s.notes)
    ∧ (unit.toNat < 5 → s.Ends (i true) fun u => counted (u.core k) ∧ u.notes = s.notes ++ [.ecc k unit.toNat] ∧ u.mem = s.mem
        ∧ (u.core k).sram = c.sram ∧ (unit = 1 → (c.spadBase + addr % c.spadSize) / 16 ∈ (u.core k).bad))
    ∧ ((unit = 7 ∨ unit = 8) → ∀ r j, c.task = some r → c.job.bind s.jobOf = some j →
        s.Ends (i true) fun u => (u.core k).task = none ∧ (u.core k).job = none))
  ∧ (∀ s : State, s.Ends .securityAlarm fun u =>
      u.alarm = true ∧ u.wrapKey = false ∧ u.notes = s.notes ++ [.alarm] ∧ u.cores = s.cores ∧ u.mem = s.mem
        ∧ ∀ p, (u.port p).st0 = .empty ∧ (u.port p).st1 = .empty ∧ (u.port p).key0 = [] ∧ (u.port p).key1 = []
            ∧ (u.port p).salt0 = 0 ∧ (u.port p).salt1 = 0 ∧ (u.port p).rx = RxKeys.reset)
  ∧ (∀ (s : State) (image sig : List Byte),
    let d := Config.sm3 image
    ((s.verified = true ∨ s.bootFailed = true) → s.Ends (.rootOfTrustBoot image sig) fun u => u = s)
    ∧ (s.verified = false → s.bootFailed = false →
      (Config.sm2Verify d sig = true → s.Ends (.rootOfTrustBoot image sig) fun u =>
          u = { s with verified := true, measure := Config.sm3 (s.measure ++ d) })
      ∧ (Config.sm2Verify d sig = false → s.Ends (.rootOfTrustBoot image sig) fun u =>
          u = { s with bootFailed := true, notes := s.notes ++ [.bootRefused] })))
  ∧ (∀ (s : State) (nonce : List Byte),
    (s.alarm = false → s.wrapKey = true → s.Ends (.attestationQuote nonce) fun u =>
      u = { s with notes := s.notes ++ [.quote (Config.sm2Sign (nonce ++ s.measure))] })
    ∧ ((s.alarm = true ∨ s.wrapKey = false) → s.Ends (.attestationQuote nonce) fun u => u = s))
  ∧ ∀ s : State, s.Ends .packageReset fun u =>
      (∀ j, u.byteAt j = if 8 * 2 ^ 41 ≤ j then s.byteAt j else 0) ∧ u.cores = State.reset.cores ∧ u.dies = State.reset.dies
        ∧ u.lqs = State.reset.lqs ∧ u.flights = [] ∧ u.saveArea = s.saveArea ∧ u.notes = s.notes ∧ u.verified = false

/-- R137, R138, R141, R143, R144, R197, R198, R204, R245, R276, R330, R388, R402, R433: what a write of a control register that has
a step of its own, or of a register space, does. Where the manual is silent, the model's choice: log entries 19, 39, 48, 52, 57,
58, 70. -/
def Obligations.RegisterWrites : Prop :=
  ∀ (s : State) (k : Nat) (fw : Bool) (v : W64),
    let c := s.core k
    let n := v.toNat
    let is (d : Core) (u : State) : Prop := u = s.setCore k d
    s.Ends (.fcsrWrite k fw v) (fun u =>
      let x := s.ctx k fw
      let y := u.ctx k fw
      y.nv = v.getLsbD 8 ∧ y.dz = v.getLsbD 7 ∧ y.of = v.getLsbD 6 ∧ y.uf = v.getLsbD 5 ∧ y.nx = v.getLsbD 4
        ∧ (n % 8 < 4 → rmCode y.rm = n % 8) ∧ (4 ≤ n % 8 → y.rm = x.rm) ∧ x.KeepsS y [] ∧ x.KeepsA y [] ∧ x.KeepsP y []
        ∧ u.ctx k (!fw) = s.ctx k (!fw) ∧ u.mem = s.mem)
    ∧ s.Ends (.issWrite k fw v) (fun u =>
      let cap := max 1 (n % 65536)
      u = s.setCtx k fw { s.ctx k fw with
        bucket := { per := n / 2 ^ 24 % 256, rate := n / 2 ^ 16 % 256, cap := cap, bal := cap, debt := 0, last := s.tb } })
    ∧ (s.storesDone k fw = true → s.Ends (.icInvWrite k fw) (is { c with icache := [] }))
    ∧ (s.storesDone k fw = false → s.Ends (.icInvWrite k fw) fun u => u = s)
    ∧ s.Ends (.dcInvWrite k fw) (is { c with dcache := [] })
    ∧ (v.getLsbD 0 = true → s.Ends (.uctlWrite k v) (is { c with run := true, user := { c.user with halted := false } }))
    ∧ (v.getLsbD 0 = false → s.Ends (.uctlWrite k v) fun u =>
        (u.core k).run = false ∧ (u.core k).firm = c.firm ∧ c.user.KeepsS (u.core k).user [] ∧ (u.core k).user.pc = c.user.pc
          ∧ (u.core k).user.slot = c.user.slot ∧ (c.user.sentCard = true → (u.core k).user.op = c.user.op)
          ∧ (c.user.sentCard = false → (u.core k).user.op = none ∧ (∀ d, (u.core k).demand = some d → d.fw = true)) ∧ u.mem = s.mem)
    ∧ s.Ends (.ctxuDatAccess k none) (fun u => u = s)
    ∧ (c.run = true → s.Ends (.ctxuDatAccess k (some v)) fun u => u = s)
    ∧ (c.run = false → s.Ends (.ctxuDatAccess k (some v)) fun u =>
        let i := c.ctxuIdx.toNat
        let x := c.user
        let y := (u.core k).user
        let r := BitVec.ofNat 6 i
        let a := BitVec.ofNat 4 i
        let p := BitVec.ofNat 3 i
        (i < 0x40 → y.Holds r v ∧ x.KeepsS y [r] ∧ x.KeepsA y [] ∧ x.KeepsP y [] ∧ y.pc = x.pc)
          ∧ (0x40 ≤ i → i < 0x50 → y.getA a = (x.getA a).extractLsb' 64 8 ++ v ∧ x.KeepsS y [] ∧ x.KeepsA y [a] ∧ x.KeepsP y [] ∧ y.pc = x.pc)
          ∧ (0x840 ≤ i → i < 0x850 → y.getA a = v.extractLsb' 0 8 ++ (x.getA a).extractLsb' 0 64 ∧ x.KeepsS y [] ∧ x.KeepsA y [a] ∧ y.pc = x.pc)
          ∧ (0x50 ≤ i → i < 0x58 → y.getP p = (if p = 0 then true else v.getLsbD 0) ∧ x.KeepsS y [] ∧ x.KeepsA y [] ∧ x.KeepsP y [p])
          ∧ (i = 0x58 → y.pc = x.pc.extractLsb' 64 8 ++ v.extractLsb' 2 62 ++ (0 : BitVec 2) ∧ x.KeepsS y [] ∧ x.KeepsA y [] ∧ x.KeepsP y [])
          ∧ (i = 0x402 → y = { x with tvec := v.extractLsb' 2 62 ++ (0 : BitVec 2) }))
    ∧ (∀ e,
      let x := c.eng e
      ((x.q ≠ [] ∨ x.partialWords ≠ []) → ∀ ext, s.Ends (.qBaseWrite k e ext v) fun u => (u.core k).eng e = x)
      ∧ (x.q = [] → x.partialWords = [] → ∀ ext, s.Ends (.qBaseWrite k e ext v) fun u =>
          let b : VAddr := if ext then v.extractLsb' 0 8 ++ x.base.extractLsb' 0 64 else x.base.extractLsb' 64 8 ++ v
          (u.core k).eng e = { x with base := b, tail := b, partialAddr := b, linkStop := false } ∧ (∀ o, o ≠ e → (u.core k).eng o = c.eng o))
      ∧ s.Ends (.qStatFltClear k e v) (fun u =>
          (u.core k).eng e = (if v.getLsbD 29 then { x with flt := false, rep := [] } else x) ∧ ∀ o, o ≠ e → (u.core k).eng o = c.eng o))
    ∧ (∀ t : BitVec 5, s.Ends (.tkAccess k t .read) (fun u => u = s)
      ∧ s.Ends (.tkAccess k t (.write v)) (is { c.setTk t.toNat (n % 65536) false with tkWas := c.tkWas.put none t.toNat (some (c.seenTk t.toNat)) })
      ∧ s.Ends (.tkAccess k t (.exchange v)) (is { c.setTk t.toNat (n % 65536) false with tkWas := c.tkWas.put none t.toNat (some (c.seenTk t.toNat)) })
      ∧ (c.setTk t.toNat (n % 65536) false).tk = c.tk.put 0 t.toNat (n % 65536))
    ∧ (let base := n % 4096
       let size := n / 2 ^ 16 % 4096
       ((c.spadSize < (base + size) * 1024 ∨ (c.live.any fun p => p.2.memo.any (·.pin)) = true) →
          s.Ends (.caskScrWrite k v) fun u => u.core k = c)
       ∧ ((base + size) * 1024 ≤ c.spadSize → (c.live.any fun p => p.2.memo.any (·.pin)) = false → s.Ends (.caskScrWrite k v) fun u =>
          (u.core k).scrBase = base ∧ (u.core k).scrSize = size ∧ (u.core k).sram = c.sram
            ∧ ∀ e x, (u.core k).cask e = some x → x.memo = [] ∧ ∃ y, c.cask e = some y ∧ x.desc = y.desc))
    ∧ s.Ends (.meCadenceWrite k v) (fun u =>
        let m := max 1 (n % 16)
        u = s.setCore k (if s.trip2 then { c with cadHeld := some m } else { c with cadence := m }))
    ∧ (n % 4 = 3 → s.Ends (.xlatInvWrite k v) fun u => u = s)
    ∧ (n % 4 ≠ 3 →
      let keeps (t : TlbEnt) : Bool :=
        !decide (n % 4 = 2 ∨ (t.asn = n / 2 ^ 48 ∧ (n % 4 = 1 ∨ (n % 4 = 0 ∧ c.iva.toNat % 2 ^ 56 * 65536 / 2 ^ t.shift = t.vpn))))
      s.Ends (.xlatInvWrite k v) fun u => u.mem = s.mem ∧ (∀ j, (u.core j).tlb = (s.core j).tlb.filter keeps)
        ∧ ∀ d, (u.die d).tlb = (s.die d).tlb.filter keeps)
    ∧ s.Ends (.barPodnWrite v) (fun u => u = { s with podRoot := n / 2 ^ 32 % 2048, podGrp := n / 2 ^ 16 % 4096, podN := max 1 (n % 2048) })
    ∧ (∀ m, m < 4096 →
      (fw = false → firmwareWritten m = true → c.user.CanTrap false → s.Ends (.registerWrite k false m v) fun u =>
          c.user.Trapped (u.ctx k false) 0x03 (s.word.setWidth 64) 3 (BitVec.ofNat 64 m) 0)
      ∧ ((fw = true ∨ firmwareWritten m = false) →
          (m = 0x002 → s.Ends (.registerWrite k fw m v) fun u =>
              u = s.setCtx k fw { s.ctx k fw with tvec := v.extractLsb' 2 62 ++ (0 : BitVec 2) })
          ∧ (m = 0x0D0 → s.Ends (.registerWrite k fw m v) fun u =>
              u = s.setDie (dieOf k) { s.die (dieOf k) with holdTmo := max 512 (n % 2 ^ 24) })
          ∧ (m = 0x003 → s.Ends (.registerWrite k fw m v) fun u => u = s)))
    ∧ (∀ m, 4096 ≤ m →
      s.Ends (.registerWrite k false m v) (fun u => u = s)
      ∧ (∀ q, q < 64 → m = 0x40000 + 0x40 * q + 0x28 → s.Ends (.registerWrite k true m v) fun u => u = s.setLq q { s.lq q with tailHi := v })
      ∧ (∀ p, p < 35 → ∀ o, o < 4 → m = 0x100000 + 0x100 * p + 0x20 + 8 * o → s.Ends (.registerWrite k true m v) fun u =>
          let x := s.port p
          let put (m : FMap Byte) : FMap Byte := writeBytes m (8 * o) (leBytes 8 n)
          u = s.setPort p { x with
            key0 := if x.st0 = .active then x.key0 else put x.key0
            rx := { x.rx with key0 := if x.rx.st0 = .active then x.rx.key0 else put x.rx.key0 } })
      ∧ (∀ p, p < 1058 → m = 0x200000 + 8 * p → (∀ x ∈ s.ports, x.2.en = false) → s.Ends (.registerWrite k true m v) fun u =>
          (u.routes.get Route.none p) = { via := n / 2 ^ 34 % 64, port := n / 2 ^ 28 % 64, hops := n / 2 ^ 26 % 4 }
            ∧ ∀ o, o ≠ p → u.routes.get Route.none o = s.routes.get Route.none o))

/-! ### Decoding and the step -/

/-- R90 to R116: words written out from the encodings of the manual stand for the instructions they name. -/
def Obligations.WordsOfTheManualDecode : Prop :=
  -- add s3, s1, s2; addi s5, s4, -1; nop; csr.r s1, TB; ld.64.acq.die s4, 16(a2); b.t p1 with its hint, -2 words
  decodeWord 0b000001_000011_000001_000010_0_0_000000 = .ok (.add 3 1 2 false false)
  ∧ decodeWord 0b010000_000101_000100_0_1111111111111 = .ok (.addi 5 4 false (-1))
  ∧ decodeWord 0b111011_0000000000_0000000000000000 = .ok .nop
  ∧ decodeWord 0b011001_000001_000000_00_000000000011 = .ok (.csrR 1 0x003)
  ∧ decodeWord 0b100110_000100_0010_0_011_01_0000000010 = .ok (.ld64 4 2 .die .acqRel 2)
  ∧ decodeWord 0b101110_001_0_1_111111111111111111110 = .ok (.bT 1 true (-2))

/-- R90 to R109: decoding reads back every word that the encoder writes for a well-formed instruction, with every operand at every
value. R97: every word the decoder accepts stands for a well-formed instruction, whose own encoding decodes to it too: a
reserved field never changes what a word means. -/
def Obligations.DecodingInvertsTheEncoder : Prop :=
  (∀ (i : Instr) (w : W32), wellFormed i = true → encode i = some w → decodeWord w = .ok i)
  ∧ (∀ (w : W32) (i : Instr), decodeWord w = .ok i → wellFormed i = true ∧ ∃ v, encode i = some v ∧ decodeWord v = .ok i)

/-- R113, R115, R116: a built command decodes, on its own engine or on template 63, to the row whose operation code it carries. -/
def Obligations.CommandsDecode : Prop :=
  (∀ (i : Instr) (e : Option Eng) (c : Tmpl), wellFormed i = true → encodeCmd i = some (e, c) →
    ∃ w, decodeCmd (e.getD .ce) e.isNone w c = .ok i)
  ∧ ∀ (e : Eng) (w : CmdAt) (c : Tmpl) (i : Instr), decodeCmd e false w c = .ok i → encodeCmd i = some (some e, c)

/-- R97, R139 to R142, R173, R235: one issue. The context that the agenda or the schedule names takes its turn at the issue slot of
its core, where firmware that is ready goes before the user context, and fetches the word at its PC; where the word decodes, and
the bucket holds its cost, the step is the instruction's effect on the state in which it is charged; a word that does not
decode, and a fetch that fails, trap instead; and an event is its instruction's effect. The fetched word is the four bytes of
memory at the address, the lowest first, unless the instruction cache holds the word. Where the manual is silent, the model's
choice: log entries 3, 8, 14, 70. -/
def Obligations.AStepRunsTheDecodedInstruction : Prop :=
  (∀ (s b : State) (k : Nat) (fw : Bool) (ts : List Turn),
    ((s.agenda = .issue k fw :: ts ∧ b = { s with agenda := ts, focusCore := k, focusFw := fw })
      ∨ (s.agenda = [] ∧ s.nextContext = some (k, fw) ∧ b = { s with focusCore := k, focusFw := fw })) →
    (fw = true ∨ b.takesNotice k = false) → b.live k fw = true →
    let t := b.slotTick k fw
    (fw = false → t.firmFirst k = true → step s = .next t)
    ∧ ((fw = true ∨ t.firmFirst k = false) →
      (∀ x, t.fetch k fw t.cur.pc = .wait x → step s = .next x)
      ∧ (∀ x (w : W32) (n : Nat) (run : State → Host.Outcome State Fault Refusal),
        ((∃ i, t.fetch k fw t.cur.pc = .word x w ∧ decodeWord w = .ok i ∧ n = (if x.cur.resumed then 0 else cost i) ∧ run = exec i)
          ∨ (∃ m, t.fetch k fw t.cur.pc = .word x w ∧ decodeWord w = .error m ∧ n = 1 ∧ run = exec (.illegal w m))
          ∨ ∃ f, t.fetch k fw t.cur.pc = .fault x f ∧ w = 0 ∧ n = 1
              ∧ run = fun y => .next (y.takeTrap y.focusCore y.focusFw f)) →
        (x.cur.mayIssue n = false → step s = .next x)
        ∧ (x.cur.mayIssue n = true → ∀ u, run { x.setCur { x.cur.charge n with blocked := false } with word := w } = .next u →
            step s = .next (u.unpay x.cur)))))
  ∧ (∀ (s : State) (i : Instr) (ts : List Turn), s.agenda = .event i :: ts → step s = exec i { s with agenda := ts })
  ∧ ∀ (s x : State) (k : Nat) (fw : Bool) (va : VAddr) (key : Nat) (win : Option Nat),
      s.translate k fw .fetch va = (x, .ok (.home key) win) →
      (∀ y, (x.core k).icache.find? (fun e => e.1 = key) = some (key, y) → s.fetch k fw va = .word x y)
      ∧ ((x.core k).icache.find? (fun e => e.1 = key) = none → homeDie key = dieOf k →
          ∃ u, s.fetch k fw va = .word u (BitVec.ofNat 32 (leNat (readBytes x.mem key 4))) ∧ u.mem = x.mem)

/-! ### Invariants -/

/-- Reset leaves memory and the package as the manual says (R26, R47, R133, R137, R141, R232, R387, R469): time is zero, the user
contexts do not run, buckets are full at their reset rates, window allowances have their reset limits, and no queue or port is
enabled; and as the model chooses where the manual gives no value: nothing is stored (log entry 2), the agenda is empty (log
entry 3), and every register is FULL and no other package reachable (log entry 1). Where the manual is silent, the model's
choice: log entries 1, 2, 3. -/
def Obligations.ResetLeavesTheManualsValues : Prop :=
  let s := State.reset
  s.MemInv ∧ (∀ j, s.byteAt j = 0) ∧ s.tb = 0 ∧ s.agenda = []
    ∧ (∀ k, (s.core k).run = false ∧ (s.core k).task = none ∧ (s.core k).job = none
        ∧ (s.core k).user.fcsr = 0 ∧ (s.core k).firm.fcsr = 0
        ∧ (s.core k).user.bucket.word = BitVec.ofNat 64 (15 * 2 ^ 24 + 15 * 2 ^ 16 + 64)
        ∧ (s.core k).firm.bucket.word = BitVec.ofNat 64 (15 * 2 ^ 24 + 1 * 2 ^ 16 + 16)
        ∧ ∀ fw, ((s.core k).ctx fw).wallowQ.limit = 32 ∧ ((s.core k).ctx fw).wallowD.limit = 32 ∧ ((s.core k).ctx fw).wallowX.limit = 128
          ∧ ∀ r, ((s.core k).ctx fw).getFE r = .full ∧ ((s.core k).ctx fw).getMark r = none)
    ∧ (∀ p, (s.routes.get Route.none p).hops = 3)
    ∧ (∀ q, (s.lq q).en = false) ∧ (∀ p, (s.port p).en = false) ∧ ∀ d, (s.die d).ramp = 0x11223468 ∧ (s.die d).slGroups = 4

/-- Memory keeps its canonical form through every step, whatever the agenda names (log entry 2): no byte is listed twice or out of
order, and none that equals what an unlisted byte reads as. Where the manual is silent, the model's choice: log entry 2. -/
def Obligations.StepsKeepMemoryCanonical : Prop :=
  ∀ s t : State, s.MemInv → step s = .next t → t.MemInv
end

