-- ==== Sys2Proof/Laws/FMap.lean ====
section
/-!
SUPPORT. Laws of sparse storage: what `put` and `erase` leave at each key, and that they keep the canonical form.
-/

namespace Sys2Proof.FMap

variable {α : Type}

@[simp] theorem get_nil (d : α) (k : Nat) : get d [] k = d := rfl

theorem get_erase (d : α) (m : FMap α) (j k : Nat) : get d (erase m j) k = if j = k then d else get d m k := by
  induction m with
  | nil => simp [erase]
  | cons p m ih =>
    obtain ⟨i, v⟩ := p
    by_cases hij : i = j
    · subst hij
      simp only [erase, ↓reduceIte, ih, get]
      split <;> rfl
    · simp only [erase, hij, ↓reduceIte, get, ih]
      split
      · next h => subst h; rw [if_neg (Ne.symm hij)]
      · rfl

theorem get_ins (d : α) (m : FMap α) (j k : Nat) (v : α) : get d (ins m j v) k = if j = k then v else get d m k := by
  induction m with
  | nil => simp [ins, get]
  | cons p m ih =>
    obtain ⟨i, w⟩ := p
    simp only [ins]
    split
    · next h =>
      simp only [get, ih]
      split
      · next e => subst e; rw [if_neg (by omega)]
      · rfl
    · split
      · next e => subst e; simp only [get]; split <;> rfl
      · simp only [get]

/-- A read after a write: the value written at its own key, what stood there at every other. -/
theorem get_put [DecidableEq α] (d : α) (m : FMap α) (j k : Nat) (v : α) :
    get d (put d m j v) k = if j = k then v else get d m k := by
  unfold put
  split
  · next h => subst h; exact get_erase ..
  · exact get_ins ..

@[simp] theorem get_put_self [DecidableEq α] (d : α) (m : FMap α) (k : Nat) (v : α) : get d (put d m k v) k = v := by
  rw [get_put, if_pos rfl]

theorem get_put_of_ne [DecidableEq α] (d : α) (m : FMap α) {j k : Nat} (v : α) (h : j ≠ k) :
    get d (put d m j v) k = get d m k := by
  rw [get_put, if_neg h]

/-! ### The canonical form -/

/-- Every key of a map is above a bound. -/
def above (b : Nat) (m : FMap α) : Prop := ∀ p ∈ m, b < p.1

/-- The canonical form without the check of the order of neighbours. -/
theorem wf_cons [DecidableEq α] (d : α) (i : Nat) (v : α) (m : FMap α) :
    wf d ((i, v) :: m) = true ↔ v ≠ d ∧ above i m ∧ wf d m = true := by
  induction m generalizing i v with
  | nil => simp [wf, above]
  | cons p m ih =>
    obtain ⟨j, w⟩ := p
    simp only [wf, Bool.and_eq_true, decide_eq_true_eq]
    constructor
    · rintro ⟨⟨hv, hij⟩, hm⟩
      refine ⟨hv, ?_, hm⟩
      obtain ⟨-, ha, -⟩ := (ih j w).1 hm
      intro p hp
      rcases List.mem_cons.1 hp with rfl | hp
      · exact hij
      · exact Nat.lt_trans hij (ha p hp)
    · rintro ⟨hv, ha, hm⟩
      exact ⟨⟨hv, ha (j, w) (List.mem_cons_self ..)⟩, hm⟩

theorem above_erase (b j : Nat) (m : FMap α) (h : above b m) : above b (erase m j) := by
  induction m with
  | nil => exact h
  | cons p m ih =>
    have hm : above b m := fun q hq => h q (List.mem_cons_of_mem _ hq)
    simp only [erase]
    split
    · exact ih hm
    · intro q hq
      rcases List.mem_cons.1 hq with rfl | hq
      · exact h _ (List.mem_cons_self ..)
      · exact ih hm q hq

theorem above_ins (b j : Nat) (v : α) (m : FMap α) (h : above b m) (hj : b < j) : above b (ins m j v) := by
  induction m with
  | nil => intro q hq; simp only [ins, List.mem_singleton] at hq; subst hq; exact hj
  | cons p m ih =>
    obtain ⟨i, w⟩ := p
    have hm : above b m := fun q hq => h q (List.mem_cons_of_mem _ hq)
    have hi : b < i := h (i, w) (List.mem_cons_self ..)
    simp only [ins]
    split
    · intro q hq
      rcases List.mem_cons.1 hq with rfl | hq
      · exact hi
      · exact ih hm q hq
    · split
      · intro q hq
        rcases List.mem_cons.1 hq with rfl | hq
        · exact hj
        · exact hm q hq
      · intro q hq
        rcases List.mem_cons.1 hq with rfl | hq
        · exact hj
        · exact h q hq

theorem wf_erase [DecidableEq α] (d : α) (m : FMap α) (k : Nat) (h : wf d m = true) : wf d (erase m k) = true := by
  induction m with
  | nil => rfl
  | cons p m ih =>
    obtain ⟨i, v⟩ := p
    obtain ⟨hv, ha, hm⟩ := (wf_cons ..).1 h
    simp only [erase]
    split
    · exact ih hm
    · exact (wf_cons ..).2 ⟨hv, above_erase _ _ _ ha, ih hm⟩

theorem wf_ins [DecidableEq α] (d : α) (m : FMap α) (k : Nat) (v : α) (hv : v ≠ d) (h : wf d m = true) :
    wf d (ins m k v) = true := by
  induction m with
  | nil => simpa [ins, wf] using hv
  | cons p m ih =>
    obtain ⟨i, w⟩ := p
    obtain ⟨hw, ha, hm⟩ := (wf_cons ..).1 h
    simp only [ins]
    split
    · next hik => exact (wf_cons ..).2 ⟨hw, above_ins _ _ _ _ ha hik, ih hm⟩
    · split
      · next hik hik' => subst hik'; exact (wf_cons ..).2 ⟨hv, ha, hm⟩
      · next hik hik' =>
        refine (wf_cons ..).2 ⟨hv, ?_, h⟩
        intro q hq
        rcases List.mem_cons.1 hq with rfl | hq
        · show k < i; omega
        · have := ha q hq; omega

/-- A write keeps the canonical form. -/
theorem wf_put [DecidableEq α] (d : α) (m : FMap α) (k : Nat) (v : α) (h : wf d m = true) : wf d (put d m k v) = true := by
  unfold put
  split
  · exact wf_erase _ _ _ h
  · next hv => exact wf_ins _ _ _ _ hv h

theorem above_filter (b : Nat) (m : FMap α) (f : Nat × α → Bool) (h : above b m) : above b (m.filter f) :=
  fun p hp => h p (List.mem_of_mem_filter hp)

/-- Taking entries out keeps the canonical form. -/
theorem wf_filter [DecidableEq α] (d : α) (m : FMap α) (f : Nat × α → Bool) (h : wf d m = true) : wf d (m.filter f) = true := by
  induction m with
  | nil => rfl
  | cons p m ih =>
    obtain ⟨i, v⟩ := p
    obtain ⟨hv, ha, hm⟩ := (wf_cons ..).1 h
    simp only [List.filter]
    split
    · exact (wf_cons ..).2 ⟨hv, above_filter _ _ _ ha, ih hm⟩
    · exact ih hm

end Sys2Proof.FMap
end

