-- ==== Sys2Proof/Laws/State.lean ====
section
/-!
SUPPORT. What each update of the state leaves in each field, so that no proof unfolds an update.
-/

namespace Sys2Proof.Machine

/-! ### State.setCore -/

@[simp] theorem State.setCore_tb (s : State) (k : Nat) (c : Core) : (s.setCore k c).tb = s.tb := rfl
@[simp] theorem State.setCore_pkg (s : State) (k : Nat) (c : Core) : (s.setCore k c).pkg = s.pkg := rfl
@[simp] theorem State.setCore_mem (s : State) (k : Nat) (c : Core) : (s.setCore k c).mem = s.mem := rfl
@[simp] theorem State.setCore_memBad (s : State) (k : Nat) (c : Core) : (s.setCore k c).memBad = s.memBad := rfl
@[simp] theorem State.setCore_dies (s : State) (k : Nat) (c : Core) : (s.setCore k c).dies = s.dies := rfl
@[simp] theorem State.setCore_flights (s : State) (k : Nat) (c : Core) : (s.setCore k c).flights = s.flights := rfl
@[simp] theorem State.setCore_swaps (s : State) (k : Nat) (c : Core) : (s.setCore k c).swaps = s.swaps := rfl
@[simp] theorem State.setCore_acqs (s : State) (k : Nat) (c : Core) : (s.setCore k c).acqs = s.acqs := rfl
@[simp] theorem State.setCore_msgs (s : State) (k : Nat) (c : Core) : (s.setCore k c).msgs = s.msgs := rfl
@[simp] theorem State.setCore_bookTags (s : State) (k : Nat) (c : Core) : (s.setCore k c).bookTags = s.bookTags := rfl
@[simp] theorem State.setCore_out (s : State) (k : Nat) (c : Core) : (s.setCore k c).out = s.out := rfl
@[simp] theorem State.setCore_selfDue (s : State) (k : Nat) (c : Core) : (s.setCore k c).selfDue = s.selfDue := rfl
@[simp] theorem State.setCore_outDue (s : State) (k : Nat) (c : Core) : (s.setCore k c).outDue = s.outDue := rfl
@[simp] theorem State.setCore_bars (s : State) (k : Nat) (c : Core) : (s.setCore k c).bars = s.bars := rfl
@[simp] theorem State.setCore_waves (s : State) (k : Nat) (c : Core) : (s.setCore k c).waves = s.waves := rfl
@[simp] theorem State.setCore_sluices (s : State) (k : Nat) (c : Core) : (s.setCore k c).sluices = s.sluices := rfl
@[simp] theorem State.setCore_podCtrs (s : State) (k : Nat) (c : Core) : (s.setCore k c).podCtrs = s.podCtrs := rfl
@[simp] theorem State.setCore_podRoot (s : State) (k : Nat) (c : Core) : (s.setCore k c).podRoot = s.podRoot := rfl
@[simp] theorem State.setCore_podGrp (s : State) (k : Nat) (c : Core) : (s.setCore k c).podGrp = s.podGrp := rfl
@[simp] theorem State.setCore_podN (s : State) (k : Nat) (c : Core) : (s.setCore k c).podN = s.podN := rfl
@[simp] theorem State.setCore_lqs (s : State) (k : Nat) (c : Core) : (s.setCore k c).lqs = s.lqs := rfl
@[simp] theorem State.setCore_lastServed (s : State) (k : Nat) (c : Core) : (s.setCore k c).lastServed = s.lastServed := rfl
@[simp] theorem State.setCore_jobs (s : State) (k : Nat) (c : Core) : (s.setCore k c).jobs = s.jobs := rfl
@[simp] theorem State.setCore_jobCtr (s : State) (k : Nat) (c : Core) : (s.setCore k c).jobCtr = s.jobCtr := rfl
@[simp] theorem State.setCore_roots (s : State) (k : Nat) (c : Core) : (s.setCore k c).roots = s.roots := rfl
@[simp] theorem State.setCore_saved (s : State) (k : Nat) (c : Core) : (s.setCore k c).saved = s.saved := rfl
@[simp] theorem State.setCore_reserved (s : State) (k : Nat) (c : Core) : (s.setCore k c).reserved = s.reserved := rfl
@[simp] theorem State.setCore_poolBase (s : State) (k : Nat) (c : Core) : (s.setCore k c).poolBase = s.poolBase := rfl
@[simp] theorem State.setCore_poolRoom (s : State) (k : Nat) (c : Core) : (s.setCore k c).poolRoom = s.poolRoom := rfl
@[simp] theorem State.setCore_saveAddr (s : State) (k : Nat) (c : Core) : (s.setCore k c).saveAddr = s.saveAddr := rfl
@[simp] theorem State.setCore_saveArea (s : State) (k : Nat) (c : Core) : (s.setCore k c).saveArea = s.saveArea := rfl
@[simp] theorem State.setCore_pending (s : State) (k : Nat) (c : Core) : (s.setCore k c).pending = s.pending := rfl
@[simp] theorem State.setCore_ports (s : State) (k : Nat) (c : Core) : (s.setCore k c).ports = s.ports := rfl
@[simp] theorem State.setCore_routes (s : State) (k : Nat) (c : Core) : (s.setCore k c).routes = s.routes := rfl
@[simp] theorem State.setCore_rtmo (s : State) (k : Nat) (c : Core) : (s.setCore k c).rtmo = s.rtmo := rfl
@[simp] theorem State.setCore_ftmo (s : State) (k : Nat) (c : Core) : (s.setCore k c).ftmo = s.ftmo := rfl
@[simp] theorem State.setCore_acktmo (s : State) (k : Nat) (c : Core) : (s.setCore k c).acktmo = s.acktmo := rfl
@[simp] theorem State.setCore_hmStby (s : State) (k : Nat) (c : Core) : (s.setCore k c).hmStby = s.hmStby := rfl
@[simp] theorem State.setCore_hmPrim (s : State) (k : Nat) (c : Core) : (s.setCore k c).hmPrim = s.hmPrim := rfl
@[simp] theorem State.setCore_hmGrp (s : State) (k : Nat) (c : Core) : (s.setCore k c).hmGrp = s.hmGrp := rfl
@[simp] theorem State.setCore_noStby (s : State) (k : Nat) (c : Core) : (s.setCore k c).noStby = s.noStby := rfl
@[simp] theorem State.setCore_rcvd (s : State) (k : Nat) (c : Core) : (s.setCore k c).rcvd = s.rcvd := rfl
@[simp] theorem State.setCore_fenceSrc (s : State) (k : Nat) (c : Core) : (s.setCore k c).fenceSrc = s.fenceSrc := rfl
@[simp] theorem State.setCore_fenceDst (s : State) (k : Nat) (c : Core) : (s.setCore k c).fenceDst = s.fenceDst := rfl
@[simp] theorem State.setCore_posts (s : State) (k : Nat) (c : Core) : (s.setCore k c).posts = s.posts := rfl
@[simp] theorem State.setCore_hmRounds (s : State) (k : Nat) (c : Core) : (s.setCore k c).hmRounds = s.hmRounds := rfl
@[simp] theorem State.setCore_hmXid (s : State) (k : Nat) (c : Core) : (s.setCore k c).hmXid = s.hmXid := rfl
@[simp] theorem State.setCore_myRounds (s : State) (k : Nat) (c : Core) : (s.setCore k c).myRounds = s.myRounds := rfl
@[simp] theorem State.setCore_results (s : State) (k : Nat) (c : Core) : (s.setCore k c).results = s.results := rfl
@[simp] theorem State.setCore_copies (s : State) (k : Nat) (c : Core) : (s.setCore k c).copies = s.copies := rfl
@[simp] theorem State.setCore_xwaits (s : State) (k : Nat) (c : Core) : (s.setCore k c).xwaits = s.xwaits := rfl
@[simp] theorem State.setCore_hbSent (s : State) (k : Nat) (c : Core) : (s.setCore k c).hbSent = s.hbSent := rfl
@[simp] theorem State.setCore_hbSeen (s : State) (k : Nat) (c : Core) : (s.setCore k c).hbSeen = s.hbSeen := rfl
@[simp] theorem State.setCore_trip1 (s : State) (k : Nat) (c : Core) : (s.setCore k c).trip1 = s.trip1 := rfl
@[simp] theorem State.setCore_trip2 (s : State) (k : Nat) (c : Core) : (s.setCore k c).trip2 = s.trip2 := rfl
@[simp] theorem State.setCore_halted (s : State) (k : Nat) (c : Core) : (s.setCore k c).halted = s.halted := rfl
@[simp] theorem State.setCore_powerOff (s : State) (k : Nat) (c : Core) : (s.setCore k c).powerOff = s.powerOff := rfl
@[simp] theorem State.setCore_verified (s : State) (k : Nat) (c : Core) : (s.setCore k c).verified = s.verified := rfl
@[simp] theorem State.setCore_bootFailed (s : State) (k : Nat) (c : Core) : (s.setCore k c).bootFailed = s.bootFailed := rfl
@[simp] theorem State.setCore_restored (s : State) (k : Nat) (c : Core) : (s.setCore k c).restored = s.restored := rfl
@[simp] theorem State.setCore_measure (s : State) (k : Nat) (c : Core) : (s.setCore k c).measure = s.measure := rfl
@[simp] theorem State.setCore_wrapKey (s : State) (k : Nat) (c : Core) : (s.setCore k c).wrapKey = s.wrapKey := rfl
@[simp] theorem State.setCore_alarm (s : State) (k : Nat) (c : Core) : (s.setCore k c).alarm = s.alarm := rfl
@[simp] theorem State.setCore_notes (s : State) (k : Nat) (c : Core) : (s.setCore k c).notes = s.notes := rfl
@[simp] theorem State.setCore_owed (s : State) (k : Nat) (c : Core) : (s.setCore k c).owed = s.owed := rfl
@[simp] theorem State.setCore_focusCore (s : State) (k : Nat) (c : Core) : (s.setCore k c).focusCore = s.focusCore := rfl
@[simp] theorem State.setCore_focusFw (s : State) (k : Nat) (c : Core) : (s.setCore k c).focusFw = s.focusFw := rfl
@[simp] theorem State.setCore_word (s : State) (k : Nat) (c : Core) : (s.setCore k c).word = s.word := rfl
@[simp] theorem State.setCore_agenda (s : State) (k : Nat) (c : Core) : (s.setCore k c).agenda = s.agenda := rfl
@[simp] theorem State.setCore_issuedAt (s : State) (k : Nat) (c : Core) : (s.setCore k c).issuedAt = s.issuedAt := rfl
@[simp] theorem State.setCore_free (s : State) (k : Nat) (c : Core) : (s.setCore k c).free = s.free := rfl
@[simp] theorem State.setCore_nextTag (s : State) (k : Nat) (c : Core) : (s.setCore k c).nextTag = s.nextTag := rfl

/-! ### State.setCtx -/

@[simp] theorem State.setCtx_tb (s : State) (k : Nat) (b : Bool) (x : Ctx) : (s.setCtx k b x).tb = s.tb := rfl
@[simp] theorem State.setCtx_pkg (s : State) (k : Nat) (b : Bool) (x : Ctx) : (s.setCtx k b x).pkg = s.pkg := rfl
@[simp] theorem State.setCtx_mem (s : State) (k : Nat) (b : Bool) (x : Ctx) : (s.setCtx k b x).mem = s.mem := rfl
@[simp] theorem State.setCtx_memBad (s : State) (k : Nat) (b : Bool) (x : Ctx) : (s.setCtx k b x).memBad = s.memBad := rfl
@[simp] theorem State.setCtx_dies (s : State) (k : Nat) (b : Bool) (x : Ctx) : (s.setCtx k b x).dies = s.dies := rfl
@[simp] theorem State.setCtx_flights (s : State) (k : Nat) (b : Bool) (x : Ctx) : (s.setCtx k b x).flights = s.flights := rfl
@[simp] theorem State.setCtx_swaps (s : State) (k : Nat) (b : Bool) (x : Ctx) : (s.setCtx k b x).swaps = s.swaps := rfl
@[simp] theorem State.setCtx_acqs (s : State) (k : Nat) (b : Bool) (x : Ctx) : (s.setCtx k b x).acqs = s.acqs := rfl
@[simp] theorem State.setCtx_msgs (s : State) (k : Nat) (b : Bool) (x : Ctx) : (s.setCtx k b x).msgs = s.msgs := rfl
@[simp] theorem State.setCtx_bookTags (s : State) (k : Nat) (b : Bool) (x : Ctx) : (s.setCtx k b x).bookTags = s.bookTags := rfl
@[simp] theorem State.setCtx_out (s : State) (k : Nat) (b : Bool) (x : Ctx) : (s.setCtx k b x).out = s.out := rfl
@[simp] theorem State.setCtx_selfDue (s : State) (k : Nat) (b : Bool) (x : Ctx) : (s.setCtx k b x).selfDue = s.selfDue := rfl
@[simp] theorem State.setCtx_outDue (s : State) (k : Nat) (b : Bool) (x : Ctx) : (s.setCtx k b x).outDue = s.outDue := rfl
@[simp] theorem State.setCtx_bars (s : State) (k : Nat) (b : Bool) (x : Ctx) : (s.setCtx k b x).bars = s.bars := rfl
@[simp] theorem State.setCtx_waves (s : State) (k : Nat) (b : Bool) (x : Ctx) : (s.setCtx k b x).waves = s.waves := rfl
@[simp] theorem State.setCtx_sluices (s : State) (k : Nat) (b : Bool) (x : Ctx) : (s.setCtx k b x).sluices = s.sluices := rfl
@[simp] theorem State.setCtx_podCtrs (s : State) (k : Nat) (b : Bool) (x : Ctx) : (s.setCtx k b x).podCtrs = s.podCtrs := rfl
@[simp] theorem State.setCtx_podRoot (s : State) (k : Nat) (b : Bool) (x : Ctx) : (s.setCtx k b x).podRoot = s.podRoot := rfl
@[simp] theorem State.setCtx_podGrp (s : State) (k : Nat) (b : Bool) (x : Ctx) : (s.setCtx k b x).podGrp = s.podGrp := rfl
@[simp] theorem State.setCtx_podN (s : State) (k : Nat) (b : Bool) (x : Ctx) : (s.setCtx k b x).podN = s.podN := rfl
@[simp] theorem State.setCtx_lqs (s : State) (k : Nat) (b : Bool) (x : Ctx) : (s.setCtx k b x).lqs = s.lqs := rfl
@[simp] theorem State.setCtx_lastServed (s : State) (k : Nat) (b : Bool) (x : Ctx) : (s.setCtx k b x).lastServed = s.lastServed := rfl
@[simp] theorem State.setCtx_jobs (s : State) (k : Nat) (b : Bool) (x : Ctx) : (s.setCtx k b x).jobs = s.jobs := rfl
@[simp] theorem State.setCtx_jobCtr (s : State) (k : Nat) (b : Bool) (x : Ctx) : (s.setCtx k b x).jobCtr = s.jobCtr := rfl
@[simp] theorem State.setCtx_roots (s : State) (k : Nat) (b : Bool) (x : Ctx) : (s.setCtx k b x).roots = s.roots := rfl
@[simp] theorem State.setCtx_saved (s : State) (k : Nat) (b : Bool) (x : Ctx) : (s.setCtx k b x).saved = s.saved := rfl
@[simp] theorem State.setCtx_reserved (s : State) (k : Nat) (b : Bool) (x : Ctx) : (s.setCtx k b x).reserved = s.reserved := rfl
@[simp] theorem State.setCtx_poolBase (s : State) (k : Nat) (b : Bool) (x : Ctx) : (s.setCtx k b x).poolBase = s.poolBase := rfl
@[simp] theorem State.setCtx_poolRoom (s : State) (k : Nat) (b : Bool) (x : Ctx) : (s.setCtx k b x).poolRoom = s.poolRoom := rfl
@[simp] theorem State.setCtx_saveAddr (s : State) (k : Nat) (b : Bool) (x : Ctx) : (s.setCtx k b x).saveAddr = s.saveAddr := rfl
@[simp] theorem State.setCtx_saveArea (s : State) (k : Nat) (b : Bool) (x : Ctx) : (s.setCtx k b x).saveArea = s.saveArea := rfl
@[simp] theorem State.setCtx_pending (s : State) (k : Nat) (b : Bool) (x : Ctx) : (s.setCtx k b x).pending = s.pending := rfl
@[simp] theorem State.setCtx_ports (s : State) (k : Nat) (b : Bool) (x : Ctx) : (s.setCtx k b x).ports = s.ports := rfl
@[simp] theorem State.setCtx_routes (s : State) (k : Nat) (b : Bool) (x : Ctx) : (s.setCtx k b x).routes = s.routes := rfl
@[simp] theorem State.setCtx_rtmo (s : State) (k : Nat) (b : Bool) (x : Ctx) : (s.setCtx k b x).rtmo = s.rtmo := rfl
@[simp] theorem State.setCtx_ftmo (s : State) (k : Nat) (b : Bool) (x : Ctx) : (s.setCtx k b x).ftmo = s.ftmo := rfl
@[simp] theorem State.setCtx_acktmo (s : State) (k : Nat) (b : Bool) (x : Ctx) : (s.setCtx k b x).acktmo = s.acktmo := rfl
@[simp] theorem State.setCtx_hmStby (s : State) (k : Nat) (b : Bool) (x : Ctx) : (s.setCtx k b x).hmStby = s.hmStby := rfl
@[simp] theorem State.setCtx_hmPrim (s : State) (k : Nat) (b : Bool) (x : Ctx) : (s.setCtx k b x).hmPrim = s.hmPrim := rfl
@[simp] theorem State.setCtx_hmGrp (s : State) (k : Nat) (b : Bool) (x : Ctx) : (s.setCtx k b x).hmGrp = s.hmGrp := rfl
@[simp] theorem State.setCtx_noStby (s : State) (k : Nat) (b : Bool) (x : Ctx) : (s.setCtx k b x).noStby = s.noStby := rfl
@[simp] theorem State.setCtx_rcvd (s : State) (k : Nat) (b : Bool) (x : Ctx) : (s.setCtx k b x).rcvd = s.rcvd := rfl
@[simp] theorem State.setCtx_fenceSrc (s : State) (k : Nat) (b : Bool) (x : Ctx) : (s.setCtx k b x).fenceSrc = s.fenceSrc := rfl
@[simp] theorem State.setCtx_fenceDst (s : State) (k : Nat) (b : Bool) (x : Ctx) : (s.setCtx k b x).fenceDst = s.fenceDst := rfl
@[simp] theorem State.setCtx_posts (s : State) (k : Nat) (b : Bool) (x : Ctx) : (s.setCtx k b x).posts = s.posts := rfl
@[simp] theorem State.setCtx_hmRounds (s : State) (k : Nat) (b : Bool) (x : Ctx) : (s.setCtx k b x).hmRounds = s.hmRounds := rfl
@[simp] theorem State.setCtx_hmXid (s : State) (k : Nat) (b : Bool) (x : Ctx) : (s.setCtx k b x).hmXid = s.hmXid := rfl
@[simp] theorem State.setCtx_myRounds (s : State) (k : Nat) (b : Bool) (x : Ctx) : (s.setCtx k b x).myRounds = s.myRounds := rfl
@[simp] theorem State.setCtx_results (s : State) (k : Nat) (b : Bool) (x : Ctx) : (s.setCtx k b x).results = s.results := rfl
@[simp] theorem State.setCtx_copies (s : State) (k : Nat) (b : Bool) (x : Ctx) : (s.setCtx k b x).copies = s.copies := rfl
@[simp] theorem State.setCtx_xwaits (s : State) (k : Nat) (b : Bool) (x : Ctx) : (s.setCtx k b x).xwaits = s.xwaits := rfl
@[simp] theorem State.setCtx_hbSent (s : State) (k : Nat) (b : Bool) (x : Ctx) : (s.setCtx k b x).hbSent = s.hbSent := rfl
@[simp] theorem State.setCtx_hbSeen (s : State) (k : Nat) (b : Bool) (x : Ctx) : (s.setCtx k b x).hbSeen = s.hbSeen := rfl
@[simp] theorem State.setCtx_trip1 (s : State) (k : Nat) (b : Bool) (x : Ctx) : (s.setCtx k b x).trip1 = s.trip1 := rfl
@[simp] theorem State.setCtx_trip2 (s : State) (k : Nat) (b : Bool) (x : Ctx) : (s.setCtx k b x).trip2 = s.trip2 := rfl
@[simp] theorem State.setCtx_halted (s : State) (k : Nat) (b : Bool) (x : Ctx) : (s.setCtx k b x).halted = s.halted := rfl
@[simp] theorem State.setCtx_powerOff (s : State) (k : Nat) (b : Bool) (x : Ctx) : (s.setCtx k b x).powerOff = s.powerOff := rfl
@[simp] theorem State.setCtx_verified (s : State) (k : Nat) (b : Bool) (x : Ctx) : (s.setCtx k b x).verified = s.verified := rfl
@[simp] theorem State.setCtx_bootFailed (s : State) (k : Nat) (b : Bool) (x : Ctx) : (s.setCtx k b x).bootFailed = s.bootFailed := rfl
@[simp] theorem State.setCtx_restored (s : State) (k : Nat) (b : Bool) (x : Ctx) : (s.setCtx k b x).restored = s.restored := rfl
@[simp] theorem State.setCtx_measure (s : State) (k : Nat) (b : Bool) (x : Ctx) : (s.setCtx k b x).measure = s.measure := rfl
@[simp] theorem State.setCtx_wrapKey (s : State) (k : Nat) (b : Bool) (x : Ctx) : (s.setCtx k b x).wrapKey = s.wrapKey := rfl
@[simp] theorem State.setCtx_alarm (s : State) (k : Nat) (b : Bool) (x : Ctx) : (s.setCtx k b x).alarm = s.alarm := rfl
@[simp] theorem State.setCtx_notes (s : State) (k : Nat) (b : Bool) (x : Ctx) : (s.setCtx k b x).notes = s.notes := rfl
@[simp] theorem State.setCtx_owed (s : State) (k : Nat) (b : Bool) (x : Ctx) : (s.setCtx k b x).owed = s.owed := rfl
@[simp] theorem State.setCtx_focusCore (s : State) (k : Nat) (b : Bool) (x : Ctx) : (s.setCtx k b x).focusCore = s.focusCore := rfl
@[simp] theorem State.setCtx_focusFw (s : State) (k : Nat) (b : Bool) (x : Ctx) : (s.setCtx k b x).focusFw = s.focusFw := rfl
@[simp] theorem State.setCtx_word (s : State) (k : Nat) (b : Bool) (x : Ctx) : (s.setCtx k b x).word = s.word := rfl
@[simp] theorem State.setCtx_agenda (s : State) (k : Nat) (b : Bool) (x : Ctx) : (s.setCtx k b x).agenda = s.agenda := rfl
@[simp] theorem State.setCtx_issuedAt (s : State) (k : Nat) (b : Bool) (x : Ctx) : (s.setCtx k b x).issuedAt = s.issuedAt := rfl
@[simp] theorem State.setCtx_free (s : State) (k : Nat) (b : Bool) (x : Ctx) : (s.setCtx k b x).free = s.free := rfl
@[simp] theorem State.setCtx_nextTag (s : State) (k : Nat) (b : Bool) (x : Ctx) : (s.setCtx k b x).nextTag = s.nextTag := rfl

/-! ### State.setCur -/

@[simp] theorem State.setCur_tb (s : State) (x : Ctx) : (s.setCur x).tb = s.tb := rfl
@[simp] theorem State.setCur_pkg (s : State) (x : Ctx) : (s.setCur x).pkg = s.pkg := rfl
@[simp] theorem State.setCur_mem (s : State) (x : Ctx) : (s.setCur x).mem = s.mem := rfl
@[simp] theorem State.setCur_memBad (s : State) (x : Ctx) : (s.setCur x).memBad = s.memBad := rfl
@[simp] theorem State.setCur_dies (s : State) (x : Ctx) : (s.setCur x).dies = s.dies := rfl
@[simp] theorem State.setCur_flights (s : State) (x : Ctx) : (s.setCur x).flights = s.flights := rfl
@[simp] theorem State.setCur_swaps (s : State) (x : Ctx) : (s.setCur x).swaps = s.swaps := rfl
@[simp] theorem State.setCur_acqs (s : State) (x : Ctx) : (s.setCur x).acqs = s.acqs := rfl
@[simp] theorem State.setCur_msgs (s : State) (x : Ctx) : (s.setCur x).msgs = s.msgs := rfl
@[simp] theorem State.setCur_bookTags (s : State) (x : Ctx) : (s.setCur x).bookTags = s.bookTags := rfl
@[simp] theorem State.setCur_out (s : State) (x : Ctx) : (s.setCur x).out = s.out := rfl
@[simp] theorem State.setCur_selfDue (s : State) (x : Ctx) : (s.setCur x).selfDue = s.selfDue := rfl
@[simp] theorem State.setCur_outDue (s : State) (x : Ctx) : (s.setCur x).outDue = s.outDue := rfl
@[simp] theorem State.setCur_bars (s : State) (x : Ctx) : (s.setCur x).bars = s.bars := rfl
@[simp] theorem State.setCur_waves (s : State) (x : Ctx) : (s.setCur x).waves = s.waves := rfl
@[simp] theorem State.setCur_sluices (s : State) (x : Ctx) : (s.setCur x).sluices = s.sluices := rfl
@[simp] theorem State.setCur_podCtrs (s : State) (x : Ctx) : (s.setCur x).podCtrs = s.podCtrs := rfl
@[simp] theorem State.setCur_podRoot (s : State) (x : Ctx) : (s.setCur x).podRoot = s.podRoot := rfl
@[simp] theorem State.setCur_podGrp (s : State) (x : Ctx) : (s.setCur x).podGrp = s.podGrp := rfl
@[simp] theorem State.setCur_podN (s : State) (x : Ctx) : (s.setCur x).podN = s.podN := rfl
@[simp] theorem State.setCur_lqs (s : State) (x : Ctx) : (s.setCur x).lqs = s.lqs := rfl
@[simp] theorem State.setCur_lastServed (s : State) (x : Ctx) : (s.setCur x).lastServed = s.lastServed := rfl
@[simp] theorem State.setCur_jobs (s : State) (x : Ctx) : (s.setCur x).jobs = s.jobs := rfl
@[simp] theorem State.setCur_jobCtr (s : State) (x : Ctx) : (s.setCur x).jobCtr = s.jobCtr := rfl
@[simp] theorem State.setCur_roots (s : State) (x : Ctx) : (s.setCur x).roots = s.roots := rfl
@[simp] theorem State.setCur_saved (s : State) (x : Ctx) : (s.setCur x).saved = s.saved := rfl
@[simp] theorem State.setCur_reserved (s : State) (x : Ctx) : (s.setCur x).reserved = s.reserved := rfl
@[simp] theorem State.setCur_poolBase (s : State) (x : Ctx) : (s.setCur x).poolBase = s.poolBase := rfl
@[simp] theorem State.setCur_poolRoom (s : State) (x : Ctx) : (s.setCur x).poolRoom = s.poolRoom := rfl
@[simp] theorem State.setCur_saveAddr (s : State) (x : Ctx) : (s.setCur x).saveAddr = s.saveAddr := rfl
@[simp] theorem State.setCur_saveArea (s : State) (x : Ctx) : (s.setCur x).saveArea = s.saveArea := rfl
@[simp] theorem State.setCur_pending (s : State) (x : Ctx) : (s.setCur x).pending = s.pending := rfl
@[simp] theorem State.setCur_ports (s : State) (x : Ctx) : (s.setCur x).ports = s.ports := rfl
@[simp] theorem State.setCur_routes (s : State) (x : Ctx) : (s.setCur x).routes = s.routes := rfl
@[simp] theorem State.setCur_rtmo (s : State) (x : Ctx) : (s.setCur x).rtmo = s.rtmo := rfl
@[simp] theorem State.setCur_ftmo (s : State) (x : Ctx) : (s.setCur x).ftmo = s.ftmo := rfl
@[simp] theorem State.setCur_acktmo (s : State) (x : Ctx) : (s.setCur x).acktmo = s.acktmo := rfl
@[simp] theorem State.setCur_hmStby (s : State) (x : Ctx) : (s.setCur x).hmStby = s.hmStby := rfl
@[simp] theorem State.setCur_hmPrim (s : State) (x : Ctx) : (s.setCur x).hmPrim = s.hmPrim := rfl
@[simp] theorem State.setCur_hmGrp (s : State) (x : Ctx) : (s.setCur x).hmGrp = s.hmGrp := rfl
@[simp] theorem State.setCur_noStby (s : State) (x : Ctx) : (s.setCur x).noStby = s.noStby := rfl
@[simp] theorem State.setCur_rcvd (s : State) (x : Ctx) : (s.setCur x).rcvd = s.rcvd := rfl
@[simp] theorem State.setCur_fenceSrc (s : State) (x : Ctx) : (s.setCur x).fenceSrc = s.fenceSrc := rfl
@[simp] theorem State.setCur_fenceDst (s : State) (x : Ctx) : (s.setCur x).fenceDst = s.fenceDst := rfl
@[simp] theorem State.setCur_posts (s : State) (x : Ctx) : (s.setCur x).posts = s.posts := rfl
@[simp] theorem State.setCur_hmRounds (s : State) (x : Ctx) : (s.setCur x).hmRounds = s.hmRounds := rfl
@[simp] theorem State.setCur_hmXid (s : State) (x : Ctx) : (s.setCur x).hmXid = s.hmXid := rfl
@[simp] theorem State.setCur_myRounds (s : State) (x : Ctx) : (s.setCur x).myRounds = s.myRounds := rfl
@[simp] theorem State.setCur_results (s : State) (x : Ctx) : (s.setCur x).results = s.results := rfl
@[simp] theorem State.setCur_copies (s : State) (x : Ctx) : (s.setCur x).copies = s.copies := rfl
@[simp] theorem State.setCur_xwaits (s : State) (x : Ctx) : (s.setCur x).xwaits = s.xwaits := rfl
@[simp] theorem State.setCur_hbSent (s : State) (x : Ctx) : (s.setCur x).hbSent = s.hbSent := rfl
@[simp] theorem State.setCur_hbSeen (s : State) (x : Ctx) : (s.setCur x).hbSeen = s.hbSeen := rfl
@[simp] theorem State.setCur_trip1 (s : State) (x : Ctx) : (s.setCur x).trip1 = s.trip1 := rfl
@[simp] theorem State.setCur_trip2 (s : State) (x : Ctx) : (s.setCur x).trip2 = s.trip2 := rfl
@[simp] theorem State.setCur_halted (s : State) (x : Ctx) : (s.setCur x).halted = s.halted := rfl
@[simp] theorem State.setCur_powerOff (s : State) (x : Ctx) : (s.setCur x).powerOff = s.powerOff := rfl
@[simp] theorem State.setCur_verified (s : State) (x : Ctx) : (s.setCur x).verified = s.verified := rfl
@[simp] theorem State.setCur_bootFailed (s : State) (x : Ctx) : (s.setCur x).bootFailed = s.bootFailed := rfl
@[simp] theorem State.setCur_restored (s : State) (x : Ctx) : (s.setCur x).restored = s.restored := rfl
@[simp] theorem State.setCur_measure (s : State) (x : Ctx) : (s.setCur x).measure = s.measure := rfl
@[simp] theorem State.setCur_wrapKey (s : State) (x : Ctx) : (s.setCur x).wrapKey = s.wrapKey := rfl
@[simp] theorem State.setCur_alarm (s : State) (x : Ctx) : (s.setCur x).alarm = s.alarm := rfl
@[simp] theorem State.setCur_notes (s : State) (x : Ctx) : (s.setCur x).notes = s.notes := rfl
@[simp] theorem State.setCur_owed (s : State) (x : Ctx) : (s.setCur x).owed = s.owed := rfl
@[simp] theorem State.setCur_focusCore (s : State) (x : Ctx) : (s.setCur x).focusCore = s.focusCore := rfl
@[simp] theorem State.setCur_focusFw (s : State) (x : Ctx) : (s.setCur x).focusFw = s.focusFw := rfl
@[simp] theorem State.setCur_word (s : State) (x : Ctx) : (s.setCur x).word = s.word := rfl
@[simp] theorem State.setCur_agenda (s : State) (x : Ctx) : (s.setCur x).agenda = s.agenda := rfl
@[simp] theorem State.setCur_issuedAt (s : State) (x : Ctx) : (s.setCur x).issuedAt = s.issuedAt := rfl
@[simp] theorem State.setCur_free (s : State) (x : Ctx) : (s.setCur x).free = s.free := rfl
@[simp] theorem State.setCur_nextTag (s : State) (x : Ctx) : (s.setCur x).nextTag = s.nextTag := rfl

/-! ### State.setCurCore -/

@[simp] theorem State.setCurCore_tb (s : State) (c : Core) : (s.setCurCore c).tb = s.tb := rfl
@[simp] theorem State.setCurCore_pkg (s : State) (c : Core) : (s.setCurCore c).pkg = s.pkg := rfl
@[simp] theorem State.setCurCore_mem (s : State) (c : Core) : (s.setCurCore c).mem = s.mem := rfl
@[simp] theorem State.setCurCore_memBad (s : State) (c : Core) : (s.setCurCore c).memBad = s.memBad := rfl
@[simp] theorem State.setCurCore_dies (s : State) (c : Core) : (s.setCurCore c).dies = s.dies := rfl
@[simp] theorem State.setCurCore_flights (s : State) (c : Core) : (s.setCurCore c).flights = s.flights := rfl
@[simp] theorem State.setCurCore_swaps (s : State) (c : Core) : (s.setCurCore c).swaps = s.swaps := rfl
@[simp] theorem State.setCurCore_acqs (s : State) (c : Core) : (s.setCurCore c).acqs = s.acqs := rfl
@[simp] theorem State.setCurCore_msgs (s : State) (c : Core) : (s.setCurCore c).msgs = s.msgs := rfl
@[simp] theorem State.setCurCore_bookTags (s : State) (c : Core) : (s.setCurCore c).bookTags = s.bookTags := rfl
@[simp] theorem State.setCurCore_out (s : State) (c : Core) : (s.setCurCore c).out = s.out := rfl
@[simp] theorem State.setCurCore_selfDue (s : State) (c : Core) : (s.setCurCore c).selfDue = s.selfDue := rfl
@[simp] theorem State.setCurCore_outDue (s : State) (c : Core) : (s.setCurCore c).outDue = s.outDue := rfl
@[simp] theorem State.setCurCore_bars (s : State) (c : Core) : (s.setCurCore c).bars = s.bars := rfl
@[simp] theorem State.setCurCore_waves (s : State) (c : Core) : (s.setCurCore c).waves = s.waves := rfl
@[simp] theorem State.setCurCore_sluices (s : State) (c : Core) : (s.setCurCore c).sluices = s.sluices := rfl
@[simp] theorem State.setCurCore_podCtrs (s : State) (c : Core) : (s.setCurCore c).podCtrs = s.podCtrs := rfl
@[simp] theorem State.setCurCore_podRoot (s : State) (c : Core) : (s.setCurCore c).podRoot = s.podRoot := rfl
@[simp] theorem State.setCurCore_podGrp (s : State) (c : Core) : (s.setCurCore c).podGrp = s.podGrp := rfl
@[simp] theorem State.setCurCore_podN (s : State) (c : Core) : (s.setCurCore c).podN = s.podN := rfl
@[simp] theorem State.setCurCore_lqs (s : State) (c : Core) : (s.setCurCore c).lqs = s.lqs := rfl
@[simp] theorem State.setCurCore_lastServed (s : State) (c : Core) : (s.setCurCore c).lastServed = s.lastServed := rfl
@[simp] theorem State.setCurCore_jobs (s : State) (c : Core) : (s.setCurCore c).jobs = s.jobs := rfl
@[simp] theorem State.setCurCore_jobCtr (s : State) (c : Core) : (s.setCurCore c).jobCtr = s.jobCtr := rfl
@[simp] theorem State.setCurCore_roots (s : State) (c : Core) : (s.setCurCore c).roots = s.roots := rfl
@[simp] theorem State.setCurCore_saved (s : State) (c : Core) : (s.setCurCore c).saved = s.saved := rfl
@[simp] theorem State.setCurCore_reserved (s : State) (c : Core) : (s.setCurCore c).reserved = s.reserved := rfl
@[simp] theorem State.setCurCore_poolBase (s : State) (c : Core) : (s.setCurCore c).poolBase = s.poolBase := rfl
@[simp] theorem State.setCurCore_poolRoom (s : State) (c : Core) : (s.setCurCore c).poolRoom = s.poolRoom := rfl
@[simp] theorem State.setCurCore_saveAddr (s : State) (c : Core) : (s.setCurCore c).saveAddr = s.saveAddr := rfl
@[simp] theorem State.setCurCore_saveArea (s : State) (c : Core) : (s.setCurCore c).saveArea = s.saveArea := rfl
@[simp] theorem State.setCurCore_pending (s : State) (c : Core) : (s.setCurCore c).pending = s.pending := rfl
@[simp] theorem State.setCurCore_ports (s : State) (c : Core) : (s.setCurCore c).ports = s.ports := rfl
@[simp] theorem State.setCurCore_routes (s : State) (c : Core) : (s.setCurCore c).routes = s.routes := rfl
@[simp] theorem State.setCurCore_rtmo (s : State) (c : Core) : (s.setCurCore c).rtmo = s.rtmo := rfl
@[simp] theorem State.setCurCore_ftmo (s : State) (c : Core) : (s.setCurCore c).ftmo = s.ftmo := rfl
@[simp] theorem State.setCurCore_acktmo (s : State) (c : Core) : (s.setCurCore c).acktmo = s.acktmo := rfl
@[simp] theorem State.setCurCore_hmStby (s : State) (c : Core) : (s.setCurCore c).hmStby = s.hmStby := rfl
@[simp] theorem State.setCurCore_hmPrim (s : State) (c : Core) : (s.setCurCore c).hmPrim = s.hmPrim := rfl
@[simp] theorem State.setCurCore_hmGrp (s : State) (c : Core) : (s.setCurCore c).hmGrp = s.hmGrp := rfl
@[simp] theorem State.setCurCore_noStby (s : State) (c : Core) : (s.setCurCore c).noStby = s.noStby := rfl
@[simp] theorem State.setCurCore_rcvd (s : State) (c : Core) : (s.setCurCore c).rcvd = s.rcvd := rfl
@[simp] theorem State.setCurCore_fenceSrc (s : State) (c : Core) : (s.setCurCore c).fenceSrc = s.fenceSrc := rfl
@[simp] theorem State.setCurCore_fenceDst (s : State) (c : Core) : (s.setCurCore c).fenceDst = s.fenceDst := rfl
@[simp] theorem State.setCurCore_posts (s : State) (c : Core) : (s.setCurCore c).posts = s.posts := rfl
@[simp] theorem State.setCurCore_hmRounds (s : State) (c : Core) : (s.setCurCore c).hmRounds = s.hmRounds := rfl
@[simp] theorem State.setCurCore_hmXid (s : State) (c : Core) : (s.setCurCore c).hmXid = s.hmXid := rfl
@[simp] theorem State.setCurCore_myRounds (s : State) (c : Core) : (s.setCurCore c).myRounds = s.myRounds := rfl
@[simp] theorem State.setCurCore_results (s : State) (c : Core) : (s.setCurCore c).results = s.results := rfl
@[simp] theorem State.setCurCore_copies (s : State) (c : Core) : (s.setCurCore c).copies = s.copies := rfl
@[simp] theorem State.setCurCore_xwaits (s : State) (c : Core) : (s.setCurCore c).xwaits = s.xwaits := rfl
@[simp] theorem State.setCurCore_hbSent (s : State) (c : Core) : (s.setCurCore c).hbSent = s.hbSent := rfl
@[simp] theorem State.setCurCore_hbSeen (s : State) (c : Core) : (s.setCurCore c).hbSeen = s.hbSeen := rfl
@[simp] theorem State.setCurCore_trip1 (s : State) (c : Core) : (s.setCurCore c).trip1 = s.trip1 := rfl
@[simp] theorem State.setCurCore_trip2 (s : State) (c : Core) : (s.setCurCore c).trip2 = s.trip2 := rfl
@[simp] theorem State.setCurCore_halted (s : State) (c : Core) : (s.setCurCore c).halted = s.halted := rfl
@[simp] theorem State.setCurCore_powerOff (s : State) (c : Core) : (s.setCurCore c).powerOff = s.powerOff := rfl
@[simp] theorem State.setCurCore_verified (s : State) (c : Core) : (s.setCurCore c).verified = s.verified := rfl
@[simp] theorem State.setCurCore_bootFailed (s : State) (c : Core) : (s.setCurCore c).bootFailed = s.bootFailed := rfl
@[simp] theorem State.setCurCore_restored (s : State) (c : Core) : (s.setCurCore c).restored = s.restored := rfl
@[simp] theorem State.setCurCore_measure (s : State) (c : Core) : (s.setCurCore c).measure = s.measure := rfl
@[simp] theorem State.setCurCore_wrapKey (s : State) (c : Core) : (s.setCurCore c).wrapKey = s.wrapKey := rfl
@[simp] theorem State.setCurCore_alarm (s : State) (c : Core) : (s.setCurCore c).alarm = s.alarm := rfl
@[simp] theorem State.setCurCore_notes (s : State) (c : Core) : (s.setCurCore c).notes = s.notes := rfl
@[simp] theorem State.setCurCore_owed (s : State) (c : Core) : (s.setCurCore c).owed = s.owed := rfl
@[simp] theorem State.setCurCore_focusCore (s : State) (c : Core) : (s.setCurCore c).focusCore = s.focusCore := rfl
@[simp] theorem State.setCurCore_focusFw (s : State) (c : Core) : (s.setCurCore c).focusFw = s.focusFw := rfl
@[simp] theorem State.setCurCore_word (s : State) (c : Core) : (s.setCurCore c).word = s.word := rfl
@[simp] theorem State.setCurCore_agenda (s : State) (c : Core) : (s.setCurCore c).agenda = s.agenda := rfl
@[simp] theorem State.setCurCore_issuedAt (s : State) (c : Core) : (s.setCurCore c).issuedAt = s.issuedAt := rfl
@[simp] theorem State.setCurCore_free (s : State) (c : Core) : (s.setCurCore c).free = s.free := rfl
@[simp] theorem State.setCurCore_nextTag (s : State) (c : Core) : (s.setCurCore c).nextTag = s.nextTag := rfl

/-! ### State.setDie -/

@[simp] theorem State.setDie_tb (s : State) (d : Nat) (x : Die) : (s.setDie d x).tb = s.tb := rfl
@[simp] theorem State.setDie_pkg (s : State) (d : Nat) (x : Die) : (s.setDie d x).pkg = s.pkg := rfl
@[simp] theorem State.setDie_mem (s : State) (d : Nat) (x : Die) : (s.setDie d x).mem = s.mem := rfl
@[simp] theorem State.setDie_memBad (s : State) (d : Nat) (x : Die) : (s.setDie d x).memBad = s.memBad := rfl
@[simp] theorem State.setDie_cores (s : State) (d : Nat) (x : Die) : (s.setDie d x).cores = s.cores := rfl
@[simp] theorem State.setDie_flights (s : State) (d : Nat) (x : Die) : (s.setDie d x).flights = s.flights := rfl
@[simp] theorem State.setDie_swaps (s : State) (d : Nat) (x : Die) : (s.setDie d x).swaps = s.swaps := rfl
@[simp] theorem State.setDie_acqs (s : State) (d : Nat) (x : Die) : (s.setDie d x).acqs = s.acqs := rfl
@[simp] theorem State.setDie_msgs (s : State) (d : Nat) (x : Die) : (s.setDie d x).msgs = s.msgs := rfl
@[simp] theorem State.setDie_bookTags (s : State) (d : Nat) (x : Die) : (s.setDie d x).bookTags = s.bookTags := rfl
@[simp] theorem State.setDie_out (s : State) (d : Nat) (x : Die) : (s.setDie d x).out = s.out := rfl
@[simp] theorem State.setDie_selfDue (s : State) (d : Nat) (x : Die) : (s.setDie d x).selfDue = s.selfDue := rfl
@[simp] theorem State.setDie_outDue (s : State) (d : Nat) (x : Die) : (s.setDie d x).outDue = s.outDue := rfl
@[simp] theorem State.setDie_bars (s : State) (d : Nat) (x : Die) : (s.setDie d x).bars = s.bars := rfl
@[simp] theorem State.setDie_waves (s : State) (d : Nat) (x : Die) : (s.setDie d x).waves = s.waves := rfl
@[simp] theorem State.setDie_sluices (s : State) (d : Nat) (x : Die) : (s.setDie d x).sluices = s.sluices := rfl
@[simp] theorem State.setDie_podCtrs (s : State) (d : Nat) (x : Die) : (s.setDie d x).podCtrs = s.podCtrs := rfl
@[simp] theorem State.setDie_podRoot (s : State) (d : Nat) (x : Die) : (s.setDie d x).podRoot = s.podRoot := rfl
@[simp] theorem State.setDie_podGrp (s : State) (d : Nat) (x : Die) : (s.setDie d x).podGrp = s.podGrp := rfl
@[simp] theorem State.setDie_podN (s : State) (d : Nat) (x : Die) : (s.setDie d x).podN = s.podN := rfl
@[simp] theorem State.setDie_lqs (s : State) (d : Nat) (x : Die) : (s.setDie d x).lqs = s.lqs := rfl
@[simp] theorem State.setDie_lastServed (s : State) (d : Nat) (x : Die) : (s.setDie d x).lastServed = s.lastServed := rfl
@[simp] theorem State.setDie_jobs (s : State) (d : Nat) (x : Die) : (s.setDie d x).jobs = s.jobs := rfl
@[simp] theorem State.setDie_jobCtr (s : State) (d : Nat) (x : Die) : (s.setDie d x).jobCtr = s.jobCtr := rfl
@[simp] theorem State.setDie_roots (s : State) (d : Nat) (x : Die) : (s.setDie d x).roots = s.roots := rfl
@[simp] theorem State.setDie_saved (s : State) (d : Nat) (x : Die) : (s.setDie d x).saved = s.saved := rfl
@[simp] theorem State.setDie_reserved (s : State) (d : Nat) (x : Die) : (s.setDie d x).reserved = s.reserved := rfl
@[simp] theorem State.setDie_poolBase (s : State) (d : Nat) (x : Die) : (s.setDie d x).poolBase = s.poolBase := rfl
@[simp] theorem State.setDie_poolRoom (s : State) (d : Nat) (x : Die) : (s.setDie d x).poolRoom = s.poolRoom := rfl
@[simp] theorem State.setDie_saveAddr (s : State) (d : Nat) (x : Die) : (s.setDie d x).saveAddr = s.saveAddr := rfl
@[simp] theorem State.setDie_saveArea (s : State) (d : Nat) (x : Die) : (s.setDie d x).saveArea = s.saveArea := rfl
@[simp] theorem State.setDie_pending (s : State) (d : Nat) (x : Die) : (s.setDie d x).pending = s.pending := rfl
@[simp] theorem State.setDie_ports (s : State) (d : Nat) (x : Die) : (s.setDie d x).ports = s.ports := rfl
@[simp] theorem State.setDie_routes (s : State) (d : Nat) (x : Die) : (s.setDie d x).routes = s.routes := rfl
@[simp] theorem State.setDie_rtmo (s : State) (d : Nat) (x : Die) : (s.setDie d x).rtmo = s.rtmo := rfl
@[simp] theorem State.setDie_ftmo (s : State) (d : Nat) (x : Die) : (s.setDie d x).ftmo = s.ftmo := rfl
@[simp] theorem State.setDie_acktmo (s : State) (d : Nat) (x : Die) : (s.setDie d x).acktmo = s.acktmo := rfl
@[simp] theorem State.setDie_hmStby (s : State) (d : Nat) (x : Die) : (s.setDie d x).hmStby = s.hmStby := rfl
@[simp] theorem State.setDie_hmPrim (s : State) (d : Nat) (x : Die) : (s.setDie d x).hmPrim = s.hmPrim := rfl
@[simp] theorem State.setDie_hmGrp (s : State) (d : Nat) (x : Die) : (s.setDie d x).hmGrp = s.hmGrp := rfl
@[simp] theorem State.setDie_noStby (s : State) (d : Nat) (x : Die) : (s.setDie d x).noStby = s.noStby := rfl
@[simp] theorem State.setDie_rcvd (s : State) (d : Nat) (x : Die) : (s.setDie d x).rcvd = s.rcvd := rfl
@[simp] theorem State.setDie_fenceSrc (s : State) (d : Nat) (x : Die) : (s.setDie d x).fenceSrc = s.fenceSrc := rfl
@[simp] theorem State.setDie_fenceDst (s : State) (d : Nat) (x : Die) : (s.setDie d x).fenceDst = s.fenceDst := rfl
@[simp] theorem State.setDie_posts (s : State) (d : Nat) (x : Die) : (s.setDie d x).posts = s.posts := rfl
@[simp] theorem State.setDie_hmRounds (s : State) (d : Nat) (x : Die) : (s.setDie d x).hmRounds = s.hmRounds := rfl
@[simp] theorem State.setDie_hmXid (s : State) (d : Nat) (x : Die) : (s.setDie d x).hmXid = s.hmXid := rfl
@[simp] theorem State.setDie_myRounds (s : State) (d : Nat) (x : Die) : (s.setDie d x).myRounds = s.myRounds := rfl
@[simp] theorem State.setDie_results (s : State) (d : Nat) (x : Die) : (s.setDie d x).results = s.results := rfl
@[simp] theorem State.setDie_copies (s : State) (d : Nat) (x : Die) : (s.setDie d x).copies = s.copies := rfl
@[simp] theorem State.setDie_xwaits (s : State) (d : Nat) (x : Die) : (s.setDie d x).xwaits = s.xwaits := rfl
@[simp] theorem State.setDie_hbSent (s : State) (d : Nat) (x : Die) : (s.setDie d x).hbSent = s.hbSent := rfl
@[simp] theorem State.setDie_hbSeen (s : State) (d : Nat) (x : Die) : (s.setDie d x).hbSeen = s.hbSeen := rfl
@[simp] theorem State.setDie_trip1 (s : State) (d : Nat) (x : Die) : (s.setDie d x).trip1 = s.trip1 := rfl
@[simp] theorem State.setDie_trip2 (s : State) (d : Nat) (x : Die) : (s.setDie d x).trip2 = s.trip2 := rfl
@[simp] theorem State.setDie_halted (s : State) (d : Nat) (x : Die) : (s.setDie d x).halted = s.halted := rfl
@[simp] theorem State.setDie_powerOff (s : State) (d : Nat) (x : Die) : (s.setDie d x).powerOff = s.powerOff := rfl
@[simp] theorem State.setDie_verified (s : State) (d : Nat) (x : Die) : (s.setDie d x).verified = s.verified := rfl
@[simp] theorem State.setDie_bootFailed (s : State) (d : Nat) (x : Die) : (s.setDie d x).bootFailed = s.bootFailed := rfl
@[simp] theorem State.setDie_restored (s : State) (d : Nat) (x : Die) : (s.setDie d x).restored = s.restored := rfl
@[simp] theorem State.setDie_measure (s : State) (d : Nat) (x : Die) : (s.setDie d x).measure = s.measure := rfl
@[simp] theorem State.setDie_wrapKey (s : State) (d : Nat) (x : Die) : (s.setDie d x).wrapKey = s.wrapKey := rfl
@[simp] theorem State.setDie_alarm (s : State) (d : Nat) (x : Die) : (s.setDie d x).alarm = s.alarm := rfl
@[simp] theorem State.setDie_notes (s : State) (d : Nat) (x : Die) : (s.setDie d x).notes = s.notes := rfl
@[simp] theorem State.setDie_owed (s : State) (d : Nat) (x : Die) : (s.setDie d x).owed = s.owed := rfl
@[simp] theorem State.setDie_focusCore (s : State) (d : Nat) (x : Die) : (s.setDie d x).focusCore = s.focusCore := rfl
@[simp] theorem State.setDie_focusFw (s : State) (d : Nat) (x : Die) : (s.setDie d x).focusFw = s.focusFw := rfl
@[simp] theorem State.setDie_word (s : State) (d : Nat) (x : Die) : (s.setDie d x).word = s.word := rfl
@[simp] theorem State.setDie_agenda (s : State) (d : Nat) (x : Die) : (s.setDie d x).agenda = s.agenda := rfl
@[simp] theorem State.setDie_issuedAt (s : State) (d : Nat) (x : Die) : (s.setDie d x).issuedAt = s.issuedAt := rfl
@[simp] theorem State.setDie_free (s : State) (d : Nat) (x : Die) : (s.setDie d x).free = s.free := rfl
@[simp] theorem State.setDie_nextTag (s : State) (d : Nat) (x : Die) : (s.setDie d x).nextTag = s.nextTag := rfl

/-! ### State.setPort -/

@[simp] theorem State.setPort_tb (s : State) (p : Nat) (x : Port) : (s.setPort p x).tb = s.tb := rfl
@[simp] theorem State.setPort_pkg (s : State) (p : Nat) (x : Port) : (s.setPort p x).pkg = s.pkg := rfl
@[simp] theorem State.setPort_mem (s : State) (p : Nat) (x : Port) : (s.setPort p x).mem = s.mem := rfl
@[simp] theorem State.setPort_memBad (s : State) (p : Nat) (x : Port) : (s.setPort p x).memBad = s.memBad := rfl
@[simp] theorem State.setPort_cores (s : State) (p : Nat) (x : Port) : (s.setPort p x).cores = s.cores := rfl
@[simp] theorem State.setPort_dies (s : State) (p : Nat) (x : Port) : (s.setPort p x).dies = s.dies := rfl
@[simp] theorem State.setPort_flights (s : State) (p : Nat) (x : Port) : (s.setPort p x).flights = s.flights := rfl
@[simp] theorem State.setPort_swaps (s : State) (p : Nat) (x : Port) : (s.setPort p x).swaps = s.swaps := rfl
@[simp] theorem State.setPort_acqs (s : State) (p : Nat) (x : Port) : (s.setPort p x).acqs = s.acqs := rfl
@[simp] theorem State.setPort_msgs (s : State) (p : Nat) (x : Port) : (s.setPort p x).msgs = s.msgs := rfl
@[simp] theorem State.setPort_bookTags (s : State) (p : Nat) (x : Port) : (s.setPort p x).bookTags = s.bookTags := rfl
@[simp] theorem State.setPort_out (s : State) (p : Nat) (x : Port) : (s.setPort p x).out = s.out := rfl
@[simp] theorem State.setPort_selfDue (s : State) (p : Nat) (x : Port) : (s.setPort p x).selfDue = s.selfDue := rfl
@[simp] theorem State.setPort_outDue (s : State) (p : Nat) (x : Port) : (s.setPort p x).outDue = s.outDue := rfl
@[simp] theorem State.setPort_bars (s : State) (p : Nat) (x : Port) : (s.setPort p x).bars = s.bars := rfl
@[simp] theorem State.setPort_waves (s : State) (p : Nat) (x : Port) : (s.setPort p x).waves = s.waves := rfl
@[simp] theorem State.setPort_sluices (s : State) (p : Nat) (x : Port) : (s.setPort p x).sluices = s.sluices := rfl
@[simp] theorem State.setPort_podCtrs (s : State) (p : Nat) (x : Port) : (s.setPort p x).podCtrs = s.podCtrs := rfl
@[simp] theorem State.setPort_podRoot (s : State) (p : Nat) (x : Port) : (s.setPort p x).podRoot = s.podRoot := rfl
@[simp] theorem State.setPort_podGrp (s : State) (p : Nat) (x : Port) : (s.setPort p x).podGrp = s.podGrp := rfl
@[simp] theorem State.setPort_podN (s : State) (p : Nat) (x : Port) : (s.setPort p x).podN = s.podN := rfl
@[simp] theorem State.setPort_lqs (s : State) (p : Nat) (x : Port) : (s.setPort p x).lqs = s.lqs := rfl
@[simp] theorem State.setPort_lastServed (s : State) (p : Nat) (x : Port) : (s.setPort p x).lastServed = s.lastServed := rfl
@[simp] theorem State.setPort_jobs (s : State) (p : Nat) (x : Port) : (s.setPort p x).jobs = s.jobs := rfl
@[simp] theorem State.setPort_jobCtr (s : State) (p : Nat) (x : Port) : (s.setPort p x).jobCtr = s.jobCtr := rfl
@[simp] theorem State.setPort_roots (s : State) (p : Nat) (x : Port) : (s.setPort p x).roots = s.roots := rfl
@[simp] theorem State.setPort_saved (s : State) (p : Nat) (x : Port) : (s.setPort p x).saved = s.saved := rfl
@[simp] theorem State.setPort_reserved (s : State) (p : Nat) (x : Port) : (s.setPort p x).reserved = s.reserved := rfl
@[simp] theorem State.setPort_poolBase (s : State) (p : Nat) (x : Port) : (s.setPort p x).poolBase = s.poolBase := rfl
@[simp] theorem State.setPort_poolRoom (s : State) (p : Nat) (x : Port) : (s.setPort p x).poolRoom = s.poolRoom := rfl
@[simp] theorem State.setPort_saveAddr (s : State) (p : Nat) (x : Port) : (s.setPort p x).saveAddr = s.saveAddr := rfl
@[simp] theorem State.setPort_saveArea (s : State) (p : Nat) (x : Port) : (s.setPort p x).saveArea = s.saveArea := rfl
@[simp] theorem State.setPort_pending (s : State) (p : Nat) (x : Port) : (s.setPort p x).pending = s.pending := rfl
@[simp] theorem State.setPort_routes (s : State) (p : Nat) (x : Port) : (s.setPort p x).routes = s.routes := rfl
@[simp] theorem State.setPort_rtmo (s : State) (p : Nat) (x : Port) : (s.setPort p x).rtmo = s.rtmo := rfl
@[simp] theorem State.setPort_ftmo (s : State) (p : Nat) (x : Port) : (s.setPort p x).ftmo = s.ftmo := rfl
@[simp] theorem State.setPort_acktmo (s : State) (p : Nat) (x : Port) : (s.setPort p x).acktmo = s.acktmo := rfl
@[simp] theorem State.setPort_hmStby (s : State) (p : Nat) (x : Port) : (s.setPort p x).hmStby = s.hmStby := rfl
@[simp] theorem State.setPort_hmPrim (s : State) (p : Nat) (x : Port) : (s.setPort p x).hmPrim = s.hmPrim := rfl
@[simp] theorem State.setPort_hmGrp (s : State) (p : Nat) (x : Port) : (s.setPort p x).hmGrp = s.hmGrp := rfl
@[simp] theorem State.setPort_noStby (s : State) (p : Nat) (x : Port) : (s.setPort p x).noStby = s.noStby := rfl
@[simp] theorem State.setPort_rcvd (s : State) (p : Nat) (x : Port) : (s.setPort p x).rcvd = s.rcvd := rfl
@[simp] theorem State.setPort_fenceSrc (s : State) (p : Nat) (x : Port) : (s.setPort p x).fenceSrc = s.fenceSrc := rfl
@[simp] theorem State.setPort_fenceDst (s : State) (p : Nat) (x : Port) : (s.setPort p x).fenceDst = s.fenceDst := rfl
@[simp] theorem State.setPort_posts (s : State) (p : Nat) (x : Port) : (s.setPort p x).posts = s.posts := rfl
@[simp] theorem State.setPort_hmRounds (s : State) (p : Nat) (x : Port) : (s.setPort p x).hmRounds = s.hmRounds := rfl
@[simp] theorem State.setPort_hmXid (s : State) (p : Nat) (x : Port) : (s.setPort p x).hmXid = s.hmXid := rfl
@[simp] theorem State.setPort_myRounds (s : State) (p : Nat) (x : Port) : (s.setPort p x).myRounds = s.myRounds := rfl
@[simp] theorem State.setPort_results (s : State) (p : Nat) (x : Port) : (s.setPort p x).results = s.results := rfl
@[simp] theorem State.setPort_copies (s : State) (p : Nat) (x : Port) : (s.setPort p x).copies = s.copies := rfl
@[simp] theorem State.setPort_xwaits (s : State) (p : Nat) (x : Port) : (s.setPort p x).xwaits = s.xwaits := rfl
@[simp] theorem State.setPort_hbSent (s : State) (p : Nat) (x : Port) : (s.setPort p x).hbSent = s.hbSent := rfl
@[simp] theorem State.setPort_hbSeen (s : State) (p : Nat) (x : Port) : (s.setPort p x).hbSeen = s.hbSeen := rfl
@[simp] theorem State.setPort_trip1 (s : State) (p : Nat) (x : Port) : (s.setPort p x).trip1 = s.trip1 := rfl
@[simp] theorem State.setPort_trip2 (s : State) (p : Nat) (x : Port) : (s.setPort p x).trip2 = s.trip2 := rfl
@[simp] theorem State.setPort_halted (s : State) (p : Nat) (x : Port) : (s.setPort p x).halted = s.halted := rfl
@[simp] theorem State.setPort_powerOff (s : State) (p : Nat) (x : Port) : (s.setPort p x).powerOff = s.powerOff := rfl
@[simp] theorem State.setPort_verified (s : State) (p : Nat) (x : Port) : (s.setPort p x).verified = s.verified := rfl
@[simp] theorem State.setPort_bootFailed (s : State) (p : Nat) (x : Port) : (s.setPort p x).bootFailed = s.bootFailed := rfl
@[simp] theorem State.setPort_restored (s : State) (p : Nat) (x : Port) : (s.setPort p x).restored = s.restored := rfl
@[simp] theorem State.setPort_measure (s : State) (p : Nat) (x : Port) : (s.setPort p x).measure = s.measure := rfl
@[simp] theorem State.setPort_wrapKey (s : State) (p : Nat) (x : Port) : (s.setPort p x).wrapKey = s.wrapKey := rfl
@[simp] theorem State.setPort_alarm (s : State) (p : Nat) (x : Port) : (s.setPort p x).alarm = s.alarm := rfl
@[simp] theorem State.setPort_notes (s : State) (p : Nat) (x : Port) : (s.setPort p x).notes = s.notes := rfl
@[simp] theorem State.setPort_owed (s : State) (p : Nat) (x : Port) : (s.setPort p x).owed = s.owed := rfl
@[simp] theorem State.setPort_focusCore (s : State) (p : Nat) (x : Port) : (s.setPort p x).focusCore = s.focusCore := rfl
@[simp] theorem State.setPort_focusFw (s : State) (p : Nat) (x : Port) : (s.setPort p x).focusFw = s.focusFw := rfl
@[simp] theorem State.setPort_word (s : State) (p : Nat) (x : Port) : (s.setPort p x).word = s.word := rfl
@[simp] theorem State.setPort_agenda (s : State) (p : Nat) (x : Port) : (s.setPort p x).agenda = s.agenda := rfl
@[simp] theorem State.setPort_issuedAt (s : State) (p : Nat) (x : Port) : (s.setPort p x).issuedAt = s.issuedAt := rfl
@[simp] theorem State.setPort_free (s : State) (p : Nat) (x : Port) : (s.setPort p x).free = s.free := rfl
@[simp] theorem State.setPort_nextTag (s : State) (p : Nat) (x : Port) : (s.setPort p x).nextTag = s.nextTag := rfl

/-! ### State.setLq -/

@[simp] theorem State.setLq_tb (s : State) (q : Nat) (x : LQueue) : (s.setLq q x).tb = s.tb := rfl
@[simp] theorem State.setLq_pkg (s : State) (q : Nat) (x : LQueue) : (s.setLq q x).pkg = s.pkg := rfl
@[simp] theorem State.setLq_mem (s : State) (q : Nat) (x : LQueue) : (s.setLq q x).mem = s.mem := rfl
@[simp] theorem State.setLq_memBad (s : State) (q : Nat) (x : LQueue) : (s.setLq q x).memBad = s.memBad := rfl
@[simp] theorem State.setLq_cores (s : State) (q : Nat) (x : LQueue) : (s.setLq q x).cores = s.cores := rfl
@[simp] theorem State.setLq_dies (s : State) (q : Nat) (x : LQueue) : (s.setLq q x).dies = s.dies := rfl
@[simp] theorem State.setLq_flights (s : State) (q : Nat) (x : LQueue) : (s.setLq q x).flights = s.flights := rfl
@[simp] theorem State.setLq_swaps (s : State) (q : Nat) (x : LQueue) : (s.setLq q x).swaps = s.swaps := rfl
@[simp] theorem State.setLq_acqs (s : State) (q : Nat) (x : LQueue) : (s.setLq q x).acqs = s.acqs := rfl
@[simp] theorem State.setLq_msgs (s : State) (q : Nat) (x : LQueue) : (s.setLq q x).msgs = s.msgs := rfl
@[simp] theorem State.setLq_bookTags (s : State) (q : Nat) (x : LQueue) : (s.setLq q x).bookTags = s.bookTags := rfl
@[simp] theorem State.setLq_out (s : State) (q : Nat) (x : LQueue) : (s.setLq q x).out = s.out := rfl
@[simp] theorem State.setLq_selfDue (s : State) (q : Nat) (x : LQueue) : (s.setLq q x).selfDue = s.selfDue := rfl
@[simp] theorem State.setLq_outDue (s : State) (q : Nat) (x : LQueue) : (s.setLq q x).outDue = s.outDue := rfl
@[simp] theorem State.setLq_bars (s : State) (q : Nat) (x : LQueue) : (s.setLq q x).bars = s.bars := rfl
@[simp] theorem State.setLq_waves (s : State) (q : Nat) (x : LQueue) : (s.setLq q x).waves = s.waves := rfl
@[simp] theorem State.setLq_sluices (s : State) (q : Nat) (x : LQueue) : (s.setLq q x).sluices = s.sluices := rfl
@[simp] theorem State.setLq_podCtrs (s : State) (q : Nat) (x : LQueue) : (s.setLq q x).podCtrs = s.podCtrs := rfl
@[simp] theorem State.setLq_podRoot (s : State) (q : Nat) (x : LQueue) : (s.setLq q x).podRoot = s.podRoot := rfl
@[simp] theorem State.setLq_podGrp (s : State) (q : Nat) (x : LQueue) : (s.setLq q x).podGrp = s.podGrp := rfl
@[simp] theorem State.setLq_podN (s : State) (q : Nat) (x : LQueue) : (s.setLq q x).podN = s.podN := rfl
@[simp] theorem State.setLq_lastServed (s : State) (q : Nat) (x : LQueue) : (s.setLq q x).lastServed = s.lastServed := rfl
@[simp] theorem State.setLq_jobs (s : State) (q : Nat) (x : LQueue) : (s.setLq q x).jobs = s.jobs := rfl
@[simp] theorem State.setLq_jobCtr (s : State) (q : Nat) (x : LQueue) : (s.setLq q x).jobCtr = s.jobCtr := rfl
@[simp] theorem State.setLq_roots (s : State) (q : Nat) (x : LQueue) : (s.setLq q x).roots = s.roots := rfl
@[simp] theorem State.setLq_saved (s : State) (q : Nat) (x : LQueue) : (s.setLq q x).saved = s.saved := rfl
@[simp] theorem State.setLq_reserved (s : State) (q : Nat) (x : LQueue) : (s.setLq q x).reserved = s.reserved := rfl
@[simp] theorem State.setLq_poolBase (s : State) (q : Nat) (x : LQueue) : (s.setLq q x).poolBase = s.poolBase := rfl
@[simp] theorem State.setLq_poolRoom (s : State) (q : Nat) (x : LQueue) : (s.setLq q x).poolRoom = s.poolRoom := rfl
@[simp] theorem State.setLq_saveAddr (s : State) (q : Nat) (x : LQueue) : (s.setLq q x).saveAddr = s.saveAddr := rfl
@[simp] theorem State.setLq_saveArea (s : State) (q : Nat) (x : LQueue) : (s.setLq q x).saveArea = s.saveArea := rfl
@[simp] theorem State.setLq_pending (s : State) (q : Nat) (x : LQueue) : (s.setLq q x).pending = s.pending := rfl
@[simp] theorem State.setLq_ports (s : State) (q : Nat) (x : LQueue) : (s.setLq q x).ports = s.ports := rfl
@[simp] theorem State.setLq_routes (s : State) (q : Nat) (x : LQueue) : (s.setLq q x).routes = s.routes := rfl
@[simp] theorem State.setLq_rtmo (s : State) (q : Nat) (x : LQueue) : (s.setLq q x).rtmo = s.rtmo := rfl
@[simp] theorem State.setLq_ftmo (s : State) (q : Nat) (x : LQueue) : (s.setLq q x).ftmo = s.ftmo := rfl
@[simp] theorem State.setLq_acktmo (s : State) (q : Nat) (x : LQueue) : (s.setLq q x).acktmo = s.acktmo := rfl
@[simp] theorem State.setLq_hmStby (s : State) (q : Nat) (x : LQueue) : (s.setLq q x).hmStby = s.hmStby := rfl
@[simp] theorem State.setLq_hmPrim (s : State) (q : Nat) (x : LQueue) : (s.setLq q x).hmPrim = s.hmPrim := rfl
@[simp] theorem State.setLq_hmGrp (s : State) (q : Nat) (x : LQueue) : (s.setLq q x).hmGrp = s.hmGrp := rfl
@[simp] theorem State.setLq_noStby (s : State) (q : Nat) (x : LQueue) : (s.setLq q x).noStby = s.noStby := rfl
@[simp] theorem State.setLq_rcvd (s : State) (q : Nat) (x : LQueue) : (s.setLq q x).rcvd = s.rcvd := rfl
@[simp] theorem State.setLq_fenceSrc (s : State) (q : Nat) (x : LQueue) : (s.setLq q x).fenceSrc = s.fenceSrc := rfl
@[simp] theorem State.setLq_fenceDst (s : State) (q : Nat) (x : LQueue) : (s.setLq q x).fenceDst = s.fenceDst := rfl
@[simp] theorem State.setLq_posts (s : State) (q : Nat) (x : LQueue) : (s.setLq q x).posts = s.posts := rfl
@[simp] theorem State.setLq_hmRounds (s : State) (q : Nat) (x : LQueue) : (s.setLq q x).hmRounds = s.hmRounds := rfl
@[simp] theorem State.setLq_hmXid (s : State) (q : Nat) (x : LQueue) : (s.setLq q x).hmXid = s.hmXid := rfl
@[simp] theorem State.setLq_myRounds (s : State) (q : Nat) (x : LQueue) : (s.setLq q x).myRounds = s.myRounds := rfl
@[simp] theorem State.setLq_results (s : State) (q : Nat) (x : LQueue) : (s.setLq q x).results = s.results := rfl
@[simp] theorem State.setLq_copies (s : State) (q : Nat) (x : LQueue) : (s.setLq q x).copies = s.copies := rfl
@[simp] theorem State.setLq_xwaits (s : State) (q : Nat) (x : LQueue) : (s.setLq q x).xwaits = s.xwaits := rfl
@[simp] theorem State.setLq_hbSent (s : State) (q : Nat) (x : LQueue) : (s.setLq q x).hbSent = s.hbSent := rfl
@[simp] theorem State.setLq_hbSeen (s : State) (q : Nat) (x : LQueue) : (s.setLq q x).hbSeen = s.hbSeen := rfl
@[simp] theorem State.setLq_trip1 (s : State) (q : Nat) (x : LQueue) : (s.setLq q x).trip1 = s.trip1 := rfl
@[simp] theorem State.setLq_trip2 (s : State) (q : Nat) (x : LQueue) : (s.setLq q x).trip2 = s.trip2 := rfl
@[simp] theorem State.setLq_halted (s : State) (q : Nat) (x : LQueue) : (s.setLq q x).halted = s.halted := rfl
@[simp] theorem State.setLq_powerOff (s : State) (q : Nat) (x : LQueue) : (s.setLq q x).powerOff = s.powerOff := rfl
@[simp] theorem State.setLq_verified (s : State) (q : Nat) (x : LQueue) : (s.setLq q x).verified = s.verified := rfl
@[simp] theorem State.setLq_bootFailed (s : State) (q : Nat) (x : LQueue) : (s.setLq q x).bootFailed = s.bootFailed := rfl
@[simp] theorem State.setLq_restored (s : State) (q : Nat) (x : LQueue) : (s.setLq q x).restored = s.restored := rfl
@[simp] theorem State.setLq_measure (s : State) (q : Nat) (x : LQueue) : (s.setLq q x).measure = s.measure := rfl
@[simp] theorem State.setLq_wrapKey (s : State) (q : Nat) (x : LQueue) : (s.setLq q x).wrapKey = s.wrapKey := rfl
@[simp] theorem State.setLq_alarm (s : State) (q : Nat) (x : LQueue) : (s.setLq q x).alarm = s.alarm := rfl
@[simp] theorem State.setLq_notes (s : State) (q : Nat) (x : LQueue) : (s.setLq q x).notes = s.notes := rfl
@[simp] theorem State.setLq_owed (s : State) (q : Nat) (x : LQueue) : (s.setLq q x).owed = s.owed := rfl
@[simp] theorem State.setLq_focusCore (s : State) (q : Nat) (x : LQueue) : (s.setLq q x).focusCore = s.focusCore := rfl
@[simp] theorem State.setLq_focusFw (s : State) (q : Nat) (x : LQueue) : (s.setLq q x).focusFw = s.focusFw := rfl
@[simp] theorem State.setLq_word (s : State) (q : Nat) (x : LQueue) : (s.setLq q x).word = s.word := rfl
@[simp] theorem State.setLq_agenda (s : State) (q : Nat) (x : LQueue) : (s.setLq q x).agenda = s.agenda := rfl
@[simp] theorem State.setLq_issuedAt (s : State) (q : Nat) (x : LQueue) : (s.setLq q x).issuedAt = s.issuedAt := rfl
@[simp] theorem State.setLq_free (s : State) (q : Nat) (x : LQueue) : (s.setLq q x).free = s.free := rfl
@[simp] theorem State.setLq_nextTag (s : State) (q : Nat) (x : LQueue) : (s.setLq q x).nextTag = s.nextTag := rfl

/-! ### State.setFlight -/

@[simp] theorem State.setFlight_tb (s : State) (t : Nat) (f : Flight) : (s.setFlight t f).tb = s.tb := rfl
@[simp] theorem State.setFlight_pkg (s : State) (t : Nat) (f : Flight) : (s.setFlight t f).pkg = s.pkg := rfl
@[simp] theorem State.setFlight_mem (s : State) (t : Nat) (f : Flight) : (s.setFlight t f).mem = s.mem := rfl
@[simp] theorem State.setFlight_memBad (s : State) (t : Nat) (f : Flight) : (s.setFlight t f).memBad = s.memBad := rfl
@[simp] theorem State.setFlight_cores (s : State) (t : Nat) (f : Flight) : (s.setFlight t f).cores = s.cores := rfl
@[simp] theorem State.setFlight_dies (s : State) (t : Nat) (f : Flight) : (s.setFlight t f).dies = s.dies := rfl
@[simp] theorem State.setFlight_swaps (s : State) (t : Nat) (f : Flight) : (s.setFlight t f).swaps = s.swaps := rfl
@[simp] theorem State.setFlight_acqs (s : State) (t : Nat) (f : Flight) : (s.setFlight t f).acqs = s.acqs := rfl
@[simp] theorem State.setFlight_msgs (s : State) (t : Nat) (f : Flight) : (s.setFlight t f).msgs = s.msgs := rfl
@[simp] theorem State.setFlight_bookTags (s : State) (t : Nat) (f : Flight) : (s.setFlight t f).bookTags = s.bookTags := rfl
@[simp] theorem State.setFlight_out (s : State) (t : Nat) (f : Flight) : (s.setFlight t f).out = s.out := rfl
@[simp] theorem State.setFlight_selfDue (s : State) (t : Nat) (f : Flight) : (s.setFlight t f).selfDue = s.selfDue := rfl
@[simp] theorem State.setFlight_outDue (s : State) (t : Nat) (f : Flight) : (s.setFlight t f).outDue = s.outDue := rfl
@[simp] theorem State.setFlight_bars (s : State) (t : Nat) (f : Flight) : (s.setFlight t f).bars = s.bars := rfl
@[simp] theorem State.setFlight_waves (s : State) (t : Nat) (f : Flight) : (s.setFlight t f).waves = s.waves := rfl
@[simp] theorem State.setFlight_sluices (s : State) (t : Nat) (f : Flight) : (s.setFlight t f).sluices = s.sluices := rfl
@[simp] theorem State.setFlight_podCtrs (s : State) (t : Nat) (f : Flight) : (s.setFlight t f).podCtrs = s.podCtrs := rfl
@[simp] theorem State.setFlight_podRoot (s : State) (t : Nat) (f : Flight) : (s.setFlight t f).podRoot = s.podRoot := rfl
@[simp] theorem State.setFlight_podGrp (s : State) (t : Nat) (f : Flight) : (s.setFlight t f).podGrp = s.podGrp := rfl
@[simp] theorem State.setFlight_podN (s : State) (t : Nat) (f : Flight) : (s.setFlight t f).podN = s.podN := rfl
@[simp] theorem State.setFlight_lqs (s : State) (t : Nat) (f : Flight) : (s.setFlight t f).lqs = s.lqs := rfl
@[simp] theorem State.setFlight_lastServed (s : State) (t : Nat) (f : Flight) : (s.setFlight t f).lastServed = s.lastServed := rfl
@[simp] theorem State.setFlight_jobs (s : State) (t : Nat) (f : Flight) : (s.setFlight t f).jobs = s.jobs := rfl
@[simp] theorem State.setFlight_jobCtr (s : State) (t : Nat) (f : Flight) : (s.setFlight t f).jobCtr = s.jobCtr := rfl
@[simp] theorem State.setFlight_roots (s : State) (t : Nat) (f : Flight) : (s.setFlight t f).roots = s.roots := rfl
@[simp] theorem State.setFlight_saved (s : State) (t : Nat) (f : Flight) : (s.setFlight t f).saved = s.saved := rfl
@[simp] theorem State.setFlight_reserved (s : State) (t : Nat) (f : Flight) : (s.setFlight t f).reserved = s.reserved := rfl
@[simp] theorem State.setFlight_poolBase (s : State) (t : Nat) (f : Flight) : (s.setFlight t f).poolBase = s.poolBase := rfl
@[simp] theorem State.setFlight_poolRoom (s : State) (t : Nat) (f : Flight) : (s.setFlight t f).poolRoom = s.poolRoom := rfl
@[simp] theorem State.setFlight_saveAddr (s : State) (t : Nat) (f : Flight) : (s.setFlight t f).saveAddr = s.saveAddr := rfl
@[simp] theorem State.setFlight_saveArea (s : State) (t : Nat) (f : Flight) : (s.setFlight t f).saveArea = s.saveArea := rfl
@[simp] theorem State.setFlight_pending (s : State) (t : Nat) (f : Flight) : (s.setFlight t f).pending = s.pending := rfl
@[simp] theorem State.setFlight_ports (s : State) (t : Nat) (f : Flight) : (s.setFlight t f).ports = s.ports := rfl
@[simp] theorem State.setFlight_routes (s : State) (t : Nat) (f : Flight) : (s.setFlight t f).routes = s.routes := rfl
@[simp] theorem State.setFlight_rtmo (s : State) (t : Nat) (f : Flight) : (s.setFlight t f).rtmo = s.rtmo := rfl
@[simp] theorem State.setFlight_ftmo (s : State) (t : Nat) (f : Flight) : (s.setFlight t f).ftmo = s.ftmo := rfl
@[simp] theorem State.setFlight_acktmo (s : State) (t : Nat) (f : Flight) : (s.setFlight t f).acktmo = s.acktmo := rfl
@[simp] theorem State.setFlight_hmStby (s : State) (t : Nat) (f : Flight) : (s.setFlight t f).hmStby = s.hmStby := rfl
@[simp] theorem State.setFlight_hmPrim (s : State) (t : Nat) (f : Flight) : (s.setFlight t f).hmPrim = s.hmPrim := rfl
@[simp] theorem State.setFlight_hmGrp (s : State) (t : Nat) (f : Flight) : (s.setFlight t f).hmGrp = s.hmGrp := rfl
@[simp] theorem State.setFlight_noStby (s : State) (t : Nat) (f : Flight) : (s.setFlight t f).noStby = s.noStby := rfl
@[simp] theorem State.setFlight_rcvd (s : State) (t : Nat) (f : Flight) : (s.setFlight t f).rcvd = s.rcvd := rfl
@[simp] theorem State.setFlight_fenceSrc (s : State) (t : Nat) (f : Flight) : (s.setFlight t f).fenceSrc = s.fenceSrc := rfl
@[simp] theorem State.setFlight_fenceDst (s : State) (t : Nat) (f : Flight) : (s.setFlight t f).fenceDst = s.fenceDst := rfl
@[simp] theorem State.setFlight_posts (s : State) (t : Nat) (f : Flight) : (s.setFlight t f).posts = s.posts := rfl
@[simp] theorem State.setFlight_hmRounds (s : State) (t : Nat) (f : Flight) : (s.setFlight t f).hmRounds = s.hmRounds := rfl
@[simp] theorem State.setFlight_hmXid (s : State) (t : Nat) (f : Flight) : (s.setFlight t f).hmXid = s.hmXid := rfl
@[simp] theorem State.setFlight_myRounds (s : State) (t : Nat) (f : Flight) : (s.setFlight t f).myRounds = s.myRounds := rfl
@[simp] theorem State.setFlight_results (s : State) (t : Nat) (f : Flight) : (s.setFlight t f).results = s.results := rfl
@[simp] theorem State.setFlight_copies (s : State) (t : Nat) (f : Flight) : (s.setFlight t f).copies = s.copies := rfl
@[simp] theorem State.setFlight_xwaits (s : State) (t : Nat) (f : Flight) : (s.setFlight t f).xwaits = s.xwaits := rfl
@[simp] theorem State.setFlight_hbSent (s : State) (t : Nat) (f : Flight) : (s.setFlight t f).hbSent = s.hbSent := rfl
@[simp] theorem State.setFlight_hbSeen (s : State) (t : Nat) (f : Flight) : (s.setFlight t f).hbSeen = s.hbSeen := rfl
@[simp] theorem State.setFlight_trip1 (s : State) (t : Nat) (f : Flight) : (s.setFlight t f).trip1 = s.trip1 := rfl
@[simp] theorem State.setFlight_trip2 (s : State) (t : Nat) (f : Flight) : (s.setFlight t f).trip2 = s.trip2 := rfl
@[simp] theorem State.setFlight_halted (s : State) (t : Nat) (f : Flight) : (s.setFlight t f).halted = s.halted := rfl
@[simp] theorem State.setFlight_powerOff (s : State) (t : Nat) (f : Flight) : (s.setFlight t f).powerOff = s.powerOff := rfl
@[simp] theorem State.setFlight_verified (s : State) (t : Nat) (f : Flight) : (s.setFlight t f).verified = s.verified := rfl
@[simp] theorem State.setFlight_bootFailed (s : State) (t : Nat) (f : Flight) : (s.setFlight t f).bootFailed = s.bootFailed := rfl
@[simp] theorem State.setFlight_restored (s : State) (t : Nat) (f : Flight) : (s.setFlight t f).restored = s.restored := rfl
@[simp] theorem State.setFlight_measure (s : State) (t : Nat) (f : Flight) : (s.setFlight t f).measure = s.measure := rfl
@[simp] theorem State.setFlight_wrapKey (s : State) (t : Nat) (f : Flight) : (s.setFlight t f).wrapKey = s.wrapKey := rfl
@[simp] theorem State.setFlight_alarm (s : State) (t : Nat) (f : Flight) : (s.setFlight t f).alarm = s.alarm := rfl
@[simp] theorem State.setFlight_notes (s : State) (t : Nat) (f : Flight) : (s.setFlight t f).notes = s.notes := rfl
@[simp] theorem State.setFlight_owed (s : State) (t : Nat) (f : Flight) : (s.setFlight t f).owed = s.owed := rfl
@[simp] theorem State.setFlight_focusCore (s : State) (t : Nat) (f : Flight) : (s.setFlight t f).focusCore = s.focusCore := rfl
@[simp] theorem State.setFlight_focusFw (s : State) (t : Nat) (f : Flight) : (s.setFlight t f).focusFw = s.focusFw := rfl
@[simp] theorem State.setFlight_word (s : State) (t : Nat) (f : Flight) : (s.setFlight t f).word = s.word := rfl
@[simp] theorem State.setFlight_agenda (s : State) (t : Nat) (f : Flight) : (s.setFlight t f).agenda = s.agenda := rfl
@[simp] theorem State.setFlight_issuedAt (s : State) (t : Nat) (f : Flight) : (s.setFlight t f).issuedAt = s.issuedAt := rfl
@[simp] theorem State.setFlight_free (s : State) (t : Nat) (f : Flight) : (s.setFlight t f).free = s.free := rfl
@[simp] theorem State.setFlight_nextTag (s : State) (t : Nat) (f : Flight) : (s.setFlight t f).nextTag = s.nextTag := rfl

/-! ### State.endFlight -/

@[simp] theorem State.endFlight_tb (s : State) (t : Nat) : (s.endFlight t).tb = s.tb := rfl
@[simp] theorem State.endFlight_pkg (s : State) (t : Nat) : (s.endFlight t).pkg = s.pkg := rfl
@[simp] theorem State.endFlight_mem (s : State) (t : Nat) : (s.endFlight t).mem = s.mem := rfl
@[simp] theorem State.endFlight_memBad (s : State) (t : Nat) : (s.endFlight t).memBad = s.memBad := rfl
@[simp] theorem State.endFlight_cores (s : State) (t : Nat) : (s.endFlight t).cores = s.cores := rfl
@[simp] theorem State.endFlight_dies (s : State) (t : Nat) : (s.endFlight t).dies = s.dies := rfl
@[simp] theorem State.endFlight_swaps (s : State) (t : Nat) : (s.endFlight t).swaps = s.swaps := rfl
@[simp] theorem State.endFlight_acqs (s : State) (t : Nat) : (s.endFlight t).acqs = s.acqs := rfl
@[simp] theorem State.endFlight_msgs (s : State) (t : Nat) : (s.endFlight t).msgs = s.msgs := rfl
@[simp] theorem State.endFlight_bookTags (s : State) (t : Nat) : (s.endFlight t).bookTags = s.bookTags := rfl
@[simp] theorem State.endFlight_out (s : State) (t : Nat) : (s.endFlight t).out = s.out := rfl
@[simp] theorem State.endFlight_selfDue (s : State) (t : Nat) : (s.endFlight t).selfDue = s.selfDue := rfl
@[simp] theorem State.endFlight_outDue (s : State) (t : Nat) : (s.endFlight t).outDue = s.outDue := rfl
@[simp] theorem State.endFlight_bars (s : State) (t : Nat) : (s.endFlight t).bars = s.bars := rfl
@[simp] theorem State.endFlight_waves (s : State) (t : Nat) : (s.endFlight t).waves = s.waves := rfl
@[simp] theorem State.endFlight_sluices (s : State) (t : Nat) : (s.endFlight t).sluices = s.sluices := rfl
@[simp] theorem State.endFlight_podCtrs (s : State) (t : Nat) : (s.endFlight t).podCtrs = s.podCtrs := rfl
@[simp] theorem State.endFlight_podRoot (s : State) (t : Nat) : (s.endFlight t).podRoot = s.podRoot := rfl
@[simp] theorem State.endFlight_podGrp (s : State) (t : Nat) : (s.endFlight t).podGrp = s.podGrp := rfl
@[simp] theorem State.endFlight_podN (s : State) (t : Nat) : (s.endFlight t).podN = s.podN := rfl
@[simp] theorem State.endFlight_lqs (s : State) (t : Nat) : (s.endFlight t).lqs = s.lqs := rfl
@[simp] theorem State.endFlight_lastServed (s : State) (t : Nat) : (s.endFlight t).lastServed = s.lastServed := rfl
@[simp] theorem State.endFlight_jobs (s : State) (t : Nat) : (s.endFlight t).jobs = s.jobs := rfl
@[simp] theorem State.endFlight_jobCtr (s : State) (t : Nat) : (s.endFlight t).jobCtr = s.jobCtr := rfl
@[simp] theorem State.endFlight_roots (s : State) (t : Nat) : (s.endFlight t).roots = s.roots := rfl
@[simp] theorem State.endFlight_saved (s : State) (t : Nat) : (s.endFlight t).saved = s.saved := rfl
@[simp] theorem State.endFlight_reserved (s : State) (t : Nat) : (s.endFlight t).reserved = s.reserved := rfl
@[simp] theorem State.endFlight_poolBase (s : State) (t : Nat) : (s.endFlight t).poolBase = s.poolBase := rfl
@[simp] theorem State.endFlight_poolRoom (s : State) (t : Nat) : (s.endFlight t).poolRoom = s.poolRoom := rfl
@[simp] theorem State.endFlight_saveAddr (s : State) (t : Nat) : (s.endFlight t).saveAddr = s.saveAddr := rfl
@[simp] theorem State.endFlight_saveArea (s : State) (t : Nat) : (s.endFlight t).saveArea = s.saveArea := rfl
@[simp] theorem State.endFlight_pending (s : State) (t : Nat) : (s.endFlight t).pending = s.pending := rfl
@[simp] theorem State.endFlight_ports (s : State) (t : Nat) : (s.endFlight t).ports = s.ports := rfl
@[simp] theorem State.endFlight_routes (s : State) (t : Nat) : (s.endFlight t).routes = s.routes := rfl
@[simp] theorem State.endFlight_rtmo (s : State) (t : Nat) : (s.endFlight t).rtmo = s.rtmo := rfl
@[simp] theorem State.endFlight_ftmo (s : State) (t : Nat) : (s.endFlight t).ftmo = s.ftmo := rfl
@[simp] theorem State.endFlight_acktmo (s : State) (t : Nat) : (s.endFlight t).acktmo = s.acktmo := rfl
@[simp] theorem State.endFlight_hmStby (s : State) (t : Nat) : (s.endFlight t).hmStby = s.hmStby := rfl
@[simp] theorem State.endFlight_hmPrim (s : State) (t : Nat) : (s.endFlight t).hmPrim = s.hmPrim := rfl
@[simp] theorem State.endFlight_hmGrp (s : State) (t : Nat) : (s.endFlight t).hmGrp = s.hmGrp := rfl
@[simp] theorem State.endFlight_noStby (s : State) (t : Nat) : (s.endFlight t).noStby = s.noStby := rfl
@[simp] theorem State.endFlight_rcvd (s : State) (t : Nat) : (s.endFlight t).rcvd = s.rcvd := rfl
@[simp] theorem State.endFlight_fenceSrc (s : State) (t : Nat) : (s.endFlight t).fenceSrc = s.fenceSrc := rfl
@[simp] theorem State.endFlight_fenceDst (s : State) (t : Nat) : (s.endFlight t).fenceDst = s.fenceDst := rfl
@[simp] theorem State.endFlight_posts (s : State) (t : Nat) : (s.endFlight t).posts = s.posts := rfl
@[simp] theorem State.endFlight_hmRounds (s : State) (t : Nat) : (s.endFlight t).hmRounds = s.hmRounds := rfl
@[simp] theorem State.endFlight_hmXid (s : State) (t : Nat) : (s.endFlight t).hmXid = s.hmXid := rfl
@[simp] theorem State.endFlight_myRounds (s : State) (t : Nat) : (s.endFlight t).myRounds = s.myRounds := rfl
@[simp] theorem State.endFlight_results (s : State) (t : Nat) : (s.endFlight t).results = s.results := rfl
@[simp] theorem State.endFlight_copies (s : State) (t : Nat) : (s.endFlight t).copies = s.copies := rfl
@[simp] theorem State.endFlight_xwaits (s : State) (t : Nat) : (s.endFlight t).xwaits = s.xwaits := rfl
@[simp] theorem State.endFlight_hbSent (s : State) (t : Nat) : (s.endFlight t).hbSent = s.hbSent := rfl
@[simp] theorem State.endFlight_hbSeen (s : State) (t : Nat) : (s.endFlight t).hbSeen = s.hbSeen := rfl
@[simp] theorem State.endFlight_trip1 (s : State) (t : Nat) : (s.endFlight t).trip1 = s.trip1 := rfl
@[simp] theorem State.endFlight_trip2 (s : State) (t : Nat) : (s.endFlight t).trip2 = s.trip2 := rfl
@[simp] theorem State.endFlight_halted (s : State) (t : Nat) : (s.endFlight t).halted = s.halted := rfl
@[simp] theorem State.endFlight_powerOff (s : State) (t : Nat) : (s.endFlight t).powerOff = s.powerOff := rfl
@[simp] theorem State.endFlight_verified (s : State) (t : Nat) : (s.endFlight t).verified = s.verified := rfl
@[simp] theorem State.endFlight_bootFailed (s : State) (t : Nat) : (s.endFlight t).bootFailed = s.bootFailed := rfl
@[simp] theorem State.endFlight_restored (s : State) (t : Nat) : (s.endFlight t).restored = s.restored := rfl
@[simp] theorem State.endFlight_measure (s : State) (t : Nat) : (s.endFlight t).measure = s.measure := rfl
@[simp] theorem State.endFlight_wrapKey (s : State) (t : Nat) : (s.endFlight t).wrapKey = s.wrapKey := rfl
@[simp] theorem State.endFlight_alarm (s : State) (t : Nat) : (s.endFlight t).alarm = s.alarm := rfl
@[simp] theorem State.endFlight_notes (s : State) (t : Nat) : (s.endFlight t).notes = s.notes := rfl
@[simp] theorem State.endFlight_owed (s : State) (t : Nat) : (s.endFlight t).owed = s.owed := rfl
@[simp] theorem State.endFlight_focusCore (s : State) (t : Nat) : (s.endFlight t).focusCore = s.focusCore := rfl
@[simp] theorem State.endFlight_focusFw (s : State) (t : Nat) : (s.endFlight t).focusFw = s.focusFw := rfl
@[simp] theorem State.endFlight_word (s : State) (t : Nat) : (s.endFlight t).word = s.word := rfl
@[simp] theorem State.endFlight_agenda (s : State) (t : Nat) : (s.endFlight t).agenda = s.agenda := rfl
@[simp] theorem State.endFlight_issuedAt (s : State) (t : Nat) : (s.endFlight t).issuedAt = s.issuedAt := rfl
@[simp] theorem State.endFlight_free (s : State) (t : Nat) : (s.endFlight t).free = s.free := rfl
@[simp] theorem State.endFlight_nextTag (s : State) (t : Nat) : (s.endFlight t).nextTag = s.nextTag := rfl

/-! ### State.tell -/

@[simp] theorem State.tell_tb (s : State) (n : Note) : (s.tell n).tb = s.tb := rfl
@[simp] theorem State.tell_pkg (s : State) (n : Note) : (s.tell n).pkg = s.pkg := rfl
@[simp] theorem State.tell_mem (s : State) (n : Note) : (s.tell n).mem = s.mem := rfl
@[simp] theorem State.tell_memBad (s : State) (n : Note) : (s.tell n).memBad = s.memBad := rfl
@[simp] theorem State.tell_cores (s : State) (n : Note) : (s.tell n).cores = s.cores := rfl
@[simp] theorem State.tell_dies (s : State) (n : Note) : (s.tell n).dies = s.dies := rfl
@[simp] theorem State.tell_flights (s : State) (n : Note) : (s.tell n).flights = s.flights := rfl
@[simp] theorem State.tell_swaps (s : State) (n : Note) : (s.tell n).swaps = s.swaps := rfl
@[simp] theorem State.tell_acqs (s : State) (n : Note) : (s.tell n).acqs = s.acqs := rfl
@[simp] theorem State.tell_msgs (s : State) (n : Note) : (s.tell n).msgs = s.msgs := rfl
@[simp] theorem State.tell_bookTags (s : State) (n : Note) : (s.tell n).bookTags = s.bookTags := rfl
@[simp] theorem State.tell_out (s : State) (n : Note) : (s.tell n).out = s.out := rfl
@[simp] theorem State.tell_selfDue (s : State) (n : Note) : (s.tell n).selfDue = s.selfDue := rfl
@[simp] theorem State.tell_outDue (s : State) (n : Note) : (s.tell n).outDue = s.outDue := rfl
@[simp] theorem State.tell_bars (s : State) (n : Note) : (s.tell n).bars = s.bars := rfl
@[simp] theorem State.tell_waves (s : State) (n : Note) : (s.tell n).waves = s.waves := rfl
@[simp] theorem State.tell_sluices (s : State) (n : Note) : (s.tell n).sluices = s.sluices := rfl
@[simp] theorem State.tell_podCtrs (s : State) (n : Note) : (s.tell n).podCtrs = s.podCtrs := rfl
@[simp] theorem State.tell_podRoot (s : State) (n : Note) : (s.tell n).podRoot = s.podRoot := rfl
@[simp] theorem State.tell_podGrp (s : State) (n : Note) : (s.tell n).podGrp = s.podGrp := rfl
@[simp] theorem State.tell_podN (s : State) (n : Note) : (s.tell n).podN = s.podN := rfl
@[simp] theorem State.tell_lqs (s : State) (n : Note) : (s.tell n).lqs = s.lqs := rfl
@[simp] theorem State.tell_lastServed (s : State) (n : Note) : (s.tell n).lastServed = s.lastServed := rfl
@[simp] theorem State.tell_jobs (s : State) (n : Note) : (s.tell n).jobs = s.jobs := rfl
@[simp] theorem State.tell_jobCtr (s : State) (n : Note) : (s.tell n).jobCtr = s.jobCtr := rfl
@[simp] theorem State.tell_roots (s : State) (n : Note) : (s.tell n).roots = s.roots := rfl
@[simp] theorem State.tell_saved (s : State) (n : Note) : (s.tell n).saved = s.saved := rfl
@[simp] theorem State.tell_reserved (s : State) (n : Note) : (s.tell n).reserved = s.reserved := rfl
@[simp] theorem State.tell_poolBase (s : State) (n : Note) : (s.tell n).poolBase = s.poolBase := rfl
@[simp] theorem State.tell_poolRoom (s : State) (n : Note) : (s.tell n).poolRoom = s.poolRoom := rfl
@[simp] theorem State.tell_saveAddr (s : State) (n : Note) : (s.tell n).saveAddr = s.saveAddr := rfl
@[simp] theorem State.tell_saveArea (s : State) (n : Note) : (s.tell n).saveArea = s.saveArea := rfl
@[simp] theorem State.tell_pending (s : State) (n : Note) : (s.tell n).pending = s.pending := rfl
@[simp] theorem State.tell_ports (s : State) (n : Note) : (s.tell n).ports = s.ports := rfl
@[simp] theorem State.tell_routes (s : State) (n : Note) : (s.tell n).routes = s.routes := rfl
@[simp] theorem State.tell_rtmo (s : State) (n : Note) : (s.tell n).rtmo = s.rtmo := rfl
@[simp] theorem State.tell_ftmo (s : State) (n : Note) : (s.tell n).ftmo = s.ftmo := rfl
@[simp] theorem State.tell_acktmo (s : State) (n : Note) : (s.tell n).acktmo = s.acktmo := rfl
@[simp] theorem State.tell_hmStby (s : State) (n : Note) : (s.tell n).hmStby = s.hmStby := rfl
@[simp] theorem State.tell_hmPrim (s : State) (n : Note) : (s.tell n).hmPrim = s.hmPrim := rfl
@[simp] theorem State.tell_hmGrp (s : State) (n : Note) : (s.tell n).hmGrp = s.hmGrp := rfl
@[simp] theorem State.tell_noStby (s : State) (n : Note) : (s.tell n).noStby = s.noStby := rfl
@[simp] theorem State.tell_rcvd (s : State) (n : Note) : (s.tell n).rcvd = s.rcvd := rfl
@[simp] theorem State.tell_fenceSrc (s : State) (n : Note) : (s.tell n).fenceSrc = s.fenceSrc := rfl
@[simp] theorem State.tell_fenceDst (s : State) (n : Note) : (s.tell n).fenceDst = s.fenceDst := rfl
@[simp] theorem State.tell_posts (s : State) (n : Note) : (s.tell n).posts = s.posts := rfl
@[simp] theorem State.tell_hmRounds (s : State) (n : Note) : (s.tell n).hmRounds = s.hmRounds := rfl
@[simp] theorem State.tell_hmXid (s : State) (n : Note) : (s.tell n).hmXid = s.hmXid := rfl
@[simp] theorem State.tell_myRounds (s : State) (n : Note) : (s.tell n).myRounds = s.myRounds := rfl
@[simp] theorem State.tell_results (s : State) (n : Note) : (s.tell n).results = s.results := rfl
@[simp] theorem State.tell_copies (s : State) (n : Note) : (s.tell n).copies = s.copies := rfl
@[simp] theorem State.tell_xwaits (s : State) (n : Note) : (s.tell n).xwaits = s.xwaits := rfl
@[simp] theorem State.tell_hbSent (s : State) (n : Note) : (s.tell n).hbSent = s.hbSent := rfl
@[simp] theorem State.tell_hbSeen (s : State) (n : Note) : (s.tell n).hbSeen = s.hbSeen := rfl
@[simp] theorem State.tell_trip1 (s : State) (n : Note) : (s.tell n).trip1 = s.trip1 := rfl
@[simp] theorem State.tell_trip2 (s : State) (n : Note) : (s.tell n).trip2 = s.trip2 := rfl
@[simp] theorem State.tell_halted (s : State) (n : Note) : (s.tell n).halted = s.halted := rfl
@[simp] theorem State.tell_powerOff (s : State) (n : Note) : (s.tell n).powerOff = s.powerOff := rfl
@[simp] theorem State.tell_verified (s : State) (n : Note) : (s.tell n).verified = s.verified := rfl
@[simp] theorem State.tell_bootFailed (s : State) (n : Note) : (s.tell n).bootFailed = s.bootFailed := rfl
@[simp] theorem State.tell_restored (s : State) (n : Note) : (s.tell n).restored = s.restored := rfl
@[simp] theorem State.tell_measure (s : State) (n : Note) : (s.tell n).measure = s.measure := rfl
@[simp] theorem State.tell_wrapKey (s : State) (n : Note) : (s.tell n).wrapKey = s.wrapKey := rfl
@[simp] theorem State.tell_alarm (s : State) (n : Note) : (s.tell n).alarm = s.alarm := rfl
@[simp] theorem State.tell_owed (s : State) (n : Note) : (s.tell n).owed = s.owed := rfl
@[simp] theorem State.tell_focusCore (s : State) (n : Note) : (s.tell n).focusCore = s.focusCore := rfl
@[simp] theorem State.tell_focusFw (s : State) (n : Note) : (s.tell n).focusFw = s.focusFw := rfl
@[simp] theorem State.tell_word (s : State) (n : Note) : (s.tell n).word = s.word := rfl
@[simp] theorem State.tell_agenda (s : State) (n : Note) : (s.tell n).agenda = s.agenda := rfl
@[simp] theorem State.tell_issuedAt (s : State) (n : Note) : (s.tell n).issuedAt = s.issuedAt := rfl
@[simp] theorem State.tell_free (s : State) (n : Note) : (s.tell n).free = s.free := rfl
@[simp] theorem State.tell_nextTag (s : State) (n : Note) : (s.tell n).nextTag = s.nextTag := rfl

/-! ### State.send -/

@[simp] theorem State.send_tb (s : State) (p : Packet) : (s.send p).tb = s.tb := by unfold State.send; split <;> (try split) <;> rfl
@[simp] theorem State.send_pkg (s : State) (p : Packet) : (s.send p).pkg = s.pkg := by unfold State.send; split <;> (try split) <;> rfl
@[simp] theorem State.send_mem (s : State) (p : Packet) : (s.send p).mem = s.mem := by unfold State.send; split <;> (try split) <;> rfl
@[simp] theorem State.send_memBad (s : State) (p : Packet) : (s.send p).memBad = s.memBad := by unfold State.send; split <;> (try split) <;> rfl
@[simp] theorem State.send_cores (s : State) (p : Packet) : (s.send p).cores = s.cores := by unfold State.send; split <;> (try split) <;> rfl
@[simp] theorem State.send_dies (s : State) (p : Packet) : (s.send p).dies = s.dies := by unfold State.send; split <;> (try split) <;> rfl
@[simp] theorem State.send_flights (s : State) (p : Packet) : (s.send p).flights = s.flights := by unfold State.send; split <;> (try split) <;> rfl
@[simp] theorem State.send_swaps (s : State) (p : Packet) : (s.send p).swaps = s.swaps := by unfold State.send; split <;> (try split) <;> rfl
@[simp] theorem State.send_acqs (s : State) (p : Packet) : (s.send p).acqs = s.acqs := by unfold State.send; split <;> (try split) <;> rfl
@[simp] theorem State.send_msgs (s : State) (p : Packet) : (s.send p).msgs = s.msgs := by unfold State.send; split <;> (try split) <;> rfl
@[simp] theorem State.send_bookTags (s : State) (p : Packet) : (s.send p).bookTags = s.bookTags := by unfold State.send; split <;> (try split) <;> rfl
@[simp] theorem State.send_outDue (s : State) (p : Packet) : (s.send p).outDue = s.outDue := by unfold State.send; split <;> (try split) <;> rfl
@[simp] theorem State.send_bars (s : State) (p : Packet) : (s.send p).bars = s.bars := by unfold State.send; split <;> (try split) <;> rfl
@[simp] theorem State.send_waves (s : State) (p : Packet) : (s.send p).waves = s.waves := by unfold State.send; split <;> (try split) <;> rfl
@[simp] theorem State.send_sluices (s : State) (p : Packet) : (s.send p).sluices = s.sluices := by unfold State.send; split <;> (try split) <;> rfl
@[simp] theorem State.send_podCtrs (s : State) (p : Packet) : (s.send p).podCtrs = s.podCtrs := by unfold State.send; split <;> (try split) <;> rfl
@[simp] theorem State.send_podRoot (s : State) (p : Packet) : (s.send p).podRoot = s.podRoot := by unfold State.send; split <;> (try split) <;> rfl
@[simp] theorem State.send_podGrp (s : State) (p : Packet) : (s.send p).podGrp = s.podGrp := by unfold State.send; split <;> (try split) <;> rfl
@[simp] theorem State.send_podN (s : State) (p : Packet) : (s.send p).podN = s.podN := by unfold State.send; split <;> (try split) <;> rfl
@[simp] theorem State.send_lqs (s : State) (p : Packet) : (s.send p).lqs = s.lqs := by unfold State.send; split <;> (try split) <;> rfl
@[simp] theorem State.send_lastServed (s : State) (p : Packet) : (s.send p).lastServed = s.lastServed := by unfold State.send; split <;> (try split) <;> rfl
@[simp] theorem State.send_jobs (s : State) (p : Packet) : (s.send p).jobs = s.jobs := by unfold State.send; split <;> (try split) <;> rfl
@[simp] theorem State.send_jobCtr (s : State) (p : Packet) : (s.send p).jobCtr = s.jobCtr := by unfold State.send; split <;> (try split) <;> rfl
@[simp] theorem State.send_roots (s : State) (p : Packet) : (s.send p).roots = s.roots := by unfold State.send; split <;> (try split) <;> rfl
@[simp] theorem State.send_saved (s : State) (p : Packet) : (s.send p).saved = s.saved := by unfold State.send; split <;> (try split) <;> rfl
@[simp] theorem State.send_reserved (s : State) (p : Packet) : (s.send p).reserved = s.reserved := by unfold State.send; split <;> (try split) <;> rfl
@[simp] theorem State.send_poolBase (s : State) (p : Packet) : (s.send p).poolBase = s.poolBase := by unfold State.send; split <;> (try split) <;> rfl
@[simp] theorem State.send_poolRoom (s : State) (p : Packet) : (s.send p).poolRoom = s.poolRoom := by unfold State.send; split <;> (try split) <;> rfl
@[simp] theorem State.send_saveAddr (s : State) (p : Packet) : (s.send p).saveAddr = s.saveAddr := by unfold State.send; split <;> (try split) <;> rfl
@[simp] theorem State.send_saveArea (s : State) (p : Packet) : (s.send p).saveArea = s.saveArea := by unfold State.send; split <;> (try split) <;> rfl
@[simp] theorem State.send_pending (s : State) (p : Packet) : (s.send p).pending = s.pending := by unfold State.send; split <;> (try split) <;> rfl
@[simp] theorem State.send_ports (s : State) (p : Packet) : (s.send p).ports = s.ports := by unfold State.send; split <;> (try split) <;> rfl
@[simp] theorem State.send_routes (s : State) (p : Packet) : (s.send p).routes = s.routes := by unfold State.send; split <;> (try split) <;> rfl
@[simp] theorem State.send_rtmo (s : State) (p : Packet) : (s.send p).rtmo = s.rtmo := by unfold State.send; split <;> (try split) <;> rfl
@[simp] theorem State.send_ftmo (s : State) (p : Packet) : (s.send p).ftmo = s.ftmo := by unfold State.send; split <;> (try split) <;> rfl
@[simp] theorem State.send_acktmo (s : State) (p : Packet) : (s.send p).acktmo = s.acktmo := by unfold State.send; split <;> (try split) <;> rfl
@[simp] theorem State.send_hmStby (s : State) (p : Packet) : (s.send p).hmStby = s.hmStby := by unfold State.send; split <;> (try split) <;> rfl
@[simp] theorem State.send_hmPrim (s : State) (p : Packet) : (s.send p).hmPrim = s.hmPrim := by unfold State.send; split <;> (try split) <;> rfl
@[simp] theorem State.send_hmGrp (s : State) (p : Packet) : (s.send p).hmGrp = s.hmGrp := by unfold State.send; split <;> (try split) <;> rfl
@[simp] theorem State.send_noStby (s : State) (p : Packet) : (s.send p).noStby = s.noStby := by unfold State.send; split <;> (try split) <;> rfl
@[simp] theorem State.send_rcvd (s : State) (p : Packet) : (s.send p).rcvd = s.rcvd := by unfold State.send; split <;> (try split) <;> rfl
@[simp] theorem State.send_fenceSrc (s : State) (p : Packet) : (s.send p).fenceSrc = s.fenceSrc := by unfold State.send; split <;> (try split) <;> rfl
@[simp] theorem State.send_fenceDst (s : State) (p : Packet) : (s.send p).fenceDst = s.fenceDst := by unfold State.send; split <;> (try split) <;> rfl
@[simp] theorem State.send_posts (s : State) (p : Packet) : (s.send p).posts = s.posts := by unfold State.send; split <;> (try split) <;> rfl
@[simp] theorem State.send_hmRounds (s : State) (p : Packet) : (s.send p).hmRounds = s.hmRounds := by unfold State.send; split <;> (try split) <;> rfl
@[simp] theorem State.send_hmXid (s : State) (p : Packet) : (s.send p).hmXid = s.hmXid := by unfold State.send; split <;> (try split) <;> rfl
@[simp] theorem State.send_myRounds (s : State) (p : Packet) : (s.send p).myRounds = s.myRounds := by unfold State.send; split <;> (try split) <;> rfl
@[simp] theorem State.send_results (s : State) (p : Packet) : (s.send p).results = s.results := by unfold State.send; split <;> (try split) <;> rfl
@[simp] theorem State.send_copies (s : State) (p : Packet) : (s.send p).copies = s.copies := by unfold State.send; split <;> (try split) <;> rfl
@[simp] theorem State.send_xwaits (s : State) (p : Packet) : (s.send p).xwaits = s.xwaits := by unfold State.send; split <;> (try split) <;> rfl
@[simp] theorem State.send_hbSent (s : State) (p : Packet) : (s.send p).hbSent = s.hbSent := by unfold State.send; split <;> (try split) <;> rfl
@[simp] theorem State.send_hbSeen (s : State) (p : Packet) : (s.send p).hbSeen = s.hbSeen := by unfold State.send; split <;> (try split) <;> rfl
@[simp] theorem State.send_trip1 (s : State) (p : Packet) : (s.send p).trip1 = s.trip1 := by unfold State.send; split <;> (try split) <;> rfl
@[simp] theorem State.send_trip2 (s : State) (p : Packet) : (s.send p).trip2 = s.trip2 := by unfold State.send; split <;> (try split) <;> rfl
@[simp] theorem State.send_halted (s : State) (p : Packet) : (s.send p).halted = s.halted := by unfold State.send; split <;> (try split) <;> rfl
@[simp] theorem State.send_powerOff (s : State) (p : Packet) : (s.send p).powerOff = s.powerOff := by unfold State.send; split <;> (try split) <;> rfl
@[simp] theorem State.send_verified (s : State) (p : Packet) : (s.send p).verified = s.verified := by unfold State.send; split <;> (try split) <;> rfl
@[simp] theorem State.send_bootFailed (s : State) (p : Packet) : (s.send p).bootFailed = s.bootFailed := by unfold State.send; split <;> (try split) <;> rfl
@[simp] theorem State.send_restored (s : State) (p : Packet) : (s.send p).restored = s.restored := by unfold State.send; split <;> (try split) <;> rfl
@[simp] theorem State.send_measure (s : State) (p : Packet) : (s.send p).measure = s.measure := by unfold State.send; split <;> (try split) <;> rfl
@[simp] theorem State.send_wrapKey (s : State) (p : Packet) : (s.send p).wrapKey = s.wrapKey := by unfold State.send; split <;> (try split) <;> rfl
@[simp] theorem State.send_alarm (s : State) (p : Packet) : (s.send p).alarm = s.alarm := by unfold State.send; split <;> (try split) <;> rfl
@[simp] theorem State.send_notes (s : State) (p : Packet) : (s.send p).notes = s.notes := by unfold State.send; split <;> (try split) <;> rfl
@[simp] theorem State.send_owed (s : State) (p : Packet) : (s.send p).owed = s.owed := by unfold State.send; split <;> (try split) <;> rfl
@[simp] theorem State.send_focusCore (s : State) (p : Packet) : (s.send p).focusCore = s.focusCore := by unfold State.send; split <;> (try split) <;> rfl
@[simp] theorem State.send_focusFw (s : State) (p : Packet) : (s.send p).focusFw = s.focusFw := by unfold State.send; split <;> (try split) <;> rfl
@[simp] theorem State.send_word (s : State) (p : Packet) : (s.send p).word = s.word := by unfold State.send; split <;> (try split) <;> rfl
@[simp] theorem State.send_agenda (s : State) (p : Packet) : (s.send p).agenda = s.agenda := by unfold State.send; split <;> (try split) <;> rfl
@[simp] theorem State.send_issuedAt (s : State) (p : Packet) : (s.send p).issuedAt = s.issuedAt := by unfold State.send; split <;> (try split) <;> rfl
@[simp] theorem State.send_free (s : State) (p : Packet) : (s.send p).free = s.free := by unfold State.send; split <;> (try split) <;> rfl
@[simp] theorem State.send_nextTag (s : State) (p : Packet) : (s.send p).nextTag = s.nextTag := by unfold State.send; split <;> (try split) <;> rfl

/-! ### Core -/

@[simp] theorem Core.setCtx_run (c : Core) (b : Bool) (x : Ctx) : (c.setCtx b x).run = c.run := by cases b <;> rfl
@[simp] theorem Core.setCtx_ctxuIdx (c : Core) (b : Bool) (x : Ctx) : (c.setCtx b x).ctxuIdx = c.ctxuIdx := by cases b <;> rfl
@[simp] theorem Core.setCtx_dead (c : Core) (b : Bool) (x : Ctx) : (c.setCtx b x).dead = c.dead := by cases b <;> rfl
@[simp] theorem Core.setCtx_part_ (c : Core) (b : Bool) (x : Ctx) : (c.setCtx b x).part_ = c.part_ := by cases b <;> rfl
@[simp] theorem Core.setCtx_est (c : Core) (b : Bool) (x : Ctx) : (c.setCtx b x).est = c.est := by cases b <;> rfl
@[simp] theorem Core.setCtx_estAt (c : Core) (b : Bool) (x : Ctx) : (c.setCtx b x).estAt = c.estAt := by cases b <;> rfl
@[simp] theorem Core.setCtx_asn (c : Core) (b : Bool) (x : Ctx) : (c.setCtx b x).asn = c.asn := by cases b <;> rfl
@[simp] theorem Core.setCtx_root (c : Core) (b : Bool) (x : Ctx) : (c.setCtx b x).root = c.root := by cases b <;> rfl
@[simp] theorem Core.setCtx_iva (c : Core) (b : Bool) (x : Ctx) : (c.setCtx b x).iva = c.iva := by cases b <;> rfl
@[simp] theorem Core.setCtx_tlb (c : Core) (b : Bool) (x : Ctx) : (c.setCtx b x).tlb = c.tlb := by cases b <;> rfl
@[simp] theorem Core.setCtx_icache (c : Core) (b : Bool) (x : Ctx) : (c.setCtx b x).icache = c.icache := by cases b <;> rfl
@[simp] theorem Core.setCtx_dcache (c : Core) (b : Bool) (x : Ctx) : (c.setCtx b x).dcache = c.dcache := by cases b <;> rfl
@[simp] theorem Core.setCtx_sram (c : Core) (b : Bool) (x : Ctx) : (c.setCtx b x).sram = c.sram := by cases b <;> rfl
@[simp] theorem Core.setCtx_bad (c : Core) (b : Bool) (x : Ctx) : (c.setCtx b x).bad = c.bad := by cases b <;> rfl
@[simp] theorem Core.setCtx_omBad (c : Core) (b : Bool) (x : Ctx) : (c.setCtx b x).omBad = c.omBad := by cases b <;> rfl
@[simp] theorem Core.setCtx_masks (c : Core) (b : Bool) (x : Ctx) : (c.setCtx b x).masks = c.masks := by cases b <;> rfl
@[simp] theorem Core.setCtx_maskBad (c : Core) (b : Bool) (x : Ctx) : (c.setCtx b x).maskBad = c.maskBad := by cases b <;> rfl
@[simp] theorem Core.setCtx_om (c : Core) (b : Bool) (x : Ctx) : (c.setCtx b x).om = c.om := by cases b <;> rfl
@[simp] theorem Core.setCtx_omSide (c : Core) (b : Bool) (x : Ctx) : (c.setCtx b x).omSide = c.omSide := by cases b <;> rfl
@[simp] theorem Core.setCtx_omSt (c : Core) (b : Bool) (x : Ctx) : (c.setCtx b x).omSt = c.omSt := by cases b <;> rfl
@[simp] theorem Core.setCtx_plane (c : Core) (b : Bool) (x : Ctx) : (c.setCtx b x).plane = c.plane := by cases b <;> rfl
@[simp] theorem Core.setCtx_wv (c : Core) (b : Bool) (x : Ctx) : (c.setCtx b x).wv = c.wv := by cases b <;> rfl
@[simp] theorem Core.setCtx_wfmt (c : Core) (b : Bool) (x : Ctx) : (c.setCtx b x).wfmt = c.wfmt := by cases b <;> rfl
@[simp] theorem Core.setCtx_kw (c : Core) (b : Bool) (x : Ctx) : (c.setCtx b x).kw = c.kw := by cases b <;> rfl
@[simp] theorem Core.setCtx_cadence (c : Core) (b : Bool) (x : Ctx) : (c.setCtx b x).cadence = c.cadence := by cases b <;> rfl
@[simp] theorem Core.setCtx_cadHeld (c : Core) (b : Bool) (x : Ctx) : (c.setCtx b x).cadHeld = c.cadHeld := by cases b <;> rfl
@[simp] theorem Core.setCtx_ramp (c : Core) (b : Bool) (x : Ctx) : (c.setCtx b x).ramp = c.ramp := by cases b <;> rfl
@[simp] theorem Core.setCtx_rampDown (c : Core) (b : Bool) (x : Ctx) : (c.setCtx b x).rampDown = c.rampDown := by cases b <;> rfl
@[simp] theorem Core.setCtx_rampAt (c : Core) (b : Bool) (x : Ctx) : (c.setCtx b x).rampAt = c.rampAt := by cases b <;> rfl
@[simp] theorem Core.setCtx_rampRows (c : Core) (b : Bool) (x : Ctx) : (c.setCtx b x).rampRows = c.rampRows := by cases b <;> rfl
@[simp] theorem Core.setCtx_rampTbl (c : Core) (b : Bool) (x : Ctx) : (c.setCtx b x).rampTbl = c.rampTbl := by cases b <;> rfl
@[simp] theorem Core.setCtx_rows (c : Core) (b : Bool) (x : Ctx) : (c.setCtx b x).rows = c.rows := by cases b <;> rfl
@[simp] theorem Core.setCtx_partEnd (c : Core) (b : Bool) (x : Ctx) : (c.setCtx b x).partEnd = c.partEnd := by cases b <;> rfl
@[simp] theorem Core.setCtx_frows (c : Core) (b : Bool) (x : Ctx) : (c.setCtx b x).frows = c.frows := by cases b <;> rfl
@[simp] theorem Core.setCtx_fuse (c : Core) (b : Bool) (x : Ctx) : (c.setCtx b x).fuse = c.fuse := by cases b <;> rfl
@[simp] theorem Core.setCtx_fplane (c : Core) (b : Bool) (x : Ctx) : (c.setCtx b x).fplane = c.fplane := by cases b <;> rfl
@[simp] theorem Core.setCtx_fwv (c : Core) (b : Bool) (x : Ctx) : (c.setCtx b x).fwv = c.fwv := by cases b <;> rfl
@[simp] theorem Core.setCtx_fwfmt (c : Core) (b : Bool) (x : Ctx) : (c.setCtx b x).fwfmt = c.fwfmt := by cases b <;> rfl
@[simp] theorem Core.setCtx_facc (c : Core) (b : Bool) (x : Ctx) : (c.setCtx b x).facc = c.facc := by cases b <;> rfl
@[simp] theorem Core.setCtx_tk (c : Core) (b : Bool) (x : Ctx) : (c.setCtx b x).tk = c.tk := by cases b <;> rfl
@[simp] theorem Core.setCtx_tkWide (c : Core) (b : Bool) (x : Ctx) : (c.setCtx b x).tkWide = c.tkWide := by cases b <;> rfl
@[simp] theorem Core.setCtx_tkWas (c : Core) (b : Bool) (x : Ctx) : (c.setCtx b x).tkWas = c.tkWas := by cases b <;> rfl
@[simp] theorem Core.setCtx_acqSeen (c : Core) (b : Bool) (x : Ctx) : (c.setCtx b x).acqSeen = c.acqSeen := by cases b <;> rfl
@[simp] theorem Core.setCtx_perm (c : Core) (b : Bool) (x : Ctx) : (c.setCtx b x).perm = c.perm := by cases b <;> rfl
@[simp] theorem Core.setCtx_bmap (c : Core) (b : Bool) (x : Ctx) : (c.setCtx b x).bmap = c.bmap := by cases b <;> rfl
@[simp] theorem Core.setCtx_bsel (c : Core) (b : Bool) (x : Ctx) : (c.setCtx b x).bsel = c.bsel := by cases b <;> rfl
@[simp] theorem Core.setCtx_nomerge (c : Core) (b : Bool) (x : Ctx) : (c.setCtx b x).nomerge = c.nomerge := by cases b <;> rfl
@[simp] theorem Core.setCtx_merge (c : Core) (b : Bool) (x : Ctx) : (c.setCtx b x).merge = c.merge := by cases b <;> rfl
@[simp] theorem Core.setCtx_ovfTrap (c : Core) (b : Bool) (x : Ctx) : (c.setCtx b x).ovfTrap = c.ovfTrap := by cases b <;> rfl
@[simp] theorem Core.setCtx_scrBase (c : Core) (b : Bool) (x : Ctx) : (c.setCtx b x).scrBase = c.scrBase := by cases b <;> rfl
@[simp] theorem Core.setCtx_scrSize (c : Core) (b : Bool) (x : Ctx) : (c.setCtx b x).scrSize = c.scrSize := by cases b <;> rfl
@[simp] theorem Core.setCtx_casks (c : Core) (b : Bool) (x : Ctx) : (c.setCtx b x).casks = c.casks := by cases b <;> rfl
@[simp] theorem Core.setCtx_hnds (c : Core) (b : Bool) (x : Ctx) : (c.setCtx b x).hnds = c.hnds := by cases b <;> rfl
@[simp] theorem Core.setCtx_age (c : Core) (b : Bool) (x : Ctx) : (c.setCtx b x).age = c.age := by cases b <;> rfl
@[simp] theorem Core.setCtx_useClock (c : Core) (b : Bool) (x : Ctx) : (c.setCtx b x).useClock = c.useClock := by cases b <;> rfl
@[simp] theorem Core.setCtx_demand (c : Core) (b : Bool) (x : Ctx) : (c.setCtx b x).demand = c.demand := by cases b <;> rfl
@[simp] theorem Core.setCtx_forcing (c : Core) (b : Bool) (x : Ctx) : (c.setCtx b x).forcing = c.forcing := by cases b <;> rfl
@[simp] theorem Core.setCtx_boxDone (c : Core) (b : Bool) (x : Ctx) : (c.setCtx b x).boxDone = c.boxDone := by cases b <;> rfl
@[simp] theorem Core.setCtx_wseq (c : Core) (b : Bool) (x : Ctx) : (c.setCtx b x).wseq = c.wseq := by cases b <;> rfl
@[simp] theorem Core.setCtx_books (c : Core) (b : Bool) (x : Ctx) : (c.setCtx b x).books = c.books := by cases b <;> rfl
@[simp] theorem Core.setCtx_idCtr (c : Core) (b : Bool) (x : Ctx) : (c.setCtx b x).idCtr = c.idCtr := by cases b <;> rfl
@[simp] theorem Core.setCtx_bookOrder (c : Core) (b : Bool) (x : Ctx) : (c.setCtx b x).bookOrder = c.bookOrder := by cases b <;> rfl
@[simp] theorem Core.setCtx_barSel (c : Core) (b : Bool) (x : Ctx) : (c.setCtx b x).barSel = c.barSel := by cases b <;> rfl
@[simp] theorem Core.setCtx_barLast (c : Core) (b : Bool) (x : Ctx) : (c.setCtx b x).barLast = c.barLast := by cases b <;> rfl
@[simp] theorem Core.setCtx_barPend (c : Core) (b : Bool) (x : Ctx) : (c.setCtx b x).barPend = c.barPend := by cases b <;> rfl
@[simp] theorem Core.setCtx_barWant (c : Core) (b : Bool) (x : Ctx) : (c.setCtx b x).barWant = c.barWant := by cases b <;> rfl
@[simp] theorem Core.setCtx_nakCount (c : Core) (b : Bool) (x : Ctx) : (c.setCtx b x).nakCount = c.nakCount := by cases b <;> rfl
@[simp] theorem Core.setCtx_nakLast (c : Core) (b : Bool) (x : Ctx) : (c.setCtx b x).nakLast = c.nakLast := by cases b <;> rfl
@[simp] theorem Core.setCtx_unasked (c : Core) (b : Bool) (x : Ctx) : (c.setCtx b x).unasked = c.unasked := by cases b <;> rfl
@[simp] theorem Core.setCtx_cmm (c : Core) (b : Bool) (x : Ctx) : (c.setCtx b x).cmm = c.cmm := by cases b <;> rfl
@[simp] theorem Core.setCtx_sent (c : Core) (b : Bool) (x : Ctx) : (c.setCtx b x).sent = c.sent := by cases b <;> rfl
@[simp] theorem Core.setCtx_eccCorr (c : Core) (b : Bool) (x : Ctx) : (c.setCtx b x).eccCorr = c.eccCorr := by cases b <;> rfl
@[simp] theorem Core.setCtx_eccUnc (c : Core) (b : Bool) (x : Ctx) : (c.setCtx b x).eccUnc = c.eccUnc := by cases b <;> rfl
@[simp] theorem Core.setCtx_eccUnit (c : Core) (b : Bool) (x : Ctx) : (c.setCtx b x).eccUnit = c.eccUnit := by cases b <;> rfl
@[simp] theorem Core.setCtx_job (c : Core) (b : Bool) (x : Ctx) : (c.setCtx b x).job = c.job := by cases b <;> rfl
@[simp] theorem Core.setCtx_lastJob (c : Core) (b : Bool) (x : Ctx) : (c.setCtx b x).lastJob = c.lastJob := by cases b <;> rfl
@[simp] theorem Core.setCtx_chunk (c : Core) (b : Bool) (x : Ctx) : (c.setCtx b x).chunk = c.chunk := by cases b <;> rfl
@[simp] theorem Core.setCtx_task (c : Core) (b : Bool) (x : Ctx) : (c.setCtx b x).task = c.task := by cases b <;> rfl
@[simp] theorem Core.setCtx_clockStep (c : Core) (b : Bool) (x : Ctx) : (c.setCtx b x).clockStep = c.clockStep := by cases b <;> rfl
@[simp] theorem Core.setCtx_me (c : Core) (b : Bool) (x : Ctx) : (c.setCtx b x).me = c.me := by cases b <;> rfl
@[simp] theorem Core.setCtx_ce (c : Core) (b : Bool) (x : Ctx) : (c.setCtx b x).ce = c.ce := by cases b <;> rfl
@[simp] theorem Core.setCtx_ve (c : Core) (b : Bool) (x : Ctx) : (c.setCtx b x).ve = c.ve := by cases b <;> rfl
@[simp] theorem Core.setCtx_sae (c : Core) (b : Bool) (x : Ctx) : (c.setCtx b x).sae = c.sae := by cases b <;> rfl

@[simp] theorem Core.setEng_user (c : Core) (e : Eng) (x : Engine) : (c.setEng e x).user = c.user := by cases e <;> rfl
@[simp] theorem Core.setEng_firm (c : Core) (e : Eng) (x : Engine) : (c.setEng e x).firm = c.firm := by cases e <;> rfl
@[simp] theorem Core.setEng_run (c : Core) (e : Eng) (x : Engine) : (c.setEng e x).run = c.run := by cases e <;> rfl
@[simp] theorem Core.setEng_ctxuIdx (c : Core) (e : Eng) (x : Engine) : (c.setEng e x).ctxuIdx = c.ctxuIdx := by cases e <;> rfl
@[simp] theorem Core.setEng_dead (c : Core) (e : Eng) (x : Engine) : (c.setEng e x).dead = c.dead := by cases e <;> rfl
@[simp] theorem Core.setEng_part_ (c : Core) (e : Eng) (x : Engine) : (c.setEng e x).part_ = c.part_ := by cases e <;> rfl
@[simp] theorem Core.setEng_est (c : Core) (e : Eng) (x : Engine) : (c.setEng e x).est = c.est := by cases e <;> rfl
@[simp] theorem Core.setEng_estAt (c : Core) (e : Eng) (x : Engine) : (c.setEng e x).estAt = c.estAt := by cases e <;> rfl
@[simp] theorem Core.setEng_asn (c : Core) (e : Eng) (x : Engine) : (c.setEng e x).asn = c.asn := by cases e <;> rfl
@[simp] theorem Core.setEng_root (c : Core) (e : Eng) (x : Engine) : (c.setEng e x).root = c.root := by cases e <;> rfl
@[simp] theorem Core.setEng_iva (c : Core) (e : Eng) (x : Engine) : (c.setEng e x).iva = c.iva := by cases e <;> rfl
@[simp] theorem Core.setEng_tlb (c : Core) (e : Eng) (x : Engine) : (c.setEng e x).tlb = c.tlb := by cases e <;> rfl
@[simp] theorem Core.setEng_icache (c : Core) (e : Eng) (x : Engine) : (c.setEng e x).icache = c.icache := by cases e <;> rfl
@[simp] theorem Core.setEng_dcache (c : Core) (e : Eng) (x : Engine) : (c.setEng e x).dcache = c.dcache := by cases e <;> rfl
@[simp] theorem Core.setEng_sram (c : Core) (e : Eng) (x : Engine) : (c.setEng e x).sram = c.sram := by cases e <;> rfl
@[simp] theorem Core.setEng_bad (c : Core) (e : Eng) (x : Engine) : (c.setEng e x).bad = c.bad := by cases e <;> rfl
@[simp] theorem Core.setEng_omBad (c : Core) (e : Eng) (x : Engine) : (c.setEng e x).omBad = c.omBad := by cases e <;> rfl
@[simp] theorem Core.setEng_masks (c : Core) (e : Eng) (x : Engine) : (c.setEng e x).masks = c.masks := by cases e <;> rfl
@[simp] theorem Core.setEng_maskBad (c : Core) (e : Eng) (x : Engine) : (c.setEng e x).maskBad = c.maskBad := by cases e <;> rfl
@[simp] theorem Core.setEng_om (c : Core) (e : Eng) (x : Engine) : (c.setEng e x).om = c.om := by cases e <;> rfl
@[simp] theorem Core.setEng_omSide (c : Core) (e : Eng) (x : Engine) : (c.setEng e x).omSide = c.omSide := by cases e <;> rfl
@[simp] theorem Core.setEng_omSt (c : Core) (e : Eng) (x : Engine) : (c.setEng e x).omSt = c.omSt := by cases e <;> rfl
@[simp] theorem Core.setEng_plane (c : Core) (e : Eng) (x : Engine) : (c.setEng e x).plane = c.plane := by cases e <;> rfl
@[simp] theorem Core.setEng_wv (c : Core) (e : Eng) (x : Engine) : (c.setEng e x).wv = c.wv := by cases e <;> rfl
@[simp] theorem Core.setEng_wfmt (c : Core) (e : Eng) (x : Engine) : (c.setEng e x).wfmt = c.wfmt := by cases e <;> rfl
@[simp] theorem Core.setEng_kw (c : Core) (e : Eng) (x : Engine) : (c.setEng e x).kw = c.kw := by cases e <;> rfl
@[simp] theorem Core.setEng_cadence (c : Core) (e : Eng) (x : Engine) : (c.setEng e x).cadence = c.cadence := by cases e <;> rfl
@[simp] theorem Core.setEng_cadHeld (c : Core) (e : Eng) (x : Engine) : (c.setEng e x).cadHeld = c.cadHeld := by cases e <;> rfl
@[simp] theorem Core.setEng_ramp (c : Core) (e : Eng) (x : Engine) : (c.setEng e x).ramp = c.ramp := by cases e <;> rfl
@[simp] theorem Core.setEng_rampDown (c : Core) (e : Eng) (x : Engine) : (c.setEng e x).rampDown = c.rampDown := by cases e <;> rfl
@[simp] theorem Core.setEng_rampAt (c : Core) (e : Eng) (x : Engine) : (c.setEng e x).rampAt = c.rampAt := by cases e <;> rfl
@[simp] theorem Core.setEng_rampRows (c : Core) (e : Eng) (x : Engine) : (c.setEng e x).rampRows = c.rampRows := by cases e <;> rfl
@[simp] theorem Core.setEng_rampTbl (c : Core) (e : Eng) (x : Engine) : (c.setEng e x).rampTbl = c.rampTbl := by cases e <;> rfl
@[simp] theorem Core.setEng_rows (c : Core) (e : Eng) (x : Engine) : (c.setEng e x).rows = c.rows := by cases e <;> rfl
@[simp] theorem Core.setEng_partEnd (c : Core) (e : Eng) (x : Engine) : (c.setEng e x).partEnd = c.partEnd := by cases e <;> rfl
@[simp] theorem Core.setEng_frows (c : Core) (e : Eng) (x : Engine) : (c.setEng e x).frows = c.frows := by cases e <;> rfl
@[simp] theorem Core.setEng_fuse (c : Core) (e : Eng) (x : Engine) : (c.setEng e x).fuse = c.fuse := by cases e <;> rfl
@[simp] theorem Core.setEng_fplane (c : Core) (e : Eng) (x : Engine) : (c.setEng e x).fplane = c.fplane := by cases e <;> rfl
@[simp] theorem Core.setEng_fwv (c : Core) (e : Eng) (x : Engine) : (c.setEng e x).fwv = c.fwv := by cases e <;> rfl
@[simp] theorem Core.setEng_fwfmt (c : Core) (e : Eng) (x : Engine) : (c.setEng e x).fwfmt = c.fwfmt := by cases e <;> rfl
@[simp] theorem Core.setEng_facc (c : Core) (e : Eng) (x : Engine) : (c.setEng e x).facc = c.facc := by cases e <;> rfl
@[simp] theorem Core.setEng_tk (c : Core) (e : Eng) (x : Engine) : (c.setEng e x).tk = c.tk := by cases e <;> rfl
@[simp] theorem Core.setEng_tkWide (c : Core) (e : Eng) (x : Engine) : (c.setEng e x).tkWide = c.tkWide := by cases e <;> rfl
@[simp] theorem Core.setEng_tkWas (c : Core) (e : Eng) (x : Engine) : (c.setEng e x).tkWas = c.tkWas := by cases e <;> rfl
@[simp] theorem Core.setEng_acqSeen (c : Core) (e : Eng) (x : Engine) : (c.setEng e x).acqSeen = c.acqSeen := by cases e <;> rfl
@[simp] theorem Core.setEng_perm (c : Core) (e : Eng) (x : Engine) : (c.setEng e x).perm = c.perm := by cases e <;> rfl
@[simp] theorem Core.setEng_bmap (c : Core) (e : Eng) (x : Engine) : (c.setEng e x).bmap = c.bmap := by cases e <;> rfl
@[simp] theorem Core.setEng_bsel (c : Core) (e : Eng) (x : Engine) : (c.setEng e x).bsel = c.bsel := by cases e <;> rfl
@[simp] theorem Core.setEng_nomerge (c : Core) (e : Eng) (x : Engine) : (c.setEng e x).nomerge = c.nomerge := by cases e <;> rfl
@[simp] theorem Core.setEng_merge (c : Core) (e : Eng) (x : Engine) : (c.setEng e x).merge = c.merge := by cases e <;> rfl
@[simp] theorem Core.setEng_ovfTrap (c : Core) (e : Eng) (x : Engine) : (c.setEng e x).ovfTrap = c.ovfTrap := by cases e <;> rfl
@[simp] theorem Core.setEng_scrBase (c : Core) (e : Eng) (x : Engine) : (c.setEng e x).scrBase = c.scrBase := by cases e <;> rfl
@[simp] theorem Core.setEng_scrSize (c : Core) (e : Eng) (x : Engine) : (c.setEng e x).scrSize = c.scrSize := by cases e <;> rfl
@[simp] theorem Core.setEng_casks (c : Core) (e : Eng) (x : Engine) : (c.setEng e x).casks = c.casks := by cases e <;> rfl
@[simp] theorem Core.setEng_hnds (c : Core) (e : Eng) (x : Engine) : (c.setEng e x).hnds = c.hnds := by cases e <;> rfl
@[simp] theorem Core.setEng_age (c : Core) (e : Eng) (x : Engine) : (c.setEng e x).age = c.age := by cases e <;> rfl
@[simp] theorem Core.setEng_useClock (c : Core) (e : Eng) (x : Engine) : (c.setEng e x).useClock = c.useClock := by cases e <;> rfl
@[simp] theorem Core.setEng_demand (c : Core) (e : Eng) (x : Engine) : (c.setEng e x).demand = c.demand := by cases e <;> rfl
@[simp] theorem Core.setEng_forcing (c : Core) (e : Eng) (x : Engine) : (c.setEng e x).forcing = c.forcing := by cases e <;> rfl
@[simp] theorem Core.setEng_boxDone (c : Core) (e : Eng) (x : Engine) : (c.setEng e x).boxDone = c.boxDone := by cases e <;> rfl
@[simp] theorem Core.setEng_wseq (c : Core) (e : Eng) (x : Engine) : (c.setEng e x).wseq = c.wseq := by cases e <;> rfl
@[simp] theorem Core.setEng_books (c : Core) (e : Eng) (x : Engine) : (c.setEng e x).books = c.books := by cases e <;> rfl
@[simp] theorem Core.setEng_idCtr (c : Core) (e : Eng) (x : Engine) : (c.setEng e x).idCtr = c.idCtr := by cases e <;> rfl
@[simp] theorem Core.setEng_bookOrder (c : Core) (e : Eng) (x : Engine) : (c.setEng e x).bookOrder = c.bookOrder := by cases e <;> rfl
@[simp] theorem Core.setEng_barSel (c : Core) (e : Eng) (x : Engine) : (c.setEng e x).barSel = c.barSel := by cases e <;> rfl
@[simp] theorem Core.setEng_barLast (c : Core) (e : Eng) (x : Engine) : (c.setEng e x).barLast = c.barLast := by cases e <;> rfl
@[simp] theorem Core.setEng_barPend (c : Core) (e : Eng) (x : Engine) : (c.setEng e x).barPend = c.barPend := by cases e <;> rfl
@[simp] theorem Core.setEng_barWant (c : Core) (e : Eng) (x : Engine) : (c.setEng e x).barWant = c.barWant := by cases e <;> rfl
@[simp] theorem Core.setEng_nakCount (c : Core) (e : Eng) (x : Engine) : (c.setEng e x).nakCount = c.nakCount := by cases e <;> rfl
@[simp] theorem Core.setEng_nakLast (c : Core) (e : Eng) (x : Engine) : (c.setEng e x).nakLast = c.nakLast := by cases e <;> rfl
@[simp] theorem Core.setEng_unasked (c : Core) (e : Eng) (x : Engine) : (c.setEng e x).unasked = c.unasked := by cases e <;> rfl
@[simp] theorem Core.setEng_cmm (c : Core) (e : Eng) (x : Engine) : (c.setEng e x).cmm = c.cmm := by cases e <;> rfl
@[simp] theorem Core.setEng_sent (c : Core) (e : Eng) (x : Engine) : (c.setEng e x).sent = c.sent := by cases e <;> rfl
@[simp] theorem Core.setEng_eccCorr (c : Core) (e : Eng) (x : Engine) : (c.setEng e x).eccCorr = c.eccCorr := by cases e <;> rfl
@[simp] theorem Core.setEng_eccUnc (c : Core) (e : Eng) (x : Engine) : (c.setEng e x).eccUnc = c.eccUnc := by cases e <;> rfl
@[simp] theorem Core.setEng_eccUnit (c : Core) (e : Eng) (x : Engine) : (c.setEng e x).eccUnit = c.eccUnit := by cases e <;> rfl
@[simp] theorem Core.setEng_job (c : Core) (e : Eng) (x : Engine) : (c.setEng e x).job = c.job := by cases e <;> rfl
@[simp] theorem Core.setEng_lastJob (c : Core) (e : Eng) (x : Engine) : (c.setEng e x).lastJob = c.lastJob := by cases e <;> rfl
@[simp] theorem Core.setEng_chunk (c : Core) (e : Eng) (x : Engine) : (c.setEng e x).chunk = c.chunk := by cases e <;> rfl
@[simp] theorem Core.setEng_task (c : Core) (e : Eng) (x : Engine) : (c.setEng e x).task = c.task := by cases e <;> rfl
@[simp] theorem Core.setEng_clockStep (c : Core) (e : Eng) (x : Engine) : (c.setEng e x).clockStep = c.clockStep := by cases e <;> rfl

/-! ### Ctx -/

@[simp] theorem Ctx.setA_s (c : Ctx) (r : AReg) (v : VAddr) : (c.setA r v).s = c.s := rfl
@[simp] theorem Ctx.setA_fe (c : Ctx) (r : AReg) (v : VAddr) : (c.setA r v).fe = c.fe := rfl
@[simp] theorem Ctx.setA_mark (c : Ctx) (r : AReg) (v : VAddr) : (c.setA r v).mark = c.mark := rfl
@[simp] theorem Ctx.setA_p (c : Ctx) (r : AReg) (v : VAddr) : (c.setA r v).p = c.p := rfl
@[simp] theorem Ctx.setA_pc (c : Ctx) (r : AReg) (v : VAddr) : (c.setA r v).pc = c.pc := rfl
@[simp] theorem Ctx.setA_slot (c : Ctx) (r : AReg) (v : VAddr) : (c.setA r v).slot = c.slot := rfl
@[simp] theorem Ctx.setA_ih (c : Ctx) (r : AReg) (v : VAddr) : (c.setA r v).ih = c.ih := rfl
@[simp] theorem Ctx.setA_ds (c : Ctx) (r : AReg) (v : VAddr) : (c.setA r v).ds = c.ds := rfl
@[simp] theorem Ctx.setA_nv (c : Ctx) (r : AReg) (v : VAddr) : (c.setA r v).nv = c.nv := rfl
@[simp] theorem Ctx.setA_dz (c : Ctx) (r : AReg) (v : VAddr) : (c.setA r v).dz = c.dz := rfl
@[simp] theorem Ctx.setA_of (c : Ctx) (r : AReg) (v : VAddr) : (c.setA r v).of = c.of := rfl
@[simp] theorem Ctx.setA_uf (c : Ctx) (r : AReg) (v : VAddr) : (c.setA r v).uf = c.uf := rfl
@[simp] theorem Ctx.setA_nx (c : Ctx) (r : AReg) (v : VAddr) : (c.setA r v).nx = c.nx := rfl
@[simp] theorem Ctx.setA_rm (c : Ctx) (r : AReg) (v : VAddr) : (c.setA r v).rm = c.rm := rfl
@[simp] theorem Ctx.setA_tvec (c : Ctx) (r : AReg) (v : VAddr) : (c.setA r v).tvec = c.tvec := rfl
@[simp] theorem Ctx.setA_sstatus (c : Ctx) (r : AReg) (v : VAddr) : (c.setA r v).sstatus = c.sstatus := rfl
@[simp] theorem Ctx.setA_epc (c : Ctx) (r : AReg) (v : VAddr) : (c.setA r v).epc = c.epc := rfl
@[simp] theorem Ctx.setA_etgt (c : Ctx) (r : AReg) (v : VAddr) : (c.setA r v).etgt = c.etgt := rfl
@[simp] theorem Ctx.setA_ecause (c : Ctx) (r : AReg) (v : VAddr) : (c.setA r v).ecause = c.ecause := rfl
@[simp] theorem Ctx.setA_einfo0 (c : Ctx) (r : AReg) (v : VAddr) : (c.setA r v).einfo0 = c.einfo0 := rfl
@[simp] theorem Ctx.setA_einfo1 (c : Ctx) (r : AReg) (v : VAddr) : (c.setA r v).einfo1 = c.einfo1 := rfl
@[simp] theorem Ctx.setA_einfo2 (c : Ctx) (r : AReg) (v : VAddr) : (c.setA r v).einfo2 = c.einfo2 := rfl
@[simp] theorem Ctx.setA_einfo3 (c : Ctx) (r : AReg) (v : VAddr) : (c.setA r v).einfo3 = c.einfo3 := rfl
@[simp] theorem Ctx.setA_stallCnt (c : Ctx) (r : AReg) (v : VAddr) : (c.setA r v).stallCnt = c.stallCnt := rfl
@[simp] theorem Ctx.setA_wallowQ (c : Ctx) (r : AReg) (v : VAddr) : (c.setA r v).wallowQ = c.wallowQ := rfl
@[simp] theorem Ctx.setA_wallowD (c : Ctx) (r : AReg) (v : VAddr) : (c.setA r v).wallowD = c.wallowD := rfl
@[simp] theorem Ctx.setA_wallowX (c : Ctx) (r : AReg) (v : VAddr) : (c.setA r v).wallowX = c.wallowX := rfl
@[simp] theorem Ctx.setA_bucket (c : Ctx) (r : AReg) (v : VAddr) : (c.setA r v).bucket = c.bucket := rfl
@[simp] theorem Ctx.setA_noticeLeft (c : Ctx) (r : AReg) (v : VAddr) : (c.setA r v).noticeLeft = c.noticeLeft := rfl
@[simp] theorem Ctx.setA_notice (c : Ctx) (r : AReg) (v : VAddr) : (c.setA r v).notice = c.notice := rfl
@[simp] theorem Ctx.setA_scLast (c : Ctx) (r : AReg) (v : VAddr) : (c.setA r v).scLast = c.scLast := rfl
@[simp] theorem Ctx.setA_op (c : Ctx) (r : AReg) (v : VAddr) : (c.setA r v).op = c.op := rfl
@[simp] theorem Ctx.setA_halted (c : Ctx) (r : AReg) (v : VAddr) : (c.setA r v).halted = c.halted := rfl
@[simp] theorem Ctx.setA_blocked (c : Ctx) (r : AReg) (v : VAddr) : (c.setA r v).blocked = c.blocked := rfl

@[simp] theorem Ctx.setS_a (c : Ctx) (r : Reg) (v : W64) : (c.setS r v).a = c.a := by unfold Ctx.setS; split <;> rfl
@[simp] theorem Ctx.setS_p (c : Ctx) (r : Reg) (v : W64) : (c.setS r v).p = c.p := by unfold Ctx.setS; split <;> rfl
@[simp] theorem Ctx.setS_pc (c : Ctx) (r : Reg) (v : W64) : (c.setS r v).pc = c.pc := by unfold Ctx.setS; split <;> rfl
@[simp] theorem Ctx.setS_slot (c : Ctx) (r : Reg) (v : W64) : (c.setS r v).slot = c.slot := by unfold Ctx.setS; split <;> rfl
@[simp] theorem Ctx.setS_ih (c : Ctx) (r : Reg) (v : W64) : (c.setS r v).ih = c.ih := by unfold Ctx.setS; split <;> rfl
@[simp] theorem Ctx.setS_ds (c : Ctx) (r : Reg) (v : W64) : (c.setS r v).ds = c.ds := by unfold Ctx.setS; split <;> rfl
@[simp] theorem Ctx.setS_nv (c : Ctx) (r : Reg) (v : W64) : (c.setS r v).nv = c.nv := by unfold Ctx.setS; split <;> rfl
@[simp] theorem Ctx.setS_dz (c : Ctx) (r : Reg) (v : W64) : (c.setS r v).dz = c.dz := by unfold Ctx.setS; split <;> rfl
@[simp] theorem Ctx.setS_of (c : Ctx) (r : Reg) (v : W64) : (c.setS r v).of = c.of := by unfold Ctx.setS; split <;> rfl
@[simp] theorem Ctx.setS_uf (c : Ctx) (r : Reg) (v : W64) : (c.setS r v).uf = c.uf := by unfold Ctx.setS; split <;> rfl
@[simp] theorem Ctx.setS_nx (c : Ctx) (r : Reg) (v : W64) : (c.setS r v).nx = c.nx := by unfold Ctx.setS; split <;> rfl
@[simp] theorem Ctx.setS_rm (c : Ctx) (r : Reg) (v : W64) : (c.setS r v).rm = c.rm := by unfold Ctx.setS; split <;> rfl
@[simp] theorem Ctx.setS_tvec (c : Ctx) (r : Reg) (v : W64) : (c.setS r v).tvec = c.tvec := by unfold Ctx.setS; split <;> rfl
@[simp] theorem Ctx.setS_sstatus (c : Ctx) (r : Reg) (v : W64) : (c.setS r v).sstatus = c.sstatus := by unfold Ctx.setS; split <;> rfl
@[simp] theorem Ctx.setS_epc (c : Ctx) (r : Reg) (v : W64) : (c.setS r v).epc = c.epc := by unfold Ctx.setS; split <;> rfl
@[simp] theorem Ctx.setS_etgt (c : Ctx) (r : Reg) (v : W64) : (c.setS r v).etgt = c.etgt := by unfold Ctx.setS; split <;> rfl
@[simp] theorem Ctx.setS_ecause (c : Ctx) (r : Reg) (v : W64) : (c.setS r v).ecause = c.ecause := by unfold Ctx.setS; split <;> rfl
@[simp] theorem Ctx.setS_einfo0 (c : Ctx) (r : Reg) (v : W64) : (c.setS r v).einfo0 = c.einfo0 := by unfold Ctx.setS; split <;> rfl
@[simp] theorem Ctx.setS_einfo1 (c : Ctx) (r : Reg) (v : W64) : (c.setS r v).einfo1 = c.einfo1 := by unfold Ctx.setS; split <;> rfl
@[simp] theorem Ctx.setS_einfo2 (c : Ctx) (r : Reg) (v : W64) : (c.setS r v).einfo2 = c.einfo2 := by unfold Ctx.setS; split <;> rfl
@[simp] theorem Ctx.setS_einfo3 (c : Ctx) (r : Reg) (v : W64) : (c.setS r v).einfo3 = c.einfo3 := by unfold Ctx.setS; split <;> rfl
@[simp] theorem Ctx.setS_stallCnt (c : Ctx) (r : Reg) (v : W64) : (c.setS r v).stallCnt = c.stallCnt := by unfold Ctx.setS; split <;> rfl
@[simp] theorem Ctx.setS_wallowQ (c : Ctx) (r : Reg) (v : W64) : (c.setS r v).wallowQ = c.wallowQ := by unfold Ctx.setS; split <;> rfl
@[simp] theorem Ctx.setS_wallowD (c : Ctx) (r : Reg) (v : W64) : (c.setS r v).wallowD = c.wallowD := by unfold Ctx.setS; split <;> rfl
@[simp] theorem Ctx.setS_wallowX (c : Ctx) (r : Reg) (v : W64) : (c.setS r v).wallowX = c.wallowX := by unfold Ctx.setS; split <;> rfl
@[simp] theorem Ctx.setS_bucket (c : Ctx) (r : Reg) (v : W64) : (c.setS r v).bucket = c.bucket := by unfold Ctx.setS; split <;> rfl
@[simp] theorem Ctx.setS_noticeLeft (c : Ctx) (r : Reg) (v : W64) : (c.setS r v).noticeLeft = c.noticeLeft := by unfold Ctx.setS; split <;> rfl
@[simp] theorem Ctx.setS_notice (c : Ctx) (r : Reg) (v : W64) : (c.setS r v).notice = c.notice := by unfold Ctx.setS; split <;> rfl
@[simp] theorem Ctx.setS_scLast (c : Ctx) (r : Reg) (v : W64) : (c.setS r v).scLast = c.scLast := by unfold Ctx.setS; split <;> rfl
@[simp] theorem Ctx.setS_op (c : Ctx) (r : Reg) (v : W64) : (c.setS r v).op = c.op := by unfold Ctx.setS; split <;> rfl
@[simp] theorem Ctx.setS_halted (c : Ctx) (r : Reg) (v : W64) : (c.setS r v).halted = c.halted := by unfold Ctx.setS; split <;> rfl
@[simp] theorem Ctx.setS_blocked (c : Ctx) (r : Reg) (v : W64) : (c.setS r v).blocked = c.blocked := by unfold Ctx.setS; split <;> rfl

@[simp] theorem Ctx.setFE_s (c : Ctx) (r : Reg) (f : FE) : (c.setFE r f).s = c.s := by unfold Ctx.setFE; split <;> rfl
@[simp] theorem Ctx.setFE_mark (c : Ctx) (r : Reg) (f : FE) : (c.setFE r f).mark = c.mark := by unfold Ctx.setFE; split <;> rfl
@[simp] theorem Ctx.setFE_a (c : Ctx) (r : Reg) (f : FE) : (c.setFE r f).a = c.a := by unfold Ctx.setFE; split <;> rfl
@[simp] theorem Ctx.setFE_p (c : Ctx) (r : Reg) (f : FE) : (c.setFE r f).p = c.p := by unfold Ctx.setFE; split <;> rfl
@[simp] theorem Ctx.setFE_pc (c : Ctx) (r : Reg) (f : FE) : (c.setFE r f).pc = c.pc := by unfold Ctx.setFE; split <;> rfl
@[simp] theorem Ctx.setFE_slot (c : Ctx) (r : Reg) (f : FE) : (c.setFE r f).slot = c.slot := by unfold Ctx.setFE; split <;> rfl
@[simp] theorem Ctx.setFE_ih (c : Ctx) (r : Reg) (f : FE) : (c.setFE r f).ih = c.ih := by unfold Ctx.setFE; split <;> rfl
@[simp] theorem Ctx.setFE_ds (c : Ctx) (r : Reg) (f : FE) : (c.setFE r f).ds = c.ds := by unfold Ctx.setFE; split <;> rfl
@[simp] theorem Ctx.setFE_nv (c : Ctx) (r : Reg) (f : FE) : (c.setFE r f).nv = c.nv := by unfold Ctx.setFE; split <;> rfl
@[simp] theorem Ctx.setFE_dz (c : Ctx) (r : Reg) (f : FE) : (c.setFE r f).dz = c.dz := by unfold Ctx.setFE; split <;> rfl
@[simp] theorem Ctx.setFE_of (c : Ctx) (r : Reg) (f : FE) : (c.setFE r f).of = c.of := by unfold Ctx.setFE; split <;> rfl
@[simp] theorem Ctx.setFE_uf (c : Ctx) (r : Reg) (f : FE) : (c.setFE r f).uf = c.uf := by unfold Ctx.setFE; split <;> rfl
@[simp] theorem Ctx.setFE_nx (c : Ctx) (r : Reg) (f : FE) : (c.setFE r f).nx = c.nx := by unfold Ctx.setFE; split <;> rfl
@[simp] theorem Ctx.setFE_rm (c : Ctx) (r : Reg) (f : FE) : (c.setFE r f).rm = c.rm := by unfold Ctx.setFE; split <;> rfl
@[simp] theorem Ctx.setFE_tvec (c : Ctx) (r : Reg) (f : FE) : (c.setFE r f).tvec = c.tvec := by unfold Ctx.setFE; split <;> rfl
@[simp] theorem Ctx.setFE_sstatus (c : Ctx) (r : Reg) (f : FE) : (c.setFE r f).sstatus = c.sstatus := by unfold Ctx.setFE; split <;> rfl
@[simp] theorem Ctx.setFE_epc (c : Ctx) (r : Reg) (f : FE) : (c.setFE r f).epc = c.epc := by unfold Ctx.setFE; split <;> rfl
@[simp] theorem Ctx.setFE_etgt (c : Ctx) (r : Reg) (f : FE) : (c.setFE r f).etgt = c.etgt := by unfold Ctx.setFE; split <;> rfl
@[simp] theorem Ctx.setFE_ecause (c : Ctx) (r : Reg) (f : FE) : (c.setFE r f).ecause = c.ecause := by unfold Ctx.setFE; split <;> rfl
@[simp] theorem Ctx.setFE_einfo0 (c : Ctx) (r : Reg) (f : FE) : (c.setFE r f).einfo0 = c.einfo0 := by unfold Ctx.setFE; split <;> rfl
@[simp] theorem Ctx.setFE_einfo1 (c : Ctx) (r : Reg) (f : FE) : (c.setFE r f).einfo1 = c.einfo1 := by unfold Ctx.setFE; split <;> rfl
@[simp] theorem Ctx.setFE_einfo2 (c : Ctx) (r : Reg) (f : FE) : (c.setFE r f).einfo2 = c.einfo2 := by unfold Ctx.setFE; split <;> rfl
@[simp] theorem Ctx.setFE_einfo3 (c : Ctx) (r : Reg) (f : FE) : (c.setFE r f).einfo3 = c.einfo3 := by unfold Ctx.setFE; split <;> rfl
@[simp] theorem Ctx.setFE_stallCnt (c : Ctx) (r : Reg) (f : FE) : (c.setFE r f).stallCnt = c.stallCnt := by unfold Ctx.setFE; split <;> rfl
@[simp] theorem Ctx.setFE_wallowQ (c : Ctx) (r : Reg) (f : FE) : (c.setFE r f).wallowQ = c.wallowQ := by unfold Ctx.setFE; split <;> rfl
@[simp] theorem Ctx.setFE_wallowD (c : Ctx) (r : Reg) (f : FE) : (c.setFE r f).wallowD = c.wallowD := by unfold Ctx.setFE; split <;> rfl
@[simp] theorem Ctx.setFE_wallowX (c : Ctx) (r : Reg) (f : FE) : (c.setFE r f).wallowX = c.wallowX := by unfold Ctx.setFE; split <;> rfl
@[simp] theorem Ctx.setFE_bucket (c : Ctx) (r : Reg) (f : FE) : (c.setFE r f).bucket = c.bucket := by unfold Ctx.setFE; split <;> rfl
@[simp] theorem Ctx.setFE_noticeLeft (c : Ctx) (r : Reg) (f : FE) : (c.setFE r f).noticeLeft = c.noticeLeft := by unfold Ctx.setFE; split <;> rfl
@[simp] theorem Ctx.setFE_notice (c : Ctx) (r : Reg) (f : FE) : (c.setFE r f).notice = c.notice := by unfold Ctx.setFE; split <;> rfl
@[simp] theorem Ctx.setFE_scLast (c : Ctx) (r : Reg) (f : FE) : (c.setFE r f).scLast = c.scLast := by unfold Ctx.setFE; split <;> rfl
@[simp] theorem Ctx.setFE_op (c : Ctx) (r : Reg) (f : FE) : (c.setFE r f).op = c.op := by unfold Ctx.setFE; split <;> rfl
@[simp] theorem Ctx.setFE_halted (c : Ctx) (r : Reg) (f : FE) : (c.setFE r f).halted = c.halted := by unfold Ctx.setFE; split <;> rfl
@[simp] theorem Ctx.setFE_blocked (c : Ctx) (r : Reg) (f : FE) : (c.setFE r f).blocked = c.blocked := by unfold Ctx.setFE; split <;> rfl

@[simp] theorem Ctx.setMark_s (c : Ctx) (r : Reg) (m : Option Mark) : (c.setMark r m).s = c.s := by unfold Ctx.setMark; split <;> rfl
@[simp] theorem Ctx.setMark_fe (c : Ctx) (r : Reg) (m : Option Mark) : (c.setMark r m).fe = c.fe := by unfold Ctx.setMark; split <;> rfl
@[simp] theorem Ctx.setMark_a (c : Ctx) (r : Reg) (m : Option Mark) : (c.setMark r m).a = c.a := by unfold Ctx.setMark; split <;> rfl
@[simp] theorem Ctx.setMark_p (c : Ctx) (r : Reg) (m : Option Mark) : (c.setMark r m).p = c.p := by unfold Ctx.setMark; split <;> rfl
@[simp] theorem Ctx.setMark_pc (c : Ctx) (r : Reg) (m : Option Mark) : (c.setMark r m).pc = c.pc := by unfold Ctx.setMark; split <;> rfl
@[simp] theorem Ctx.setMark_slot (c : Ctx) (r : Reg) (m : Option Mark) : (c.setMark r m).slot = c.slot := by unfold Ctx.setMark; split <;> rfl
@[simp] theorem Ctx.setMark_ih (c : Ctx) (r : Reg) (m : Option Mark) : (c.setMark r m).ih = c.ih := by unfold Ctx.setMark; split <;> rfl
@[simp] theorem Ctx.setMark_ds (c : Ctx) (r : Reg) (m : Option Mark) : (c.setMark r m).ds = c.ds := by unfold Ctx.setMark; split <;> rfl
@[simp] theorem Ctx.setMark_nv (c : Ctx) (r : Reg) (m : Option Mark) : (c.setMark r m).nv = c.nv := by unfold Ctx.setMark; split <;> rfl
@[simp] theorem Ctx.setMark_dz (c : Ctx) (r : Reg) (m : Option Mark) : (c.setMark r m).dz = c.dz := by unfold Ctx.setMark; split <;> rfl
@[simp] theorem Ctx.setMark_of (c : Ctx) (r : Reg) (m : Option Mark) : (c.setMark r m).of = c.of := by unfold Ctx.setMark; split <;> rfl
@[simp] theorem Ctx.setMark_uf (c : Ctx) (r : Reg) (m : Option Mark) : (c.setMark r m).uf = c.uf := by unfold Ctx.setMark; split <;> rfl
@[simp] theorem Ctx.setMark_nx (c : Ctx) (r : Reg) (m : Option Mark) : (c.setMark r m).nx = c.nx := by unfold Ctx.setMark; split <;> rfl
@[simp] theorem Ctx.setMark_rm (c : Ctx) (r : Reg) (m : Option Mark) : (c.setMark r m).rm = c.rm := by unfold Ctx.setMark; split <;> rfl
@[simp] theorem Ctx.setMark_tvec (c : Ctx) (r : Reg) (m : Option Mark) : (c.setMark r m).tvec = c.tvec := by unfold Ctx.setMark; split <;> rfl
@[simp] theorem Ctx.setMark_sstatus (c : Ctx) (r : Reg) (m : Option Mark) : (c.setMark r m).sstatus = c.sstatus := by unfold Ctx.setMark; split <;> rfl
@[simp] theorem Ctx.setMark_epc (c : Ctx) (r : Reg) (m : Option Mark) : (c.setMark r m).epc = c.epc := by unfold Ctx.setMark; split <;> rfl
@[simp] theorem Ctx.setMark_etgt (c : Ctx) (r : Reg) (m : Option Mark) : (c.setMark r m).etgt = c.etgt := by unfold Ctx.setMark; split <;> rfl
@[simp] theorem Ctx.setMark_ecause (c : Ctx) (r : Reg) (m : Option Mark) : (c.setMark r m).ecause = c.ecause := by unfold Ctx.setMark; split <;> rfl
@[simp] theorem Ctx.setMark_einfo0 (c : Ctx) (r : Reg) (m : Option Mark) : (c.setMark r m).einfo0 = c.einfo0 := by unfold Ctx.setMark; split <;> rfl
@[simp] theorem Ctx.setMark_einfo1 (c : Ctx) (r : Reg) (m : Option Mark) : (c.setMark r m).einfo1 = c.einfo1 := by unfold Ctx.setMark; split <;> rfl
@[simp] theorem Ctx.setMark_einfo2 (c : Ctx) (r : Reg) (m : Option Mark) : (c.setMark r m).einfo2 = c.einfo2 := by unfold Ctx.setMark; split <;> rfl
@[simp] theorem Ctx.setMark_einfo3 (c : Ctx) (r : Reg) (m : Option Mark) : (c.setMark r m).einfo3 = c.einfo3 := by unfold Ctx.setMark; split <;> rfl
@[simp] theorem Ctx.setMark_stallCnt (c : Ctx) (r : Reg) (m : Option Mark) : (c.setMark r m).stallCnt = c.stallCnt := by unfold Ctx.setMark; split <;> rfl
@[simp] theorem Ctx.setMark_wallowQ (c : Ctx) (r : Reg) (m : Option Mark) : (c.setMark r m).wallowQ = c.wallowQ := by unfold Ctx.setMark; split <;> rfl
@[simp] theorem Ctx.setMark_wallowD (c : Ctx) (r : Reg) (m : Option Mark) : (c.setMark r m).wallowD = c.wallowD := by unfold Ctx.setMark; split <;> rfl
@[simp] theorem Ctx.setMark_wallowX (c : Ctx) (r : Reg) (m : Option Mark) : (c.setMark r m).wallowX = c.wallowX := by unfold Ctx.setMark; split <;> rfl
@[simp] theorem Ctx.setMark_bucket (c : Ctx) (r : Reg) (m : Option Mark) : (c.setMark r m).bucket = c.bucket := by unfold Ctx.setMark; split <;> rfl
@[simp] theorem Ctx.setMark_noticeLeft (c : Ctx) (r : Reg) (m : Option Mark) : (c.setMark r m).noticeLeft = c.noticeLeft := by unfold Ctx.setMark; split <;> rfl
@[simp] theorem Ctx.setMark_notice (c : Ctx) (r : Reg) (m : Option Mark) : (c.setMark r m).notice = c.notice := by unfold Ctx.setMark; split <;> rfl
@[simp] theorem Ctx.setMark_scLast (c : Ctx) (r : Reg) (m : Option Mark) : (c.setMark r m).scLast = c.scLast := by unfold Ctx.setMark; split <;> rfl
@[simp] theorem Ctx.setMark_op (c : Ctx) (r : Reg) (m : Option Mark) : (c.setMark r m).op = c.op := by unfold Ctx.setMark; split <;> rfl
@[simp] theorem Ctx.setMark_halted (c : Ctx) (r : Reg) (m : Option Mark) : (c.setMark r m).halted = c.halted := by unfold Ctx.setMark; split <;> rfl
@[simp] theorem Ctx.setMark_blocked (c : Ctx) (r : Reg) (m : Option Mark) : (c.setMark r m).blocked = c.blocked := by unfold Ctx.setMark; split <;> rfl

@[simp] theorem Ctx.setP_s (c : Ctx) (r : PReg) (v : Bool) : (c.setP r v).s = c.s := by unfold Ctx.setP; split <;> rfl
@[simp] theorem Ctx.setP_fe (c : Ctx) (r : PReg) (v : Bool) : (c.setP r v).fe = c.fe := by unfold Ctx.setP; split <;> rfl
@[simp] theorem Ctx.setP_mark (c : Ctx) (r : PReg) (v : Bool) : (c.setP r v).mark = c.mark := by unfold Ctx.setP; split <;> rfl
@[simp] theorem Ctx.setP_a (c : Ctx) (r : PReg) (v : Bool) : (c.setP r v).a = c.a := by unfold Ctx.setP; split <;> rfl
@[simp] theorem Ctx.setP_pc (c : Ctx) (r : PReg) (v : Bool) : (c.setP r v).pc = c.pc := by unfold Ctx.setP; split <;> rfl
@[simp] theorem Ctx.setP_slot (c : Ctx) (r : PReg) (v : Bool) : (c.setP r v).slot = c.slot := by unfold Ctx.setP; split <;> rfl
@[simp] theorem Ctx.setP_ih (c : Ctx) (r : PReg) (v : Bool) : (c.setP r v).ih = c.ih := by unfold Ctx.setP; split <;> rfl
@[simp] theorem Ctx.setP_ds (c : Ctx) (r : PReg) (v : Bool) : (c.setP r v).ds = c.ds := by unfold Ctx.setP; split <;> rfl
@[simp] theorem Ctx.setP_nv (c : Ctx) (r : PReg) (v : Bool) : (c.setP r v).nv = c.nv := by unfold Ctx.setP; split <;> rfl
@[simp] theorem Ctx.setP_dz (c : Ctx) (r : PReg) (v : Bool) : (c.setP r v).dz = c.dz := by unfold Ctx.setP; split <;> rfl
@[simp] theorem Ctx.setP_of (c : Ctx) (r : PReg) (v : Bool) : (c.setP r v).of = c.of := by unfold Ctx.setP; split <;> rfl
@[simp] theorem Ctx.setP_uf (c : Ctx) (r : PReg) (v : Bool) : (c.setP r v).uf = c.uf := by unfold Ctx.setP; split <;> rfl
@[simp] theorem Ctx.setP_nx (c : Ctx) (r : PReg) (v : Bool) : (c.setP r v).nx = c.nx := by unfold Ctx.setP; split <;> rfl
@[simp] theorem Ctx.setP_rm (c : Ctx) (r : PReg) (v : Bool) : (c.setP r v).rm = c.rm := by unfold Ctx.setP; split <;> rfl
@[simp] theorem Ctx.setP_tvec (c : Ctx) (r : PReg) (v : Bool) : (c.setP r v).tvec = c.tvec := by unfold Ctx.setP; split <;> rfl
@[simp] theorem Ctx.setP_sstatus (c : Ctx) (r : PReg) (v : Bool) : (c.setP r v).sstatus = c.sstatus := by unfold Ctx.setP; split <;> rfl
@[simp] theorem Ctx.setP_epc (c : Ctx) (r : PReg) (v : Bool) : (c.setP r v).epc = c.epc := by unfold Ctx.setP; split <;> rfl
@[simp] theorem Ctx.setP_etgt (c : Ctx) (r : PReg) (v : Bool) : (c.setP r v).etgt = c.etgt := by unfold Ctx.setP; split <;> rfl
@[simp] theorem Ctx.setP_ecause (c : Ctx) (r : PReg) (v : Bool) : (c.setP r v).ecause = c.ecause := by unfold Ctx.setP; split <;> rfl
@[simp] theorem Ctx.setP_einfo0 (c : Ctx) (r : PReg) (v : Bool) : (c.setP r v).einfo0 = c.einfo0 := by unfold Ctx.setP; split <;> rfl
@[simp] theorem Ctx.setP_einfo1 (c : Ctx) (r : PReg) (v : Bool) : (c.setP r v).einfo1 = c.einfo1 := by unfold Ctx.setP; split <;> rfl
@[simp] theorem Ctx.setP_einfo2 (c : Ctx) (r : PReg) (v : Bool) : (c.setP r v).einfo2 = c.einfo2 := by unfold Ctx.setP; split <;> rfl
@[simp] theorem Ctx.setP_einfo3 (c : Ctx) (r : PReg) (v : Bool) : (c.setP r v).einfo3 = c.einfo3 := by unfold Ctx.setP; split <;> rfl
@[simp] theorem Ctx.setP_stallCnt (c : Ctx) (r : PReg) (v : Bool) : (c.setP r v).stallCnt = c.stallCnt := by unfold Ctx.setP; split <;> rfl
@[simp] theorem Ctx.setP_wallowQ (c : Ctx) (r : PReg) (v : Bool) : (c.setP r v).wallowQ = c.wallowQ := by unfold Ctx.setP; split <;> rfl
@[simp] theorem Ctx.setP_wallowD (c : Ctx) (r : PReg) (v : Bool) : (c.setP r v).wallowD = c.wallowD := by unfold Ctx.setP; split <;> rfl
@[simp] theorem Ctx.setP_wallowX (c : Ctx) (r : PReg) (v : Bool) : (c.setP r v).wallowX = c.wallowX := by unfold Ctx.setP; split <;> rfl
@[simp] theorem Ctx.setP_bucket (c : Ctx) (r : PReg) (v : Bool) : (c.setP r v).bucket = c.bucket := by unfold Ctx.setP; split <;> rfl
@[simp] theorem Ctx.setP_noticeLeft (c : Ctx) (r : PReg) (v : Bool) : (c.setP r v).noticeLeft = c.noticeLeft := by unfold Ctx.setP; split <;> rfl
@[simp] theorem Ctx.setP_notice (c : Ctx) (r : PReg) (v : Bool) : (c.setP r v).notice = c.notice := by unfold Ctx.setP; split <;> rfl
@[simp] theorem Ctx.setP_scLast (c : Ctx) (r : PReg) (v : Bool) : (c.setP r v).scLast = c.scLast := by unfold Ctx.setP; split <;> rfl
@[simp] theorem Ctx.setP_op (c : Ctx) (r : PReg) (v : Bool) : (c.setP r v).op = c.op := by unfold Ctx.setP; split <;> rfl
@[simp] theorem Ctx.setP_halted (c : Ctx) (r : PReg) (v : Bool) : (c.setP r v).halted = c.halted := by unfold Ctx.setP; split <;> rfl
@[simp] theorem Ctx.setP_blocked (c : Ctx) (r : PReg) (v : Bool) : (c.setP r v).blocked = c.blocked := by unfold Ctx.setP; split <;> rfl

@[simp] theorem Ctx.advance_s (c : Ctx) : (c.advance).s = c.s := by unfold Ctx.advance; split <;> rfl
@[simp] theorem Ctx.advance_fe (c : Ctx) : (c.advance).fe = c.fe := by unfold Ctx.advance; split <;> rfl
@[simp] theorem Ctx.advance_mark (c : Ctx) : (c.advance).mark = c.mark := by unfold Ctx.advance; split <;> rfl
@[simp] theorem Ctx.advance_a (c : Ctx) : (c.advance).a = c.a := by unfold Ctx.advance; split <;> rfl
@[simp] theorem Ctx.advance_p (c : Ctx) : (c.advance).p = c.p := by unfold Ctx.advance; split <;> rfl
@[simp] theorem Ctx.advance_ih (c : Ctx) : (c.advance).ih = c.ih := by unfold Ctx.advance; split <;> rfl
@[simp] theorem Ctx.advance_ds (c : Ctx) : (c.advance).ds = c.ds := by unfold Ctx.advance; split <;> rfl
@[simp] theorem Ctx.advance_nv (c : Ctx) : (c.advance).nv = c.nv := by unfold Ctx.advance; split <;> rfl
@[simp] theorem Ctx.advance_dz (c : Ctx) : (c.advance).dz = c.dz := by unfold Ctx.advance; split <;> rfl
@[simp] theorem Ctx.advance_of (c : Ctx) : (c.advance).of = c.of := by unfold Ctx.advance; split <;> rfl
@[simp] theorem Ctx.advance_uf (c : Ctx) : (c.advance).uf = c.uf := by unfold Ctx.advance; split <;> rfl
@[simp] theorem Ctx.advance_nx (c : Ctx) : (c.advance).nx = c.nx := by unfold Ctx.advance; split <;> rfl
@[simp] theorem Ctx.advance_rm (c : Ctx) : (c.advance).rm = c.rm := by unfold Ctx.advance; split <;> rfl
@[simp] theorem Ctx.advance_tvec (c : Ctx) : (c.advance).tvec = c.tvec := by unfold Ctx.advance; split <;> rfl
@[simp] theorem Ctx.advance_sstatus (c : Ctx) : (c.advance).sstatus = c.sstatus := by unfold Ctx.advance; split <;> rfl
@[simp] theorem Ctx.advance_epc (c : Ctx) : (c.advance).epc = c.epc := by unfold Ctx.advance; split <;> rfl
@[simp] theorem Ctx.advance_etgt (c : Ctx) : (c.advance).etgt = c.etgt := by unfold Ctx.advance; split <;> rfl
@[simp] theorem Ctx.advance_ecause (c : Ctx) : (c.advance).ecause = c.ecause := by unfold Ctx.advance; split <;> rfl
@[simp] theorem Ctx.advance_einfo0 (c : Ctx) : (c.advance).einfo0 = c.einfo0 := by unfold Ctx.advance; split <;> rfl
@[simp] theorem Ctx.advance_einfo1 (c : Ctx) : (c.advance).einfo1 = c.einfo1 := by unfold Ctx.advance; split <;> rfl
@[simp] theorem Ctx.advance_einfo2 (c : Ctx) : (c.advance).einfo2 = c.einfo2 := by unfold Ctx.advance; split <;> rfl
@[simp] theorem Ctx.advance_einfo3 (c : Ctx) : (c.advance).einfo3 = c.einfo3 := by unfold Ctx.advance; split <;> rfl
@[simp] theorem Ctx.advance_stallCnt (c : Ctx) : (c.advance).stallCnt = c.stallCnt := by unfold Ctx.advance; split <;> rfl
@[simp] theorem Ctx.advance_wallowQ (c : Ctx) : (c.advance).wallowQ = c.wallowQ := by unfold Ctx.advance; split <;> rfl
@[simp] theorem Ctx.advance_wallowD (c : Ctx) : (c.advance).wallowD = c.wallowD := by unfold Ctx.advance; split <;> rfl
@[simp] theorem Ctx.advance_wallowX (c : Ctx) : (c.advance).wallowX = c.wallowX := by unfold Ctx.advance; split <;> rfl
@[simp] theorem Ctx.advance_bucket (c : Ctx) : (c.advance).bucket = c.bucket := by unfold Ctx.advance; split <;> rfl
@[simp] theorem Ctx.advance_noticeLeft (c : Ctx) : (c.advance).noticeLeft = c.noticeLeft := by unfold Ctx.advance; split <;> rfl
@[simp] theorem Ctx.advance_notice (c : Ctx) : (c.advance).notice = c.notice := by unfold Ctx.advance; split <;> rfl
@[simp] theorem Ctx.advance_scLast (c : Ctx) : (c.advance).scLast = c.scLast := by unfold Ctx.advance; split <;> rfl
@[simp] theorem Ctx.advance_halted (c : Ctx) : (c.advance).halted = c.halted := by unfold Ctx.advance; split <;> rfl
@[simp] theorem Ctx.advance_blocked (c : Ctx) : (c.advance).blocked = c.blocked := by unfold Ctx.advance; split <;> rfl

@[simp] theorem Ctx.branch_s (c : Ctx) (t : VAddr) : (c.branch t).s = c.s := rfl
@[simp] theorem Ctx.branch_fe (c : Ctx) (t : VAddr) : (c.branch t).fe = c.fe := rfl
@[simp] theorem Ctx.branch_mark (c : Ctx) (t : VAddr) : (c.branch t).mark = c.mark := rfl
@[simp] theorem Ctx.branch_a (c : Ctx) (t : VAddr) : (c.branch t).a = c.a := rfl
@[simp] theorem Ctx.branch_p (c : Ctx) (t : VAddr) : (c.branch t).p = c.p := rfl
@[simp] theorem Ctx.branch_ih (c : Ctx) (t : VAddr) : (c.branch t).ih = c.ih := rfl
@[simp] theorem Ctx.branch_ds (c : Ctx) (t : VAddr) : (c.branch t).ds = c.ds := rfl
@[simp] theorem Ctx.branch_nv (c : Ctx) (t : VAddr) : (c.branch t).nv = c.nv := rfl
@[simp] theorem Ctx.branch_dz (c : Ctx) (t : VAddr) : (c.branch t).dz = c.dz := rfl
@[simp] theorem Ctx.branch_of (c : Ctx) (t : VAddr) : (c.branch t).of = c.of := rfl
@[simp] theorem Ctx.branch_uf (c : Ctx) (t : VAddr) : (c.branch t).uf = c.uf := rfl
@[simp] theorem Ctx.branch_nx (c : Ctx) (t : VAddr) : (c.branch t).nx = c.nx := rfl
@[simp] theorem Ctx.branch_rm (c : Ctx) (t : VAddr) : (c.branch t).rm = c.rm := rfl
@[simp] theorem Ctx.branch_tvec (c : Ctx) (t : VAddr) : (c.branch t).tvec = c.tvec := rfl
@[simp] theorem Ctx.branch_sstatus (c : Ctx) (t : VAddr) : (c.branch t).sstatus = c.sstatus := rfl
@[simp] theorem Ctx.branch_epc (c : Ctx) (t : VAddr) : (c.branch t).epc = c.epc := rfl
@[simp] theorem Ctx.branch_etgt (c : Ctx) (t : VAddr) : (c.branch t).etgt = c.etgt := rfl
@[simp] theorem Ctx.branch_ecause (c : Ctx) (t : VAddr) : (c.branch t).ecause = c.ecause := rfl
@[simp] theorem Ctx.branch_einfo0 (c : Ctx) (t : VAddr) : (c.branch t).einfo0 = c.einfo0 := rfl
@[simp] theorem Ctx.branch_einfo1 (c : Ctx) (t : VAddr) : (c.branch t).einfo1 = c.einfo1 := rfl
@[simp] theorem Ctx.branch_einfo2 (c : Ctx) (t : VAddr) : (c.branch t).einfo2 = c.einfo2 := rfl
@[simp] theorem Ctx.branch_einfo3 (c : Ctx) (t : VAddr) : (c.branch t).einfo3 = c.einfo3 := rfl
@[simp] theorem Ctx.branch_stallCnt (c : Ctx) (t : VAddr) : (c.branch t).stallCnt = c.stallCnt := rfl
@[simp] theorem Ctx.branch_wallowQ (c : Ctx) (t : VAddr) : (c.branch t).wallowQ = c.wallowQ := rfl
@[simp] theorem Ctx.branch_wallowD (c : Ctx) (t : VAddr) : (c.branch t).wallowD = c.wallowD := rfl
@[simp] theorem Ctx.branch_wallowX (c : Ctx) (t : VAddr) : (c.branch t).wallowX = c.wallowX := rfl
@[simp] theorem Ctx.branch_bucket (c : Ctx) (t : VAddr) : (c.branch t).bucket = c.bucket := rfl
@[simp] theorem Ctx.branch_noticeLeft (c : Ctx) (t : VAddr) : (c.branch t).noticeLeft = c.noticeLeft := rfl
@[simp] theorem Ctx.branch_notice (c : Ctx) (t : VAddr) : (c.branch t).notice = c.notice := rfl
@[simp] theorem Ctx.branch_scLast (c : Ctx) (t : VAddr) : (c.branch t).scLast = c.scLast := rfl
@[simp] theorem Ctx.branch_halted (c : Ctx) (t : VAddr) : (c.branch t).halted = c.halted := rfl
@[simp] theorem Ctx.branch_blocked (c : Ctx) (t : VAddr) : (c.branch t).blocked = c.blocked := rfl

end Sys2Proof.Machine
end

