-- ==== Sys2Proof/Laws/Registers.lean ====
section
/-!
SUPPORT. Reads after writes: cores, contexts, dies, ports, queues, things in flight, and the registers of a context. Each holds
of every state, canonical or not.
-/

namespace Sys2Proof.Machine

/-! ### Numbered pieces of the state -/

theorem State.core_setCore (s : State) (k j : Nat) (c : Core) : (s.setCore k c).core j = if k = j then c else s.core j :=
  FMap.get_put ..

@[simp] theorem State.core_setCore_self (s : State) (k : Nat) (c : Core) : (s.setCore k c).core k = c := by
  rw [State.core_setCore, if_pos rfl]

theorem State.core_setCore_of_ne (s : State) {k j : Nat} (c : Core) (h : k ≠ j) : (s.setCore k c).core j = s.core j := by
  rw [State.core_setCore, if_neg h]

theorem State.die_setDie (s : State) (k j : Nat) (x : Die) : (s.setDie k x).die j = if k = j then x else s.die j :=
  FMap.get_put ..

@[simp] theorem State.die_setDie_self (s : State) (k : Nat) (x : Die) : (s.setDie k x).die k = x := by
  rw [State.die_setDie, if_pos rfl]

theorem State.port_setPort (s : State) (k j : Nat) (x : Port) : (s.setPort k x).port j = if k = j then x else s.port j :=
  FMap.get_put ..

@[simp] theorem State.port_setPort_self (s : State) (k : Nat) (x : Port) : (s.setPort k x).port k = x := by
  rw [State.port_setPort, if_pos rfl]

theorem State.lq_setLq (s : State) (k j : Nat) (x : LQueue) : (s.setLq k x).lq j = if k = j then x else s.lq j :=
  FMap.get_put ..

@[simp] theorem State.lq_setLq_self (s : State) (k : Nat) (x : LQueue) : (s.setLq k x).lq k = x := by
  rw [State.lq_setLq, if_pos rfl]

theorem State.flight_setFlight (s : State) (t u : Nat) (f : Flight) :
    (s.setFlight t f).flight u = if t = u then some f else s.flight u := by
  exact FMap.get_put (none : Option Flight) s.flights t u (some f)

@[simp] theorem State.flight_setFlight_self (s : State) (t : Nat) (f : Flight) : (s.setFlight t f).flight t = some f := by
  rw [State.flight_setFlight, if_pos rfl]

theorem State.flight_endFlight (s : State) (t u : Nat) : (s.endFlight t).flight u = if t = u then none else s.flight u :=
  FMap.get_erase (none : Option Flight) s.flights t u

@[simp] theorem State.flight_endFlight_self (s : State) (t : Nat) : (s.endFlight t).flight t = none := by
  rw [State.flight_endFlight, if_pos rfl]

/-! ### Contexts -/

@[simp] theorem Core.ctx_setCtx_self (c : Core) (b : Bool) (x : Ctx) : (c.setCtx b x).ctx b = x := by cases b <;> rfl

@[simp] theorem Core.ctx_setCtx_not (c : Core) (b : Bool) (x : Ctx) : (c.setCtx b x).ctx (!b) = c.ctx (!b) := by cases b <;> rfl

@[simp] theorem Core.setCtx_setCtx (c : Core) (b : Bool) (x y : Ctx) : (c.setCtx b x).setCtx b y = c.setCtx b y := by cases b <;> rfl

@[simp] theorem Core.setCtx_ctx (c : Core) (b : Bool) : c.setCtx b (c.ctx b) = c := by cases b <;> rfl

@[simp] theorem State.ctx_setCtx_self (s : State) (k : Nat) (b : Bool) (x : Ctx) : (s.setCtx k b x).ctx k b = x := by
  simp [State.ctx, State.setCtx]

@[simp] theorem State.ctx_setCtx_not (s : State) (k : Nat) (b : Bool) (x : Ctx) : (s.setCtx k b x).ctx k (!b) = s.ctx k (!b) := by
  simp [State.ctx, State.setCtx]

theorem State.ctx_setCtx_of_ne (s : State) {k j : Nat} (b d : Bool) (x : Ctx) (h : k ≠ j) :
    (s.setCtx k b x).ctx j d = s.ctx j d := by
  simp [State.ctx, State.setCtx, State.core_setCore_of_ne s _ h]

@[simp] theorem State.cur_setCur (s : State) (x : Ctx) : (s.setCur x).cur = x := by
  simp only [State.cur, State.setCur, State.setCtx_focusCore, State.setCtx_focusFw, State.ctx_setCtx_self]

/-- Replacing the executing context by itself changes nothing that a core shows. -/
theorem State.core_setCur (s : State) (x : Ctx) (j : Nat) :
    (s.setCur x).core j = if s.focusCore = j then (s.curCore.setCtx s.focusFw x) else s.core j := by
  simp only [State.setCur, State.setCtx, State.core_setCore, State.curCore]

@[simp] theorem Core.eng_setEng_self (c : Core) (e : Eng) (x : Engine) : (c.setEng e x).eng e = x := by cases e <;> rfl

theorem Core.eng_setEng_of_ne (c : Core) {e f : Eng} (x : Engine) (h : e ≠ f) : (c.setEng e x).eng f = c.eng f := by
  cases e <;> cases f <;> first | rfl | exact absurd rfl h

@[simp] theorem Core.eng_setCtx (c : Core) (b : Bool) (x : Ctx) (e : Eng) : (c.setCtx b x).eng e = c.eng e := by
  cases b <;> cases e <;> rfl

@[simp] theorem Core.ctx_setEng (c : Core) (e : Eng) (x : Engine) (b : Bool) : (c.setEng e x).ctx b = c.ctx b := by
  cases b <;> cases e <;> rfl

/-! ### Scalar registers -/

theorem Reg.toNat_ne {r q : BitVec n} (h : q ≠ r) : q.toNat ≠ r.toNat := fun e => h (BitVec.eq_of_toNat_eq e)

/-- A write of a scalar register leaves its value, FULL, and no mark (R131, R169). -/
theorem Ctx.setS_holds (c : Ctx) (r : Reg) (v : W64) : (c.setS r v).Holds r v := by
  unfold Ctx.Holds Ctx.getS Ctx.getFE Ctx.getMark Ctx.setS
  by_cases h : r = 0#6
  · simp [h]
  · simp [h]

/-- A write of a scalar register leaves every other one. -/
theorem Ctx.setS_keepsS (c : Ctx) (r : Reg) (v : W64) : c.KeepsS (c.setS r v) [r] := by
  intro q hq
  have hq : q ≠ r := by simpa using hq
  have hn : ¬r.toNat = q.toNat := Ne.symm (Reg.toNat_ne hq)
  unfold Ctx.getS Ctx.getFE Ctx.getMark Ctx.setS
  by_cases h : r = 0#6
  · simp [h]
  · simp [h, FMap.get_put, hn]

theorem Ctx.setS_keepsA (c : Ctx) (r : Reg) (v : W64) (l : List AReg) : c.KeepsA (c.setS r v) l := by
  intro q _; simp [Ctx.getA]

theorem Ctx.setS_keepsP (c : Ctx) (r : Reg) (v : W64) (l : List PReg) : c.KeepsP (c.setS r v) l := by
  intro q _; simp [Ctx.getP]

theorem Ctx.getFE_setFE (c : Ctx) (r : Reg) (f : FE) : (c.setFE r f).getFE r = if r = 0 then .full else f := by
  unfold Ctx.getFE Ctx.setFE
  by_cases h : r = 0#6
  · simp [h]
  · simp [h]

theorem Ctx.getMark_setMark (c : Ctx) (r : Reg) (m : Option Mark) : (c.setMark r m).getMark r = if r = 0 then none else m := by
  unfold Ctx.getMark Ctx.setMark
  by_cases h : r = 0#6
  · simp [h]
  · simp [h]

@[simp] theorem Ctx.getS_setMark (c : Ctx) (r q : Reg) (m : Option Mark) : (c.setMark r m).getS q = c.getS q := by simp [Ctx.getS]

@[simp] theorem Ctx.getFE_setMark (c : Ctx) (r q : Reg) (m : Option Mark) : (c.setMark r m).getFE q = c.getFE q := by
  simp [Ctx.getFE]

@[simp] theorem Ctx.getS_setFE (c : Ctx) (r q : Reg) (f : FE) : (c.setFE r f).getS q = c.getS q := by simp [Ctx.getS]

@[simp] theorem Ctx.getMark_setFE (c : Ctx) (r q : Reg) (f : FE) : (c.setFE r f).getMark q = c.getMark q := by simp [Ctx.getMark]

/-! ### Address registers and predicates -/

@[simp] theorem Ctx.getA_setA_self (c : Ctx) (r : AReg) (v : VAddr) : (c.setA r v).getA r = v := by
  simp [Ctx.getA, Ctx.setA]

theorem Ctx.setA_keepsA (c : Ctx) (r : AReg) (v : VAddr) : c.KeepsA (c.setA r v) [r] := by
  intro q hq
  have hq : q ≠ r := by simpa using hq
  simp [Ctx.getA, Ctx.setA, FMap.get_put, Ne.symm (Reg.toNat_ne hq)]

theorem Ctx.setA_keepsS (c : Ctx) (r : AReg) (v : VAddr) (l : List Reg) : c.KeepsS (c.setA r v) l := by
  intro q _; simp [Ctx.getS, Ctx.getFE, Ctx.getMark]

theorem Ctx.setA_keepsP (c : Ctx) (r : AReg) (v : VAddr) (l : List PReg) : c.KeepsP (c.setA r v) l := by
  intro q _; simp [Ctx.getP]

/-- A write of a predicate leaves its value; `p0` reads true whatever is written (R92). -/
theorem Ctx.getP_setP_self (c : Ctx) (r : PReg) (v : Bool) : (c.setP r v).getP r = if r = 0 then true else v := by
  unfold Ctx.getP Ctx.setP
  by_cases h : r = 0#3
  · simp [h]
  · simp [h]

theorem Ctx.setP_keepsP (c : Ctx) (r : PReg) (v : Bool) : c.KeepsP (c.setP r v) [r] := by
  intro q hq
  have hq : q ≠ r := by simpa using hq
  have hn : ¬r.toNat = q.toNat := Ne.symm (Reg.toNat_ne hq)
  unfold Ctx.getP Ctx.setP
  by_cases h : r = 0#3
  · simp [h]
  · simp [h, FMap.get_put, hn]

theorem Ctx.setP_keepsS (c : Ctx) (r : PReg) (v : Bool) (l : List Reg) : c.KeepsS (c.setP r v) l := by
  intro q _; simp [Ctx.getS, Ctx.getFE, Ctx.getMark]

theorem Ctx.setP_keepsA (c : Ctx) (r : PReg) (v : Bool) (l : List AReg) : c.KeepsA (c.setP r v) l := by
  intro q _; simp [Ctx.getA]

/-! ### Moving on -/

theorem Ctx.advance_moved (c : Ctx) : c.Moved c.advance := by
  unfold Ctx.Moved Ctx.advance
  split <;> simp_all

theorem Ctx.advance_keepsS (c : Ctx) (l : List Reg) : c.KeepsS c.advance l := by
  intro q _; simp [Ctx.getS, Ctx.getFE, Ctx.getMark]

theorem Ctx.advance_keepsA (c : Ctx) (l : List AReg) : c.KeepsA c.advance l := by intro q _; simp [Ctx.getA]

theorem Ctx.advance_keepsP (c : Ctx) (l : List PReg) : c.KeepsP c.advance l := by intro q _; simp [Ctx.getP]

end Sys2Proof.Machine
end

