-- ==== Sys2Proof/Laws/Commands.lean ====
section
/-!
SUPPORT. Commands of a queue and packets that arrive: a command replaced is the one that is found again, and a packet that a
statement speaks of reaches its receiver.
-/

namespace Sys2Proof.Machine

/-! ### Commands -/

theorem Engine.command_setCommand (x : Engine) (e : Eng) (t u : Entry) (h : x.command e u.seq = some t) (hc : u.isCommand e = true) :
    (x.setCommand e u).command e u.seq = some u := by
  unfold Engine.command Engine.setCommand at *
  dsimp only
  generalize x.q = q at h ⊢
  induction q with
  | nil => simp at h
  | cons y q ih =>
    by_cases hy : (y.isCommand e && decide (y.seq = u.seq)) = true
    · rw [List.map_cons, if_pos hy, List.find?_cons_of_pos (by simp [hc])]
    · rw [List.find?_cons, Bool.eq_false_iff.2 hy] at h
      rw [List.map_cons, if_neg hy, List.find?_cons, Bool.eq_false_iff.2 hy]
      exact ih h

/-- A command of a queue replaced is found in its place. -/
theorem State.command_setCommand (s : State) (k : Nat) (e : Eng) (t u : Entry) (h : s.command k e u.seq = some t)
    (hc : u.isCommand e = true) : (s.setCommand k e u).command k e u.seq = some u := by
  unfold State.command State.setCommand at *
  rw [State.core_setCore_self, Core.eng_setEng_self]
  exact Engine.command_setCommand _ _ _ _ h hc

@[simp] theorem State.setCommand_mem (s : State) (k : Nat) (e : Eng) (u : Entry) : (s.setCommand k e u).mem = s.mem := rfl

theorem State.setCommand_core_of_ne (s : State) {k j : Nat} (e : Eng) (u : Entry) (h : k ≠ j) :
    (s.setCommand k e u).core j = s.core j := State.core_setCore_of_ne _ _ h

@[simp] theorem State.setCommand_ctx (s : State) (k j : Nat) (e : Eng) (u : Entry) (b : Bool) :
    (s.setCommand k e u).ctx j b = s.ctx j b := by
  unfold State.setCommand State.ctx
  rw [State.core_setCore]
  split
  · next h => subst h; rw [Core.ctx_setEng]
  · rfl

/-! ### Packets -/

/-- A packet that has come reaches its receiver (R402). -/
theorem State.receive_got {s x : State} {opc : Nat} {p : Packet} (h : s.Got opc p x) (f : State → State) :
    s.receive opc p f = f x := by
  obtain ⟨ho, hd, hm, rfl⟩ := h
  unfold State.receive
  rw [if_neg (by simp [ho])]
  by_cases hs : s.ownPkg p.spkg = true
  · simp only [if_pos hs]
    rw [if_pos (by simp [hd, hm hs])]
  · simp only [if_neg hs, if_pos hd]

/-- An answer leaves as the statements say, where its destination can be reached (R403, R406). -/
theorem State.send_reachable (s : State) (p : Packet) (h : s.hops p.dpkg ≠ 3) : (s.send p).out = s.out ++ [p] := by
  unfold State.send; rw [if_neg h]

theorem State.answer_replied (s : State) (opc : Nat) (p : Packet) (arg : W64) (data : List Byte) :
    s.Replied (s.answer opc p arg data) p opc arg data := fun h =>
  ⟨_, State.send_reachable _ _ h, rfl, rfl, rfl, rfl, rfl, rfl, rfl⟩

end Sys2Proof.Machine
end

