-- ==== Sys2Proof/Laws/Memory.lean ====
section
/-!
SUPPORT. Laws of physical memory: what a write of bytes leaves at each address, reads after writes, and that every operation that
changes memory keeps its canonical form (log entry 2).
-/

namespace Sys2Proof.Machine

/-! ### Bytes of sparse storage -/

/-- A write of bytes, read at one address. -/
theorem get_writeBytes (m : FMap Byte) (k j : Nat) (bs : List Byte) :
    FMap.get 0 (writeBytes m k bs) j = if k ≤ j ∧ j < k + bs.length then bs.getD (j - k) 0 else FMap.get 0 m j := by
  induction bs generalizing m k with
  | nil => simp [writeBytes]
  | cons b bs ih =>
    rw [writeBytes, ih, FMap.get_put]
    by_cases h : k = j
    · subst h; simp
    · by_cases h1 : k + 1 ≤ j ∧ j < k + 1 + bs.length
      · have e : j - k = (j - (k + 1)) + 1 := by omega
        rw [if_pos h1, if_pos ⟨by omega, by simp; omega⟩, e, List.getD_cons_succ]
      · rw [if_neg h1, if_neg h, if_neg (by simp; omega)]

@[simp] theorem length_readBytes (m : FMap Byte) (k n : Nat) : (readBytes m k n).length = n := by
  induction n generalizing k with
  | zero => rfl
  | succ n ih => simp [readBytes, ih]

/-- A read depends on the bytes of its range alone. -/
theorem readBytes_congr (m l : FMap Byte) (k n : Nat) (h : ∀ j, k ≤ j → j < k + n → FMap.get 0 m j = FMap.get 0 l j) :
    readBytes m k n = readBytes l k n := by
  induction n generalizing k with
  | zero => rfl
  | succ n ih =>
    rw [readBytes, readBytes, h k (Nat.le_refl k) (by omega), ih (k + 1) fun j a b => h j (by omega) (by omega)]

/-- A read of what was written gives it back. -/
theorem readBytes_writeBytes_self (m : FMap Byte) (k : Nat) (bs : List Byte) : readBytes (writeBytes m k bs) k bs.length = bs := by
  induction bs generalizing m k with
  | nil => rfl
  | cons b bs ih =>
    rw [List.length_cons, readBytes, writeBytes, ih, get_writeBytes, if_neg (by omega), FMap.get_put_self]

/-- A write leaves every range that it does not meet. -/
theorem readBytes_writeBytes_apart (m : FMap Byte) (k j n : Nat) (bs : List Byte) (h : j + n ≤ k ∨ k + bs.length ≤ j) :
    readBytes (writeBytes m k bs) j n = readBytes m j n :=
  readBytes_congr _ _ _ _ fun i a b => by rw [get_writeBytes, if_neg (by omega)]

theorem wf_writeBytes (m : FMap Byte) (k : Nat) (bs : List Byte) (h : Memory.wf m = true) : Memory.wf (writeBytes m k bs) = true := by
  induction bs generalizing m k with
  | nil => exact h
  | cons b bs ih => exact ih _ _ (FMap.wf_put _ _ _ _ h)

/-! ### Little-endian words -/

@[simp] theorem length_leBytes (n v : Nat) : (leBytes n v).length = n := by
  induction n generalizing v with
  | zero => rfl
  | succ n ih => simp [leBytes, ih]

/-- The bytes of a number stand for it, modulo their width (R246). -/
theorem leNat_leBytes (n v : Nat) : leNat (leBytes n v) = v % 256 ^ n := by
  induction n generalizing v with
  | zero => simp [leBytes, leNat, Nat.mod_one]
  | succ n ih =>
    rw [leBytes, leNat, ih, BitVec.toNat_ofNat, show (2 : Nat) ^ 8 = 256 from rfl, Nat.mod_mod, Nat.pow_succ, Nat.mul_comm (256 ^ n),
      Nat.mod_mul]

/-! ### Images -/

theorem wf_append (m l : FMap Byte) (h : FMap.wf 0 m = true) (g : FMap.wf 0 l = true) (a : ∀ p ∈ m, FMap.above p.1 l) :
    FMap.wf 0 (m ++ l) = true := by
  induction m with
  | nil => exact g
  | cons p m ih =>
    obtain ⟨i, v⟩ := p
    obtain ⟨hv, hi, hm⟩ := (FMap.wf_cons ..).1 h
    refine (FMap.wf_cons ..).2 ⟨hv, ?_, ih hm fun q hq => a q (List.mem_cons_of_mem _ hq)⟩
    intro q hq
    rcases List.mem_append.1 hq with hq | hq
    · exact hi q hq
    · exact a (i, v) (List.mem_cons_self ..) q hq

/-- What a clipped image holds lies in its range and is in canonical form. -/
theorem clipImage_spec (hi lo : Nat) (m : FMap Byte) :
    FMap.wf 0 (clipImage hi lo m) = true ∧ ∀ p ∈ clipImage hi lo m, lo ≤ p.1 ∧ p.1 < hi := by
  induction m generalizing lo with
  | nil => exact ⟨rfl, by simp [clipImage]⟩
  | cons p m ih =>
    obtain ⟨i, b⟩ := p
    simp only [clipImage]
    split
    · next h =>
      obtain ⟨hw, hr⟩ := ih (i + 1)
      refine ⟨(FMap.wf_cons ..).2 ⟨h.2.2, fun q hq => ?_, hw⟩, fun q hq => ?_⟩
      · have := hr q hq; omega
      · rcases List.mem_cons.1 hq with rfl | hq
        · exact ⟨h.1, h.2.1⟩
        · have := hr q hq; omega
    · exact ih lo

theorem wf_image (m : FMap Byte) (key n : Nat) (l : FMap Byte) (h : Memory.wf m = true) :
    Memory.wf (m.filter (fun p => p.1 < key) ++ clipImage (key + n) key l ++ m.filter (fun p => key + n ≤ p.1)) = true := by
  obtain ⟨hw, hr⟩ := clipImage_spec (key + n) key l
  refine wf_append _ _ (wf_append _ _ (FMap.wf_filter _ _ _ h) hw fun p hp q hq => ?_) (FMap.wf_filter _ _ _ h) fun p hp q hq => ?_
  · have h1 := (List.mem_filter.1 hp).2
    have h2 := hr q hq
    simp only [decide_eq_true_eq] at h1
    omega
  · have h2 := (List.mem_filter.1 hq).2
    simp only [decide_eq_true_eq] at h2
    rcases List.mem_append.1 hp with hp | hp
    · have h1 := (List.mem_filter.1 hp).2
      simp only [decide_eq_true_eq] at h1
      omega
    · have h1 := hr p hp
      omega

/-! ### The operations that change memory -/

/-- A run of steps that each leave memory leaves memory. -/
theorem foldl_mem {α : Type} (f : State → α → State) (h : ∀ s a, (f s a).mem = s.mem) (l : List α) (s : State) :
    (l.foldl f s).mem = s.mem := by
  induction l generalizing s with
  | nil => rfl
  | cons a l ih => rw [List.foldl_cons, ih, h]

/-- A run of steps that each keep memory in its canonical form keeps it. -/
theorem foldl_memInv {α : Type} (f : State → α → State) (h : ∀ s a, s.MemInv → (f s a).MemInv) (l : List α) (s : State)
    (hs : s.MemInv) : (l.foldl f s).MemInv := by
  induction l generalizing s with
  | nil => exact hs
  | cons a l ih => exact ih _ (h _ _ hs)

/-- A state with the same memory has the same invariant. -/
theorem State.memInv_of_mem {s t : State} (h : t.mem = s.mem) (hs : s.MemInv) : t.MemInv := by
  unfold State.MemInv; rw [h]; exact hs

@[simp] theorem State.addFlight_mem (s : State) (f : Flight) : (s.addFlight f).1.mem = s.mem := rfl
@[simp] theorem State.takeTag_mem (s : State) : s.takeTag.1.mem = s.mem := rfl
@[simp] theorem State.freeVal_mem (s : State) (w : Nat) : (s.freeVal w).1.mem = s.mem := rfl

@[simp] theorem State.mapCores_mem (s : State) (ks : List Nat) (f : Core → Core) : (s.mapCores ks f).mem = s.mem := by
  unfold State.mapCores
  refine foldl_mem _ ?_ ks s
  intro s k; exact State.setCore_mem ..

theorem State.sendInvals_mem (s : State) (o : Origin) (of line : Nat) : (s.sendInvals o of line).mem = s.mem :=
  foldl_mem _ (fun s d => by split <;> rfl) _ s

/-- A write at its home: the bytes are there, and every other byte is as it was (R361). -/
theorem State.homeWrite_mem (s : State) (o : Origin) (of key : Nat) (bs : List Byte) :
    (s.homeWrite o of key bs).mem = writeBytes s.mem key bs :=
  foldl_mem _ (fun s l => s.sendInvals_mem o of l) _ _

theorem State.homeWrite_byteAt (s : State) (o : Origin) (of key j : Nat) (bs : List Byte) :
    (s.homeWrite o of key bs).byteAt j = if key ≤ j ∧ j < key + bs.length then bs.getD (j - key) 0 else s.byteAt j := by
  unfold State.byteAt; rw [State.homeWrite_mem, get_writeBytes]

theorem State.homeWrite_memInv (s : State) (o : Origin) (of key : Nat) (bs : List Byte) (h : s.MemInv) :
    (s.homeWrite o of key bs).MemInv := by
  unfold State.MemInv; rw [State.homeWrite_mem]; exact wf_writeBytes _ _ _ h

/-- A write of another package at its home (R361). -/
theorem State.remoteWriteAs_mem (s : State) (t key : Nat) (bs : List Byte) : (s.remoteWriteAs t key bs).mem = writeBytes s.mem key bs := by
  unfold State.remoteWriteAs
  exact (foldl_mem _ (fun s d => State.addFlight_mem ..) _ _).trans (State.homeWrite_mem ..)

theorem State.remoteApply_mem (s : State) (key : Nat) (bs : List Byte) : (s.remoteApply key bs).mem = writeBytes s.mem key bs := by
  unfold State.remoteApply; dsimp only; rw [State.remoteWriteAs_mem, State.takeTag_mem]

theorem State.remoteApply_memInv (s : State) (key : Nat) (bs : List Byte) (h : s.MemInv) : (s.remoteApply key bs).MemInv := by
  unfold State.MemInv; rw [State.remoteApply_mem]; exact wf_writeBytes _ _ _ h

/-- An image written to memory (R454). -/
theorem State.writeImage_mem (s : State) (key n : Nat) (m : FMap Byte) :
    (s.writeImage key n m).mem =
      s.mem.filter (fun p => p.1 < key) ++ clipImage (key + n) key (imageAt key m) ++ s.mem.filter (fun p => key + n ≤ p.1) := by
  unfold State.writeImage
  refine (foldl_mem _ ?_ _ _)
  intro s d
  refine (foldl_mem _ ?_ _ _)
  intro s p; exact State.addFlight_mem ..

theorem State.writeImage_memInv (s : State) (key n : Nat) (m : FMap Byte) (h : s.MemInv) : (s.writeImage key n m).MemInv := by
  unfold State.MemInv; rw [State.writeImage_mem]; exact wf_image _ _ _ _ h

/-- Noting whose write a die has read leaves memory. -/
theorem State.noteSeen_mem (s : State) (d line : Nat) : (s.noteSeen d line).mem = s.mem := by
  unfold State.noteSeen; dsimp only; split
  · rfl
  · exact State.setDie_mem ..

/-- A copy read through the caches of a die leaves memory. -/
theorem State.readLine_mem (s : State) (k : Nat) (g : Agent) (key n : Nat) : (s.readLine k g key n).1.mem = s.mem := by
  unfold State.readLine
  dsimp only
  split
  · exact State.noteSeen_mem ..
  · split
    · rfl
    · exact (State.setDie_mem ..).trans (State.noteSeen_mem ..)

theorem State.readVia_mem (s : State) (k : Nat) (g : Agent) (fuel key n : Nat) : (s.readVia k g fuel key n).1.mem = s.mem := by
  induction fuel generalizing s key n with
  | zero => rfl
  | succ fuel ih =>
    unfold State.readVia
    split
    · rfl
    · simp only [ih, State.readLine_mem]

/-- Package reset keeps far memory in its canonical form (log entry 54). -/
theorem wf_farMemory (m : FMap Byte) (h : Memory.wf m = true) : Memory.wf (m.filter fun p => 8 ≤ homeOf p.1) = true :=
  FMap.wf_filter _ _ _ h

end Sys2Proof.Machine
end

