-- ==== Sys2Proof/Laws/Ops.lean ====
section
/-!
SUPPORT. What the shared operations of the control sequencer can do, once each: sources and destinations, the checks before an
effect, results, descriptors, taking a trap and returning from one.
-/

namespace Sys2Proof.Machine

/-! ### How a word ends -/

@[simp] theorem Res.out_ok (s : State) : (Res.ok s).out = .next s := rfl
@[simp] theorem Res.out_trap (s : State) (t : Trap) : (Res.trap s t).out = .next (s.takeTrap s.focusCore s.focusFw t) := rfl
@[simp] theorem Res.out_wait (s : State) : (Res.wait s).out = .next s.blockCur := rfl
@[simp] theorem Res.dropReads_ok (s : State) : (Res.ok s).dropReads = .ok s.dropReads := rfl
@[simp] theorem Res.dropReads_trap (s : State) (t : Trap) : (Res.trap s t).dropReads = .trap s.dropReads t := rfl
@[simp] theorem Res.dropReads_wait (s : State) : (Res.wait s).dropReads = .wait s := rfl

/-- Every word answers a next state: it is done, it traps, or it waits. -/
theorem Res.out_next (r : Res) : ∃ t, r.out = .next t := by cases r <;> exact ⟨_, rfl⟩

/-! ### Sources and destinations (R130, R131) -/

/-- A source that is FULL and bears no mark gives its value. -/
theorem readSrc_reads {s : State} {r : Reg} {v : W64} (h : s.Reads r v) (pol : Bool) (k : W64 → Res) : readSrc s r pol k = k v := by
  obtain ⟨hf, hm, hv⟩ := h
  unfold readSrc
  rw [hf]
  simp only [hm, hv]

/-- Everything that reading a source can do. -/
theorem readSrc_cases (s : State) (r : Reg) (pol : Bool) (k : W64 → Res) :
    (s.Reads r (s.cur.getS r) ∧ readSrc s r pol k = k (s.cur.getS r))
    ∨ (∃ m, s.cur.getFE r = .full ∧ s.cur.getMark r = some m ∧ readSrc s r pol k = .trap (s.markRead r m) m.trap)
    ∨ (s.cur.getFE r = .pending ∧ pol = true ∧ readSrc s r pol k = .trap s (mkTrap .feEmpty r.toNat 0 0 0))
    ∨ (s.cur.getFE r = .pending ∧ pol = false ∧ readSrc s r pol k = .wait s)
    ∨ (s.cur.getFE r = .empty ∧ readSrc s r pol k = .trap s (mkTrap .feEmpty r.toNat 1 0 0)) := by
  unfold readSrc State.Reads
  cases hf : s.cur.getFE r with
  | full => cases hm : s.cur.getMark r <;> simp
  | pending => cases pol <;> simp
  | empty => simp

/-- A destination that is not PENDING does not wait. -/
theorem waitDest_takes {s : State} {d : Reg} (h : s.Takes d) (k : Res) : waitDest s d k = k := if_neg h

theorem waitDest_pending {s : State} {d : Reg} (h : s.cur.getFE d = .pending) (k : Res) : waitDest s d k = .wait s := if_pos h

/-! ### Checks before an effect (R97) -/

theorem notInSlot_noSlot {s : State} (h : s.NoSlot) (k : Res) : notInSlot s k = k := by
  unfold notInSlot; unfold State.NoSlot at h; rw [h]; rfl

theorem notInSlot_slot {s : State} {t : VAddr} (h : s.cur.slot = some t) (k : Res) :
    notInSlot s k = .trap s (mkTrap .illegalSlot s.word.toNat 0 0 0) := by
  unfold notInSlot; rw [h]; rfl

theorem userOnly_user {s : State} (h : s.focusFw = false) (k : Res) : userOnly s k = k := by unfold userOnly; rw [h]; rfl

theorem userOnly_firmware {s : State} (h : s.focusFw = true) (k : Res) :
    userOnly s k = .trap s (mkTrap .priv s.word.toNat 1 0 0) := by unfold userOnly; rw [h]; rfl

theorem coreState_may {s : State} (h : s.MayUseCore) (k : Res) : coreState s k = k := by
  unfold coreState
  unfold State.MayUseCore at h
  cases hf : s.focusFw with
  | false => simp
  | true => simp [h hf]

theorem coreState_priv {s : State} (h : s.focusFw = true) (g : s.curCore.run = true) (k : Res) :
    coreState s k = .trap s (mkTrap .priv s.word.toNat 2 0 0) := by unfold coreState; rw [h, g]; rfl

/-! ### Results -/

theorem Ctx.onlyRegs_setS_advance (c : Ctx) (d : Reg) (v : W64) : c.OnlyRegs (c.setS d v).advance := by
  unfold Ctx.OnlyRegs Ctx.advance Ctx.setS
  split <;> split <;> rfl

theorem Ctx.onlyRegs_setA_advance (c : Ctx) (d : AReg) (v : VAddr) : c.OnlyRegs (c.setA d v).advance := by
  unfold Ctx.OnlyRegs Ctx.advance Ctx.setA
  split <;> rfl

theorem Ctx.onlyRegs_setP_advance (c : Ctx) (d : PReg) (v : Bool) : c.OnlyRegs (c.setP d v).advance := by
  unfold Ctx.OnlyRegs Ctx.advance Ctx.setP
  split <;> split <;> rfl

theorem State.onlyCtx_setCur (s : State) (x : Ctx) : s.OnlyCtx (s.setCur x) := by unfold State.OnlyCtx; rw [State.cur_setCur]

theorem Ctx.Moved.of_same {c d e : Ctx} (h : d.Moved e) (hp : d.pc = c.pc) (hs : d.slot = c.slot) : c.Moved e := by
  unfold Ctx.Moved at *; rw [← hp, ← hs]; exact h

theorem Ctx.KeepsS.trans {c d e : Ctx} {l : List Reg} (h : c.KeepsS d l) (g : d.KeepsS e l) : c.KeepsS e l := fun r hr =>
  ⟨(g r hr).1.trans (h r hr).1, (g r hr).2.1.trans (h r hr).2.1, (g r hr).2.2.trans (h r hr).2.2⟩

theorem Ctx.KeepsA.trans {c d e : Ctx} {l : List AReg} (h : c.KeepsA d l) (g : d.KeepsA e l) : c.KeepsA e l := fun r hr =>
  (g r hr).trans (h r hr)

theorem Ctx.KeepsP.trans {c d e : Ctx} {l : List PReg} (h : c.KeepsP d l) (g : d.KeepsP e l) : c.KeepsP e l := fun r hr =>
  (g r hr).trans (h r hr)

theorem Ctx.Holds.advance {c : Ctx} {r : Reg} {v : W64} (h : c.Holds r v) : c.advance.Holds r v := by
  have := c.advance_keepsS [] r (by simp)
  unfold Ctx.Holds at *
  rw [this.1, this.2.1, this.2.2]; exact h

/-- A word with one scalar result writes it, goes on, and leaves everything else. -/
theorem writeS_wrote (s : State) (d : Reg) (v : W64) : ∃ t, (writeS s d v).out = .next t ∧ s.WroteS d v t := by
  refine ⟨_, rfl, s.onlyCtx_setCur _, ?_⟩
  rw [State.cur_setCur]
  exact ⟨Ctx.onlyRegs_setS_advance .., (Ctx.advance_moved _).of_same (by simp) (by simp), (Ctx.setS_holds ..).advance,
    Ctx.KeepsS.trans (Ctx.setS_keepsS _ _ _) (Ctx.advance_keepsS _ _), Ctx.KeepsA.trans (Ctx.setS_keepsA _ _ _ _) (Ctx.advance_keepsA _ _),
    Ctx.KeepsP.trans (Ctx.setS_keepsP _ _ _ _) (Ctx.advance_keepsP _ _)⟩

/-- A word with an address result writes it, goes on, and leaves everything else. -/
theorem writeA_wrote (s : State) (d : AReg) (v : VAddr) : ∃ t, (writeA s d v).out = .next t ∧ s.WroteA d v t := by
  refine ⟨_, rfl, s.onlyCtx_setCur _, ?_⟩
  rw [State.cur_setCur]
  refine ⟨Ctx.onlyRegs_setA_advance .., (Ctx.advance_moved _).of_same (by simp) (by simp), ?_,
    Ctx.KeepsS.trans (Ctx.setA_keepsS _ _ _ _) (Ctx.advance_keepsS _ _), Ctx.KeepsA.trans (Ctx.setA_keepsA _ _ _) (Ctx.advance_keepsA _ _),
    Ctx.KeepsP.trans (Ctx.setA_keepsP _ _ _ _) (Ctx.advance_keepsP _ _)⟩
  rw [Ctx.advance_keepsA _ [] d (by simp), Ctx.getA_setA_self]

/-- A word with a predicate result writes it, goes on, and leaves everything else. -/
theorem writeP_wrote (s : State) (d : PReg) (v : Bool) : ∃ t, (writeP s d v).out = .next t ∧ s.WroteP d v t := by
  refine ⟨_, rfl, s.onlyCtx_setCur _, ?_⟩
  rw [State.cur_setCur]
  refine ⟨Ctx.onlyRegs_setP_advance .., (Ctx.advance_moved _).of_same (by simp) (by simp), ?_,
    Ctx.KeepsS.trans (Ctx.setP_keepsS _ _ _ _) (Ctx.advance_keepsS _ _), Ctx.KeepsA.trans (Ctx.setP_keepsA _ _ _ _) (Ctx.advance_keepsA _ _),
    Ctx.KeepsP.trans (Ctx.setP_keepsP _ _ _) (Ctx.advance_keepsP _ _)⟩
  rw [Ctx.advance_keepsP _ [] d (by simp), Ctx.getP_setP_self]

/-- A word without a result goes on. -/
theorem retire_passed (s : State) : ∃ t, (Res.ok s.retire).out = .next t ∧ s.Passed t := by
  refine ⟨_, rfl, s.onlyCtx_setCur _, ?_⟩
  unfold State.retire
  rw [State.cur_setCur]
  refine ⟨Ctx.advance_moved _, ?_⟩
  unfold Ctx.advance
  split
  · rfl
  · next h => rw [← h]

/-! ### Operand forms -/

theorem srcAB_reads {s : State} {a b : Reg} {x y : W64} (h : s.Reads a x) (g : s.Reads b y) (fa fb : Bool) (k : W64 → W64 → Res) :
    srcAB s a b fa fb k = k x y := by
  unfold srcAB; rw [readSrc_reads h, readSrc_reads g]

/-- A word of two sources whose operands can be read completes with its result. -/
theorem binOp_wrote {s : State} {d a b : Reg} {x y : W64} (h : s.Reads a x) (g : s.Reads b y) (k : s.Takes d) (fa fb : Bool)
    (f : W64 → W64 → W64) : ∃ t, (binOp s d a b fa fb f).out = .next t ∧ s.WroteS d (f x y) t := by
  unfold binOp; rw [srcAB_reads h g, waitDest_takes k]; exact writeS_wrote ..

/-- A word of one source whose operand can be read completes with its result. -/
theorem unOp_wrote {s : State} {d a : Reg} {x : W64} (h : s.Reads a x) (k : s.Takes d) (fa : Bool) (f : W64 → W64) :
    ∃ t, (unOp s d a fa f).out = .next t ∧ s.WroteS d (f x) t := by
  unfold unOp; rw [readSrc_reads h, waitDest_takes k]; exact writeS_wrote ..

/-- A word of two sources and its old destination, all of which can be read, completes with its result. -/
theorem triOp_wrote {s : State} {d a b : Reg} {x y z : W64} (h : s.Reads a x) (g : s.Reads b y) (k : s.Reads d z) (fa fb : Bool)
    (f : W64 → W64 → W64 → W64) : ∃ t, (triOp s d a b fa fb f).out = .next t ∧ s.WroteS d (f x y z) t := by
  unfold triOp; rw [srcAB_reads h g, readSrc_reads k]; exact writeS_wrote ..

/-- A floating word writes its result and raises its flags, and leaves everything else (R182). -/
theorem writeF_wrote (s : State) (d : Reg) (v : W64) (f : FlagSet) : ∃ t, (writeF s d (v, f)).out = .next t ∧ s.WroteF d v f t := by
  refine ⟨_, rfl, s.onlyCtx_setCur _, ?_⟩
  rw [State.cur_setCur]
  refine ⟨?_, ?_, (Ctx.advance_moved _).of_same (by simp [Ctx.orFlags]) (by simp [Ctx.orFlags]), (Ctx.setS_holds ..).advance,
    fun r hr => ?_, fun r _ => ?_, fun r _ => ?_⟩
  · unfold Ctx.OnlyRegsAndFlags Ctx.OnlyRegs Ctx.advance Ctx.setS
    split <;> split <;> rfl
  · simp [Ctx.Raised, Ctx.orFlags]
  · exact Ctx.KeepsS.trans (Ctx.setS_keepsS _ _ _) (Ctx.advance_keepsS _ _) r hr
  · simp [Ctx.getA, Ctx.orFlags]
  · simp [Ctx.getP, Ctx.orFlags]

/-! ### Descriptors (R279) -/

theorem readDesc_desc {s t : State} {va : VAddr} {n : Nat} {bs : List Byte} (h : s.Desc va n bs t) (k : State → List Byte → Res) :
    readDesc s va n k = (k t bs).keepDesc va bs := by
  unfold readDesc
  rw [h.1]
  simp only [h.2.1, h.2.2, ne_eq, not_true_eq_false, if_false]

/-- A word that has not begun a demand keeps no descriptor. -/
theorem Res.keepDesc_eq {s : State} (h : s.cur.op ≠ some .demand) (va : VAddr) (bs : List Byte) :
    (Res.ok s).keepDesc va bs = .ok s := if_neg h

@[simp] theorem Res.keepDesc_trap (s : State) (t : Trap) (va : VAddr) (bs : List Byte) :
    (Res.trap s t).keepDesc va bs = .trap s t := rfl

@[simp] theorem Res.keepDesc_wait (s : State) (va : VAddr) (bs : List Byte) : (Res.wait s).keepDesc va bs = .wait s := rfl

/-- A context that has begun nothing has read no descriptor. -/
theorem Ctx.descRead_none {c : Ctx} (h : c.op = none) (va : VAddr) (n : Nat) : c.descRead va n = none := by
  unfold Ctx.descRead; rw [h]

theorem readDesc_misaligned {s : State} {va : VAddr} (h : va.toNat % 16 ≠ 0) (n : Nat) (k : State → List Byte → Res)
    (hr : s.cur.descRead va n = none) : readDesc s va n k = .trap s (mkTrap .align va.toNat 16 0 0) := by
  unfold readDesc; rw [hr]; exact if_pos h

/-! ### Taking an exception, and returning (R194, R439, R441) -/

/-- A trap that finds its handler: the state after it. -/
theorem State.takeTrapAt_handled (s : State) (k : Nat) (fw : Bool) (t : Trap) (async : Bool) (pc : VAddr) (slot : Option VAddr)
    (h : (s.ctx k fw).CanTrap fw) :
    s.takeTrapAt k fw t async pc slot =
      (let u := s.setCtx k fw (((s.ctx k fw).countStall s.tb).enter fw t async pc slot)
       let v := u.setCore k ((u.core k).leaveDemand fw)
       if async then v.dropWalk k else v) := by
  have hc : ((s.ctx k fw).countStall s.tb).ih = (s.ctx k fw).ih ∧ ((s.ctx k fw).countStall s.tb).tvec = (s.ctx k fw).tvec := by
    unfold Ctx.countStall; split <;> exact ⟨rfl, rfl⟩
  obtain ⟨hi, hv⟩ := h
  unfold State.takeTrapAt
  simp only [hc.1, hc.2, hi, Bool.false_or]
  rcases hv with rfl | hv
  · rw [if_neg (by simp), if_neg (by simp)]
  · have hv : ¬(s.ctx k fw).tvec = 0#64 := hv
    rw [if_neg (by simp [hv]), if_neg (by simp [hv])]

@[simp] theorem Core.leaveDemand_user (c : Core) (fw : Bool) : (c.leaveDemand fw).user = c.user := by
  unfold Core.leaveDemand Core.dropForced Core.leaveLane
  split
  · rfl
  · dsimp only; split
    · rfl
    · split <;> split <;> rfl

@[simp] theorem Core.leaveDemand_firm (c : Core) (fw : Bool) : (c.leaveDemand fw).firm = c.firm := by
  unfold Core.leaveDemand Core.dropForced Core.leaveLane
  split
  · rfl
  · dsimp only; split
    · rfl
    · split <;> split <;> rfl

@[simp] theorem Core.leaveDemand_ctx (c : Core) (fw b : Bool) : (c.leaveDemand fw).ctx b = c.ctx b := by
  cases b
  · exact Core.leaveDemand_user ..
  · exact Core.leaveDemand_firm ..

/-- The context after a trap that finds its handler. -/
theorem State.takeTrap_ctx (s : State) (k : Nat) (fw : Bool) (t : Trap) (h : (s.ctx k fw).CanTrap fw) :
    (s.takeTrap k fw t).ctx k fw =
      ((s.ctx k fw).countStall s.tb).enter fw t false (s.ctx k fw).pc (s.ctx k fw).slot := by
  unfold State.takeTrap
  rw [State.takeTrapAt_handled _ _ _ _ _ _ _ h]
  simp only [State.ctx, Bool.false_eq_true, if_false, State.core_setCore_self, Core.leaveDemand_ctx]
  exact State.ctx_setCtx_self ..

/-- The other context of the core is as it was. -/
theorem State.takeTrap_other (s : State) (k : Nat) (fw : Bool) (t : Trap) (h : (s.ctx k fw).CanTrap fw) :
    (s.takeTrap k fw t).ctx k (!fw) = s.ctx k (!fw) := by
  unfold State.takeTrap
  rw [State.takeTrapAt_handled _ _ _ _ _ _ _ h]
  simp only [State.ctx, Bool.false_eq_true, if_false, State.core_setCore_self, Core.leaveDemand_ctx]
  exact State.ctx_setCtx_not ..

/-- Memory, the dies and every queue are as they were after a trap that finds its handler. -/
theorem State.takeTrap_mem (s : State) (k : Nat) (fw : Bool) (t : Trap) (h : (s.ctx k fw).CanTrap fw) :
    (s.takeTrap k fw t).mem = s.mem ∧ (s.takeTrap k fw t).dies = s.dies ∧ (s.takeTrap k fw t).lqs = s.lqs := by
  unfold State.takeTrap
  rw [State.takeTrapAt_handled _ _ _ _ _ _ _ h]
  exact ⟨rfl, rfl, rfl⟩

theorem Ctx.countStall_keepsS (c : Ctx) (now : Nat) (l : List Reg) : c.KeepsS (c.countStall now) l := by
  intro r _; unfold Ctx.countStall; split <;> exact ⟨rfl, rfl, rfl⟩

/-- What a trap leaves in the context that takes it. -/
theorem State.takeTrap_trapped (s : State) (k : Nat) (fw : Bool) (t : Trap) (h : (s.ctx k fw).CanTrap fw) :
    (s.ctx k fw).Trapped ((s.takeTrap k fw t).ctx k fw) t.cause.code t.e0 t.e1 t.e2 t.e3 := by
  rw [State.takeTrap_ctx _ _ _ _ h]
  have hs : ((s.ctx k fw).countStall s.tb).s = (s.ctx k fw).s ∧ ((s.ctx k fw).countStall s.tb).fe = (s.ctx k fw).fe
      ∧ ((s.ctx k fw).countStall s.tb).mark = (s.ctx k fw).mark ∧ ((s.ctx k fw).countStall s.tb).a = (s.ctx k fw).a
      ∧ ((s.ctx k fw).countStall s.tb).p = (s.ctx k fw).p := by
    unfold Ctx.countStall; split <;> exact ⟨rfl, rfl, rfl, rfl, rfl⟩
  refine ⟨by simp [Ctx.enter], rfl, rfl, rfl, rfl, ?_, rfl, rfl, rfl, fun r _ => ?_, fun r _ => ?_, fun r _ => ?_⟩
  · apply BitVec.eq_of_toNat_eq; simp [Ctx.enter]
  · simp [Ctx.enter, Ctx.getS, Ctx.getFE, Ctx.getMark, hs]
  · simp [Ctx.enter, Ctx.getA, hs]
  · simp [Ctx.enter, Ctx.getP, hs]

end Sys2Proof.Machine
end

