-- ==== Sys2Proof/Laws/PerInstr.lean ====
section
/-!
SUPPORT. Statements made of every instruction: a row of the opcode table has at most one encoding, as a word of a context or as a
command of an engine.
-/

namespace Sys2Proof.Laws.Encoding

/-- A row with a word is no command of an engine. -/
def Statement (i : Instr) : Prop := ∀ w, encode i = some w → encodeCmd i = none

theorem of_word {i : Instr} (h : encodeCmd i = none) : Statement i := fun _ _ => h

theorem of_no_word {i : Instr} (h : encode i = none) : Statement i := fun w e => by rw [h] at e; cases e

theorem add : ∀ x0 x1 x2 x3 x4, Statement (.add x0 x1 x2 x3 x4) := fun _ _ _ _ _ => of_word rfl
theorem sub : ∀ x0 x1 x2 x3 x4, Statement (.sub x0 x1 x2 x3 x4) := fun _ _ _ _ _ => of_word rfl
theorem mul : ∀ x0 x1 x2 x3 x4, Statement (.mul x0 x1 x2 x3 x4) := fun _ _ _ _ _ => of_word rfl
theorem mulh : ∀ x0 x1 x2 x3 x4, Statement (.mulh x0 x1 x2 x3 x4) := fun _ _ _ _ _ => of_word rfl
theorem mulhn : ∀ x0 x1 x2 x3 x4, Statement (.mulhn x0 x1 x2 x3 x4) := fun _ _ _ _ _ => of_word rfl
theorem div : ∀ x0 x1 x2 x3 x4, Statement (.div x0 x1 x2 x3 x4) := fun _ _ _ _ _ => of_word rfl
theorem divn : ∀ x0 x1 x2 x3 x4, Statement (.divn x0 x1 x2 x3 x4) := fun _ _ _ _ _ => of_word rfl
theorem rem : ∀ x0 x1 x2 x3 x4, Statement (.rem x0 x1 x2 x3 x4) := fun _ _ _ _ _ => of_word rfl
theorem remn : ∀ x0 x1 x2 x3 x4, Statement (.remn x0 x1 x2 x3 x4) := fun _ _ _ _ _ => of_word rfl
theorem iAnd : ∀ x0 x1 x2 x3 x4, Statement (.iAnd x0 x1 x2 x3 x4) := fun _ _ _ _ _ => of_word rfl
theorem iOr : ∀ x0 x1 x2 x3 x4, Statement (.iOr x0 x1 x2 x3 x4) := fun _ _ _ _ _ => of_word rfl
theorem iXor : ∀ x0 x1 x2 x3 x4, Statement (.iXor x0 x1 x2 x3 x4) := fun _ _ _ _ _ => of_word rfl
theorem andn : ∀ x0 x1 x2 x3 x4, Statement (.andn x0 x1 x2 x3 x4) := fun _ _ _ _ _ => of_word rfl
theorem shl : ∀ x0 x1 x2 x3 x4, Statement (.shl x0 x1 x2 x3 x4) := fun _ _ _ _ _ => of_word rfl
theorem shr : ∀ x0 x1 x2 x3 x4, Statement (.shr x0 x1 x2 x3 x4) := fun _ _ _ _ _ => of_word rfl
theorem sra : ∀ x0 x1 x2 x3 x4, Statement (.sra x0 x1 x2 x3 x4) := fun _ _ _ _ _ => of_word rfl
theorem rotl : ∀ x0 x1 x2 x3 x4, Statement (.rotl x0 x1 x2 x3 x4) := fun _ _ _ _ _ => of_word rfl
theorem iMin : ∀ x0 x1 x2 x3 x4, Statement (.iMin x0 x1 x2 x3 x4) := fun _ _ _ _ _ => of_word rfl
theorem iMax : ∀ x0 x1 x2 x3 x4, Statement (.iMax x0 x1 x2 x3 x4) := fun _ _ _ _ _ => of_word rfl
theorem minn : ∀ x0 x1 x2 x3 x4, Statement (.minn x0 x1 x2 x3 x4) := fun _ _ _ _ _ => of_word rfl
theorem maxn : ∀ x0 x1 x2 x3 x4, Statement (.maxn x0 x1 x2 x3 x4) := fun _ _ _ _ _ => of_word rfl
theorem clz : ∀ x0 x1 x2, Statement (.clz x0 x1 x2) := fun _ _ _ => of_word rfl
theorem ctz : ∀ x0 x1 x2, Statement (.ctz x0 x1 x2) := fun _ _ _ => of_word rfl
theorem popc : ∀ x0 x1 x2, Statement (.popc x0 x1 x2) := fun _ _ _ => of_word rfl
theorem sext : ∀ x0 x1 x2 x3 x4, Statement (.sext x0 x1 x2 x3 x4) := fun _ _ _ _ _ => of_word rfl
theorem zext : ∀ x0 x1 x2 x3 x4, Statement (.zext x0 x1 x2 x3 x4) := fun _ _ _ _ _ => of_word rfl
theorem bfx : ∀ x0 x1 x2 x3 x4, Statement (.bfx x0 x1 x2 x3 x4) := fun _ _ _ _ _ => of_word rfl
theorem bfi : ∀ x0 x1 x2 x3 x4, Statement (.bfi x0 x1 x2 x3 x4) := fun _ _ _ _ _ => of_word rfl
theorem sel : ∀ x0 x1 x2 x3 x4 x5, Statement (.sel x0 x1 x2 x3 x4 x5) := fun _ _ _ _ _ _ => of_word rfl
theorem pAnd : ∀ x0 x1 x2, Statement (.pAnd x0 x1 x2) := fun _ _ _ => of_word rfl
theorem pOr : ∀ x0 x1 x2, Statement (.pOr x0 x1 x2) := fun _ _ _ => of_word rfl
theorem pXor : ∀ x0 x1 x2, Statement (.pXor x0 x1 x2) := fun _ _ _ => of_word rfl
theorem pNot : ∀ x0 x1, Statement (.pNot x0 x1) := fun _ _ => of_word rfl
theorem pMov : ∀ x0 x1, Statement (.pMov x0 x1) := fun _ _ => of_word rfl
theorem cmp : ∀ x0 x1 x2 x3 x4 x5, Statement (.cmp x0 x1 x2 x3 x4 x5) := fun _ _ _ _ _ _ => of_word rfl
theorem aAdd : ∀ x0 x1 x2 x3, Statement (.aAdd x0 x1 x2 x3) := fun _ _ _ _ => of_word rfl
theorem aLea2 : ∀ x0 x1 x2 x3, Statement (.aLea2 x0 x1 x2 x3) := fun _ _ _ _ => of_word rfl
theorem aLea4 : ∀ x0 x1 x2 x3, Statement (.aLea4 x0 x1 x2 x3) := fun _ _ _ _ => of_word rfl
theorem aLea8 : ∀ x0 x1 x2 x3, Statement (.aLea8 x0 x1 x2 x3) := fun _ _ _ _ => of_word rfl
theorem aLea16 : ∀ x0 x1 x2 x3, Statement (.aLea16 x0 x1 x2 x3) := fun _ _ _ _ => of_word rfl
theorem aMov : ∀ x0 x1, Statement (.aMov x0 x1) := fun _ _ => of_word rfl
theorem aMovScalar : ∀ x0 x1 x2 x3 x4, Statement (.aMovScalar x0 x1 x2 x3 x4) := fun _ _ _ _ _ => of_word rfl
theorem aGet : ∀ x0 x1, Statement (.aGet x0 x1) := fun _ _ => of_word rfl
theorem aGetHi : ∀ x0 x1, Statement (.aGetHi x0 x1) := fun _ _ => of_word rfl
theorem aCmp : ∀ x0 x1 x2 x3, Statement (.aCmp x0 x1 x2 x3) := fun _ _ _ _ => of_word rfl
theorem faddF64 : ∀ x0 x1 x2 x3 x4 x5, Statement (.faddF64 x0 x1 x2 x3 x4 x5) := fun _ _ _ _ _ _ => of_word rfl
theorem fsubF64 : ∀ x0 x1 x2 x3 x4 x5, Statement (.fsubF64 x0 x1 x2 x3 x4 x5) := fun _ _ _ _ _ _ => of_word rfl
theorem fmulF64 : ∀ x0 x1 x2 x3 x4 x5, Statement (.fmulF64 x0 x1 x2 x3 x4 x5) := fun _ _ _ _ _ _ => of_word rfl
theorem fmaF64 : ∀ x0 x1 x2 x3 x4 x5, Statement (.fmaF64 x0 x1 x2 x3 x4 x5) := fun _ _ _ _ _ _ => of_word rfl
theorem fdivF64 : ∀ x0 x1 x2 x3 x4 x5, Statement (.fdivF64 x0 x1 x2 x3 x4 x5) := fun _ _ _ _ _ _ => of_word rfl
theorem fsqrtF64 : ∀ x0 x1 x2 x3, Statement (.fsqrtF64 x0 x1 x2 x3) := fun _ _ _ _ => of_word rfl
theorem fminF64 : ∀ x0 x1 x2 x3 x4 x5, Statement (.fminF64 x0 x1 x2 x3 x4 x5) := fun _ _ _ _ _ _ => of_word rfl
theorem fmaxF64 : ∀ x0 x1 x2 x3 x4 x5, Statement (.fmaxF64 x0 x1 x2 x3 x4 x5) := fun _ _ _ _ _ _ => of_word rfl
theorem faddF32 : ∀ x0 x1 x2 x3 x4 x5, Statement (.faddF32 x0 x1 x2 x3 x4 x5) := fun _ _ _ _ _ _ => of_word rfl
theorem fsubF32 : ∀ x0 x1 x2 x3 x4 x5, Statement (.fsubF32 x0 x1 x2 x3 x4 x5) := fun _ _ _ _ _ _ => of_word rfl
theorem fmulF32 : ∀ x0 x1 x2 x3 x4 x5, Statement (.fmulF32 x0 x1 x2 x3 x4 x5) := fun _ _ _ _ _ _ => of_word rfl
theorem fmaF32 : ∀ x0 x1 x2 x3 x4 x5, Statement (.fmaF32 x0 x1 x2 x3 x4 x5) := fun _ _ _ _ _ _ => of_word rfl
theorem fdivF32 : ∀ x0 x1 x2 x3 x4 x5, Statement (.fdivF32 x0 x1 x2 x3 x4 x5) := fun _ _ _ _ _ _ => of_word rfl
theorem fsqrtF32 : ∀ x0 x1 x2 x3, Statement (.fsqrtF32 x0 x1 x2 x3) := fun _ _ _ _ => of_word rfl
theorem fminF32 : ∀ x0 x1 x2 x3 x4 x5, Statement (.fminF32 x0 x1 x2 x3 x4 x5) := fun _ _ _ _ _ _ => of_word rfl
theorem fmaxF32 : ∀ x0 x1 x2 x3 x4 x5, Statement (.fmaxF32 x0 x1 x2 x3 x4 x5) := fun _ _ _ _ _ _ => of_word rfl
theorem fcvt : ∀ x0 x1 x2 x3 x4 x5, Statement (.fcvt x0 x1 x2 x3 x4 x5) := fun _ _ _ _ _ _ => of_word rfl
theorem fclassF64 : ∀ x0 x1 x2, Statement (.fclassF64 x0 x1 x2) := fun _ _ _ => of_word rfl
theorem fclassF32 : ∀ x0 x1 x2, Statement (.fclassF32 x0 x1 x2) := fun _ _ _ => of_word rfl
theorem fcmpF64 : ∀ x0 x1 x2 x3 x4 x5, Statement (.fcmpF64 x0 x1 x2 x3 x4 x5) := fun _ _ _ _ _ _ => of_word rfl
theorem fcmpF32 : ∀ x0 x1 x2 x3 x4 x5, Statement (.fcmpF32 x0 x1 x2 x3 x4 x5) := fun _ _ _ _ _ _ => of_word rfl
theorem feClr : ∀ x0, Statement (.feClr x0) := fun _ => of_word rfl
theorem feSet : ∀ x0, Statement (.feSet x0) := fun _ => of_word rfl
theorem feTst : ∀ x0 x1, Statement (.feTst x0 x1) := fun _ _ => of_word rfl
theorem wait : ∀ x0 x1 x2 x3, Statement (.wait x0 x1 x2 x3) := fun _ _ _ _ => of_word rfl
theorem qTail : ∀ x0 x1, Statement (.qTail x0 x1) := fun _ _ => of_word rfl
theorem qMark : ∀ x0 x1 x2, Statement (.qMark x0 x1 x2) := fun _ _ _ => of_word rfl
theorem qSeq : ∀ x0 x1, Statement (.qSeq x0 x1) := fun _ _ => of_word rfl
theorem tmplLd : ∀ x0 x1 x2, Statement (.tmplLd x0 x1 x2) := fun _ _ _ => of_word rfl
theorem omClaim : ∀ x0, Statement (.omClaim x0) := fun _ => of_word rfl
theorem omRel : ∀ x0, Statement (.omRel x0) := fun _ => of_word rfl
theorem jr : ∀ x0, Statement (.jr x0) := fun _ => of_word rfl
theorem jalr : ∀ x0 x1, Statement (.jalr x0 x1) := fun _ _ => of_word rfl
theorem xPost : ∀ x0 x1, Statement (.xPost x0 x1) := fun _ _ => of_word rfl
theorem xWait : ∀ x0 x1 x2, Statement (.xWait x0 x1 x2) := fun _ _ _ => of_word rfl
theorem xRenq : ∀ x0 x1 x2 x3, Statement (.xRenq x0 x1 x2 x3) := fun _ _ _ _ => of_word rfl
theorem xRenqAck : ∀ x0 x1 x2 x3, Statement (.xRenqAck x0 x1 x2 x3) := fun _ _ _ _ => of_word rfl
theorem xFence : ∀ x0 x1 x2, Statement (.xFence x0 x1 x2) := fun _ _ _ => of_word rfl
theorem addi : ∀ x0 x1 x2 x3, Statement (.addi x0 x1 x2 x3) := fun _ _ _ _ => of_word rfl
theorem andi : ∀ x0 x1 x2 x3, Statement (.andi x0 x1 x2 x3) := fun _ _ _ _ => of_word rfl
theorem ori : ∀ x0 x1 x2 x3, Statement (.ori x0 x1 x2 x3) := fun _ _ _ _ => of_word rfl
theorem xori : ∀ x0 x1 x2 x3, Statement (.xori x0 x1 x2 x3) := fun _ _ _ _ => of_word rfl
theorem shli : ∀ x0 x1 x2 x3, Statement (.shli x0 x1 x2 x3) := fun _ _ _ _ => of_word rfl
theorem shri : ∀ x0 x1 x2 x3, Statement (.shri x0 x1 x2 x3) := fun _ _ _ _ => of_word rfl
theorem srai : ∀ x0 x1 x2 x3, Statement (.srai x0 x1 x2 x3) := fun _ _ _ _ => of_word rfl
theorem cmpi : ∀ x0 x1 x2 x3 x4, Statement (.cmpi x0 x1 x2 x3 x4) := fun _ _ _ _ _ => of_word rfl
theorem aAddi : ∀ x0 x1 x2, Statement (.aAddi x0 x1 x2) := fun _ _ _ => of_word rfl
theorem csrR : ∀ x0 x1, Statement (.csrR x0 x1) := fun _ _ => of_word rfl
theorem csrW : ∀ x0 x1 x2, Statement (.csrW x0 x1 x2) := fun _ _ _ => of_word rfl
theorem csrX : ∀ x0 x1 x2 x3, Statement (.csrX x0 x1 x2 x3) := fun _ _ _ _ => of_word rfl
theorem lih : ∀ x0 x1, Statement (.lih x0 x1) := fun _ _ => of_word rfl
theorem lim : ∀ x0 x1, Statement (.lim x0 x1) := fun _ _ => of_word rfl
theorem lit : ∀ x0 x1, Statement (.lit x0 x1) := fun _ _ => of_word rfl
theorem ldI8 : ∀ x0 x1 x2 x3 x4, Statement (.ldI8 x0 x1 x2 x3 x4) := fun _ _ _ _ _ => of_word rfl
theorem ldN8 : ∀ x0 x1 x2 x3 x4, Statement (.ldN8 x0 x1 x2 x3 x4) := fun _ _ _ _ _ => of_word rfl
theorem ldI16 : ∀ x0 x1 x2 x3 x4, Statement (.ldI16 x0 x1 x2 x3 x4) := fun _ _ _ _ _ => of_word rfl
theorem ldN16 : ∀ x0 x1 x2 x3 x4, Statement (.ldN16 x0 x1 x2 x3 x4) := fun _ _ _ _ _ => of_word rfl
theorem ldI32 : ∀ x0 x1 x2 x3 x4, Statement (.ldI32 x0 x1 x2 x3 x4) := fun _ _ _ _ _ => of_word rfl
theorem ldN32 : ∀ x0 x1 x2 x3 x4, Statement (.ldN32 x0 x1 x2 x3 x4) := fun _ _ _ _ _ => of_word rfl
theorem ld64 : ∀ x0 x1 x2 x3 x4, Statement (.ld64 x0 x1 x2 x3 x4) := fun _ _ _ _ _ => of_word rfl
theorem ldp : ∀ x0 x1 x2 x3 x4, Statement (.ldp x0 x1 x2 x3 x4) := fun _ _ _ _ _ => of_word rfl
theorem st8 : ∀ x0 x1 x2 x3 x4 x5, Statement (.st8 x0 x1 x2 x3 x4 x5) := fun _ _ _ _ _ _ => of_word rfl
theorem st16 : ∀ x0 x1 x2 x3 x4 x5, Statement (.st16 x0 x1 x2 x3 x4 x5) := fun _ _ _ _ _ _ => of_word rfl
theorem st32 : ∀ x0 x1 x2 x3 x4 x5, Statement (.st32 x0 x1 x2 x3 x4 x5) := fun _ _ _ _ _ _ => of_word rfl
theorem st64 : ∀ x0 x1 x2 x3 x4 x5, Statement (.st64 x0 x1 x2 x3 x4 x5) := fun _ _ _ _ _ _ => of_word rfl
theorem stp : ∀ x0 x1 x2 x3 x4 x5, Statement (.stp x0 x1 x2 x3 x4 x5) := fun _ _ _ _ _ _ => of_word rfl
theorem bkReq : ∀ x0 x1, Statement (.bkReq x0 x1) := fun _ _ => of_word rfl
theorem bkCancel : ∀ x0 x1 x2, Statement (.bkCancel x0 x1 x2) := fun _ _ _ => of_word rfl
theorem bkStat : ∀ x0 x1 x2, Statement (.bkStat x0 x1 x2) := fun _ _ _ => of_word rfl
theorem bT : ∀ x0 x1 x2, Statement (.bT x0 x1 x2) := fun _ _ _ => of_word rfl
theorem bF : ∀ x0 x1 x2, Statement (.bF x0 x1 x2) := fun _ _ _ => of_word rfl
theorem j : ∀ x0, Statement (.j x0) := fun _ => of_word rfl
theorem jal : ∀ x0, Statement (.jal x0) := fun _ => of_word rfl
theorem tView : ∀ x0 x1, Statement (.tView x0 x1) := fun _ _ => of_word rfl
theorem tMm : ∀ x0 x1 x2 x3, Statement (.tMm x0 x1 x2 x3) := fun _ _ _ _ => of_word rfl
theorem tEw : ∀ x0 x1 x2 x3, Statement (.tEw x0 x1 x2 x3) := fun _ _ _ _ => of_word rfl
theorem tRed : ∀ x0 x1 x2, Statement (.tRed x0 x1 x2) := fun _ _ _ => of_word rfl
theorem tTr : ∀ x0 x1 x2, Statement (.tTr x0 x1 x2) := fun _ _ _ => of_word rfl
theorem tCvt : ∀ x0 x1 x2, Statement (.tCvt x0 x1 x2) := fun _ _ _ => of_word rfl
theorem tPerm : ∀ x0 x1 x2, Statement (.tPerm x0 x1 x2) := fun _ _ _ => of_word rfl
theorem tSt : ∀ x0 x1 x2, Statement (.tSt x0 x1 x2) := fun _ _ _ => of_word rfl
theorem tPub : ∀ x0 x1 x2, Statement (.tPub x0 x1 x2) := fun _ _ _ => of_word rfl
theorem tap : ∀ x0 x1 x2, Statement (.tap x0 x1 x2) := fun _ _ _ => of_word rfl
theorem tDrop : ∀ x0, Statement (.tDrop x0) := fun _ => of_word rfl
theorem nop : Statement .nop := of_word rfl
theorem exit : Statement .exit := of_word rfl
theorem trap : ∀ x0, Statement (.trap x0) := fun _ => of_word rfl
theorem tret : Statement .tret := of_word rfl
theorem wake : ∀ x0, Statement (.wake x0) := fun _ => of_word rfl
theorem fence : ∀ x0 x1, Statement (.fence x0 x1) := fun _ _ => of_word rfl
theorem bar : ∀ x0 x1, Statement (.bar x0 x1) := fun _ _ => of_word rfl
theorem pub : ∀ x0 x1, Statement (.pub x0 x1) := fun _ _ => of_word rfl
theorem hint3C : ∀ x0, Statement (.hint3C x0) := fun _ => of_word rfl
theorem hint3D : ∀ x0, Statement (.hint3D x0) := fun _ => of_word rfl
theorem hint3E : ∀ x0, Statement (.hint3E x0) := fun _ => of_word rfl
theorem cpNest : ∀ x0 x1, Statement (.cpNest x0 x1) := fun _ _ => of_no_word rfl
theorem cpPack : ∀ x0 x1, Statement (.cpPack x0 x1) := fun _ _ => of_no_word rfl
theorem cpUnpack : ∀ x0 x1, Statement (.cpUnpack x0 x1) := fun _ _ => of_no_word rfl
theorem cpPermLoad : ∀ x0 x1, Statement (.cpPermLoad x0 x1) := fun _ _ => of_no_word rfl
theorem cpPermApply : ∀ x0 x1, Statement (.cpPermApply x0 x1) := fun _ _ => of_no_word rfl
theorem cpFill : ∀ x0 x1, Statement (.cpFill x0 x1) := fun _ _ => of_no_word rfl
theorem cpAmoAdd : ∀ x0 x1, Statement (.cpAmoAdd x0 x1) := fun _ _ => of_no_word rfl
theorem cpAmoMin : ∀ x0 x1, Statement (.cpAmoMin x0 x1) := fun _ _ => of_no_word rfl
theorem cpAmoMax : ∀ x0 x1, Statement (.cpAmoMax x0 x1) := fun _ _ => of_no_word rfl
theorem cpAmoAnd : ∀ x0 x1, Statement (.cpAmoAnd x0 x1) := fun _ _ => of_no_word rfl
theorem cpAmoOr : ∀ x0 x1, Statement (.cpAmoOr x0 x1) := fun _ _ => of_no_word rfl
theorem cpAmoXor : ∀ x0 x1, Statement (.cpAmoXor x0 x1) := fun _ _ => of_no_word rfl
theorem cpAmoXchg : ∀ x0 x1, Statement (.cpAmoXchg x0 x1) := fun _ _ => of_no_word rfl
theorem cpAmoCas : ∀ x0 x1, Statement (.cpAmoCas x0 x1) := fun _ _ => of_no_word rfl
theorem mxWload : ∀ x0 x1, Statement (.mxWload x0 x1) := fun _ _ => of_no_word rfl
theorem mxRun : ∀ x0 x1, Statement (.mxRun x0 x1) := fun _ _ => of_no_word rfl
theorem mxZero : ∀ x0 x1, Statement (.mxZero x0 x1) := fun _ _ => of_no_word rfl
theorem mxMov : ∀ x0 x1, Statement (.mxMov x0 x1) := fun _ _ => of_no_word rfl
theorem mxMovRaw : ∀ x0 x1, Statement (.mxMovRaw x0 x1) := fun _ _ => of_no_word rfl
theorem mxMovin : ∀ x0 x1, Statement (.mxMovin x0 x1) := fun _ _ => of_no_word rfl
theorem vLd : ∀ x0 x1, Statement (.vLd x0 x1) := fun _ _ => of_no_word rfl
theorem vLds : ∀ x0 x1, Statement (.vLds x0 x1) := fun _ _ => of_no_word rfl
theorem vLdx : ∀ x0 x1, Statement (.vLdx x0 x1) := fun _ _ => of_no_word rfl
theorem vSt : ∀ x0 x1, Statement (.vSt x0 x1) := fun _ _ => of_no_word rfl
theorem vSts : ∀ x0 x1, Statement (.vSts x0 x1) := fun _ _ => of_no_word rfl
theorem vStx : ∀ x0 x1, Statement (.vStx x0 x1) := fun _ _ => of_no_word rfl
theorem vAdd : ∀ x0 x1, Statement (.vAdd x0 x1) := fun _ _ => of_no_word rfl
theorem vSub : ∀ x0 x1, Statement (.vSub x0 x1) := fun _ _ => of_no_word rfl
theorem vMul : ∀ x0 x1, Statement (.vMul x0 x1) := fun _ _ => of_no_word rfl
theorem vFma : ∀ x0 x1, Statement (.vFma x0 x1) := fun _ _ => of_no_word rfl
theorem vFms : ∀ x0 x1, Statement (.vFms x0 x1) := fun _ _ => of_no_word rfl
theorem vMin : ∀ x0 x1, Statement (.vMin x0 x1) := fun _ _ => of_no_word rfl
theorem vMax : ∀ x0 x1, Statement (.vMax x0 x1) := fun _ _ => of_no_word rfl
theorem vAbs : ∀ x0 x1, Statement (.vAbs x0 x1) := fun _ _ => of_no_word rfl
theorem vNeg : ∀ x0 x1, Statement (.vNeg x0 x1) := fun _ _ => of_no_word rfl
theorem vAnd : ∀ x0 x1, Statement (.vAnd x0 x1) := fun _ _ => of_no_word rfl
theorem vOr : ∀ x0 x1, Statement (.vOr x0 x1) := fun _ _ => of_no_word rfl
theorem vXor : ∀ x0 x1, Statement (.vXor x0 x1) := fun _ _ => of_no_word rfl
theorem vShl : ∀ x0 x1, Statement (.vShl x0 x1) := fun _ _ => of_no_word rfl
theorem vShr : ∀ x0 x1, Statement (.vShr x0 x1) := fun _ _ => of_no_word rfl
theorem vSra : ∀ x0 x1, Statement (.vSra x0 x1) := fun _ _ => of_no_word rfl
theorem vCmp : ∀ x0 x1, Statement (.vCmp x0 x1) := fun _ _ => of_no_word rfl
theorem vSel : ∀ x0 x1, Statement (.vSel x0 x1) := fun _ _ => of_no_word rfl
theorem vCvt : ∀ x0 x1, Statement (.vCvt x0 x1) := fun _ _ => of_no_word rfl
theorem vRed : ∀ x0 x1, Statement (.vRed x0 x1) := fun _ _ => of_no_word rfl
theorem vScan : ∀ x0 x1, Statement (.vScan x0 x1) := fun _ _ => of_no_word rfl
theorem vRcp : ∀ x0 x1, Statement (.vRcp x0 x1) := fun _ _ => of_no_word rfl
theorem vRsq : ∀ x0 x1, Statement (.vRsq x0 x1) := fun _ _ => of_no_word rfl
theorem vExp2 : ∀ x0 x1, Statement (.vExp2 x0 x1) := fun _ _ => of_no_word rfl
theorem vLog2 : ∀ x0 x1, Statement (.vLog2 x0 x1) := fun _ _ => of_no_word rfl
theorem vMov : ∀ x0 x1, Statement (.vMov x0 x1) := fun _ _ => of_no_word rfl
theorem vBcast : ∀ x0 x1, Statement (.vBcast x0 x1) := fun _ _ => of_no_word rfl
theorem vPerm : ∀ x0 x1, Statement (.vPerm x0 x1) := fun _ _ => of_no_word rfl
theorem vmAnd : ∀ x0 x1, Statement (.vmAnd x0 x1) := fun _ _ => of_no_word rfl
theorem vmOr : ∀ x0 x1, Statement (.vmOr x0 x1) := fun _ _ => of_no_word rfl
theorem vmNot : ∀ x0 x1, Statement (.vmNot x0 x1) := fun _ _ => of_no_word rfl
theorem saAdd : ∀ x0 x1, Statement (.saAdd x0 x1) := fun _ _ => of_no_word rfl
theorem saMin : ∀ x0 x1, Statement (.saMin x0 x1) := fun _ _ => of_no_word rfl
theorem saMax : ∀ x0 x1, Statement (.saMax x0 x1) := fun _ _ => of_no_word rfl
theorem saAnd : ∀ x0 x1, Statement (.saAnd x0 x1) := fun _ _ => of_no_word rfl
theorem saOr : ∀ x0 x1, Statement (.saOr x0 x1) := fun _ _ => of_no_word rfl
theorem saXchg : ∀ x0 x1, Statement (.saXchg x0 x1) := fun _ _ => of_no_word rfl
theorem saFlush : ∀ x0 x1, Statement (.saFlush x0 x1) := fun _ _ => of_no_word rfl
theorem chNop : ∀ x0 x1, Statement (.chNop x0 x1) := fun _ _ => of_no_word rfl
theorem chLink : ∀ x0 x1, Statement (.chLink x0 x1) := fun _ _ => of_no_word rfl
theorem chMark : ∀ x0 x1, Statement (.chMark x0 x1) := fun _ _ => of_no_word rfl
theorem commandRetire : ∀ x0 x1 x2, Statement (.commandRetire x0 x1 x2) := fun _ _ _ => of_no_word rfl
theorem markerRetire : ∀ x0 x1, Statement (.markerRetire x0 x1) := fun _ _ => of_no_word rfl
theorem templateSwap : ∀ x0 x1, Statement (.templateSwap x0 x1) := fun _ _ => of_no_word rfl
theorem steal : ∀ x0 x1 x2 x3, Statement (.steal x0 x1 x2 x3) := fun _ _ _ _ => of_no_word rfl
theorem walkinSuspend : ∀ x0 x1, Statement (.walkinSuspend x0 x1) := fun _ _ => of_no_word rfl
theorem loadDelivery : ∀ x0 x1, Statement (.loadDelivery x0 x1) := fun _ _ => of_no_word rfl
theorem windowAccessArrival : ∀ x0, Statement (.windowAccessArrival x0) := fun _ => of_no_word rfl
theorem windowStoreAck : ∀ x0, Statement (.windowStoreAck x0) := fun _ => of_no_word rfl
theorem demandComplete : ∀ x0 x1, Statement (.demandComplete x0 x1) := fun _ _ => of_no_word rfl
theorem waitComplete : ∀ x0 x1, Statement (.waitComplete x0 x1) := fun _ _ => of_no_word rfl
theorem stallTimeout : ∀ x0 x1, Statement (.stallTimeout x0 x1) := fun _ _ => of_no_word rfl
theorem promiseMiss : ∀ x0 x1, Statement (.promiseMiss x0 x1) := fun _ _ => of_no_word rfl
theorem notice : ∀ x0 x1, Statement (.notice x0 x1) := fun _ _ => of_no_word rfl
theorem bucketRefill : ∀ x0 x1, Statement (.bucketRefill x0 x1) := fun _ _ => of_no_word rfl
theorem searchRound : ∀ x0 x1, Statement (.searchRound x0 x1) := fun _ _ => of_no_word rfl
theorem hold : ∀ x0, Statement (.hold x0) := fun _ => of_no_word rfl
theorem held : ∀ x0, Statement (.held x0) := fun _ => of_no_word rfl
theorem refused : ∀ x0, Statement (.refused x0) := fun _ => of_no_word rfl
theorem refusedFatal : ∀ x0, Statement (.refusedFatal x0) := fun _ => of_no_word rfl
theorem commit : ∀ x0, Statement (.commit x0) := fun _ => of_no_word rfl
theorem release : ∀ x0, Statement (.release x0) := fun _ => of_no_word rfl
theorem cancel : ∀ x0, Statement (.cancel x0) := fun _ => of_no_word rfl
theorem slip : ∀ x0, Statement (.slip x0) := fun _ => of_no_word rfl
theorem moved : ∀ x0, Statement (.moved x0) := fun _ => of_no_word rfl
theorem doneMsg : ∀ x0, Statement (.doneMsg x0) := fun _ => of_no_word rfl
theorem unknownBookingMessage : ∀ x0 x1, Statement (.unknownBookingMessage x0 x1) := fun _ _ => of_no_word rfl
theorem holdExpiry : ∀ x0, Statement (.holdExpiry x0) := fun _ => of_no_word rfl
theorem useStart : ∀ x0, Statement (.useStart x0) := fun _ => of_no_word rfl
theorem berthEnd : ∀ x0, Statement (.berthEnd x0) := fun _ => of_no_word rfl
theorem overrunYield : ∀ x0, Statement (.overrunYield x0) := fun _ => of_no_word rfl
theorem runningUseStop : ∀ x0, Statement (.runningUseStop x0) := fun _ => of_no_word rfl
theorem bkuFailstop : ∀ x0, Statement (.bkuFailstop x0) := fun _ => of_no_word rfl
theorem calendarPoison : ∀ x0, Statement (.calendarPoison x0) := fun _ => of_no_word rfl
theorem dieReset : ∀ x0, Statement (.dieReset x0) := fun _ => of_no_word rfl
theorem packageReset : Statement .packageReset := of_no_word rfl
theorem barrierCompletionAtDie : ∀ x0 x1, Statement (.barrierCompletionAtDie x0 x1) := fun _ _ => of_no_word rfl
theorem sluiceGroupRelease : ∀ x0 x1, Statement (.sluiceGroupRelease x0 x1) := fun _ _ => of_no_word rfl
theorem rampStep : ∀ x0, Statement (.rampStep x0) := fun _ => of_no_word rfl
theorem engineGate : ∀ x0 x1, Statement (.engineGate x0 x1) := fun _ _ => of_no_word rfl
theorem ungateComplete : ∀ x0 x1, Statement (.ungateComplete x0 x1) := fun _ _ => of_no_word rfl
theorem preBerthUngate : ∀ x0 x1, Statement (.preBerthUngate x0 x1) := fun _ _ => of_no_word rfl
theorem saeEntryApply : ∀ x0, Statement (.saeEntryApply x0) := fun _ => of_no_word rfl
theorem atomicApply : ∀ x0, Statement (.atomicApply x0) := fun _ => of_no_word rfl
theorem homeWriteApply : ∀ x0, Statement (.homeWriteApply x0) := fun _ => of_no_word rfl
theorem dieCopyInvalidation : ∀ x0 x1, Statement (.dieCopyInvalidation x0 x1) := fun _ _ => of_no_word rfl
theorem dieCopyEvict : ∀ x0 x1, Statement (.dieCopyEvict x0 x1) := fun _ _ => of_no_word rfl
theorem cardRead : ∀ x0, Statement (.cardRead x0) := fun _ => of_no_word rfl
theorem gangPlacement : ∀ x0, Statement (.gangPlacement x0) := fun _ => of_no_word rfl
theorem checkpointComplete : ∀ x0, Statement (.checkpointComplete x0) := fun _ => of_no_word rfl
theorem resume : ∀ x0, Statement (.resume x0) := fun _ => of_no_word rfl
theorem chunkAsk : ∀ x0, Statement (.chunkAsk x0) := fun _ => of_no_word rfl
theorem runStart : ∀ x0, Statement (.runStart x0) := fun _ => of_no_word rfl
theorem retirement : ∀ x0, Statement (.retirement x0) := fun _ => of_no_word rfl
theorem firmwareUpdateRequest : ∀ x0, Statement (.firmwareUpdateRequest x0) := fun _ => of_no_word rfl
theorem saveAreaRestore : Statement .saveAreaRestore := of_no_word rfl
theorem wr : ∀ x0, Statement (.wr x0) := fun _ => of_no_word rfl
theorem rd : ∀ x0, Statement (.rd x0) := fun _ => of_no_word rfl
theorem rdrsp : ∀ x0, Statement (.rdrsp x0) := fun _ => of_no_word rfl
theorem amo : ∀ x0, Statement (.amo x0) := fun _ => of_no_word rfl
theorem amorsp : ∀ x0, Statement (.amorsp x0) := fun _ => of_no_word rfl
theorem ack : ∀ x0, Statement (.ack x0) := fun _ => of_no_word rfl
theorem nak : ∀ x0, Statement (.nak x0) := fun _ => of_no_word rfl
theorem unknownOpc : ∀ x0 x1, Statement (.unknownOpc x0 x1) := fun _ _ => of_no_word rfl
theorem renq : ∀ x0, Statement (.renq x0) := fun _ => of_no_word rfl
theorem renqAns : ∀ x0, Statement (.renqAns x0) := fun _ => of_no_word rfl
theorem renqAckTimeout : ∀ x0, Statement (.renqAckTimeout x0) := fun _ => of_no_word rfl
theorem fenceMsg : ∀ x0, Statement (.fenceMsg x0) := fun _ => of_no_word rfl
theorem fenceFtmoExpiry : ∀ x0, Statement (.fenceFtmoExpiry x0) := fun _ => of_no_word rfl
theorem fenceAns : ∀ x0, Statement (.fenceAns x0) := fun _ => of_no_word rfl
theorem fenceAnswerTimeout : ∀ x0, Statement (.fenceAnswerTimeout x0) := fun _ => of_no_word rfl
theorem manifest : ∀ x0, Statement (.manifest x0) := fun _ => of_no_word rfl
theorem manifestAnswer : ∀ x0, Statement (.manifestAnswer x0) := fun _ => of_no_word rfl
theorem postAnswerTimeout : ∀ x0, Statement (.postAnswerTimeout x0) := fun _ => of_no_word rfl
theorem roundTimeout : ∀ x0 x1, Statement (.roundTimeout x0 x1) := fun _ _ => of_no_word rfl
theorem grant : ∀ x0, Statement (.grant x0) := fun _ => of_no_word rfl
theorem exchangeCopy : ∀ x0, Statement (.exchangeCopy x0) := fun _ => of_no_word rfl
theorem exchangeCopyEnd : ∀ x0, Statement (.exchangeCopyEnd x0) := fun _ => of_no_word rfl
theorem pairReport : ∀ x0, Statement (.pairReport x0) := fun _ => of_no_word rfl
theorem roundEnd : ∀ x0, Statement (.roundEnd x0) := fun _ => of_no_word rfl
theorem abandon : ∀ x0, Statement (.abandon x0) := fun _ => of_no_word rfl
theorem heartbeatTimer : Statement .heartbeatTimer := of_no_word rfl
theorem heartbeat : ∀ x0, Statement (.heartbeat x0) := fun _ => of_no_word rfl
theorem takeoverTimeout : Statement .takeoverTimeout := of_no_word rfl
theorem takeover : ∀ x0, Statement (.takeover x0) := fun _ => of_no_word rfl
theorem barMsg : ∀ x0, Statement (.barMsg x0) := fun _ => of_no_word rfl
theorem timeMsg : ∀ x0, Statement (.timeMsg x0) := fun _ => of_no_word rfl
theorem flitSend : ∀ x0, Statement (.flitSend x0) := fun _ => of_no_word rfl
theorem flitReceive : ∀ x0 x1, Statement (.flitReceive x0 x1) := fun _ _ => of_no_word rfl
theorem replayRequest : ∀ x0 x1, Statement (.replayRequest x0 x1) := fun _ _ => of_no_word rfl
theorem keymark : ∀ x0 x1, Statement (.keymark x0 x1) := fun _ _ => of_no_word rfl
theorem portLaneShed : ∀ x0 x1, Statement (.portLaneShed x0 x1) := fun _ _ => of_no_word rfl
theorem portWidthRegain : ∀ x0, Statement (.portWidthRegain x0) := fun _ => of_no_word rfl
theorem railClockChange : ∀ x0 x1 x2, Statement (.railClockChange x0 x1 x2) := fun _ _ _ => of_no_word rfl
theorem trip1 : ∀ x0 x1, Statement (.trip1 x0 x1) := fun _ _ => of_no_word rfl
theorem trip1Clear : ∀ x0 x1, Statement (.trip1Clear x0 x1) := fun _ _ => of_no_word rfl
theorem trip2 : ∀ x0 x1, Statement (.trip2 x0 x1) := fun _ _ => of_no_word rfl
theorem trip2Clear : ∀ x0 x1, Statement (.trip2Clear x0 x1) := fun _ _ => of_no_word rfl
theorem trip3 : ∀ x0 x1, Statement (.trip3 x0 x1) := fun _ _ => of_no_word rfl
theorem trip4 : ∀ x0 x1, Statement (.trip4 x0 x1) := fun _ _ => of_no_word rfl
theorem sramEccError : ∀ x0 x1 x2 x3, Statement (.sramEccError x0 x1 x2 x3) := fun _ _ _ _ => of_no_word rfl
theorem securityAlarm : Statement .securityAlarm := of_no_word rfl
theorem rootOfTrustBoot : ∀ x0 x1, Statement (.rootOfTrustBoot x0 x1) := fun _ _ => of_no_word rfl
theorem attestationQuote : ∀ x0, Statement (.attestationQuote x0) := fun _ => of_no_word rfl
theorem fcsrWrite : ∀ x0 x1 x2, Statement (.fcsrWrite x0 x1 x2) := fun _ _ _ => of_no_word rfl
theorem issWrite : ∀ x0 x1 x2, Statement (.issWrite x0 x1 x2) := fun _ _ _ => of_no_word rfl
theorem icInvWrite : ∀ x0 x1, Statement (.icInvWrite x0 x1) := fun _ _ => of_no_word rfl
theorem dcInvWrite : ∀ x0 x1, Statement (.dcInvWrite x0 x1) := fun _ _ => of_no_word rfl
theorem uctlWrite : ∀ x0 x1, Statement (.uctlWrite x0 x1) := fun _ _ => of_no_word rfl
theorem ctxuDatAccess : ∀ x0 x1, Statement (.ctxuDatAccess x0 x1) := fun _ _ => of_no_word rfl
theorem qBaseWrite : ∀ x0 x1 x2 x3, Statement (.qBaseWrite x0 x1 x2 x3) := fun _ _ _ _ => of_no_word rfl
theorem qStatFltClear : ∀ x0 x1 x2, Statement (.qStatFltClear x0 x1 x2) := fun _ _ _ => of_no_word rfl
theorem tkAccess : ∀ x0 x1 x2, Statement (.tkAccess x0 x1 x2) := fun _ _ _ => of_no_word rfl
theorem caskScrWrite : ∀ x0 x1, Statement (.caskScrWrite x0 x1) := fun _ _ => of_no_word rfl
theorem meCadenceWrite : ∀ x0 x1, Statement (.meCadenceWrite x0 x1) := fun _ _ => of_no_word rfl
theorem xlatInvWrite : ∀ x0 x1, Statement (.xlatInvWrite x0 x1) := fun _ _ => of_no_word rfl
theorem barPodnWrite : ∀ x0, Statement (.barPodnWrite x0) := fun _ => of_no_word rfl
theorem lqBaseWrite : ∀ x0 x1, Statement (.lqBaseWrite x0 x1) := fun _ _ => of_no_word rfl
theorem lqTailDoorbell : ∀ x0 x1, Statement (.lqTailDoorbell x0 x1) := fun _ _ => of_no_word rfl
theorem lqCtlWrite : ∀ x0 x1, Statement (.lqCtlWrite x0 x1) := fun _ _ => of_no_word rfl
theorem clpCtlWrite : ∀ x0 x1, Statement (.clpCtlWrite x0 x1) := fun _ _ => of_no_word rfl
theorem clpSaltWrite : ∀ x0 x1 x2, Statement (.clpSaltWrite x0 x1 x2) := fun _ _ _ => of_no_word rfl
theorem registerWrite : ∀ x0 x1 x2 x3, Statement (.registerWrite x0 x1 x2 x3) := fun _ _ _ _ => of_no_word rfl
theorem illegal : ∀ x0 x1, Statement (.illegal x0 x1) := fun _ _ => of_no_word rfl
theorem fetchFault : ∀ x0, Statement (.fetchFault x0) := fun _ => of_no_word rfl
theorem decodeFault : ∀ x0 x1 x2, Statement (.decodeFault x0 x1 x2) := fun _ _ _ => of_no_word rfl
theorem correctedSingleBitError : ∀ x0, Statement (.correctedSingleBitError x0) := fun _ => of_no_word rfl

end Sys2Proof.Laws.Encoding
end

