-- ==== Sys2Proof/Tests/Slice0.lean ====
section
/-!
SUPPORT. Tests: ill-formed terms that the checks refuse, words and commands written out from the manual's encodings, small steps
against the manual's own numbers, and states that meet the hypotheses of the statements.
-/

namespace Sys2Proof.Tests

open Sys2Proof Sys2Proof.Machine

set_option maxRecDepth 100000
set_option Elab.async false

/-! ### Ill-formed terms -/

/-- The place of a command in the tests. -/
def at0 : CmdAt := { core := 0, seq := 1 }

/-- A command of one operation code, of core scope, a walk-in of one tick. -/
def cmdOf (code : Nat) (flags : Nat) : Tmpl := [(0, BitVec.ofNat 16 (code * 256 + flags + 1)), (27, 0xFFFF)]

/-- A packet of one operation. -/
def packet (opc : Nat) : Packet :=
  { opc := opc, ackreq := true, ord := false, dpkg := 0, spkg := 9, score := 3, tag := 77, pa := 0x100, arg := 0, rsv := false, data := [] }

/-- A booking message about a use of the matrix engine of core 0, asked for by core 1 of this package. -/
def message : BookMsg := { use := 0, xid := 5, pkg := 0, core := 1, hm := false, res := 2, berth := 8, exp := 0 }

theorem test_wellFormed_refuses_words :
    wellFormed (.fcvt .rne .i64 .n32 1 2 false) = false ∧ wellFormed (.qMark 0 1 false) = false
    ∧ wellFormed (.csrR 1 0x004) = false ∧ wellFormed (.csrW 0x0C8 1 false) = false ∧ wellFormed (.csrX 1 2 false 0x113) = false
    ∧ wellFormed (.ldp 3 1 .core .relaxed 0) = false ∧ wellFormed (.stp 5 1 false .core .relaxed 0) = false := by decide

theorem test_wellFormed_refuses_commands :
    wellFormed (.cpNest at0 (cmdOf 2 0)) = false ∧ wellFormed (.cpNest { at0 with core := 512 } (cmdOf 1 0)) = false
    ∧ wellFormed (.cpNest at0 [(32, 1)]) = false ∧ wellFormed (.cpNest at0 [(0, 0)]) = false
    ∧ wellFormed (.mxRun at0 [(0, 0x0206)]) = false
    ∧ wellFormed (.cpPermLoad at0 (cmdOf 4 0)) = false ∧ wellFormed (.cpPermApply at0 (cmdOf 4 0x20)) = false
    ∧ wellFormed (.mxMov at0 (cmdOf 4 8)) = false ∧ wellFormed (.mxMovRaw at0 (cmdOf 4 0)) = false
    ∧ wellFormed (.cpAmoMin at0 (cmdOf 6 0)) = false ∧ wellFormed (.vAdd at0 (cmdOf 8 0)) = false
    ∧ wellFormed (.saFlush at0 (cmdOf 6 0)) = false
    ∧ wellFormed (.chNop at0 [(0, 0x0100)]) = false ∧ wellFormed (.chLink at0 []) = false
    ∧ wellFormed (.chMark { at0 with core := 512 } [(0, 0x0200)]) = false := by decide

theorem test_wellFormed_refuses_steps_of_a_core :
    wellFormed (.commandRetire 512 .ce 1) = false ∧ wellFormed (.markerRetire 512 .ce) = false ∧ wellFormed (.templateSwap 512 .ce) = false
    ∧ wellFormed (.steal 0 4 .ce 1) = false ∧ wellFormed (.steal 1 1 .ce 1) = false ∧ wellFormed (.steal 512 513 .ce 1) = false
    ∧ wellFormed (.walkinSuspend 512 .ce) = false ∧ wellFormed (.demandComplete 512 false) = false ∧ wellFormed (.waitComplete 512 false) = false
    ∧ wellFormed (.stallTimeout 512 false) = false ∧ wellFormed (.promiseMiss 512 false) = false ∧ wellFormed (.notice 512 1) = false
    ∧ wellFormed (.bucketRefill 512 false) = false ∧ wellFormed (.searchRound 513 1) = false ∧ wellFormed (.rampStep 512) = false
    ∧ wellFormed (.engineGate 512 .ce) = false ∧ wellFormed (.ungateComplete 512 .ce) = false ∧ wellFormed (.preBerthUngate 512 .ce) = false
    ∧ wellFormed (.checkpointComplete 512) = false ∧ wellFormed (.chunkAsk 512) = false ∧ wellFormed (.runStart 512) = false
    ∧ wellFormed (.retirement 512) = false ∧ wellFormed (.renqAckTimeout 512) = false := by decide

theorem test_wellFormed_refuses_booking_messages :
    wellFormed (.hold { message with use := 256 }) = false ∧ wellFormed (.held { message with xid := 4096 }) = false
    ∧ wellFormed (.refused { message with pkg := 2048 }) = false ∧ wellFormed (.refusedFatal { message with core := 512 }) = false
    ∧ wellFormed (.commit { message with berth := 2 ^ 56 }) = false ∧ wellFormed (.release { message with exp := 2 ^ 64 }) = false
    ∧ wellFormed (.cancel { message with use := 256 }) = false ∧ wellFormed (.slip { message with use := 256 }) = false
    ∧ wellFormed (.moved { message with use := 256 }) = false ∧ wellFormed (.doneMsg { message with use := 256 }) = false
    ∧ wellFormed (.unknownBookingMessage 10 0) = false ∧ wellFormed (.unknownBookingMessage 0 10) = false
    ∧ wellFormed (.holdExpiry ⟨.me, 512⟩) = false ∧ wellFormed (.useStart ⟨.ce, 512⟩) = false ∧ wellFormed (.berthEnd ⟨.mcg, 64⟩) = false
    ∧ wellFormed (.overrunYield ⟨.port, 35⟩) = false ∧ wellFormed (.runningUseStop ⟨.port, 35⟩) = false
    ∧ wellFormed (.calendarPoison ⟨.mcg, 64⟩) = false ∧ wellFormed (.bkuFailstop 10) = false ∧ wellFormed (.dieReset 10) = false := by decide

theorem test_wellFormed_refuses_packets_and_flits :
    (∀ i ∈ [Instr.wr { packet 1 with opc := 256 }, .rd { packet 1 with dpkg := 2048 }, .rdrsp { packet 1 with spkg := 2048 },
        .amo { packet 1 with score := 512 }, .amorsp { packet 1 with tag := 65536 }, .ack { packet 1 with pa := 2 ^ 56 },
        .nak { packet 1 with opc := 256 }, .unknownOpc 35 (packet 0x40), .unknownOpc 0 { packet 1 with opc := 256 },
        .renq { packet 1 with opc := 256 }, .renqAns { packet 1 with opc := 256 }, .fenceMsg { packet 1 with opc := 256 },
        .fenceAns { packet 1 with opc := 256 }, .manifest { packet 1 with opc := 256 }, .manifestAnswer { packet 1 with opc := 256 },
        .grant { packet 1 with opc := 256 }, .pairReport { packet 1 with opc := 256 }, .roundEnd { packet 1 with opc := 256 },
        .abandon { packet 1 with opc := 256 }, .heartbeat { packet 1 with opc := 256 }, .takeover { packet 1 with opc := 256 },
        .barMsg { packet 1 with opc := 256 }, .timeMsg { packet 1 with opc := 256 }, .flitSend 35,
        .flitReceive 0 { header := 0, body := [], check := List.replicate 16 0 }, .keymark 35 { header := 0, body := [], check := [] },
        .flitReceive 0 { header := 0, body := List.replicate 232 0, check := [] }, .replayRequest 35 0, .portLaneShed 0 8,
        .portLaneShed 35 4, .portWidthRegain 35], wellFormed i = false)
    ∧ Packet.ok { packet 1 with data := List.replicate 4097 0 } = false := by decide

theorem test_wellFormed_refuses_steps_of_the_package :
    ∀ i ∈ [Instr.barrierCompletionAtDie 0 10, .dieCopyInvalidation 0 10, .dieCopyEvict 10 0, .cardRead 64, .gangPlacement 64,
      .railClockChange 8 0 0, .railClockChange 0 16 0, .trip1 10 0, .trip1Clear 10 0, .trip2 10 0, .trip2Clear 10 0, .trip3 10 0,
      .trip4 10 0, .sramEccError 512 0 0 false, .fcsrWrite 512 false 0, .issWrite 512 false 0, .icInvWrite 512 false,
      .dcInvWrite 512 false, .uctlWrite 512 0, .ctxuDatAccess 512 none, .qBaseWrite 512 .ce false 0, .qStatFltClear 512 .ce 0,
      .tkAccess 512 0 .read, .caskScrWrite 512 0, .meCadenceWrite 512 0, .xlatInvWrite 512 0, .lqBaseWrite 64 0, .lqTailDoorbell 64 0,
      .lqCtlWrite 64 0, .clpCtlWrite 35 0, .clpSaltWrite 35 false 0, .registerWrite 0 false 0x004 0, .registerWrite 512 false 0 0,
      .registerWrite 0 false 0x50000 0, .illegal 0 0, .illegal 0 5, .decodeFault at0 .ce 5, .decodeFault { at0 with core := 512 } .ce 1,
      .correctedSingleBitError 10], wellFormed i = false := by decide

/-! ### Words, written from the formats and tables of R91 to R109, R80 and R278; reserved fields hold ones -/

theorem decode_integer_words_1 :
    decodeWord 0b000001_000001_101000_111111_0_0_000000 = .ok (.add 1 40 63 false false)
    ∧ decodeWord 0b000001_000100_101101_111110_1_0_000001 = .ok (.sub 4 45 62 true false)
    ∧ decodeWord 0b000001_000111_110010_111101_0_1_000010 = .ok (.mul 7 50 61 false true)
    ∧ decodeWord 0b000001_001010_110111_111100_1_1_000011 = .ok (.mulh 10 55 60 true true)
    ∧ decodeWord 0b000001_001101_111100_111011_0_0_000100 = .ok (.mulhn 13 60 59 false false)
    ∧ decodeWord 0b000001_010000_000001_111010_1_0_000101 = .ok (.div 16 1 58 true false)
    ∧ decodeWord 0b000001_010011_000110_111001_0_1_000110 = .ok (.divn 19 6 57 false true)
    ∧ decodeWord 0b000001_010110_001011_111000_1_1_000111 = .ok (.rem 22 11 56 true true)
    ∧ decodeWord 0b000001_011001_010000_110111_0_0_001000 = .ok (.remn 25 16 55 false false)
    ∧ decodeWord 0b000001_011100_010101_110110_1_0_001001 = .ok (.iAnd 28 21 54 true false)
    ∧ decodeWord 0b000001_011111_011010_110101_0_1_001010 = .ok (.iOr 31 26 53 false true)
    ∧ decodeWord 0b000001_100010_011111_110100_1_1_001011 = .ok (.iXor 34 31 52 true true) := by decide

theorem decode_integer_words_2 :
    decodeWord 0b000001_100101_100100_110011_0_0_001100 = .ok (.andn 37 36 51 false false)
    ∧ decodeWord 0b000001_101000_101001_110010_1_0_001101 = .ok (.shl 40 41 50 true false)
    ∧ decodeWord 0b000001_101011_101110_110001_0_1_001110 = .ok (.shr 43 46 49 false true)
    ∧ decodeWord 0b000001_101110_110011_110000_1_1_001111 = .ok (.sra 46 51 48 true true)
    ∧ decodeWord 0b000001_110001_111000_101111_0_0_010000 = .ok (.rotl 49 56 47 false false)
    ∧ decodeWord 0b000001_110100_111101_101110_1_0_010001 = .ok (.iMin 52 61 46 true false)
    ∧ decodeWord 0b000001_110111_000010_101101_0_1_010010 = .ok (.iMax 55 2 45 false true)
    ∧ decodeWord 0b000001_111010_000111_101100_1_1_010011 = .ok (.minn 58 7 44 true true)
    ∧ decodeWord 0b000001_111101_001100_101011_0_0_010100 = .ok (.maxn 61 12 43 false false)
    ∧ decodeWord 0b000001_111110_100001_111111_1_1_010101 = .ok (.clz 62 33 true)
    ∧ decodeWord 0b000001_111110_100001_111111_1_1_010110 = .ok (.ctz 62 33 true)
    ∧ decodeWord 0b000001_111110_100001_111111_1_1_010111 = .ok (.popc 62 33 true) := by decide

theorem decode_integer_words_3 :
    decodeWord 0b000001_001001_111110_011111_0_1_011000 = .ok (.sext 9 62 31 false true)
    ∧ decodeWord 0b000001_001001_111110_011111_0_1_011001 = .ok (.zext 9 62 31 false true)
    ∧ decodeWord 0b000001_001001_111110_011111_0_1_011010 = .ok (.bfx 9 62 31 false true)
    ∧ decodeWord 0b000001_001001_111110_011111_0_1_011011 = .ok (.bfi 9 62 31 false true)
    ∧ decodeWord 0b000001_001001_111110_011111_1_0_111000 = .ok (.sel 0 9 62 31 true false)
    ∧ decodeWord 0b000001_001001_111110_011111_0_1_111111 = .ok (.sel 7 9 62 31 false true) := by decide

theorem decode_predicate_and_address_words_1 :
    decodeWord 0b000010_111101_111110_111111_1_1_000000 = .ok (.pAnd 5 6 7)
    ∧ decodeWord 0b000010_111101_111110_111111_1_1_000001 = .ok (.pOr 5 6 7)
    ∧ decodeWord 0b000010_111101_111110_111111_1_1_000010 = .ok (.pXor 5 6 7)
    ∧ decodeWord 0b000010_000011_000100_111111_1_1_000011 = .ok (.pNot 3 4)
    ∧ decodeWord 0b000010_000011_000100_111111_1_1_000100 = .ok (.pMov 3 4)
    ∧ decodeWord 0b000010_000010_010001_010010_1_0_010000 = .ok (.cmp .eq 2 17 18 true false)
    ∧ decodeWord 0b010111_000111_010100_1_1000000000000 = .ok (.cmpi .eq 7 20 true (-4096))
    ∧ decodeWord 0b000010_001010_010001_010010_1_0_010000 = .ok (.cmp .ne 2 17 18 true false)
    ∧ decodeWord 0b010111_001111_010100_1_1000000000001 = .ok (.cmpi .ne 7 20 true (-4095))
    ∧ decodeWord 0b000010_010010_010001_010010_1_0_010000 = .ok (.cmp .lt 2 17 18 true false)
    ∧ decodeWord 0b010111_010111_010100_1_1000000000010 = .ok (.cmpi .lt 7 20 true (-4094))
    ∧ decodeWord 0b000010_011010_010001_010010_1_0_010000 = .ok (.cmp .ge 2 17 18 true false) := by decide

theorem decode_predicate_and_address_words_2 :
    decodeWord 0b010111_011111_010100_1_1000000000011 = .ok (.cmpi .ge 7 20 true (-4093))
    ∧ decodeWord 0b000010_100010_010001_010010_1_0_010000 = .ok (.cmp .ltn 2 17 18 true false)
    ∧ decodeWord 0b010111_100111_010100_1_1000000000100 = .ok (.cmpi .ltn 7 20 true (-4092))
    ∧ decodeWord 0b000010_101010_010001_010010_1_0_010000 = .ok (.cmp .gen 2 17 18 true false)
    ∧ decodeWord 0b010111_101111_010100_1_1000000000101 = .ok (.cmpi .gen 7 20 true (-4091))
    ∧ decodeWord 0b000100_001101_001110_111100_1_1_000000 = .ok (.aAdd 13 14 60 true)
    ∧ decodeWord 0b000100_001101_001110_111100_1_1_000001 = .ok (.aLea2 13 14 60 true)
    ∧ decodeWord 0b000100_001101_001110_111100_1_1_000010 = .ok (.aLea4 13 14 60 true)
    ∧ decodeWord 0b000100_001101_001110_111100_1_1_000011 = .ok (.aLea8 13 14 60 true)
    ∧ decodeWord 0b000100_001101_001110_111100_1_1_000100 = .ok (.aLea16 13 14 60 true)
    ∧ decodeWord 0b000100_000001_001111_111111_1_1_001000 = .ok (.aMov 1 15)
    ∧ decodeWord 0b000100_001111_111110_111101_1_0_001001 = .ok (.aMovScalar 15 62 61 true false) := by decide

theorem decode_predicate_and_address_words_3 :
    decodeWord 0b000100_111111_001111_111111_1_1_001010 = .ok (.aGet 63 15)
    ∧ decodeWord 0b000100_111110_001110_111111_1_1_001011 = .ok (.aGetHi 62 14)
    ∧ decodeWord 0b000100_000110_001111_001110_1_1_010000 = .ok (.aCmp .eq 6 15 14)
    ∧ decodeWord 0b000100_001110_001111_001110_1_1_010000 = .ok (.aCmp .ne 6 15 14)
    ∧ decodeWord 0b000100_100110_001111_001110_1_1_010000 = .ok (.aCmp .ltn 6 15 14)
    ∧ decodeWord 0b000100_101110_001111_001110_1_1_010000 = .ok (.aCmp .gen 6 15 14) := by decide

theorem decode_floating_words_1 :
    decodeWord 0b000101_110010_110011_110100_1_0_000000 = .ok (.faddF64 .rne 50 51 52 true false)
    ∧ decodeWord 0b000101_110010_110011_110100_1_0_001001 = .ok (.fsubF64 .rtz 50 51 52 true false)
    ∧ decodeWord 0b000101_110010_110011_110100_1_0_010010 = .ok (.fmulF64 .rup 50 51 52 true false)
    ∧ decodeWord 0b000101_110010_110011_110100_1_0_011011 = .ok (.fmaF64 .rdn 50 51 52 true false)
    ∧ decodeWord 0b000101_110010_110011_110100_1_0_100100 = .ok (.fdivF64 .dyn 50 51 52 true false)
    ∧ decodeWord 0b000101_110010_110011_111111_1_1_000101 = .ok (.fsqrtF64 .rne 50 51 true)
    ∧ decodeWord 0b000101_110010_110011_110100_1_0_001110 = .ok (.fminF64 .rtz 50 51 52 true false)
    ∧ decodeWord 0b000101_110010_110011_110100_1_0_010111 = .ok (.fmaxF64 .rup 50 51 52 true false)
    ∧ decodeWord 0b000110_110010_110011_110100_1_0_001000 = .ok (.faddF32 .rtz 50 51 52 true false)
    ∧ decodeWord 0b000110_110010_110011_110100_1_0_010001 = .ok (.fsubF32 .rup 50 51 52 true false)
    ∧ decodeWord 0b000110_110010_110011_110100_1_0_011010 = .ok (.fmulF32 .rdn 50 51 52 true false)
    ∧ decodeWord 0b000110_110010_110011_110100_1_0_100011 = .ok (.fmaF32 .dyn 50 51 52 true false) := by decide

theorem decode_floating_words_2 :
    decodeWord 0b000110_110010_110011_110100_1_0_000100 = .ok (.fdivF32 .rne 50 51 52 true false)
    ∧ decodeWord 0b000110_110010_110011_111111_1_1_001101 = .ok (.fsqrtF32 .rtz 50 51 true)
    ∧ decodeWord 0b000110_110010_110011_110100_1_0_010110 = .ok (.fminF32 .rup 50 51 52 true false)
    ∧ decodeWord 0b000110_110010_110011_110100_1_0_011111 = .ok (.fmaxF32 .rdn 50 51 52 true false)
    ∧ decodeWord 0b000111_001010_001011_000001_1_1_000000 = .ok (.fcvt .rne .f64 .f32 10 11 true)
    ∧ decodeWord 0b000111_001010_001011_001000_1_1_000001 = .ok (.fcvt .rtz .f32 .f64 10 11 true)
    ∧ decodeWord 0b000111_001010_001011_010000_1_1_000010 = .ok (.fcvt .rup .i64 .f64 10 11 true)
    ∧ decodeWord 0b000111_001010_001011_011001_1_1_000011 = .ok (.fcvt .rdn .n64 .f32 10 11 true)
    ∧ decodeWord 0b000111_001010_001011_100000_1_1_000100 = .ok (.fcvt .dyn .i32 .f64 10 11 true)
    ∧ decodeWord 0b000111_001010_001011_101001_1_1_000000 = .ok (.fcvt .rne .n32 .f32 10 11 true)
    ∧ decodeWord 0b000111_001010_001011_000010_1_1_000001 = .ok (.fcvt .rtz .f64 .i64 10 11 true)
    ∧ decodeWord 0b000111_001010_001011_001011_1_1_000010 = .ok (.fcvt .rup .f32 .n64 10 11 true) := by decide

theorem decode_floating_words_3 :
    decodeWord 0b000111_001010_001011_000100_1_1_000011 = .ok (.fcvt .rdn .f64 .i32 10 11 true)
    ∧ decodeWord 0b000111_001010_001011_001101_1_1_000100 = .ok (.fcvt .dyn .f32 .n32 10 11 true)
    ∧ decodeWord 0b000111_001010_001011_111111_0_1_001000 = .ok (.fclassF64 10 11 false)
    ∧ decodeWord 0b000111_001010_001011_111111_1_1_001001 = .ok (.fclassF32 10 11 true)
    ∧ decodeWord 0b000111_000101_001100_001101_0_1_010000 = .ok (.fcmpF64 .eq 5 12 13 false true)
    ∧ decodeWord 0b000111_001101_001100_001101_0_1_010001 = .ok (.fcmpF32 .ne 5 12 13 false true)
    ∧ decodeWord 0b000111_010101_001100_001101_0_1_010000 = .ok (.fcmpF64 .lt 5 12 13 false true)
    ∧ decodeWord 0b000111_011101_001100_001101_0_1_010001 = .ok (.fcmpF32 .le 5 12 13 false true)
    ∧ decodeWord 0b000111_100101_001100_001101_0_1_010000 = .ok (.fcmpF64 .gt 5 12 13 false true)
    ∧ decodeWord 0b000111_101101_001100_001101_0_1_010001 = .ok (.fcmpF32 .ge 5 12 13 false true)
    ∧ decodeWord 0b000111_110101_001100_001101_0_1_010000 = .ok (.fcmpF64 .un 5 12 13 false true)
    ∧ decodeWord 0b000111_111101_001100_001101_0_1_010001 = .ok (.fcmpF32 .ord 5 12 13 false true) := by decide

theorem decode_full_empty_queue_fabric_and_booking_words_1 :
    decodeWord 0b001000_010101_111111_111111_1_1_000000 = .ok (.feClr 21)
    ∧ decodeWord 0b001000_010110_111111_111111_1_1_000001 = .ok (.feSet 22)
    ∧ decodeWord 0b001000_111100_010111_111111_1_1_000010 = .ok (.feTst 4 23)
    ∧ decodeWord 0b001000_011000_001111_011001_1_1_001000 = .ok (.wait 24 15 25 true)
    ∧ decodeWord 0b001010_111111_000101_000000_1_1_000000 = .ok (.qTail .ce 5)
    ∧ decodeWord 0b001010_011010_111111_000000_1_1_000010 = .ok (.qSeq 26 .ce)
    ∧ decodeWord 0b001010_011011_000110_000000_1_1_000011 = .ok (.tmplLd 27 .ce 6)
    ∧ decodeWord 0b001010_111111_000101_000001_1_1_000000 = .ok (.qTail .me 5)
    ∧ decodeWord 0b001010_011010_111111_000001_1_1_000010 = .ok (.qSeq 26 .me)
    ∧ decodeWord 0b001010_011011_000110_000001_1_1_000011 = .ok (.tmplLd 27 .me 6)
    ∧ decodeWord 0b001010_111111_000101_000010_1_1_000000 = .ok (.qTail .ve 5)
    ∧ decodeWord 0b001010_011010_111111_000010_1_1_000010 = .ok (.qSeq 26 .ve) := by decide

theorem decode_full_empty_queue_fabric_and_booking_words_2 :
    decodeWord 0b001010_011011_000110_000010_1_1_000011 = .ok (.tmplLd 27 .ve 6)
    ∧ decodeWord 0b001010_111111_000101_000011_1_1_000000 = .ok (.qTail .sae 5)
    ∧ decodeWord 0b001010_011010_111111_000011_1_1_000010 = .ok (.qSeq 26 .sae)
    ∧ decodeWord 0b001010_011011_000110_000011_1_1_000011 = .ok (.tmplLd 27 .sae 6)
    ∧ decodeWord 0b001010_111111_011100_111001_1_1_000001 = .ok (.qMark 9 28 true)
    ∧ decodeWord 0b001010_111111_011111_111111_1_1_001000 = .ok (.omClaim 31)
    ∧ decodeWord 0b001010_111111_011110_111111_1_1_001001 = .ok (.omRel 30)
    ∧ decodeWord 0b001011_111111_000111_111111_1_1_000000 = .ok (.jr 7)
    ∧ decodeWord 0b001011_001110_001000_111111_1_1_000001 = .ok (.jalr 14 8)
    ∧ decodeWord 0b001100_011101_001001_111111_1_1_000000 = .ok (.xPost 29 9)
    ∧ decodeWord 0b001100_011110_011111_111111_1_1_000001 = .ok (.xWait 30 31 true)
    ∧ decodeWord 0b001100_100000_001010_100001_1_1_000010 = .ok (.xRenq 32 10 33 true) := by decide

theorem decode_full_empty_queue_fabric_and_booking_words_3 :
    decodeWord 0b001100_100010_001011_100011_1_0_000011 = .ok (.xRenqAck 34 11 35 false)
    ∧ decodeWord 0b001100_100100_100101_111111_0_1_000100 = .ok (.xFence 36 37 false)
    ∧ decodeWord 0b101100_000101_000010_000000_0_0_000000 = .ok (.bkReq 5 2)
    ∧ decodeWord 0b101100_000110_000101_000000_0_0_000010 = .ok (.bkStat 6 5 false)
    ∧ decodeWord 0b101100_000111_000101_000000_1_0_000001 = .ok (.bkCancel 7 5 true) := by decide

theorem decode_immediate_register_and_memory_words_1 :
    decodeWord 0b010000_100110_100111_1_1111111110000 = .ok (.addi 38 39 true (-16))
    ∧ decodeWord 0b010001_100110_100111_1_1111111101111 = .ok (.andi 38 39 true (-17))
    ∧ decodeWord 0b010010_100110_100111_1_1111111101110 = .ok (.ori 38 39 true (-18))
    ∧ decodeWord 0b010011_100110_100111_1_1111111101101 = .ok (.xori 38 39 true (-19))
    ∧ decodeWord 0b010100_101000_101001_0_1111111101011 = .ok (.shli 40 41 false 43)
    ∧ decodeWord 0b010101_101000_101001_0_1111111101010 = .ok (.shri 40 41 false 42)
    ∧ decodeWord 0b010110_101000_101001_0_1111111101001 = .ok (.srai 40 41 false 41)
    ∧ decodeWord 0b011000_001011_001100_1_0111111111111 = .ok (.aAddi 11 12 4095)
    ∧ decodeWord 0b011001_101010_111111_1_1000100010010 = .ok (.csrR 42 0x112)
    ∧ decodeWord 0b011010_111111_101011_1_1000011000101 = .ok (.csrW 0x0C5 43 true)
    ∧ decodeWord 0b011011_101100_101101_0_1000000010100 = .ok (.csrX 44 45 false 0x014)
    ∧ decodeWord 0b011100_101110_10101011110011011110 = .ok (.lih 46 0xABCDE) := by decide

theorem decode_immediate_register_and_memory_words_2 :
    decodeWord 0b011101_101111_11111110110111001011 = .ok (.lim 47 0xFEDCB)
    ∧ decodeWord 0b011110_110000_11111111000100100011 = .ok (.lit 48 0x123)
    ∧ decodeWord 0b100000_110010_1000_1_000_00_1000000000 = .ok (.ldI8 50 8 .lane .relaxed (-512))
    ∧ decodeWord 0b100001_110011_1001_1_001_01_1000000001 = .ok (.ldN8 51 9 .core .acqRel (-511))
    ∧ decodeWord 0b100010_110100_1010_1_010_10_1000000010 = .ok (.ldI16 52 10 .quad .sc (-510))
    ∧ decodeWord 0b100011_110101_1011_1_011_00_1000000011 = .ok (.ldN16 53 11 .die .relaxed (-509))
    ∧ decodeWord 0b100100_110110_1100_1_100_01_1000000100 = .ok (.ldI32 54 12 .pkg .acqRel (-508))
    ∧ decodeWord 0b100101_110111_1101_1_101_10_1000000101 = .ok (.ldN32 55 13 .pod .sc (-507))
    ∧ decodeWord 0b100110_111000_1110_1_000_00_1000000110 = .ok (.ld64 56 14 .lane .relaxed (-506))
    ∧ decodeWord 0b100111_111110_1111_1_001_01_1000000111 = .ok (.ldp 62 15 .core .acqRel (-505))
    ∧ decodeWord 0b101000_101000_1111_0_101_01_0111111111 = .ok (.st8 40 15 false .pod .acqRel 511)
    ∧ decodeWord 0b101001_101010_1110_1_100_10_0111111110 = .ok (.st16 42 14 true .pkg .sc 510) := by decide

theorem decode_immediate_register_and_memory_words_3 :
    decodeWord 0b101010_101100_1101_0_011_00_0111111101 = .ok (.st32 44 13 false .die .relaxed 509)
    ∧ decodeWord 0b101011_101110_1100_1_010_01_0111111100 = .ok (.st64 46 12 true .quad .acqRel 508)
    ∧ decodeWord 0b101101_110010_1010_1_000_00_0111111010 = .ok (.stp 50 10 true .lane .relaxed 506) := by decide

theorem decode_branch_and_tile_words_1 :
    decodeWord 0b101110_001_0_0_111111111111111111110 = .ok (.bT 1 false (-2))
    ∧ decodeWord 0b101110_111_1_1_011111111111111111111 = .ok (.bF 7 true 1048575)
    ∧ decodeWord 0b101111_0_1000000000000000000000000 = .ok (.j (-16777216))
    ∧ decodeWord 0b101111_1_0000000000011000000111001 = .ok (.jal 12345)
    ∧ decodeWord 0b110000_000001_111111_111111_1111_0000 = .ok (.tView 1 15)
    ∧ decodeWord 0b110001_000010_000011_000100_1110_0000 = .ok (.tMm 2 3 4 14)
    ∧ decodeWord 0b110010_000101_000110_000111_1101_0000 = .ok (.tEw 5 6 7 13)
    ∧ decodeWord 0b110011_001000_001001_111111_1100_0000 = .ok (.tRed 8 9 12)
    ∧ decodeWord 0b110100_001010_001011_111111_1011_0000 = .ok (.tTr 10 11 11)
    ∧ decodeWord 0b110101_001100_001101_111111_1010_0000 = .ok (.tCvt 12 13 10)
    ∧ decodeWord 0b110110_001110_001111_111111_1001_0000 = .ok (.tPerm 14 15 9)
    ∧ decodeWord 0b110111_010000_010001_111111_1000_0000 = .ok (.tSt 16 17 8) := by decide

theorem decode_branch_and_tile_words_2 :
    decodeWord 0b111000_010010_010011_111111_0111_0000 = .ok (.tPub 18 19 7)
    ∧ decodeWord 0b111001_010100_010101_111111_0110_0000 = .ok (.tap 20 21 6)
    ∧ decodeWord 0b111010_010110_111111_111111_1111_0000 = .ok (.tDrop 22) := by decide

theorem decode_system_and_hint_words_1 :
    decodeWord 0b111011_0000000000_1111111111111111 = .ok .nop
    ∧ decodeWord 0b111011_0000000001_1111111111111111 = .ok .exit
    ∧ decodeWord 0b111011_0000000010_1010101111001101 = .ok (.trap 0xABCD)
    ∧ decodeWord 0b111011_0000000011_1111111111111111 = .ok .tret
    ∧ decodeWord 0b111011_0000000100_1111111111110101 = .ok (.wake 5)
    ∧ decodeWord 0b111011_0000010000_1111111111101000 = .ok (.fence .acq .quad)
    ∧ decodeWord 0b111011_0000010000_1111111111101101 = .ok (.fence .rel .die)
    ∧ decodeWord 0b111011_0000010000_1111111111110010 = .ok (.fence .ar .pkg)
    ∧ decodeWord 0b111011_0000010000_1111111111110111 = .ok (.fence .sc .pod)
    ∧ decodeWord 0b111011_0000010001_1111111110001011 = .ok (.bar 11 .lane)
    ∧ decodeWord 0b111011_0000010001_1111111110011011 = .ok (.bar 11 .core)
    ∧ decodeWord 0b111011_0000010001_1111111110101011 = .ok (.bar 11 .quad) := by decide

theorem decode_system_and_hint_words_2 :
    decodeWord 0b111011_0000010001_1111111110111011 = .ok (.bar 11 .die)
    ∧ decodeWord 0b111011_0000010001_1111111111001011 = .ok (.bar 11 .pkg)
    ∧ decodeWord 0b111011_0000010001_1111111111011011 = .ok (.bar 11 .pod)
    ∧ decodeWord 0b111011_0000010010_1111111111010011 = .ok (.pub 3 .pod)
    ∧ decodeWord 0b111100_00000000000000000000000001 = .ok (.hint3C 1)
    ∧ decodeWord 0b111101_00000000000000000000000010 = .ok (.hint3D 2)
    ∧ decodeWord 0b111110_11111111111111111111111111 = .ok (.hint3E 67108863) := by decide

theorem decode_words_of_the_manual_1 :
    decodeWord 0x9042_3404 = .ok (.ldI32 4 2 .die .acqRel 4)
    ∧ decodeWord 0x9842_3402 = .ok (.ld64 4 2 .die .acqRel 2)
    ∧ decodeWord 0xEC10_0013 = .ok (.fence .sc .pkg)
    ∧ decodeWord 0xEC11_0032 = .ok (.bar 2 .die)
    ∧ decodeWord 0xEC00_0000 = .ok .nop
    ∧ decodeWord 0xB071_4081 = .ok (.bkCancel 7 5 true)
    ∧ decodeWord 0xB050_8000 = .ok (.bkReq 5 2)
    ∧ decodeWord 0xB061_4002 = .ok (.bkStat 6 5 false)
    ∧ decodeWord 0x4050_0003 = .ok (.addi 5 0 false 3)
    ∧ decodeWord 0x4051_5FFF = .ok (.addi 5 5 false (-1))
    ∧ decodeWord 0x5C91_4000 = .ok (.cmpi .ne 1 5 false 0)
    ∧ decodeWord 0xB89F_FFFE = .ok (.bT 1 false (-2)) := by decide

theorem decode_words_of_the_manual_2 :
    decodeWord 0x4061_8001 = .ok (.addi 6 6 false 1)
    ∧ decodeWord 0xEC01_0000 = .ok .exit
    ∧ decodeWord 0xC430_4250 = .ok (.tMm 3 1 2 5)
    ∧ decodeWord 0xDC61_0080 = .ok (.tSt 6 4 8)
    ∧ decodeWord 0xE830_0000 = .ok (.tDrop 3) := by decide
/-- R95 to R97: words that decode to nothing, and the check that stops each: major opcodes 0x00, 0x03 and 0x3F; fn 0x1C of INT,
fn10 0x005 of SYS, variant 1 of a tile word; condition 6, scope 6, order 3, an odd pair, register number 0x004, `fcvt` between
integers, engine 4, slot 32; address register 16. -/
theorem decode_stops_at_the_first_failing_check :
    decodeWord 0x0000_0000 = .error 1 ∧ decodeWord 0x0C00_0000 = .error 1 ∧ decodeWord 0xFFFF_FFFF = .error 1
    ∧ decodeWord 0b000001_000000_000000_000000_0_0_011100 = .error 2 ∧ decodeWord 0b111011_0000000101_0000000000000000 = .error 2
    ∧ decodeWord 0b110000_000000_000000_000000_0000_0001 = .error 2
    ∧ decodeWord 0b010111_110_000_000000_0_0000000000000 = .error 3 ∧ decodeWord 0b100000_000000_0000_0_110_00_0000000000 = .error 3
    ∧ decodeWord 0b100000_000000_0000_0_000_11_0000000000 = .error 3 ∧ decodeWord 0b100111_000001_0000_0_000_00_0000000000 = .error 3
    ∧ decodeWord 0b011001_000000_000000_0_0000000000100 = .error 3 ∧ decodeWord 0b000111_000000_000000_010_011_0_0_000000 = .error 3
    ∧ decodeWord 0b001010_000000_000000_000100_0_0_000000 = .error 3 ∧ decodeWord 0b001010_000000_100000_000000_0_0_001000 = .error 3
    ∧ decodeWord 0b001011_000000_010000_000000_0_0_000000 = .error 4 := by decide

/-! ### Commands: operation codes of R115 and R116, flags of R214 and R327, operations of R221 -/

theorem decode_copy_engine_codes_1 :
    decodeCmd .ce false at0 [(0, 0x0101)] = .ok (.cpNest at0 [(0, 0x0101)])
    ∧ decodeCmd .ce false at0 [(0, 0x0201)] = .ok (.cpPack at0 [(0, 0x0201)])
    ∧ decodeCmd .ce false at0 [(0, 0x0301)] = .ok (.cpUnpack at0 [(0, 0x0301)])
    ∧ decodeCmd .ce false at0 [(0, 0x0421)] = .ok (.cpPermLoad at0 [(0, 0x0421)])
    ∧ decodeCmd .ce false at0 [(0, 0x0401)] = .ok (.cpPermApply at0 [(0, 0x0401)])
    ∧ decodeCmd .ce false at0 [(0, 0x0501)] = .ok (.cpFill at0 [(0, 0x0501)])
    ∧ decodeCmd .ce false at0 [(0, 0x0601)] = .ok (.cpAmoAdd at0 [(0, 0x0601)])
    ∧ decodeCmd .ce false at0 [(0, 0x0601), (24, 1)] = .ok (.cpAmoMin at0 [(0, 0x0601), (24, 1)])
    ∧ decodeCmd .ce false at0 [(0, 0x0601), (24, 2)] = .ok (.cpAmoMax at0 [(0, 0x0601), (24, 2)])
    ∧ decodeCmd .ce false at0 [(0, 0x0601), (24, 3)] = .ok (.cpAmoAnd at0 [(0, 0x0601), (24, 3)])
    ∧ decodeCmd .ce false at0 [(0, 0x0601), (24, 4)] = .ok (.cpAmoOr at0 [(0, 0x0601), (24, 4)])
    ∧ decodeCmd .ce false at0 [(0, 0x0601), (24, 5)] = .ok (.cpAmoXor at0 [(0, 0x0601), (24, 5)]) := by decide

theorem decode_copy_engine_codes_2 :
    decodeCmd .ce false at0 [(0, 0x0601), (24, 6)] = .ok (.cpAmoXchg at0 [(0, 0x0601), (24, 6)])
    ∧ decodeCmd .ce false at0 [(0, 0x0601), (24, 7)] = .ok (.cpAmoCas at0 [(0, 0x0601), (24, 7)]) := by decide

theorem decode_matrix_engine_codes :
    decodeCmd .me false at0 [(0, 0x0101)] = .ok (.mxWload at0 [(0, 0x0101)])
    ∧ decodeCmd .me false at0 [(0, 0x0201)] = .ok (.mxRun at0 [(0, 0x0201)])
    ∧ decodeCmd .me false at0 [(0, 0x0301)] = .ok (.mxZero at0 [(0, 0x0301)])
    ∧ decodeCmd .me false at0 [(0, 0x0401)] = .ok (.mxMov at0 [(0, 0x0401)])
    ∧ decodeCmd .me false at0 [(0, 0x0409)] = .ok (.mxMovRaw at0 [(0, 0x0409)])
    ∧ decodeCmd .me false at0 [(0, 0x0501)] = .ok (.mxMovin at0 [(0, 0x0501)]) := by decide

theorem decode_vector_engine_codes_1 :
    decodeCmd .ve false at0 [(0, 0x0101)] = .ok (.vLd at0 [(0, 0x0101)])
    ∧ decodeCmd .ve false at0 [(0, 0x0201)] = .ok (.vLds at0 [(0, 0x0201)])
    ∧ decodeCmd .ve false at0 [(0, 0x0301)] = .ok (.vLdx at0 [(0, 0x0301)])
    ∧ decodeCmd .ve false at0 [(0, 0x0401)] = .ok (.vSt at0 [(0, 0x0401)])
    ∧ decodeCmd .ve false at0 [(0, 0x0501)] = .ok (.vSts at0 [(0, 0x0501)])
    ∧ decodeCmd .ve false at0 [(0, 0x0601)] = .ok (.vStx at0 [(0, 0x0601)])
    ∧ decodeCmd .ve false at0 [(0, 0x0701)] = .ok (.vAdd at0 [(0, 0x0701)])
    ∧ decodeCmd .ve false at0 [(0, 0x0801)] = .ok (.vSub at0 [(0, 0x0801)])
    ∧ decodeCmd .ve false at0 [(0, 0x0901)] = .ok (.vMul at0 [(0, 0x0901)])
    ∧ decodeCmd .ve false at0 [(0, 0x0A01)] = .ok (.vFma at0 [(0, 0x0A01)])
    ∧ decodeCmd .ve false at0 [(0, 0x0B01)] = .ok (.vFms at0 [(0, 0x0B01)])
    ∧ decodeCmd .ve false at0 [(0, 0x0C01)] = .ok (.vMin at0 [(0, 0x0C01)]) := by decide

theorem decode_vector_engine_codes_2 :
    decodeCmd .ve false at0 [(0, 0x0D01)] = .ok (.vMax at0 [(0, 0x0D01)])
    ∧ decodeCmd .ve false at0 [(0, 0x0E01)] = .ok (.vAbs at0 [(0, 0x0E01)])
    ∧ decodeCmd .ve false at0 [(0, 0x0F01)] = .ok (.vNeg at0 [(0, 0x0F01)])
    ∧ decodeCmd .ve false at0 [(0, 0x1001)] = .ok (.vAnd at0 [(0, 0x1001)])
    ∧ decodeCmd .ve false at0 [(0, 0x1101)] = .ok (.vOr at0 [(0, 0x1101)])
    ∧ decodeCmd .ve false at0 [(0, 0x1201)] = .ok (.vXor at0 [(0, 0x1201)])
    ∧ decodeCmd .ve false at0 [(0, 0x1301)] = .ok (.vShl at0 [(0, 0x1301)])
    ∧ decodeCmd .ve false at0 [(0, 0x1401)] = .ok (.vShr at0 [(0, 0x1401)])
    ∧ decodeCmd .ve false at0 [(0, 0x1501)] = .ok (.vSra at0 [(0, 0x1501)])
    ∧ decodeCmd .ve false at0 [(0, 0x1601)] = .ok (.vCmp at0 [(0, 0x1601)])
    ∧ decodeCmd .ve false at0 [(0, 0x1701)] = .ok (.vSel at0 [(0, 0x1701)])
    ∧ decodeCmd .ve false at0 [(0, 0x1801)] = .ok (.vCvt at0 [(0, 0x1801)]) := by decide

theorem decode_vector_engine_codes_3 :
    decodeCmd .ve false at0 [(0, 0x1901)] = .ok (.vRed at0 [(0, 0x1901)])
    ∧ decodeCmd .ve false at0 [(0, 0x1A01)] = .ok (.vScan at0 [(0, 0x1A01)])
    ∧ decodeCmd .ve false at0 [(0, 0x1B01)] = .ok (.vRcp at0 [(0, 0x1B01)])
    ∧ decodeCmd .ve false at0 [(0, 0x1C01)] = .ok (.vRsq at0 [(0, 0x1C01)])
    ∧ decodeCmd .ve false at0 [(0, 0x1D01)] = .ok (.vExp2 at0 [(0, 0x1D01)])
    ∧ decodeCmd .ve false at0 [(0, 0x1E01)] = .ok (.vLog2 at0 [(0, 0x1E01)])
    ∧ decodeCmd .ve false at0 [(0, 0x1F01)] = .ok (.vMov at0 [(0, 0x1F01)])
    ∧ decodeCmd .ve false at0 [(0, 0x2001)] = .ok (.vBcast at0 [(0, 0x2001)])
    ∧ decodeCmd .ve false at0 [(0, 0x2101)] = .ok (.vPerm at0 [(0, 0x2101)])
    ∧ decodeCmd .ve false at0 [(0, 0x2201)] = .ok (.vmAnd at0 [(0, 0x2201)])
    ∧ decodeCmd .ve false at0 [(0, 0x2301)] = .ok (.vmOr at0 [(0, 0x2301)])
    ∧ decodeCmd .ve false at0 [(0, 0x2401)] = .ok (.vmNot at0 [(0, 0x2401)]) := by decide

theorem decode_scatter_engine_codes :
    decodeCmd .sae false at0 [(0, 0x0101)] = .ok (.saAdd at0 [(0, 0x0101)])
    ∧ decodeCmd .sae false at0 [(0, 0x0201)] = .ok (.saMin at0 [(0, 0x0201)])
    ∧ decodeCmd .sae false at0 [(0, 0x0301)] = .ok (.saMax at0 [(0, 0x0301)])
    ∧ decodeCmd .sae false at0 [(0, 0x0401)] = .ok (.saAnd at0 [(0, 0x0401)])
    ∧ decodeCmd .sae false at0 [(0, 0x0501)] = .ok (.saOr at0 [(0, 0x0501)])
    ∧ decodeCmd .sae false at0 [(0, 0x0601)] = .ok (.saXchg at0 [(0, 0x0601)])
    ∧ decodeCmd .sae false at0 [(0, 0x0701)] = .ok (.saFlush at0 [(0, 0x0701)]) := by decide

theorem decode_chain_codes :
    decodeCmd .ce true at0 [(0, 0x0005)] = .ok (.chNop at0 [(0, 0x0005)])
    ∧ decodeCmd .ve true at0 [(0, 0x0100), (1, 0x1000), (2, 0x0040)] = .ok (.chLink at0 [(0, 0x0100), (1, 0x1000), (2, 0x0040)])
    ∧ decodeCmd .me true at0 [(0, 0x0200), (24, 7)] = .ok (.chMark at0 [(0, 0x0200), (24, 7)])
    ∧ decodeCmd .me true at0 [(0, 0x0300)] = .error 1 := by decide
/-- R110, R111, R116: the patch words of the manual's `ch.link` to 0x40_1000 build the command; a second template is BAD_CHAIN. -/
theorem test_patch_words_build_a_link :
    buildCmd [] 63 [0xFC10_0100, 0xFC30_1000, 0xFC40_0040] = .ok [(0, 0x0100), (1, 0x1000), (2, 0x0040)]
    ∧ patchCont 0xFC30_1000 = true ∧ patchCont 0xFC40_0040 = false
    ∧ buildCmd [] 63 [0xFC10_0200, 0xFF00_0007] = .ok [(0, 0x0200), (24, 7)] ∧ buildCmd [] 63 [0xFFE0_0000] = .ok []
    ∧ buildCmd [] 63 [0xFC10_0100, 0xF830_1000] = .error 2 := by decide

/-- The encoder gives a word of the manual back. -/
theorem test_encode_words :
    encode (.ldI32 4 2 .die .acqRel 4) = some 0x9042_3404 ∧ encode (.bT 1 false (-2)) = some 0xB89F_FFFE
    ∧ encode (.bkCancel 7 5 true) = some 0xB071_4081 ∧ encode (.tMm 3 1 2 5) = some 0xC430_4250 := by decide

/-! ### States that the witnesses use -/

/-- A user context with two registers loaded, at word 0x1000, whose handler stands at 0x2000. -/
def user0 : Ctx := { Ctx.reset false with s := [(1, 5), (2, 3)], a := [(1, 0x1000)], pc := 0x1000, tvec := 0x2000 }

/-- A core that runs it. -/
def core0 : Core := { Core.reset with run := true, user := user0 }

/-- The package with that core as core 0, executing in its user context. -/
def base : State := { State.reset with focusFw := false, cores := [(0, core0)] }

/-- The same with the user context changed. -/
def withUser (f : Ctx → Ctx) : State := { base with cores := [(0, { core0 with user := f user0 })] }

/-- The same with the core changed. -/
def withCore (f : Core → Core) : State := { base with cores := [(0, f core0)] }

/-- The package executing in the firmware context of core 0, whose user context stands still. -/
def baseFw : State := { State.reset with cores := [(0, { Core.reset with firm := { Ctx.reset true with s := [(1, 5)], pc := 0x1000 } })] }

/-- Bytes as sparse storage, from address 0 on. -/
def stored (bs : List Nat) : FMap Byte :=
  (List.range bs.length).filterMap fun i => let b := bs.getD i 0; if b = 0 then none else some (i, BitVec.ofNat 8 b)

/-- `base` with bytes in the scratchpad of core 0 and register `a1` at the first of them. -/
def withPad (bs : List Nat) : State :=
  withCore fun c => { c with sram := stored bs, user := { c.user with a := [(1, 0xFF0000000000000000)] } }

/-- The context of `base` with `a1` at its scratchpad. -/
def userPad : Ctx := { user0 with a := [(1, 0xFF0000000000000000)] }

/-- Page tables that map the first 64 KiB to a shadow pair at physical address 0x80000: tables at 0x10000, 0x20000, 0x40000, 0x60000,
0x60100 and 0x60200. -/
def pageTables : FMap Byte :=
  [((0x10000 : Nat), (0x8000000000020000 : Nat)), (0x20000, 0x8000000000040000), (0x40000, 0x8000000000060000), (0x60000, 0x8000000000060100),
    (0x60100, 0x8000000000060200), (0x60200, 0xFD00000000080000)].foldl
      (fun m e => writeBytes m (homeKey e.1) (leBytes 8 e.2)) []

/-- `base` with those page tables. -/
def paged : State := { withCore (fun c => { c with root := 1 }) with mem := pageTables }

/-- What a word reads as a descriptor meets a test. -/
def reads (s : State) (va : VAddr) (n : Nat) (k : State → List Byte → Bool) : Bool :=
  decide (s.cur.descRead va n = none) && decide (va.toNat % 16 = 0)
    && match s.readGranules s.focusCore s.focusFw va (n / 16) with | .ok s' bs => k s' bs | _ => false

/-- Such a test is a witness of `Desc`. -/
theorem desc_of_reads {s : State} {va : VAddr} {n : Nat} {k : State → List Byte → Bool} (h : reads s va n k = true) :
    ∃ bs s', s.Desc va n bs s' ∧ k s' bs = true := by
  simp only [reads, Bool.and_eq_true, decide_eq_true_eq] at h
  obtain ⟨⟨h0, h1⟩, h2⟩ := h
  split at h2
  · exact ⟨_, _, ⟨h0, h1, ‹_›⟩, h2⟩
  · cases h2

/-- Two descriptor reads, the second of the state that the first leaves. -/
def reads2 (s : State) (va : VAddr) (n : Nat) (va2 : VAddr) (m : List Byte → Nat) (k : List Byte → State → State → List Byte → Bool) : Bool :=
  reads s va n fun s1 hd => reads s1 va2 (m hd) fun s2 bs => k hd s1 s2 bs

/-- Such a test is a witness of both. -/
theorem desc_of_reads2 {s : State} {va va2 : VAddr} {n : Nat} {m : List Byte → Nat} {k : List Byte → State → State → List Byte → Bool}
    (h : reads2 s va n va2 m k = true) :
    ∃ hd s1 bs s2, s.Desc va n hd s1 ∧ s1.Desc va2 (m hd) bs s2 ∧ k hd s1 s2 bs = true := by
  obtain ⟨hd, s1, h1, h⟩ := desc_of_reads h
  obtain ⟨bs, s2, h2, h⟩ := desc_of_reads h
  exact ⟨hd, s1, bs, s2, h1, h2, h⟩

/-- An address translates, and what it leads to meets a test. -/
def leads (s : State) (acc : Acc) (va : VAddr) (n : Nat) (k : State → Place → Bool) : Bool :=
  decide (va.toNat % n = 0) && !s.acquiring s.focusCore s.focusFw
    && match s.translate s.focusCore s.focusFw acc va with | (s', .ok p _) => k s' p | _ => false

/-- Such a test is a witness of `Own`. -/
theorem own_of_leads {s : State} {acc : Acc} {va : VAddr} {n x : Nat}
    (h : leads s acc va n (fun s' p => decide (s' = s ∧ p = .spad s.focusCore x)) = true) (hi : s.curCore.inScratch x n = false) :
    s.Own acc va n x := by
  simp only [leads, Bool.and_eq_true, decide_eq_true_eq, Bool.not_eq_true'] at h
  obtain ⟨⟨h1, h2⟩, h3⟩ := h
  split at h3
  · rename_i s' p w heq
    simp only [decide_eq_true_eq] at h3
    obtain ⟨rfl, rfl⟩ := h3
    exact ⟨h1, ⟨_, heq⟩, h2, .inr hi⟩
  · cases h3

/-- An address leads elsewhere than to the own scratchpad, and what it leads to meets a test. -/
def elsewhere (s : State) (acc : Acc) (va : VAddr) (n : Nat) (k : State → Place → Option Nat → Bool) : Bool :=
  decide (va.toNat % n = 0)
    && match s.translate s.focusCore s.focusFw acc va with
      | (s', .ok p w) =>
        (match p with | .spad c _ => decide (c ≠ s.focusCore) | _ => true) && !s'.acquiring s.focusCore s.focusFw && k s' p w
      | _ => false

/-- Such a test is a witness of `Elsewhere`. -/
theorem elsewhere_of {s : State} {acc : Acc} {va : VAddr} {n : Nat} {k : State → Place → Option Nat → Bool}
    (h : elsewhere s acc va n k = true) :
    ∃ p w s', (∀ win, (acc = .store → w = win) → s.Elsewhere acc va n p win s') ∧ k s' p w = true := by
  simp only [elsewhere, Bool.and_eq_true, decide_eq_true_eq] at h
  obtain ⟨h1, h2⟩ := h
  split at h2
  · rename_i s' p w heq
    simp only [Bool.and_eq_true, Bool.not_eq_true'] at h2
    obtain ⟨⟨h3, h4⟩, h5⟩ := h2
    refine ⟨p, w, s', fun win hw => ⟨h1, ⟨w, heq, hw⟩, ?_, h4⟩, h5⟩
    rintro x rfl
    simp at h3
  · cases h2

/-! ### States that meet the hypotheses of the statements: scalar words -/

/-- IntegerResults, ImmediatePredicateAndAddressResults and FloatResults: sources 5 and 3 are FULL, the destination is free; `bfi`,
`lim` and `fma` read their destination too. -/
theorem witness_sources_and_destination :
    base.Reads 1 5 ∧ base.Reads 2 3 ∧ base.Takes 3 ∧ base.Takes 0 ∧ base.Reads 0 0 ∧ base.Reads 3 0 :=
  ⟨⟨rfl, rfl, rfl⟩, ⟨rfl, rfl, rfl⟩, by unfold State.Takes; decide, by unfold State.Takes; decide, ⟨rfl, rfl, rfl⟩, ⟨rfl, rfl, rfl⟩⟩

/-- DivisionResults: a zero divisor, the one overflow, and an ordinary division. -/
theorem witness_DivisionResults :
    let s := withUser fun c => { c with s := [(1, 5), (2, 3), (4, BitVec.intMin 64), (5, BitVec.allOnes 64)] }
    (s.Reads 1 5 ∧ s.Reads 0 0 ∧ s.Takes 3) ∧ (s.Reads 4 (BitVec.intMin 64) ∧ s.Reads 5 (BitVec.allOnes 64))
      ∧ (BitVec.intMin 64).toInt = -2 ^ 63 ∧ (BitVec.allOnes 64).toInt = -1
      ∧ s.Reads 2 3 ∧ ¬ ((5 : W64).toInt = -2 ^ 63 ∧ (3 : W64).toInt = -1) := by
  refine ⟨⟨⟨rfl, rfl, rfl⟩, ⟨rfl, rfl, rfl⟩, ?_⟩, ⟨⟨rfl, rfl, rfl⟩, ⟨rfl, rfl, rfl⟩⟩, by decide, by decide, ⟨rfl, rfl, rfl⟩, by decide⟩
  unfold State.Takes; decide

/-- R152 at those operands. -/
theorem test_division_corners :
    divS 5 0 = BitVec.allOnes 64 ∧ remS 5 0 = 5 ∧ divS (BitVec.intMin 64) (BitVec.allOnes 64) = BitVec.intMin 64
    ∧ remS (BitVec.intMin 64) (BitVec.allOnes 64) = 0 ∧ divS (-7) 2 = -3 ∧ remS (-7) 2 = -1 := by decide

/-- ImmediatePredicateAndAddressResults: `sel` with its predicate true and false. -/
theorem witness_sel : base.cur.getP 0 = true ∧ base.cur.getP 1 = false := by decide

/-- RoundingLaws: numbers of each format that decode to finite values, and an fp32 number that is no NaN. -/
theorem witness_RoundingLaws :
    (∀ f ∈ [fp64, fp32, fp16, bf16, fp8e4, fp8e5], (1 < 2 ^ f.bits) ∧ ∃ neg m e, f.decode 1 = .fin neg m e)
    ∧ 0x3F800000 < 2 ^ 32 ∧ ∃ neg m e, fp32.decode 0x3F800000 = .fin neg m e := by
  refine ⟨?_, by decide, _, _, _, rfl⟩
  intro f hf
  simp only [List.mem_cons, List.not_mem_nil, or_false] at hf
  rcases hf with rfl | rfl | rfl | rfl | rfl | rfl <;> exact ⟨by decide, _, _, _, rfl⟩

/-- FullEmptyAndPlainWords: a register of each state as a source and as a destination. -/
theorem witness_FullEmptyAndPlainWords :
    let s := withUser fun c => { c with fe := [(7, .pending), (8, .empty)] }
    s.Takes 3 ∧ s.Takes 8 ∧ s.cur.getFE 8 = .empty ∧ s.cur.getFE 7 = .pending ∧ s.Reads 1 5 ∧ s.Reads 2 3 := by
  refine ⟨?_, ?_, rfl, rfl, ⟨rfl, rfl, rfl⟩, ⟨rfl, rfl, rfl⟩⟩ <;> (unfold State.Takes; decide)

/-- BranchesAndDelaySlots: outside a slot with the predicate true and false, with an aligned target and one that is not; and in a
slot. -/
theorem witness_BranchesAndDelaySlots :
    (base.NoSlot ∧ base.cur.getP 0 = true ∧ base.cur.getP 1 = false ∧ (base.cur.getA 1).toNat % 4 = 0)
    ∧ (withUser fun c => { c with a := [(1, 0x1002)] }).NoSlot ∧ ((withUser fun c => { c with a := [(1, 0x1002)] }).cur.getA 1).toNat % 4 ≠ 0
    ∧ (withUser fun c => { c with slot := some 0x1000 }).cur.slot = some 0x1000 :=
  ⟨⟨rfl, by decide, by decide, by decide⟩, rfl, by decide, rfl⟩

/-- TrapsAreTaken: a user context with a handler and one of firmware, neither handling a trap; a firmware handler that traps; an
address that is not a multiple of the size. -/
theorem witness_TrapsAreTaken :
    (base.ctx 0 false).ih = false ∧ (base.ctx 0 false).tvec ≠ 0 ∧ (baseFw.ctx 0 true).ih = false
    ∧ (({ baseFw with cores := [(0, { Core.reset with firm := { Ctx.reset true with ih := true } })] } : State).ctx 0 true).ih = true
    ∧ base.Takes 4 ∧ base.Takes 5 ∧ base.Reads 0 0 ∧ base.Reads 1 5
    ∧ (let s := withUser fun c => { c with a := [(1, 0x1001)] }
       ∀ n ∈ [2, 4, 8, 16], (s.Address 1 0 n).toNat % n ≠ 0) := by
  refine ⟨rfl, by decide, rfl, rfl, ?_, ?_, ⟨rfl, rfl, rfl⟩, ⟨rfl, rfl, rfl⟩, by unfold State.Address; decide⟩ <;> (unfold State.Takes; decide)

/-- TrapWordRaisesSwtrap and TretRestores: a user context that handles no trap and one that does, outside a slot, and one in a slot. -/
theorem witness_trap_and_tret :
    (base.cur.ih = false ∧ base.cur.tvec ≠ 0 ∧ base.NoSlot)
    ∧ (baseFw.cur.ih = false ∧ baseFw.focusFw = true)
    ∧ ((withUser fun c => { c with ih := true }).NoSlot ∧ (withUser fun c => { c with ih := true }).cur.ih = true)
    ∧ (withUser fun c => { c with slot := some 0x1000 }).cur.slot = some 0x1000 :=
  ⟨⟨rfl, by decide, rfl⟩, ⟨rfl, rfl⟩, ⟨rfl, rfl⟩, rfl⟩

/-- R193: a trap word at 0x1000 is answered at 0x2000 with cause 0x16, its number and its PC; `tret` comes back to 0x1004. -/
theorem test_trap_and_tret :
    ∃ t u, exec (.trap 5) base = .next t ∧ exec .tret t = .next u
      ∧ t.cur.pc = 0x2000 ∧ t.cur.ecause = 0x16 ∧ t.cur.einfo0 = 5 ∧ t.cur.einfo1 = 0x1000 ∧ u.cur.pc = 0x1004 ∧ u.cur.ih = false :=
  ⟨_, _, rfl, rfl, by decide⟩

/-- ControlRegisterWords: sources and destinations as above; a register that firmware writes, in the user context. -/
theorem witness_ControlRegisterWords :
    base.Takes 3 ∧ base.Reads 1 5 ∧ base.focusFw = false ∧ firmwareWritten (0x020 : BitVec 12).toNat = true
    ∧ (3 : W64).toNat % 8 < 4 ∧ 4 ≤ (4 : W64).toNat % 8 := by
  refine ⟨?_, ⟨rfl, rfl, rfl⟩, rfl, rfl, by decide, by decide⟩
  unfold State.Takes; decide

/-! ### Memory, fences, waits -/

/-- LoadsReadTheirBytes and StoresWriteTheirBytes: the own scratchpad, with every access size; no order, and an acquire that has
nothing to follow. -/
theorem witness_own_scratchpad :
    let s := withPad [1, 2, 3]
    (∀ n ∈ [1, 2, 4, 8, 16], s.Own .load (s.Address 1 0 n) n 0 ∧ s.Own .store (s.Address 1 0 n) n 0 ∧ s.curCore.spadBad 0 n = false)
    ∧ s.Takes 4 ∧ s.Takes 5 ∧ s.Reads 2 3 ∧ s.Reads 3 0 ∧ s.MayOrder .core .relaxed ∧ s.MayOrder .die .acqRel
    ∧ s.NoAlias [.mem (s.Address 1 0 8) 8] := by
  refine ⟨?_, ?_, ?_, ⟨rfl, rfl, rfl⟩, ⟨rfl, rfl, rfl⟩, ?_, ?_, ?_⟩
  · intro n hn
    simp only [List.mem_cons, List.not_mem_nil, or_false] at hn
    rcases hn with rfl | rfl | rfl | rfl | rfl <;>
      exact ⟨own_of_leads (by decide +kernel) (by decide), own_of_leads (by decide +kernel) (by decide), by decide⟩
  · unfold State.Takes; decide
  · unfold State.Takes; decide
  · unfold State.MayOrder; decide
  · unfold State.MayOrder; decide
  · unfold State.NoAlias; decide

/-- LoadsReadTheirBytes and StoresWriteTheirBytes: an address in memory of this package, through the page tables; the walk fills
the translation cache. -/
theorem witness_home :
    (∃ p s', paged.Elsewhere .load (paged.Address 1 0 8) 8 p none s' ∧ (p = .home (homeKey 0x81000) ∧ (s'.core 0).tlb.length = 1))
    ∧ (∃ p s', paged.counted.Elsewhere .store (paged.Address 1 0 8) 8 p none s' ∧ p = .home (homeKey 0x81000))
    ∧ paged.cur.outFull none = false := by
  refine ⟨?_, ?_, by decide⟩
  · obtain ⟨p, w, s', h, hk⟩ := elsewhere_of (s := paged) (acc := .load) (va := paged.Address 1 0 8) (n := 8)
      (k := fun s' p w => decide ((s'.core 0).tlb.length = 1 ∧ p = .home (homeKey 0x81000) ∧ w = none)) (by decide +kernel)
    simp only [decide_eq_true_eq] at hk
    exact ⟨p, s', h none (fun _ => hk.2.2), hk.2.1, hk.1⟩
  · obtain ⟨p, w, s', h, hk⟩ := elsewhere_of (s := paged.counted) (acc := .store) (va := paged.Address 1 0 8) (n := 8)
      (k := fun _ p w => decide (p = .home (homeKey 0x81000) ∧ w = none)) (by decide +kernel)
    simp only [decide_eq_true_eq] at hk
    exact ⟨p, s', h none (fun _ => hk.2), hk.1⟩

/-- LoadsReadTheirBytes and StoresWriteTheirBytes: bytes of the own scratchpad that are uncorrectable; nothing that an access must follow,
and a store of the context to the same bytes that has not been performed. -/
theorem witness_own_scratchpad_corners :
    let s := withPad [1, 2, 3]
    let bad := withCore fun c => { c with sram := stored [1], bad := [0], user := userPad }
    let f : StoreF :=
      { core := 0, agent := .scalar false, seq := 0, place := .spad 0 0, va := 0xFF0000000000000000, bytes := [1], ord := .relaxed,
        scope := .core, after := [], win := none, asn := 0, origin := ⟨0, none, 0, []⟩, begun := false }
    let t := { s with flights := [(0, some (.store f))], nextTag := 1 }
    (∀ n ∈ [1, 2, 4, 8, 16], bad.curCore.spadBad 0 n = true)
    ∧ (s.followSc 0 false).allPerformed 0 (s.followSc 0 false).cur.scLast = true
    ∧ (s.followSc 0 false).olderOverlap (s.followSc 0 false).nextTag 0 (.scalar false) (.spad 0 0) 8 true false = false
    ∧ s.olderOverlap s.nextTag 0 (.scalar false) (.spad 0 0) 8 true false = false
    ∧ t.released 0 false .die = false ∧ (t.followSc 0 false).allPerformed 0 ((t.followSc 0 false).orderAfter 0 false .die) = false := by
  decide +kernel

/-- TrapsAreTaken: an address that no table maps, one whose page is not granted, and one in the scratch area; firmware while the user
context runs. -/
theorem witness_refused_accesses :
    (base.Address 1 0 16).toNat % 16 = 0 ∧ (match base.translate 0 false .load (base.Address 1 0 8) with | (_, .page) => true | _ => false) = true
    ∧ (let s := { paged with mem := writeBytes paged.mem (homeKey 0x60200) (leBytes 8 0xE400000000080000) }
       (match s.translate 0 false .store (s.Address 1 0 8) with | (_, .prot) => true | _ => false) = true)
    ∧ (let s := withCore fun c => { c with scrBase := 0, scrSize := 64, user := userPad }
       s.translate 0 false .load (s.Address 1 0 8) = (s, .ok (.spad 0 0) none) ∧ s.curCore.inScratch 0 8 = true ∧ s.acquiring 0 false = false)
    ∧ (let s := { baseFw with cores := [(0, { Core.reset with run := true })] }
       s.focusFw = true ∧ s.curCore.run = true) := by decide +kernel

/-- FencesAndBarriers: a context with nothing in flight, and one whose store is; a counter of no gang, free and held. -/
theorem witness_FencesAndBarriers :
    let f : StoreF :=
      { core := 0, agent := .scalar false, seq := 0, place := .home 64, va := 64, bytes := [1], ord := .relaxed, scope := .core, after := [],
        win := none, asn := 0, origin := ⟨0, none, 0, []⟩, begun := false }
    let s := { base with flights := [(0, some (.store f))] }
    (base.loadsDone 0 false = true ∧ base.released 0 false .pod = true ∧ base.focusFw = false)
    ∧ (s.released 0 false .die = false ∧ s.loadsDone 0 false = true)
    ∧ base.curCore.barHeld Scope.quad.code 3 = false ∧ (base.barMembers (base.gangOf 0) 0 2).length ≤ (base.barCtr 0 2 0 3).arr + 1
    ∧ (withCore fun c => { c with barPend := [(barKey 2 3, true)] }).curCore.barHeld 2 3 = true := by decide

/-- FencesAndBarriers: a gang of two cores of a quad, of which the other has not arrived. -/
theorem witness_bar_of_two :
    let card : Card := { addr := 0, asn := 0, prio := 0, restart := false, part_ := 0, minchunk := 1, scope := 2, n := 2, entry := 0,
                         args := 0, acnt := 2, rsize := 16, done := 0 }
    let job : Job := { id := 0, q := 0, card := card, next := 0, returned := [], again := [], cores := [0, 1], members := [0, 1],
                       leaving := false }
    let s := { withCore (fun c => { c with job := some 0 }) with jobs := [job] }
    s.gangOf 0 = 1 ∧ (s.barMembers 1 0 2) = [0, 1] ∧ (s.barCtr 1 2 0 3).arr + 1 < 2 := by decide

/-- A range list of `n` ranges of `npg` pages at an address of three low bytes, `lo`, and a top byte. -/
def rangeList (n npg lo top : Nat) : List Nat :=
  [n] ++ List.replicate 15 0
    ++ (List.range n).flatMap fun _ => [lo % 256, lo / 256 % 256, lo / 65536, 0, 0, 0, 0, 0, top, 0, npg, 0, 0, 0, 0, 0]

/-- `base` with the page tables and such a list in its scratchpad. -/
def publishingList (bs : List Nat) : State :=
  { withCore (fun c => { c with root := 1, sram := stored bs, user := userPad }) with mem := pageTables }

/-- The same with a list of one page. -/
def publishing (lo : Nat) : State := publishingList (rangeList 1 1 lo 0)

/-- PublicationSwapsPages: a range list of one page that is mapped as a shadow page, and one whose base is not aligned. -/
theorem witness_PublicationSwapsPages :
    reads2 (publishing 0).counted 0xFF0000000000000000 16 0xFF0000000000000000 (fun hd => 16 * (field hd 0 1 % 16 + 1))
      (fun _ _ s2 bs =>
        let rs := pubRanges bs
        decide (rs.length = 1) && rs.all (fun r => r.npg ≠ 0 && r.base.toNat % 65536 = 0)
          && match s2.checkPages 0 (rs.flatMap PubRange.pages) with
            | .ok u => rs.all (fun r => (u.aliasSets 0 u.curCore.wseq (.mem r.base (65536 * r.npg))).isEmpty) && u.released 0 false .die && !u.entriesHeld 0 (.scalar false) (rs.flatMap PubRange.pages)
            | _ => false) = true
    ∧ reads2 (publishing 1).counted 0xFF0000000000000000 16 0xFF0000000000000000 (fun hd => 16 * (field hd 0 1 % 16 + 1))
      (fun _ _ _ bs => ((pubRanges bs).find? fun r => decide (r.base.toNat % 65536 ≠ 0)).isSome) = true
    ∧ (publishing 0).acquiring 0 false = false
    ∧ (match (publishing 0).pageEntry 0 0 with | (s1, .leaf _ _ p) => s1.ownPkg (nbits p 55 45) | _ => false) = true := by decide +kernel

/-- PublicationSwapsPages: lists of no ranges, of nine, and of a range of no page; a page that no table maps, one of the aperture, and one
that is no shadow page; and an entry in another package, which a route reaches. -/
theorem witness_publication_refused :
    (∀ l ∈ [rangeList 0 1 0 0, rangeList 9 1 0 0, rangeList 1 0 0 0], reads2 (publishingList l).counted 0xFF0000000000000000 16
      0xFF0000000000000000 (fun hd => 16 * (field hd 0 1 % 16 + 1))
      (fun _ _ _ bs => let rs := pubRanges bs; rs.isEmpty || decide (8 < rs.length) || rs.any fun r => r.npg = 0) = true)
    ∧ (∀ l ∈ [rangeList 1 1 65536 0, rangeList 1 1 0 0xFF], reads2 (publishingList l).counted 0xFF0000000000000000 16
      0xFF0000000000000000 (fun hd => 16 * (field hd 0 1 % 16 + 1))
      (fun _ _ s2 bs => match (pubRanges bs).flatMap PubRange.pages with
        | [p] => (match s2.pageEntry 0 p with | (_, .fault) => true | _ => false)
            && decide (p.toNat / 2 ^ 64 = 0xFF ∨ p.toNat = 65536) && decide (p.toNat % 65536 = 0)
        | _ => false) = true)
    ∧ (let s := { publishing 0 with mem := writeBytes pageTables (homeKey 0x60200) (leBytes 8 0xFC00000000080000) }
       (match s.pageEntry 0 0 with | (_, .leaf _ e _) => !e.getLsbD 56 | _ => false) = true) := by decide +kernel

/-- PublicationSwapsPages: an entry that lies in another package: the table of the last level was read there. -/
theorem witness_remote_entry :
    let m := writeBytes pageTables (homeKey 0x60100) (leBytes 8 (2 ^ 63 + 9 * 2 ^ 45 + 0x60200))
    let s := { publishing 0 with mem := m, routes := [(9, { via := 0, port := 0, hops := 1 })] }
    let t := (s.pageEntry 0 0).1
    let answer (p : Nat × Option Flight) : Nat × Option Flight := (p.1, match p.2 with
      | some (.remoteRead r) => some (.remoteRead { r with data := some (leBytes 8 0xFD00000000080000) })
      | x => x)
    let u := { t with flights := t.flights.map answer }
    (match u.pageEntry 0 0 with | (_, .leaf _ e p) => !u.ownPkg (nbits p 55 45) && decide (u.hops (nbits p 55 45) = 1) && e.getLsbD 56 | _ => false)
      = true := by decide +kernel

/-- ExitStopsTheUserContext: no engine fault to report; the firmware context. -/
theorem witness_ExitStopsTheUserContext :
    base.NoSlot ∧ base.focusFw = false ∧ base.NoFault [.ce, .me, .ve, .sae] ∧ baseFw.NoSlot ∧ baseFw.focusFw = true :=
  ⟨rfl, rfl, .inr (by decide), rfl, rfl⟩

/-- A `wait` descriptor of one condition: the time base has reached `v`. -/
def waitDesc (v : Nat) : List Nat := [1] ++ List.replicate 15 0 ++ [5, 0, 0, 0, 0, 0, 0, 0, v, 0, 0, 0, 0, 0, 0, 0]

/-- WaitsBeginAndEnd: descriptors of no condition and of five, and of one condition that the manual does not allow. -/
theorem witness_wait_bad :
    (∀ n ∈ [0, 5], reads (withPad (n :: (waitDesc 0).drop 1)) 0xFF0000000000000000 16 (fun _ hd => decide (field hd 0 1 % 8 = n)) = true)
    ∧ ∀ p ∈ [(0, 0), (8, 0), (2, 0x60), (6, 0x10)],
      reads2 (withPad ((waitDesc 0).take 16 ++ [p.1, p.2] ++ (waitDesc 0).drop 18)) 0xFF0000000000000000 16 0xFF0000000000000000
        (fun hd => 16 + 16 * (field hd 0 1 % 8)) (fun _ _ _ bs => (waitConds bs 1).any fun w => decide (w.kind = p.1 ∧ w.sel = p.2)) = true := by
  decide +kernel

/-- WaitsBeginAndEnd: a condition that holds, and one that does not; a register for the result and a time-out. -/
theorem witness_wait_issues :
    ((withPad (waitDesc 0)).Reads 2 3 ∧ (withPad (waitDesc 0)).Takes 4)
    ∧ ∀ v ∈ [0, 9], reads2 (withPad (waitDesc v)) 0xFF0000000000000000 16 0xFF0000000000000000 (fun hd => 16 + 16 * (field hd 0 1 % 8))
      (fun hd _ s2 bs =>
        let ws := waitConds bs 1
        decide (field hd 0 1 % 8 = 1) && ws.all (fun w => !w.bad) && ws.all (fun w => (s2.condFault 0 w).isNone)
          && ws.all (fun w => !s2.condMissed 0 false w) && decide (ws.map (s2.condTrue 0 false) = [decide (v = 0)])) = true := by
  refine ⟨⟨⟨rfl, rfl, rfl⟩, by unfold State.Takes; decide⟩, by decide +kernel⟩

/-- WaitsBeginAndEnd: a held `wait` whose condition has come true, one whose promise has passed, and one whose time is over. -/
theorem witness_waits_end :
    let held (tb : Nat) (w : WaitCond) : State := { withUser (fun c => { c with op := some (.wait 4 true [w] 7 0) }) with tb := tb }
    let u : Ctx := { user0 with op := some (.wait 4 true [⟨4, 3, 1⟩] 7 0) }
    let miss : State := { withCore (fun c => { c with bmap := [(3, ⟨0, 4, none, false⟩)], user := u }) with tb := 5 }
    ((held 5 ⟨5, 0, 5⟩).condTrue 0 false ⟨5, 0, 5⟩ = true ∧ (held 5 ⟨5, 0, 5⟩).condFault 0 ⟨5, 0, 5⟩ = none ∧ 5 - 0 ≤ 7)
    ∧ (miss.ctx 0 false).ih = false ∧ (miss.ctx 0 false).tvec ≠ 0 ∧ miss.condTrue 0 false ⟨4, 3, 1⟩ = false
    ∧ firstCond (miss.condMissed 0 false) 0 [⟨4, 3, 1⟩] = some (0, ⟨4, 3, 1⟩)
    ∧ (held 7 ⟨5, 0, 9⟩).condTrue 0 false ⟨5, 0, 9⟩ = false
    ∧ firstCond ((held 7 ⟨5, 0, 9⟩).condMissed 0 false) 0 [⟨5, 0, 9⟩] = none ∧ 7 ≤ (held 7 ⟨5, 0, 9⟩).tb - 0 := by decide

/-! ### Queues, fabric, bookings, casks -/

/-- `base` with a patch word (template 0, no field amended) at the head of the queue of the copy engine, and `a1` after it. -/
def tailing : State :=
  withCore fun c => { c with
    sram := stored [0x00, 0x00, 0xE0, 0x03]
    ce := { Engine.reset with partialAddr := 0xFF0000000000000000, tmpl := [(0, [(0, 0x0101), (27, 0xFFFF)])] }
    user := { c.user with a := [(1, 0xFF0000000000000004)] } }

/-- A delta record of `tmpl.ld`: field 27 of template 0 becomes 0xFFFF, with a CRC byte given. -/
def deltaRecord (crc : Nat) : List Nat := [0, 0, 0, 8, crc, 0, 0, 0, 0, 1, 0, 0, 0, 0, 0, 0, 0xFF, 0xFF]

/-- `base` with a template load behind its copy engine's queue, of a result. -/
def loading (r : W64) : State := withCore fun c => { c with ce := { c.ce with loads := [⟨false, 4, r, []⟩] } }

/-- QueueWords: `q.seq`, `q.mark`, `q.tail` of one command, `tmpl.ld` of one record, a good load and a failed one at a command
boundary, and operand slots free, claimed, held by the expander, and named. -/
theorem witness_QueueWords :
    (base.MayUseCore ∧ base.NoFault [.ce] ∧ base.Takes 3 ∧ base.Reads 1 5)
    ∧ (tailing.MayUseCore ∧ tailing.NoFault [.ce] ∧ (tailing.curCore.eng .ce).tmplf = false ∧ (tailing.curCore.eng .ce).loads = []
      ∧ (tailing.cur.getA 1).toNat % 4 = 0)
    ∧ (∀ r, ((loading r).curCore.eng .ce).loads = [⟨false, 4, r, []⟩] ∧ ((loading r).curCore.eng .ce).executing = false
      ∧ (loading r).curCore.stopped = false)
    ∧ (base.curCore.slot 31 ≠ .exp ∧ base.curCore.slotNamed 31 = false)
    ∧ (withCore fun c => { c with omSt := [(0, .exp)] }).curCore.slot 0 = .exp := by
  refine ⟨⟨nofun, .inr (by decide), by unfold State.Takes; decide, ⟨rfl, rfl, rfl⟩⟩,
    ⟨nofun, .inr (by decide), by decide, by decide, by decide⟩, fun _ => ⟨rfl, rfl, rfl⟩, by decide, by decide⟩

/-- QueueWords: `q.tail` behind a template load that has failed, and with a tail that is not aligned. -/
theorem witness_qTail_traps :
    (let s := withCore fun c => { c with ce := { c.ce with tmplf := true, tmplRes := 2 } }
     (s.curCore.eng .ce).tmplf = true ∧ s.cur.op = none ∧ s.cur.ih = false ∧ s.cur.tvec ≠ 0)
    ∧ (let s := withUser fun c => { c with a := [(1, 0x1002)] }
       (s.curCore.eng .ce).tmplf = false ∧ (s.cur.getA 1).toNat % 4 ≠ 0 ∧ s.cur.ih = false ∧ s.cur.tvec ≠ 0) := by decide

/-- QueueWords: that `tmpl.ld` reads one record. -/
theorem witness_tmplLd :
    (match readDeltas (withPad (deltaRecord 0)) 0xFF0000000000000000 63 with
      | .ok _ ds => decide (ds.length = 1)
      | _ => false) = true := by decide +kernel

/-- QueueWords: that `q.tail` reads one command and finds everything before it performed. -/
theorem witness_qTail :
    (match publishLoop .ce (tailing.curCore.eng .ce).tmpl tailing.counted.curCore.wseq (tailing.cur.getA 1) tailFuel
        { s := tailing.counted, addr := (tailing.curCore.eng .ce).partialAddr, words := (tailing.curCore.eng .ce).partialWords, new := [],
          counted := (tailing.curCore.eng .ce).counted, stop := (tailing.curCore.eng .ce).linkStop } with
      | .ok p => p.s.released 0 false .core && decide (p.counted = 1) && decide (p.new.length = 1)
      | _ => false) = true := by decide +kernel

/-- FabricWords: a card at a 128-byte address for this package, and for one that a route reaches; an address that is not aligned;
a count fence towards a package that is reached and one that is not. -/
theorem witness_renq_and_fence :
    let s := { withPad [1, 0, 0] with routes := [(9, { via := 9, port := 0, hops := 1 })] }
    (s.MayUseCore ∧ s.Reads 2 3 ∧ s.Takes 4)
    ∧ reads s 0xFF0000000000000000 128 (fun s' _ => s'.released 0 false .pod) = true
    ∧ (s.cur.getA 1).toNat % 128 = 0 ∧ s.hops 0 = 0 ∧ s.hops 9 = 1 ∧ s.hops 3 = 3 ∧ (s.hops 1057 = 3)
    ∧ ((withUser fun c => { c with a := [(1, 0x40)] }).cur.getA 1).toNat % 128 ≠ 0 := by
  refine ⟨⟨nofun, ⟨rfl, rfl, rfl⟩, by unfold State.Takes; decide⟩, by decide +kernel, by decide, by decide, by decide, by decide,
    by decide, by decide⟩

/-- A manifest of round 7 with one record for package 9; NPART and the number of 64 KiB of the receive buffer as given. -/
def manifestDesc (npart cap : Nat) : List Nat :=
  [7, 0, npart, 0, 1, 4, 0, 0] ++ List.replicate 18 0 ++ [cap, 0, 0, 0, 0, 0] ++ [9, 0, 0, 8, 0, 0, 0, 0]

/-- FabricWords: a correct manifest, one whose receive buffer is not mapped, and one of NPART 0; `x.wait` on a failed result word, on a round that is posted, on one that is
over, and on one that is not known. -/
theorem witness_exchange_words :
    (∀ n ∈ [(0, 0), (2, 0), (2, 1)], reads2 (withPad (manifestDesc n.1 n.2)) 0xFF0000000000000000 32 0xFF0000000000000000 (fun hd => 32 + 32 * field hd 4 1)
      (fun _ _ s2 bs => s2.released 0 false .core && (s2.malformed (manifestOf 0 0 0 bs) == decide (n.1 = 0))
        && match s2.checkPages 0 (manifestOf 0 0 0 bs).pages with
          | .ok _ => decide (n.2 = 0) | .bad _ _ => decide (n.2 = 1) | .wait _ => false) = true)
    ∧ base.hops base.hmPrim ≠ 3
    ∧ ((withUser fun c => { c with s := [(1, 0x4000070000000000)] }).Reads 1 0x4000070000000000)
    ∧ ({ base with results := [(0, 7, 9)] } : State).results.find? (fun r => r.1 = base.hmGrp && r.2.1 = 7) = some (0, 7, 9)
    ∧ base.results.find? (fun r => r.1 = base.hmGrp && r.2.1 = 7) = none
    ∧ (let man : Manifest := { pkg := 0, core := 0, grp := 0, round := 7, npart := 2, pscope := 4, rbase := 0, rcap := 0, recs := [] }
       let r : MyRound := { grp := 0, round := 7, core := 0, asn := 0, addr := 0, man := man, tag := 4, sent_ := [] }
       ({ base with myRounds := [r] } : State).myRound 0 7 = some r ∧ base.myRound 0 7 = none) := by
  refine ⟨by decide +kernel, by decide, ⟨rfl, rfl, rfl⟩, by decide, by decide, by decide⟩

/-- A chain descriptor of one use: the matrix engine of core 0 for a duration, not before a berth; use word 0 of R59. -/
def chainDesc (dur first : Nat) : List Nat :=
  [1, 0, 0, 0, first % 256, first / 256, 0, 0, 0, 0, 0, 0, 0, 0, 0, 0, dur % 256, dur / 256, 0, 0, 0, 0, 0xF8, 0x3F, 0, 0]

/-- A booking of core 0. -/
def bookingOf (st : BookStatus) (dest : Option (Bool × Reg)) : Booking :=
  { id := 5, status := st, sub := 0, berth := 103, uses := [], order := 0, breq := 0, notBefore := 0, dest := dest, round := none,
    next := 0, refusals := 0, rebook := false }

/-- BookingWords: a valid descriptor, one whose duration is 0, one not before berth 8192; a table that is full, a booking unit that
has stopped; `bk.stat` and `bk.cancel` of a booking that is not there, one that has ended, a live one, and one still awaited. -/
theorem witness_BookingWords :
    (∀ p ∈ [(300, 8191), (0, 0), (1, 8192)],
      reads2 (withPad (chainDesc p.1 p.2)) 0xFF0000000000000000 16 0xFF0000000000000010 (fun hd => 16 * field hd 0 1)
        (fun hd _ _ bs => decide (field hd 0 1 = 1) && decide (field hd 4 3 = p.2) && ((usesOf bs 1).isSome == decide (p.1 ≠ 0))) = true)
    ∧ (∀ n ∈ [0, 17], reads (withPad (n :: (chainDesc 1 0).drop 1)) 0xFF0000000000000000 16 (fun _ hd => decide (field hd 0 1 = n)) = true)
    ∧ base.curCore.bookingsFull = false ∧ (base.die (dieOf 0)).failstop = false
    ∧ (({ base with dies := [(0, { Die.reset with failstop := true })] } : State).die (dieOf 0)).failstop = true
    ∧ (withCore fun c => { c with books := (List.range 64).map fun i => { bookingOf .held none with id := i + 1 } }).curCore.bookingsFull = true
    ∧ ((withUser fun c => { c with s := [(1, 0x50000000000)] }).Reads 1 0x50000000000) ∧ base.curCore.booking 5 = none
    ∧ (withCore fun c => { c with books := [bookingOf .complete none] }).curCore.booking 5 = some (bookingOf .complete none)
    ∧ (bookingOf .complete none).live = false ∧ (bookingOf .committed none).live = true ∧ (bookingOf .held (some (false, 4))).live = true := by
  refine ⟨by decide +kernel, by decide +kernel, by decide, by decide, by decide, by decide +kernel, ⟨rfl, rfl, rfl⟩, by decide, by decide,
    by decide, by decide, by decide⟩

/-- A view descriptor: fp32, rank 1, four elements from the start of the scratchpad. -/
def viewDesc : List Nat :=
  [0, 0, 0, 0, 0, 0, 0, 0, 0xFF, 1, 1, 0, 0, 0, 0, 0, 3, 0, 0, 0, 0, 0, 0, 0, 0, 0, 0, 0, 0, 0, 0, 0, 4]

/-- The view that it describes, `o` bytes on. -/
def viewAt (o : Nat) : ViewDesc :=
  { acc := false, base := BitVec.ofNat 72 (0xFF0000000000000000 + o), fmt := 1, rank := 1, ext := [4, 1, 1, 1, 1, 1],
    str := [4, 0, 0, 0, 0, 0], scl := 0 }

/-- Its entry in the cask table. -/
def viewCask (o : Nat) : Cask :=
  { st := .view, age := 0, pc := 0, seq := 0, depth := 0, src := [], desc := .view (viewAt o), memo := [] }

/-- An operation descriptor: one element of fp32, sources read at the coordinate 0; FN 0, a permutation table where asked for. -/
def opDescBytes (nsrc tbl : Nat) : List Nat :=
  [nsrc, 1, 1, 0, 0, 0, 0, tbl] ++ List.replicate 24 0
    ++ (List.range nsrc).flatMap fun _ => ((List.range 6).flatMap fun _ => [7, 0, 0, 0]) ++ List.replicate 8 0

/-- `withPad`, with handles 1 and 2 at views in the scratchpad. -/
def tiled (bs : List Nat) : State :=
  let s := withPad bs
  s.setCurCore { s.curCore with hnds := [(1, some 0), (2, some 1)], casks := [(0, some (viewCask 0)), (1, some (viewCask 64))] }

/-- TileWords: a free entry; a view; and for each operation a descriptor whose checks pass. -/
theorem witness_TileWords :
    (base.curCore.freeEntry = some 0 ∧ (tiled []).curCore.freeEntry = some 2)
    ∧ reads (withPad viewDesc).counted 0xFF0000000000000000 64 (fun _ bs =>
        (viewReserved bs).isNone && ((withPad viewDesc).curCore.unbacked (viewOf bs)).isNone && decide (viewOf bs = viewAt 0)) = true
    ∧ ∀ p ∈ [(CaskOp.mm, 2, 0), (.ew, 2, 0), (.red, 1, 0), (.tr, 1, 0), (.cvt, 1, 0), (.perm, 1, 0x10)],
        let s := tiled (opDescBytes p.2.1 p.2.2)
        reads2 s.counted 0xFF0000000000000000 32 0xFF0000000000000000 (fun hd => 32 + 32 * nsrcOf hd) (fun _ _ _ bs =>
          let hs := sourceHnds bs 1 (if p.2.1 = 2 then 2 else 0)
          let xs := (hs.filterMap s.curCore.hnd).filterMap s.curCore.cask
          decide (xs.length = p.2.1) && (opReserved p.1 bs).isNone && (s.curCore.unboundHnd hs).isNone
            && (opReservedFor (opOf p.1 bs) (xs.map Cask.desc)).isNone && (badMap (opOf p.1 bs) (xs.map Cask.desc)).isNone) = true := by
  decide +kernel

/-! ### Engine commands -/

/-- A command that has been published as the first of its queue. -/
def entryOf (c : Tmpl) : Entry :=
  { kind := .cmd, seq := 1, pub := 0, addr := 0, words := [0x03E00000], wseq := 0, fw := false, prom := 9, promOn := false, value := 1,
    built := some c, started := none, pos := 0, since := 0, done := false, void := false, stop := false, susp := false, thief := none,
    writes := [], after := [], refused := none, fault := none, result := 0 }

/-- An engine whose queue holds one command. -/
def engineOf (t : Entry) : Engine := { Engine.reset with q := [t], counted := 1 }

/-- `base` with a command at the head of an engine's queue, and the core changed: one vector unit and two accumulator units, every
operand slot claimed. -/
def queued (e : Eng) (t : Entry) (f : Core → Core) : State :=
  withCore fun c =>
    let x := { c with part_ := 0x201, omSt := (List.range 32).map fun i => (i, .claimed) }
    f (x.setEng e (engineOf t))

/-- The test of a state in which the command at the head of a queue starts as a walk-in. -/
def startTest (s : State) (k : Nat) (e : Eng) (t : Entry) (c : Tmpl) (f : State → Entry → Bool) : Bool :=
  let x := (s.core k).eng e
  decide (s.command k e t.seq = some t) && decide (t.done = false) && decide (t.started = none) && decide (t.built = some c)
    && decide (t.decodeFault e = none) && decide ((x.headCommand e).map Entry.seq = some t.seq) && decide (s.savingRun k = false)
    && decide ((s.core k).stopped = false) && decide (x.flt = false) && decide (x.loads = []) && decide (s.stealing k e = false) && decide (t.pos = 0) && decide (t.since = 0)
    && decide (opScope c < 6) && decide ((s.core k).waitMet c = true) && decide ((s.core k).slotHeld e c = false)
    && decide (x.gate = .awake) && decide ((if calendared e then bookOf c else none) = none) && decide (s.walkFits e k (durOf c) = true)
    && match s.begin k e t c none with | .go b t1 => f b t1 | _ => false

/-- Such a test is a witness of `Starts`, hence of `Runs`. -/
theorem starts_of_test {s : State} {k : Nat} {e : Eng} {t : Entry} {c : Tmpl} {f : State → Entry → Bool}
    (h : startTest s k e t c f = true) : ∃ b t1, s.Starts k e t c b t1 ∧ s.Runs k e t c b t1 ∧ f b t1 = true := by
  simp only [startTest, Bool.and_eq_true, decide_eq_true_eq] at h
  obtain ⟨⟨⟨⟨⟨⟨⟨⟨⟨⟨⟨⟨⟨⟨⟨⟨⟨⟨⟨h1, h2⟩, h3⟩, h4⟩, h5⟩, h6⟩, h7⟩, h7'⟩, h8⟩, h9⟩, h10⟩, h11⟩, h12⟩, h13⟩, h14⟩, h15⟩, h16⟩, h17⟩, h18⟩, h19⟩ := h
  split at h19
  · rename_i b t1 heq
    have hs : s.Starts k e t c b t1 :=
      ⟨⟨h1, h2, h3, h4, h5, h6, h7, h7', h8, h9, h10, h11, h12⟩, h13, h14, h15, h16, none, by rw [h17]; exact ⟨rfl, h18⟩, heq⟩
    exact ⟨b, t1, hs, .inl hs, h19⟩
  · cases h19

/-- A part of one element is a witness of `Follows` and `TileEnd`. -/
theorem follows_one {w : Who} {el : State → Nat → ERes (Nat × List Nat)} {b x : State} {n : Nat} {ts : List Nat}
    (h : el b 0 = .ok x (n, ts)) :
    ∃ sts size tags, sts 0 = b ∧ Follows w el 0 1 sts size tags ∧ TileEnd 1 size 0 1 ∧ sts 1 = x.dropEngReads w := by
  refine ⟨fun i => if i = 0 then b else x.dropEngReads w, fun _ => n, fun _ => ts, rfl, ?_, ⟨by omega, by omega, by omega, by omega,
    by omega⟩, rfl⟩
  intro i h1 h2
  obtain rfl : i = 0 := by omega
  exact ⟨x, h, rfl⟩

/-- CommandsStartAndRetire, VectorIntegerCommands, VectorFloatAndMoveCommands, VectorMasksAndReductions and IntegerReductionIsTheSum:
a command of the vector engine of each element type (i32, fp32, fp64) and each operation code, with two elements, its registers
backed and without errors. -/
theorem witness_vector_commands :
    ∀ et ∈ [10, 1, 0], ∀ code ∈ [0x07, 0x0A, 0x16, 0x17, 0x18, 0x19, 0x1A, 0x1B, 0x20, 0x21, 0x22],
      let c : Tmpl := [(0, BitVec.ofNat 16 (code * 256 + 1)), (6, 1), (24, 0x0203), (25, 4), (26, BitVec.ofNat 16 (et * 16 + et * 4096)),
        (27, 0xFFFF)]
      startTest (queued .ve (entryOf c) id) 0 .ve (entryOf c) c (fun b t1 =>
        let x := b.core 0
        decide (t1.started = some 0) && !vUnc x c [vVA c, vVB c, vVC c]
          && (vCap (vET c)).isSome && decide (vN c = 2) && decide (vSub c = 0) && decide (∀ r ∈ [vVD c, vVA c, vVB c, vVC c], r < 32 * x.vru)
          && ((intFmt (vET c)).isSome || (floatFmt (vET c)).isSome)) = true := by decide +kernel

/-- A command of the copy engine between two places of the own scratchpad: bytes 0 and 64 on, one element. -/
def copyCmd (code flags : Nat) : Tmpl :=
  [(0, BitVec.ofNat 16 (code * 256 + flags + 1)), (5, 0xFF), (19, 64), (23, 0xFF), (24, 1), (27, 0xFFFF)]

/-- The agent of the command that `queued` holds. -/
def whoOf (e : Eng) : Who := { core := 0, eng := some (e, 1) }

/-- The first element of each copy command, as CopyCommands gives it. -/
def firstCopy (c : Tmpl) (y : State) (t1 : Entry) : ERes (Nat × List Nat) :=
  match opCode c with
  | 5 => y.fillElem (whoOf .ce) t1 (vadd (addr1 c) 0) (fillBytes c)
  | 4 =>
    if flagX c then
      (y.engRead (whoOf .ce) (vadd (addr0 c) 0) 1).bind fun y lo => (y.engRead (whoOf .ce) (vadd (addr0 c) 0 + 1) 1).bind fun y hi =>
        .ok (y.stagePerm 0 (permId c) 0 (leNat (lo ++ hi))) (0, [])
    else y.copyElem (whoOf .ce) t1 (eszOf c) (vadd (addr0 c) 0) (vadd (addr1 c) 0)
  | _ => y.copyElem (whoOf .ce) t1 (eszOf c) (vadd (addr0 c) 0) (vadd (addr1 c) 0)

/-- CopyCommands: each copy command of one element, from its start to its end; with `follows_one`. -/
theorem witness_CopyCommands :
    ∀ p ∈ [(1, 0), (5, 0), (2, 0), (2, 0x20), (3, 0), (4, 0x20), (4, 0)],
      let c := copyCmd p.1 p.2
      startTest (queued .ce (entryOf c) fun k => { k with perm := [(1, [0])] }) 0 .ce (entryOf c) c (fun b t1 =>
        decide (t1.pos = 0) && decide (product (counts c 6) = 1) && decide (cntOf c 0 * cntOf c 1 = 1)
          && decide (fieldOf c 24 % 128 = 1) && [8, 9, 10, 11].all (fun i => decide (fieldOf c i = 0)) && permUsable (b.core 0) c
          && match firstCopy c b t1 with
            | .ok y _ => decide ((y.dropEngReads (whoOf .ce)).command 0 .ce 1 = some t1)
            | _ => false) = true := by decide +kernel

/-- CopyCommands: one element of 4 bytes in the own scratchpad, whose write may arrive at once; a source and a destination that are not aligned. -/
theorem witness_copy_element :
    let s := queued .ce (entryOf (copyCmd 1 0x40)) fun k => { k with sram := [(3 * 65536, 7)] }
    let a : VAddr := 0xFF0000000000000000
    (match s.engRead (whoOf .ce) a 4 with
      | .ok s1 bs => decide (bs = [7, 0, 0, 0]) && (s1.aliasSets 0 0 (.mem (a + 64) 4)).isEmpty &&
          match s1.translate 0 false .engWrite (a + 64) with
          | (s2, .ok (.spad 0 o) _) => decide (o = 64 ∧ o + 4 ≤ (s2.core 0).spadSize ∧ (s2.core 0).inScratch o 4 = false)
          | _ => false
      | _ => false) = true
    ∧ (match s.copyElem (whoOf .ce) (entryOf []) 4 a (a + 64) with
      | .ok u (_, [tag]) =>
          let v := u.setCommand 0 .ce { entryOf (copyCmd 1 0x40) with started := some 0, pos := 1, done := true }
          match v.flight tag with | some (.store f) => v.leftDie tag f && !v.granuleWaits f | _ => false
      | _ => false) = true
    ∧ a.toNat % 4 = 0 ∧ (a + 1).toNat % 4 ≠ 0 ∧ (a + 64).toNat % 4 = 0 := by decide +kernel

/-- AtomicAndScatterCommands: a `cp.amo` of each operation on one i32 (i64 for the bitwise ones) of the own scratchpad. -/
theorem witness_amo_commands :
    ∀ op ∈ [0, 1, 2, 3, 4, 5, 6, 7],
      let c : Tmpl := [(0, 0x0601), (5, 0xFF), (19, 64), (23, 0xFF), (24, BitVec.ofNat 16 op), (27, 0xFFFF)]
      startTest (queued .ce (entryOf c) id) 0 .ce (entryOf c) c (fun b t1 =>
        decide (fieldOf c 24 % 16 = op) && decide (fieldOf c 24 / 16 % 16 ≤ 5) && [7, 8, 9, 10, 11].all (fun i => decide (fieldOf c i = 0))
          && decide (t1.pos < cntOf c 0) && decide (cntOf c 0 = 1)
          && match b.amoElem (whoOf .ce) t1 c 0 with
            | .ok y _ => decide ((y.dropEngReads (whoOf .ce)).command 0 .ce 1 = some t1)
            | _ => false) = true := by decide +kernel

/-- AtomicAndScatterCommands: an operation on its way to memory of this package, and an entry of the SAE. -/
theorem witness_home_operations :
    let o : Origin := ⟨0, none, 0, []⟩
    let a : AmoF :=
      { core := 0, seq := 1, idx := 0, op := 7, ty := 2, place := .home 64, va := 0, operand := 3, compare := 0, asn := 0,
        asked := false, origin := o }
    let e : SaeF :=
      { core := 0, seq := 1, op := 0, et := 1, place := .home 64, va := 0, vals := [1, 2], lane := none, asn := 0,
        asked := false, origin := o }
    let s := { base with flights := [(0, some (.amo a)), (1, some (.sae e))], nextTag := 2 }
    s.flight 0 = some (.amo a) ∧ s.flight 1 = some (.sae e) ∧ a.place = .home 64 ∧ e.place = .home 64 ∧ s.saeBehind 1 e = false
    ∧ s.amoWaits 0 0 .ce 1 8 (.home 64) o = false ∧ s.amoWaits 1 0 .sae 1 4 (.home 64) o = false ∧ s.homeBad 64 8 = false := by decide +kernel

/-- AtomicAndScatterCommands: each scatter-accumulate command of two elements whose indices lie in the own scratchpad, and
`sa.flush`. -/
theorem witness_scatter_commands :
    ∀ code ∈ [1, 2, 3, 4, 5, 6, 7],
      let c : Tmpl := [(0, BitVec.ofNat 16 (code * 256 + 1)), (1, 64), (5, 0xFF), (6, 1), (23, 0xFF), (26, 0x00A0), (27, 0xFFFF)]
      startTest (queued .sae (entryOf c) id) 0 .sae (entryOf c) c (fun b t1 =>
        decide (opCode c = code) && (decide (code = 7) || (saOk b.curCore c && (saCheck (b.core 0) c).isNone
          && match b.saGather (whoOf .sae) t1 c 0 (cntOf c 0) with
            | .ok y g => decide (y.command 0 .sae 1 = some t1) && g.fault.isNone && decide (g.list.length = 2)
            | _ => false))) = true := by decide +kernel

/-- A command of the matrix engine, as a walk-in. -/
def matrixCmd (code flags e0 e1 e2 : Nat) : Tmpl :=
  [(0, BitVec.ofNat 16 (code * 256 + flags + 1)), (24, BitVec.ofNat 16 e0), (25, BitVec.ofNat 16 e1), (26, BitVec.ofNat 16 e2), (27, 0xFFFF)]

/-- The core of the matrix tests: weights of fp32 are latched. -/
def latched (k : Core) : Core := { k with wv := true, wfmt := 1, kw := 64 }

/-- MatrixCommands, a part that begins: `mx.zero` of tile 7, `mx.wload` of fp32 from slot 31, `mx.movin` to a slot and to a tile, and `mx.mov`, raw
and converted: every slot and tile is there, and nothing holds an error. -/
theorem witness_matrix_moves :
    ∀ c ∈ [matrixCmd 3 0 0 7 0, matrixCmd 1 0 31 0 1, matrixCmd 5 8 0 31 0, matrixCmd 5 0 0 7 0x10, matrixCmd 4 8 0 7 0,
        matrixCmd 4 0 0 7 0x11],
      startTest (queued .me (entryOf c) latched) 0 .me (entryOf c) c (fun b t1 =>
        let x := b.core 0
        tilesBacked x c && slotsClaimed x c && (slotsNamed c).all (fun n => decide (n < 32)) && (tilesNamed c).all (fun z =>
            (b.aliasSets 0 t1.wseq (.tiles z 1)).isEmpty)
          && decide (fieldOf c 6 < 128) && decide (mxFmt c ≤ 6) && !b.mxHalf (whoOf .me) (mxOff c) 16384 && (spadRange x (mxOff c) 16384).isNone && (spadUnc x (mxOff c) 16384).isNone && !x.poolBad (x.tileAt (mxTile c)) 16384
          && !x.omUnc (31 * 16384) 16384 && (b.aliasSets 0 t1.wseq (.mem 0xFF0000000000000000 16384)).isEmpty) = true := by
  decide +kernel

/-- MatrixCommands: a run of one pass of one row and one index. -/
theorem witness_matrix_run :
    let c := matrixCmd 2 8 0 7 1
    startTest (queued .me (entryOf c) latched) 0 .me (entryOf c) c (fun b t1 =>
      let x := b.core 0
      runOk x c && runFields x c && runTableOk x c && decide ((runPasses c)[t1.pos]? = some (0, 7))
        && (b.aliasSets 0 t1.wseq (.tiles 7 1)).isEmpty && !passUnc x c 0 && !x.poolBad (x.tileAt 7) 256) = true := by decide +kernel

/-- MatrixCommands, a part that ends: each command with its one part running and its cycles over, no row still to enter, and a run
that has drained. -/
theorem witness_matrix_ends :
    ∀ p ∈ [(matrixCmd 1 0 31 0 1, 0, 1), (matrixCmd 4 0 0 7 0x11, 0, 1), (matrixCmd 4 8 0 7 0, 0, 1), (matrixCmd 5 8 0 31 0, 0, 1),
        (matrixCmd 3 0 0 7 0, 0, 1), (matrixCmd 2 8 0 7 1, 0, 1), (matrixCmd 2 8 0 7 1, 1, 2)],
      let t := { entryOf p.1 with started := some 0, pos := p.2.1, since := p.2.2 }
      let s := queued .me t latched
      s.command 0 .me t.seq = some t ∧ t.done = false ∧ t.started.isSome = true ∧ t.built = some p.1
        ∧ (s.core (t.runner 0)).stopped = false ∧ (s.core 0).partEnd ≤ s.tb
        ∧ (s.core 0).rows = none ∧ (opCode p.1 = 3 → cntOf p.1 0 ≤ t.pos + 1)
        ∧ (opCode p.1 = 2 → (runPasses p.1).length = 1) := by decide +kernel

/-- VectorLoadsAndStores: `v.ld`, `v.lds`, `v.ldx`, `v.st`, `v.sts` and `v.stx` of one i32 at the start of the own scratchpad. -/
theorem witness_vector_memory :
    ∀ code ∈ [1, 2, 3, 4, 5, 6],
      let c : Tmpl := [(0, BitVec.ofNat 16 (code * 256 + 1)), (5, 0xFF), (23, 0xFF), (24, 0x0203), (25, 4), (26, 0xA0A0), (27, 0xFFFF)]
      startTest (queued .ve (entryOf c) id) 0 .ve (entryOf c) c (fun b t1 =>
        let x := b.core 0
        vPairOk (code = 1) c && vPairOk (code = 4) c && !vLost x c 0 && !x.poolBad (vVB c * 2048) 4 && !vUnc x c [vVA c] && decide (t1.pos = 0)
          && decide ((List.range (vN c)).filter (vActive x c) = [0])
          && match b.engRead (whoOf .ve) 0xFF0000000000000000 4 with
            | .ok y bs => decide (bs.length = 4) && decide (y.command 0 .ve 1 = some t1) && decide ((y.core 0).masks = x.masks)
            | _ => false) = true := by decide +kernel

/-- VectorLoadsAndStores: a store of each kind whose first piece comes from an uncorrectable granule. -/
theorem witness_vector_store_stops :
    ∀ code ∈ [4, 5, 6],
      let c : Tmpl := [(0, BitVec.ofNat 16 (code * 256 + 1)), (5, 0xFF), (23, 0xFF), (24, 0x0203), (25, 4), (26, 0xA0A0), (27, 0xFFFF)]
      startTest (queued .ve (entryOf c) fun k => { k with bad := [vVA c * 128] }) 0 .ve (entryOf c) c (fun b t1 =>
        decide ((vPieces (b.core 0) c fun e => vadd (addr0 c) (e * 4))[0]? = some none) && decide (t1.pos = 0) && vPairOk (code = 4) c
          && decide (b.command 0 .ve 1 = some t1)) = true := by decide +kernel

/-- AtomicAndScatterCommands: a flush that has started behind an entry that is not done. -/
theorem witness_flush_waits :
    let c : Tmpl := [(0, 0x0701), (27, 0xFFFF)]
    let t := { entryOf c with seq := 2, started := some 0 }
    let s := queued .sae (entryOf [(0, 0x0101)]) fun k => { k with sae := { k.sae with q := [entryOf [(0, 0x0101)], t] } }
    s.command 0 .sae 2 = some t ∧ t.done = false ∧ t.since = 0 ∧ t.built = some c ∧ s.mayGoOn 0 .sae t c = true ∧ opCode c = 7
      ∧ (s.core 0).sae.ahead .sae 2 = true := by decide +kernel

/-- CommandsStartAndRetire: a command that waits for a token and has it, and a copy with a promise register. -/
theorem witness_start_takes_tokens :
    let c : Tmpl := copyCmd 1 0 ++ [(29, 2 * 2048 + 3)]
    startTest (queued .ce { entryOf c with promOn := true } fun k => { k with tk := [(2, 5)] }) 0 .ce { entryOf c with promOn := true } c
      (fun _ t1 => decide (fieldOf c 29 / 2048 = 2) && decide (fieldOf c 29 % 2048 = 3) && decide (bookOf c = none) && t1.promOn) = true := by
  decide +kernel

/-- A command of the copy engine whose work is done, with a register for its result, and what its retirement needs. -/
def retireTest (f : Option (Byte × W64)) : Bool :=
  let t := { entryOf (copyCmd 1 0) with started := some 0, done := true, fault := f, promOn := true }
  let s := queued .ce t id
  decide (s.command 0 .ce 1 = some t) && s.writesDone 0 t (copyCmd 1 0) (t.writes ++ t.after) && s.pathsDone 0 .ce t
    && match s.completionWord 0 .ce t (copyCmd 1 0) (((s.core 0).eng .ce).retireSeq 1).done with | .ok s' _ => (s'.core 0).task.isNone | _ => false

/-- CommandsStartAndRetire: commands whose work is done, one without a fault and one with. -/
theorem witness_retire : retireTest none = true ∧ retireTest (some (5, 64)) = true := by decide +kernel

/-- The command at the head of a queue is not done, and its decoding gives a result. -/
def headTest (e : Eng) (c : Tmpl) (r : Option Byte) : Bool :=
  let t := entryOf c
  let s := queued e t id
  decide (s.command 0 e 1 = some t) && decide (t.decodeFault e = r) && decide ((((s.core 0).eng e).headCommand e).map Entry.seq = some 1)
    && !s.stealing 0 e && !s.savingRun 0 && !((s.core 0).eng e).flt && ((s.core 0).eng e).loads.isEmpty

/-- FaultsMarkersAndGates: an operation code that is not assigned and a scope of 6, which do not decode; and commands that decode and
name an element type of 6, a tile or a register that is not backed, or an element type that the engine does not have. -/
theorem witness_malformed_commands :
    (∀ e ∈ [Eng.ce, .me, .ve, .sae], headTest e [(0, 0x7F01)] (some 1) = true ∧ headTest e [(0, 0x0106), (27, 0xFFFF)] (some 3) = true)
    ∧ (headTest .ce [(0, 0x0601), (24, 0x0060)] none = true ∧ 6 ≤ fieldOf [(0, 0x0601), (24, 0x0060)] 24 / 16 % 16)
    ∧ (headTest .me (matrixCmd 3 0 0 8 0) none = true
      ∧ tilesBacked (queued .me (entryOf (matrixCmd 3 0 0 8 0)) id).curCore (matrixCmd 3 0 0 8 0) = false)
    ∧ (headTest .ve [(0, 0x0701), (24, 0x0020)] none = true ∧ 32 * (queued .ve (entryOf []) id).curCore.vru ≤ vVD [(0, 0x0701), (24, 0x0020)])
    ∧ (headTest .sae [(0, 0x0101), (26, 0x0040)] none = true ∧ saOk base.curCore [(0, 0x0101), (26, 0x0040)] = false) := by
  decide +kernel

/-- FaultsMarkersAndGates: a marker and a chain-control command at the head of a queue; a command that the next core of the quad may
steal; a walk-in whose berth has been booked, one whose has not, and one of a poisoned calendar; gates. -/
theorem witness_markers_steals_and_gates :
    let mark := { entryOf [] with kind := .qmark 7, seq := 0 }
    let ch := { entryOf [(0, 0x0200)] with words := [0xFC100200] }
    let rel : Tmpl := copyCmd 1 0 ++ [(31, 1)]
    let run : Run := { job := 0, idx := 0, member := 0, start := 0, released := false, exited := false, ckpted := false, again := false,
                       cmm := false, saving := false }
    let use : UseId := { pkg := 0, core := 0, hm := false, xid := 5, use := 0 }
    let cal : Calendar := { Calendar.reset with rows := [(0, some ⟨.booked, use⟩), (2, some ⟨.booked, use⟩)] }
    let walking := { entryOf (copyCmd 1 0) with started := some 0 }
    let first := { walking with seq := 2, built := some rel }
    let die (k : Nat) : Die := { Die.reset with cals := [(k, cal)] }
    let late : StoreF := { core := 0, agent := .lane .ce, seq := 1, place := .home 64, va := 64, bytes := [7], ord := .relaxed, scope := .core,
                           after := [], win := none, asn := 0, origin := ⟨0, some (0, .lane .ce), 0, []⟩, begun := false }
    let halted (t : Entry) := queued .ce t fun k => { k with ce := { k.ce with flt := true } }
    ((queued .ce mark id).core 0).ce.q = [mark] ∧ mark.kind = .qmark 7 ∧ ((halted mark).core 0).ce.flt = true
    ∧ ((queued .ce ch id).core 0).headControl 1 [(0, 0x0200)] = some .ce ∧ ((halted ch).core 0).headControl 1 [(0, 0x0200)] = some .ce
    ∧ ((queued .ce mark id).laneAfter 0 .ce).all (fun w => (queued .ce mark id).performed 0 .core w) = true
    ∧ (let s : State := { queued .ce mark id with flights := [(0, some (.store late))], nextTag := 1 }
       (s.laneAfter 0 .ce).all (fun w => s.performed 0 .core w) = false)
    ∧ (let s := { queued .ce (entryOf rel) (fun k =>
          { k with task := some run, ce := { k.ce with q := [first, { entryOf rel with seq := 3 }] } }) with
          cores := [(0, { (queued .ce (entryOf rel) (fun k =>
            { k with task := some run, ce := { k.ce with q := [{ walking with seq := 2 }, entryOf rel] } })).curCore with run := true }),
            (1, { Core.reset with task := some run, part_ := 0x201 })] }
       s.stealNext 0 .ce = some (entryOf rel) ∧ s.mayThieve 1 0 .ce rel = true ∧ s.mayBeStolen 0 .ce (entryOf rel) rel = true
         ∧ ((s.core 1).eng .ce).gate = .awake)
    ∧ (let s := queued .ce walking id
       s.runningWalk 0 .ce = some (0, walking) ∧ calendared .ce = true ∧ s.freeUntil .ce 0 s.tb = true
         ∧ ({ s with dies := [(0, die (calKey (engCal .ce 0)))] } : State).freeUntil .ce 0 s.tb = false
         ∧ (({ s with dies := [(0, { Die.reset with cals := [(calKey (engCal .ce 0), { cal with poisoned := true })] })] } : State).cal (engCal .ce 0)).poisoned = true)
    ∧ (base.busy 0 .ce = false ∧ (base.curCore.ce.gate = .awake) ∧ ({ base with tb := 1024 } : State).tb = base.curCore.ce.idleFrom + 1024)
    ∧ (({ base with dies := [(0, die (calKey (engCal .ce 0)))] } : State).cal (engCal .ce 0)).row 2 = some ⟨.booked, use⟩ := by
  decide +kernel

/-- `tiled`, handle 3 at a view of the page that the tables map as a shadow pair. -/
def shadowed (bs : List Nat) : State :=
  let v : ViewDesc := { viewAt 0 with base := 0 }
  let s := tiled bs
  { s.setCurCore { s.curCore with
      root := 1, hnds := [(1, some 0), (2, some 1), (3, some 2)]
      casks := [(0, some (viewCask 0)), (1, some (viewCask 64)), (2, some { viewCask 0 with desc := .view v })] } with mem := pageTables }

/-- A demand in `s` whose checks pass. -/
def demandTest (s : State) (k : DemandKind) (kv kc : Hnd) : Bool :=
  reads s.counted 0xFF0000000000000000 32 fun s1 bs =>
    match (s.curCore.hnd kv), (s.curCore.hnd kc) with
    | some ev, some ec =>
      match s.curCore.cask ec with
      | some x =>
        let dest : Option ViewDesc := if kv = kc then none
          else match (s.curCore.cask ev).map Cask.desc with | some (.view v) => some v | _ => none
        (boxReserved bs x.desc dest).isNone && (s.curCore.badHandle k kv kc).isNone && (k = .tap || dest.isSome)
          && (k ≠ .pub || (decide (1 ≤ field bs 0x0C 2 % 8 ∧ field bs 0x0C 2 % 8 ≤ 5) && dest.all fun v =>
                match s1.checkPages 0 (pagesOf (v.writes ((List.range 6).map fun i => (0, field bs (0x10 + 2 * i) 2)))) with
                | .ok _ => true
                | _ => false))
      | none => false
    | _, _ => false

/-- A box descriptor: one element at the origin, a scope. -/
def boxDesc (scope : Nat) : List Nat := List.replicate 12 0 ++ [scope] ++ List.replicate 19 0

/-- DemandsBegin: a demand of each kind; a `tap` of a view alone. -/
theorem witness_DemandsBegin :
    demandTest (tiled (boxDesc 0)) .st 2 1 = true ∧ demandTest (shadowed (boxDesc 1)) .pub 3 1 = true
    ∧ demandTest (shadowed (boxDesc 5)) .pub 3 1 = true ∧ demandTest (tiled (boxDesc 0)) .tap 2 1 = true
    ∧ (tiled (boxDesc 0)).MayUseCore ∧ (shadowed (boxDesc 0)).MayUseCore ∧ (viewCask 0).st = .view := by
  refine ⟨by decide +kernel, by decide +kernel, by decide +kernel, by decide +kernel, nofun, nofun, rfl⟩
/-! ### Steps of the hardware -/

/-- A run of job 0. -/
def runOf : Run :=
  { job := 0, idx := 0, member := 0, start := 0, released := false, exited := false, ckpted := false, again := false, cmm := false, saving := false }

/-- A load in flight. -/
def loadF (p : Place) (size : Nat) : LoadF :=
  { core := 0, fw := false, asn := 0, d := 4, size := size, sext := true, va := 0x80, pc := 0x1000, place := p, ord := .acqRel, scope := .die, after := [],
    due := 0, asked := false, data := none, bad := false, refused := false, nak := none, use := none }

/-- A store in flight. -/
def storeF (p : Place) : StoreF :=
  { core := 0, agent := .scalar false, seq := 0, place := p, va := 64, bytes := [7, 0, 9, 8], ord := .relaxed, scope := .core, after := [],
    win := some 1, asn := 0, origin := ⟨0, none, 0, []⟩, begun := false }

/-- `base` with things in flight, tags from 0 on, and a route to package 9. -/
def flying (fs : List Flight) : State :=
  { base with flights := (List.range fs.length).zip (fs.map some), nextTag := fs.length, routes := [(9, { via := 9, port := 0, hops := 1 })] }

/-- MemoryStepsHappen: a load of memory of this package, its refusal, and a NAK that answers it; accesses through a window, one
allowed and one refused; an acknowledgement; stores to this package and to another; copies of a line, and its invalidation. -/
theorem witness_MemoryStepsHappen :
    (∀ n ∈ [1, 8, 16], let l := loadF (.home (2 ^ 41 * 0 + 64)) n
      let s := flying [.load l]
      s.flight 0 = some (.load l) ∧ l.due ≤ s.tb ∧ s.olderOverlap 0 0 (.scalar false) l.place n true true = false
        ∧ s.allPerformed 0 l.after = true ∧ s.homeBad 64 n = false ∧ homeDie 64 = dieOf 0 ∧ 64 % 64 + n ≤ 64 ∧ n ≠ 0)
    ∧ (let l := { loadF (.spad 1 0) 8 with nak := some 3 }
       let m := { loadF (.spad 1 0) 8 with refused := true }
       let d := { loadF (.spad 1 0) 8 with data := some (List.replicate 8 7) }
       ∀ x ∈ [l, m, d], (flying [.load x]).flight 0 = some (.load x) ∧ x.due ≤ (flying [.load x]).tb
         ∧ (flying [.load x]).olderOverlap 0 0 (.scalar false) x.place 8 true true = false ∧ (∀ key, x.place ≠ .home key))
    ∧ (let l := loadF (.spad 1 0) 8
       let s := flying [.load l]
       s.olderOverlap 0 0 (.scalar false) (.spad 1 0) 8 true true = false ∧ s.windowRefused 0 1 0 8 = true
         ∧ ({ s with cores := [(0, core0), (1, { Core.reset with run := true, task := some runOf })] } : State).windowRefused 0 1 0 8 = false)
    ∧ (let t := storeF (.spad 1 0)
       (flying [.store t]).flight 0 = some (.store t) ∧ (∀ p ∈ (flying [.store t]).flights, 0 ≤ p.1)
         ∧ (flying [.store t]).allPerformed 0 t.after = true ∧ dieOf 1 = t.origin.die)
    ∧ (flying [.winAck 0 false 1 true]).flight 0 = some (.winAck 0 false 1 true)
    ∧ (let t := storeF (.home 64)
       let s := flying [.store t]
       0 < s.nextTag ∧ s.olderOverlap 0 0 t.agent t.place 4 true true = false ∧ s.allPerformed 0 t.after = true
         ∧ s.heldBack 0 t.origin.die (homeDie 64) t.origin = false ∧ s.granuleWaits t = false ∧ s.veBehind 0 t = false
         ∧ ({ s with dies := [(3, { Die.reset with copies := [(1, List.replicate 64 0)] })] } : State).hasCopy 3 1 = true)
    ∧ (let t := storeF (.remote 9 0x100)
       (flying [.store t]).flight 0 = some (.store t) ∧ (flying [.store t]).hops 9 ≠ 3 ∧ (flying [.store t]).writtenThere 0 t = false)
    ∧ (let o : Origin := ⟨0, none, 0, []⟩
       let s := flying [.inval 1 3 7 o]
       s.flight 0 = some (.inval 1 3 7 o) ∧ s.heldBack 0 (homeDie 64) 3 o = false) := by
  refine ⟨by decide +kernel, ?_, by decide +kernel, by decide +kernel, by decide +kernel, by decide +kernel, by decide +kernel,
    by decide +kernel⟩
  simp only [List.mem_cons, List.not_mem_nil, or_false]
  rintro x (rfl | rfl | rfl) <;> exact ⟨by decide +kernel, by decide +kernel, by decide +kernel, nofun⟩
/-- The state of a package in which a booking message is on its way to a die, due now. -/
def messaged (die : Nat) (t : BookType) (m : BookMsg) (s : State) : State := { s with msgs := [{ src := 0, die := die, due := s.tb, type_ := t, msg := m }] }

/-- A die with one calendar. -/
def dieWith (c : Cal) (x : Calendar) (f : Die → Die) : State := { base with dies := [(ownerDie c, f { Die.reset with cals := [(calKey c, x)] })] }

/-- The use that `message` names, as its owner records it. -/
def ownUse (st : RowState) (start : Option Nat) : OwnUse :=
  { id := msgUse message, first := 8, n := 2, st := st, exp := 100, start := start, carried := false, stop := false, dur := 512, link := false }

/-- The calendar of the matrix engine of core 0 with that use placed. -/
def calWith (u : OwnUse) : Calendar :=
  { Calendar.reset with rows := (List.range u.n).map (fun i => (u.first + i, some { st := u.st, id := u.id })), uses := [u] }

/-- The matrix engine of core 0. -/
def me0 : Cal := { kind := .me, idx := 0 }

/-- OwnersActOnMessages: `HOLD` of rows that are free, that are taken, that lie in a past berth or beyond the
horizon, and at a unit that has stopped; `COMMIT` of a use in time and
late; `RELEASE` and `CANCEL` of a use that has started and of one that has not; `SLIP` of one that has not; from this package and
from another. -/
theorem witness_OwnersActOnMessages :
    let arrives (s : State) (t : BookType) (m : BookMsg) (f : State → Bool) : Bool :=
      match s.arrive t m with
      | some (x, g) => decide (g.die = ownerDie (calOfWord m.res.toNat)) && (decide (g.src ≠ outsideSrc) || decide (m.pkg ≠ s.pkg))
          && !s.localFirst g.die g.due && f x
      | none => false
    let other : BookMsg := { message with pkg := 9, res := useWord 0x7FF me0 false 2 }
    let s (x : Calendar) (f : Die → Die) := dieWith me0 x f
    (∀ p ∈ [(message, true), (other, false)],
      let s (x : Calendar) (f : Die → Die) : State := if p.2 then messaged 0 .hold p.1 (s x f) else s x f
      let n := nbits p.1.res.toNat 16 0
      arrives (s Calendar.reset id) .hold p.1 (fun x => !(x.die 0).failstop && (x.cal me0).freeRun 8 n
        && decide (x.berth ≤ 8) && decide (8 + n ≤ x.horizon + 1)) = true
      ∧ arrives (s (calWith (ownUse .booked none)) id) .hold p.1 (fun x => !(x.cal me0).freeRun 8 n) = true
      ∧ arrives { s Calendar.reset id with tb := 9 * 256, msgs := if p.2 then [{ src := 0, die := 0, due := 9 * 256, type_ := .hold, msg := p.1 }] else [] }
          .hold p.1 (fun x => decide (p.1.berth < x.berth)) = true
      ∧ (let far := { p.1 with berth := 9000 }
         let t (x : State) : State := if p.2 then messaged 0 .hold far x else x
         arrives (t (dieWith me0 Calendar.reset id)) .hold far (fun x => decide (x.horizon + 1 < far.berth + n)) = true)
      ∧ arrives (s Calendar.reset fun d => { d with failstop := true }) .hold p.1 (fun x => (x.die 0).failstop) = true)
    ∧ arrives (messaged 0 .commit message (s (calWith (ownUse .held none)) id)) .commit message (fun x =>
        decide ((x.cal me0).use (msgUse message) = some (ownUse .held none)) && !(x.die 0).failstop
          && ((messaged 0 .commit message (s (calWith (ownUse .held none)) id)).arrive .commit message).all fun p => decide (p.2.due ≤ 100)) = true
    ∧ arrives (messaged 0 .commit message { s (calWith (ownUse .held none)) id with tb := 101 }) .commit message (fun x =>
        decide ((x.cal me0).use (msgUse message) = some (ownUse .held none)) && !(x.die 0).failstop
          && ((messaged 0 .commit message { s (calWith (ownUse .held none)) id with tb := 101 }).arrive .commit message).any fun p => decide (100 < p.2.due)) = true
    ∧ (∀ t ∈ [BookType.release, .cancel], ∀ o ∈ [none, some 7],
        arrives (messaged 0 t message (s (calWith (ownUse .booked o)) id)) t message (fun x =>
          decide ((x.cal me0).use (msgUse message) = some (ownUse .booked o)) && !(x.die 0).failstop && !(x.cal me0).poisoned) = true)
    ∧ arrives (messaged 0 .slip { message with berth := 9 } (s (calWith (ownUse .booked none)) id)) .slip { message with berth := 9 } (fun x =>
        decide ((x.cal me0).use (msgUse message) = some (ownUse .booked none)) && !(x.die 0).failstop && decide (9 + 2 ≤ x.horizon + 1)
          && (x.cal me0).freeOrOwn (msgUse message) 9 2) = true := by decide +kernel

/-- A use of a booking of core 1: the matrix engine of a core, its answer. -/
def bUse (idx : Nat) (a : Answer) : BUse :=
  { cal := { kind := .me, idx := idx }, pkg := 0x7FF, withLink := false, dur := 300, pred := 0, floor := 0, first := 3, n := 2, ans := a, fin := false }

/-- A package in which core 1 has a booking. -/
def booked (b : Booking) : State := { base with cores := [(0, core0), (1, { Core.reset with books := [b] })] }

/-- RequestsGoOn: a request whose round may begin, all of whose uses its own unit owns; and one at the end of its commit step. -/
theorem witness_requests_begin_and_commit :
    let b : Booking := { bookingOf .held (some (false, 4)) with uses := [bUse 0 (.refused none)] }
    let c : Booking := { b with uses := [bUse 0 .own], round := some 0, next := 1 }
    ((booked b).core 1).booking 5 = some b ∧ ((booked b).die (dieOf 1)).failstop = false ∧ b.rebook = false ∧ b.mayBegin (booked b).tb = true ∧ c.next ≠ 0 ∧ b.next ≤ (booked b).tb ∧ (booked b).bkuTakes 1 b = true
    ∧ (match (booked b).search 0 ((booked b).useId 1 b) b.uses 0 [] b.uses with
        | .ok _ us => us.all fun u => decide (u.ans = .own) && (booked b).ownedBy 0 u
        | _ => false) = true
    ∧ ((booked c).core 1).booking 5 = some c ∧ c.next ≤ ({ booked c with tb := 1 } : State).tb
    ∧ (∀ u ∈ c.uses, u.ans = .own ∧ (booked c).ownedBy 0 u = true) := by decide +kernel

/-- RequestsGoOn: an answer arrives and the round waits for another, is held, is fatal, has no run, or is refused, once more than
`BKU.RETRY_MAX` allows and once within it; a committed booking loses its unit, slips, and has a use done. -/
theorem witness_requests_judge_answers :
    let b (us : List BUse) : Booking := { bookingOf .held (some (false, 4)) with uses := us, round := some 0 }
    let c (st : BookStatus) : Booking := { bookingOf st none with uses := [bUse 64 .own] }
    let arrives (t : BookType) (s : State) (f : State → Bool) : Bool :=
      match (messaged 0 t message s).arrive t message with | some (x, g) => decide (g.src ≠ outsideSrc) && f x | none => false
    let answered (a : Answer) (us : List BUse) (r : RoundEnd) : Bool :=
      arrives .held (booked (b us)) fun x => decide ((x.core 1).booking 5 = some (b us)) && decide (us[0]?.map BUse.ans = some .waiting)
        && decide (x.roundEnd 0 (us.mapIdx fun j u => if j = 0 then { u with ans := a } else u) = r)
    answered (.held 4096) [bUse 64 .waiting, bUse 128 .waiting] .waiting = true
    ∧ answered (.held 4096) [bUse 64 .waiting] .held = true ∧ answered .fatal [bUse 64 .waiting] .fatal = true
    ∧ answered (.refused none) [bUse 64 .waiting] .noRun = true ∧ answered (.refused (some 8)) [bUse 64 .waiting] .refused = true
    ∧ (b []).refusals + 1 ≤ (base.die (dieOf 1)).retryMax ∧ (base.die (dieOf 1)).retryMax < { b [] with refusals := 4 }.refusals + 1
    ∧ (∀ t ∈ [BookType.refusedFatal, .moved, .done], ∀ st ∈ [BookStatus.committed, .slipped],
        arrives t (booked (c st)) (fun x => decide ((x.core 1).booking 5 = some (c st))) = true)
    ∧ (∀ w ∈ (c .committed).uses, nbit w.pred message.use = false) := by decide +kernel

/-- CalendarsRun: an expired hold; a use that may start; a berth that ends with a use and one that ends in it; an overrunning use and
a stopped one whose command stands at a boundary; a calendar without uses. -/
theorem witness_CalendarsRun :
    let at_ (tb : Nat) (u : OwnUse) : State := { dieWith me0 { calWith u with berth := 9 } id with tb := tb }
    let held := ownUse .held none
    let booked := ownUse .booked none
    let overrun := { ownUse .booked (some 2048) with carried := true }
    let stopped := { ownUse .booked (some 2048) with stop := true }
    (((at_ 2560 held).cal me0).uses.find? (fun u => u.st = .held && u.exp ≠ 0 && decide (u.exp < 2560)
        && !(at_ 2560 held).msgs.any fun f =>
          f.type_ = .commit && f.die = ownerDie me0 && decide (msgUse f.msg = u.id) && decide (f.due ≤ u.exp)) = some held)
    ∧ (((at_ 2560 booked).die (ownerDie me0)).failstop = false ∧ ((at_ 2560 booked).cal me0).poisoned = false
      ∧ (at_ 2560 booked).walkBusy me0 = false ∧ booked.first ≤ (at_ 2560 booked).berth ∧ (at_ 2560 booked).predsRun me0 booked.id = false
      ∧ (at_ 2560 booked).carrier me0 booked = none ∧ (at_ 2560 booked).forcedPass me0 booked = false
      ∧ (at_ 2560 booked).forcedChain me0 booked = false ∧ booked.carried = false ∧ booked.stop = false)
    ∧ (9 < (at_ 2560 booked).berth ∧ ((at_ 2560 booked).cal me0).uses.find? (fun u => u.first + u.n = 9 + 1) = some booked)
    ∧ (∀ u ∈ ((at_ 2560 { booked with n := 3 }).cal me0).uses, u.first + u.n ≠ 9 + 1)
    ∧ (((at_ 2600 overrun).cal me0).uses.find? (fun u => u.start.isSome && (u.carried || (at_ 2600 overrun).forcedChain me0 u) && !u.stop
          && decide (u.first + u.n ≤ 10)) = some overrun
      ∧ (at_ 2600 overrun).atBoundary me0 overrun = true ∧ ((at_ 2600 overrun).core 1).booking 5 = none
      ∧ (((at_ 2600 overrun).cal me0).dropUse overrun.id).freeRun 11 1 = true)
    ∧ (((at_ 2600 stopped).cal me0).uses.find? (fun u => u.start.isSome && u.stop) = some stopped
      ∧ (at_ 2600 stopped).atBoundary me0 stopped = true)
    ∧ ((base.cal me0).uses = [] ∧ (base.cal me0).berth < ({ base with tb := 256 } : State).berth) := by decide +kernel

/-- `tiled` with a demand of work given. -/
def demanding (w : DemandWork) (f : Demand → Demand) : State :=
  let s := tiled []
  s.setCurCore { s.curCore with
    demand := some (f (Demand.new false w 1))
    user := { s.curCore.user with op := some .demand } }

/-- DemandsComplete: a demand whose chains are over, of each kind of work; a box still to write and one whose writes are performed
and whose release waits or not; page-table entries that a publication may write and some that it may not yet; forcing that fails; a booking that has ended FATAL; a chain that is refused and one that is
accepted. -/
theorem witness_DemandsComplete :
    let box : DemandWork := .box 2 1 1 0 false false [] (List.replicate 6 0) (List.replicate 6 0) 0
    let s := demanding box id
    let d := Demand.new false box 1
    let us : List ForcedUse := [{ cal := me0, withLink := false, dur := 9, pred := 0, pass := none, tile := none }]
    (s.core 0).demand = some d ∧ d.failed = none ∧ d.bad = none ∧ (s.core 0).stopped = false
    ∧ ((withCore fun c => { c with demand := some d, clockStep := 3 }).core 0).stopped = true
    ∧ (s.ctx 0 false).ih = false ∧ (s.ctx 0 false).tvec ≠ 0
    ∧ (match s.writeBox 0 d 1 (viewAt 64) (viewAt 0).ext (List.replicate 6 0) (List.replicate 6 0)
          (boxTodo d.done (tilesOf (boxOf (List.replicate 6 0) (List.replicate 6 0)))) with | .on _ e => e.written | _ => false) = true
    ∧ (∀ w ∈ [box, .pin, .materialise [0]], ((demanding w id).core 0).demand = some (Demand.new false w 1))
    ∧ s.forcedDone 0 = true ∧ { s with flights := [(0, some (.store { storeF (.home 64) with agent := .forced }))] }.forcedDone 0 = false
    ∧ (let y : State := { (shadowed []) with
          dies := [(0, { Die.reset with clock := [(0, 5)] })]
          flights := [(0, some (.inval 7 (homeDie (homeKey 0x60200)) 9 ⟨0, none, 1, []⟩))], nextTag := 1 }
       y.entriesHeld 0 (.scalar false) [0] = true ∧ (shadowed []).entriesHeld 0 (.scalar false) [0] = false)
    ∧ s.released 0 false .die = true ∧ (flying [.store (storeF (.home 64))]).released 0 false .die = false
    ∧ (let b : Booking := { bookingOf .fatal none with uses := [bUse 0 .own] }
       let x := { d with runs := [⟨5, us, []⟩] }
       x.runs.findSome? (fun r => (({ s.curCore with books := [b] } : Core).booking r.id).filter Booking.failed) = some b)
    ∧ (match s.submitForced 0 0 (bookingUses us) with
        | .ok t i =>
          let r : ChainRun := { id := i, uses := us, todo := us.filterMap (·.tile) }
          let e : Demand := { d with chains := [], runs := [r] }
          !t.chainOver 0 r && (match t.forcedUse 0 e r 0 with | .on y f => decide (y = t ∧ f = e) | _ => false)
        | .refused .. => false) = true
    ∧ (match ({ s with dies := [(0, { Die.reset with failstop := true })] } : State).submitForced 0 0 (bookingUses us) with
        | .ok .. => false
        | .refused t _ => decide (t.ctx 0 false = s.ctx 0 false)) = true := by decide +kernel

/-- DemandsComplete: a demand over a source whose granule is uncorrectable fails. -/
theorem witness_demand_fails :
    let s := demanding (.box 2 1 1 0 false false [] (List.replicate 6 0) (List.replicate 6 0) 0) id
    let t := s.setCurCore { s.curCore with bad := [s.curCore.spadBase / 16] }
    (match t.demandStep 0 (Demand.new false (.box 2 1 1 0 false false [] (List.replicate 6 0) (List.replicate 6 0) 0) 1) with
      | .inl (.fail y _ _ _ _) => !(y.ctx 0 false).ih && decide ((y.ctx 0 false).tvec ≠ 0)
      | _ => false) = true := by decide +kernel
/-- The state of a core in which a run is placed. -/
def running (f : Core → Core) : State := withCore fun c => f { c with task := some runOf, job := some 0 }

/-- NoticesBucketsAndBarrierWaves: a notice for a run past its `exit`, one held and one taken, merged with another; a bucket at the end
of its period and before it. -/
theorem witness_notices_and_buckets :
    let n : Notice := { kind := 3, merged := 1, cadence := 1, mhz := 2100, at_ := 0 }
    let more : Notice := { n with merged := 2 }
    (((running fun c => { c with task := some { runOf with exited := true } }).core 0).task = some { runOf with exited := true }
      ∧ (running fun c => { c with task := some { runOf with exited := true } }).takesNotice 0 = false)
    ∧ ((running id).core 0).task = some runOf
    ∧ ((running id).setCtx 0 false { ((running id).core 0).user with notice := some n }).takesNotice 0 = true
    ∧ ((running id).core 0).user.tvec ≠ 0
    ∧ ((running fun c => { c with user := { c.user with ih := true } }).setCtx 0 false
        { user0 with ih := true, notice := some more }).takesNotice 0 = false
    ∧ (base.ctx 0 false).bucket.last + (base.ctx 0 false).bucket.per + 1 ≤ ({ base with tb := 16 } : State).tb
    ∧ base.tb < (base.ctx 0 false).bucket.last + (base.ctx 0 false).bucket.per + 1 := by decide +kernel

/-- NoticesBucketsAndBarrierWaves: an episode that reaches a die, and its second group due; arrivals of packages at the root, the first
of an episode, with others to come, and the last; a release for a gang that has arrived, and for none. -/
theorem witness_barrier_waves :
    let w : BarWave := { tag := 3, gang := 0, scope := 4, n := 1, due := 0, dies := [0, 1] }
    let x : Sluice :=
      { tag := 4, die := 0, gang := 0, scope := 4, n := 1, t0 := 0, groups := 4, gap := 32, map := [], left := [1, 2, 3], last := 0 }
    let s : State := { base with waves := [w], sluices := [x], tb := 32 }
    let barP (arg : W64) : Packet := { packet 0x17 with arg := arg }
    let c : PodCtr := { grp := 0, n := 1, need := 2, pkgs := [1] }
    let b : BarCtr := { gang := 0, scope := 5, inst := 0, n := 1, arr := 1, ep := 0, root := 9, grp := 0, need := 1 }
    s.waves.find? (fun w => w.tag = 3 && w.dies.contains 0 && decide (w.due ≤ s.tb)) = some w
    ∧ (s.sluices.find? (fun x => x.tag = 4 && x.left.head? = some 1 && decide (x.t0 + 1 * x.gap ≤ s.tb) && decide (x.last + x.gap ≤ s.tb))
        = some x ∧ 1 < x.scope)
    ∧ ((barP 0x10000).opc = 0x17 ∧ base.ownPkg (barP 0).dpkg = true ∧ base.ownPkg (barP 0).spkg = false)
    ∧ (let s : State := { base with podN := 2 }
       nbit (barP 0x10000).arg.toNat 20 = false ∧ s.podCtrs.find? (fun c => c.grp = 0 && c.n = 1) = none ∧ s.bars = []
         ∧ (insertNat 9 (s.podCtr 0 1).pkgs).length < (s.podCtr 0 1).need)
    ∧ (let s : State := { base with podCtrs := [c] }
       s.podCtr 0 1 = c ∧ c.need ≤ (insertNat 9 c.pkgs).length ∧ base.pkg ∉ insertNat 9 c.pkgs)
    ∧ (nbit (barP 0x110000).arg.toNat 20 = true
      ∧ ({ base with bars := [b] } : State).bars.filter (fun b => b.scope = 5 && b.n = 1 && b.grp = 0 && decide (b.arr ≠ 0)
            && decide ((base.barMembers b.gang 0 5).length ≤ b.arr)) = [b]) := by decide +kernel

/-- NoticesBucketsAndBarrierWaves: the ramp at rest, falling, about to fall, left by the first row, rising while rows enter, a row that
enters, and a clock that is stopped. -/
theorem witness_ramp :
    let ramp (r at_ : Nat) (down : Bool) (rows : Option Rows) : State :=
      { withCore (fun c => { c with ramp := r, rampAt := at_, rampDown := down, rows := rows }) with tb := 8 }
    let empty (s : State) : Prop := (s.core 0).rows = none ∧ (s.core 0).frows = none
    (empty (ramp 0 0 false none) ∧ ((ramp 0 0 false none).core 0).stopped = false ∧ ((ramp 0 0 false none).core 0).rampRows = false)
    ∧ ((withCore fun c => { c with clockStep := 3 }).core 0).stopped = true
    ∧ (empty (ramp 3 4 true none) ∧ ((ramp 3 4 true none).core 0).rampAt + 4 ≤ (ramp 3 4 true none).tb)
    ∧ (empty (ramp 3 6 false none) ∧ (ramp 3 6 false none).tb < ((ramp 3 6 false none).core 0).rampAt + 4
      ∧ ((ramp 3 6 false none).core 0).otherMatrix = false)
    ∧ (let r : Rows := ⟨64, 8, 2, false⟩
       ((ramp 0 4 false (some r)).core 0).rows = some r ∧ r.next ≤ (ramp 0 4 false (some r)).tb ∧ ((ramp 0 4 false (some r)).core 0).ramp = 0)
    ∧ (let r : Rows := ⟨64, 9, 2, true⟩
       ((ramp 3 4 false (some r)).core 0).rows = some r ∧ r.left ≠ 0 ∧ (ramp 3 4 false (some r)).tb < r.next)
    ∧ (let r : Rows := ⟨64, 8, 2, true⟩
       ((ramp 3 6 false (some r)).core 0).rows = some r ∧ r.next ≤ (ramp 3 6 false (some r)).tb ∧ 0 < r.q
         ∧ 0 < ((ramp 3 6 false (some r)).core 0).cadence) := by decide +kernel

/-! ### Launching -/

/-- A job card: kind, version, scope; one member, two records, entry 0x1000, argument records at 0x2000, completion records at an
address. -/
def cardDesc (kind version scope : Nat) (done : Nat) : List Byte :=
  leBytes 8 (kind * 2 ^ 60 + version * 2 ^ 48) ++ leBytes 8 (2 ^ 48 + scope * 2 ^ 26 + 2 ^ 16) ++ leBytes 16 0x1000 ++ leBytes 16 0x2000
    ++ leBytes 8 2 ++ leBytes 8 16 ++ leBytes 16 done ++ List.replicate 48 0

/-- A package with a queue enabled, the card at its head at address 0 of address space 0, whose root is that of `pageTables`. -/
def queueing (bs : List Byte) (f : LQueue → LQueue) : State :=
  { State.reset with lqs := [(0, f { LQueue.reset with en := true, tail := 128 })], verified := true, roots := [(0, 1)], mem := writeBytes pageTables (homeKey 0x80000) bs }

/-- LaunchQueuesReadCards: a card that passes, a link, an empty word, a refused card, one whose completion record is not aligned, and
one whose record cannot be written; a head that is not mapped, and one whose table lies in another package; queues with and without EN and OWNER. -/
theorem witness_LaunchQueuesReadCards :
    let test (bs : List Byte) (f : List Byte → Bool) : Bool :=
      let s := queueing bs id
      let x := s.lq 0
      s.verified && !s.recordOut { q := 0, card := some x.head } && x.en && !x.stop && x.card.isNone && decide (x.head ≠ x.tail) && (s.dealt 0).isNone
        && match s.asRead x.asn x.head 128 with | .ok y => decide (y.length = 128) && f y | _ => false
    test (cardDesc 1 1 2 0x400) (fun y => decide (field y 0 8 / 2 ^ 60 = 1) && (cardReason y).isNone && decide (field y 0x40 9 % 32 = 0)) = true
    ∧ test (cardDesc 2 0 0 0) (fun y => decide (field y 0 8 / 2 ^ 60 = 2)) = true
    ∧ test (cardDesc 0 1 2 0) (fun y => decide (field y 0 8 / 2 ^ 60 = 0)) = true
    ∧ test (cardDesc 3 1 2 0x400) (fun y => decide (cardReason y = some 1) && decide (field y 0x40 9 % 32 = 0)) = true
    ∧ test (cardDesc 1 1 0 0x400) (fun y => decide (cardReason y = some 4) && decide (field y 0x40 9 % 32 = 0)) = true
    ∧ test (cardDesc 1 1 0 0x401) (fun y => decide (field y 0x40 9 % 32 ≠ 0)) = true
    ∧ (let bad := cardDesc 1 1 0 0x40000
       test bad (fun _ => true) = true ∧ (((queueing bad id).writeRecord { q := 0, card := some 0 } 0 0 0x40000 (recordBytes 5 0 0 0 0 0 4)).lq 0).stop = true)
    ∧ (((queueing (cardDesc 1 1 0 0x400) id).writeRecord { q := 0, card := some 0 } 0 0 0x400 (recordBytes 5 0 0 0 0 0 4)).lq 0).stop = false
    ∧ (queueing [] fun x => { x with head := 0x20000 }).asRead 0 0x20000 128 = .fail
    ∧ (let s : State := { queueing [] id with roots := [(0, 9 * 2 ^ 29 + 1)], routes := [(9, { via := 9, port := 0, hops := 1 })] }
       (match s.asRead 0 0 128 with | .wait _ => true | _ => false) = true)
    ∧ (base.lq 0).en = false ∧ ((queueing [] fun x => { x with owner := true }).lq 0).owner = true ∧ base.verified = false := by
  decide +kernel

/-- A card of a gang of one core of a quad. -/
def quadCard : Card :=
  { addr := 0, asn := 0, prio := 0, restart := false, part_ := 0x201, minchunk := 1, scope := 2, n := 1, entry := 0x1000, args := 0x2000,
    acnt := 2, rsize := 16, done := 0x400 }

/-- A job of that card on core 0. -/
def jobOf : Job :=
  { id := 0, q := 0, card := quadCard, next := 0, returned := [], again := [], cores := [0], members := [0], leaving := false }

/-- A verified package with that job placed, its queue enabled, the core changed. -/
def placed (j : Job) (f : Core → Core) : State :=
  { withCore (fun c => f { c with job := some 0 }) with
      jobs := [j], roots := [(0, 1)], mem := pageTables, verified := true, lqs := [(0, { LQueue.reset with en := true })] }

/-- RunsStartAndRetire: a gang that fits and is next to be served, one that another queue's stands before, one that fits nowhere and
cannot pre-empt; a core that asks, of a gang that leaves, with a returned record, with records left, and with none; a run that starts,
on a core that has run the job and on one that has not. -/
theorem witness_runs_are_dealt_and_start :
    let s := queueing [] fun x => { x with card := some quadCard }
    let two (p : Nat) : State :=
      { s with lqs := [(0, s.lq 0), (1, { s.lq 0 with priocap := 15, card := some { quadCard with prio := p } })] }
    let wide : Card := { quadCard with scope := 4, n := 512 }
    let full : State := { queueing [] (fun x => { x with card := some wide }) with cores := [(7, { Core.reset with dead := true })] }
    (s.verified = true ∧ s.pending = none ∧ s.candidate 0 = some (quadCard, none) ∧ s.placeable 0 2 1 = some [0] ∧ s.servedFirst 0 quadCard = true ∧ (s.lq 0).en = true)
    ∧ ((two 3).candidate 0 = some (quadCard, none) ∧ (two 3).servedFirst 0 quadCard = false)
    ∧ (full.candidate 0 = some (wide, none) ∧ full.placeable 0 4 512 = none ∧ full.chooseInstance 0 0 4 512 = none)
    ∧ (∀ j ∈ [jobOf, { jobOf with leaving := true }, { jobOf with returned := [1] }, { jobOf with next := 2 }],
        let t := placed j id
        (t.core 0).job.bind t.jobOf = some j ∧ (t.core 0).task = none ∧ t.pending = none ∧ (t.core 0).chunk = []
          ∧ t.verified = true ∧ (t.lq j.q).en = true ∧ (t.lq j.q).stop = false
          ∧ ({ t with lqs := [] } : State).verified = true ∧ (({ t with lqs := [] } : State).lq j.q).en = false
          ∧ (∀ i ∈ j.cores, i < 0 → t.asks i = false))
    ∧ (jobOf.dealing = true ∧ { jobOf with next := 2 }.dealing = false ∧ ((placed jobOf id).dealt 0).isSome = true)
    ∧ (∀ l ∈ [none, some 0], let t := placed jobOf fun c => { c with chunk := [0, 1], lastJob := l }
        (t.core 0).job.bind t.jobOf = some jobOf ∧ (t.core 0).chunk = 0 :: [1] ∧ (t.core 0).task = none ∧ (t.core 0).dead = false
          ∧ t.verified = true ∧ (t.core 0).asn = jobOf.card.asn
          ∧ (match t.recordHeader jobOf.card 0 with | .ok bs => decide (field bs 0 8 = 0) | _ => false) = true) := by
  decide +kernel

/-- RunsStartAndRetire: a run past its `exit` with nothing outstanding, and a completion record that can be written. -/
theorem witness_retirement :
    let r := { runOf with exited := true }
    let s := placed jobOf fun c => { c with run := false, task := some r }
    (s.core 0).task = some r ∧ (s.core 0).job.bind s.jobOf = some jobOf ∧ s.retirable 0 = true ∧ (s.core 0).sent = [] ∧ s.pending = none
    ∧ s.verified = true ∧ s.fenceSrc = []
    ∧ (match s.asWrite (some { q := 0, card := none }) 0 0 (0x400 + 16) (List.replicate 16 1) with
        | .ok t => decide ((t.asPlace 0 .store 0x400).2 = .ok (.home (homeKey 0x80400)) none)
        | _ => false) = true
    ∧ (s.asPlace 0 .store (0x400 + 16)).2 = .ok (.home (homeKey 0x80410)) none
    ∧ (homeKey 0x80410 + 16 ≤ homeKey 0x80400 ∨ homeKey 0x80400 + 16 ≤ homeKey 0x80410) := by decide +kernel

/-- RunsAreSavedAndResumed: a run to be saved; one whose work is over; a core to resume on; no save area. -/
theorem witness_runs_are_saved :
    let s := placed jobOf fun c => { c with task := some runOf }
    let t := placed jobOf fun c => { c with run := false, task := some { runOf with saving := true } }
    (s.pending = none ∧ (s.core 0).task = some runOf ∧ (s.core 0).user.sentCard = false)
    ∧ ((t.core 0).task = some { runOf with saving := true } ∧ t.quiet 0 = true ∧ t.pending = none)
    ∧ s.verified = true ∧ s.saveArea = none ∧ s.resumeCore jobOf = some 1 ∧ farOk (8 * 2 ^ 41) recordSize = true
    ∧ State.reset.restored = false ∧ State.reset.jobCtr = 0 := by decide +kernel
/-- Every byte of a piece of sparse storage lies below an offset. -/
def Below (n : Nat) (m : FMap Byte) : Prop := ∀ p ∈ m, p.1 < n

theorem below_writeBytes {n : Nat} (bs : List Byte) : ∀ (m : FMap Byte) (k : Nat), Below n m → k + bs.length ≤ n → Below n (writeBytes m k bs) := by
  have put (m : FMap Byte) (k : Nat) (b : Byte) (h : Below n m) (hk : k < n) : Below n (m.put 0 k b) := by
    unfold FMap.put
    split
    · induction m with
      | nil => nofun
      | cons a m ih =>
        obtain ⟨i, v⟩ := a
        simp only [FMap.erase]
        split
        · exact ih fun p hp => h p (.tail _ hp)
        · intro p hp
          rcases List.mem_cons.mp hp with rfl | hp
          · exact h _ (.head _)
          · exact ih (fun p hp => h p (.tail _ hp)) p hp
    · induction m with
      | nil => intro p hp; obtain rfl : p = (k, b) := by simpa [FMap.ins] using hp
               exact hk
      | cons a m ih =>
        obtain ⟨i, v⟩ := a
        simp only [FMap.ins]
        intro p hp
        split at hp
        · rcases List.mem_cons.mp hp with rfl | hp
          · exact h _ (.head _)
          · exact ih (fun p hp => h p (.tail _ hp)) p hp
        · split at hp
          · rcases List.mem_cons.mp hp with rfl | hp
            · exact hk
            · exact h _ (.tail _ hp)
          · rcases List.mem_cons.mp hp with rfl | hp
            · exact hk
            · exact h _ hp
  induction bs with
  | nil => intro m k h _; exact h
  | cons b bs ih =>
    intro m k h hk
    simp only [List.length_cons] at hk
    exact ih _ _ (put m k b h (by omega)) (by omega)

theorem below_imageOf {n : Nat} (segs : List (Nat × List Byte)) (h : ∀ p ∈ segs, p.1 + p.2.length ≤ n) : Below n (imageOf segs) := by
  intro q hq
  simp only [imageOf, List.mem_flatMap, List.mem_filter, List.mem_mapIdx] at hq
  obtain ⟨p, hp, ⟨i, hi, rfl⟩, _⟩ := hq
  have := h p hp
  show p.1 + i < n
  omega

theorem below_sealImage {n : Nat} (m : FMap Byte) (h : Below n m) (hn : 12 ≤ n) : Below n (sealImage n m) :=
  below_writeBytes _ _ _ h (by simp; omega)

theorem filter_ins_of_not {f : Nat × Byte → Bool} {k : Nat} (h : ∀ v, f (k, v) = false) (v : Byte) :
    ∀ m : FMap Byte, (m.ins k v).filter f = m.filter f
  | [] => by simp [FMap.ins, h]
  | (i, w) :: m => by
    simp only [FMap.ins]
    split
    · rw [List.filter_cons, List.filter_cons, filter_ins_of_not h v m]
    · split
      · subst i; simp [h]
      · rw [List.filter_cons, h]; rfl

theorem filter_erase_of_not {f : Nat × Byte → Bool} {k : Nat} (h : ∀ v, f (k, v) = false) :
    ∀ m : FMap Byte, (m.erase k).filter f = m.filter f
  | [] => rfl
  | (i, w) :: m => by
    simp only [FMap.erase]
    split
    · subst i; rw [filter_erase_of_not h m, List.filter_cons, h]; rfl
    · rw [List.filter_cons, List.filter_cons, filter_erase_of_not h m]

theorem filter_writeBytes_of_not {f : Nat × Byte → Bool} : ∀ (bs : List Byte) (m : FMap Byte) (k : Nat),
    (∀ i v, k ≤ i → i < k + bs.length → f (i, v) = false) → (writeBytes m k bs).filter f = m.filter f
  | [], _, _, _ => rfl
  | b :: bs, m, k, h => by
    have hk (v : Byte) : f (k, v) = false := h k v (by simp) (by simp)
    rw [writeBytes, filter_writeBytes_of_not bs _ _ fun i v h1 h2 => h i v (by omega) (by simp only [List.length_cons]; omega)]
    unfold FMap.put
    split
    · exact filter_erase_of_not hk m
    · exact filter_ins_of_not hk b m

theorem crcByte_lt {c : Nat} (b : Byte) (h : c < 2 ^ 32) : crcByte c b < 2 ^ 32 := by
  have bit (c : Nat) (h : c < 2 ^ 32) : crcBit c < 2 ^ 32 := by
    unfold crcBit
    split
    · exact Nat.xor_lt_two_pow (by omega) (by decide)
    · omega
  have hb : b.toNat < 2 ^ 32 := Nat.lt_trans b.isLt (by decide)
  exact bit _ <| bit _ <| bit _ <| bit _ <| bit _ <| bit _ <| bit _ <| bit _ (Nat.xor_lt_two_pow h hb)

theorem crcSparse_lt : ∀ (n o : Nat) (m : FMap Byte) (c : Nat), c < 2 ^ 32 → crcSparse n o m c < 2 ^ 32
  | 0, _, _, _, h => h
  | n + 1, o, [], _, h => crcSparse_lt n (o + 1) [] _ (crcByte_lt _ h)
  | n + 1, o, (i, b) :: m, _, h => by
    simp only [crcSparse]
    split
    · exact crcSparse_lt n (o + 1) m _ (crcByte_lt _ h)
    · exact crcSparse_lt n (o + 1) _ _ (crcByte_lt _ h)

/-- A sealed image whose layout is 1 passes its check. -/
theorem areaOk_sealImage {n : Nat} {m : FMap Byte} (h : ∀ p ∈ m, p.1 < 8 ∨ 12 ≤ p.1) (hl : leNat (readBytes m 0 2) = 1) :
    areaOk n (sealImage n m) = true := by
  have hc : clearRange (sealImage n m) 8 12 = m := by
    unfold clearRange sealImage
    rw [filter_writeBytes_of_not _ _ _ fun i v h1 h2 => by simp only [length_leBytes] at h2; simp; omega]
    exact List.filter_eq_self.mpr fun p hp => by simpa using h p hp
  have hr : readBytes (sealImage n m) 8 4 = leBytes 4 (imageCrc n m) := by
    simpa [sealImage] using readBytes_writeBytes_self m 8 (leBytes 4 (imageCrc n m))
  have h0 : readBytes (sealImage n m) 0 2 = readBytes m 0 2 := readBytes_writeBytes_apart _ _ _ _ _ (.inl (by decide))
  have lt : imageCrc n m < 2 ^ 32 := Nat.xor_lt_two_pow (crcSparse_lt _ _ _ _ (by decide)) (by decide)
  rw [areaOk, hc, hr, h0, hl, leNat_leBytes, Nat.mod_eq_of_lt (Nat.lt_of_lt_of_eq lt (by decide))]
  simp

theorem get_append_left (a b : FMap Byte) (k : Nat) (h : ∀ p ∈ b, p.1 ≠ k) : FMap.get 0 (a ++ b) k = FMap.get 0 a k := by
  induction a with
  | nil =>
    show FMap.get 0 b k = 0
    induction b with
    | nil => rfl
    | cons p b ih => rw [FMap.get, if_neg (h p (.head _)), ih fun q hq => h q (.tail _ hq)]
  | cons p a ih =>
    rw [List.cons_append, FMap.get, FMap.get]
    split
    · rfl
    · exact ih

theorem above_imageOf {o : Nat} (segs : List (Nat × List Byte)) (h : ∀ p ∈ segs, o ≤ p.1) : ∀ q ∈ imageOf segs, o ≤ q.1 := by
  intro q hq
  simp only [imageOf, List.mem_flatMap, List.mem_filter, List.mem_mapIdx] at hq
  obtain ⟨p, hp, ⟨i, hi, rfl⟩, _⟩ := hq
  exact Nat.le_trans (h p hp) (Nat.le_add_right _ _)

theorem readImage_of_below (s : State) (key n : Nat) (m : FMap Byte) (h : Below n m) (hs : s.mem = imageAt key m) : s.readImage key n = m := by
  simp only [State.readImage, hs, imageAt]
  clear hs
  induction m with
  | nil => rfl
  | cons a m ih =>
    have ha : a.1 < n := h _ (.head _)
    have : (decide (key ≤ key + a.1) && decide (key + a.1 < key + n)) = true := by simp; omega
    simp only [List.map_cons, List.filter_cons, this, if_true]
    rw [ih fun p hp => h p (.tail _ hp)]
    simp

/-- A run of core 0 that has been saved. -/
def savedRun : Saved := { job := 0, run := { runOf with ckpted := true }, addr := 8 * 2 ^ 41, core := { Core.reset with user := user0 }, freed := [] }

/-- A package that holds it, and an image in its place. -/
def resumable (m : FMap Byte) : State := { placed jobOf id with saved := [savedRun], mem := imageAt (8 * 2 ^ 41) m }

theorem length_flatMap_const {α β : Type} (l : List α) (f : α → List β) (n : Nat) (h : ∀ a, (f a).length = n) : (l.flatMap f).length = l.length * n := by
  induction l with
  | nil => simp
  | cons a l ih => simp [ih, h, Nat.succ_mul]; omega

theorem length_flatMap_range (n : Nat) (f : Nat → List Byte) (k : Nat) (h : ∀ a, (f a).length = k) : ((List.range n).flatMap f).length = n * k := by
  rw [length_flatMap_const _ _ k h, List.length_range]

theorem length_engineBytes (x : Engine) : (engineBytes x).length = 128 := by
  simp only [engineBytes, List.length_append, length_leBytes, List.length_replicate]

theorem length_templateBytes (x : Engine) : (templateBytes x).length = 4032 :=
  length_flatMap_range _ _ 64 fun _ => length_flatMap_range _ _ 2 fun _ => length_leBytes _ _

theorem length_caskBytes_none (c : Core) (e : Nat) (h : c.cask e = none) : (caskBytes c e).length = 384 := by
  simp only [caskBytes, h, List.length_replicate]

theorem length_flatten_replicate (n : Nat) (x : List Byte) : (List.replicate n x).flatten.length = n * x.length := by
  induction n with
  | zero => rw [List.replicate_zero, Nat.zero_mul]; rfl
  | succ n ih => rw [List.replicate_succ, List.flatten_cons, List.length_append, ih, Nat.succ_mul, Nat.add_comm]

theorem length_padded (rows : List (List Byte)) (n k : Nat) (x : List Byte) (h : rows = []) (hx : x.length = k) :
    (rows.flatten ++ (List.replicate (n - rows.length) x).flatten).length = n * k := by
  subst h
  rw [List.length_append, length_flatten_replicate, hx, List.length_nil, Nat.sub_zero, List.flatten_nil, List.length_nil, Nat.zero_add]

theorem length_memoBytes_nil (c : Core) (h : c.live = []) : (memoBytes c).length = 1024 * 16 :=
  length_padded _ 1024 16 _ (by rw [h, List.flatMap_nil]) (by rw [List.length_cons, List.length_replicate])

theorem length_permBytes_nil : (permBytes []).length = 8192 := by
  simp only [permBytes, List.flatMap_nil, List.nil_append, List.length_nil, List.length_replicate]

theorem length_bmapBytes (b : BmapSlot) : (bmapBytes b).length = 32 := by
  simp only [bmapBytes, List.length_append, length_leBytes, List.length_replicate]

theorem length_readBytes (m : FMap Byte) (n : Nat) : ∀ k, (readBytes m k n).length = n := by
  induction n with
  | zero => exact fun _ => rfl
  | succ n ih => exact fun k => congrArg (· + 1) (ih (k + 1))

theorem length_barrierBytes (c : Core) : (barrierBytes c).length = 384 := length_flatMap_range _ _ 4 fun _ => length_leBytes _ _

/-- Segments lie below an offset. -/
def Fits (n : Nat) (segs : List (Nat × List Byte)) : Prop := ∀ p ∈ segs, p.1 + p.2.length ≤ n

theorem fits_nil (n : Nat) : Fits n [] := nofun

theorem fits_cons {n o : Nat} {bs : List Byte} {segs : List (Nat × List Byte)} (h : o + bs.length ≤ n) (hs : Fits n segs) :
    Fits n ((o, bs) :: segs) := by
  intro p hp
  rcases List.mem_cons.mp hp with rfl | hp
  · exact h
  · exact hs p hp

theorem fits_recordSegs : Fits recordSize (recordSegs savedRun.run 0 savedRun.core) := by
  unfold recordSegs
  refine fits_cons ?_ <| fits_cons ?_ <| fits_cons ?_ <| fits_cons ?_ <| fits_cons ?_ <| fits_cons ?_ <| fits_cons ?_ <| fits_cons ?_ <| fits_cons ?_ <| fits_cons ?_ <| fits_cons ?_ <| fits_cons ?_ <| fits_cons ?_ <| fits_cons ?_ <| fits_cons ?_ <| fits_cons ?_ <| fits_cons ?_ <| fits_cons ?_ <| fits_cons ?_ <| fits_nil _
  · simp only [List.length_append, length_leBytes]; decide
  · rw [length_flatMap_range _ _ 8 fun _ => length_leBytes _ _]; decide
  · rw [List.length_map, List.length_range]; decide
  · rw [length_flatMap_range _ _ 16 fun _ => length_leBytes _ _]; decide
  · simp only [List.length_append, List.length_flatMap, length_leBytes, List.map_cons, List.map_nil, List.sum_cons, List.sum_nil]; decide
  · rw [length_flatMap_range _ _ 2 fun _ => length_leBytes _ _]; decide
  · simp only [List.length_append, length_engineBytes]; decide
  · decide
  · rw [length_flatMap_range _ _ 1 fun _ => length_leBytes _ _]; decide
  · rw [length_flatMap_range _ _ 384 fun _ => length_caskBytes_none _ _ rfl]; decide
  · rw [length_memoBytes_nil _ rfl]; decide
  · simp only [List.length_append, length_templateBytes]; decide
  · rw [length_flatMap_range _ _ 32 fun _ => length_bmapBytes _]; decide
  · rw [length_flatMap_range _ _ 4 fun _ => length_leBytes _ _]; decide
  · rw [length_flatMap_range _ (fun i => permBytes (FMap.get [] savedRun.core.perm i)) 8192 fun _ => length_permBytes_nil]; decide
  · simp only [List.length_append, length_leBytes]; decide
  · rw [length_barrierBytes]; decide
  · rw [length_flatMap_range _ _ 64 fun _ => length_leBytes _ _]; decide
  · rw [length_readBytes]; decide

theorem below_record : Below recordSize (recordImage savedRun.run 0 savedRun.core) := by
  refine below_sealImage _ ?_ (by decide)
  intro p hp
  rcases List.mem_append.mp hp with hp | hp
  · rcases List.mem_append.mp hp with hp | hp
    · exact below_imageOf _ fits_recordSegs p hp
    · obtain ⟨n, _, hn⟩ := List.mem_flatMap.mp hp
      cases hn
  · cases hp

/-- The head of the record, and the rest of it. -/
theorem record_split : ∃ b : FMap Byte, (∀ p ∈ b, 12 ≤ p.1)
    ∧ imageOf (recordSegs savedRun.run 0 savedRun.core) ++ slotImage savedRun.core
        ++ imageAt 0x100000 (savedRun.core.sram.filter fun p => p.1 < 0x400000)
      = imageOf ((recordSegs savedRun.run 0 savedRun.core).take 1) ++ b := by
  refine ⟨imageOf ((recordSegs savedRun.run 0 savedRun.core).drop 1) ++ slotImage savedRun.core
    ++ imageAt 0x100000 (savedRun.core.sram.filter fun p => p.1 < 0x400000), ?_, ?_⟩
  · intro p hp
    rcases List.mem_append.mp hp with hp | hp
    · rcases List.mem_append.mp hp with hp | hp
      · refine above_imageOf _ (fun q hq => ?_) p hp
        simp only [recordSegs, List.drop_succ_cons, List.drop_zero, List.mem_cons, List.not_mem_nil, or_false] at hq
        rcases hq with rfl | rfl | rfl | rfl | rfl | rfl | rfl | rfl | rfl | rfl | rfl | rfl | rfl | rfl | rfl | rfl | rfl | rfl <;>
          show 12 ≤ _ <;> decide
      · obtain ⟨n, _, hn⟩ := List.mem_flatMap.mp hp
        cases hn
    · cases hp
  · rw [← List.append_assoc, ← List.append_assoc]
    congr 2

theorem record_ok : areaOk recordSize (recordImage savedRun.run 0 savedRun.core) = true := by
  obtain ⟨b, hb, e⟩ := record_split
  have head (p) (hp : p ∈ imageOf ((recordSegs savedRun.run 0 savedRun.core).take 1)) : p.1 < 8 ∨ 12 ≤ p.1 := by
    revert p; decide +kernel
  have low (k : Nat) (hk : k < 12) : FMap.get 0 (imageOf ((recordSegs savedRun.run 0 savedRun.core).take 1) ++ b) k
      = FMap.get 0 (imageOf ((recordSegs savedRun.run 0 savedRun.core).take 1)) k :=
    get_append_left _ _ _ fun p hp => by have := hb p hp; omega
  refine areaOk_sealImage (fun p hp => ?_) ?_
  · rw [e] at hp
    rcases List.mem_append.mp hp with hp | hp
    · exact head p hp
    · exact .inr (hb p hp)
  · rw [e, readBytes_congr _ (imageOf ((recordSegs savedRun.run 0 savedRun.core).take 1)) 0 2 fun j _ hj => low j (by omega)]
    decide +kernel

theorem image_of_resumable (m : FMap Byte) : (resumable m).savedImage savedRun = recordImage savedRun.run 0 savedRun.core := by
  unfold State.savedImage
  rw [show (resumable m).jobOf savedRun.job = some jobOf from rfl]
  exact congrArg (recordImage savedRun.run · savedRun.core) rfl

theorem resumable_reads (m : FMap Byte) (h : Below recordSize m) : (resumable m).readImage savedRun.addr recordSize = m :=
  readImage_of_below _ _ _ _ h rfl

/-- RunsAreSavedAndResumed: a saved run whose record is whole resumes on a free core of its quad; one whose record's layout is not
right is killed. -/
theorem witness_resume :
    (let s := resumable (recordImage savedRun.run 0 savedRun.core)
     s.saved[0]? = some savedRun ∧ s.jobOf 0 = some jobOf ∧ s.pending = none ∧ s.verified = true ∧ jobOf.leaving = false ∧ s.resumeCore jobOf = some 1
      ∧ farOk savedRun.addr recordSize = true ∧ s.readImage savedRun.addr recordSize = s.savedImage savedRun
      ∧ areaOk recordSize (s.readImage savedRun.addr recordSize) = true)
    ∧ areaOk recordSize ((resumable []).readImage savedRun.addr recordSize) = false := by
  have h (m : FMap Byte) : (resumable m).saved[0]? = some savedRun ∧ (resumable m).jobOf 0 = some jobOf ∧ (resumable m).pending = none
      ∧ (resumable m).verified = true ∧ jobOf.leaving = false ∧ (resumable m).resumeCore jobOf = some 1 ∧ farOk savedRun.addr recordSize = true :=
    ⟨rfl, rfl, rfl, rfl, rfl, rfl, by decide⟩
  obtain ⟨h1, h2, h3, h4, h5, h6, h7⟩ := h (recordImage savedRun.run 0 savedRun.core)
  refine ⟨⟨h1, h2, h3, h4, h5, h6, h7, (resumable_reads _ below_record).trans (image_of_resumable _).symm, ?_⟩, by decide +kernel⟩
  rw [resumable_reads _ below_record]
  exact record_ok

/-- A save area of no runs: its layout and its CRC. -/
def emptyArea : FMap Byte := sealImage (areaSize 0) [(0, 1)]

/-- A verified package after a device reset whose save area, at the start of far memory, holds an image. -/
def restorable (m : FMap Byte) : State := { State.reset with verified := true, saveAddr := some (8 * 2 ^ 41), mem := imageAt (8 * 2 ^ 41) m }

theorem restorable_reads (m : FMap Byte) (h : Below (areaSize 0) m) : (restorable m).readImage (8 * 2 ^ 41) (areaSize 0) = m :=
  readImage_of_below _ _ _ _ h rfl

theorem below_area : Below (areaSize 0) emptyArea :=
  below_sealImage _ (by intro p hp; obtain rfl : p = (0, 1) := by simpa using hp
                        decide) (by decide)

theorem emptyArea_ok : areaOk (areaSize 0) emptyArea = true := by decide +kernel

/-- RunsAreSavedAndResumed: an area that is right, and one whose layout is not. -/
theorem witness_restore :
    ((restorable emptyArea).restored = false ∧ (restorable emptyArea).jobCtr = 0 ∧ (restorable emptyArea).saveArea = none)
    ∧ leNat (readBytes (restorable emptyArea).mem (8 * 2 ^ 41 + 4) 4) = 0 ∧ farOk (8 * 2 ^ 41) (areaSize 0) = true
    ∧ areaOk (areaSize 0) ((restorable emptyArea).readImage (8 * 2 ^ 41) (areaSize 0)) = true
    ∧ (∀ q, q < 64 → ((restorable emptyArea).restoreCard [] q
        (readBytes ((restorable emptyArea).readImage (8 * 2 ^ 41) (areaSize 0)) (64 + 128 * q) 128)).isNone = true)
    ∧ leNat (readBytes (restorable []).mem (8 * 2 ^ 41 + 4) 4) = 0
    ∧ areaOk (areaSize 0) ((restorable []).readImage (8 * 2 ^ 41) (areaSize 0)) = false := by
  have h (m : FMap Byte) : (restorable m).restored = false ∧ (restorable m).jobCtr = 0 ∧ (restorable m).saveArea = none := ⟨rfl, rfl, rfl⟩
  refine ⟨h _, by decide +kernel, by decide, ?_, ?_, by decide +kernel, by decide +kernel⟩
  · rw [restorable_reads _ below_area]
    exact emptyArea_ok
  · rw [restorable_reads _ below_area]
    decide +kernel
/-! ### The fabric -/

/-- A packet of `packet` reaches package 0 from another. -/
theorem got_packet (s : State) (opc : Nat) (p : Packet) (h : p.opc = opc) (hd : p.dpkg = 0) (hs : p.spkg = 9) (hp : s.pkg = 0)
    (ho : s.out = []) : s.Got opc p s := by
  have hn : s.ownPkg p.spkg = false := by simp [State.ownPkg, hs, hp]
  refine ⟨h, by simp [State.ownPkg, hd, hp], fun h => by simp [hn] at h, ?_⟩
  rw [if_neg (by simp [hn])]
  cases s
  obtain rfl : _ = [] := ho
  rfl

/-- A packet with an argument and data. -/
def packetOfArg (opc : Nat) (arg : W64) (data : List Byte) : Packet := { packet opc with arg := arg, data := data }

/-- A packet of package 0 to itself is one that it has sent, and that has come. -/
theorem witness_got_own :
    let p : Packet := { packet 1 with spkg := 0 }
    let q : Packet := { packet 8 with spkg := 0 }
    ({ base with out := [p] } : State).Got 1 p base ∧ ({ base with out := [q], selfDue := [(q, base.tb)] } : State).Got 8 q base
      ∧ ({ base with out := [q], selfDue := [(q, base.tb + 1)] } : State).selfArrived q = false := by
  refine ⟨⟨rfl, rfl, fun _ => ?_, ?_⟩, ⟨rfl, rfl, fun _ => ?_, ?_⟩, ?_⟩ <;> decide

/-- RemoteRequestsAct: writes, reads and atomics of memory and of a window, allowed and refused, with an answer asked for and without;
a fence that a write completes and one that it does not; a write with a mask; the write of an exchange copy, one without a
round, and one whose page table lies in another package. -/
theorem witness_RemoteRequestsAct :
    let win : W64 := BitVec.ofNat 64 (2 ^ 63 + 0 * 2 ^ 47 + 0 * 2 ^ 22 + 16 + 4 * 2 ^ 34)
    let f : FenceDst := { tag := 5, ptag := 6, spkg := 9, score := 3, n := 2, deadline := 100 }
    let man : Manifest := { pkg := 0, core := 0, grp := 0, round := 7, npart := 2, pscope := 4, rbase := 0, rcap := 4096, recs := [] }
    let r : MyRound := { grp := 0, round := 7, core := 0, asn := 0, addr := 0, man := man, tag := 4, sent_ := [] }
    let copy : Packet := { packetOfArg 1 (BitVec.ofNat 64 (2 ^ 62 + 7 * 2 ^ 46)) [1, 2] with pa := 0x1000 }
    let wwin : W64 := BitVec.ofNat 64 (2 ^ 63 + 16)
    let masked : W64 := BitVec.ofNat 64 (5 * 2 ^ 31)
    (base.packetRefused (packetOfArg 1 0 [1, 2]) 2 = false ∧ base.packetRefused { packet 1 with pa := 10 * 2 ^ 41 } 2 = true
      ∧ base.packetRefused (packetOfArg 1 wwin [1]) 1 = true ∧ (running id).packetRefused (packetOfArg 1 wwin [1]) 1 = false
      ∧ nbit wwin.toNat 63 = true ∧ nbits wwin.toNat 46 31 = 0 ∧ nbit masked.toNat 63 = false ∧ nbit masked.toNat 62 = false
      ∧ nbit (nbits masked.toNat 46 31) 0 = true ∧ nbit (nbits masked.toNat 46 31) 1 = false
      ∧ base.packetRefused { packetOfArg 1 masked (List.replicate 16 7) with pa := 0x100 } 16 = false)
    ∧ (base.fenceDst = [] ∧ ({ base with fenceDst := [f] } : State).fenceDst = [f] ∧ f.n ≤ (base.rcvd.get 0 (9 * 512 + 3) + 2) % 2 ^ 40)
    ∧ ((match base.copyWrite 0 copy with | .fault .. => true | _ => false) = true ∧ nbit copy.arg.toNat 63 = false ∧ nbit copy.arg.toNat 62 = true)
    ∧ (match ({ paged with myRounds := [r] } : State).copyWrite 0 copy with
        | .ok t () => decide (t.byteAt (homeKey 0x91000) = 1) | _ => false) = true
    ∧ (match ({ withCore (fun c => { c with root := 9 * 2 ^ 29 + 1 }) with
          myRounds := [r], routes := [(9, { via := 9, port := 0, hops := 1 })] } : State).copyWrite 0 copy with
        | .wait _ => true | _ => false) = true
    ∧ ({ base with dies := [(3, { Die.reset with copies := [(lineOf (homeKey 0x100), List.replicate 64 0)] })] } : State).hasCopy 3
        (lineOf (homeKey 0x100)) = true
    ∧ (nbits win.toNat 46 34 = 4 ∧ ((running id).core 0).spadBad 16 4 = false
      ∧ ((running fun c => { c with bad := [(c.spadBase + 16) / 16] }).core 0).spadBad 16 4 = true)
    ∧ (amoPacketNew (packetOfArg 4 0 [0, 1, 0, 0, 0]) 5 = some 6
      ∧ amoPacketNew (packetOfArg 4 0 [7, 1, 0, 0, 0, 2, 0, 0, 0]) 5 = none) := by decide +kernel

/-- RequestsOfOthersComplete: a HOLD of another package whose rows are FREE; its use held in time, and booked but not started; a TYPE
that is not known; a write, a read and an atomic operation of a window and of memory, of which one writes nothing. -/
theorem witness_RequestsOfOthersComplete :
    let m : BookMsg := { message with pkg := 9, res := useWord 0x7FF me0 false 2 }
    let u (st : RowState) : OwnUse := { ownUse st none with id := msgUse m }
    let held := dieWith me0 (calWith (u .held)) id
    let bookd := dieWith me0 (calWith (u .booked)) id
    let win : W64 := BitVec.ofNat 64 (2 ^ 63 + 16 + 4 * 2 ^ 34)
    let s := running id
    calOfWord m.res.toNat = me0
    ∧ (m.pkg ≠ base.pkg ∧ base.ownPkg (nbits m.res.toNat 61 51) = true ∧ base.msgs = [] ∧ base.localFirst (ownerDie me0) base.tb = false
      ∧ (base.die (ownerDie me0)).failstop = false ∧ (base.cal me0).freeRun m.berth 2 = true ∧ base.berth ≤ m.berth
      ∧ m.berth + 2 ≤ base.horizon + 1)
    ∧ (held.localFirst (ownerDie me0) held.tb = false ∧ (held.cal me0).use (msgUse m) = some (u .held) ∧ held.tb ≤ (u .held).exp)
    ∧ (bookd.localFirst (ownerDie me0) bookd.tb = false ∧ (bookd.cal me0).use (msgUse m) = some (u .booked)
      ∧ max m.berth bookd.berth + 2 ≤ bookd.horizon + 1 ∧ (bookd.cal me0).freeOrOwn (msgUse m) (max m.berth bookd.berth) 2 = true)
    ∧ ((0 : Byte) = 0 ∧ 10 < (11 : Byte).toNat)
    ∧ (∀ p ∈ [packetOfArg 1 win [1, 2], packetOfArg 2 win [], packetOfArg 4 win [0, 1, 0, 0, 0], packetOfArg 1 0 [1, 2], packetOfArg 2 4 [],
          packetOfArg 4 0 [7, 1, 0, 0, 0, 2, 0, 0, 0]], s.ownPkg p.dpkg = true ∧ s.ownPkg p.spkg = false ∧ paOk p.pa 4 = true)
    ∧ nbit (BitVec.ofNat 64 (2 ^ 63 + 16)).toNat 63 = true ∧ nbits (BitVec.ofNat 64 (2 ^ 63 + 16)).toNat 46 31 = 0
    ∧ (nbit win.toNat 63 = true ∧ s.windowRefused (nbits win.toNat 62 47) (nbits win.toNat 30 22) (nbits win.toNat 21 0) 4 = false
      ∧ nbits win.toNat 46 34 = 4 ∧ (s.core 0).spadBad 16 4 = false ∧ s.homeBad 0 4 = false)
    ∧ (amoPacketNew (packetOfArg 4 win [0, 1, 0, 0, 0]) 0 = some 1 ∧ amoPacketNew (packetOfArg 4 0 [7, 1, 0, 0, 0, 2, 0, 0, 0]) 0 = none) := by
  decide +kernel

/-- RemoteAnswersArrive and NaksActByTheirRequest: the thing in flight that an answer names. -/
theorem witness_answers :
    let l := { loadF (.remote 9 0x100) 8 with core := 3 }
    let r : RemRead := { core := 3, fw := false, eng := none, place := .remote 9 0x100, n := 16, nak := 0, data := none }
    let a : AmoF :=
      { core := 3, seq := 1, idx := 0, op := 7, ty := 2, place := .remote 9 0x100, va := 0, operand := 3, compare := 0, asn := 0, asked := true,
        origin := ⟨0, none, 0, []⟩ }
    let e : SaeF :=
      { core := 3, seq := 1, op := 0, et := 1, place := .remote 9 0x100, va := 0, vals := [1, 2], lane := none, asn := 0, asked := true,
        origin := ⟨0, none, 0, []⟩ }
    let own (f : Flight) (t : Entry) : State :=
      { base with
        flights := [(77, some f)]
        cores := [(0, core0), (3, { Core.reset with ce := engineOf t, sae := engineOf t })] }
    let w : RemWrite := { core := 3, agent := .scalar false, win := some 2, eng := none, place := .remote 9 0x100, va := 64, asn := 0 }
    (∀ f ∈ [Flight.load l, .remoteRead r, .amo a, .sae e, .remoteWrite w,
        .remoteWrite { w with agent := .scalar true, win := none, record := some { q := 0, card := none } },
        .remoteWrite { w with agent := .lane .ce, win := none, eng := some (.ce, 1) }],
      let s := own f (entryOf [])
      s.flight 77 = some f ∧ 77 % 65536 = (packet 3).tag ∧ (packet 3).score = 3
        ∧ (∀ q ∈ s.flights, q.1 % 65536 = (packet 3).tag → q = (77, some f))
        ∧ s.command 3 .ce 1 = some (entryOf []) ∧ s.command 3 .sae 1 = some (entryOf [])
        ∧ s.renqOf 3 77 = none ∧ s.fenceSrc = [] ∧ s.posts = [] ∧ s.copies = [] ∧ s.swaps = [])
    ∧ l.data = none ∧ r.data = none ∧ l.size ≠ 16 ∧ l.d ≠ 0 := by decide +kernel

/-- RemoteAnswersArrive: a packet of an exchange copy. -/
theorem witness_copy_answer :
    let c : ExCopy := { tag := 1, grp := 0, round := 7, core := 3, dst := 9, berth := 0, to_ := 1, lo := 0, hi := 64, pos := 64, addr := 0, fin := false,
                        writes := [(77, 0)] }
    (∀ q ∈ base.flights, q.1 % 65536 ≠ (packet 6).tag) ∧ ({ base with copies := [c] } : State).copies = [c]
      ∧ c.writes.find? (fun w => w.1 % 65536 = (packet 6).tag) = some (77, 0) := by decide

/-- NaksActByTheirRequest: a word that waits for its enqueue, a fence, a post, and a booking whose message was answered; an operation
that is not known. -/
theorem witness_naks :
    let f : FenceSrc := { tag := 77, core := 3, fw := false, d := 4, pkg := 9, n := 2, deadline := 9, pc := 0x1000, retire := false }
    let y : PostF := { tag := 77, core := 3, fw := false, d := 4, round := 7, deadline := 9 }
    let u : BUse := { bUse 0 .own with pkg := 9 }
    let b : Booking := { bookingOf .committed none with id := 4, uses := [u] }
    let id : UseId := { pkg := 0, core := 3, hm := false, xid := 4, use := 0 }
    let renq : State := { base with cores := [(3, { core0 with user := { user0 with op := some (.renq 4 77 9 5 0x100) } })] }
    (renq.renqOf 3 77 = some (false, 4, 5, 0x100) ∧ (renq.ctx 3 false).CanTrap false)
    ∧ (base.renqOf 3 77 = none ∧ ({ base with fenceSrc := [f] } : State).fenceSrc.find? (fun f => f.tag % 65536 = 77 && f.core = 3) = some f)
    ∧ ({ base with posts := [y] } : State).posts.find? (fun y => y.tag % 65536 = 77 && y.core = 3) = some y
    ∧ (let s : State := { base with cores := [(3, { Core.reset with books := [b] })], bookTags := [(77, id)] }
       s.bookTags.find? (fun y => y.1 = (packet 7).tag && y.2.core = 3) = some ((packet 7).tag, id) ∧ (s.core 3).booking 4 = some b
         ∧ s.flights = [] ∧ s.copies = [] ∧ b.status = .committed)
    ∧ knownOpc (packet 0x40).opc = false ∧ nbits (packetOfArg 7 0x0303 []).arg.toNat 15 8 = 3 ∧ nbits (packetOfArg 7 0x0103 []).arg.toNat 15 8 = 1 := by
  refine ⟨⟨by decide, ⟨by decide, .inr (by decide)⟩⟩, by decide, by decide, by decide, by decide +kernel, by decide +kernel, by decide +kernel⟩

/-- A queue of remote cards at address 0x1000 of address space 0, its tail some cards on, its head elsewhere. -/
def remoteQueue (head : VAddr) : State :=
  { queueing [] fun x => { x with owner := true, head := head, tail := 0x1000 } with routes := [(9, { via := 9, port := 0, hops := 1 })] }

/-- The queue takes remote cards, and none of its cards is a link. -/
def remoteOk (h : VAddr) : Bool :=
  let s := remoteQueue h
  (s.lq 0).owner && (s.lq 0).en && [0x1000, (s.lq 0).head, 0x1000 + 128].all fun va =>
    match s.asRead 0 va 128 with | .ok bs => decide (field bs 0 8 / 2 ^ 60 ≠ 2) | _ => false

/-- A queue whose tail stands at a link card, to a slot whose page table lies in another package. -/
def linkedQueue : State :=
  { remoteQueue 0x2000 with
    mem := writeBytes (writeBytes (writeBytes pageTables (homeKey 0x60108) (leBytes 8 (0x8000000000000000 + 9 * 2 ^ 45 + 0x70000)))
      (homeKey 0x60110) (leBytes 8 0x8000000000060200)) (homeKey 0x81000) ((((cardDesc 2 0 0 0).set 0x12 0x3F).set 0x11 0xFF).set 0x10 0x80) }

/-- EnqueueFenceAndTimePackets: a slot that waits for a page table in another package. -/
theorem witness_enqueue_waits :
    let s := linkedQueue
    (s.lq 0).owner = true ∧ (s.lq 0).en = true
    ∧ (match s.asRead 0 0x1000 128 with | .ok bs => decide (field bs 0 8 / 2 ^ 60 = 2) && decide (field bs 0x10 9 = 0x3FFF80) | _ => false) = true
    ∧ ([0x400000, 0x2000].all fun va => match s.asRead 0 va 128 with | .ok bs => decide (field bs 0 8 / 2 ^ 60 ≠ 2) | _ => false) = true
    ∧ (match s.asWrite none 0 0 0x3FFF80 [1] with | .wait _ => true | _ => false) = true := by decide +kernel

/-- EnqueueFenceAndTimePackets: a queue that is not remote; one with room, one that is full, and one whose slot cannot be written; a word
that waits, in time and too late; an answer that no word waits for. -/
theorem witness_enqueue :
    (base.lq 0).owner = false
    ∧ (remoteOk 0x2000 = true ∧ remoteOk 0x1080 = true)
    ∧ (match (remoteQueue 0x2000).asWrite none 0 0 0x1000 [1] with | .ok _ => true | _ => false) = true
    ∧ (let s := { remoteQueue 0x2000 with mem := writeBytes pageTables (homeKey 0x60207) [0xED] }
       ([0x1000, 0x2000, 0x1000 + 128].all fun va => match s.asRead 0 va 128 with | .ok bs => decide (field bs 0 8 / 2 ^ 60 ≠ 2) | _ => false)
         = true ∧ (match s.asWrite none 0 0 0x1000 [1] with | .fail => true | _ => false) = true)
    ∧ (let s : State := { base with cores := [(3, { core0 with user := { user0 with op := some (.renq 4 77 9 5 0x100) } })], tb := 9 }
       (s.ctx 3 false).op = some (.renq 4 77 9 5 0x100) ∧ (s.ctx 3 true).op = none ∧ 9 ≤ s.tb ∧ base.tb < 9)
    ∧ base.renqOf 3 77 = none := by decide +kernel

/-- EnqueueFenceAndTimePackets: a fence whose bytes have come, one that waits, one that waited too long; answers that agree and that do
not, and one that has not come. -/
theorem witness_fences :
    let d : FenceDst := { tag := 5, ptag := 6, spkg := 9, score := 3, n := 2, deadline := 0 }
    let f : FenceSrc := { tag := 77, core := 3, fw := false, d := 4, pkg := 9, n := 2, deadline := 0, pc := 0x1000, retire := false }
    (0 ≤ base.rcvd.get 0 (9 * 512 + 3) ∧ base.rcvd.get 0 (9 * 512 + 3) < (packetOfArg 0xA 2 []).arg.toNat % 2 ^ 40 ∧ base.fenceDst = [])
    ∧ ({ base with fenceDst := [d] } : State).fenceDst.find? (fun f => f.tag = 5 && decide (f.deadline ≤ base.tb)) = some d
    ∧ ({ base with fenceSrc := [f] } : State).fenceSrc.find? (fun f => f.tag % 65536 = (packet 0xB).tag && f.core = (packet 0xB).score) = some f
    ∧ base.fenceSrc.find? (fun f => f.tag % 65536 = (packet 0xB).tag && f.core = (packet 0xB).score) = none
    ∧ (packetOfArg 0xB 2 []).arg.toNat % 2 ^ 40 = f.n ∧ (packetOfArg 0xB 1 []).arg.toNat % 2 ^ 40 ≠ f.n
    ∧ ({ base with fenceSrc := [f] } : State).fenceSrc.find? (fun f => f.tag = 77 && decide (f.deadline ≤ base.tb)) = some f := by decide
/-! ### The exchange -/

/-- A manifest of package 9 for round 7 of group 0. -/
def manifest9 (npart : Nat) (recs : List ManRec) : Manifest :=
  { pkg := 9, core := 3, grp := 0, round := 7, npart := npart, pscope := 4, rbase := 0, rcap := 4096, recs := recs }

/-- A record for package 8, which a route of one hop reaches. -/
def record8 : ManRec := { dst := 8, len := 512, post := 512, src := 0, route := { via := 8, port := 0, hops := 1 }, nbr := none }

/-- TidesFitTheReceiveBuffers: two sources of one destination, and tides that are formed. -/
theorem witness_Tides :
    let ms := [manifest9 2 [record8], { manifest9 2 [] with pkg := 8 }]
    (pairsTo { manifest9 2 [] with pkg := 8 } ms 0).map Pair.bytes = [512]
      ∧ (splitTides [9, 8] 1 (pairsTo { manifest9 2 [] with pkg := 8 } ms 0)).length = 1 := by decide

/-- The packet of a manifest. -/
def manifestPacket (m : Manifest) : Packet := packetOfArg 0x11 0 (manifestBytes m)

/-- A round at the harbourmaster, of which package 8 is a participant. -/
def hmRound (npart : Nat) (started : Bool) (wait : Nat) : HmRound :=
  { grp := 0, round := 7, opened := 0, started := started, mans := [{ manifest9 npart [] with pkg := 8 }], tides := [], waitRep := wait, sent_ := [] }

/-- HarbourmasterRunsRounds: a first manifest of several and one alone, one that comes twice, one that contradicts the round or comes late,
one that leaves others to come, and the last, with something to send and without; a round that has waited too long, and one that has not;
reports, of which others follow and the last; a round that a participant abandons. -/
theorem witness_rounds :
    let m (npart : Nat) (recs : List ManRec) := packetManifest (manifestPacket (manifest9 npart recs))
    let s (r : HmRound) : State := { base with hmRounds := [r] }
    let here (r : HmRound) : Bool := r.grp = 0 && r.round = 7
    (nbit (manifestPacket (manifest9 2 [])).arg.toNat 63 = false ∧ base.hmPrim = base.pkg ∧ (m 2 []).pkg = 9 ∧ (m 2 []).npart = 2
      ∧ (m 2 []).grp = 0 ∧ (m 2 []).round = 7 ∧ (m 1 []).npart = 1 ∧ base.hmRounds.find? here = none)
    ∧ (∀ n ∈ [2, 3], ∀ b ∈ [false, true], (s (hmRound n b 0)).hmRounds.find? here = some (hmRound n b 0)
      ∧ (hmRound n b 0).mans = [{ manifest9 n [] with pkg := 8 }] ∧ (∀ y ∈ (hmRound n b 0).mans, y.pkg ≠ (m 2 []).pkg)
      ∧ (m n []).npart = n ∧ (m n []).pscope = 4)
    ∧ (let y := [{ manifest9 2 [] with pkg := 8 }, m 2 [record8]]
       let ps := demandOf y
       mkTides y 0 0 8 (splitTides [8, 9] ps.length ps) ≠ [])
    ∧ (mkTides [m 1 []] 0 0 8 (splitTides [9] 0 (demandOf [m 1 []])) = [])
    ∧ ((hmRound 2 false 0).opened + base.rtmo ≤ ({ base with tb := 256 * 8192 } : State).berth ∧ base.rtmo ≠ 0)
    ∧ (∀ n ∈ [1, 2], (s (hmRound 2 true n)).hmRounds.find? (fun r => r.grp = 0 && r.round = 7 && r.started) = some (hmRound 2 true n))
    ∧ (s (hmRound 2 true 2)).hmRounds.find? (fun r => r.grp = 0 && r.round = 7 && r.mans.any fun m => m.pkg = 8) = some (hmRound 2 true 2)
    ∧ (let y := [{ manifest9 2 [] with pkg := 8 }, m 2 [record8]]
       let ps := demandOf y
       let x : State := { s { hmRound 2 true 1 with tides := mkTides y 0 0 8 (splitTides [8, 9] ps.length ps) } with
                          dies := [(8, { Die.reset with failstop := true })] }
       (x.die 8).failstop = true ∧ (x.hmRounds.flatMap HmRound.tides).length = 1
         ∧ ∀ t ∈ x.hmRounds.flatMap HmRound.tides, t.committed = false ∧ t.next ≤ x.tb) := by
  decide +kernel

/-- HarbourmasterRunsRounds: a primary whose heartbeat is due, and a standby that has heard none; a takeover of this group and of another,
of a primary that has booked. -/
theorem witness_failover :
    let r := [(9, { via := 9, port := 0, hops := 1 })]
    let s : State := { base with hmStby := 9, routes := r, tb := 2048 }
    let t : State := { base with hmPrim := 9, routes := r, tb := 6144 }
    (s.pkg = s.hmPrim ∧ s.hmStby ≠ s.hmPrim ∧ s.noStby = false ∧ s.hbSent + 2048 ≤ s.tb ∧ s.hops s.hmStby ≠ 3)
    ∧ (t.pkg = t.hmStby ∧ t.hmStby ≠ t.hmPrim ∧ t.noStby = false ∧ t.hbSeen + 6144 ≤ t.tb ∧ 9 ∈ t.reachable ∧ t.hops 9 ≠ 3)
    ∧ ((packetOfArg 0x16 0 []).arg.toNat % 4096 = base.hmGrp ∧ (packetOfArg 0x16 1 []).arg.toNat % 4096 ≠ base.hmGrp)
    ∧ (let id : UseId := { pkg := 9, core := 0, hm := true, xid := 5, use := 0 }
       let u : OwnUse := { id := id, first := 8, n := 1, st := .booked, exp := 0, start := none, carried := false, stop := false, dur := 256, link := false }
       let c : Cal := { kind := .ce, idx := 0 }
       let x : State := { base with dies := [(ownerDie c, { Die.reset with cals := [(calKey c, { Calendar.reset with uses := [u, { u with id := { id with pkg := 8 } }] })] })] }
       ((x.cal c).uses.map OwnUse.id).Nodup ∧ (x.cal c).uses = [u, { u with id := { id with pkg := 8 } }]
         ∧ nbits (packetOfArg 0x16 (BitVec.ofNat 64 (9 * 2 ^ 16)) []).arg.toNat 26 16 = 9) := by decide

/-- A round that core 0 has posted: a record for package 9 from the scratchpad. -/
def myRound9 : MyRound :=
  { grp := 0, round := 7, core := 0, asn := 0, addr := 0, man := { manifest9 2 [{ record8 with dst := 9, src := 0xFF0000000000000000 }] with pkg := 0 }, tag := 4, sent_ := [] }

/-- A copy of that round. -/
def copy9 (src : Nat) (writes : List (Nat × Nat)) : ExCopy :=
  { tag := 1, grp := 0, round := 7, core := 0, dst := 9, berth := 0, to_ := 1, lo := 0, hi := 512, pos := src, addr := 0, fin := false, writes := writes }

/-- `base` with that round and a copy, from a source that can be read or from one that cannot. -/
def copying (c : ExCopy) (src : VAddr) : State :=
  { base with
    routes := [(9, { via := 9, port := 0, hops := 1 })], copies := [c], tb := 0
    myRounds := [{ myRound9 with man := { myRound9.man with recs := [{ record8 with dst := 9, src := src }] } }] }

/-- ParticipantsCopyAndReceive: answers to a post, a grant, a packet of a copy, a fault at its source and a wait for its page table, its
end with a use of this harbourmaster and of another's, and the end and the abandonment of its round, for which a context waits; pages
whose table lies in another package, and an entry that may not be written yet. -/
theorem witness_participants :
    let y : PostF := { tag := 77, core := 3, fw := false, d := 4, round := 7, deadline := 0 }
    let s : State := { base with posts := [y], myRounds := [myRound9], xwaits := [{ core := 3, fw := false, d := 4, grp := 0, round := 7 }] }
    let arg : W64 := BitVec.ofNat 64 (2 ^ 63)
    let pad := copying (copy9 0 []) 0xFF0000000000000000
    (nbit (packetOfArg 0x11 arg []).arg.toNat 63 = true ∧ nbit (packetOfArg 0x12 0 []).arg.toNat 63 = false
      ∧ s.posts.find? (fun y => y.tag % 65536 = 77 && y.core = 3) = some y ∧ s.posts.find? (fun y => y.tag = 77 && decide (y.deadline ≤ s.tb)) = some y)
    ∧ (s.myRound (nbits (7 : W64).toNat 27 16) ((7 : W64).toNat % 65536) = some myRound9 ∧ base.myRound 0 7 = none ∧ base.hops base.hmPrim ≠ 3
      ∧ (base.goodPages 0 []).2 = some [] ∧ (paged.goodPages 0 [0]).2 = some [0])
    ∧ s.xwaits.filter (fun w => w.grp = 0 && w.round = 7) = [{ core := 3, fw := false, d := 4, grp := 0, round := 7 }]
    ∧ (¬ ((copy9 0 []).to_ ≤ pad.tb / 256 ∧ (copy9 0 []).pos < (copy9 0 []).hi) ∧ (copy9 0 []).to_ ≤ 256 / 256 ∧ (copy9 0 []).pos < (copy9 0 []).hi)
    ∧ (pad.copies = [copy9 0 []] ∧ (match pad.copyRead (copy9 0 []) 0xFF0000000000000000 96 with | .ok _ bs => decide (bs.length = 96) | _ => false) = true
      ∧ pad.hops 9 ≠ 3
      ∧ min (min 4096 (min 512 (0 + 96 * (0 + 1 - 256 * 0)) - 0)) (min (65536 - (0xFF0000000000000000 + 0) % 65536) (65536 - (0 + (0 - 0)) % 65536)) = 96)
    ∧ (match (copying (copy9 0 []) 0).copyRead (copy9 0 []) 0 96 with | .fault .. => true | _ => false) = true
    ∧ (match ({ copying (copy9 0 []) 0 with cores := [(0, { core0 with root := 9 * 2 ^ 29 + 1 })] } : State).copyRead (copy9 0 []) 0 96 with
        | .wait _ => true | _ => false) = true
    ∧ ((copying (copy9 512 []) 0).copies = [copy9 512 []] ∧ (copy9 512 []).hi ≤ (copy9 512 []).pos)
    ∧ (∀ h ∈ [0, 9],
        let u : OwnUse := { id := { pkg := h, core := 0, hm := true, xid := 5, use := 0 }, first := 0, n := 1, st := .booked, exp := 0,
                            start := some 0, carried := false, stop := false, dur := 256, link := false }
        let ce : Cal := { kind := .ce, idx := 0 }
        let z : State := { copying (copy9 512 []) 0 with dies := [(ownerDie ce, { Die.reset with cals := [(calKey ce, { Calendar.reset with uses := [u] })] })] }
        (z.cal ce).uses.find? (fun w => w.id.hm && w.first = (copy9 512 []).berth) = some u ∧ (h = 0 → u.id.pkg = z.pkg)
          ∧ (h = 9 → u.id.pkg ≠ z.pkg ∧ z.hops 9 ≠ 3))
    ∧ (({ withCore (fun c => { c with root := 9 * 2 ^ 29 + 1 }) with routes := [(9, { via := 9, port := 0, hops := 1 })] } : State).goodPages 0 [0]).2 = none
    ∧ (let z : State := { paged with
          dies := [(0, { Die.reset with clock := [(0, 5)] })]
          flights := [(0, some (.inval 7 (homeDie (homeKey 0x60200)) 9 ⟨0, none, 1, []⟩))], nextTag := 1 }
       (z.goodPages 0 [0]).2 = some [0] ∧ (z.goodPages 0 [0]).1.entriesHeld 0 .forced [0] = true) := by decide +kernel
/-! ### Links -/

/-- A port that is enabled. -/
def portOn : Port := { Port.reset with en := true }

/-- `base` with a port 3, and packets that wait to leave for package 9 through it. -/
def linked (x : Port) (out : List Packet) : State :=
  { base with ports := [(3, x)], routes := [(9, { via := 9, port := 3, hops := 1 })], out := out }

/-- The one flit of a short packet, in the clear. -/
def flitOf (p : Packet) (eop : Bool) (seq : Nat) : Flit :=
  Port.reset.seal false (flitHeader eop true false 1 0 seq 0) (fillTo 232 (packetBytes p))

/-- PortsSendFlits: a port that is disabled; one that replays; one whose keys are to switch, where a forced switch goes before a
replay, and where no key is there to switch to; one with fewer lanes, for which a packet has come due, and one that still waits; one with a packet in hand, one that takes a
packet, one with packets of two classes in hand, and one with nothing to send, whose other slot is not LOADED or that does not
encrypt. -/
theorem witness_PortsSendFlits :
    let f : Flit := { header := 0, body := [], check := [] }
    let on (y : Port) (out : List Packet) : Bool :=
      let s := linked y out
      let x := (s.port 3).activate
      x == y && !x.stopped s.alarm && s.outDue.isEmpty && decide ((s.port 3).lanes = 8) && decide (s.tb < (s.port 3).lanesAt + 4096)
    let p := { packet 1 with dpkg := 9, spkg := 0 }
    let t : TxPacket := { vc := 2, hop := 1, first := true, left := packetBytes p }
    let c : TxPacket := { t with vc := 0 }
    let next (x : Port) (out : List Packet) : Option TxPacket := (((linked x out).loadPort 3).port 3).nextTx
    (((linked { portOn with en := false } []).port 3).activate).stopped false = true
    ∧ on { portOn with replaying := [f] } [] = true
    ∧ (let x := { portOn with enc := true, st0 := .active, st1 := .loaded, switch_ := true }
       on x [] = true ∧ x.active = some false ∧ x.slotSt true = .loaded)
    ∧ (let x := { portOn with enc := true, st0 := .active, st1 := .loaded, inv := 0xFFFF0000 }
       on x [] = true ∧ x.active = some false ∧ x.slotSt true = .loaded)
    ∧ (let x := { portOn with enc := true, st0 := .active, st1 := .loaded, inv := 0xFFFF0000, replaying := [f] }
       on x [] = true ∧ x.active = some false ∧ x.slotSt true = .loaded)
    ∧ (let x := { portOn with enc := true, st0 := .active, inv := 0xFFFF0000, replaying := [f] }
       on x [] = true ∧ x.active = some false ∧ x.slotSt true ≠ .loaded)
    ∧ (let s : State := { linked { portOn with lanes := 4 } [p] with tb := 4096, outDue := [(p, 4096)] }
       (s.port 3).lanesAt + 4096 ≤ s.tb ∧ ((s.sendDue.regain 3).port 3).lanes = 8 ∧ (s.sendDue.regain 3).out = [p, p]
         ∧ ((s.sendDue.regain 3).port 3).activate.stopped s.alarm = false)
    ∧ (∀ q ∈ ({ linked portOn [] with outDue := [(p, 9)] } : State).outDue, (linked portOn []).tb < q.2)
    ∧ (let x := { portOn with enc := true, st0 := .active }
       on x [p] = true ∧ x.active = some false ∧ x.slotSt true ≠ .loaded ∧ x.tx = [])
    ∧ (on { portOn with tx := [t] } [] = true ∧ next { portOn with tx := [t] } [] = some t)
    ∧ (on portOn [p] = true ∧ (linked portOn [p]).nextFor 3 2 = some p ∧ next portOn [p] = some t
      ∧ (linked portOn [p]).leavesBy 3 p = true ∧ trafficClass p.opc = 2)
    ∧ next { portOn with tx := [t, c] } [] = some c
    ∧ (on portOn [] = true ∧ next portOn [] = none) := by decide +kernel

/-- PortsReceiveAndReplay: a port that is disabled; a flit whose check fails, and whose packet goes on; one out of order, asked for already
and not; a whole packet, one of an unknown operation, a KEYMARK, and a booking message. -/
theorem witness_flits :
    let ok (p : Packet) (eop : Bool) : Bool := match portOn.unseal (flitOf p eop 0) with
      | some b => flitSeq (flitOf p eop 0) == 0 && flitEop (flitOf p eop 0) == eop && (packetOf b).opc == p.opc && flitSop (flitOf p eop 0)
      | none => false
    portOn.en = true ∧ portOn.down = false ∧ portOn.rxSeq = 0
    ∧ portOn.unseal { flitOf (packet 1) true 0 with check := [] } = none
    ∧ ok (packet 1) false = true ∧ ok (packet 1) true = true ∧ ok (packet 0x20) true = true
    ∧ ok (packet 0x30) true = true ∧ knownOpc 0x30 = false
    ∧ ok { packet 0x10 with data := [1, 0, 0, 0, 0, 0, 0, 0] } true = true
    ∧ flitSeq (flitOf (packet 1) true 5) = 5 ∧ (portOn.unseal (flitOf (packet 1) true 5)).isSome = true := by decide +kernel

/-- PortsReceiveAndReplay: requests for replay that a port does not know, knows, and has tried 15 times; a slot that is ACTIVE and one that
is not, in either direction; counters in their range; lanes shed and regained, with and without traffic. -/
theorem witness_ports :
    let f := flitOf (packet 1) true 5
    let x := { portOn with sent_ := [f] }
    let y := { x with tries := 15, trySeq := 5 }
    let s := linked y []
    let p := { packet 1 with dpkg := 9, spkg := 0 }
    x.down = false ∧ flitSeq f = 5 ∧ f ∈ x.sent_ ∧ x.tries = 0
    ∧ (y.tries ≠ 0 ∧ y.trySeq = 5 ∧ 16 ≤ y.tries + 1 ∧ FMap.wf Route.none s.routes = true)
    ∧ ({ portOn with st1 := .active } : Port).slotSt true = .active ∧ portOn.slotSt false ≠ .active
    ∧ ({ RxKeys.reset with st1 := .active } : RxKeys).slotSt true = .active ∧ portOn.rx.slotSt false ≠ .active
    ∧ (portOn.inv < 2 ^ 32 ∧ portOn.replay < 65536 ∧ portOn.authf < 65536 ∧ portOn.badopc < 65536 ∧ portOn.rsvb < 65536)
    ∧ (2 < portOn.lanes ∧ (linked portOn []).portBooked 3 = false ∧ (linked portOn []).portBusy 3 = false
      ∧ (linked portOn [p]).portBusy 3 = true)
    ∧ ({ portOn with lanes := 2 } : Port).lanes < 8 := by decide +kernel
/-! ### The platform and its registers -/

/-- ClocksAndTrips: runs that receive a notice, with one held and one past its `exit`; clock steps that change and that do not; each
trip at and below its temperatures, and a save that is under way, with firmware that is verified and that is not. -/
theorem witness_ClocksAndTrips :
    let n : Notice := { kind := 1, merged := 255, cadence := 1, mhz := 2100, at_ := 0 }
    let s : State := { base with cores := [(0, { core0 with task := some runOf, user := { user0 with notice := some n } }), (1, { Core.reset with task := some { runOf with exited := true } }), (2, { Core.reset with task := some runOf })] }
    let tjs (t : State) (tj : Nat) : List Nat := (List.range 10).map fun d => ((t.setDie 0 { t.die 0 with tj := tj }).die d).tj
    let hot (tj m : Nat) : Bool := (tjs s tj).any fun d => decide (m ≤ d)
    ((s.core 0).clockStep = 0 ∧ (s.core 0).task = some runOf ∧ (s.core 1).task = some { runOf with exited := true } ∧ (s.core 2).user.notice = none)
    ∧ (s.trip1 = false ∧ s.trip2 = false ∧ s.pending = none)
    ∧ (hot 95 95 = true ∧ hot 94 95 = false ∧ hot 90 90 = true ∧ hot 89 90 = false ∧ hot 105 105 = true ∧ hot 104 105 = false
      ∧ hot 100 100 = true ∧ hot 99 100 = false ∧ hot 115 115 = true ∧ hot 114 115 = false ∧ hot 125 125 = true ∧ hot 124 125 = false)
    ∧ (let y : State := { s with verified := true, pending := some { addr := none, queues := [], trip3 := false, written := false } }
       y.verified = true ∧ y.pending = some { addr := none, queues := [], trip3 := false, written := false } ∧ s.verified = false)
    ∧ (∀ k < 512, (base.core k).task = none) := by decide +kernel

/-- ErrorsSecurityAndReset: a core whose run an error ends; a package that has booted, has failed to, and has done neither, and one whose
alarm has risen. -/
theorem witness_ErrorsSecurityAndReset :
    (let s := placed jobOf fun c => { c with task := some runOf, job := some 0 }
     (s.core 0).task = some runOf ∧ (s.core 0).job.bind s.jobOf = some jobOf)
    ∧ ((0 : Byte) ≠ 5 ∧ (0 : Byte) ≠ 6 ∧ (4 : Byte).toNat < 5)
    ∧ (State.reset.verified = false ∧ State.reset.bootFailed = false ∧ State.reset.alarm = false ∧ State.reset.wrapKey = true)
    ∧ ({ State.reset with verified := true } : State).verified = true
    ∧ ({ State.reset with wrapKey := false } : State).wrapKey = false := by decide +kernel

/-- ErrorsSecurityAndReset: whether a signature holds is not said by the manual; each clause of boot has the states of one answer. -/
theorem witness_boot_answers (image sig : List Byte) :
    Config.sm2Verify (Config.sm3 image) sig = true ∨ Config.sm2Verify (Config.sm3 image) sig = false := by
  cases Config.sm2Verify (Config.sm3 image) sig <;> simp

/-- RegisterWrites: stores of the context performed and on their way; contexts that run and do not, and a card that is on its way; each
index of `CTXU.IDX` at the ends of its range; queues empty, holding a command and a part of one; a scratch area that fits and one that
does not; a user write that traps; and numbers of each register space. -/
theorem witness_RegisterWrites :
    let q := queued .ce (entryOf (cmdOf 1 0)) id
    let held := withCore fun c => { c with run := false, ctxuIdx := 0x40 }
    (base.storesDone 0 false = true ∧ (flying [.store (storeF (.home 64))]).storesDone 0 false = false)
    ∧ ((base.core 0).run = true ∧ (held.core 0).run = false ∧ (base.core 0).user.sentCard = false
      ∧ ((withUser fun u => { u with op := some (.renq 1 9 0 0 0x1000) }).ctx 0 false).sentCard = true)
    ∧ (∀ i ∈ [0, 0x3F, 0x40, 0x4F, 0x50, 0x57, 0x58, 0x402, 0x840, 0x84F], (BitVec.ofNat 12 i).toNat = i)
    ∧ (((base.core 0).eng .ce).q = [] ∧ ((base.core 0).eng .ce).partialWords = [] ∧ ((q.core 0).eng .ce).q ≠ [])
    ∧ (base.core 0).spadSize < (4095 + 4095) * 1024
    ∧ ((1 + 0) * 1024 ≤ (q.core 0).spadSize ∧ ((q.core 0).live.any fun p => p.2.memo.any (·.pin)) = false)
    ∧ (firmwareWritten 0x010 = true ∧ base.focusFw = false ∧ firmwareWritten 0x002 = false) := by decide +kernel
/-! ### Decoding and the step -/

/-- DecodingInvertsTheEncoder, CommandsDecode: words and commands that the encoder writes and the decoder accepts. -/
theorem witness_Decoding :
    (wellFormed (.add 3 1 2 false false) = true ∧ (encode (.add 3 1 2 false false)).isSome = true)
    ∧ decodeWord 0b111011_0000000000_0000000000000000 = .ok .nop
    ∧ (wellFormed (.cpNest at0 (cmdOf 1 0)) = true ∧ (encodeCmd (.cpNest at0 (cmdOf 1 0))).isSome = true)
    ∧ decodeCmd .ce false at0 (cmdOf 1 0) = .ok (.cpNest at0 (cmdOf 1 0)) := by decide +kernel

/-- The word that a context fetches is a given one, by the same steps as an issue takes. -/
def fetches (s : State) (w : W32) (pays : Bool) : Bool :=
  let t := s.slotTick 0 false
  (!s.takesNotice 0) && s.live 0 false && (!t.firmFirst 0) &&
    match t.fetch 0 false t.cur.pc with
    | .word x y => y == w && x.cur.mayIssue 1 == pays
    | _ => false

/-- AStepRunsTheDecodedInstruction: contexts that the agenda and the schedule name, whose word decodes and does not, and whose bucket holds
its cost and does not; one whose firmware is ready, one whose address is not mapped, and one whose page table lies in another package; an event; and addresses whose word the instruction cache holds, and does not. -/
theorem witness_AStep :
    let w : W32 := 0b000001_000011_000001_000010_0_0_000000
    let s := State.reset.withFetchWord 32 w.toNat
    let ill := State.reset.withFetchWord 32 0
    let poor : State := s.setCtx 0 false { s.ctx 0 false with bucket := { Bucket.reset 15 64 with bal := 0 } }
    let cached : State := s.setCore 0 { s.core 0 with icache := [(0x1000, w)] }
    let homes (t : State) : Bool := match t.translate 0 false .fetch 0x1000 with
      | (x, .ok (.home key) _) => key == 0x1000 && (x.core 0).icache == (t.core 0).icache
      | _ => false
    (s.agenda = [] ∧ s.nextContext = some (0, false) ∧ fetches s w true = true ∧ decodeWord w = .ok (.add 3 1 2 false false))
    ∧ (({ s with agenda := [.issue 0 false] } : State).agenda = .issue 0 false :: [])
    ∧ (fetches ill 0 true = true ∧ (match decodeWord 0 with | .error _ => true | .ok _ => false) = true)
    ∧ (poor.nextContext = some (0, false) ∧ fetches poor w false = true)
    ∧ (let both : State := { s with cores := [(0, { s.core 0 with firm := { (s.core 0).firm with pc := 0x1000, halted := false } })],
                                    verified := true, agenda := [.issue 0 false] }
       both.live 0 false = true ∧ (both.slotTick 0 false).firmFirst 0 = true)
    ∧ (let lost := s.setCtx 0 false { s.ctx 0 false with pc := 0x100000000 }
       lost.live 0 false = true ∧ (match (lost.slotTick 0 false).fetch 0 false 0x100000000 with | .fault .. => true | _ => false) = true)
    ∧ (let far : State := { s.setCore 0 { s.core 0 with root := 9 * 2 ^ 29 + 1 } with routes := [(9, { via := 9, port := 0, hops := 1 })] }
       far.live 0 false = true ∧ (match (far.slotTick 0 false).fetch 0 false 0x1000 with | .wait _ => true | _ => false) = true)
    ∧ ({ s with agenda := [.event .securityAlarm] } : State).agenda = .event .securityAlarm :: []
    ∧ (homes s = true ∧ (s.core 0).icache = [] ∧ homeDie 0x1000 = dieOf 0)
    ∧ (homes cached = true ∧ (cached.core 0).icache.find? (fun e => e.1 = 0x1000) = some (0x1000, w) ∧ (s.core 0).icache.find? (fun e => e.1 = 0x1000) = none) := by decide +kernel

/-- A step from the first word placed (R92, R149): `addi s5, s0, 7` writes its register and passes on to the next word. -/
theorem test_first_step :
    (match step (State.reset.withFetchWord 32 0b010000_000101_000000_0_0000000000111) with
      | .next t => (t.ctx 0 false).getS 5 == 7 && (t.ctx 0 false).pc == 0x1004
      | _ => false) = true := by decide +kernel

/-- A step whose word is reserved traps ILLEGAL (R97): unhandled at reset, where TVEC is zero, it halts the context (R443). -/
theorem test_first_step_illegal :
    (match step (State.reset.withFetchWord 32 0) with
      | .next t => (t.ctx 0 false).halted && !(t.core 0).run
      | _ => false) = true := by decide +kernel

/-- StepsKeepMemoryCanonical: the memory of a first program is canonical, and a step from it answers. -/
theorem witness_StepsKeepMemoryCanonical :
    let s := State.reset.withFetchWord 32 0b111011_0000000000_0000000000000000
    s.MemInv ∧ (match step s with | .next _ => true | _ => false) = true := by
  constructor
  · unfold State.MemInv; decide +kernel
  · decide +kernel
end Sys2Proof.Tests
end

section
/-!
SUPPORT. The state at reset: every numbered piece of it is the one at reset, and a context at reset has every register FULL.
-/

namespace Sys2Proof.Machine

@[simp] theorem State.core_reset (k : Nat) : State.reset.core k = Core.reset := rfl
@[simp] theorem State.die_reset (d : Nat) : State.reset.die d = Die.reset := rfl
@[simp] theorem State.lq_reset (q : Nat) : State.reset.lq q = LQueue.reset := rfl
@[simp] theorem State.port_reset (p : Nat) : State.reset.port p = Port.reset := rfl
@[simp] theorem State.byteAt_reset (j : Nat) : State.reset.byteAt j = 0 := rfl
@[simp] theorem Core.ctx_reset (fw : Bool) : Core.reset.ctx fw = Ctx.reset fw := by cases fw <;> rfl

/-- Every scalar register is FULL at reset, `s0` as ever (log entry 1). -/
@[simp] theorem Ctx.getFE_reset (fw : Bool) (r : Reg) : (Ctx.reset fw).getFE r = .full := ite_self _

@[simp] theorem Ctx.getMark_reset (fw : Bool) (r : Reg) : (Ctx.reset fw).getMark r = none := ite_self _

/-- The buckets at reset are full at their rates (R141). -/
theorem Ctx.bucket_reset :
    (Ctx.reset false).bucket.word = BitVec.ofNat 64 (15 * 2 ^ 24 + 15 * 2 ^ 16 + 64)
      ∧ (Ctx.reset true).bucket.word = BitVec.ofNat 64 (15 * 2 ^ 24 + 1 * 2 ^ 16 + 16) := by decide

/-- A core at reset runs nothing, and its contexts are those at reset (R137, R141, R232). -/
theorem Core.reset_values :
    Core.reset.run = false ∧ Core.reset.task = none ∧ Core.reset.job = none
      ∧ Core.reset.user.fcsr = 0 ∧ Core.reset.firm.fcsr = 0
      ∧ Core.reset.user.bucket.word = BitVec.ofNat 64 (15 * 2 ^ 24 + 15 * 2 ^ 16 + 64)
      ∧ Core.reset.firm.bucket.word = BitVec.ofNat 64 (15 * 2 ^ 24 + 1 * 2 ^ 16 + 16)
      ∧ ∀ fw, (Core.reset.ctx fw).wallowQ.limit = 32 ∧ (Core.reset.ctx fw).wallowD.limit = 32
        ∧ (Core.reset.ctx fw).wallowX.limit = 128
        ∧ ∀ r, (Core.reset.ctx fw).getFE r = .full ∧ (Core.reset.ctx fw).getMark r = none := by
  refine ⟨rfl, rfl, rfl, by decide, by decide, Ctx.bucket_reset.1, Ctx.bucket_reset.2, fun fw => ?_⟩
  rw [Core.ctx_reset]
  exact ⟨rfl, rfl, rfl, fun r => ⟨Ctx.getFE_reset fw r, Ctx.getMark_reset fw r⟩⟩

/-- Settles O59: each numbered piece of the state at reset is the piece at reset, whose values stand in its definition. -/
theorem resetLeavesTheManualsValues : Obligations.ResetLeavesTheManualsValues := by
  unfold Obligations.ResetLeavesTheManualsValues
  refine ⟨rfl, State.byteAt_reset, rfl, rfl, fun k => ?_, fun p => rfl, fun q => ?_, fun p => ?_, fun d => ?_⟩
  · rw [State.core_reset]; exact Core.reset_values
  · rw [State.lq_reset]; rfl
  · rw [State.port_reset]; rfl
  · rw [State.die_reset]; exact ⟨rfl, rfl⟩

end Sys2Proof.Machine
end

section
/-!
SUPPORT. What the end of a run leaves of every core's placement: the steps of a kill change the run and the job of no core but
those that they end (R456), and none but the dealing of records changes the list of jobs.
-/

namespace Sys2Proof.Machine

/-! ### States with the same runs -/

/-- Every core bears the same run of the same job, and the jobs are the same. -/
def State.SameRuns (s t : State) : Prop :=
  t.jobs = s.jobs ∧ ∀ j, (t.core j).task = (s.core j).task ∧ (t.core j).job = (s.core j).job

theorem State.SameRuns.refl (s : State) : s.SameRuns s := ⟨rfl, fun _ => ⟨rfl, rfl⟩⟩

theorem State.SameRuns.trans {s t u : State} (h : s.SameRuns t) (g : t.SameRuns u) : s.SameRuns u :=
  ⟨g.1.trans h.1, fun j => ⟨(g.2 j).1.trans (h.2 j).1, (g.2 j).2.trans (h.2 j).2⟩⟩

theorem State.SameRuns.of_cores {s t : State} (hc : t.cores = s.cores) (hj : t.jobs = s.jobs) : s.SameRuns t :=
  ⟨hj, fun j => by unfold State.core; rw [hc]; exact ⟨rfl, rfl⟩⟩

/-- A core replaced by one that bears the same run. -/
theorem State.sameRuns_setCore (s : State) (k : Nat) (c : Core) (ht : c.task = (s.core k).task) (hj : c.job = (s.core k).job) :
    s.SameRuns (s.setCore k c) := by
  refine ⟨rfl, fun j => ?_⟩
  rw [State.core_setCore]
  split
  · next h => subst h; exact ⟨ht, hj⟩
  · exact ⟨rfl, rfl⟩

theorem State.sameRuns_foldl {α : Type} (f : State → α → State) (h : ∀ (s : State) a, s.SameRuns (f s a)) (l : List α) (s : State) :
    s.SameRuns (l.foldl f s) := by
  induction l generalizing s with
  | nil => exact .refl s
  | cons a l ih => exact (h s a).trans (ih _)

/-- The job of a core's run is found alike. -/
theorem State.SameRuns.jobOf {s t : State} (h : s.SameRuns t) (k : Nat) :
    (t.core k).job.bind t.jobOf = (s.core k).job.bind s.jobOf := by
  have hf : t.jobOf = s.jobOf := by funext j; unfold State.jobOf; rw [h.1]
  rw [(h.2 k).2, hf]

theorem State.sameRuns_setDie (s : State) (d : Nat) (x : Die) : s.SameRuns (s.setDie d x) := .of_cores rfl rfl
theorem State.sameRuns_setLq (s : State) (q : Nat) (x : LQueue) : s.SameRuns (s.setLq q x) := .of_cores rfl rfl
theorem State.sameRuns_addFlight (s : State) (f : Flight) : s.SameRuns (s.addFlight f).1 := .of_cores rfl rfl
theorem State.sameRuns_takeTag (s : State) : s.SameRuns s.takeTag.1 := .of_cores rfl rfl
theorem State.SameRuns.tell {s t : State} (h : s.SameRuns t) (n : Note) : s.SameRuns (t.tell n) := h
theorem State.sameRuns_send (s : State) (p : Packet) : s.SameRuns (s.send p) := .of_cores (by simp) (by simp)
theorem State.sameRuns_setBooking (s : State) (k : Nat) (b : Booking) : s.SameRuns (s.setBooking k b) :=
  s.sameRuns_setCore k _ rfl rfl

theorem State.sameRuns_setCtx (s : State) (k : Nat) (fw : Bool) (x : Ctx) : s.SameRuns (s.setCtx k fw x) :=
  s.sameRuns_setCore k _ (by simp) (by simp)

/-! ### Bookings that end (R76) -/

theorem State.sameRuns_ownerRelease (s : State) (c : Cal) (id : UseId) : s.SameRuns (s.ownerRelease c id) := by
  unfold State.ownerRelease
  dsimp only
  split
  · exact .refl s
  · split
    · split
      · exact .refl s
      · exact s.sameRuns_setDie ..
    · exact s.sameRuns_setDie ..

theorem State.sameRuns_toOwner (s : State) (die core : Nat) (hm : Bool) (xid j : Nat) (u : BUse) (t : BookType) (berth : Nat) :
    s.SameRuns (s.toOwner die core hm xid j u t berth) := by
  unfold State.toOwner
  dsimp only
  split
  · exact .of_cores rfl rfl
  · split
    · exact .refl s
    · exact .of_cores (State.send_cores ..) (State.send_jobs ..)

theorem State.sameRuns_releaseUse (s : State) (k : Nat) (b : Booking) (j : Nat) (u : BUse) (t : BookType) :
    s.SameRuns (s.releaseUse k b j u t) := by
  unfold State.releaseUse
  split
  · exact .refl s
  · split
    · exact s.sameRuns_ownerRelease ..
    · split
      · exact s.sameRuns_toOwner ..
      · exact s.sameRuns_toOwner ..
      · exact s.sameRuns_toOwner ..
      · exact .refl s

theorem State.sameRuns_releaseUses (s : State) (k : Nat) (b : Booking) (t : BookType) (j : Nat) (us : List BUse) :
    s.SameRuns (s.releaseUses k b t j us) := by
  induction us generalizing s j with
  | nil => exact .refl s
  | cons u us ih => exact (s.sameRuns_releaseUse k b j u t).trans (ih _ _)

theorem State.sameRuns_deliverBooking (s : State) (k : Nat) (b : Booking) : s.SameRuns (s.deliverBooking k b) := by
  unfold State.deliverBooking
  split
  · exact s.sameRuns_setBooking ..
  · exact (s.sameRuns_setBooking ..).trans (State.sameRuns_setCtx ..)

theorem State.sameRuns_endBookings (s : State) (k : Nat) (st : BookStatus) (sub : Nat) : s.SameRuns (s.endBookings k st sub) :=
  State.sameRuns_foldl _ (fun s _ => (s.sameRuns_releaseUses ..).trans (State.sameRuns_deliverBooking ..)) _ s

theorem State.sameRuns_abandonRounds (s : State) (k : Nat) : s.SameRuns (s.abandonRounds k) :=
  State.sameRuns_foldl _ (fun s _ => s.sameRuns_send _) _ s

/-- A run's context stops and what it holds is discarded; the run itself stays on its core (R456). -/
theorem State.sameRuns_stopRun (s : State) (k sub : Nat) : s.SameRuns (s.stopRun k sub) := by
  unfold State.stopRun
  refine (State.SameRuns.trans ?_ (State.sameRuns_endBookings _ k .cancelled sub)).trans (State.sameRuns_abandonRounds _ k)
  refine (s.sameRuns_setCore k _ ?_ ?_).trans (.of_cores rfl rfl)
  · rfl
  · rfl

/-! ### Completion records (R460, R461) -/

theorem State.sameRuns_tableRead (s : State) (k va pa : Nat) : s.SameRuns (s.tableRead k va pa).1 := by
  unfold State.tableRead
  split
  · exact .refl s
  · dsimp only
    split
    · exact .refl s
    · exact (s.sameRuns_addFlight _).trans (State.sameRuns_send ..)

theorem State.sameRuns_walk (s : State) (k t va : Nat) (ls : List (Nat × Nat × Nat × Bool)) : s.SameRuns (s.walk k t va ls).1 := by
  induction ls generalizing s t with
  | nil => exact .refl s
  | cons l ls ih =>
    obtain ⟨lo, w, next, leafOk⟩ := l
    have h := s.sameRuns_tableRead k va (t + 8 * (va / 2 ^ lo % 2 ^ w))
    unfold State.walk
    dsimp only
    split
    · next e => rw [e] at h; exact h
    · next e => rw [e] at h; exact h
    · next e =>
      rw [e] at h
      split
      · exact h
      · split
        · exact h
        · exact h.trans (ih _ _)

theorem State.sameRuns_asPlace (s : State) (asn : Nat) (a : Acc) (va : VAddr) : s.SameRuns (s.asPlace asn a va).1 := by
  have h := s.sameRuns_walk 0 (s.roots.get 0 asn * 65536) va.toNat walkLevels
  have hw (t : State) : t.SameRuns (t.endWalk 0 va.toNat) := .of_cores rfl rfl
  unfold State.asPlace
  split
  · exact .refl s
  · split
    · next e => rw [e] at h; exact h
    · next e => rw [e] at h; exact h.trans (hw _)
    · next e =>
      rw [e] at h
      split
      · exact h.trans (hw _)
      · exact h.trans (hw _)

theorem State.sameRuns_homeWrite (s : State) (o : Origin) (of key : Nat) (bs : List Byte) : s.SameRuns (s.homeWrite o of key bs) := by
  have hd (s : State) (l d : Nat) : s.SameRuns (if s.hasCopy d l then (s.addFlight (.inval l d of o)).1 else s) := by
    split
    · exact s.sameRuns_addFlight _
    · exact .refl s
  have h0 : s.SameRuns { s with
      mem := writeBytes s.mem key bs
      memBad := s.memBad.filter fun g => !(decide (key ≤ g * 16) && decide (g * 16 + 16 ≤ key + bs.length)) } := .of_cores rfl rfl
  exact h0.trans (State.sameRuns_foldl _ (fun s l => State.sameRuns_foldl _ (fun s d => hd s l d) _ s) _ _)

theorem State.sameRuns_addSent (s : State) (k pkg n : Nat) : s.SameRuns (s.setCore k ((s.core k).addSent pkg n)) :=
  s.sameRuns_setCore k _ rfl rfl

/-- A write of an address space that is made, or that waits. -/
theorem State.sameRuns_asWrite {s t : State} {of : Option RecordOf} {asn core : Nat} {va : VAddr} {bs : List Byte}
    (h : s.asWrite of asn core va bs = .ok t ∨ s.asWrite of asn core va bs = .wait t) : s.SameRuns t := by
  have hp := s.sameRuns_asPlace asn .store va
  unfold State.asWrite at h
  generalize s.asPlace asn .store va = r at h hp
  split at h
  · rcases h with h | h
    · cases h
    · cases h; exact hp
  · rcases h with h | h
    · cases h; exact (hp.trans (State.sameRuns_takeTag _)).trans (State.sameRuns_homeWrite ..)
    · cases h
  · next x p pa win =>
    rcases h with h | h
    · cases h
      refine State.SameRuns.trans ?_ (State.sameRuns_send ..)
      refine (hp.trans (x.sameRuns_addSent core p bs.length)).trans ?_
      split
      · exact State.sameRuns_addFlight ..
      · exact .refl _
    · cases h
  · rcases h with h | h <;> cases h

theorem State.sameRuns_recordDone (s : State) (of : RecordOf) : s.SameRuns (s.recordDone of) := by
  unfold State.recordDone
  dsimp only
  split
  · exact s.sameRuns_setLq ..
  · exact .refl s

theorem State.sameRuns_recordFails (s : State) (of : RecordOf) : s.SameRuns (s.recordFails of) := .of_cores rfl rfl

theorem State.sameRuns_writeParts (s : State) (of : Option RecordOf) (asn core : Nat) (ps : List (VAddr × List Byte)) :
    s.SameRuns (s.writeParts of asn core ps) := by
  induction ps generalizing s with
  | nil =>
    unfold State.writeParts
    split
    · exact s.sameRuns_recordDone _
    · exact .refl s
  | cons p ps ih =>
    obtain ⟨va, bs⟩ := p
    unfold State.writeParts
    split
    · next t e => exact (State.sameRuns_asWrite (.inl e)).trans (ih t)
    · next t e => exact (State.sameRuns_asWrite (.inr e)).trans (.of_cores rfl rfl)
    · split
      · exact s.sameRuns_recordFails _
      · exact .refl s

theorem State.sameRuns_writeRecord (s : State) (of : RecordOf) (asn core : Nat) (va : VAddr) (bs : List Byte) :
    s.SameRuns (s.writeRecord of asn core va bs) := s.sameRuns_writeParts ..

theorem State.sameRuns_endRecord (s : State) (k : Nat) (j : Job) (r : Run) (status detail : Nat) :
    s.SameRuns (s.endRecord k j r status detail) := s.sameRuns_writeRecord ..

/-! ### The members of a killed gang (R456) -/

/-- No run, and no job, is placed on a core. -/
def Core.Vacant (c : Core) : Prop := c.task = none ∧ c.job = none

/-- A core that nothing is placed on stays so, whatever becomes of the jobs. -/
theorem State.SameRuns.vacant {s t : State} (h : s.SameRuns t) {k : Nat} (v : (s.core k).Vacant) : (t.core k).Vacant :=
  ⟨(h.2 k).1.trans v.1, (h.2 k).2.trans v.2⟩

@[simp] theorem State.core_setJob (s : State) (j : Job) (k : Nat) : (s.setJob j).core k = s.core k := rfl

/-- The member of a job that a kill ends: its core is free. -/
theorem State.killOne_vacant (s : State) (k status detail : Nat) (j : Job) (h : (s.core k).job.bind s.jobOf = some j) :
    ((s.killOne k status detail).core k).Vacant := by
  have hj : ((s.stopRun k 1).core k).job.bind (s.stopRun k 1).jobOf = some j := ((s.sameRuns_stopRun k 1).jobOf k).trans h
  unfold State.killOne Core.Vacant
  simp only [hj, State.core_setCore_self, and_self]

/-- A core that nothing is placed on stays so while a member, that core's own among them, is ended. -/
theorem State.killOne_keepsVacant (s : State) (m status detail : Nat) {k : Nat} (v : (s.core k).Vacant) :
    ((s.killOne m status detail).core k).Vacant := by
  have v1 := (s.sameRuns_stopRun m 1).vacant v
  unfold State.killOne
  dsimp only
  generalize s.stopRun m 1 = s1 at v1
  by_cases hm : m = k
  · subst hm
    split
    · rw [State.core_setCore_self]; exact ⟨rfl, v1.2⟩
    · rw [State.core_setCore_self]; exact ⟨rfl, rfl⟩
  · split
    · rw [State.core_setCore_of_ne _ _ hm]; exact v1
    · rw [State.core_setCore_of_ne _ _ hm, State.core_setJob]
      split
      · split
        · exact v1
        · exact (State.sameRuns_endRecord ..).vacant v1
      · exact v1

theorem State.killSaved_keepsVacant (s : State) (j : Nat) {k : Nat} (v : (s.core k).Vacant) : ((s.killSaved j).core k).Vacant := by
  unfold State.killSaved
  dsimp only
  refine List.foldlRecOn (motive := fun t : State => (t.core k).Vacant) _ _ v fun t ht w _ => ?_
  split
  · exact ht
  · split
    · rw [State.core_setJob]; exact ht
    · exact (State.sameRuns_writeRecord ..).vacant ht

theorem State.core_settleJob (s : State) (id k : Nat) : (s.settleJob id).core k = s.core k := by
  unfold State.settleJob
  split
  · rfl
  · split
    · rfl
    · split <;> rfl

/-- The core of a job's member that a kill names is free after it (R456). -/
theorem State.kill_vacant (s : State) (k status detail : Nat) (j : Job) (h : (s.core k).job.bind s.jobOf = some j) :
    ((s.kill k status detail).core k).Vacant := by
  have hone := s.killOne_vacant k status detail j h
  unfold State.kill
  split
  · exact hone
  · dsimp only
    rw [State.core_settleJob]
    refine State.killSaved_keepsVacant _ _ ?_
    exact List.foldlRecOn (motive := fun t : State => (t.core k).Vacant) _ _ hone fun t ht m _ => t.killOne_keepsVacant m 3 0 ht

/-- A kill in a state with the same runs frees the core too. -/
theorem State.SameRuns.kill_vacant {s t : State} (h : s.SameRuns t) (k status detail : Nat) {j : Job}
    (hj : (s.core k).job.bind s.jobOf = some j) : ((t.kill k status detail).core k).Vacant :=
  t.kill_vacant k status detail j ((h.jobOf k).trans hj)

/-- An unhandled trap of a user context ends its run (R441). -/
theorem State.unhandled_vacant (s : State) (k : Nat) (t : Trap) (pc : VAddr) {j : Job} (hj : (s.core k).job.bind s.jobOf = some j) :
    ((s.unhandled k false t pc).core k).Vacant := by
  refine State.SameRuns.kill_vacant (s := s) ?_ k _ _ hj
  refine State.SameRuns.tell ?_ _
  exact s.sameRuns_setCore k _ rfl rfl

/-- An error in control state ends the run of its core, whether its record is dealt again or not (R448). -/
theorem State.loseControl_vacant (s : State) (k : Nat) {r : Run} {j : Job} (ht : (s.core k).task = some r)
    (hj : (s.core k).job.bind s.jobOf = some j) : ((s.loseControl k).core k).Vacant := by
  unfold State.loseControl
  rw [ht, hj]
  dsimp only
  split
  · refine State.SameRuns.kill_vacant (s := s) ?_ k 3 0 hj
    refine State.SameRuns.tell ?_ _
    exact s.sameRuns_setCore k _ rfl rfl
  · exact s.unhandled_vacant k _ _ hj

end Sys2Proof.Machine
end
section
/-!
The platform: errors of core storage (R448), the alarm, boot and quotes (R467, R468), and package reset (R26, R469).
-/

namespace Sys2Proof

/-- What holds of the default and of every listed value holds of every value read. -/
theorem FMap.get_of_all {α : Type} {P : α → Prop} {d : α} {m : FMap α} (hd : P d) (h : ∀ p ∈ m, P p.2) (k : Nat) :
    P (FMap.get d m k) := by
  induction m with
  | nil => exact hd
  | cons p m ih =>
    obtain ⟨i, v⟩ := p
    simp only [FMap.get]
    split
    · exact h (i, v) (List.mem_cons_self ..)
    · exact ih fun q hq => h q (List.mem_cons_of_mem _ hq)

/-- A map of which the entries of some keys are kept. -/
theorem FMap.get_filter_keys {α : Type} (d : α) (m : FMap α) (f : Nat → Bool) (k : Nat) :
    FMap.get d (m.filter fun p => f p.1) k = if f k = true then FMap.get d m k else d := by
  induction m with
  | nil => simp
  | cons p m ih =>
    obtain ⟨i, v⟩ := p
    by_cases hi : f i = true
    · rw [List.filter_cons_of_pos (p := fun p : Nat × α => f p.1) hi]
      simp only [FMap.get, ih]
      split
      · next e => subst e; rw [if_pos hi]
      · rfl
    · rw [List.filter_cons_of_neg (p := fun p : Nat × α => f p.1) hi, ih]
      simp only [FMap.get]
      split
      · next h => rw [if_neg]; rintro rfl; exact hi h
      · rfl

end Sys2Proof

namespace Sys2Proof.Machine

/-! ### Errors of core storage (R448) -/

theorem mem_insertNat (n : Nat) (l : List Nat) : n ∈ insertNat n l := by
  induction l with
  | nil => exact List.mem_singleton_self n
  | cons m l ih =>
    unfold insertNat
    split
    · exact List.mem_cons_self ..
    · split
      · next h => subst h; exact List.mem_cons_self ..
      · exact List.mem_cons_of_mem _ ih

/-- A saturating counter counts up to its limit. -/
theorem satInc_eq_min (v lim : Nat) : satInc v lim = min lim (v + 1) := by
  unfold satInc; split <;> omega

/-- Marking a granule changes nothing but the marks. -/
theorem Core.spoil_only (c : Core) (unit : Byte) (addr : Nat) :
    ∃ b m o, c.spoil unit addr = { c with bad := b, maskBad := m, omBad := o } := by
  unfold Core.spoil
  split
  · exact ⟨_, _, _, rfl⟩
  · dsimp only
    split <;> exact ⟨_, _, _, rfl⟩
  · exact ⟨_, _, _, rfl⟩
  · exact ⟨_, _, _, rfl⟩
  · exact ⟨_, _, _, rfl⟩

/-- The granule of an error in the scratchpad is marked (log entry 53). -/
theorem Core.mem_bad_spoil_spad (c : Core) (addr : Nat) : (c.spadBase + addr % c.spadSize) / 16 ∈ (c.spoil 1 addr).bad :=
  mem_insertNat ..

/-- An error of a cache is corrected, and its line is read again. -/
theorem execSramEccError_cache (s : State) (k : Nat) {unit : Byte} (addr : Nat) (unc : Bool) (h : unit = 5 ∨ unit = 6) :
    exec (.sramEccError k unit addr unc) s = .next (s.setCore k (((s.core k).dropLine unit addr).countCorrected unit)) := by
  show execSramEccError k unit addr unc s = _
  unfold execSramEccError
  rw [if_pos (by simpa using h)]

/-- A corrected error of storage that is no cache. -/
theorem execSramEccError_corrected (s : State) (k : Nat) {unit : Byte} (addr : Nat) (h5 : unit ≠ 5) (h6 : unit ≠ 6) :
    exec (.sramEccError k unit addr false) s = .next (s.setCore k ((s.core k).countCorrected unit)) := by
  show execSramEccError k unit addr false s = _
  unfold execSramEccError
  rw [if_neg (by simpa using ⟨h5, h6⟩)]
  rfl

/-- A core after an uncorrectable error, and who is told of it. -/
def State.lostGranule (s : State) (k : Nat) (unit : Byte) (addr : Nat) : State :=
  (s.setCore k (((s.core k).spoil unit addr).countUncorrectable unit)).tell (.ecc k unit.toNat)

theorem State.sameRuns_lostGranule (s : State) (k : Nat) (unit : Byte) (addr : Nat) : s.SameRuns (s.lostGranule k unit addr) := by
  refine State.SameRuns.tell ?_ _
  obtain ⟨b, m, o, e⟩ := (s.core k).spoil_only unit addr
  rw [e]
  exact s.sameRuns_setCore k _ rfl rfl

/-- An uncorrectable error of storage that is no cache; one in control state ends the run. -/
theorem execSramEccError_lost (s : State) (k : Nat) {unit : Byte} (addr : Nat) (h5 : unit ≠ 5) (h6 : unit ≠ 6) :
    exec (.sramEccError k unit addr true) s =
      .next (if unit = 7 || unit = 8 then (s.lostGranule k unit addr).loseControl k else s.lostGranule k unit addr) := by
  show execSramEccError k unit addr true s = _
  unfold execSramEccError
  rw [if_neg (by simpa using ⟨h5, h6⟩)]
  rfl

/-- A core after an uncorrectable error in storage: it is counted, and nothing but marks has changed besides. -/
theorem State.core_lostGranule (s : State) (k : Nat) (unit : Byte) (addr : Nat) :
    ((s.lostGranule k unit addr).core k).eccUnc = min 65535 ((s.core k).eccUnc + 1)
      ∧ ((s.lostGranule k unit addr).core k).eccCorr = (s.core k).eccCorr
      ∧ ((s.lostGranule k unit addr).core k).eccUnit = unit.toNat
      ∧ ((s.lostGranule k unit addr).core k).sram = (s.core k).sram
      ∧ ((s.lostGranule k unit addr).core k).bad = ((s.core k).spoil unit addr).bad := by
  have hc : (s.lostGranule k unit addr).core k = ((s.core k).spoil unit addr).countUncorrectable unit := s.core_setCore_self k _
  obtain ⟨b, m, o, e⟩ := (s.core k).spoil_only unit addr
  rw [hc, e]
  exact ⟨satInc_eq_min .., rfl, rfl, rfl, rfl⟩

/-! ### The alarm (R468) -/

/-- A port whose keys the alarm has erased. -/
def Port.Wiped (x : Port) : Prop :=
  x.st0 = .empty ∧ x.st1 = .empty ∧ x.key0 = [] ∧ x.key1 = [] ∧ x.salt0 = 0 ∧ x.salt1 = 0 ∧ x.rx = RxKeys.reset

/-- Every port is wiped: the alarm wipes those that are listed, and one at reset holds no key. -/
theorem execSecurityAlarm_ends (s : State) :
    s.Ends .securityAlarm fun u =>
      u.alarm = true ∧ u.wrapKey = false ∧ u.notes = s.notes ++ [.alarm] ∧ u.cores = s.cores ∧ u.mem = s.mem
        ∧ ∀ p, (u.port p).Wiped := by
  refine ⟨_, rfl, rfl, rfl, rfl, rfl, rfl, fun p => ?_⟩
  refine FMap.get_of_all (P := Port.Wiped) ⟨rfl, rfl, rfl, rfl, rfl, rfl, rfl⟩ (fun q hq => ?_) p
  obtain ⟨x, -, rfl⟩ := List.mem_map.1 (List.mem_of_mem_filter hq)
  exact ⟨rfl, rfl, rfl, rfl, rfl, rfl, rfl⟩

/-! ### Boot and quotes (R467) -/

/-- Boot happens once. -/
theorem execRootOfTrustBoot_again (s : State) (image sig : List Byte) (h : s.verified = true ∨ s.bootFailed = true) :
    exec (.rootOfTrustBoot image sig) s = .next s := if_pos (by simpa using h)

/-- The first boot verifies the digest of its image. -/
theorem execRootOfTrustBoot_first (s : State) (image sig : List Byte) (hv : s.verified = false) (hf : s.bootFailed = false) :
    exec (.rootOfTrustBoot image sig) s =
      .next (if Config.sm2Verify (Config.sm3 image) sig
        then { s with verified := true, measure := Config.sm3 (s.measure ++ Config.sm3 image) }
        else { s with bootFailed := true }.tell .bootRefused) := if_neg (by simp [hv, hf])

theorem execAttestationQuote_eq (s : State) (nonce : List Byte) :
    exec (.attestationQuote nonce) s =
      .next (if s.alarm || !s.wrapKey then s else s.tell (.quote (Config.sm2Sign (nonce ++ s.measure)))) := rfl

/-! ### Package reset (R26, R469) -/

/-- Memory after package reset: far memory keeps its contents, near memory reads zero (log entry 54). -/
theorem get_farMemory (m : FMap Byte) (j : Nat) :
    FMap.get 0 (m.filter fun p => 8 ≤ homeOf p.1) j = if 8 * 2 ^ 41 ≤ j then FMap.get 0 m j else 0 := by
  rw [FMap.get_filter_keys 0 m (fun i => decide (8 ≤ homeOf i))]
  simp only [decide_eq_true_eq, homeOf, Nat.le_div_iff_mul_le (Nat.two_pow_pos 41)]

/-! ### The statement -/

/-- Settles O53: each step is its equation for the case at hand; an error in control state ends the run as a kill does, whatever
becomes of the other members of its job. -/
theorem errorsSecurityAndReset : Obligations.ErrorsSecurityAndReset := by
  unfold Obligations.ErrorsSecurityAndReset
  refine ⟨fun s k unit addr unc => ⟨?icache, ?dcache, ?corrected, ?lost, ?control⟩, execSecurityAlarm_ends,
    fun s image sig => ⟨?again, fun hv hf => ⟨?good, ?bad⟩⟩, fun s nonce => ⟨?quote, ?refused⟩, fun s => ?reset⟩
  case icache =>
    rintro rfl
    refine ⟨_, execSramEccError_cache s k addr unc (.inl rfl), ?_⟩
    simp only [State.core_setCore_self]
    exact ⟨⟨satInc_eq_min .., rfl, rfl⟩, rfl, rfl, rfl⟩
  case dcache =>
    rintro rfl
    refine ⟨_, execSramEccError_cache s k addr unc (.inr rfl), ?_⟩
    simp only [State.core_setCore_self]
    exact ⟨⟨satInc_eq_min .., rfl, rfl⟩, rfl, rfl, rfl⟩
  case corrected =>
    intro h5 h6
    refine ⟨_, execSramEccError_corrected s k addr h5 h6, ?_⟩
    simp only [State.core_setCore_self]
    exact ⟨⟨satInc_eq_min .., rfl, rfl⟩, rfl, rfl, rfl⟩
  case lost =>
    intro h
    have hne (n : Byte) (hn : 5 ≤ n.toNat) : unit ≠ n := by rintro rfl; omega
    refine ⟨_, execSramEccError_lost s k addr (hne 5 (by decide)) (hne 6 (by decide)), ?_⟩
    rw [if_neg (by simpa using ⟨hne 7 (by decide), hne 8 (by decide)⟩)]
    obtain ⟨hu, hc, hn, hs, hb⟩ := s.core_lostGranule k unit addr
    refine ⟨⟨hu, hc, hn⟩, rfl, rfl, hs, ?_⟩
    rintro rfl
    rw [hb]
    exact (s.core k).mem_bad_spoil_spad addr
  case control =>
    intro h r j ht hj
    have hne (n : Byte) (h7 : n ≠ 7) (h8 : n ≠ 8) : unit ≠ n := by rintro rfl; exact h.elim h7 h8
    refine ⟨_, execSramEccError_lost s k addr (hne 5 (by decide) (by decide)) (hne 6 (by decide) (by decide)), ?_⟩
    rw [if_pos (by simpa using h)]
    have same := s.sameRuns_lostGranule k unit addr
    exact State.loseControl_vacant _ k (((same.2 k).1).trans ht) ((same.jobOf k).trans hj)
  case again => exact fun h => ⟨s, execRootOfTrustBoot_again s image sig h, rfl⟩
  case good => exact fun hok => ⟨_, execRootOfTrustBoot_first s image sig hv hf, if_pos hok⟩
  case bad => exact fun hno => ⟨_, execRootOfTrustBoot_first s image sig hv hf, if_neg (by simp [hno])⟩
  case quote => exact fun ha hw => ⟨_, execAttestationQuote_eq s nonce, if_neg (by simp [ha, hw])⟩
  case refused => exact fun h => ⟨_, execAttestationQuote_eq s nonce, if_pos (by simpa using h)⟩
  case reset => exact ⟨_, rfl, get_farMemory s.mem, rfl, rfl, rfl, rfl, rfl, rfl, rfl⟩

end Sys2Proof.Machine
end

section
/-!
SUPPORT. Commands of a queue that fault at its head, and the entries that a queue gives up or hands on: what is found again after
a command is replaced, a malformed command (R112), and the start of a command (R206).
-/

namespace Sys2Proof.Machine

/-! ### Commands of a queue -/

theorem Engine.command_spec {x : Engine} {e : Eng} {n : Nat} {t : Entry} (h : x.command e n = some t) :
    t ∈ x.q ∧ t.isCommand e = true ∧ t.seq = n := by
  unfold Engine.command at h
  have hp := List.find?_some h
  simp only [Bool.and_eq_true, decide_eq_true_eq] at hp
  exact ⟨List.mem_of_find?_eq_some h, hp⟩

theorem Engine.exists_command {x : Engine} {e : Eng} {t : Entry} (hm : t ∈ x.q) (hc : t.isCommand e = true) :
    ∃ y, x.command e t.seq = some y :=
  Option.isSome_iff_exists.1 (List.find?_isSome.2 ⟨t, hm, by simp [hc]⟩)

/-- Whether an entry is a command lies in what was published, not in its progress. -/
theorem Entry.isCommand_congr {t u : Entry} {e : Eng} (hk : u.kind = t.kind) (hw : u.words = t.words) (hb : u.built = t.built) :
    u.isCommand e = t.isCommand e := by
  unfold Entry.isCommand Entry.control Entry.decodeFault
  rw [hk, hw, hb]

/-- A command that stands in a queue, replaced by another of its number, is found in its place. -/
theorem State.command_setCommand_of_mem (s : State) (k : Nat) (e : Eng) {t u : Entry} (hm : t ∈ ((s.core k).eng e).q)
    (hc : t.isCommand e = true) (hu : u.isCommand e = true) (hs : u.seq = t.seq) :
    (s.setCommand k e u).command k e t.seq = some u := by
  obtain ⟨y, hy⟩ := Engine.exists_command hm hc
  rw [← hs] at hy ⊢
  exact s.command_setCommand k e y u hy hu

/-- Replacing a command leaves the token counters and the pool of its core. -/
theorem State.core_setCommand_storage (s : State) (k : Nat) (e : Eng) (u : Entry) :
    ((s.setCommand k e u).core k).tk = (s.core k).tk ∧ ((s.setCommand k e u).core k).sram = (s.core k).sram := by
  unfold State.setCommand
  rw [State.core_setCore_self]
  exact ⟨Core.setEng_tk .., Core.setEng_sram ..⟩

/-! ### Malformed commands (R112) -/

/-- The command `t` is done with the cause of its fault, and nothing else has changed outside its queue. -/
def State.FaultedAtHead (s : State) (k : Nat) (e : Eng) (t : Entry) (cause : Byte) (u : State) : Prop :=
  u.command k e t.seq = some { t with fault := some (cause, 0), done := true }
    ∧ (∀ j, j ≠ k → u.core j = s.core j) ∧ u.mem = s.mem ∧ (u.core k).tk = (s.core k).tk ∧ (u.core k).sram = (s.core k).sram

theorem State.faultedAtHead_setCommand (s : State) (k : Nat) (e : Eng) (t : Entry) (cause : Byte) (h : s.command k e t.seq = some t) :
    s.FaultedAtHead k e t cause (s.setCommand k e { t with fault := some (cause, 0), done := true }) := by
  obtain ⟨hm, hc, -⟩ := Engine.command_spec h
  exact ⟨s.command_setCommand_of_mem k e hm hc ((Entry.isCommand_congr rfl rfl rfl).trans hc) rfl, fun j hj => State.setCommand_core_of_ne _ _ _ (Ne.symm hj), rfl,
    s.core_setCommand_storage k e _⟩

/-- `DECODE_FAULT` of a command at the head of a queue that runs. -/
theorem exec_decodeFault (s : State) (k : Nat) (e : Eng) (t : Entry) (cause : Byte) (h : s.command k e t.seq = some t)
    (hd : t.done = false) (hf : t.decodeFault e = some cause) (hs : (s.core k).stopped = false) (hx : ((s.core k).eng e).flt = false)
    (hl : ((s.core k).eng e).loads = []) (hh : (((s.core k).eng e).headCommand e).map Entry.seq = some t.seq) :
    exec (.decodeFault { core := k, seq := t.seq } e cause) s =
      .next (s.setCommand k e { t with fault := some (cause, 0), done := true }) := by
  show execDecodeFault { core := k, seq := t.seq } e cause s = _
  unfold State.command at h
  unfold execDecodeFault
  simp only [h, hd, hf, hs, hx, hl, hh]
  rw [if_neg (by simp)]

/-- A command at the head of its queue that fails the check of its fields is done at once (R112). -/
theorem State.runCommand_fails {s : State} {k : Nat} {e : Eng} {t : Entry} {c : Tmpl} (h : s.AtHead k e t c)
    {check : Core → Tmpl → Bool} (part : State → Who → Entry → Tmpl → Part) (hc : check (s.core k) c = false) :
    s.runCommand e { core := k, seq := t.seq } c true check part =
      s.setCommand k e { t with fault := some (badField, 0), done := true } := by
  obtain ⟨hcmd, hd, hst, hb, hf, hh, hsv, hsp, hx, hl, hsl, -, -⟩ := h
  have hstart : s.start k e t c check = .no (s.setCommand k e { t with fault := some (badField, 0), done := true }) := by
    unfold State.start
    simp [hb, hf, hh, hsv, hsp, hx, hl, hsl, hc]
  unfold State.runCommand
  simp [hcmd, hd, hst, hstart]

/-- The row of a command runs it, and the command fails its check: it is done with BAD_FIELD. -/
theorem State.AtHead.ends_badField {s : State} {k : Nat} {e : Eng} {t : Entry} {c : Tmpl} (h : s.AtHead k e t c) {i : Instr}
    {check : Core → Tmpl → Bool} {part : State → Who → Entry → Tmpl → Part} {mine : Bool} (hm : mine = true)
    (hi : exec i s = .next (s.runCommand e { core := k, seq := t.seq } c mine check part)) (hc : check (s.core k) c = false) :
    s.Ends i (s.FaultedAtHead k e t 3) := by
  subst hm
  exact ⟨_, hi.trans (congrArg _ (s.runCommand_fails h part hc)), s.faultedAtHead_setCommand k e t 3 h.1⟩

/-! ### The checks that refuse a command -/

/-- A `cp.amo` of a reserved type (R221). -/
theorem amoOk_reserved (k : Core) (c : Tmpl) (h : 6 ≤ fieldOf c 24 / 16 % 16) : amoOk k c = false := by
  have hty : decide (amoTy c ≤ 5) = false := decide_eq_false (by unfold amoTy; omega)
  unfold amoOk amoAllowed
  rw [hty]
  simp

theorem zeroOk_unbacked (k : Core) (c : Tmpl) (h : tilesBacked k c = false) : zeroOk k c = false := by
  unfold zeroOk; rw [h, Bool.and_false]

/-- A register beyond those that the pool backs (R24, R343). -/
theorem vBase_unbacked (k : Core) (c : Tmpl) {regs : List Nat} {r : Nat} (hr : r ∈ regs) (h : 32 * k.vru ≤ r) :
    vBase regs k c = false := by
  have hall : regs.all (fun r => decide (r < 32 * k.vru)) = false := List.all_eq_false.2 ⟨r, hr, by simpa using h⟩
  unfold vBase
  rw [hall, Bool.false_and]

/-- The rows of `cp.amo`, by operation. -/
theorem exec_amo (s : State) (w : CmdAt) (c : Tmpl) :
    ∀ p ∈ [(0, Instr.cpAmoAdd w c), (1, .cpAmoMin w c), (2, .cpAmoMax w c), (3, .cpAmoAnd w c), (4, .cpAmoOr w c), (5, .cpAmoXor w c),
      (6, .cpAmoXchg w c), (7, .cpAmoCas w c)], exec p.2 s = .next (s.amoCmd p.1 w c) := by
  simp only [List.forall_mem_cons]
  exact ⟨rfl, rfl, rfl, rfl, rfl, rfl, rfl, rfl, List.forall_mem_nil _⟩

/-- The rows of the scatter-accumulate engine, by operation code. -/
theorem exec_sa (s : State) (w : CmdAt) (c : Tmpl) :
    ∀ p ∈ [(1, Instr.saAdd w c), (2, .saMin w c), (3, .saMax w c), (4, .saAnd w c), (5, .saOr w c), (6, .saXchg w c)],
      exec p.2 s = s.runSa w c p.1 := by
  simp only [List.forall_mem_cons]
  exact ⟨rfl, rfl, rfl, rfl, rfl, rfl, List.forall_mem_nil _⟩

/-- The arithmetic rows of the vector engine, by operation code: they check two sources and VD, or three. -/
theorem exec_vArith (s : State) (w : CmdAt) (c : Tmpl) :
    ∀ p ∈ [(0x07, Instr.vAdd w c), (0x08, .vSub w c), (0x09, .vMul w c), (0x0A, .vFma w c), (0x0C, .vMin w c), (0x0D, .vMax w c)],
      ∃ check part, (check = vOk2 ∨ check = vOk3)
        ∧ exec p.2 s = .next (s.runCommand .ve w c (opCode c = p.1) check part) := by
  simp only [List.forall_mem_cons]
  exact ⟨⟨vOk2, _, .inl rfl, rfl⟩, ⟨vOk2, _, .inl rfl, rfl⟩, ⟨vOk2, _, .inl rfl, rfl⟩, ⟨vOk3, _, .inr rfl, rfl⟩,
    ⟨vOk2, _, .inl rfl, rfl⟩, ⟨vOk2, _, .inl rfl, rfl⟩, List.forall_mem_nil _⟩

/-- Both checks refuse a command of which VD, VA or VB is not backed (R24). -/
theorem vOk_unbacked {check : Core → Tmpl → Bool} (hc : check = vOk2 ∨ check = vOk3) (k : Core) (c : Tmpl)
    (h : ∃ r ∈ [vVD c, vVA c, vVB c], 32 * k.vru ≤ r) : check k c = false := by
  obtain ⟨r, hr, hb⟩ := h
  rcases hc with rfl | rfl
  · exact vBase_unbacked k c hr hb
  · exact vBase_unbacked k c (List.mem_append_left [vVC c] hr) hb

/-- Whatever command of the statement's rows stands malformed at the head of its queue is done there with BAD_FIELD. -/
theorem State.AtHead.malformed {s : State} {k : Nat} {e : Eng} {t : Entry} {c : Tmpl} (h : s.AtHead k e t c) :
    let w : CmdAt := { core := k, seq := t.seq }
    let faults := s.FaultedAtHead k e t 3
    (e = .ce → 6 ≤ fieldOf c 24 / 16 % 16 →
      ∀ p ∈ [(0, Instr.cpAmoAdd w c), (1, .cpAmoMin w c), (2, .cpAmoMax w c), (3, .cpAmoAnd w c), (4, .cpAmoOr w c), (5, .cpAmoXor w c),
          (6, .cpAmoXchg w c), (7, .cpAmoCas w c)],
        opCode c = 6 → fieldOf c 24 % 16 = p.1 → s.Ends p.2 faults)
    ∧ (e = .me → opCode c = 3 → tilesBacked (s.core k) c = false → s.Ends (.mxZero w c) faults)
    ∧ (e = .ve → (∃ r ∈ [vVD c, vVA c, vVB c], 32 * (s.core k).vru ≤ r) →
      ∀ p ∈ [(0x07, Instr.vAdd w c), (0x08, .vSub w c), (0x09, .vMul w c), (0x0A, .vFma w c), (0x0C, .vMin w c), (0x0D, .vMax w c)],
        opCode c = p.1 → s.Ends p.2 faults)
    ∧ (e = .sae → saOk (s.core k) c = false →
      ∀ p ∈ [(1, Instr.saAdd w c), (2, .saMin w c), (3, .saMax w c), (4, .saAnd w c), (5, .saOr w c), (6, .saXchg w c)],
        opCode c = p.1 → s.Ends p.2 faults) := by
  refine ⟨?amo, ?zero, ?vec, ?sa⟩
  case amo =>
    rintro rfl hty p hp hop hn
    refine h.ends_badField ?_ (exec_amo s _ c p hp) (amoOk_reserved _ c hty)
    have hn : amoOp c = p.1 := hn
    simp [hop, hn]
  case zero =>
    rintro rfl hop hb
    exact h.ends_badField (decide_eq_true hop) rfl (zeroOk_unbacked _ c hb)
  case vec =>
    rintro rfl hr p hp hop
    obtain ⟨check, part, hcheck, hi⟩ := exec_vArith s _ c p hp
    exact h.ends_badField (decide_eq_true hop) hi (vOk_unbacked hcheck _ c hr)
  case sa =>
    rintro rfl hok p hp hop
    exact h.ends_badField (decide_eq_true hop) (exec_sa s _ c p hp) hok

end Sys2Proof.Machine
end

section
/-!
Markers and chain control (R116, R208), stealing and suspension (R58, R210), and gates (R465).
-/

namespace Sys2Proof.Machine

/-! ### Markers and chain control -/

/-- What the retirement of a marker waits for (R208, R212, R364). -/
theorem State.markerReady_iff (s : State) (k : Nat) (e : Eng) (hs : (s.core k).stopped = false) :
    s.markerReady k e = true ↔ ((s.core k).eng e).flt = false ∧ ∀ w ∈ s.laneAfter k e, s.performed k .core w = true := by
  unfold State.markerReady
  simp [hs]

theorem State.markerReady_eq_false (s : State) (k : Nat) (e : Eng) (hs : (s.core k).stopped = false)
    (h : ((s.core k).eng e).flt = true ∨ ¬∀ w ∈ s.laneAfter k e, s.performed k .core w = true) : s.markerReady k e = false := by
  rw [← Bool.not_eq_true, s.markerReady_iff k e hs]
  rintro ⟨hf, hp⟩
  rcases h with h | h
  · rw [hf] at h; exact absurd h (by decide)
  · exact h hp

/-- The head of a queue is gone. -/
theorem Engine.popHead_cons {x : Engine} {t : Entry} {q : List Entry} (h : x.q = t :: q) : x.popHead = { x with q := q } := by
  unfold Engine.popHead; rw [h]; rfl

/-- A number that retires is DONE where it is the next one and none above it has retired (R201). -/
theorem Engine.retireSeq_next (x : Engine) (n : Nat) (hr : x.retired = []) (hn : n = x.done + 1) : (x.retireSeq n).done = n := by
  unfold Engine.retireSeq
  simp [hr, hn]

/-- A field of a command is a 16-bit number. -/
theorem fieldOf_lt (c : Tmpl) (i : Nat) : fieldOf c i < 65536 := BitVec.isLt _

/-- A marker at the head of its queue: it retires where it is ready. -/
theorem exec_markerRetire (s : State) (k : Nat) (e : Eng) {t : Entry} {q : List Entry} {n : Nat}
    (hq : ((s.core k).eng e).q = t :: q) (ht : t.kind = .qmark n) :
    exec (.markerRetire k e) s = .next (if s.markerReady k e
      then (s.setCore k ((s.core k).setEng e { (s.core k).eng e with q := q, mkr := n % 65536, mkv := true })).markRelease k .core
      else s) := by
  show execMarkerRetire k e s = _
  unfold execMarkerRetire
  simp only [hq, ht, Engine.popHead_cons hq]
  split <;> rfl

/-- A chain-control command at the head of its queue: it is gone where the queue is not halted, and where what it waits for is
performed. -/
theorem State.control_head (s : State) (k : Nat) (e : Eng) {t : Entry} {q : List Entry} {c : Tmpl}
    (hq : ((s.core k).eng e).q = t :: q) (hh : (s.core k).headControl t.seq c = some e) (hs : (s.core k).stopped = false)
    (rel : Bool) (f : Engine → Engine) :
    s.control { core := k, seq := t.seq } c rel f =
      if ((s.core k).eng e).flt || (rel && !s.markerReady k e) then s
      else
        let u := s.setCore k ((s.core k).setEng e (f { (s.core k).eng e with q := q }))
        if rel then u.markRelease k .core else u := by
  unfold State.control
  simp only [hh, hs, Engine.popHead_cons hq, Bool.or_false]

/-- A `ch.nop` or `ch.link` leaves a queue that is not halted. -/
theorem State.control_unmarked (s : State) (k : Nat) (e : Eng) {t : Entry} {q : List Entry} {c : Tmpl}
    (hq : ((s.core k).eng e).q = t :: q) (hh : (s.core k).headControl t.seq c = some e) (hs : (s.core k).stopped = false) :
    s.control { core := k, seq := t.seq } c false id =
      if ((s.core k).eng e).flt = true then s else s.setCore k ((s.core k).setEng e { (s.core k).eng e with q := q }) := by
  rw [s.control_head k e hq hh hs]
  simp only [Bool.false_and, Bool.or_false, id_eq, Bool.false_eq_true, if_false]

/-- A `ch.mark` retires as a marker, and with its number. -/
theorem exec_chMark_ready (s : State) (k : Nat) (e : Eng) {t : Entry} {q : List Entry} {c : Tmpl}
    (hq : ((s.core k).eng e).q = t :: q) (hh : (s.core k).headControl t.seq c = some e) (hs : (s.core k).stopped = false)
    (hf : ((s.core k).eng e).flt = false) (hp : ∀ w ∈ s.laneAfter k e, s.performed k .core w = true) :
    let x := (s.core k).eng e
    s.Ends (.chMark { core := k, seq := t.seq } c) fun u => ∃ d r,
      u = (s.setCore k ((s.core k).setEng e { x with q := q, mkr := fieldOf c 24, mkv := true, done := d, retired := r })).markRelease k .core
        ∧ (x.retired = [] → t.seq = x.done + 1 → d = t.seq) := by
  intro x
  have hready := (s.markerReady_iff k e hs).2 ⟨hf, hp⟩
  refine ⟨_, rfl, (x.retireSeq t.seq).done, (x.retireSeq t.seq).retired, ?_, x.retireSeq_next t.seq⟩
  rw [s.control_head k e hq hh hs, if_neg (by simp [hf, hready])]
  have hm : ({ x with q := q } : Engine).setMark (fieldOf c 24) = { x with q := q, mkr := fieldOf c 24, mkv := true } := by
    unfold Engine.setMark
    rw [Nat.mod_eq_of_lt (fieldOf_lt c 24)]
  show (s.setCore k ((s.core k).setEng e ((({ x with q := q } : Engine).setMark (fieldOf c 24)).retireSeq t.seq))).markRelease k .core = _
  rw [hm]
  rfl

theorem exec_chMark_waits (s : State) (k : Nat) (e : Eng) {t : Entry} {q : List Entry} {c : Tmpl}
    (hq : ((s.core k).eng e).q = t :: q) (hh : (s.core k).headControl t.seq c = some e) (hs : (s.core k).stopped = false)
    (h : ((s.core k).eng e).flt = true ∨ ¬∀ w ∈ s.laneAfter k e, s.performed k .core w = true) :
    exec (.chMark { core := k, seq := t.seq } c) s = .next s := by
  show Host.Outcome.next (s.control { core := k, seq := t.seq } c true _) = _
  rw [s.control_head k e hq hh hs, s.markerReady_eq_false k e hs h, if_pos (by simp)]

/-! ### The start of a stolen command (R205, R210) -/

/-- Nothing that a queue's progress rests on has changed: memory, time, every other core, and the engines of core `k`. -/
def State.KeepsQueues (s t : State) (k : Nat) : Prop :=
  t.mem = s.mem ∧ t.tb = s.tb ∧ (∀ j, j ≠ k → t.core j = s.core j) ∧ (∀ f, (t.core k).eng f = (s.core k).eng f)
    ∧ (t.core k).nomerge = (s.core k).nomerge

theorem State.KeepsQueues.refl (s : State) (k : Nat) : s.KeepsQueues s k := ⟨rfl, rfl, fun _ _ => rfl, fun _ => rfl, rfl⟩

theorem State.KeepsQueues.trans {s t u : State} {k : Nat} (h : s.KeepsQueues t k) (g : t.KeepsQueues u k) : s.KeepsQueues u k := by
  obtain ⟨hm, hb, hc, he, hn⟩ := h
  obtain ⟨gm, gb, gc, ge, gn⟩ := g
  exact ⟨gm.trans hm, gb.trans hb, fun j hj => (gc j hj).trans (hc j hj), fun f => (ge f).trans (he f), gn.trans hn⟩

theorem State.keepsQueues_setCore (s : State) (k : Nat) (c : Core) (he : ∀ f, c.eng f = (s.core k).eng f)
    (hn : c.nomerge = (s.core k).nomerge) : s.KeepsQueues (s.setCore k c) k := by
  refine ⟨rfl, rfl, fun j hj => s.core_setCore_of_ne c (Ne.symm hj), fun f => ?_, ?_⟩
  · rw [State.core_setCore_self]; exact he f
  · rw [State.core_setCore_self]; exact hn

/-- The token counters have not changed either. -/
def State.KeepsTokens (s t : State) (k : Nat) : Prop := s.KeepsQueues t k ∧ (t.core k).tk = (s.core k).tk

theorem State.KeepsTokens.refl (s : State) (k : Nat) : s.KeepsTokens s k := ⟨.refl s k, rfl⟩

theorem State.KeepsTokens.ite {s t : State} {k : Nat} (h : s.KeepsTokens t k) (b : Bool) :
    s.KeepsTokens (if b then t else s) k := by
  cases b
  · exact .refl s k
  · exact h

/-- An acquire empties the scalar data cache of its core at most. -/
theorem State.acquire_keeps (s : State) (k : Nat) (sc : Scope) :
    s.KeepsTokens (s.acquire k sc) k := by
  have hcore (n : Nat) (f : Eng) : ({ s.core k with dcache := [], acqSeen := n } : Core).eng f = (s.core k).eng f := by
    unfold Core.eng
    cases f <;> rfl
  have hacqs (n : Nat) : s.KeepsQueues { s with acqs := s.acqs.put 0 (quadOf k) n } k := .refl s k
  unfold State.acquire
  dsimp only
  split
  · refine ⟨(hacqs _).trans (State.keepsQueues_setCore _ k _ (hcore _) rfl), ?_⟩
    rw [State.core_setCore_self]
  · split
    · refine ⟨State.keepsQueues_setCore _ k _ (hcore _) rfl, ?_⟩
      rw [State.core_setCore_self]
    · exact .refl s k

/-- A delivery changes a context of its core. -/
theorem State.deliver_keeps (s : State) (k : Nat) (fw : Bool) (r : Reg) (v : W64) (m : Option Mark) :
    s.KeepsTokens (s.deliver k fw r v m) k := by
  unfold State.deliver State.setCtx
  refine ⟨s.keepsQueues_setCore k _ (fun f => Core.eng_setCtx ..) (Core.setCtx_nomerge ..), ?_⟩
  rw [State.core_setCore_self]
  exact Core.setCtx_tk ..

theorem Core.holdSlot_only (x : Core) (e : Eng) (c : Tmpl) (n p : Nat) : ∃ m, x.holdSlot e c n p = { x with bmap := m } := by
  unfold Core.holdSlot
  split
  · exact ⟨x.bmap, rfl⟩
  · exact ⟨_, rfl⟩

/-- Taking a WAIT lowers its counter, and holding a bitmap slot changes the bitmap alone. -/
theorem Core.take_holdSlot (x : Core) (e : Eng) (c : Tmpl) (n p : Nat) :
    (∀ f, ((x.take c).holdSlot e c n p).eng f = x.eng f) ∧ ((x.take c).holdSlot e c n p).nomerge = x.nomerge
      ∧ ((x.take c).holdSlot e c n p).tk = x.tk.put 0 (waitOf c).1 (x.tk.get 0 (waitOf c).1 - (waitOf c).2) := by
  obtain ⟨m, h⟩ := (x.take c).holdSlot_only e c n p
  rw [h]
  refine ⟨fun f => ?_, rfl, rfl⟩
  unfold Core.eng
  cases f <;> rfl

/-- The state in whose queue the entry of a starting command changes (R205, R206, R216, R217): its WAIT is taken, by an acquire where
the signals were wide, its bitmap slot is held, and its promise is delivered. -/
def State.paid (s : State) (k : Nat) (e : Eng) (t : Entry) (c : Tmpl) (u : Option OwnUse) : State :=
  let p := promiseTick s c u
  let prom := e = .ce && opCode c ≠ 6 && t.promOn
  let a := if (waitOf c).2 ≠ 0 && (s.core k).tkWide.get false (waitOf c).1 then s.acquire k .die else s
  let b := a.setCore k (((a.core k).take c).holdSlot e c t.seq (if prom then p else 0))
  if prom then b.deliver k t.fw t.prom (BitVec.ofNat 64 p) none else b

/-- Paying lowers the counter of the WAIT, and changes nothing else of a queue. -/
theorem State.paid_keeps (s : State) (k : Nat) (e : Eng) (t : Entry) (c : Tmpl) (u : Option OwnUse) :
    s.KeepsQueues (s.paid k e t c u) k
      ∧ ((s.paid k e t c u).core k).tk = (s.core k).tk.put 0 (waitOf c).1 ((s.core k).tk.get 0 (waitOf c).1 - (waitOf c).2) := by
  unfold State.paid
  dsimp only
  generalize (e = Eng.ce && opCode c ≠ 6 && t.promOn : Bool) = prom
  generalize ((waitOf c).2 ≠ 0 && (s.core k).tkWide.get false (waitOf c).1 : Bool) = wide
  obtain ⟨ha, hatk⟩ := (s.acquire_keeps k .die).ite wide
  generalize (if wide then s.acquire k .die else s) = a at ha hatk ⊢
  obtain ⟨he, hn, htk⟩ := (a.core k).take_holdSlot e c t.seq (if prom then promiseTick s c u else 0)
  generalize ((a.core k).take c).holdSlot e c t.seq _ = x at he hn htk ⊢
  obtain ⟨hd, hdtk⟩ := ((a.setCore k x).deliver_keeps k t.fw t.prom (BitVec.ofNat 64 (promiseTick s c u)) none).ite prom
  refine ⟨(ha.trans (a.keepsQueues_setCore k x he hn)).trans hd, ?_⟩
  rw [hdtk, State.core_setCore_self, htk, hatk]

/-- A command that starts, with its entry as it stands then. -/
theorem State.begin_go (s : State) (k : Nat) (e : Eng) (t : Entry) (c : Tmpl) (u : Option OwnUse) :
    let t1 := { t with started := some s.tb, pos := if e = .sae then (if (s.core k).nomerge then 2 else 1) else t.pos }
    s.begin k e t c u = .go ((s.paid k e t c u).setCommand k e t1) t1 := by
  obtain ⟨-, htb, -, -, hn⟩ := (s.paid_keeps k e t c u).1
  intro t1
  have h : s.begin k e t c u =
      (let b := s.paid k e t c u
       let t2 := { t with started := some b.tb, pos := if e = .sae then (if (b.core k).nomerge then 2 else 1) else t.pos }
       .go (b.setCommand k e t2) t2) := rfl
  rw [h]
  dsimp only
  rw [htb, hn]

/-! ### Stealing (R210) -/

/-- What a thief takes is a command of its owner's queue. -/
theorem State.stealNext_spec {s : State} {o : Nat} {e : Eng} {t : Entry} (h : s.stealNext o e = some t) :
    t ∈ ((s.core o).eng e).q ∧ t.isCommand e = true := by
  have hmem (l : List Entry) (hl : ((s.core o).eng e).q.filter (fun t => t.isCommand e && t.thief.isNone) = l) (ht : t ∈ l) :
      t ∈ ((s.core o).eng e).q ∧ t.isCommand e = true := by
    obtain ⟨hq, hp⟩ := List.mem_filter.1 (hl ▸ ht)
    exact ⟨hq, (Bool.and_eq_true_iff.1 hp).1⟩
  unfold State.stealNext at h
  split at h
  · cases h
  · next y r hl =>
    split at h
    · exact hmem _ hl (List.mem_cons_of_mem _ (List.mem_of_mem_head? h))
    · split at h
      · cases h; exact hmem _ hl (List.mem_cons_self ..)
      · cases h

/-- A command that may be stolen starts on a thief whose engine is awake. -/
theorem exec_steal (s : State) (thief owner : Nat) (e : Eng) (t : Entry) (c : Tmpl) (hn : s.stealNext owner e = some t)
    (hb : t.built = some c) (hm : s.mayThieve thief owner e c = true) (hs : s.mayBeStolen owner e t c = true)
    (hg : ((s.core thief).eng e).gate = .awake) :
    exec (.steal thief owner e t.seq) s =
      .next ((s.paid owner e { t with thief := some thief } c none).setCommand owner e
        { t with thief := some thief, started := some s.tb, pos := if e = .sae then (if (s.core owner).nomerge then 2 else 1) else t.pos }) := by
  show execSteal thief owner e t.seq s = _
  unfold execSteal
  simp only [hn, hb, hm, hs, hg, State.begin_go]
  rw [if_neg (by simp), if_neg (by simp)]

/-! ### Suspension (R58) -/

/-- The walk-in that an engine runs is a command of its owner's queue. -/
theorem State.runningWalk_spec {s : State} {k o : Nat} {e : Eng} {t : Entry} (h : s.runningWalk k e = some (o, t)) :
    t ∈ ((s.core o).eng e).q ∧ t.isCommand e = true := by
  unfold State.runningWalk at h
  obtain ⟨p, -, hp⟩ := List.exists_of_findSome?_eq_some h
  obtain ⟨y, hy, he⟩ := Option.map_eq_some_iff.1 hp
  cases he
  have hc := List.find?_some hy
  simp only [Bool.and_eq_true] at hc
  exact ⟨List.mem_of_find?_eq_some hy, hc.1.1.1.1⟩

theorem exec_walkinSuspend (s : State) (k o : Nat) (e : Eng) (t : Entry) (h : s.runningWalk k e = some (o, t)) :
    exec (.walkinSuspend k e) s =
      .next (if calendared e && t.since = 0 && !(s.cal (engCal e k)).poisoned && !s.freeUntil e k s.tb
        then s.setCommand o e { t with susp := true } else s) := by
  show execWalkinSuspend k e s = _
  unfold execWalkinSuspend
  rw [h]
  dsimp only
  split <;> rfl

/-! ### Gates (R465) -/

theorem exec_engineGate (s : State) (k : Nat) (e : Eng) :
    exec (.engineGate k e) s =
      .next (if ((s.core k).eng e).gate = .awake && !s.busy k e && decide (((s.core k).eng e).idleFrom + 1024 ≤ s.tb)
        then s.setCore k ((s.core k).setEng e { (s.core k).eng e with gate := .gated }) else s) := by
  show execEngineGate k e s = _
  unfold execEngineGate
  dsimp only
  split <;> rfl

theorem exec_ungateComplete (s : State) (k : Nat) (e : Eng) {t : Nat} (hg : ((s.core k).eng e).gate = .ungating t) (ht : t ≤ s.tb) :
    exec (.ungateComplete k e) s =
      .next (s.setCore k ((s.core k).setEng e { (s.core k).eng e with gate := .awake, idleFrom := s.tb })) := by
  show execUngateComplete k e s = _
  unfold execUngateComplete
  simp only [hg, if_pos ht]

theorem exec_preBerthUngate (s : State) (k : Nat) (e : Eng) {i : Nat} {r : Row} (hc : calendared e = true) (hi : i ≤ 2)
    (hr : (s.cal (engCal e k)).row (s.berth + i) = some r) (hb : r.st = .booked) (hg : ((s.core k).eng e).gate = .gated) :
    exec (.preBerthUngate k e) s =
      .next (s.setCore k ((s.core k).setEng e { (s.core k).eng e with gate := .ungating (s.tb + if e = .me then 256 else 64) })) := by
  have hbooked : ([0, 1, 2].any fun i =>
      match (s.cal (engCal e k)).row (s.berth + i) with
      | some r => decide (r.st = .booked)
      | none => false) = true :=
    List.any_eq_true.2 ⟨i, by simp; omega, by rw [hr]; exact decide_eq_true hb⟩
  have hwake : ((s.core k).eng e).wakeUp s.tb e = { (s.core k).eng e with gate := .ungating (s.tb + if e = .me then 256 else 64) } := by
    unfold Engine.wakeUp
    rw [hg]
    rfl
  show execPreBerthUngate k e s = _
  unfold execPreBerthUngate
  rw [← hwake, hc]
  exact if_pos hbooked

/-! ### The statement -/

/-- Settles O32: a step of the hardware is its equation for the case at hand, and a command that is replaced is found again in its
place. -/
theorem faultsMarkersAndGates : Obligations.FaultsMarkersAndGates := by
  unfold Obligations.FaultsMarkersAndGates
  refine ⟨⟨?decode, fun s k e t c h => h.malformed⟩, ⟨?marker, ?control⟩, ?steal, ?suspend, ?gate⟩
  case decode =>
    intro s k e t cause x hcmd hd hf hs hx hl hh
    exact ⟨_, exec_decodeFault s k e t cause hcmd hd hf hs hx hl hh, s.faultedAtHead_setCommand k e t cause hcmd⟩
  case marker =>
    intro s k e t q n x hq ht hs performed
    refine ⟨fun hf hp => ⟨_, exec_markerRetire s k e hq ht, ?_⟩, fun h => ⟨_, exec_markerRetire s k e hq ht, ?_⟩⟩
    · rw [(s.markerReady_iff k e hs).2 ⟨hf, hp⟩]; rfl
    · rw [s.markerReady_eq_false k e hs h]; rfl
  case control =>
    intro s k e t q c x hq hh hs w performed
    have hnop : exec (.chNop w c) s = .next _ := congrArg Host.Outcome.next (s.control_unmarked k e hq hh hs)
    have hlink : exec (.chLink w c) s = .next _ := congrArg Host.Outcome.next (s.control_unmarked k e hq hh hs)
    refine ⟨fun hf => ⟨_, hnop, if_neg (ne_true_of_eq_false hf)⟩, fun hf => ⟨_, hlink, if_neg (ne_true_of_eq_false hf)⟩,
      exec_chMark_ready s k e hq hh hs, fun h => ⟨_, exec_chMark_waits s k e hq hh hs h, rfl⟩, fun hf => ?_⟩
    simp only [List.forall_mem_cons]
    exact ⟨⟨_, hnop, if_pos hf⟩, ⟨_, hlink, if_pos hf⟩, List.forall_mem_nil _⟩
  case steal =>
    intro s thief owner e t c hn hb hm hs hg
    obtain ⟨hq, hc⟩ := State.stealNext_spec hn
    obtain ⟨⟨hmem, -, hother, heng, -⟩, htk⟩ := s.paid_keeps owner e { t with thief := some thief } c none
    refine ⟨_, exec_steal s thief owner e t c hn hb hm hs hg, ?_, fun n => ?_, fun j hj => ?_, hmem⟩
    · exact State.command_setCommand_of_mem _ owner e (by rw [heng]; exact hq) hc ((Entry.isCommand_congr rfl rfl rfl).trans hc) rfl
    · rw [(State.core_setCommand_storage _ owner e _).1, htk, FMap.get_put]
      by_cases hk : n = fieldOf c 29 / 2048
      · simp [hk, waitOf]
      · simp [hk, Ne.symm hk, waitOf]
    · rw [State.setCommand_core_of_ne _ e _ (Ne.symm hj)]; exact hother j hj
  case suspend =>
    intro s k o e t h
    obtain ⟨hq, hc⟩ := State.runningWalk_spec h
    refine ⟨fun hcal hs hf hp => ?_, fun hstay => ⟨_, exec_walkinSuspend s k o e t h, if_neg ?_⟩⟩
    · have hrun := exec_walkinSuspend s k o e t h
      rw [if_pos (by simp [hcal, hs, hf, hp])] at hrun
      exact ⟨_, hrun, s.command_setCommand_of_mem o e hq hc ((Entry.isCommand_congr rfl rfl rfl).trans hc) rfl, rfl,
        fun j hj => State.setCommand_core_of_ne _ _ _ (Ne.symm hj)⟩
    · rcases hstay with hf | hp
      · simp [hf]
      · simp [hp]
  case gate =>
    intro s k e x gated
    refine ⟨fun hg hb hi => ⟨_, exec_engineGate s k e, if_pos (by simp [x, hg, hb, hi])⟩,
      fun hg h => ⟨_, exec_engineGate s k e, if_neg ?_⟩,
      fun t hg ht => ⟨_, exec_ungateComplete s k e hg ht, rfl⟩,
      fun i r hc hi hr hb hg => ⟨_, exec_preBerthUngate s k e hc hi hr hb hg, rfl⟩⟩
    rcases h with hb | hi
    · simp [hb]
    · simp [x, Nat.not_le.2 hi]

end Sys2Proof.Machine
end
section
/-!
SUPPORT. Memory of an address space as firmware and the launch unit reach it (R35, R461): the fields that are read there, the state
in which an access that is answered leaves the package, and what a write changes.
-/

namespace Sys2Proof.Machine

/-! ### Fields of bytes -/

theorem leNat_lt (bs : List Byte) : leNat bs < 256 ^ bs.length := by
  induction bs with
  | nil => simp [leNat]
  | cons b bs ih =>
    have hb : b.toNat < 256 := b.isLt
    rw [leNat, List.length_cons, Nat.pow_succ]
    omega

theorem field_lt (bs : List Byte) (o n : Nat) : field bs o n < 256 ^ n :=
  Nat.lt_of_lt_of_le (leNat_lt _) (Nat.pow_le_pow_right (by omega) (List.length_take_le ..))

/-- KIND stands in the top four bits of HDR (R38). -/
theorem nbits_kind (bs : List Byte) : nbits (field bs 0 8) 63 60 = field bs 0 8 / 2 ^ 60 := by
  have h := field_lt bs 0 8
  unfold nbits
  omega

/-! ### Answers -/

@[simp] theorem State.answer_mem (s : State) (opc : Nat) (p : Packet) (arg : W64) (data : List Byte) :
    (s.answer opc p arg data).mem = s.mem := State.send_mem ..

@[simp] theorem State.answer_lq (s : State) (opc : Nat) (p : Packet) (arg : W64) (data : List Byte) (q : Nat) :
    (s.answer opc p arg data).lq q = s.lq q := by
  unfold State.answer State.lq; rw [State.send_lqs]

@[simp] theorem State.dropAs_mem (s : State) (n : Nat) : (s.dropAs n).mem = s.mem := rfl
@[simp] theorem State.dropAs_lq (s : State) (n q : Nat) : (s.dropAs n).lq q = s.lq q := rfl
@[simp] theorem State.stopQueue_mem (s : State) (q err : Nat) : (s.stopQueue q err).mem = s.mem := rfl

/-- A queue that stops keeps its addresses, and names its error (R35). -/
@[simp] theorem State.stopQueue_lq_self (s : State) (q err : Nat) :
    (s.stopQueue q err).lq q = { s.lq q with err := err, stop := true } := s.lq_setLq_self q _

theorem State.stopQueue_lq_of_ne (s : State) {q r : Nat} (err : Nat) (h : q ≠ r) : (s.stopQueue q err).lq r = s.lq r := by
  show (s.setLq q { s.lq q with err := err, stop := true }).lq r = _
  rw [State.lq_setLq, if_neg h]

end Sys2Proof.Machine
end

section
/-!
Remote enqueue, count fences and the time base as packets and time-outs (R37, R405, R411 to R417).
-/

namespace Sys2Proof.Machine

/-! ### Remote enqueue (R37, R411, R412) -/

/-- The card at an address of an address space, where one follows a LINK card there the address it names (R37). -/
def State.FollowsTo (s : State) (asn : Nat) (va w : VAddr) : Prop :=
  ∃ bs, s.asRead asn va 128 = .ok bs ∧ w = if field bs 0 8 / 2 ^ 60 = 2 then BitVec.ofNat 72 (field bs 0x10 9) else va

theorem State.followLink_eq {s : State} {asn : Nat} {va w : VAddr} (h : s.FollowsTo asn va w) (k : VAddr → ERes Nat) :
    s.followLink asn va k = k w := by
  obtain ⟨bs, hr, rfl⟩ := h
  unfold State.followLink
  simp only [hr, nbits_kind]

theorem State.enqueue_owner {s : State} {q : Nat} (h : (s.lq q).owner = false ∨ (s.lq q).en = false) (card : List Byte) :
    s.enqueue q card = .ok s 3 := if_pos (by simpa using h)

section Ring

variable {s : State} {q : Nat} {slot head next : VAddr} (ho : (s.lq q).owner = true) (he : (s.lq q).en = true)
  (hslot : s.FollowsTo (s.lq q).asn (s.lq q).tail slot) (hhead : s.FollowsTo (s.lq q).asn (s.lq q).head head)
  (hnext : s.FollowsTo (s.lq q).asn (slot + 128) next)

include ho he hslot hhead hnext

/-- The tail would come to the head: the ring is full (R37). -/
theorem State.enqueue_full (hf : next = head) (card : List Byte) : s.enqueue q card = .ok s 2 := by
  unfold State.enqueue
  simp only [ho, he, State.followLink_eq hslot, State.followLink_eq hhead, State.followLink_eq hnext, hf]
  rfl

theorem State.enqueue_accepted (hf : next ≠ head) {card : List Byte} {t : State} (hw : s.asWrite none (s.lq q).asn 0 slot card = .ok t) :
    s.enqueue q card = .ok (t.setLq q { s.lq q with tail := next }) 1 := by
  unfold State.enqueue
  simp only [ho, he, State.followLink_eq hslot, State.followLink_eq hhead, State.followLink_eq hnext, hw, if_neg hf]
  rfl

theorem State.enqueue_waits (hf : next ≠ head) {card : List Byte} {t : State} (hw : s.asWrite none (s.lq q).asn 0 slot card = .wait t) :
    s.enqueue q card = .wait t := by
  unfold State.enqueue
  simp only [ho, he, State.followLink_eq hslot, State.followLink_eq hhead, State.followLink_eq hnext, hw, if_neg hf]
  rfl

theorem State.enqueue_fails (hf : next ≠ head) {card : List Byte} (hw : s.asWrite none (s.lq q).asn 0 slot card = .fail) :
    s.enqueue q card = eFault s fPage slot := by
  unfold State.enqueue
  simp only [ho, he, State.followLink_eq hslot, State.followLink_eq hhead, State.followLink_eq hnext, hw, if_neg hf]
  rfl

end Ring

/-- An enqueue with a status is answered with it. -/
theorem exec_renq_answers {s x t : State} {p : Packet} {st : Nat} (h : s.Got 8 p x)
    (he : x.enqueue (p.arg.toNat % 64) p.data = .ok t st) :
    exec (.renq p) s = .next ((t.dropAs 128).answer 9 p (BitVec.ofNat 64 (st * 2 ^ 60)) []) := by
  refine congrArg Host.Outcome.next ((State.receive_got h _).trans ?_)
  simp only [he]

theorem exec_renq_waits {s x t : State} {p : Packet} (h : s.Got 8 p x) (he : x.enqueue (p.arg.toNat % 64) p.data = .wait t) :
    exec (.renq p) s = .next { t with out := t.out ++ [p] } := by
  refine congrArg Host.Outcome.next ((State.receive_got h _).trans ?_)
  simp only [he]
  rfl

theorem exec_renq_stops {s x t : State} {p : Packet} {c : Byte} {a : W64} (h : s.Got 8 p x)
    (he : x.enqueue (p.arg.toNat % 64) p.data = .fault t c a) :
    exec (.renq p) s = .next ((t.dropAs 128).stopQueue (p.arg.toNat % 64) 1) := by
  refine congrArg Host.Outcome.next ((State.receive_got h _).trans ?_)
  simp only [he]

/-- A refused enqueue is answered with its status, and changes neither memory nor its queue (R37). -/
theorem State.Got.renq_refused {s x : State} {p : Packet} {st : Nat} (h : s.Got 8 p x)
    (he : x.enqueue (p.arg.toNat % 64) p.data = .ok x st) :
    s.Ends (.renq p) fun u =>
      x.Replied u p 9 (BitVec.ofNat 64 (st * 2 ^ 60)) [] ∧ u.mem = x.mem ∧ u.lq (p.arg.toNat % 64) = x.lq (p.arg.toNat % 64) :=
  ⟨_, exec_renq_answers h he, (x.dropAs 128).answer_replied 9 p _ [], by simp, by simp⟩

/-- What the answer to an `x.renq.ack` leaves of the context that waits for it. -/
theorem Ctx.setS_advance_took (c : Ctx) (d : Reg) (v : W64) : c.Took (c.setS d v).advance d v :=
  ⟨(Ctx.advance_moved _).of_same (by simp) (by simp), (Ctx.setS_holds ..).advance,
    Ctx.KeepsS.trans (Ctx.setS_keepsS _ _ _) (Ctx.advance_keepsS _ _), Ctx.KeepsA.trans (Ctx.setS_keepsA _ _ _ _) (Ctx.advance_keepsA _ _),
    Ctx.KeepsP.trans (Ctx.setS_keepsP _ _ _ _) (Ctx.advance_keepsP _ _)⟩

theorem exec_renqAns {s x : State} {p : Packet} (h : s.Got 9 p x) {fw : Bool} {d : Reg} {tv : W64} {va : VAddr}
    (hr : x.renqOf p.score p.tag = some (fw, d, tv, va)) :
    exec (.renqAns p) s = .next (x.setCtx p.score fw (((x.ctx p.score fw).setS d p.arg).advance)) := by
  refine congrArg Host.Outcome.next ((State.receive_got h _).trans ?_)
  simp only [hr]

theorem exec_renqAns_unasked {s x : State} {p : Packet} (h : s.Got 9 p x) (hr : x.renqOf p.score p.tag = none) :
    exec (.renqAns p) s = .next (x.setCore p.score { x.core p.score with unasked := (x.core p.score).unasked + 1 }) := by
  refine congrArg Host.Outcome.next ((State.receive_got h _).trans ?_)
  simp only [hr]
  rfl

/-- The time-out of a word that waits too long, the firmware context's first (R411). -/
theorem exec_renqAckTimeout_late {s : State} {k : Nat} {fw : Bool} {d : Reg} {tag dl : Nat} {tv : W64} {va : VAddr}
    (hop : (s.ctx k fw).op = some (.renq d tag dl tv va))
    (hfirm : fw = false → ∀ d t l v a, (s.ctx k true).op ≠ some (.renq d t l v a)) (hl : dl ≤ s.tb) :
    exec (.renqAckTimeout k) s = .next (s.takeTrap k fw (renqTrap 3 tv va)) := by
  show execRenqAckTimeout k s = _
  unfold execRenqAckTimeout
  cases fw with
  | true => simp only [hop, if_pos hl]
  | false =>
    have hnone := hfirm rfl
    simp only [hop, if_pos hl]

/-- The user context's word waits on, and the firmware context has none. -/
theorem exec_renqAckTimeout_early {s : State} {k : Nat} {d : Reg} {tag dl : Nat} {tv : W64} {va : VAddr}
    (hop : (s.ctx k false).op = some (.renq d tag dl tv va))
    (hfirm : ∀ d t l v a, (s.ctx k true).op ≠ some (.renq d t l v a)) (hl : s.tb < dl) :
    exec (.renqAckTimeout k) s = .next s := by
  show execRenqAckTimeout k s = _
  unfold execRenqAckTimeout
  simp only [hop, if_neg (Nat.not_le.2 hl)]

/-! ### Count fences at their target (R414, R415) -/

/-- A fence that is answered takes its count (R415). -/
theorem State.answerFence_spec (s : State) (f : FenceDst) :
    (s.answerFence f).rcvd = s.rcvd.put 0 (f.spkg * 512 + f.score) 0
      ∧ (s.answerFence f).fenceDst = s.fenceDst.filter (fun x => x.tag ≠ f.tag)
      ∧ (s.hops f.spkg ≠ 3 → s.Sent (s.answerFence f) fun q => q.opc = 0xB ∧ q.dpkg = f.spkg ∧ q.spkg = s.pkg ∧ q.score = f.score
          ∧ q.tag = f.ptag ∧ q.arg = BitVec.ofNat 64 (s.rcvd.get 0 (f.spkg * 512 + f.score)) ∧ q.data = leBytes 8 f.n) := by
  refine ⟨State.send_rcvd .., State.send_fenceDst .., fun h => ⟨_, State.send_reachable _ _ h, rfl, rfl, rfl, rfl, rfl, rfl, rfl⟩⟩

/-- The fence of a packet, as its target records it. -/
def State.fenceOf (s : State) (p : Packet) : FenceDst where
  tag := s.nextTag
  ptag := p.tag
  spkg := p.spkg
  score := p.score
  n := p.arg.toNat % 2 ^ 40
  deadline := s.tb + s.ftmo

/-- The state in which the fence of a packet stands behind those that wait. -/
def State.fenced (s : State) (p : Packet) : State := { s with nextTag := s.nextTag + 1, fenceDst := s.fenceDst ++ [s.fenceOf p] }

/-- No fence that waits is of the source of a packet and could be answered. -/
theorem State.find_fenceDst_none {s : State} {p : Packet}
    (h : ∀ f ∈ s.fenceDst, f.spkg = p.spkg → f.score = p.score → s.rcvd.get 0 (p.spkg * 512 + p.score) < f.n) :
    s.fenceDst.find? (fun f => f.spkg = p.spkg && f.score = p.score && decide (f.n ≤ s.rcvd.get 0 (rcvdKey p.spkg p.score))) = none := by
  refine List.find?_eq_none.2 fun f hf => ?_
  simp only [Bool.and_eq_true, decide_eq_true_eq, not_and]
  rintro ⟨h1, h2⟩
  exact Nat.not_le.2 (h f hf h1 h2)

section FenceMsg

variable {s x : State} {p : Packet} (h : s.Got 0xA p x)
  (hold : ∀ f ∈ x.fenceDst, f.spkg = p.spkg → f.score = p.score → x.rcvd.get 0 (p.spkg * 512 + p.score) < f.n)

include h hold

/-- A fence whose bytes have come is answered at once. -/
theorem exec_fenceMsg_answered (hn : p.arg.toNat % 2 ^ 40 ≤ x.rcvd.get 0 (p.spkg * 512 + p.score)) :
    exec (.fenceMsg p) s = .next ((x.fenced p).answerFence (x.fenceOf p)) := by
  refine congrArg Host.Outcome.next ((State.receive_got h _).trans ?_)
  show (x.fenced p).settleFences p.spkg p.score = _
  unfold State.settleFences
  rw [show (x.fenced p).fenceDst = x.fenceDst ++ [x.fenceOf p] from rfl, List.find?_append, show (x.fenced p).rcvd = x.rcvd from rfl,
    State.find_fenceDst_none hold, List.find?_cons_of_pos (by simp only [Bool.and_eq_true, decide_eq_true_eq]; exact ⟨⟨rfl, rfl⟩, hn⟩)]
  rfl

/-- A fence waits for its bytes. -/
theorem exec_fenceMsg_waits (hn : x.rcvd.get 0 (p.spkg * 512 + p.score) < p.arg.toNat % 2 ^ 40) :
    exec (.fenceMsg p) s = .next (x.fenced p) := by
  refine congrArg Host.Outcome.next ((State.receive_got h _).trans ?_)
  show (x.fenced p).settleFences p.spkg p.score = _
  unfold State.settleFences
  rw [show (x.fenced p).fenceDst = x.fenceDst ++ [x.fenceOf p] from rfl, List.find?_append, show (x.fenced p).rcvd = x.rcvd from rfl,
    State.find_fenceDst_none hold, List.find?_cons_of_neg (by simp only [Bool.and_eq_true, decide_eq_true_eq, not_and]; exact fun _ => Nat.not_le.2 hn)]
  rfl

end FenceMsg

theorem exec_fenceFtmoExpiry {s : State} {tag : Nat} {f : FenceDst}
    (h : s.fenceDst.find? (fun f => f.tag = tag && decide (f.deadline ≤ s.tb)) = some f) :
    exec (.fenceFtmoExpiry tag) s = .next (s.answerFence f) := by
  show execFenceFtmoExpiry tag s = _
  unfold execFenceFtmoExpiry
  simp only [h]

/-! ### Count fences at their source (R415 to R417) -/

/-- A mark on a register does not change what else is kept. -/
theorem Ctx.deliver_keepsS (c : Ctx) (r : Reg) (v : W64) (m : Option Mark) : c.KeepsS (c.deliver r v m) [r] := by
  intro q hq
  obtain ⟨hs, hf, hm⟩ := Ctx.setS_keepsS c r v q hq
  refine ⟨(Ctx.getS_setMark ..).trans hs, (Ctx.getFE_setMark ..).trans hf, ?_⟩
  rw [← hm]
  have hn : ¬r.toNat = q.toNat := Ne.symm (Reg.toNat_ne (by simpa using hq))
  unfold Ctx.deliver Ctx.setMark Ctx.getMark
  by_cases h : r = 0#6
  · simp [h]
  · simp [h, FMap.get_put, hn]

/-- A delivery without a mark. -/
theorem Ctx.deliver_holds (c : Ctx) (r : Reg) (v : W64) : (c.deliver r v none).Holds r v := by
  obtain ⟨hs, hf, -⟩ := Ctx.setS_holds c r v
  refine ⟨(Ctx.getS_setMark ..).trans hs, (Ctx.getFE_setMark ..).trans hf, ?_⟩
  exact (Ctx.getMark_setMark ..).trans (ite_self _)

/-- A delivery with a mark. -/
theorem Ctx.deliver_marked (c : Ctx) {r : Reg} (h : r ≠ 0) (v : W64) (m : Mark) :
    (c.deliver r v (some m)).getS r = v ∧ (c.deliver r v (some m)).getFE r = .full ∧ (c.deliver r v (some m)).getMark r = some m := by
  obtain ⟨hs, hf, -⟩ := Ctx.setS_holds c r v
  refine ⟨(Ctx.getS_setMark ..).trans (hs.trans (if_neg h)), (Ctx.getFE_setMark ..).trans hf, ?_⟩
  exact (Ctx.getMark_setMark ..).trans (if_neg h)

@[simp] theorem State.deliver_ctx (s : State) (k : Nat) (fw : Bool) (r : Reg) (v : W64) (m : Option Mark) :
    (s.deliver k fw r v m).ctx k fw = (s.ctx k fw).deliver r v m := State.ctx_setCtx_self ..

@[simp] theorem State.deliver_fenceSrc (s : State) (k : Nat) (fw : Bool) (r : Reg) (v : W64) (m : Option Mark) :
    (s.deliver k fw r v m).fenceSrc = s.fenceSrc := rfl

/-- Of the fences at their source none bears the tag of one that is over. -/
theorem State.mem_dropFence {s : State} {f g : FenceSrc} (h : g ∈ (s.dropFence f).fenceSrc) : g.tag ≠ f.tag := by
  simpa using (List.mem_filter.1 h).2

/-- The trap that marks a result of differing counts (R417). -/
def FenceSrc.mismatch (f : FenceSrc) (m : Nat) : Mark where
  trap := { cause := .countMismatch, e0 := BitVec.ofNat 64 f.pkg, e1 := BitVec.ofNat 64 f.n, e2 := BitVec.ofNat 64 m,
            e3 := f.pc.extractLsb' 0 64 }
  of := none

theorem exec_fenceAns_unasked {s x : State} {p : Packet} (h : s.Got 0xB p x)
    (hf : x.fenceSrc.find? (fun f => f.tag % 65536 = p.tag && f.core = p.score) = none) :
    exec (.fenceAns p) s = .next (x.setCore p.score { x.core p.score with unasked := (x.core p.score).unasked + 1 }) := by
  refine congrArg Host.Outcome.next ((State.receive_got h _).trans ?_)
  simp only [hf]
  rfl

/-- The answer to a fence of a word: its count agrees, or is reported with a mark on the result (R416, R417). -/
theorem exec_fenceAns {s x : State} {p : Packet} {f : FenceSrc} (h : s.Got 0xB p x)
    (hf : x.fenceSrc.find? (fun f => f.tag % 65536 = p.tag && f.core = p.score) = some f) (hr : f.retire = false) :
    exec (.fenceAns p) s = .next (
      if p.arg.toNat % 2 ^ 40 = f.n then (x.dropFence f).deliver f.core f.fw f.d 0 none
      else ((x.dropFence f).setCore f.core { x.core f.core with cmm := true }).deliver f.core f.fw f.d
        (BitVec.ofNat 64 (2 ^ 60 + (f.n + 2 ^ 40 - p.arg.toNat % 2 ^ 40) % 2 ^ 40)) (some (f.mismatch (p.arg.toNat % 2 ^ 40)))) := by
  have he3 : (f.pc.setWidth 64 : W64) = f.pc.extractLsb' 0 64 := by
    apply BitVec.eq_of_toNat_eq; simp
  refine congrArg Host.Outcome.next ((State.receive_got h _).trans ?_)
  simp only [hf, hr, he3, Bool.false_eq_true, if_false]
  split
  · rfl
  · unfold FenceSrc.mismatch fenceWord
    simp
    rfl

theorem exec_fenceAnswerTimeout {s : State} {tag : Nat} {f : FenceSrc}
    (h : s.fenceSrc.find? (fun f => f.tag = tag && decide (f.deadline ≤ s.tb)) = some f) (hr : f.retire = false) :
    exec (.fenceAnswerTimeout tag) s = .next
      (((s.countNak f.core 3).dropFence f).deliver f.core f.fw f.d (BitVec.ofNat 64 (2 * 2 ^ 60 + 3 * 2 ^ 44)) none) := by
  show execFenceAnswerTimeout tag s = _
  unfold execFenceAnswerTimeout
  simp only [h]
  unfold State.failFence
  simp only [hr, Bool.false_eq_true, if_false]
  rfl

/-! ### The statement -/

/-- Settles O46: each packet and time-out is its equation for the case at hand; an enqueue follows the links of its queue, and a fence
is found by its tag. -/
theorem enqueueFenceAndTimePackets : Obligations.EnqueueFenceAndTimePackets := by
  unfold Obligations.EnqueueFenceAndTimePackets
  refine ⟨?renq, ?renqAns, ?renqTimeout, ?fence, ?fenceExpiry, ?fenceUnasked, ?fenceAns, ?fenceTimeout, ?time⟩
  case renq =>
    intro s x p h q y follows told
    refine ⟨fun hno => h.renq_refused (State.enqueue_owner hno _), fun ho he slot head next hs hh hn =>
      ⟨fun hf => h.renq_refused (State.enqueue_full ho he hs hh hn hf _), fun hf => ⟨fun t hw => ?_, fun t hw => ?_, fun hw => ?_⟩⟩⟩
    · refine ⟨_, exec_renq_answers h (State.enqueue_accepted ho he hs hh hn hf hw), ?_, by simp, by simp [q, y]⟩
      exact ((t.setLq q { y with tail := next }).dropAs 128).answer_replied 9 p _ []
    · exact ⟨_, exec_renq_waits h (State.enqueue_waits ho he hs hh hn hf hw), rfl⟩
    · refine ⟨_, exec_renq_stops h (State.enqueue_fails ho he hs hh hn hf hw), ?_, ?_, rfl⟩
      · rw [State.stopQueue_lq_self]
      · rw [State.stopQueue_lq_self]
  case renqAns =>
    intro s x p h
    refine ⟨fun fw d tv va hr => ⟨_, exec_renqAns h hr, ?_, rfl⟩, fun hr => ⟨_, exec_renqAns_unasked h hr, rfl⟩⟩
    rw [State.ctx_setCtx_self]
    exact Ctx.setS_advance_took ..
  case renqTimeout =>
    intro s k fw d tag dl tv va hop hfirm
    refine ⟨fun hl hc => ⟨_, exec_renqAckTimeout_late hop hfirm hl, ?_⟩, ?_⟩
    · have he2 : (va.setWidth 64 : W64) = va.extractLsb' 0 64 := by apply BitVec.eq_of_toNat_eq; simp
      rw [← he2]
      exact s.takeTrap_trapped k fw (renqTrap 3 tv va) hc
    · rintro rfl hl
      exact ⟨s, exec_renqAckTimeout_early hop (hfirm rfl) hl, rfl⟩
  case fence =>
    intro s x p h rk n m hold
    refine ⟨fun hn => ?_, fun hn => ⟨_, exec_fenceMsg_waits h hold hn, rfl, rfl, rfl⟩⟩
    obtain ⟨hr, -, hsent⟩ := (x.fenced p).answerFence_spec (x.fenceOf p)
    refine ⟨_, exec_fenceMsg_answered h hold hn, hsent, ?_⟩
    rw [hr]
    exact FMap.get_put_self ..
  case fenceExpiry =>
    intro s tag f hf
    obtain ⟨hr, hd, hsent⟩ := s.answerFence_spec f
    refine ⟨_, exec_fenceFtmoExpiry hf, fun g hg => ?_, ?_, fun hh => ?_⟩
    · rw [hd] at hg; simpa using (List.mem_filter.1 hg).2
    · rw [hr]; exact FMap.get_put_self ..
    · obtain ⟨q, ho, h1, h2, -, h3⟩ := hsent hh
      exact ⟨q, ho, h1, h2, h3⟩
  case fenceUnasked => exact fun s x p h hf => ⟨_, exec_fenceAns_unasked h hf, rfl⟩
  case fenceAns =>
    intro s x p f h hf hr m miss
    have hex := exec_fenceAns h hf hr
    by_cases hm : m = f.n
    · rw [if_pos hm] at hex
      refine ⟨_, hex, fun g hg => State.mem_dropFence (s := x) hg, ?_, rfl, fun _ => ⟨?_, ?_⟩, fun hne => absurd hm hne⟩
      · rw [State.deliver_ctx]; exact Ctx.deliver_keepsS _ _ _ _
      · rw [State.deliver_ctx]; exact Ctx.deliver_holds ..
      · unfold State.deliver State.setCtx; rw [State.core_setCore_self, Core.setCtx_cmm]; rfl
    · rw [if_neg hm] at hex
      have hctx (v : W64) (k : Mark) : (((x.dropFence f).setCore f.core { x.core f.core with cmm := true }).deliver f.core f.fw f.d v
          (some k)).ctx f.core f.fw = (x.ctx f.core f.fw).deliver f.d v (some k) := by
        rw [State.deliver_ctx]
        unfold State.ctx
        rw [State.core_setCore_self]
        cases f.fw <;> rfl
      refine ⟨_, hex, fun g hg => State.mem_dropFence (s := x) hg, ?_, rfl, fun he => absurd he hm, fun _ => ⟨?_, fun h0 => ?_⟩⟩
      · rw [hctx]; exact Ctx.deliver_keepsS _ _ _ _
      · unfold State.deliver State.setCtx; rw [State.core_setCore_self, Core.setCtx_cmm, State.core_setCore_self]
      · dsimp only; rw [hctx]; exact Ctx.deliver_marked _ h0 _ _
  case fenceTimeout =>
    intro s tag f hf hr
    refine ⟨_, exec_fenceAnswerTimeout hf hr, ?_, fun g hg => State.mem_dropFence (s := s.countNak f.core 3) hg, ?_, ?_⟩
    · rw [State.deliver_ctx]; exact Ctx.deliver_holds ..
    · unfold State.deliver State.setCtx
      rw [State.core_setCore_self, Core.setCtx_nakCount]
      show ((s.countNak f.core 3).core f.core).nakCount = _
      unfold State.countNak
      rw [State.core_setCore_self]
      exact satInc_eq_min ..
    · unfold State.deliver State.setCtx
      rw [State.core_setCore_self, Core.setCtx_nakLast]
      show ((s.countNak f.core 3).core f.core).nakLast = _
      unfold State.countNak
      rw [State.core_setCore_self]
  case time =>
    intro s x p h
    refine ⟨_, congrArg Host.Outcome.next (State.receive_got h _), ?_, ?_, ?_, rfl, rfl⟩
    · dsimp only; omega
    · dsimp only; omega
    · dsimp only; omega

end Sys2Proof.Machine
end
section
/-!
SUPPORT. Completion records (R460, R461): the state in which an access to memory of this package is made, what the two writes of
a record leave, and what goes on while one is written.
-/

namespace Sys2Proof

theorem FMap.mem_ins {α : Type} {m : FMap α} {k : Nat} {v : α} {p : Nat × α} (h : p ∈ FMap.ins m k v) : p = (k, v) ∨ p ∈ m := by
  induction m with
  | nil => exact .inl (List.mem_singleton.1 h)
  | cons q m ih =>
    obtain ⟨i, w⟩ := q
    simp only [FMap.ins] at h
    split at h
    · rcases List.mem_cons.1 h with rfl | h
      · exact .inr (List.mem_cons_self ..)
      · exact (ih h).imp_right (List.mem_cons_of_mem _)
    · split at h
      · exact (List.mem_cons.1 h).imp_right (List.mem_cons_of_mem _)
      · exact List.mem_cons.1 h

end Sys2Proof

namespace Sys2Proof.Machine

/-! ### Things in flight come and go -/

/-- Things in flight have come and gone, no remote posted write has joined them, and nothing else has changed. -/
def State.AddsNoWrite (s t : State) : Prop :=
  t = { s with flights := t.flights, nextTag := t.nextTag }
    ∧ ∀ p ∈ t.flights, ∀ w, p.2 = some (.remoteWrite w) → p ∈ s.flights

theorem State.AddsNoWrite.refl (s : State) : s.AddsNoWrite s := ⟨rfl, fun _ hp _ _ => hp⟩

theorem State.AddsNoWrite.trans {s t u : State} (h : s.AddsNoWrite t) (g : t.AddsNoWrite u) : s.AddsNoWrite u := by
  obtain ⟨he, hf⟩ := h
  obtain ⟨ge, gf⟩ := g
  refine ⟨ge.trans ?_, fun p hp w hw => hf p (gf p hp w hw) w hw⟩
  exact congrArg (fun x : State => { x with flights := u.flights, nextTag := u.nextTag }) he

theorem State.addsNoWrite_foldl {α : Type} (f : State → α → State) (h : ∀ (s : State) a, s.AddsNoWrite (f s a)) (l : List α) (s : State) :
    s.AddsNoWrite (l.foldl f s) := by
  induction l generalizing s with
  | nil => exact .refl s
  | cons a l ih => exact (h s a).trans (ih _)

theorem State.addsNoWrite_filter (s : State) (f : Nat × Option Flight → Bool) : s.AddsNoWrite { s with flights := s.flights.filter f } :=
  ⟨rfl, fun _ hp _ _ => List.mem_of_mem_filter hp⟩

theorem State.addsNoWrite_endWalk (s : State) (k va : Nat) : s.AddsNoWrite (s.endWalk k va) := s.addsNoWrite_filter _
theorem State.addsNoWrite_dropAs (s : State) (n : Nat) : s.AddsNoWrite (s.dropAs n) := s.addsNoWrite_filter _
theorem State.addsNoWrite_takeTag (s : State) : s.AddsNoWrite s.takeTag.1 := ⟨rfl, fun _ hp _ _ => hp⟩

theorem State.addsNoWrite_addInval (s : State) (l d of : Nat) (o : Origin) : s.AddsNoWrite (s.addFlight (.inval l d of o)).1 := by
  refine ⟨rfl, fun p hp w hw => ?_⟩
  rcases FMap.mem_ins hp with rfl | hp
  · cases hw
  · exact hp

theorem State.addsNoWrite_sendInvals (s : State) (o : Origin) (of line : Nat) : s.AddsNoWrite (s.sendInvals o of line) :=
  State.addsNoWrite_foldl _ (fun s d => by
    split
    · exact s.addsNoWrite_addInval ..
    · exact .refl s) _ s

/-- A write at its home changes its bytes, and sends invalidations (R361). -/
theorem State.addsNoWrite_homeWrite (s : State) (o : Origin) (of key : Nat) (bs : List Byte) :
    { s with
      mem := writeBytes s.mem key bs
      memBad := s.memBad.filter fun g => !(decide (key ≤ g * 16) && decide (g * 16 + 16 ≤ key + bs.length)) }.AddsNoWrite
        (s.homeWrite o of key bs) :=
  State.addsNoWrite_foldl _ (fun s l => s.addsNoWrite_sendInvals o of l) _ _

theorem State.AddsNoWrite.mem {s t : State} (h : s.AddsNoWrite t) : t.mem = s.mem := by rw [h.1]
theorem State.AddsNoWrite.lqs {s t : State} (h : s.AddsNoWrite t) : t.lqs = s.lqs := by rw [h.1]

theorem State.AddsNoWrite.lq {s t : State} (h : s.AddsNoWrite t) (q : Nat) : t.lq q = s.lq q := by
  unfold State.lq; rw [h.lqs]

/-- No part of a record is outstanding where none was. -/
theorem State.AddsNoWrite.recordOut {s t : State} (h : s.AddsNoWrite t) {of : RecordOf} (ho : s.recordOut of = false) :
    t.recordOut of = false := by
  obtain ⟨he, hf⟩ := h
  unfold State.recordOut State.anyFlight at *
  rw [Bool.or_eq_false_iff, List.any_eq_false] at *
  obtain ⟨how, hfl⟩ := ho
  refine ⟨?_, ?_⟩
  · rw [he]; exact how
  · rw [List.any_eq_false] at *
    intro p hp
    cases hw : p.2 with
    | none => simp
    | some f =>
      cases f with
      | remoteWrite w =>
        have := hfl p (hf p hp w hw)
        rwa [hw] at this
      | _ => simp

/-! ### Where an access of an address space goes -/

theorem State.tableRead_answered {s t : State} {k va pa : Nat} {r : TableRead} (h : s.tableRead k va pa = (t, r)) (hr : r ≠ .wait) :
    t = s := by
  unfold State.tableRead at h
  split at h
  · cases h; rfl
  · dsimp only at h
    split at h
    · cases h; rfl
    · cases h; exact absurd rfl hr

/-- A walk that has come to an end has changed nothing. -/
theorem State.walk_ended {s t : State} {k a va : Nat} {ls : List (Nat × Nat × Nat × Bool)} {w : Walk} (h : s.walk k a va ls = (t, w))
    (hw : w ≠ .wait) : t = s := by
  induction ls generalizing s a with
  | nil => cases h; rfl
  | cons l ls ih =>
    obtain ⟨lo, n, next, leafOk⟩ := l
    unfold State.walk at h
    dsimp only at h
    split at h
    · cases h; exact absurd rfl hw
    · next e => cases h; exact State.tableRead_answered e nofun
    · next e =>
      obtain rfl := State.tableRead_answered e nofun
      split at h
      · cases h; rfl
      · split at h
        · cases h; rfl
        · exact ih h

/-- An access that has a place has ended its walk, and changed nothing else. -/
theorem State.asPlace_ended {s : State} {asn : Nat} {a : Acc} {va : VAddr} {p : Place} {win : Option Nat}
    (h : (s.asPlace asn a va).2 = .ok p win) : (s.asPlace asn a va).1 = s.endWalk 0 va.toNat := by
  unfold State.asPlace at h ⊢
  split
  · next hap => rw [if_pos hap] at h; cases h
  · next hap =>
    rw [if_neg hap] at h
    rcases e : s.walk 0 (s.roots.get 0 asn * 65536) va.toNat walkLevels with ⟨t, w⟩
    rw [e] at h
    cases w with
    | wait => cases h
    | fault => cases h
    | leaf lo pte at_ =>
      obtain rfl := State.walk_ended e nofun
      dsimp only at h ⊢
      split <;> rfl

/-- Bytes written at a key of this package's memory, by an access to an address of an address space. -/
def State.putHome (s : State) (va : VAddr) (key : Nat) (bs : List Byte) : State :=
  let r := (s.endWalk 0 va.toNat).takeTag
  r.1.homeWrite Origin.outside r.2 key bs

theorem State.asWrite_home {s : State} {asn : Nat} {va : VAddr} {key : Nat} {win : Option Nat}
    (h : (s.asPlace asn .store va).2 = .ok (.home key) win) (of : Option RecordOf) (core : Nat) (bs : List Byte) :
    s.asWrite of asn core va bs = .ok (s.putHome va key bs) := by
  have he := State.asPlace_ended h
  unfold State.asWrite
  generalize s.asPlace asn .store va = pr at h he ⊢
  obtain ⟨t, r⟩ := pr
  obtain rfl : r = _ := h
  obtain rfl : t = _ := he
  rfl

/-- A write in this package's memory changes its bytes, and sends invalidations. -/
theorem State.addsNoWrite_putHome (s : State) (va : VAddr) (key : Nat) (bs : List Byte) :
    { s with
      mem := writeBytes s.mem key bs
      memBad := s.memBad.filter fun g => !(decide (key ≤ g * 16) && decide (g * 16 + 16 ≤ key + bs.length)) }.AddsNoWrite
        (s.putHome va key bs) := by
  have h := (s.addsNoWrite_endWalk 0 va.toNat).trans (State.addsNoWrite_takeTag _)
  obtain ⟨he, hf⟩ := h
  refine State.AddsNoWrite.trans ?_ (State.addsNoWrite_homeWrite ..)
  exact ⟨rfl, hf⟩

theorem State.putHome_mem (s : State) (va : VAddr) (key : Nat) (bs : List Byte) :
    (s.putHome va key bs).mem = writeBytes s.mem key bs := (s.addsNoWrite_putHome va key bs).mem

theorem State.putHome_lqs (s : State) (va : VAddr) (key : Nat) (bs : List Byte) : (s.putHome va key bs).lqs = s.lqs :=
  (s.addsNoWrite_putHome va key bs).lqs

theorem State.putHome_recordOut {s : State} {of : RecordOf} (h : s.recordOut of = false) (va : VAddr) (key : Nat) (bs : List Byte) :
    (s.putHome va key bs).recordOut of = false := (s.addsNoWrite_putHome va key bs).recordOut h

/-! ### A record in this package's memory (R461) -/

/-- A record of two places of this package's memory is written in two writes, its second half first. -/
theorem State.writeRecord_home {s s1 : State} {of : RecordOf} {asn core a b : Nat} {va : VAddr} {bs : List Byte} {v w : Option Nat}
    (hb : (s.asPlace asn .store (va + 16)).2 = .ok (.home b) v) (h1 : s.asWrite (some of) asn core (va + 16) (bs.drop 16) = .ok s1)
    (ha : (s1.asPlace asn .store va).2 = .ok (.home a) w) :
    s.writeRecord of asn core va bs = ((s.putHome (va + 16) b (bs.drop 16)).putHome va a (bs.take 16)).recordDone of := by
  have e1 := State.asWrite_home hb (some of) core (bs.drop 16)
  obtain rfl := AsWrite.ok.inj (e1.symm.trans h1)
  have e2 := State.asWrite_home ha (some of) core (bs.take 16)
  unfold State.writeRecord State.writeParts
  simp only [e1]
  unfold State.writeParts
  simp only [e2]
  unfold State.writeParts
  rfl

/-- A record whose first write fails is not written (R39, R461). -/
theorem State.writeRecord_fails {s : State} {of : RecordOf} {asn core : Nat} {va : VAddr} {bs : List Byte}
    (h : s.asWrite (some of) asn core (va + 16) (bs.drop 16) = .fail) : s.writeRecord of asn core va bs = s.recordFails of := by
  unfold State.writeRecord State.writeParts
  simp only [h]

/-- The record of a run moves no queue. -/
theorem State.recordDone_ofRun (s : State) {of : RecordOf} (h : of.card = none) : s.recordDone of = s := by
  unfold State.recordDone
  simp [h]

/-- The record of a refused card moves its queue past the card, once nothing of it is outstanding (R39). -/
theorem State.recordDone_ofCard {s : State} {q : Nat} (h : s.recordOut { q := q, card := some (s.lq q).head } = false) :
    s.recordDone { q := q, card := some (s.lq q).head } = s.setLq q { s.lq q with head := (s.lq q).head + 128 } := by
  unfold State.recordDone
  simp [h]

theorem State.recordFails_lq (s : State) (of : RecordOf) :
    (s.recordFails of).lq of.q = { s.lq of.q with err := 1, stop := true } := State.stopQueue_lq_self ..

end Sys2Proof.Machine
end

section
/-!
The registers of a launch queue, and the reading of its cards (R33 to R36, R38, R39).
-/

namespace Sys2Proof.Machine

/-! ### Registers of a launch queue (R33, R34, R36) -/

/-- Bit `i` of a register's number is bit `i` of the register. -/
theorem nbit_toNat {n : Nat} (v : BitVec n) (i : Nat) : nbit v.toNat i = v.getLsbD i := by
  unfold nbit
  rw [BitVec.getLsbD, Nat.testBit_eq_decide_div_mod_eq]

/-- A write of the low part of TAIL takes the high part written before (R36). -/
theorem tail_doorbell (hi v : W64) : BitVec.ofNat 72 (hi.toNat % 256 * 2 ^ 64 + v.toNat) = hi.extractLsb' 0 8 ++ v := by
  apply BitVec.eq_of_toNat_eq
  have hv := v.isLt
  rw [BitVec.toNat_append, BitVec.toNat_ofNat, BitVec.extractLsb'_toNat, Nat.shiftRight_zero, ← Nat.shiftLeft_add_eq_or_of_lt hv,
    Nat.shiftLeft_eq]
  omega

theorem exec_lqTailDoorbell (s : State) (q : Nat) (v : W64) :
    exec (.lqTailDoorbell q v) s = .next (s.setLq q (if (s.lq q).owner then { s.lq q with ign := min 0xFFFFFFFF ((s.lq q).ign + 1) }
      else { s.lq q with tail := (s.lq q).tailHi.extractLsb' 0 8 ++ v })) := by
  rw [← satInc_eq_min, ← tail_doorbell]
  rfl

/-- What a write of CTL leaves of its queue, and of memory (R34). -/
theorem exec_lqCtlWrite (s : State) (q : Nat) (v : W64) :
    s.Ends (.lqCtlWrite q v) fun u => u.lq q = (s.lq q).write s.verified v ∧ u.mem = s.mem := by
  refine ⟨_, rfl, ?_⟩
  split
  · exact ⟨s.lq_setLq_self q _, rfl⟩
  · exact ⟨s.lq_setLq_self q _, rfl⟩

/-- A write that changes ASN or OWNER of an enabled queue is ignored as a whole (R34). -/
theorem LQueue.write_ignored {x : LQueue} {v : W64} (he : x.en = true) (h : v.toNat / 2 ^ 48 ≠ x.asn ∨ v.getLsbD 1 ≠ x.owner)
    (ok : Bool) : x.write ok v = x := by
  unfold LQueue.write
  simp only [he, nbit_toNat]
  exact if_pos (by simpa using h)

/-- A write that is taken (R34). -/
theorem LQueue.write_taken {x : LQueue} {v : W64} (h : x.en = false ∨ (v.toNat / 2 ^ 48 = x.asn ∧ v.getLsbD 1 = x.owner)) (ok : Bool) :
    let y := { x with asn := v.toNat / 2 ^ 48, priocap := v.toNat / 2 ^ 36 % 16, owner := v.getLsbD 1, en := v.getLsbD 0 && ok,
                      card := if v.getLsbD 0 && ok then x.card else none }
    x.write ok v = if v.getLsbD 0 && ok && !x.en then { y with err := 0, stop := false } else y := by
  unfold LQueue.write
  simp only [nbit_toNat]
  exact if_neg (by rcases h with h | ⟨h1, h2⟩ <;> simp_all)

/-! ### Cards (R38, R39) -/

/-- A queue whose card is not to be read stays as it is (R36, R40). -/
theorem exec_cardRead_idle {s : State} {q : Nat}
    (h : s.verified = false ∨ (s.lq q).en = false ∨ (s.lq q).stop = true ∨ (s.dealt q).isSome = true) :
    exec (.cardRead q) s = .next s := by
  show execCardRead q s = _
  unfold execCardRead LQueue.runs
  exact if_pos (by rcases h with h | h | h | h <;> simp [h])

/-- What reading a card leads to (R39). -/
def State.actOnCard (s : State) (q : Nat) (bs : List Byte) : State :=
  if field bs 0 8 / 2 ^ 60 = 2 then s.setLq q { s.lq q with head := BitVec.ofNat 72 (field bs 0x10 9) }
  else if field bs 0 8 / 2 ^ 60 = 0 then s.stopQueue q 2
  else
    match cardReason bs with
    | some r => s.refuseCard q bs r
    | none =>
      if (cardOf (s.lq q).head (s.lq q).asn bs).done.toNat % 32 ≠ 0 then s.stopQueue q 1
      else s.setLq q { s.lq q with card := some (cardOf (s.lq q).head (s.lq q).asn bs) }

section CardRead

variable {s : State} {q : Nat} (hv : s.verified = true) (he : (s.lq q).en = true) (hs : (s.lq q).stop = false)
  (hc : (s.lq q).card = none) (ht : (s.lq q).head ≠ (s.lq q).tail) (hd : s.dealt q = none)
  (ho : s.recordOut { q := q, card := some (s.lq q).head } = false)

include hv he hs hc ht hd ho

theorem exec_cardRead_fails (hr : s.asRead (s.lq q).asn (s.lq q).head 128 = .fail) :
    exec (.cardRead q) s = .next ((s.dropAs 128).stopQueue q 1) := by
  show execCardRead q s = _
  unfold execCardRead LQueue.runs
  simp [hv, he, hs, hc, ht, hd, ho, hr]

theorem exec_cardRead_waits {t : State} (hr : s.asRead (s.lq q).asn (s.lq q).head 128 = .wait t) :
    exec (.cardRead q) s = .next t := by
  show execCardRead q s = _
  unfold execCardRead LQueue.runs
  simp [hv, he, hs, hc, ht, hd, ho, hr]

theorem exec_cardRead_reads {bs : List Byte} (hr : s.asRead (s.lq q).asn (s.lq q).head 128 = .ok bs) :
    exec (.cardRead q) s = .next ((s.dropAs 128).actOnCard q bs) := by
  show execCardRead q s = _
  unfold execCardRead
  rw [if_neg (by simp [LQueue.runs, hv, he, hs, hc, ht, hd, ho])]
  simp only [hr, nbits_kind]
  rfl

end CardRead

section Act

variable (s : State) (q : Nat) (bs : List Byte)

theorem State.actOnCard_link (h : field bs 0 8 / 2 ^ 60 = 2) :
    s.actOnCard q bs = s.setLq q { s.lq q with head := BitVec.ofNat 72 (field bs 0x10 9) } := if_pos h

theorem State.actOnCard_empty (h : field bs 0 8 / 2 ^ 60 = 0) : s.actOnCard q bs = s.stopQueue q 2 := by
  unfold State.actOnCard
  rw [if_neg (by omega), if_pos h]

/-- A card with a completion record that is not aligned stops its queue, refused or not (R39). -/
theorem State.actOnCard_misaligned (h0 : field bs 0 8 / 2 ^ 60 ≠ 0) (h2 : field bs 0 8 / 2 ^ 60 ≠ 2)
    (hd : (BitVec.ofNat 72 (field bs 0x40 9) : VAddr).toNat % 32 ≠ 0) : s.actOnCard q bs = s.stopQueue q 1 := by
  unfold State.actOnCard State.refuseCard
  rw [if_neg h2, if_neg h0]
  split <;> exact if_pos hd

theorem State.actOnCard_refused {r : Nat} (h0 : field bs 0 8 / 2 ^ 60 ≠ 0) (h2 : field bs 0 8 / 2 ^ 60 ≠ 2) (hr : cardReason bs = some r)
    (hd : (BitVec.ofNat 72 (field bs 0x40 9) : VAddr).toNat % 32 = 0) :
    s.actOnCard q bs = s.writeRecord { q := q, card := some (s.lq q).head } (s.lq q).asn 0 (BitVec.ofNat 72 (field bs 0x40 9))
      (recordBytes 5 0 0 0 0 s.tb r) := by
  unfold State.actOnCard State.refuseCard
  rw [if_neg h2, if_neg h0]
  simp only [hr]
  exact if_neg (not_not.2 hd)

theorem State.actOnCard_passes (h1 : field bs 0 8 / 2 ^ 60 = 1) (hr : cardReason bs = none)
    (hd : (BitVec.ofNat 72 (field bs 0x40 9) : VAddr).toNat % 32 = 0) :
    s.actOnCard q bs = s.setLq q { s.lq q with card := some (cardOf (s.lq q).head (s.lq q).asn bs) } := by
  unfold State.actOnCard
  rw [if_neg (by omega), if_neg (by omega)]
  simp only [hr]
  exact if_neg (not_not.2 hd)

end Act

/-- A queue stops at the card at its head (R35, R39). -/
theorem State.stopQueue_spec (s : State) (q err : Nat) :
    (s.stopQueue q err).lq q = { s.lq q with err := err, stop := true } ∧ (s.stopQueue q err).notes = s.notes ++ [.hostInterrupt q]
      ∧ (s.stopQueue q err).mem = s.mem ∧ (s.stopQueue q err).cores = s.cores := ⟨s.stopQueue_lq_self q err, rfl, rfl, rfl⟩

/-- A completion record begins with its status (R460). -/
theorem recordBytes_take (status flags core idx start end_ detail : Nat) :
    (recordBytes status flags core idx start end_ detail).take 16 =
      leBytes 1 status ++ (leBytes 1 flags ++ leBytes 2 core ++ leBytes 4 idx ++ leBytes 8 start) := by
  unfold recordBytes
  simp [List.take_append, List.take_of_length_le]

/-- The refusal of a card whose record lies in this package's memory (R39). -/
theorem State.refusal_home {s s1 : State} {q asn a b : Nat} {done : VAddr} {end_ detail : Nat} {v w : Option Nat}
    (ho : s.recordOut { q := q, card := some (s.lq q).head } = false)
    (hb : (s.asPlace asn .store (done + 16)).2 = .ok (.home b) v)
    (h1 : s.asWrite (some { q := q, card := some (s.lq q).head }) asn 0 (done + 16)
      ((recordBytes 5 0 0 0 0 end_ detail).drop 16) = .ok s1)
    (ha : (s1.asPlace asn .store done).2 = .ok (.home a) w) :
    let u := s.writeRecord { q := q, card := some (s.lq q).head } asn 0 done (recordBytes 5 0 0 0 0 end_ detail)
    u.lq q = { s.lq q with head := (s.lq q).head + 128 } ∧ readBytes u.mem a 1 = [5] := by
  intro u
  have hu : u = _ := State.writeRecord_home hb h1 ha
  generalize (recordBytes 5 0 0 0 0 end_ detail).drop 16 = late at hu
  rw [recordBytes_take] at hu
  generalize leBytes 1 0 ++ leBytes 2 0 ++ leBytes 4 0 ++ leBytes 8 0 = rest at hu
  have hq : ((s.putHome (done + 16) b late).putHome done a (leBytes 1 5 ++ rest)).lq q = s.lq q := by
    unfold State.lq
    rw [State.putHome_lqs, State.putHome_lqs]
  rw [← hq] at hu ho
  rw [State.recordDone_ofCard (State.putHome_recordOut (State.putHome_recordOut ho ..) ..)] at hu
  rw [hu]
  refine ⟨?_, ?_⟩
  · rw [State.lq_setLq_self, hq]
  · rw [State.setLq_mem, State.putHome_mem]
    show [FMap.get 0 (writeBytes _ a (5 :: rest)) a] = [5]
    rw [get_writeBytes, if_pos (by simp)]
    simp

/-! ### The statement -/

/-- Settles O39: a register write is its equation, and a card that can be read leads to what its fields say; the record of a refused
card is two writes, after which the queue moves on. -/
theorem launchQueuesReadCards : Obligations.LaunchQueuesReadCards := by
  unfold Obligations.LaunchQueuesReadCards
  intro s q x
  refine ⟨fun v => ⟨fun he => ⟨s, ?_, rfl⟩, fun he => ⟨_, ?_, rfl⟩⟩, fun v => ⟨fun ho => ⟨_, exec_lqTailDoorbell s q v, ?_⟩,
    fun ho => ⟨_, exec_lqTailDoorbell s q v, ?_⟩, ?ignored, ?taken⟩, fun h => ⟨s, exec_cardRead_idle h, rfl⟩, ?card⟩
  · exact congrArg Host.Outcome.next (if_pos he)
  · exact congrArg Host.Outcome.next (if_neg (ne_true_of_eq_false he))
  · rw [if_pos ho]
  · rw [if_neg (ne_true_of_eq_false ho)]
  case ignored =>
    intro he h
    obtain ⟨u, hu, hq, hm⟩ := exec_lqCtlWrite s q v
    exact ⟨u, hu, hq.trans (LQueue.write_ignored he h _), hm⟩
  case taken =>
    intro h
    obtain ⟨u, hu, hq, hm⟩ := exec_lqCtlWrite s q v
    rw [LQueue.write_taken h] at hq
    refine ⟨u, hu, ?_⟩
    simp only [hq, hm]
    by_cases hr : (v.getLsbD 0 && s.verified && !x.en) = true
    · rw [if_pos hr]
      simp_all
    · rw [if_neg hr]
      simp_all
  case card =>
    intro hv he hs hc ht hd of hout stops o
    refine ⟨fun hr => ⟨_, exec_cardRead_fails hv he hs hc ht hd hout hr, o.stopQueue_spec q 1⟩,
      fun t hr => ⟨t, exec_cardRead_waits hv he hs hc ht hd hout hr, rfl⟩, ?_⟩
    intro bs hr kind done
    have hex := exec_cardRead_reads hv he hs hc ht hd hout hr
    refine ⟨fun _ h2 => ⟨_, hex, o.actOnCard_link q bs h2⟩, fun _ h0 => ⟨_, hex, ?_⟩, fun _ h0 h2 hd => ⟨_, hex, ?_⟩,
      fun h1 hr hd => ⟨_, hex, o.actOnCard_passes q bs h1 hr hd⟩, ?_⟩
    · rw [o.actOnCard_empty q bs h0]; exact o.stopQueue_spec q 2
    · rw [o.actOnCard_misaligned q bs h0 h2 hd]; exact o.stopQueue_spec q 1
    · intro r _ h0 h2 hr hd rec_
      have hu : o.actOnCard q bs = o.writeRecord of x.asn 0 done rec_ := o.actOnCard_refused q bs h0 h2 hr hd
      refine ⟨_, hex.trans (congrArg _ hu), rfl, fun s1 a b h1 hb ha => ?_, fun hf => ?_⟩
      · exact State.refusal_home ((s.addsNoWrite_dropAs 128).recordOut hout) hb h1 ha
      · rw [State.writeRecord_fails hf]
        exact o.recordFails_lq of

end Sys2Proof.Machine
end
section
/-!
SUPPORT. What the records of runs, and the bookings and rounds that end with them, leave of every core and of what firmware keeps:
runs, jobs, checkpointed runs and the save in progress are as they were.
-/

namespace Sys2Proof.Machine

/-- A core but for its contexts, its bookings, and the counts of what it has sent. -/
def Core.rest (c : Core) : Core := { c with user := Ctx.reset false, firm := Ctx.reset true, books := [], sent := [] }

/-- The jobs, the checkpointed runs and the save in progress are the same, and of every core everything but its contexts, its bookings
and the counts of what it has sent. -/
structure State.KeepsRuns (s t : State) : Prop where
  jobs : t.jobs = s.jobs
  saved : t.saved = s.saved
  pending : t.pending = s.pending
  rest : ∀ k, (t.core k).rest = (s.core k).rest

theorem State.KeepsRuns.refl (s : State) : s.KeepsRuns s := ⟨rfl, rfl, rfl, fun _ => rfl⟩

theorem State.KeepsRuns.trans {s t u : State} (h : s.KeepsRuns t) (g : t.KeepsRuns u) : s.KeepsRuns u :=
  ⟨g.jobs.trans h.jobs, g.saved.trans h.saved, g.pending.trans h.pending, fun k => (g.rest k).trans (h.rest k)⟩

theorem State.KeepsRuns.of_cores {s t : State} (hc : t.cores = s.cores) (hj : t.jobs = s.jobs) (hs : t.saved = s.saved)
    (hp : t.pending = s.pending) : s.KeepsRuns t := ⟨hj, hs, hp, fun k => by unfold State.core; rw [hc]⟩

theorem State.KeepsRuns.task {s t : State} (h : s.KeepsRuns t) (k : Nat) : (t.core k).task = (s.core k).task :=
  (congrArg Core.task (h.rest k) : (t.core k).rest.task = (s.core k).rest.task)
theorem State.KeepsRuns.job {s t : State} (h : s.KeepsRuns t) (k : Nat) : (t.core k).job = (s.core k).job :=
  (congrArg Core.job (h.rest k) : (t.core k).rest.job = (s.core k).rest.job)
theorem State.KeepsRuns.chunk {s t : State} (h : s.KeepsRuns t) (k : Nat) : (t.core k).chunk = (s.core k).chunk :=
  (congrArg Core.chunk (h.rest k) : (t.core k).rest.chunk = (s.core k).rest.chunk)
theorem State.KeepsRuns.run {s t : State} (h : s.KeepsRuns t) (k : Nat) : (t.core k).run = (s.core k).run :=
  (congrArg Core.run (h.rest k) : (t.core k).rest.run = (s.core k).rest.run)

theorem State.keepsRuns_setCore (s : State) (k : Nat) (c : Core) (h : c.rest = (s.core k).rest) : s.KeepsRuns (s.setCore k c) := by
  refine ⟨rfl, rfl, rfl, fun j => ?_⟩
  rw [State.core_setCore]
  split
  · next hk => subst hk; exact h
  · rfl

theorem State.keepsRuns_foldl {α : Type} (f : State → α → State) (h : ∀ (s : State) a, s.KeepsRuns (f s a)) (l : List α) (s : State) :
    s.KeepsRuns (l.foldl f s) := by
  induction l generalizing s with
  | nil => exact .refl s
  | cons a l ih => exact (h s a).trans (ih _)

theorem State.AddsNoWrite.keepsRuns {s t : State} (h : s.AddsNoWrite t) : s.KeepsRuns t := by
  rw [h.1]; exact .of_cores rfl rfl rfl rfl

theorem State.keepsRuns_send (s : State) (p : Packet) : s.KeepsRuns (s.send p) := .of_cores (by simp) (by simp) (by simp) (by simp)

theorem State.KeepsRuns.send {s t : State} (h : s.KeepsRuns t) (p : Packet) : s.KeepsRuns (t.send p) := h.trans (t.keepsRuns_send p)

theorem State.keepsRuns_setBooking (s : State) (k : Nat) (b : Booking) : s.KeepsRuns (s.setBooking k b) := s.keepsRuns_setCore k _ rfl

theorem State.keepsRuns_setCtx (s : State) (k : Nat) (fw : Bool) (x : Ctx) : s.KeepsRuns (s.setCtx k fw x) :=
  s.keepsRuns_setCore k _ (by cases fw <;> rfl)

/-! ### Bookings and rounds that end (R76, R427) -/

theorem State.keepsRuns_ownerRelease (s : State) (c : Cal) (id : UseId) : s.KeepsRuns (s.ownerRelease c id) := by
  unfold State.ownerRelease
  dsimp only
  split
  · exact .refl s
  · split
    · split
      · exact .refl s
      · exact .of_cores rfl rfl rfl rfl
    · exact .of_cores rfl rfl rfl rfl

theorem State.keepsRuns_toOwner (s : State) (die core : Nat) (hm : Bool) (xid j : Nat) (u : BUse) (t : BookType) (berth : Nat) :
    s.KeepsRuns (s.toOwner die core hm xid j u t berth) := by
  unfold State.toOwner
  dsimp only
  split
  · exact .of_cores rfl rfl rfl rfl
  · split
    · exact .refl s
    · refine State.KeepsRuns.send ?_ _
      exact .of_cores rfl rfl rfl rfl

theorem State.keepsRuns_releaseUse (s : State) (k : Nat) (b : Booking) (j : Nat) (u : BUse) (t : BookType) :
    s.KeepsRuns (s.releaseUse k b j u t) := by
  unfold State.releaseUse
  split
  · exact .refl s
  · split
    · exact s.keepsRuns_ownerRelease ..
    · split
      · exact s.keepsRuns_toOwner ..
      · exact s.keepsRuns_toOwner ..
      · exact s.keepsRuns_toOwner ..
      · exact .refl s

theorem State.keepsRuns_releaseUses (s : State) (k : Nat) (b : Booking) (t : BookType) (j : Nat) (us : List BUse) :
    s.KeepsRuns (s.releaseUses k b t j us) := by
  induction us generalizing s j with
  | nil => exact .refl s
  | cons u us ih => exact (s.keepsRuns_releaseUse k b j u t).trans (ih _ _)

theorem State.keepsRuns_deliverBooking (s : State) (k : Nat) (b : Booking) : s.KeepsRuns (s.deliverBooking k b) := by
  unfold State.deliverBooking
  split
  · exact s.keepsRuns_setBooking ..
  · exact (s.keepsRuns_setBooking ..).trans (State.keepsRuns_setCtx ..)

theorem State.keepsRuns_endBookings (s : State) (k : Nat) (st : BookStatus) (sub : Nat) : s.KeepsRuns (s.endBookings k st sub) :=
  State.keepsRuns_foldl _ (fun s _ => (s.keepsRuns_releaseUses ..).trans (State.keepsRuns_deliverBooking ..)) _ s

theorem State.keepsRuns_abandonRounds (s : State) (k : Nat) : s.KeepsRuns (s.abandonRounds k) :=
  State.keepsRuns_foldl _ (fun s _ => s.keepsRuns_send _) _ s

/-! ### Completion records (R460, R461) -/

theorem State.keepsRuns_tableRead (s : State) (k va pa : Nat) : s.KeepsRuns (s.tableRead k va pa).1 := by
  unfold State.tableRead
  split
  · exact .refl s
  · dsimp only
    split
    · exact .refl s
    · refine State.KeepsRuns.send ?_ _
      exact .of_cores rfl rfl rfl rfl

theorem State.keepsRuns_walk (s : State) (k t va : Nat) (ls : List (Nat × Nat × Nat × Bool)) : s.KeepsRuns (s.walk k t va ls).1 := by
  induction ls generalizing s t with
  | nil => exact .refl s
  | cons l ls ih =>
    obtain ⟨lo, w, next, leafOk⟩ := l
    have h := s.keepsRuns_tableRead k va (t + 8 * (va / 2 ^ lo % 2 ^ w))
    unfold State.walk
    dsimp only
    split
    · next e => rw [e] at h; exact h
    · next e => rw [e] at h; exact h
    · next e =>
      rw [e] at h
      split
      · exact h
      · split
        · exact h
        · exact h.trans (ih _ _)

theorem State.keepsRuns_asPlace (s : State) (asn : Nat) (a : Acc) (va : VAddr) : s.KeepsRuns (s.asPlace asn a va).1 := by
  have h := s.keepsRuns_walk 0 (s.roots.get 0 asn * 65536) va.toNat walkLevels
  have hw (t : State) : t.KeepsRuns (t.endWalk 0 va.toNat) := (t.addsNoWrite_endWalk ..).keepsRuns
  unfold State.asPlace
  split
  · exact .refl s
  · split
    · next e => rw [e] at h; exact h
    · next e => rw [e] at h; exact h.trans (hw _)
    · next e =>
      rw [e] at h
      split
      · exact h.trans (hw _)
      · exact h.trans (hw _)

theorem State.keepsRuns_homeWrite (s : State) (o : Origin) (of key : Nat) (bs : List Byte) : s.KeepsRuns (s.homeWrite o of key bs) :=
  State.KeepsRuns.trans
    (t := { s with
      mem := writeBytes s.mem key bs, memBad := s.memBad.filter fun g => !(decide (key ≤ g * 16) && decide (g * 16 + 16 ≤ key + bs.length)) })
    (.of_cores rfl rfl rfl rfl) (s.addsNoWrite_homeWrite o of key bs).keepsRuns

/-- A write of an address space that is made, or that waits. -/
theorem State.keepsRuns_asWrite {s t : State} {of : Option RecordOf} {asn core : Nat} {va : VAddr} {bs : List Byte}
    (h : s.asWrite of asn core va bs = .ok t ∨ s.asWrite of asn core va bs = .wait t) : s.KeepsRuns t := by
  have hp := s.keepsRuns_asPlace asn .store va
  unfold State.asWrite at h
  generalize s.asPlace asn .store va = r at h hp
  split at h
  · rcases h with h | h
    · cases h
    · cases h; exact hp
  · rcases h with h | h
    · cases h; exact (hp.trans (State.addsNoWrite_takeTag _).keepsRuns).trans (State.keepsRuns_homeWrite ..)
    · cases h
  · next x p pa win =>
    rcases h with h | h
    · cases h
      refine State.KeepsRuns.trans ?_ (State.keepsRuns_send ..)
      refine (hp.trans (x.keepsRuns_setCore core ((x.core core).addSent p bs.length) rfl)).trans ?_
      split
      · exact .of_cores rfl rfl rfl rfl
      · exact .refl _
    · cases h
  · rcases h with h | h <;> cases h

theorem State.keepsRuns_recordDone (s : State) (of : RecordOf) : s.KeepsRuns (s.recordDone of) := by
  unfold State.recordDone
  dsimp only
  split
  · exact .of_cores rfl rfl rfl rfl
  · exact .refl s

theorem State.keepsRuns_writeParts (s : State) (of : Option RecordOf) (asn core : Nat) (ps : List (VAddr × List Byte)) :
    s.KeepsRuns (s.writeParts of asn core ps) := by
  induction ps generalizing s with
  | nil =>
    unfold State.writeParts
    split
    · exact s.keepsRuns_recordDone _
    · exact .refl s
  | cons p ps ih =>
    obtain ⟨va, bs⟩ := p
    unfold State.writeParts
    split
    · next t e => exact (State.keepsRuns_asWrite (.inl e)).trans (ih t)
    · next t e => exact (State.keepsRuns_asWrite (.inr e)).trans (.of_cores rfl rfl rfl rfl)
    · split
      · exact .of_cores rfl rfl rfl rfl
      · exact .refl s

theorem State.keepsRuns_endRecord (s : State) (k : Nat) (j : Job) (r : Run) (status detail : Nat) :
    s.KeepsRuns (s.endRecord k j r status detail) := s.keepsRuns_writeParts ..

/-! ### A core that leaves its job (R43, R452) -/

/-- The job as it is when the core has given its chunk back and left. -/
def State.jobLeft (s : State) (k id : Nat) : State :=
  match s.jobOf id with
  | some j => s.setJob { j.giveBack (s.core k).chunk with cores := j.cores.filter (· ≠ k) }
  | none => s

theorem State.jobLeft_only (s : State) (k id : Nat) : s.jobLeft k id = { s with jobs := (s.jobLeft k id).jobs } := by
  unfold State.jobLeft; split <;> rfl

theorem State.vacate_of_job {s : State} {k id : Nat} (h : (s.core k).job = some id) :
    s.vacate k = ((s.jobLeft k id).setCore k { (s.jobLeft k id).core k with job := none, chunk := [] }).settleJob id := by
  unfold State.vacate State.jobLeft; simp only [h] <;> rfl

theorem State.settleJob_only (s : State) (id : Nat) : ∃ js bs, s.settleJob id = { s with jobs := js, bars := bs } := by
  unfold State.settleJob
  split
  · exact ⟨_, _, rfl⟩
  · split
    · exact ⟨_, _, rfl⟩
    · split <;> exact ⟨_, _, rfl⟩

/-- The core leaves, and nothing else of any core has changed. -/
theorem State.vacate_only (s : State) (k : Nat) : ∃ js bs, s.vacate k = { s with
    cores := if (s.core k).job.isSome then (s.setCore k { s.core k with job := none, chunk := [] }).cores else s.cores
    jobs := js, bars := bs } := by
  cases h : (s.core k).job with
  | none => exact ⟨s.jobs, s.bars, by unfold State.vacate; simp only [h]; rfl⟩
  | some id =>
    obtain ⟨js, bs, e⟩ := ((s.jobLeft k id).setCore k { (s.jobLeft k id).core k with job := none, chunk := [] }).settleJob_only id
    refine ⟨js, bs, (State.vacate_of_job h).trans (e.trans ?_)⟩
    rw [s.jobLeft_only]
    rfl

theorem State.vacate_core (s : State) (k : Nat) :
    (s.vacate k).core k = { s.core k with job := none, chunk := if (s.core k).job.isSome then [] else (s.core k).chunk } := by
  obtain ⟨js, bs, e⟩ := s.vacate_only k
  rw [e]
  unfold State.core
  dsimp only
  split
  · next h => exact s.core_setCore_self k _
  · next h =>
    have hn : (s.core k).job = none := Option.not_isSome_iff_eq_none.mp h
    show s.core k = { s.core k with job := none }
    rw [← hn]

theorem State.vacate_core_self (s : State) (k : Nat) :
    ((s.vacate k).core k).job = none ∧ ((s.core k).job.isSome = true → ((s.vacate k).core k).chunk = []) := by
  rw [s.vacate_core]
  exact ⟨rfl, fun h => if_pos h⟩

theorem State.vacate_core_of_ne (s : State) {k j : Nat} (h : k ≠ j) : (s.vacate k).core j = s.core j := by
  obtain ⟨js, bs, e⟩ := s.vacate_only k
  rw [e]
  unfold State.core
  dsimp only
  split
  · exact s.core_setCore_of_ne _ h
  · rfl

theorem State.vacate_lqs (s : State) (k : Nat) : (s.vacate k).lqs = s.lqs := by
  obtain ⟨js, bs, e⟩ := s.vacate_only k; rw [e]

theorem State.vacate_pending (s : State) (k : Nat) : (s.vacate k).pending = s.pending := by
  obtain ⟨js, bs, e⟩ := s.vacate_only k; rw [e]

theorem State.vacate_saved (s : State) (k : Nat) : (s.vacate k).saved = s.saved := by
  obtain ⟨js, bs, e⟩ := s.vacate_only k; rw [e]

@[simp] theorem State.vacate_mem (s : State) (k : Nat) : (s.vacate k).mem = s.mem := by
  obtain ⟨js, bs, e⟩ := s.vacate_only k; rw [e]

/-! ### Cores changed one by one -/

theorem State.mapCores_only (f : Core → Core) (ks : List Nat) (s : State) : s.mapCores ks f = { s with cores := (s.mapCores ks f).cores } := by
  unfold State.mapCores
  induction ks generalizing s with
  | nil => rfl
  | cons k ks ih => exact ih (s.setCore k (f (s.core k)))

theorem State.core_mapCores_of_notMem (f : Core → Core) (ks : List Nat) (s : State) {k : Nat} (h : k ∉ ks) :
    (s.mapCores ks f).core k = s.core k := by
  unfold State.mapCores
  induction ks generalizing s with
  | nil => rfl
  | cons j ks ih =>
    exact (ih _ (List.not_mem_of_not_mem_cons h)).trans (s.core_setCore_of_ne _ (Ne.symm (List.ne_of_not_mem_cons h)))

/-- What holds of a core whenever `f` has acted on it holds of every core of the list. -/
theorem State.core_mapCores_mem {f : Core → Core} {P : Core → Prop} (h : ∀ c, P (f c)) (ks : List Nat) (s : State) {k : Nat} (hk : k ∈ ks) :
    P ((s.mapCores ks f).core k) := by
  unfold State.mapCores
  induction ks generalizing s with
  | nil => cases hk
  | cons j ks ih =>
    by_cases hks : k ∈ ks
    · exact ih _ hks
    · obtain rfl : k = j := (List.mem_cons.mp hk).resolve_right hks
      have e : ((s.setCore k (f (s.core k))).mapCores ks f).core k = f (s.core k) :=
        (State.core_mapCores_of_notMem f ks _ hks).trans (s.core_setCore_self k _)
      exact e ▸ h (s.core k)

end Sys2Proof.Machine
end
section
/-!
Gangs are placed; runs start and retire (R43 to R45, R53, R457, R460, R461).
-/

namespace Sys2Proof.Machine

/-! ### Placement (R53) -/

/-- A core as a gang takes it (R43). -/
def Core.taken (x : Core) (id asn root : Nat) : Core := { x with job := some id, asn := asn, root := root, chunk := [] }

/-- A card placed on cores: they are taken, its job is the newest, and its queue moves on. -/
theorem State.placeGang_card (s : State) (q : Nat) (c : Card) (ks : List Nat) :
    let u := s.placeGang q c none ks
    (∀ k, u.core k = (s.mapCores ks fun x => x.taken s.jobCtr c.asn (s.roots.get 0 c.asn)).core k)
      ∧ u.jobs = s.jobs ++
        [{ id := s.jobCtr, q := q, card := c, next := 0, returned := [], again := [], cores := ks, members := ks, leaving := false }]
      ∧ u.lq q = { s.lq q with head := (s.lq q).head + 128, card := none } ∧ u.lastServed = some q ∧ u.mem = s.mem := by
  unfold State.placeGang
  dsimp only
  rw [s.mapCores_only]
  exact ⟨fun _ => rfl, rfl, State.lq_setLq_self .., rfl, rfl⟩

section Placement

variable {s : State} {q : Nat} {c : Card} (hv : s.verified = true) (hp : s.pending = none) (hc : s.candidate q = some (c, none))

include hv hp hc

theorem exec_gangPlacement_placed {ks : List Nat} (h : s.placeable q c.scope c.n = some ks) :
    exec (.gangPlacement q) s = .next (if s.servedFirst q c then s.placeGang q c none ks else s) := by
  show execGangPlacement q s = _
  unfold execGangPlacement
  simp only [hv, hp, hc, h]
  rfl

/-- A card for which there is no room, and none can be made, waits (R450). -/
theorem exec_gangPlacement_waits (h : s.placeable q c.scope c.n = none) (hi : s.chooseInstance q c.prio c.scope c.n = none) :
    exec (.gangPlacement q) s = .next s := by
  have hpre : s.preempt q c = s := by unfold State.preempt; simp only [hi]
  show execGangPlacement q s = _
  unfold execGangPlacement
  simp only [hv, hp, hc, h, hpre, ite_self]

end Placement

/-! ### Dealing (R43) -/

theorem State.jobOf_id {s : State} {id : Nat} {j : Job} (h : s.jobOf id = some j) : j.id = id := by
  simpa using List.find?_some h

/-- A job that is known is the one put in its place. -/
theorem State.jobOf_setJob {s : State} {j i : Job} (h : s.jobOf i.id = some j) : (s.setJob i).jobOf i.id = some i := by
  unfold State.jobOf at h
  show (s.jobs.map fun x => if x.id = i.id then i else x).find? (fun x => x.id = i.id) = some i
  generalize s.jobs = js at h
  induction js with
  | nil => cases h
  | cons x js ih =>
    by_cases hx : x.id = i.id
    · simp [hx]
    · have h : js.find? (fun x => x.id = i.id) = some j := by simpa [hx] using h
      simpa [hx] using ih h

section Dealing

variable {s : State} {k : Nat} {j : Job} (hj : (s.core k).job.bind s.jobOf = some j) (ht : (s.core k).task = none)

include hj ht

/-- A core of a gang that drains leaves (R43, R451). -/
theorem exec_chunkAsk_leaving (hl : j.leaving = true) : exec (.chunkAsk k) s = .next (s.vacate k) := by
  show execChunkAsk k s = _
  unfold execChunkAsk
  simp [hj, ht, hl]

variable (hp : s.pending = none)

include hp

/-- A queue that is not read and dealt deals nothing (R34, R35). -/
theorem exec_chunkAsk_undealt (hl : j.leaving = false) (hd : j.dealing = true)
    (h : s.verified = false ∨ (s.lq j.q).en = false ∨ (s.lq j.q).stop = true) : exec (.chunkAsk k) s = .next s := by
  have hr : (!s.verified || !(s.lq j.q).runs) = true := by
    unfold LQueue.runs
    rcases h with h | h | h <;> simp [h]
  show execChunkAsk k s = _
  unfold execChunkAsk
  simp [hj, ht, hl, hp, hd, hr]

variable (hl : j.leaving = false) (hc : (s.core k).chunk = []) (hf : ∀ i ∈ j.cores, i < k → s.asks i = false)

include hl hc hf

/-- A core for which nothing is left leaves. -/
theorem exec_chunkAsk_over (hd : j.dealing = false) : exec (.chunkAsk k) s = .next (s.vacate k) := by
  have ha : (j.cores.any fun i => decide (i < k) && s.asks i) = false := by simpa using hf
  show execChunkAsk k s = _
  unfold execChunkAsk
  simp [hj, ht, hl, hp, hc, ha, hd]

variable (hv : s.verified = true) (he : (s.lq j.q).en = true) (hs : (s.lq j.q).stop = false)

include hv he hs

/-- A record that came back is dealt first, by itself. -/
theorem exec_chunkAsk_returned {r : Nat} {rs : List Nat} (hr : j.returned = r :: rs) :
    exec (.chunkAsk k) s = .next ((s.setJob { j with returned := rs }).setCore k { s.core k with chunk := [r] }) := by
  have ha : (j.cores.any fun i => decide (i < k) && s.asks i) = false := by simpa using hf
  have hd : j.dealing = true := by simp [Job.dealing, hr]
  show execChunkAsk k s = _
  unfold execChunkAsk LQueue.runs
  simp only [hj, ht, hl, hp, hc, ha, hd, hv, he, hs, hr]
  rfl

/-- The next records of the job are dealt, as many as the rule says. -/
theorem exec_chunkAsk_next (hr : j.returned = []) (hn : j.left ≠ 0) :
    exec (.chunkAsk k) s = .next ((s.setJob { j with next := j.next + j.chunkSize }).setCore k
      { s.core k with chunk := (List.range j.chunkSize).map (j.next + ·) }) := by
  have ha : (j.cores.any fun i => decide (i < k) && s.asks i) = false := by simpa using hf
  have hd : j.dealing = true := by simp [Job.dealing, Nat.pos_of_ne_zero hn]
  show execChunkAsk k s = _
  unfold execChunkAsk LQueue.runs
  simp only [hj, ht, hl, hp, hc, ha, hd, hv, he, hs, hr]
  rfl

end Dealing

/-! ### The start of a run (R44, R45) -/

section RunStart

variable {s : State} {k i : Nat} {rest : List Nat} {j : Job} (hj : (s.core k).job.bind s.jobOf = some j) (hc : (s.core k).chunk = i :: rest)

include hj hc

/-- A core that is not set for the address space of its job waits. -/
theorem exec_runStart_unset (h : (s.core k).asn ≠ j.card.asn) : exec (.runStart k) s = .next s := by
  show execRunStart k s = _
  unfold execRunStart
  simp [hj, hc, h]

theorem exec_runStart (ht : (s.core k).task = none) (hd : (s.core k).dead = false) (hl : j.leaving = false) (hp : s.pending = none)
    (hv : s.verified = true) (ha : (s.core k).asn = j.card.asn) (hr : ∀ t, s.recordHeader j.card i ≠ .wait t) :
    exec (.runStart k) s = .next ((s.startRun k j i rest).dropAs 8) := by
  show execRunStart k s = _
  unfold execRunStart
  simp only [hj, hc, ht, hd, hl, hp, hv, ha, ne_eq, not_true_eq_false, decide_false]
  generalize s.recordHeader j.card i = r at hr
  cases r with
  | wait t => exact absurd rfl (hr t)
  | ok bs => rfl
  | fail => rfl

end RunStart

/-- No scalar register is empty, and none carries a mark. -/
def Ctx.Clear (c : Ctx) : Prop := ∀ r, c.getFE r = .full ∧ c.getMark r = none

theorem Ctx.Clear.setS {c : Ctx} (h : c.Clear) (r : Reg) (v : W64) : (c.setS r v).Clear := by
  intro q
  by_cases hq : q = r
  · subst hq
    obtain ⟨-, hfe, hm⟩ := c.setS_holds q v
    exact ⟨hfe, hm⟩
  · obtain ⟨-, hfe, hm⟩ := c.setS_keepsS r v q (by simpa using hq)
    exact ⟨hfe.trans (h q).1, hm.trans (h q).2⟩

theorem Ctx.getS_setS (c : Ctx) (r q : Reg) (v : W64) : (c.setS r v).getS q = if q = r ∧ r ≠ 0 then v else c.getS q := by
  by_cases hq : q = r
  · subst hq
    refine (c.setS_holds q v).1.trans ?_
    by_cases h0 : q = 0
    · simp [h0, Ctx.getS]
    · rw [if_neg h0, if_pos ⟨rfl, h0⟩]
  · rw [if_neg (fun h => hq h.1)]
    exact (c.setS_keepsS r v q (by simpa using hq)).1

theorem Ctx.getA_setA (c : Ctx) (r q : AReg) (v : VAddr) : (c.setA r v).getA q = if q = r then v else c.getA q := by
  split
  · next h => subst h; exact c.getA_setA_self q v
  · next h => exact c.setA_keepsA r v q (by simpa using h)

@[simp] theorem Ctx.getA_setS (c : Ctx) (r : Reg) (q : AReg) (v : W64) : (c.setS r v).getA q = c.getA q := by simp [Ctx.getA]
@[simp] theorem Ctx.getP_setS (c : Ctx) (r : Reg) (q : PReg) (v : W64) : (c.setS r v).getP q = c.getP q := by simp [Ctx.getP]
@[simp] theorem Ctx.getS_setA (c : Ctx) (r : AReg) (q : Reg) (v : VAddr) : (c.setA r v).getS q = c.getS q := by simp [Ctx.getS]
@[simp] theorem Ctx.getP_setA (c : Ctx) (r : AReg) (q : PReg) (v : VAddr) : (c.setA r v).getP q = c.getP q := by simp [Ctx.getP]

section StartedContext

variable (u : Ctx) (entry : VAddr)

@[simp] theorem Ctx.startRun_getS (r : Reg) : (u.startRun entry).getS r = 0 := ite_self _
@[simp] theorem Ctx.startRun_getA (r : AReg) : (u.startRun entry).getA r = 0 := rfl
theorem Ctx.startRun_getP {r : PReg} (h : r ≠ 0) : (u.startRun entry).getP r = false := if_neg h
theorem Ctx.startRun_clear : (u.startRun entry).Clear := fun _ => ⟨ite_self _, ite_self _⟩

end StartedContext

/-- The context of a run as it starts. -/
def Ctx.ofRun (u : Ctx) (entry args spadEnd : VAddr) (i m : Nat) (keep : W64) : Ctx :=
  (((((u.startRun entry).setA 14 args).setA 15 spadEnd).setS 1 (BitVec.ofNat 64 i)).setS 2 (BitVec.ofNat 64 m)).setS 3 keep

section OfRun

variable (u : Ctx) (entry args spadEnd : VAddr) (i m : Nat) (keep : W64)

theorem Ctx.ofRun_getS (r : Reg) : (u.ofRun entry args spadEnd i m keep).getS r =
    if r = 3 then keep else if r = 2 then BitVec.ofNat 64 m else if r = 1 then BitVec.ofNat 64 i else 0 := by
  simp [Ctx.ofRun, Ctx.getS_setS]

theorem Ctx.ofRun_getA (r : AReg) : (u.ofRun entry args spadEnd i m keep).getA r =
    if r = 15 then spadEnd else if r = 14 then args else 0 := by
  simp [Ctx.ofRun, Ctx.getA_setA]

theorem Ctx.ofRun_getP {r : PReg} (h : r ≠ 0) : (u.ofRun entry args spadEnd i m keep).getP r = false := by
  simpa [Ctx.ofRun] using u.startRun_getP entry h

theorem Ctx.ofRun_clear : (u.ofRun entry args spadEnd i m keep).Clear := by
  have ha : (((u.startRun entry).setA 14 args).setA 15 spadEnd).Clear := u.startRun_clear entry
  exact ((ha.setS 1 _).setS 2 _).setS 3 _

theorem Ctx.ofRun_starts : let c := u.ofRun entry args spadEnd i m keep
    c.pc = entry ∧ c.ih = false ∧ c.slot = none ∧ c.op = none := by
  simp [Ctx.ofRun, Ctx.startRun, Ctx.reset]

end OfRun

/-- Where the own scratchpad of a partition ends (R44, R226). -/
theorem Core.spadEnd_eq (x : Core) :
    x.spadEnd = BitVec.ofNat 72 (0xFF * 2 ^ 64 + (64 - x.part_.toNat % 8 - x.part_.toNat / 256 % 64) * 65536) := by
  simp [Core.spadEnd, Core.spadSize, Core.vru, Core.acu, nbits]

/-- Storage stays for a further run of the same job, and is clear for another (R44). -/
theorem Core.startRun_storage (c : Core) (keep : Prop) [Decidable keep] :
    let d := c.startRun keep
    (keep → d.sram = c.sram ∧ d.om = c.om ∧ d.masks = c.masks) ∧ (¬ keep → d.sram = [] ∧ d.om = [] ∧ d.masks = []) := by
  unfold Core.startRun
  exact ⟨fun h => by simp [h], fun h => by simp [h]⟩

/-- The core of a run as it starts. -/
theorem State.core_startRun (s : State) (k : Nat) (j : Job) (i : Nat) (rest : List Nat) :
    let c := s.core k
    let keep : Prop := c.lastJob = some j.id
    let x : Core := { c.startRun keep with part_ := j.card.part_ }
    ∃ r : Run, r.job = j.id ∧ r.idx = i ∧ r.member = j.member k ∧ r.start = s.tb ∧ r.exited = false
      ∧ ((s.startRun k j i rest).dropAs 8).core k = { x with
        user := x.user.ofRun j.card.entry (vadd j.card.args (j.card.rsize * i)) x.spadEnd i (j.member k) (if keep then 1 else 0)
        run := true, est := s.recordEst j.card i, estAt := s.tb, chunk := rest, task := some r } :=
  ⟨_, rfl, rfl, rfl, rfl, rfl, s.core_setCore_self k _⟩

/-- An estimate that a record states is taken (R41). -/
theorem State.recordEst_stated {s : State} {c : Card} {i : Nat} {bs : List Byte} (h : s.recordHeader c i = .ok bs)
    (hn : field bs 0 8 % 2 ^ 40 ≠ 0) : s.recordEst c i = field bs 0 8 % 2 ^ 40 := by
  unfold State.recordEst
  simp only [h]
  exact if_neg hn

/-! ### Retirement (R457, R460, R461) -/

theorem State.finishSave_of_none {s : State} (h : s.pending = none) : s.finishSave = s := by unfold State.finishSave; simp only [h]

theorem exec_retirement {s : State} {k : Nat} {j : Job} {r : Run} (ht : (s.core k).task = some r)
    (hj : (s.core k).job.bind s.jobOf = some j) (he : r.exited = true) (hr : s.retirable k = true) (hs : (s.core k).sent = [])
    (hp : s.pending = none) (hv : s.verified = true) (hf : ∀ f ∈ s.fenceSrc, f.core = k → f.retire = false) :
    let t := s.endRecord k j r 1 0
    exec (.retirement k) s = .next (t.setCore k { t.core k with task := none, lastJob := some j.id }) := by
  intro t
  have hany : (s.fenceSrc.any fun f => decide (f.core = k) && f.retire) = false := by simpa using hf
  have hpt : (t.setCore k { t.core k with task := none, lastJob := some j.id }).pending = none :=
    (s.keepsRuns_endRecord k j r 1 0).pending.trans hp
  show execRetirement k s = _
  unfold execRetirement
  simp only [ht, hj, he, hr, hv, hany, hs]
  exact congrArg Host.Outcome.next (State.finishSave_of_none hpt)

/-- The flags of a record (R460). -/
theorem recordFlags (a b c : Prop) [Decidable a] [Decidable b] [Decidable c] :
    let f := (if a then 1 else 0) + (if b then 2 else 0) + (if c then 4 else 0)
    f < 8 ∧ f / 2 % 2 = (if b then 1 else 0) ∧ f / 4 = (if c then 1 else 0) ∧ f % 2 = if a then 1 else 0 := by
  by_cases a <;> by_cases b <;> by_cases c <;> simp [*]

/-- The two halves of a record, apart from one another in this package's memory. -/
theorem State.record_home {s s1 : State} {of : RecordOf} {asn k a b : Nat} {va : VAddr} {bs : List Byte} (hlen : bs.length = 32)
    (ho : of.card = none) (h1 : s.asWrite (some of) asn k (va + 16) (bs.drop 16) = .ok s1)
    (hb : (s.asPlace asn .store (va + 16)).2 = .ok (.home b) none) (ha : (s1.asPlace asn .store va).2 = .ok (.home a) none)
    (hab : b + 16 ≤ a ∨ a + 16 ≤ b) :
    let u := s.writeRecord of asn k va bs
    readBytes u.mem a 16 = bs.take 16 ∧ readBytes u.mem b 16 = bs.drop 16
      ∧ (∀ i, (i < a ∨ a + 16 ≤ i) → (i < b ∨ b + 16 ≤ i) → u.byteAt i = s.byteAt i) ∧ u.lqs = s.lqs := by
  have hlt : (bs.take 16).length = 16 := by simp [hlen]
  have hld : (bs.drop 16).length = 16 := by simp [hlen]
  have hu := (State.writeRecord_home hb h1 ha).trans (State.recordDone_ofRun _ ho)
  simp only [hu, State.byteAt, State.putHome_mem, State.putHome_lqs, and_true]
  refine ⟨?_, ?_, fun i hia hib => ?_⟩
  · have h := readBytes_writeBytes_self (writeBytes s.mem b (bs.drop 16)) a (bs.take 16)
    rwa [hlt] at h
  · rw [readBytes_writeBytes_apart _ _ _ _ _ (by omega)]
    have h := readBytes_writeBytes_self s.mem b (bs.drop 16)
    rwa [hld] at h
  · simp only [get_writeBytes, hlt, hld]
    rw [if_neg (by omega), if_neg (by omega)]

/-- A field that follows bytes is a field of what follows them. -/
theorem field_append (l r : List Byte) (o n : Nat) : field (l ++ r) (l.length + o) n = field r o n := by
  unfold field; simp [List.drop_append, List.drop_of_length_le]

theorem field_leBytes (n v : Nat) (r : List Byte) : field (leBytes n v ++ r) 0 n = v % 256 ^ n := by
  unfold field
  rw [List.drop_zero, ← leNat_leBytes]
  congr 1
  simp

theorem recordBytes_fields (status flags core idx start end_ detail : Nat) :
    let bs := recordBytes status flags core idx start end_ detail
    bs.length = 32 ∧ field bs 0 1 = status % 256 ∧ field bs 1 1 = flags % 256 ∧ field bs 2 2 = core % 2 ^ 16
      ∧ field bs 4 4 = idx % 2 ^ 32 ∧ field bs 8 8 = start % 2 ^ 64 ∧ field bs 0x10 8 = end_ % 2 ^ 64
      ∧ field bs 0x18 8 = detail % 2 ^ 64 := by
  have skip (n v o m : Nat) (r : List Byte) : field (leBytes n v ++ r) (n + o) m = field r o m := by
    simpa using field_append (leBytes n v) r o m
  have last (n v : Nat) : field (leBytes n v) 0 n = v % 256 ^ n := by simpa using field_leBytes n v []
  simp only [recordBytes, List.append_assoc]
  refine ⟨by simp, field_leBytes 1 status _, ?_, ?_, ?_, ?_, ?_, ?_⟩
  · exact (skip 1 _ 0 1 _).trans (field_leBytes 1 flags _)
  · exact (skip 1 _ 1 2 _).trans ((skip 1 _ 0 2 _).trans (field_leBytes 2 core _))
  · exact (skip 1 _ 3 4 _).trans ((skip 1 _ 2 4 _).trans ((skip 2 _ 0 4 _).trans (field_leBytes 4 idx _)))
  · exact (skip 1 _ 7 8 _).trans ((skip 1 _ 6 8 _).trans ((skip 2 _ 4 8 _).trans ((skip 4 _ 0 8 _).trans (field_leBytes 8 start _))))
  · exact (skip 1 _ 15 8 _).trans ((skip 1 _ 14 8 _).trans ((skip 2 _ 12 8 _).trans ((skip 4 _ 8 8 _).trans
      ((skip 8 _ 0 8 _).trans (field_leBytes 8 end_ _)))))
  · exact (skip 1 _ 23 8 _).trans ((skip 1 _ 22 8 _).trans ((skip 2 _ 20 8 _).trans ((skip 4 _ 16 8 _).trans
      ((skip 8 _ 8 8 _).trans ((skip 8 _ 0 8 _).trans (last 8 detail))))))

/-! ### The statement -/

/-- Settles O40: placement, dealing and the start of a run are equations of their steps; the record of a run that retires leaves its
core as it was, and where both halves lie in this package's memory they are two writes. -/
theorem runsStartAndRetire : Obligations.RunsStartAndRetire := by
  unfold Obligations.RunsStartAndRetire
  refine ⟨⟨?placement, ?dealing, ?start⟩, ?retirement, ?record, fun status flags core idx start end_ detail =>
    recordBytes_fields status flags core idx start end_ detail⟩
  case placement =>
    intro s q c ks hv hp hc
    refine ⟨fun h hf => ⟨s.placeGang q c none ks, ?_, ?_⟩, fun h hf => ⟨s, ?_, rfl⟩,
      fun h hi => ⟨s, exec_gangPlacement_waits hv hp hc h hi, rfl⟩⟩
    · rw [exec_gangPlacement_placed hv hp hc h, hf]; rfl
    · obtain ⟨hcore, hjobs, hlq, hlast, hmem⟩ := s.placeGang_card q c ks
      refine ⟨fun k hk => ?_, fun k hk => (hcore k).trans (State.core_mapCores_of_notMem _ ks s hk),
        ⟨_, hjobs, rfl, rfl, rfl, rfl, rfl, rfl, rfl⟩, by rw [hlq], by rw [hlq], hlast, hmem⟩
      rw [hcore]
      exact State.core_mapCores_mem (P := fun x => x.job = some s.jobCtr ∧ x.asn = c.asn ∧ x.root = s.roots.get 0 c.asn ∧ x.chunk = [])
        (fun x => ⟨rfl, rfl, rfl, rfl⟩) ks s hk
    · rw [exec_gangPlacement_placed hv hp hc h, hf]; rfl
  case dealing =>
    intro s k j c hj ht hp
    have hid : c.job.isSome = true := by
      cases h : c.job with
      | none => rw [h] at hj; cases hj
      | some id => rfl
    have hjob : s.jobOf j.id = some j := by
      cases h : c.job with
      | none => rw [h] at hid; cases hid
      | some id => rw [h] at hj; exact (State.jobOf_id hj).symm ▸ hj
    refine ⟨fun hl => ⟨_, exec_chunkAsk_leaving hj ht hl, (s.vacate_core_self k).1, (s.vacate_core_self k).2 hid, s.vacate_mem k⟩,
      fun hl hd h => ⟨s, exec_chunkAsk_undealt hj ht hp hl hd h, rfl⟩, ?_⟩
    · intro hl hc hf
      refine ⟨fun hd => ⟨_, exec_chunkAsk_over hj ht hp hl hc hf hd, (s.vacate_core_self k).1, s.vacate_mem k⟩, ?_⟩
      intro hv he hs left n
      refine ⟨fun r rs hr => ⟨_, exec_chunkAsk_returned hj ht hp hl hc hf hv he hs hr, ?_⟩,
        fun hr hn => ⟨_, exec_chunkAsk_next hj ht hp hl hc hf hv he hs hr hn, ?_⟩⟩
      · exact ⟨by rw [State.core_setCore_self], State.jobOf_setJob (i := { j with returned := rs }) hjob, rfl⟩
      · exact ⟨by rw [State.core_setCore_self]; rfl, State.jobOf_setJob (i := { j with next := j.next + j.chunkSize }) hjob, rfl⟩
  case start =>
    intro s k i rest j c hj hc ht hd hl hp hv
    refine ⟨fun ha => ⟨s, exec_runStart_unset hj hc ha, rfl⟩, fun ha hr => ⟨_, exec_runStart hj hc ht hd hl hp hv ha hr, ?_⟩⟩
    obtain ⟨r, hrj, hri, hrm, hrs, hre, hcore⟩ := s.core_startRun k j i rest
    have hne (n : Nat) (hn : n ≠ k) : ((s.startRun k j i rest).dropAs 8).core n = s.core n := s.core_setCore_of_ne _ (Ne.symm hn)
    dsimp only
    rw [hcore]
    obtain ⟨hpc, hih, hslot, hop⟩ := Ctx.ofRun_starts c.user j.card.entry (vadd j.card.args (j.card.rsize * i))
      { c.startRun (c.lastJob = some j.id) with part_ := j.card.part_ }.spadEnd i (j.member k) (if c.lastJob = some j.id then 1 else 0)
    refine ⟨rfl, rfl, ha, rfl, rfl, ⟨r, rfl, hrj, hri, hrm, hrs, hre⟩, fun bs hb hn => State.recordEst_stated hb hn,
      hpc, hih, hslot, hop, Ctx.ofRun_getA .., (Ctx.ofRun_getA ..).trans (Core.spadEnd_eq _), Ctx.ofRun_getS .., Ctx.ofRun_getS .., Ctx.ofRun_getS ..,
      fun r hr => ?_, Ctx.ofRun_clear _ _ _ _ _ _ _, fun r hr => ?_, fun r hr => Ctx.ofRun_getP _ _ _ _ _ _ _ hr,
      (c.startRun_storage _).1, (c.startRun_storage _).2, rfl, rfl, rfl, rfl, rfl, rfl, fun e => ?_, hne, rfl⟩
    · simp_all [Ctx.ofRun_getS]
    · simp_all [Ctx.ofRun_getA]
    · cases e <;> exact ⟨rfl, rfl, rfl⟩
  case retirement =>
    intro s k j r c ht hj he hr hs hp hv hf
    have hk := s.keepsRuns_endRecord k j r 1 0
    obtain ⟨hlt, hckpted, hagain, hcmm⟩ := recordFlags (r.cmm || c.user.unreadMismatch) r.ckpted r.again
    refine ⟨_, exec_retirement ht hj he hr hs hp hv hf, _, rfl, hlt, hckpted, hagain, hcmm.trans ?_, ?_⟩
    · simp
    · simp only [State.core_setCore_self]
      exact ⟨trivial, trivial, hk.job k, hk.chunk k⟩
  case record =>
    intro s s1 of asn k a b va bs hlen ho h1 hb ha hab
    exact State.record_home hlen ho h1 hb ha hab

end Sys2Proof.Machine
end
section
/-!
SUPPORT. Storage written place by place, and images of memory read back (R50, R454, R455).
-/

namespace Sys2Proof

/-- What is read of a thing changed place by place, where one place alone gives it its value. -/
theorem foldl_range_read {α β : Type} {f : α → Nat → α} {g : α → β} {j n : Nat} {v : β}
    (h : ∀ a i, i < n → g (f a i) = if i = j then v else g a) (a : α) : g ((List.range n).foldl f a) = if j < n then v else g a := by
  induction n with
  | zero => rfl
  | succ n ih =>
    rw [List.range_succ, List.foldl_append, List.foldl_cons, List.foldl_nil, h _ n (Nat.lt_succ_self n),
      ih fun a i hi => h a i (Nat.lt_succ_of_lt hi)]
    by_cases hj : n = j
    · simp [hj]
    · simp only [if_neg hj, show j < n + 1 ↔ j < n by omega]

/-- Storage of which the first places are written. -/
theorem FMap.get_foldl_put {α : Type} [DecidableEq α] (d : α) (val : Nat → α) (n : Nat) (m : FMap α) (k : Nat) :
    FMap.get d ((List.range n).foldl (fun m i => FMap.put d m i (val i)) m) k = if k < n then val k else FMap.get d m k := by
  refine foldl_range_read (g := fun m => FMap.get d m k) (fun m i _ => ?_) m
  rw [FMap.get_put]
  split
  · next h => rw [h]
  · rfl

/-- Storage moved from place to place: what stands at `k` is what stood at `j`, and at no other place. -/
theorem FMap.get_filterMap {α : Type} (d : α) {f : Nat × α → Option (Nat × α)} {j k : Nat} (hj : ∀ v, f (j, v) = some (k, v))
    (hk : ∀ p q, f p = some q → q.1 = k → p.1 = j) (m : FMap α) : FMap.get d (m.filterMap f) k = FMap.get d m j := by
  induction m with
  | nil => rfl
  | cons p m ih =>
    obtain ⟨i, v⟩ := p
    by_cases hi : i = j
    · subst hi
      rw [List.filterMap_cons_some (hj v)]
      simp [FMap.get]
    · rw [FMap.get, if_neg hi, ← ih]
      cases hf : f (i, v) with
      | none => rw [List.filterMap_cons_none hf]
      | some q =>
        rw [List.filterMap_cons_some hf]
        exact if_neg fun hq => hi (hk _ q hf hq)

/-- Storage behind other storage is not read where it lists nothing. -/
theorem FMap.get_append_left {α : Type} (d : α) (m l : FMap α) {k : Nat} (h : ∀ p ∈ l, p.1 ≠ k) :
    FMap.get d (m ++ l) k = FMap.get d m k := by
  induction m with
  | nil =>
    induction l with
    | nil => rfl
    | cons p l ih => exact (if_neg (h p (List.mem_cons_self ..))).trans (ih fun q hq => h q (List.mem_cons_of_mem _ hq))
  | cons p m ih => exact congrArg (fun x => if p.1 = k then p.2 else x) ih

namespace Machine

theorem get_partOf (m : FMap Byte) (o n : Nat) {i : Nat} (h : i < n) : FMap.get 0 (partOf m o n) i = FMap.get 0 m (o + i) := by
  unfold partOf
  rw [← List.filterMap_eq_filter, List.map_filterMap]
  refine FMap.get_filterMap 0 (fun v => ?_) (fun p q hp hq => ?_) m
  · simp [Option.guard, h]
  · simp only [Option.guard] at hp
    split at hp
    · next hg => simp at hp hg; subst hp; simp at hq; omega
    · simp at hp

/-- A record that is as it was written has every field as it was written. -/
theorem RecordIn.same_of_eq {r : RecordIn} (h : r.m = r.old) (o n : Nat) : r.same o n = true := by simp [RecordIn.same, h]

/-- The bytes of an operand slot of a record. -/
theorem RecordIn.get_slots (r : RecordIn) {t i : Nat} (ht : t < 32) (hi : i < 16384) :
    FMap.get 0 (r.slots false) (16384 * t + i) = FMap.get 0 r.m (0x41FC0 + 16896 * t + i) := by
  unfold RecordIn.slots
  rw [FMap.get_filterMap (j := 16896 * t + i) 0 (fun v => ?_) (fun p q hp hq => ?_), get_partOf _ _ _ (by omega), Nat.add_assoc]
  · simp
    omega
  · simp at hp
    obtain ⟨hx, rfl⟩ := hp
    simp at hq
    omega

end Machine

end Sys2Proof
end
section
/-!
Checkpoints, the save area, and resuming (R48, R49, R51, R384, R453 to R455).
-/

namespace Sys2Proof.Machine

/-! ### A context that stops (R138) -/

theorem Core.leaveDemand_keeps (c : Core) (fw : Bool) :
    (c.leaveDemand fw).run = c.run ∧ (c.leaveDemand fw).task = c.task ∧ (c.leaveDemand fw).user = c.user := by
  have hd (d : Demand) : (c.dropForced d).run = c.run ∧ (c.dropForced d).task = c.task ∧ (c.dropForced d).user = c.user := by
    unfold Core.dropForced; split <;> exact ⟨rfl, rfl, rfl⟩
  unfold Core.leaveDemand
  split
  · exact ⟨rfl, rfl, rfl⟩
  · split
    · exact ⟨rfl, rfl, rfl⟩
    · dsimp only
      split <;> exact hd _

/-- A core whose user context stops while its word has not sent a card. -/
def State.stoppedCore (s : State) (k : Nat) : Core :=
  { s.core k with
    run := false
    user := { (s.core k).user.countStall s.tb with op := none, blocked := (s.core k).user.blocked || (s.core k).user.op.isSome } }.leaveDemand false

theorem State.stoppedCore_stops (s : State) (k : Nat) :
    (s.stoppedCore k).run = false ∧ (s.stoppedCore k).task = (s.core k).task ∧ (s.stoppedCore k).user.op = none := by
  obtain ⟨hr, ht, hu⟩ := Core.leaveDemand_keeps { s.core k with
    run := false
    user := { (s.core k).user.countStall s.tb with op := none, blocked := (s.core k).user.blocked || (s.core k).user.op.isSome } } false
  exact ⟨hr, ht, congrArg Ctx.op hu⟩

theorem State.writeUctl_stop (s : State) (k : Nat) : s.writeUctl k 0 =
    if (s.core k).user.sentCard then s.setCore k { s.core k with run := false } else (s.setCore k (s.stoppedCore k)).dropWalk k := rfl

/-- Another step of firmware at a core: every other core, the launch queues and the save in progress are as they were. -/
structure State.ActsAt (s t : State) (k : Nat) : Prop where
  core : ∀ j, j ≠ k → t.core j = s.core j
  lqs : t.lqs = s.lqs
  pending : t.pending = s.pending

theorem State.ActsAt.trans {s t u : State} {k : Nat} (h : s.ActsAt t k) (g : t.ActsAt u k) : s.ActsAt u k :=
  ⟨fun j hj => (g.core j hj).trans (h.core j hj), g.lqs.trans h.lqs, g.pending.trans h.pending⟩

theorem State.ActsAt.of_cores {s t : State} (k : Nat) (hc : t.cores = s.cores) (hq : t.lqs = s.lqs) (hp : t.pending = s.pending) :
    s.ActsAt t k := ⟨fun _ _ => by unfold State.core; rw [hc], hq, hp⟩

theorem State.setCore_actsAt (s : State) (k : Nat) (c : Core) : s.ActsAt (s.setCore k c) k :=
  ⟨fun _ hj => s.core_setCore_of_ne c (Ne.symm hj), rfl, rfl⟩

theorem State.vacate_actsAt (s : State) (k : Nat) : s.ActsAt (s.vacate k) k :=
  ⟨fun _ hj => s.vacate_core_of_ne (Ne.symm hj), s.vacate_lqs k, s.vacate_pending k⟩

theorem State.abandonRounds_only (s : State) (k : Nat) :
    (s.abandonRounds k).cores = s.cores ∧ (s.abandonRounds k).lqs = s.lqs ∧ (s.abandonRounds k).pending = s.pending := by
  unfold State.abandonRounds
  refine List.foldlRecOn (motive := fun t : State => t.cores = s.cores ∧ t.lqs = s.lqs ∧ t.pending = s.pending) _ _ ⟨rfl, rfl, rfl⟩ ?_
  intro t ht r _
  simpa using ht

/-! ### A checkpoint begins (R453) -/

/-- The run of a core begins to be saved. -/
def Core.saving (c : Core) : Core := { c with task := c.task.map fun r => { r with saving := true } }

theorem State.startCheckpoint_actsAt (s : State) (k : Nat) : s.ActsAt (s.startCheckpoint k) k := by
  obtain ⟨hc, hq, hp⟩ := ((s.writeUctl k 0).setCore k ((s.writeUctl k 0).core k).saving).abandonRounds_only k
  have hs : s.ActsAt (s.writeUctl k 0) k := by
    rw [s.writeUctl_stop]
    split
    · exact s.setCore_actsAt k _
    · exact (s.setCore_actsAt k _).trans (.of_cores k rfl rfl rfl)
  exact hs.trans ((State.setCore_actsAt _ k _).trans (.of_cores k hc hq hp))

/-- A run that begins to be saved has stopped, and no word of it waits (R138, R453). -/
theorem State.startCheckpoint_core {s : State} {k : Nat} {r : Run} (ht : (s.core k).task = some r) (hs : (s.core k).user.sentCard = false) :
    let c := (s.startCheckpoint k).core k
    c.task = some { r with saving := true } ∧ c.run = false ∧ c.user.op = none := by
  obtain ⟨hc, -⟩ := ((s.writeUctl k 0).setCore k ((s.writeUctl k 0).core k).saving).abandonRounds_only k
  have hw : (s.writeUctl k 0).core k = s.stoppedCore k := by
    rw [s.writeUctl_stop, hs]
    exact s.core_setCore_self k _
  have hk : (s.startCheckpoint k).core k = (s.stoppedCore k).saving := by
    rw [← hw]
    show FMap.get _ (State.cores (State.abandonRounds _ k)) k = _
    exact (congrArg (fun m => FMap.get Core.reset m k) hc).trans (State.core_setCore_self _ k _)
  obtain ⟨hrun, htask, hop⟩ := s.stoppedCore_stops k
  rw [hk]
  exact ⟨by unfold Core.saving; rw [htask, ht]; rfl, hrun, hop⟩

/-! ### The package is saved (R49, R463) -/

/-- What a save of the package does at a core: its run begins to be saved, or it leaves. -/
def State.beginSave (s : State) (k : Nat) : State :=
  match (s.core k).task with
  | some r => if r.exited || r.saving then s else s.startCheckpoint k
  | none => s.vacate k

theorem State.beginSave_actsAt (s : State) (k : Nat) : s.ActsAt (s.beginSave k) k := by
  unfold State.beginSave
  split
  · split
    · exact .of_cores k rfl rfl rfl
    · exact s.startCheckpoint_actsAt k
  · exact s.vacate_actsAt k

section EveryCore

variable {f : State → Nat → State} (h : ∀ (s : State) k, s.ActsAt (f s k) k)

include h

theorem State.foldl_actsAt (l : List Nat) (s : State) : (l.foldl f s).lqs = s.lqs ∧ (l.foldl f s).pending = s.pending := by
  refine List.foldlRecOn (motive := fun t : State => t.lqs = s.lqs ∧ t.pending = s.pending) _ _ ⟨rfl, rfl⟩ fun t ht k _ => ?_
  exact ⟨(h t k).lqs.trans ht.1, (h t k).pending.trans ht.2⟩

theorem State.core_foldl_of_notMem {l : List Nat} (s : State) {k : Nat} (hk : k ∉ l) : (l.foldl f s).core k = s.core k := by
  refine List.foldlRecOn (motive := fun t : State => t.core k = s.core k) _ _ rfl fun t ht j hj => ?_
  exact ((h t j).core k fun e => hk (e ▸ hj)).trans ht

/-- Each core is acted on once, as it stood. -/
theorem State.core_foldl_mem {P : Core → Prop} {l : List Nat} (hl : l.Nodup) {s : State} {k : Nat}
    (hP : ∀ t : State, t.core k = s.core k → P ((f t k).core k)) (hk : k ∈ l) : P ((l.foldl f s).core k) := by
  induction l generalizing s with
  | nil => cases hk
  | cons j l ih =>
    obtain ⟨hj, hl⟩ := List.nodup_cons.mp hl
    by_cases hjk : k = j
    · subst hjk
      rw [List.foldl_cons, State.core_foldl_of_notMem h _ hj]
      exact hP s rfl
    · have hc := (h s j).core k hjk
      exact ih hl (fun t ht => hP t (ht.trans hc)) ((List.mem_cons.mp hk).resolve_left hjk)

end EveryCore

theorem State.disableQueues_only (s : State) : ∃ l, s.disableQueues = { s with lqs := l, reserved := [] } := ⟨_, rfl⟩

theorem State.disableQueues_en (s : State) {q : Nat} (h : q < 64) : (s.disableQueues.lq q).en = false := by
  unfold State.disableQueues State.lq
  generalize 64 = n at h
  refine (foldl_range_read (g := fun m => (FMap.get LQueue.reset m q).en) (j := q) (v := false) (fun m i _ => ?_) s.lqs).trans (if_pos h)
  dsimp only
  rw [FMap.get_put]
  split <;> rfl

/-- An image is written in memory, and invalidations leave for the copies of its lines. -/
theorem State.writeImage_only (s : State) (key n : Nat) (m : FMap Byte) :
    ∃ bad mem fl tag, s.writeImage key n m = { s with memBad := bad, mem := mem, flights := fl, nextTag := tag } := by
  unfold State.writeImage
  dsimp only
  generalize List.range 10 = ds
  exact ⟨_, _, _, _, (State.addsNoWrite_foldl _
    (fun s d => State.addsNoWrite_foldl _ (fun s p => s.addsNoWrite_addInval ..) _ s) ds _).1⟩

/-- The runs that a save area holds, each at its place of it (R50). -/
def State.placeRuns (s : State) (a : Nat) : State := { s with saved := s.saved.mapIdx fun i v => { v with addr := a + areaHead + i * recordSize } }

/-- The save area is written, or the save fails (R49, R463). -/
def State.writeArea (s : State) (p : SaveReq) (n : Nat) : State :=
  match p.addr with
  | some a =>
    if farOk a n then
      let s := s.placeRuns a
      let qs := s.savedQueues p.queues
      let s := s.writeImage a n (s.areaImage qs)
      State.tell { s with saveArea := some { addr := a, queues := qs, jobs := s.jobs, runs := s.saved } } (if p.trip3 then .trip3 else .updateReady)
    else s.failSave
  | none => s.failSave

theorem State.writeArea_keeps (s : State) (p : SaveReq) (n : Nat) :
    (s.writeArea p n).lqs = s.lqs ∧ (s.writeArea p n).pending = s.pending := by
  unfold State.writeArea
  split
  · next a _ =>
    split
    · have e := (s.placeRuns a).writeImage_only a n ((s.placeRuns a).areaImage ((s.placeRuns a).savedQueues p.queues))
      dsimp only
      generalize (s.placeRuns a).writeImage a n _ = t at e
      obtain ⟨bad, mem, fl, tag, rfl⟩ := e
      exact ⟨rfl, rfl⟩
    · exact ⟨rfl, rfl⟩
  · exact ⟨rfl, rfl⟩

/-- Every core leaves its job. -/
def State.vacateAll (s : State) : State := allCores.foldl (fun s k => State.vacate s k) s

/-- A save that waits for no run any more. -/
theorem State.finishSave_writes {s : State} {p : SaveReq} (hp : s.pending = some p)
    (h : ¬ (p.written || allCores.any fun k => (s.core k).task.isSome) = true) :
    let t := { s.vacateAll with pending := some { p with written := true } }.writeArea p (areaSize s.vacateAll.saved.length)
    s.finishSave = if p.trip3 then { t with halted := true } else t := by
  unfold State.finishSave State.writeArea State.placeRuns State.vacateAll
  simp only [hp, if_neg h] <;> rfl

/-- A save that goes on, or ends, leaves the launch queues, and is still there. -/
theorem State.finishSave_keeps (s : State) :
    s.finishSave.lqs = s.lqs ∧ (s.pending.isSome = true → s.finishSave.pending.isSome = true) := by
  cases hp : s.pending with
  | none => rw [State.finishSave_of_none hp]; exact ⟨rfl, fun h => by cases h⟩
  | some p =>
    by_cases h : (p.written || allCores.any fun k => (s.core k).task.isSome) = true
    · have e : s.finishSave = s := by unfold State.finishSave; simp only [hp, if_pos h]
      rw [e, hp]
      exact ⟨rfl, id⟩
    · have hq : s.vacateAll.lqs = s.lqs := (State.foldl_actsAt State.vacate_actsAt allCores s).1
      rw [State.finishSave_writes hp h]
      generalize s.vacateAll = t at hq
      obtain ⟨hl, hpend⟩ := State.writeArea_keeps { t with pending := some { p with written := true } } p (areaSize t.saved.length)
      dsimp only
      generalize State.writeArea _ p _ = u at hl hpend
      split
      · exact ⟨hl.trans hq, fun _ => congrArg Option.isSome hpend⟩
      · exact ⟨hl.trans hq, fun _ => congrArg Option.isSome hpend⟩

/-- A save of the package begins at every core. -/
def State.beginSaves (s : State) : State := allCores.foldl State.beginSave s

theorem nodup_allCores : allCores.Nodup := List.nodup_range
theorem mem_allCores {k : Nat} (h : k < 512) : k ∈ allCores := List.mem_range.mpr h

theorem State.beginSaves_keeps (s : State) : s.beginSaves.lqs = s.lqs ∧ s.beginSaves.pending = s.pending :=
  State.foldl_actsAt State.beginSave_actsAt allCores s

theorem State.beginSaves_core {s : State} {k : Nat} {r : Run} (hk : k < 512) (ht : (s.core k).task = some r) (he : r.exited = false)
    (hs : r.saving = false) (hc : (s.core k).user.sentCard = false) :
    let c := s.beginSaves.core k
    c.task = some { r with saving := true } ∧ c.run = false ∧ c.user.op = none := by
  unfold State.beginSaves
  refine State.core_foldl_mem (s := s) (l := allCores) State.beginSave_actsAt
    (P := fun c => c.task = some { r with saving := true } ∧ c.run = false ∧ c.user.op = none) nodup_allCores (fun t e => ?_) (mem_allCores hk)
  have ht : (t.core k).task = some r := by rw [e, ht]
  have hb : t.beginSave k = t.startCheckpoint k := by
    unfold State.beginSave; simp only [ht, he, hs]; rfl
  rw [hb]
  exact State.startCheckpoint_core ht (by rw [e, hc])

/-- A save that waits for a run does nothing. -/
theorem State.finishSave_waits {s : State} {k : Nat} (hk : k < 512) (ht : (s.core k).task.isSome = true) : s.finishSave = s := by
  have ha : (allCores.any fun k => (s.core k).task.isSome) = true := List.any_eq_true.mpr ⟨k, mem_allCores hk, ht⟩
  unfold State.finishSave
  split
  · rfl
  · rw [if_pos (by rw [ha, Bool.or_true])]

/-- The save that an update request begins (R49). -/
def State.saveReq (s : State) (addr : Option Nat) : SaveReq :=
  { addr := match addr with | some a => some a | none => s.saveAddr, queues := s.lqs, trip3 := false, written := false }

theorem exec_firmwareUpdateRequest {s : State} (addr : Option Nat) (hp : s.pending = none) (hv : s.verified = true) :
    exec (.firmwareUpdateRequest addr) s = .next ({ s with pending := some (s.saveReq addr) }.disableQueues.beginSaves).finishSave := by
  show execFirmwareUpdateRequest addr s = _
  unfold execFirmwareUpdateRequest State.savePackage State.beginSaves
  simp only [hp, hv]
  generalize allCores = l
  rfl

/-- Once a save of the package has begun every queue is disabled, and the runs that go on are being saved (R49). -/
theorem State.beginSaves_saves (s : State) (p : SaveReq) :
    let u := ({ s with pending := some p }.disableQueues.beginSaves).finishSave
    (∀ q, q < 64 → (u.lq q).en = false) ∧ u.pending.isSome = true
      ∧ ∀ k r, k < 512 → (s.core k).task = some r → r.exited = false → r.saving = false → (s.core k).user.sentCard = false →
          (u.core k).task = some { r with saving := true } ∧ (u.core k).run = false ∧ (u.core k).user.op = none := by
  have hd (q : Nat) (h : q < 64) := { s with pending := some p }.disableQueues_en h
  obtain ⟨l, e⟩ := { s with pending := some p }.disableQueues_only
  have hc (k : Nat) : { s with pending := some p }.disableQueues.core k = s.core k := by rw [e]; rfl
  have hpt : { s with pending := some p }.disableQueues.pending = some p := by rw [e]
  generalize { s with pending := some p }.disableQueues = t at hd hc hpt
  obtain ⟨hq, hp⟩ := t.beginSaves_keeps
  obtain ⟨hfq, hfp⟩ := t.beginSaves.finishSave_keeps
  refine ⟨fun q h => ?_, hfp (by rw [hp, hpt]; rfl), fun k r hk ht he hs hsent => ?_⟩
  · unfold State.lq
    rw [hfq, hq]
    exact hd q h
  · have hcore := State.beginSaves_core hk ((congrArg Core.task (hc k)).trans ht) he hs (by rw [hc, hsent])
    rw [State.finishSave_waits hk (by rw [hcore.1]; rfl)]
    exact hcore

/-! ### A checkpoint is complete (R453, R454) -/

theorem exec_checkpointComplete {s : State} {k : Nat} {r : Run} (ht : (s.core k).task = some r) (hs : r.saving = true)
    (hq : s.quiet k = true) (hv : s.verified = true) : exec (.checkpointComplete k) s = .next (s.saveRun k r).finishSave := by
  show execCheckpointComplete k s = _
  unfold execCheckpointComplete
  simp only [ht, hs, hq, hv]
  rfl

/-- A core whose run has been saved, before it leaves the job. -/
def Core.unloaded (c : Core) (job : Nat) : Core :=
  { c.dropCasks with
    user := { c.user with notice := none }, task := none, lastJob := some job, me := c.me.discard, ce := c.ce.discard,
    ve := c.ve.discard, sae := c.sae.discard }

/-- What is kept of the run of a core (R453, R454). -/
def State.savedOf (s : State) (k : Nat) (r : Run) (addr : Nat) : Saved :=
  { job := r.job, run := { r with saving := false, ckpted := true }, addr := addr, core := s.savedCore k, freed := [] }

/-- The record of a run is written, where there is a place for it (R451, R454). -/
def State.writeRun (s : State) (v : Saved) : State :=
  match s.recordAddr with
  | some a => if farOk a recordSize then s.writeImage a recordSize (s.savedImage v) else s
  | none => s

theorem State.keepsRuns_writeRun (s : State) (v : Saved) : s.KeepsRuns (s.writeRun v) := by
  unfold State.writeRun
  split
  · next a _ =>
    split
    · obtain ⟨bad, mem, fl, tag, e⟩ := s.writeImage_only a recordSize (s.savedImage v)
      rw [e]
      exact .of_cores rfl rfl rfl rfl
    · exact .refl s
  · exact .refl s

/-- A run that is saved: its state is kept as it stands, and its core leaves. -/
theorem State.saveRun_saves (s : State) (k : Nat) (r : Run) :
    ∃ (t : State) (c : Core) (a : Nat), s.KeepsRuns t ∧ c.rest = (s.core k).rest
      ∧ s.saveRun k r = State.vacate { t.setCore k (c.unloaded r.job) with saved := s.saved ++ [s.savedOf k r a] } k := by
  have h1 := s.keepsRuns_endBookings k .cancelled 0
  have h2 := h1.trans ((s.endBookings k .cancelled 0).keepsRuns_writeRun (s.savedOf k r ((s.endBookings k .cancelled 0).recordAddr.getD 0)))
  refine ⟨_, (s.endBookings k .cancelled 0).core k, (s.endBookings k .cancelled 0).recordAddr.getD 0, h2, h1.rest k, ?_⟩
  rw [← h2.saved]
  unfold State.saveRun State.writeRun State.savedOf Core.unloaded
  rfl

/-- What a complete checkpoint keeps, and how it leaves its core (R453, R454). -/
theorem State.saveRun_spec {s : State} {k : Nat} {r : Run} (hp : s.pending = none) :
    let u := s.saveRun k r
    u.pending = none ∧ ∃ a, u.saved = s.saved ++ [s.savedOf k r a] ∧ (u.core k).task = none ∧ (u.core k).job = none
      ∧ (u.core k).casks = [] ∧ ∀ e, ((u.core k).eng e).q = [] := by
  obtain ⟨t, c, a, ht, hc, hu⟩ := s.saveRun_saves k r
  have hcore : (State.core { t.setCore k (c.unloaded r.job) with saved := s.saved ++ [s.savedOf k r a] } k) = c.unloaded r.job :=
    t.core_setCore_self k _
  dsimp only
  rw [hu, State.vacate_pending, State.vacate_core, hcore]
  refine ⟨ht.pending.trans hp, a, State.vacate_saved .., rfl, rfl, rfl, fun e => by cases e <;> rfl⟩

/-! ### A saved run comes back (R454, R455) -/

/-- Engines apart, a core is the same. -/
def Core.offEngines (c : Core) : Core := { c with ce := Engine.reset, me := Engine.reset, ve := Engine.reset, sae := Engine.reset }

/-- The rest of a queue that is read again changes an engine of the core, and nothing else (R202, R455). -/
theorem State.rereadQueue_only (s : State) (k : Nat) (e : Eng) : ∃ x, s.rereadQueue k e = s.setCore k ((s.core k).setEng e x) := by
  unfold State.rereadQueue
  dsimp only
  split
  · exact ⟨_, rfl⟩
  · exact ⟨_, rfl⟩

/-- The runs, jobs and memory are the same, and every core but one; of that one, everything but its engines. -/
structure State.Rereads (s t : State) (k : Nat) : Prop where
  core : (t.core k).offEngines = (s.core k).offEngines
  others : ∀ i, i ≠ k → t.core i = s.core i
  saved : t.saved = s.saved
  mem : t.mem = s.mem

theorem State.rereadQueue_rereads (s : State) (k : Nat) (e : Eng) : s.Rereads (s.rereadQueue k e) k := by
  obtain ⟨x, hx⟩ := s.rereadQueue_only k e
  rw [hx]
  refine ⟨?_, fun i hi => s.core_setCore_of_ne _ (Ne.symm hi), rfl, rfl⟩
  rw [State.core_setCore_self]
  cases e <;> rfl

/-- The queues of a resumed run whose part of the record is not the one written are read again, in the order of the record. -/
def State.rereadQueues (s : State) (k : Nat) (r : RecordIn) : State :=
  (List.range 4).foldl (fun t i => if r.same (0x4C0 + 128 * i) 128 then t else t.rereadQueue k ((recordEngines[i]?).getD .ce)) s

theorem State.rereadQueues_rereads (s : State) (k : Nat) (r : RecordIn) : s.Rereads (s.rereadQueues k r) k := by
  unfold State.rereadQueues
  refine List.foldlRecOn (motive := fun t : State => s.Rereads t k) _ _ ⟨rfl, fun _ _ => rfl, rfl, rfl⟩ fun t ht i _ => ?_
  split
  · exact ht
  · have h := t.rereadQueue_rereads k ((recordEngines[i]?).getD .ce)
    exact ⟨h.core.trans ht.core, fun j hj => (h.others j hj).trans (ht.others j hj), h.saved.trans ht.saved, h.mem.trans ht.mem⟩

/-- A record that is as it was written needs no queue read again. -/
theorem State.rereadQueues_same (s : State) (k : Nat) {r : RecordIn} (h : r.m = r.old) : s.rereadQueues k r = s := by
  unfold State.rereadQueues
  exact List.foldlRecOn (motive := fun t : State => t = s) _ _ rfl fun t ht i _ => by rw [if_pos (RecordIn.same_of_eq h _ _)]; exact ht

/-- The core that a saved run resumes on. -/
def State.resumed (s : State) (k : Nat) (v : Saved) (j : Job) (old : Core) (run : Run) : Core :=
  { (s.core k).resume (v.freed.foldl (fun x p => x.barFree p.1 p.2) old) s.useHere ((j.members[v.run.member]?).getD k) k s.berth s.tb with
    asn := j.card.asn, root := s.roots.get 0 j.card.asn, job := some j.id, chunk := [], lastJob := none, run := true, task := some run }

/-- A saved run has been taken out, and its job has a core for it. -/
def State.takeSaved (s : State) (n k : Nat) (v : Saved) (j : Job) : State :=
  { s with saved := s.saved.eraseIdx n, free := s.free + 256 }.setJob
    { j with cores := insertNat k j.cores, members := j.members.set v.run.member k }

section Resume

variable {s : State} {n k : Nat} {v : Saved} {j : Job} (hp : s.pending = none) (hv : s.verified = true) (hl : j.leaving = false)
  (hk : s.resumeCore j = some k)

include hp hv hl hk

theorem State.resumeCore_found : (if !s.verified || s.pending.isSome || j.leaving then none else s.resumeCore j) = some k := by simp [hp, hv, hl, hk]

variable (hs : s.saved[n]? = some v) (hj : s.jobOf v.job = some j)

include hs hj

theorem exec_resume_ok {r : RecordIn} (hr : r = { m := s.readImage v.addr recordSize, old := s.savedImage v })
    (ok : (farOk v.addr recordSize && areaOk recordSize r.m) = true) :
    exec (.resume n) s = .next (((s.takeSaved n k v j).setCore k
      (s.resumed k v j (r.core s.free v.core) { v.run with idx := r.num 0x20 4, member := r.num 0x24 4 })).rereadQueues k r) := by
  subst hr
  show execResume n s = _
  unfold execResume
  simp only [hs, hj, State.resumeCore_found hp hv hl hk, ok, if_true]
  rfl

theorem exec_resume_bad (bad : (farOk v.addr recordSize && areaOk recordSize (s.readImage v.addr recordSize)) = false) :
    let t := ((s.takeSaved n k v j).setCore k (s.resumed k v j v.core v.run)).freeVal 8
    exec (.resume n) s = .next (t.1.kill k 2 (t.2 + v.core.user.pc.toNat % 2 ^ 56 * 256)) := by
  show execResume n s = _
  unfold execResume
  simp only [hs, hj, State.resumeCore_found hp hv hl hk, bad]
  rfl

end Resume

end Sys2Proof.Machine
end
section
/-!
SUPPORT. What a kill leaves: the core that it names is stopped, and no checkpointed run of its gang is left (R456).
-/

namespace Sys2Proof.Machine

/-- The user context of a core has stopped, and of the checkpointed runs none is new. -/
structure State.Stays (s t : State) (k : Nat) : Prop where
  run : (s.core k).run = false → (t.core k).run = false
  saved : t.saved = s.saved

theorem State.KeepsRuns.stays {s t : State} (h : s.KeepsRuns t) (k : Nat) : s.Stays t k := ⟨fun hr => (h.run k).trans hr, h.saved⟩

theorem State.Stays.refl (s : State) (k : Nat) : s.Stays s k := ⟨fun h => h, rfl⟩

theorem State.Stays.trans {s t u : State} {k : Nat} (h : s.Stays t k) (g : t.Stays u k) : s.Stays u k :=
  ⟨fun hr => g.run (h.run hr), g.saved.trans h.saved⟩

/-- A core stops (R456). -/
theorem State.stopRun_only (s : State) (m sub : Nat) :
    ∃ t : State, t.KeepsRuns (s.stopRun m sub) ∧ (t.core m).run = false ∧ (∀ j, j ≠ m → t.core j = s.core j) ∧ t.saved = s.saved := by
  have h (t : State) : t.KeepsRuns ((t.endBookings m .cancelled sub).abandonRounds m) :=
    (t.keepsRuns_endBookings ..).trans (State.keepsRuns_abandonRounds ..)
  unfold State.stopRun
  exact ⟨_, h _, congrArg Core.run (s.core_setCore_self m _), fun j hj => s.core_setCore_of_ne _ (Ne.symm hj), rfl⟩

theorem State.stopRun_stops (s : State) (k sub : Nat) : ((s.stopRun k sub).core k).run = false := by
  obtain ⟨t, h, hk, -⟩ := s.stopRun_only k sub
  exact (h.run k).trans hk

theorem State.stopRun_stays (s : State) (m sub k : Nat) : s.Stays (s.stopRun m sub) k := by
  obtain ⟨t, h, -, ho, hs⟩ := s.stopRun_only m sub
  refine ⟨fun hr => ?_, h.saved.trans hs⟩
  by_cases hk : k = m
  · subst hk; exact s.stopRun_stops k sub
  · rw [h.run, ho k hk, hr]

/-- A member that ends has stopped; its record is written or its job changed, and its core is free (R456). -/
theorem State.killOne_only (s : State) (m status detail : Nat) :
    ∃ t c js, (s.stopRun m 1).KeepsRuns t ∧ c.run = (t.core m).run ∧ s.killOne m status detail = { t with jobs := js }.setCore m c := by
  unfold State.killOne
  generalize s.stopRun m 1 = u
  dsimp only
  split
  · refine ⟨u, _, u.jobs, .refl u, ?_, rfl⟩
    rfl
  · refine ⟨_, _, _, ?_, ?_, rfl⟩
    · split
      · split
        · exact .refl u
        · exact u.keepsRuns_endRecord ..
      · exact .refl u
    · rfl

theorem State.killOne_run {s : State} {m status detail k : Nat} (h : ((s.stopRun m 1).core k).run = false) :
    ((s.killOne m status detail).core k).run = false := by
  obtain ⟨t, c, js, ht, hc, e⟩ := s.killOne_only m status detail
  have hk : (t.core k).run = false := (ht.run k).trans h
  rw [e, State.core_setCore]
  split
  · next hm => subst hm; rw [hc, hk]
  · exact hk

theorem State.killOne_stays (s : State) (m status detail k : Nat) : s.Stays (s.killOne m status detail) k := by
  have h := s.stopRun_stays m 1 k
  refine ⟨fun hr => State.killOne_run (h.run hr), ?_⟩
  obtain ⟨t, c, js, ht, hc, e⟩ := s.killOne_only m status detail
  rw [e]
  exact ht.saved.trans h.saved

theorem State.killSaved_stays (s : State) (id k : Nat) : State.Stays { s with saved := s.saved.filter fun v => v.job ≠ id } (s.killSaved id) k := by
  unfold State.killSaved
  dsimp only
  refine List.foldlRecOn (motive := fun t : State => State.Stays { s with saved := s.saved.filter fun v => v.job ≠ id } t k) _ _ (.refl _ k) ?_
  intro t ht v _
  split
  · exact ht
  · split
    · exact ⟨ht.run, ht.saved⟩
    · exact ht.trans ((State.keepsRuns_writeParts ..).stays k)

theorem State.settleJob_stays (s : State) (id k : Nat) : s.Stays (s.settleJob id) k := by
  obtain ⟨js, bs, e⟩ := s.settleJob_only id
  rw [e]
  exact ⟨fun h => h, rfl⟩

theorem State.kill_of_job {s : State} {k id : Nat} (h : (s.core k).job = some id) (status detail : Nat) : ∃ others : List Nat,
    s.kill k status detail = ((others.foldl (fun s c => State.killOne s c 3 0) (s.killOne k status detail)).killSaved id).settleJob id := by
  refine ⟨match s.jobOf id with | some j => j.cores.filter (· ≠ k) | none => [], ?_⟩
  unfold State.kill
  simp only [h] <;> rfl

/-- A kill of the gang of a job stops the core that it names, and ends the gang's checkpointed runs (R456). -/
theorem State.kill_spec {s : State} {k id : Nat} (h : (s.core k).job = some id) (status detail : Nat) :
    ((s.kill k status detail).core k).run = false ∧ ∀ x ∈ (s.kill k status detail).saved, x.job ≠ id := by
  have hone : ((s.killOne k status detail).core k).run = false := State.killOne_run (s.stopRun_stops k 1)
  obtain ⟨others, e⟩ := State.kill_of_job h status detail
  rw [e]
  generalize s.killOne k status detail = t at hone
  have hm : t.Stays (others.foldl (fun s c => State.killOne s c 3 0) t) k :=
    List.foldlRecOn (motive := fun u : State => t.Stays u k) _ _ (.refl t k) fun u hu m _ => hu.trans (u.killOne_stays m 3 0 k)
  generalize others.foldl (fun s c => State.killOne s c 3 0) t = u at hm
  have hs := (u.killSaved_stays id k).trans (State.settleJob_stays _ id k)
  refine ⟨hs.run (hm.run hone), fun x hx => ?_⟩
  rw [hs.saved] at hx
  simpa using (List.mem_filter.mp hx).2

end Sys2Proof.Machine
end
section
/-!
SUPPORT. The core that a record of a checkpointed run restores, field by field (R454, R455).
-/

namespace Sys2Proof.Machine

/-! ### The context -/

theorem eq_ofNat_iff {n : Nat} (q : BitVec n) {i : Nat} (h : i < 2 ^ n) : q = BitVec.ofNat n i ↔ i = q.toNat := by
  constructor
  · rintro rfl; exact (Nat.mod_eq_of_lt h).symm
  · rintro rfl; simp

theorem Ctx.getS_setFE_setMark (u : Ctx) (x q : Reg) (w : W64) (st : FE) (mk : Option Mark) :
    (((u.setS x w).setFE x st).setMark x mk).getS q = if q = x ∧ x ≠ 0 then w else u.getS q := by
  rw [Ctx.getS_setMark, Ctx.getS_setFE, Ctx.getS_setS]

/-- A scalar register of a record comes from its place (R454). -/
theorem RecordIn.getS_scalars (r : RecordIn) (free : Nat) (v u : Ctx) {q : Reg} (hq : q ≠ 0) :
    ((List.range 64).foldl (r.scalar free v) u).getS q = BitVec.ofNat 64 (r.num (0x40 + 8 * q.toNat) 8) := by
  refine (foldl_range_read (g := fun u : Ctx => u.getS q) (j := q.toNat) (v := BitVec.ofNat 64 (r.num (0x40 + 8 * q.toNat) 8))
    (fun u i hi => ?_) u).trans (if_pos q.isLt)
  have hx := eq_ofNat_iff q hi
  dsimp only [RecordIn.scalar]
  rw [Ctx.getS_setFE_setMark]
  by_cases hi : i = q.toNat
  · have he := hx.mpr hi
    rw [if_pos hi, if_pos ⟨he, he ▸ hq⟩, hi]
  · rw [if_neg hi, if_neg fun h => hi (hx.mp h.1)]

/-- An address register of a record comes from its place. -/
theorem getA_setAs (val : Nat → VAddr) (u : Ctx) (q : AReg) :
    ((List.range 16).foldl (fun u i => u.setA (BitVec.ofNat 4 i) (val i)) u).getA q = val q.toNat := by
  refine (foldl_range_read (g := fun u : Ctx => u.getA q) (j := q.toNat) (v := val q.toNat) (fun u i hi => ?_) u).trans (if_pos q.isLt)
  have hx := eq_ofNat_iff q hi
  rw [Ctx.getA_setA]
  by_cases hi : i = q.toNat
  · rw [if_pos hi, if_pos (hx.mpr hi), hi]
  · rw [if_neg hi, if_neg fun h => hi (hx.mp h)]

/-- A predicate of a record comes from its bit. -/
theorem getP_setPs (val : Nat → Bool) (u : Ctx) {q : PReg} (hq : q ≠ 0) :
    ((List.range 8).foldl (fun u i => u.setP (BitVec.ofNat 3 i) (val i)) u).getP q = val q.toNat := by
  refine (foldl_range_read (g := fun u : Ctx => u.getP q) (j := q.toNat) (v := val q.toNat) (fun u i hi => ?_) u).trans (if_pos q.isLt)
  have hx := eq_ofNat_iff q hi
  by_cases hi : i = q.toNat
  · have he := hx.mpr hi
    rw [if_pos hi, ← he, Ctx.getP_setP_self, if_neg hq, hi]
  · rw [if_neg hi]
    exact Ctx.setP_keepsP u _ _ q (by simpa using fun h => hi (hx.mp h))

theorem foldl_setA_s (f : Nat → AReg) (g : Nat → VAddr) (l : List Nat) (u : Ctx) : (l.foldl (fun u i => u.setA (f i) (g i)) u).s = u.s :=
  List.foldlRecOn (motive := fun t : Ctx => t.s = u.s) _ _ rfl fun t ht i _ => (t.setA_s (f i) (g i)).trans ht

theorem foldl_setP_keeps (f : Nat → PReg) (g : Nat → Bool) (l : List Nat) (u : Ctx) :
    (l.foldl (fun u i => u.setP (f i) (g i)) u).s = u.s ∧ (l.foldl (fun u i => u.setP (f i) (g i)) u).a = u.a :=
  List.foldlRecOn (motive := fun t : Ctx => t.s = u.s ∧ t.a = u.a) _ _ ⟨rfl, rfl⟩ fun t ht i _ => by
    unfold Ctx.setP
    split
    · exact ht
    · exact ht

/-- The registers of a record, over a context. -/
def RecordIn.regs (r : RecordIn) (free : Nat) (v : Ctx) : Ctx :=
  (List.range 8).foldl (fun u i => u.setP (BitVec.ofNat 3 i) (nbit (r.num 0x428 1) i))
    ((List.range 16).foldl (fun u i => u.setA (BitVec.ofNat 4 i) (BitVec.ofNat 72 (r.num (0x280 + 16 * i) 9)))
      ((List.range 64).foldl (r.scalar free v) v))

theorem RecordIn.ctx_regs (r : RecordIn) (free : Nat) (v : Ctx) :
    let u := r.ctx free v
    u.s = (r.regs free v).s ∧ u.a = (r.regs free v).a ∧ u.p = (r.regs free v).p
      ∧ u.pc = BitVec.ofNat 72 (r.num 0x380 9) ∧ u.slot = (if nbit (r.num 0x39F 1) 0 then some (BitVec.ofNat 72 (r.num 0x390 9)) else none)
      ∧ u.sstatus = BitVec.ofNat 64 (r.num 0x3A8 8) ∧ u.epc = BitVec.ofNat 64 (r.num 0x3B0 8)
      ∧ u.ecause = BitVec.ofNat 64 (r.num 0x3C0 8) ∧ u.tvec = BitVec.ofNat 64 (r.num 0x3F0 8) := by
  unfold RecordIn.ctx RecordIn.regs
  generalize (List.range 64).foldl (r.scalar free v) v = c
  dsimp only
  generalize (List.range 16).foldl _ c = c
  exact ⟨rfl, rfl, rfl, rfl, rfl, rfl, rfl, rfl, rfl⟩

/-- The registers that a record restores. -/
theorem RecordIn.regs_reads (r : RecordIn) (free : Nat) (v : Ctx) :
    (∀ q : Reg, q ≠ 0 → (r.regs free v).getS q = BitVec.ofNat 64 (r.num (0x40 + 8 * q.toNat) 8))
      ∧ (∀ q : AReg, (r.regs free v).getA q = BitVec.ofNat 72 (r.num (0x280 + 16 * q.toNat) 9))
      ∧ ∀ q : PReg, q ≠ 0 → (r.regs free v).getP q = nbit (r.num 0x428 1) q.toNat := by
  unfold RecordIn.regs
  refine ⟨fun q hq => ?_, fun q => ?_, fun q hq => getP_setPs _ _ hq⟩
  · have h := r.getS_scalars free v v hq
    unfold Ctx.getS at h ⊢
    rwa [(foldl_setP_keeps ..).1, foldl_setA_s]
  · have h := getA_setAs (fun i => BitVec.ofNat 72 (r.num (0x280 + 16 * i) 9)) ((List.range 64).foldl (r.scalar free v) v) q
    unfold Ctx.getA at h ⊢
    rwa [(foldl_setP_keeps ..).2]

/-- The user context that a record restores (R454). -/
theorem RecordIn.ctx_reads (r : RecordIn) (free : Nat) (v : Ctx) :
    let u := r.ctx free v
    (∀ q : Reg, q ≠ 0 → u.getS q = BitVec.ofNat 64 (r.num (0x40 + 8 * q.toNat) 8))
      ∧ (∀ q : AReg, u.getA q = BitVec.ofNat 72 (r.num (0x280 + 16 * q.toNat) 9))
      ∧ (∀ q : PReg, q ≠ 0 → u.getP q = nbit (r.num 0x428 1) q.toNat)
      ∧ u.pc = BitVec.ofNat 72 (r.num 0x380 9) ∧ u.slot = (if nbit (r.num 0x39F 1) 0 then some (BitVec.ofNat 72 (r.num 0x390 9)) else none)
      ∧ u.sstatus = BitVec.ofNat 64 (r.num 0x3A8 8) ∧ u.epc = BitVec.ofNat 64 (r.num 0x3B0 8)
      ∧ u.ecause = BitVec.ofNat 64 (r.num 0x3C0 8) ∧ u.tvec = BitVec.ofNat 64 (r.num 0x3F0 8) := by
  obtain ⟨hs, ha, hp, hrest⟩ := r.ctx_regs free v
  obtain ⟨rS, rA, rP⟩ := r.regs_reads free v
  refine ⟨fun q hq => ?_, fun q => ?_, fun q hq => ?_, hrest⟩
  · rw [← rS q hq]; unfold Ctx.getS; rw [hs]
  · rw [← rA q]; unfold Ctx.getA; rw [ha]
  · rw [← rP q hq]; unfold Ctx.getP; rw [hp]

/-! ### Casks and engines -/

/-- An entry whose bytes are those written is the one that firmware kept (R454). -/
theorem RecordIn.cask_same {r : RecordIn} (h : r.m = r.old) (v : Option Cask) (e : Nat) : r.cask v e = v := by
  unfold RecordIn.cask
  simp only [RecordIn.same_of_eq h, if_true]
  cases v <;> rfl

/-- An engine whose bytes are those written keeps its queue (R454). -/
theorem RecordIn.engine_same {r : RecordIn} (h : r.m = r.old) (v : Engine) (i : Nat) :
    (r.engine v i).q = v.q ∧ (r.engine v i).done = v.done := by
  unfold RecordIn.engine
  simp only [RecordIn.same_of_eq h, if_true]
  exact ⟨trivial, trivial⟩

end Sys2Proof.Machine
end
section
/-!
A saved run that resumes, a save area that is restored, and the statement about both (R48, R49, R51, R384, R453 to R455).
-/

namespace Sys2Proof.Machine

/-! ### The core of a run that resumes (R384, R455) -/

theorem foldl_barFree_only (l : List (Nat × Nat)) (c : Core) :
    ∃ bp, l.foldl (fun x p => x.barFree p.1 p.2) c = { c with barPend := bp } := by
  refine List.foldlRecOn (motive := fun d : Core => ∃ bp, d = { c with barPend := bp }) _ _ ⟨c.barPend, rfl⟩ ?_
  rintro d ⟨bp, rfl⟩ p -
  exact ⟨_, rfl⟩

/-- Every episode released meanwhile is free on the core that the run comes back on (R384). -/
theorem foldl_barFree_frees (l : List (Nat × Nat)) (c : Core) {p : Nat × Nat} (hp : p ∈ l ∨ c.barPend.get false (barKey p.1 p.2) = false) :
    (l.foldl (fun x p => x.barFree p.1 p.2) c).barPend.get false (barKey p.1 p.2) = false := by
  induction l generalizing c with
  | nil => exact hp.resolve_left (List.not_mem_nil)
  | cons q l ih =>
    refine ih _ ?_
    rcases hp with hp | hp
    · rcases List.mem_cons.mp hp with rfl | hp
      · refine .inr ?_
        unfold Core.barFree
        dsimp only
        rw [FMap.get_put_self]
      · exact .inl hp
    · refine .inr ?_
      unfold Core.barFree
      dsimp only
      rw [FMap.get_put false]
      split
      · rfl
      · exact hp

/-- The context that a run resumes with: that of its record, but for s3 (R455). -/
theorem Ctx.resume_reads (u v : Ctx) :
    let d := u.resume v
    d.Holds 3 0 ∧ (∀ q : Reg, q ≠ 3 → d.getS q = v.getS q) ∧ (∀ q, d.getA q = v.getA q) ∧ (∀ q, d.getP q = v.getP q)
      ∧ d.pc = v.pc ∧ d.slot = v.slot ∧ d.sstatus = v.sstatus ∧ d.epc = v.epc ∧ d.ecause = v.ecause ∧ d.tvec = v.tvec :=
  ⟨Ctx.setS_holds v 3 0, fun q hq => (v.setS_keepsS 3 0 q (by simpa using hq)).1, fun q => v.getA_setS 3 q 0, fun q => v.getP_setS 3 q 0,
    v.setS_pc 3 0, v.setS_slot 3 0, v.setS_sstatus 3 0, v.setS_epc 3 0, v.setS_ecause 3 0, v.setS_tvec 3 0⟩

theorem Core.offEngines_fields {c d : Core} (h : c.offEngines = d.offEngines) :
    c.user = d.user ∧ c.firm = d.firm ∧ c.run = d.run ∧ c.part_ = d.part_ ∧ c.asn = d.asn ∧ c.sram = d.sram ∧ c.om = d.om ∧ c.tk = d.tk
      ∧ c.casks = d.casks ∧ c.wseq = d.wseq ∧ c.barPend = d.barPend ∧ c.job = d.job ∧ c.task = d.task := by
  have f {α : Type} (g : Core → α) : g c.offEngines = g d.offEngines := congrArg g h
  exact ⟨f Core.user, f Core.firm, f Core.run, f Core.part_, f Core.asn, f Core.sram, f Core.om, f Core.tk, f Core.casks, f Core.wseq,
    f Core.barPend, f Core.job, f Core.task⟩

/-- The core that a run resumes on, in what its record does not hold. -/
theorem State.resumed_fields (s : State) (k : Nat) (v : Saved) (j : Job) (old : Core) (run : Run) :
    let d := s.resumed k v j old run
    d.run = true ∧ d.task = some run ∧ d.job = some j.id ∧ d.asn = j.card.asn ∧ d.firm = (s.core k).firm
      ∧ (∀ p ∈ v.freed, d.barPend.get false (barKey p.1 p.2) = false)
      ∧ d.user = (s.core k).user.resume old.user ∧ d.part_ = old.part_ ∧ d.wseq = old.wseq ∧ d.tk = old.tk ∧ d.sram = old.sram
      ∧ d.om = old.om ∧ d.casks = old.casks
      ∧ ∀ e, (d.eng e).q = (old.eng e).q ∧ (d.eng e).done = (old.eng e).done := by
  have hb (p) (hp : p ∈ v.freed) := foldl_barFree_frees v.freed old (.inl hp)
  obtain ⟨bp, e⟩ := foldl_barFree_only v.freed old
  unfold State.resumed
  rw [e] at hb ⊢
  exact ⟨rfl, rfl, rfl, rfl, rfl, hb, rfl, rfl, rfl, rfl, rfl, rfl, rfl, fun e => by cases e <;> exact ⟨rfl, rfl⟩⟩

/-- Operand storage that a record restores: the slots that it holds, and what stood above them. -/
theorem RecordIn.get_om (r : RecordIn) (om : FMap Byte) {t i : Nat} (ht : t < 32) (hi : i < 16384) :
    FMap.get 0 (r.slots false ++ om.filter fun p => 32 * 16384 ≤ p.1) (16384 * t + i) = FMap.get 0 r.m (0x41FC0 + 16896 * t + i) := by
  rw [FMap.get_append_left 0 _ _ fun p hp => ?_, r.get_slots ht hi]
  have h : 32 * 16384 ≤ p.1 := by simpa using (List.mem_filter.mp hp).2
  omega

/-- The place of an entry in the cask table of a record. -/
theorem RecordIn.get_casks_same {r : RecordIn} (h : r.m = r.old) (m : FMap (Option Cask)) {i : Nat} (hi : i < 128) :
    FMap.get none ((List.range 128).foldl (fun l e => FMap.put none l e (r.cask (FMap.get none m e) e)) m) i = FMap.get none m i := by
  rw [FMap.get_foldl_put none (fun e => r.cask (FMap.get none m e) e), if_pos hi, RecordIn.cask_same h]

section Resumed

variable {s : State} {n k : Nat} {v : Saved} {j : Job} {r : RecordIn}

/-- The state in which a run resumes from its record. -/
def State.resumedState (s : State) (n k : Nat) (v : Saved) (j : Job) (r : RecordIn) : State :=
  ((s.takeSaved n k v j).setCore k
    (s.resumed k v j (r.core s.free v.core) { v.run with idx := r.num 0x20 4, member := r.num 0x24 4 })).rereadQueues k r

theorem State.resumedState_rest :
    let u := s.resumedState n k v j r
    u.saved = s.saved.eraseIdx n ∧ u.mem = s.mem ∧ ∀ i, i ≠ k → u.core i = s.core i := by
  have h := State.rereadQueues_rereads ((s.takeSaved n k v j).setCore k
    (s.resumed k v j (r.core s.free v.core) { v.run with idx := r.num 0x20 4, member := r.num 0x24 4 })) k r
  exact ⟨h.saved, h.mem, fun i hi => (h.others i hi).trans (State.core_setCore_of_ne _ _ (Ne.symm hi))⟩

/-- The core of a run that resumes, in what does not come from its record's registers and storage. -/
theorem State.resumedState_core :
    let d := (s.resumedState n k v j r).core k
    d.run = true ∧ d.task = some { v.run with idx := r.num 0x20 4, member := r.num 0x24 4 } ∧ d.job = some j.id ∧ d.asn = j.card.asn
      ∧ d.firm = (s.core k).firm ∧ (∀ p ∈ v.freed, d.barPend.get false (barKey p.1 p.2) = false)
      ∧ d.user = (s.core k).user.resume (r.ctx s.free v.core.user) ∧ d.part_ = BitVec.ofNat 32 (r.num 0x28 4) ∧ d.wseq = r.num 0x30 8
      ∧ (∀ i, i < 32 → d.tk.get 0 i = r.num (0x480 + 2 * i) 2)
      ∧ (∀ i, i < 0x400000 → d.sram.get 0 i = r.m.get 0 (0x100000 + i))
      ∧ (∀ t i, t < 32 → i < 16384 → d.om.get 0 (16384 * t + i) = r.m.get 0 (0x41FC0 + 16896 * t + i))
      ∧ (r.m = r.old → ∀ i, i < 128 → d.cask i = v.core.cask i) := by
  intro d
  have h := State.rereadQueues_rereads ((s.takeSaved n k v j).setCore k
    (s.resumed k v j (r.core s.free v.core) { v.run with idx := r.num 0x20 4, member := r.num 0x24 4 })) k r
  have hc := h.core
  rw [State.core_setCore_self] at hc
  obtain ⟨hu, hf, hrun, hpart, hasn, hsram, hom, htk, hcasks, hw, hbar, hjob, htask⟩ := Core.offEngines_fields hc
  obtain ⟨r1, r2, r3, r4, r5, r6, r7, r8, r9, r10, r11, r12, r13, -⟩ := s.resumed_fields k v j (r.core s.free v.core)
    { v.run with idx := r.num 0x20 4, member := r.num 0x24 4 }
  refine ⟨hrun.trans r1, htask.trans r2, hjob.trans r3, hasn.trans r4, hf.trans r5, fun p hp => ?_, hu.trans r7, hpart.trans r8, hw.trans r9,
    fun i hi => ?_, fun i hi => ?_, fun t i ht hi => ?_, fun hm i hi => ?_⟩
  · exact (congrArg (fun b => FMap.get false b (barKey p.1 p.2)) hbar).trans (r6 p hp)
  · refine (congrArg (fun b => FMap.get 0 b i) (htk.trans r10)).trans ?_
    exact (FMap.get_foldl_put 0 (fun i => r.num (0x480 + 2 * i) 2) 32 _ i).trans (if_pos hi)
  · refine (congrArg (fun b => FMap.get 0 b i) (hsram.trans r11)).trans ?_
    exact get_partOf _ _ _ hi
  · refine (congrArg (fun b => FMap.get 0 b (16384 * t + i)) (hom.trans r12)).trans ?_
    exact r.get_om _ ht hi
  · refine (congrArg (fun b => FMap.get none b i) (hcasks.trans r13)).trans ?_
    exact RecordIn.get_casks_same hm _ hi

/-- A record that is as it was written brings the engines' queues back as they stood (R454). -/
theorem State.resumedState_eng (h : r.m = r.old) (e : Eng) :
    let d := (s.resumedState n k v j r).core k
    (d.eng e).q = (v.core.eng e).q ∧ (d.eng e).done = (v.core.eng e).done := by
  intro d
  obtain ⟨-, -, -, -, -, -, -, -, -, -, -, -, -, he⟩ := s.resumed_fields k v j (r.core s.free v.core)
    { v.run with idx := r.num 0x20 4, member := r.num 0x24 4 }
  have hd : d = s.resumed k v j (r.core s.free v.core) { v.run with idx := r.num 0x20 4, member := r.num 0x24 4 } := by
    show (State.rereadQueues _ k r).core k = _
    rw [State.rereadQueues_same _ k h, State.core_setCore_self]
  have hr : ((r.core s.free v.core).eng e).q = (v.core.eng e).q ∧ ((r.core s.free v.core).eng e).done = (v.core.eng e).done := by
    cases e
    · exact RecordIn.engine_same h v.core.ce 0
    · exact RecordIn.engine_same h v.core.me 1
    · exact RecordIn.engine_same h v.core.ve 2
    · exact RecordIn.engine_same h v.core.sae 3
  rw [hd]
  exact ⟨(he e).1.trans hr.1, (he e).2.trans hr.2⟩

end Resumed

/-! ### A record that fails its check (R441, R455) -/

/-- A saved run that cannot come back ends as unhandled, with its gang. -/
theorem State.resume_fails {s : State} {n k d : Nat} {v : Saved} {j : Job} (hj : s.jobOf v.job = some j) (c : Core) (hc : c.job = some j.id) :
    let u := (((s.takeSaved n k v j).setCore k c).freeVal 8).1.kill k 2 d
    (u.core k).run = false ∧ (u.core k).task = none ∧ ∀ x ∈ u.saved, x.job ≠ j.id := by
  have hcore : (((s.takeSaved n k v j).setCore k c).freeVal 8).1.core k = c := State.core_setCore_self _ k c
  have hjob : (((s.takeSaved n k v j).setCore k c).freeVal 8).1.jobOf j.id =
      some { j with cores := insertNat k j.cores, members := j.members.set v.run.member k } := by
    refine State.jobOf_setJob (s := { s with saved := s.saved.eraseIdx n, free := s.free + 256 })
      (i := { j with cores := insertNat k j.cores, members := j.members.set v.run.member k }) (j := j) ?_
    exact (State.jobOf_id hj).symm ▸ hj
  generalize (((s.takeSaved n k v j).setCore k c).freeVal 8).1 = t at hcore hjob
  have hjk : (t.core k).job = some j.id := by rw [hcore, hc]
  obtain ⟨hrun, hsaved⟩ := State.kill_spec hjk 2 d
  exact ⟨hrun, (t.kill_vacant k 2 d _ (by rw [hjk]; exact hjob)).1, hsaved⟩

/-! ### The save area (R49 to R51) -/

/-- Where firmware looks for a save area, and the jobs that it kept for it (R49; log entry 47). -/
def State.savePlace (s : State) : Option Nat := match s.saveArea with | some a => some a.addr | none => s.saveAddr
def State.keptJobs (s : State) : List Job := match s.saveArea with | some a => a.jobs | none => []

/-- A save area that is not taken: every queue is disabled, and management is told (R51). -/
def State.refuseArea (s : State) : State := State.tell (State.disableQueues { s with restored := true }) .saveRefused

theorem State.refuseArea_spec (s : State) :
    (∀ q, q < 64 → (s.refuseArea.lq q).en = false) ∧ s.refuseArea.notes = s.notes ++ [.saveRefused] ∧ s.refuseArea.jobs = s.jobs
      ∧ s.refuseArea.cores = s.cores := by
  have he (q : Nat) (h : q < 64) := { s with restored := true }.disableQueues_en h
  obtain ⟨l, e⟩ := { s with restored := true }.disableQueues_only
  unfold State.refuseArea
  rw [e] at he ⊢
  exact ⟨he, rfl, rfl, rfl⟩

/-- Firmware looks at the save area once after a device reset. -/
theorem exec_saveAreaRestore_over {s : State} (h : s.verified = false ∨ s.restored = true ∨ s.jobCtr ≠ 0) :
    exec .saveAreaRestore s = .next s :=
  if_pos (by rcases h with h | h | h <;> simp [h])

section SaveArea

variable {s : State} (hv : s.verified = true) (hr : s.restored = false) (hj : s.jobCtr = 0)

include hv hr hj

theorem State.looksOnce : (!s.verified || s.restored || decide (s.jobCtr ≠ 0)) = false := by simp [hv, hr, hj]

theorem exec_saveAreaRestore_nowhere (ha : s.savePlace = none) : exec .saveAreaRestore s = .next s.refuseArea := by
  show execSaveAreaRestore s = _
  unfold execSaveAreaRestore
  rw [State.looksOnce hv hr hj]
  refine (if_neg Bool.false_ne_true).trans ?_
  dsimp only
  split
  · rfl
  · next a h => cases h.symm.trans ha

variable {a n : Nat} (ha : s.savePlace = some a) (hn : n = areaSize (leNat (readBytes s.mem (a + 4) 4)))

include ha hn

theorem exec_saveAreaRestore_bad (h : farOk a n = false ∨ areaOk n (s.readImage a n) = false) :
    exec .saveAreaRestore s = .next s.refuseArea := by
  subst hn
  show execSaveAreaRestore s = _
  unfold execSaveAreaRestore
  rw [State.looksOnce hv hr hj]
  refine (if_neg Bool.false_ne_true).trans ?_
  dsimp only
  split
  · next h => cases h.symm.trans ha
  · next b hb =>
    obtain rfl : b = a := Option.some.inj (hb.symm.trans ha)
    exact if_pos (by rcases h with h | h <;> simp [h])

theorem exec_saveAreaRestore_ok (hf : farOk a n = true) (hk : areaOk n (s.readImage a n) = true)
    (hw : ∀ q t, q < 64 → s.restoreCard s.keptJobs q (readBytes (s.readImage a n) (64 + 128 * q) 128) ≠ some (.wait t)) :
    exec .saveAreaRestore s =
      .next (State.restoreArea { s with restored := true } a (leNat (readBytes (s.readImage a n) 4 4)) (s.readImage a n)) := by
  subst hn
  show execSaveAreaRestore s = _
  unfold execSaveAreaRestore
  rw [State.looksOnce hv hr hj]
  refine (if_neg Bool.false_ne_true).trans ?_
  dsimp only
  split
  · next h => cases h.symm.trans ha
  · next b hb =>
    obtain rfl : b = a := Option.some.inj (hb.symm.trans ha)
    rw [if_neg (by simp [hf, hk])]
    split
    · next u hu =>
      obtain ⟨q, hq, hc⟩ := List.exists_of_findSome?_eq_some hu
      split at hc
      · next t e => exact absurd e (hw q t (List.mem_range.mp hq))
      · cases hc
    · rfl

end SaveArea

/-! ### What a save area restores (R50, R51) -/

/-- Jobs have been restored: the launch queues keep all but ERR and STOP. -/
def State.RestoresJobs (s t : State) : Prop :=
  t.cores = s.cores ∧ t.mem = s.mem ∧ t.restored = s.restored ∧ ∀ q, ∃ e b, t.lq q = { s.lq q with err := e, stop := b }

theorem State.RestoresJobs.refl (s : State) : s.RestoresJobs s := ⟨rfl, rfl, rfl, fun q => ⟨(s.lq q).err, (s.lq q).stop, rfl⟩⟩

theorem State.RestoresJobs.trans {s t u : State} (h : s.RestoresJobs t) (g : t.RestoresJobs u) : s.RestoresJobs u := by
  obtain ⟨hc, hm, hr, hq⟩ := h
  obtain ⟨gc, gm, gr, gq⟩ := g
  refine ⟨gc.trans hc, gm.trans hm, gr.trans hr, fun q => ?_⟩
  obtain ⟨e, b, h1⟩ := hq q
  obtain ⟨e', b', h2⟩ := gq q
  exact ⟨e', b', by rw [h2, h1]⟩

theorem State.restoresJobs_of_lqs {s t : State} (hc : t.cores = s.cores) (hm : t.mem = s.mem) (hr : t.restored = s.restored)
    (hq : t.lqs = s.lqs) : s.RestoresJobs t :=
  ⟨hc, hm, hr, fun q => ⟨(s.lq q).err, (s.lq q).stop, by unfold State.lq; rw [hq]⟩⟩

theorem State.stopQueue_restoresJobs (s : State) (q err : Nat) : s.RestoresJobs (s.stopQueue q err) := by
  refine ⟨rfl, rfl, rfl, fun r => ?_⟩
  by_cases h : q = r
  · subst h; exact ⟨err, true, s.stopQueue_lq_self q err⟩
  · exact ⟨(s.lq r).err, (s.lq r).stop, s.stopQueue_lq_of_ne err h⟩

theorem State.restoreJob_restoresJobs (s : State) (kept : List Job) (q : Nat) (bs : List Byte) : s.RestoresJobs (s.restoreJob kept q bs) := by
  unfold State.restoreJob
  dsimp only
  split
  · exact State.restoresJobs_of_lqs rfl rfl rfl rfl
  · exact State.restoresJobs_of_lqs rfl rfl rfl rfl
  · exact s.stopQueue_restoresJobs q 1
  · exact .refl s

/-- The launch queues of a save area, and the jobs that firmware kept for runs alone (R50; log entry 47). -/
def State.restoreLqs (s : State) (a : SaveArea) (m : FMap Byte) : State :=
  { s with
    lqs := (List.range 64).foldl (fun l q => l.put LQueue.reset q (lqOfRecord (readBytes m (64 + 128 * q) 128))) []
    jobs := (a.jobs.filter fun j => !j.dealing).map fun j => { j with cores := [], leaving := false }
    jobCtr := a.jobs.foldl (fun c j => max c (j.id + 1)) s.jobCtr }

theorem State.restoreLqs_rest (s : State) (a : SaveArea) (m : FMap Byte) :
    (s.restoreLqs a m).cores = s.cores ∧ (s.restoreLqs a m).mem = s.mem ∧ (s.restoreLqs a m).restored = s.restored := by
  unfold State.restoreLqs
  exact ⟨rfl, rfl, rfl⟩

theorem State.restoreLqs_lq (s : State) (a : SaveArea) (m : FMap Byte) {q : Nat} (h : q < 64) :
    (s.restoreLqs a m).lq q = lqOfRecord (readBytes m (64 + 128 * q) 128) := by
  unfold State.lq State.restoreLqs
  dsimp only
  rw [FMap.get_foldl_put LQueue.reset fun q => lqOfRecord (readBytes m (64 + 128 * q) 128)]
  exact if_pos h

/-- The launch queues and the jobs of a save area, before its runs (R50). -/
def State.restoreQueues (s : State) (a : SaveArea) (m : FMap Byte) : State :=
  ((List.range 64).foldl (fun s q => s.restoreJob a.jobs q (readBytes m (64 + 128 * q) 128)) (s.restoreLqs a m)).dropAs 128

theorem State.restoreQueues_restoresJobs (s : State) (a : SaveArea) (m : FMap Byte) :
    (s.restoreLqs a m).RestoresJobs (s.restoreQueues a m) := by
  unfold State.restoreQueues
  refine State.RestoresJobs.trans ?_ (State.restoresJobs_of_lqs rfl rfl rfl rfl)
  exact List.foldlRecOn (motive := fun t : State => (s.restoreLqs a m).RestoresJobs t) _ _ (.refl _) fun t ht q _ =>
    ht.trans (t.restoreJob_restoresJobs ..)

/-- The runs of a save area, once its queues and jobs are there (R51, R454). -/
def State.restoreRuns (s : State) (a : SaveArea) (addr runs : Nat) : State :=
  let vs := (List.range runs).filterMap fun i => s.restoreRun a.runs (addr + areaHead + i * recordSize)
  { s with saved := vs, jobs := s.jobs.filter fun j => j.dealing || vs.any fun v => v.job = j.id }

theorem State.restoreArea_eq (s : State) (addr runs : Nat) (m : FMap Byte) :
    ∃ a, s.restoreArea addr runs m = (s.restoreQueues a m).restoreRuns a addr runs := ⟨_, rfl⟩

/-- A restored run is that of its record, of the job whose card the record names (R454, R455). -/
theorem State.restoreRun_spec {s : State} {kept : List Saved} {at_ : Nat} {v : Saved} (h : s.restoreRun kept at_ = some v) :
    let b := s.readImage at_ 64
    v.addr = at_ ∧ v.run.idx = leNat (readBytes b 0x20 4) ∧ v.run.member = leNat (readBytes b 0x24 4)
      ∧ ∃ j ∈ s.jobs, v.job = j.id ∧ j.card.addr = BitVec.ofNat 72 (leNat (readBytes b 16 9)) := by
  unfold State.restoreRun at h
  obtain ⟨j, hj, hv⟩ := Option.map_eq_some_iff.mp h
  have hmem := List.mem_of_find?_eq_some hj
  have hcard : j.card.addr = BitVec.ofNat 72 (leNat (readBytes (s.readImage at_ 64) 16 9)) := by
    have := List.find?_some hj
    simp only [Bool.and_eq_true, decide_eq_true_eq] at this
    exact this.1
  dsimp only at hv
  split at hv
  · next w hw =>
    have hw := List.find?_some hw
    simp only [Bool.and_eq_true, decide_eq_true_eq] at hw
    subst hv
    exact ⟨hw.1, rfl, rfl, j, hmem, hw.2, hcard⟩
  · subst hv
    exact ⟨rfl, rfl, rfl, j, hmem, rfl, hcard⟩

theorem nbits_asn (bs : List Byte) (o : Nat) : nbits (field bs o 8) 63 48 = field bs o 8 / 2 ^ 48 := by
  have h := field_lt bs o 8
  unfold nbits
  omega

theorem State.restoreArea_lq (s : State) (addr runs : Nat) (m : FMap Byte) {q : Nat} (h : q < 64) :
    let bs := readBytes m (64 + 128 * q) 128
    let x := (s.restoreArea addr runs m).lq q
    x.base = BitVec.ofNat 72 (field bs 0 9) ∧ x.head = BitVec.ofNat 72 (field bs 0x10 9) ∧ x.tail = BitVec.ofNat 72 (field bs 0x20 9)
      ∧ x.asn = field bs 0x30 8 / 2 ^ 48 ∧ x.en = nbit (field bs 0x30 8) 0 ∧ x.owner = nbit (field bs 0x30 8) 1 := by
  obtain ⟨a, hu⟩ := s.restoreArea_eq addr runs m
  obtain ⟨-, -, -, hq⟩ := s.restoreQueues_restoresJobs a m
  obtain ⟨e, b, hx⟩ := hq q
  rw [s.restoreLqs_lq a m h] at hx
  have hl : ((s.restoreQueues a m).restoreRuns a addr runs).lq q = (s.restoreQueues a m).lq q := rfl
  dsimp only
  rw [hu, hl, hx]
  exact ⟨rfl, rfl, rfl, nbits_asn _ 0x30, rfl, rfl⟩

/-- Every run of a save area is that of a record, of a job that is there (R51). -/
theorem State.restoreRuns_saved (s : State) (a : SaveArea) (addr runs : Nat) :
    let u := s.restoreRuns a addr runs
    ∀ v ∈ u.saved, ∃ i, i < runs ∧ v.addr = addr + areaHead + i * recordSize
      ∧ v.run.idx = leNat (readBytes (s.readImage v.addr 64) 0x20 4) ∧ v.run.member = leNat (readBytes (s.readImage v.addr 64) 0x24 4)
      ∧ ∃ j ∈ u.jobs, v.job = j.id ∧ j.card.addr = BitVec.ofNat 72 (leNat (readBytes (s.readImage v.addr 64) 16 9)) := by
  intro u v hv
  obtain ⟨i, hi, hv'⟩ := List.mem_filterMap.mp hv
  obtain ⟨haddr, hidx, hmem, j, hj, hjob, hcard⟩ := State.restoreRun_spec hv'
  rw [← haddr] at hidx hmem hcard
  refine ⟨i, List.mem_range.mp hi, haddr, hidx, hmem, j, List.mem_filter.mpr ⟨hj, ?_⟩, hjob, hcard⟩
  simp only [Bool.or_eq_true, List.any_eq_true, decide_eq_true_eq]
  exact .inr ⟨v, hv, hjob⟩

theorem State.restoreArea_rest (s : State) (addr runs : Nat) (m : FMap Byte) :
    let u := s.restoreArea addr runs m
    u.cores = s.cores ∧ u.mem = s.mem ∧ u.restored = s.restored
      ∧ ∀ v ∈ u.saved, ∃ i, i < runs ∧ v.addr = addr + areaHead + i * recordSize
        ∧ v.run.idx = leNat (readBytes (s.readImage v.addr 64) 0x20 4) ∧ v.run.member = leNat (readBytes (s.readImage v.addr 64) 0x24 4)
        ∧ ∃ j ∈ u.jobs, v.job = j.id ∧ j.card.addr = BitVec.ofNat 72 (leNat (readBytes (s.readImage v.addr 64) 16 9)) := by
  obtain ⟨a, hu⟩ := s.restoreArea_eq addr runs m
  obtain ⟨hc, hm, hr, -⟩ := s.restoreQueues_restoresJobs a m
  obtain ⟨hc', hm', hr'⟩ := s.restoreLqs_rest a m
  have hs := (s.restoreQueues a m).restoreRuns_saved a addr runs
  have himg (n : Nat) : (s.restoreQueues a m).readImage n 64 = s.readImage n 64 := by
    unfold State.readImage; rw [hm, hm']
  simp only [himg] at hs
  dsimp only
  rw [hu]
  exact ⟨hc.trans hc', hm.trans hm', hr.trans hr', hs⟩

/-! ### The statement -/

/-- Settles O41: each step is an equation; the core of a run that resumes comes from its record, field by field, and reading its queues
again changes its engines alone; the restored queues and runs are those of the area's records. -/
theorem runsAreSavedAndResumed : Obligations.RunsAreSavedAndResumed := by
  unfold Obligations.RunsAreSavedAndResumed
  refine ⟨?request, ?checkpoint, ?resume, ?area⟩
  case request =>
    intro s addr hp hv
    exact ⟨_, exec_firmwareUpdateRequest addr hp hv, s.beginSaves_saves _⟩
  case checkpoint =>
    intro s k r ht hs hq hp hv
    obtain ⟨hpu, a, hsaved, htask, hjob, hcasks, heng⟩ := State.saveRun_spec (k := k) (r := r) hp
    refine ⟨s.saveRun k r, ?_, s.savedOf k r a, hsaved, rfl, rfl, rfl, rfl, rfl, rfl, rfl, rfl, rfl, fun e => ?_, htask, hjob, hcasks, heng⟩
    · rw [exec_checkpointComplete ht hs hq hv, State.finishSave_of_none hpu]
    · cases e <;> rfl
  case resume =>
    intro s n k v j hs hj hp hv hl hk m at_ ok
    refine ⟨fun hok => ⟨_, exec_resume_ok hp hv hl hk hs hj rfl hok, ?_⟩, fun hbad => ⟨_, exec_resume_bad hp hv hl hk hs hj hbad, ?_⟩⟩
    · let r : RecordIn := { m := m, old := s.savedImage v }
      obtain ⟨hrun, htask, hjob, hasn, hfirm, hfreed, huser, hpart, hwseq, htk, hsram, hom, hcasks⟩ :=
        State.resumedState_core (s := s) (n := n) (k := k) (v := v) (j := j) (r := r)
      obtain ⟨hsaved, hmem, hothers⟩ := State.resumedState_rest (s := s) (n := n) (k := k) (v := v) (j := j) (r := r)
      obtain ⟨hs3, hS, hA, hP, hpc, hslot, hsst, hepc, hcause, htvec⟩ := Ctx.resume_reads (s.core k).user (r.ctx s.free v.core.user)
      obtain ⟨rS, rA, rP, rpc, rslot, rsst, repc, rcause, rtvec⟩ := r.ctx_reads s.free v.core.user
      show let d := (s.resumedState n k v j r).core k; _
      intro d
      rw [← huser] at hs3 hS hA hP hpc hslot hsst hepc hcause htvec
      exact ⟨hrun, htask, hjob, hasn, hpart, hwseq, hpc.trans rpc, hslot.trans rslot, hsst.trans rsst, hepc.trans repc, hcause.trans rcause,
        htvec.trans rtvec, hs3, fun q h0 h3 => (hS q h3).trans (rS q h0), fun q => (hA q).trans (rA q),
        fun q h0 => (hP q).trans (rP q h0), htk, hsram, hom, hfreed,
        fun hm => ⟨hcasks hm, State.resumedState_eng (r := r) hm⟩, hfirm, hsaved, hmem, hothers⟩
    · exact State.resume_fails hj _ rfl
  case area =>
    intro s refused at_
    refine ⟨fun h => ⟨s, exec_saveAreaRestore_over h, rfl⟩, fun hv hr hj => ⟨fun ha => ?_, fun a ha => ?_⟩⟩
    · exact ⟨_, exec_saveAreaRestore_nowhere hv hr hj ha, s.refuseArea_spec⟩
    · refine ⟨fun hf hk hw => ⟨_, exec_saveAreaRestore_ok hv hr hj ha rfl hf hk hw, ?_⟩,
        fun h => ⟨_, exec_saveAreaRestore_bad hv hr hj ha rfl h, s.refuseArea_spec⟩⟩
      obtain ⟨hc, hm, hres, hs⟩ := State.restoreArea_rest { s with restored := true } a _ _
      exact ⟨fun q hq => State.restoreArea_lq _ a _ _ hq, hs, hres, hc, hm⟩

end Sys2Proof.Machine
end
section
/-!
Calendars of berths (R55, R56, R65): reads after writes of a calendar, its rows and its uses, searching for a run of rows, and
placing and freeing a use.
-/

namespace Sys2Proof

/-- A map of which some entries are taken out still gives the value at a key whose first entry stays. -/
theorem FMap.get_filter_of_keep {α : Type} {d v : α} {m : FMap α} {f : Nat × α → Bool} {k : Nat} (h : FMap.get d m k = v)
    (hd : v ≠ d) (hf : f (k, v) = true) : FMap.get d (m.filter f) k = v := by
  induction m with
  | nil => exact absurd h.symm hd
  | cons p m ih =>
    obtain ⟨i, w⟩ := p
    rw [FMap.get] at h
    by_cases hi : i = k
    · subst hi
      rw [if_pos rfl] at h
      subst h
      rw [List.filter_cons_of_pos hf, FMap.get, if_pos rfl]
    · rw [if_neg hi] at h
      rw [List.filter_cons]
      split
      · rw [FMap.get, if_neg hi]; exact ih h
      · exact ih h

/-- A map of which every value is replaced by a function that keeps the default. -/
theorem FMap.get_map_value {α : Type} {d : α} (f : α → α) (hd : f d = d) (m : FMap α) (k : Nat) :
    FMap.get d (m.map fun p => (p.1, f p.2)) k = f (FMap.get d m k) := by
  induction m with
  | nil => exact hd.symm
  | cons p m ih =>
    obtain ⟨i, w⟩ := p
    rw [List.map_cons, FMap.get, FMap.get, ih]
    split <;> rfl

namespace Machine

/-! ### Calendars by name -/

theorem State.cal_setCal (s : State) (c c' : Cal) (x : Calendar) :
    (s.setCal c x).cal c' = if ownerDie c = ownerDie c' ∧ calKey c = calKey c' then x else s.cal c' := by
  unfold State.setCal State.cal
  rw [State.die_setDie]
  by_cases hd : ownerDie c = ownerDie c'
  · rw [if_pos hd]
    dsimp only
    rw [FMap.get_put, hd]
    by_cases hk : calKey c = calKey c'
    · rw [if_pos hk, if_pos ⟨rfl, hk⟩]
    · rw [if_neg hk, if_neg fun h => hk h.2]
  · rw [if_neg hd, if_neg fun h => hd h.1]

@[simp] theorem State.cal_setCal_self (s : State) (c : Cal) (x : Calendar) : (s.setCal c x).cal c = x := by
  rw [State.cal_setCal, if_pos ⟨rfl, rfl⟩]

/-- Two names of one calendar. -/
theorem State.cal_congr (s : State) {c c' : Cal} (hd : ownerDie c = ownerDie c') (hk : calKey c = calKey c') : s.cal c = s.cal c' := by
  unfold State.cal; rw [hd, hk]

theorem State.cal_of_dies {s t : State} (h : t.dies = s.dies) (c : Cal) : t.cal c = s.cal c := by
  unfold State.cal State.die; rw [h]

theorem State.die_of_dies {s t : State} (h : t.dies = s.dies) (d : Nat) : t.die d = s.die d := by
  unfold State.die; rw [h]

theorem State.core_of_cores {s t : State} (h : t.cores = s.cores) (k : Nat) : t.core k = s.core k := by
  unfold State.core; rw [h]

/-- A calendar replaced leaves the registers of every booking unit. -/
theorem State.setCal_failstop (s : State) (c : Cal) (x : Calendar) (d : Nat) : ((s.setCal c x).die d).failstop = (s.die d).failstop := by
  unfold State.setCal
  rw [State.die_setDie]
  split
  · next h => subst h; rfl
  · rfl

/-! ### Rows -/

theorem Calendar.row_setRow (x : Calendar) (b a : Nat) (r : Option Row) :
    (x.setRow b r).row a = if calRow b = calRow a then r else x.row a := FMap.get_put ..

@[simp] theorem Calendar.setRow_uses (x : Calendar) (b : Nat) (r : Option Row) : (x.setRow b r).uses = x.uses := rfl

@[simp] theorem Calendar.setRows_uses (x : Calendar) (b : Nat) (r : Option Row) (n : Nat) : (x.setRows b r n).uses = x.uses := by
  induction n generalizing x b with
  | zero => rfl
  | succ n ih => exact ih (x.setRow b r) (b + 1)

/-- A row that holds a value already still holds it after a run of rows is set to it. -/
theorem Calendar.row_setRows_stays (x : Calendar) (b a : Nat) (r : Option Row) (n : Nat) (h : x.row a = r) :
    (x.setRows b r n).row a = r := by
  induction n generalizing x b with
  | zero => exact h
  | succ n ih => exact ih _ _ (by rw [Calendar.row_setRow, h]; exact ite_self _)

/-- Every row of a run that is set holds the value set. -/
theorem Calendar.row_setRows (x : Calendar) {b i n : Nat} (r : Option Row) (h : i < n) : (x.setRows b r n).row (b + i) = r := by
  induction n generalizing x b i with
  | zero => omega
  | succ n ih =>
    cases i with
    | zero => exact Calendar.row_setRows_stays (x.setRow b r) _ _ _ _ (by rw [Nat.add_zero, Calendar.row_setRow, if_pos rfl])
    | succ i => rw [show b + (i + 1) = b + 1 + i by omega]; exact ih _ (by omega)

/-! ### Uses -/

theorem Calendar.use_id {x : Calendar} {id : UseId} {u : OwnUse} (h : x.use id = some u) : u.id = id := by
  simpa using List.find?_some h

theorem Calendar.mem_of_use {x : Calendar} {id : UseId} {u : OwnUse} (h : x.use id = some u) : u ∈ x.uses := List.mem_of_find?_eq_some h

@[simp] theorem Calendar.use_setUse_self (x : Calendar) (u : OwnUse) : (x.setUse u).use u.id = some u :=
  List.find?_cons_of_pos (by simp)

theorem find?_filter_of_imp {α : Type} {p q : α → Bool} (h : ∀ a, p a = true → q a = true) (l : List α) :
    (l.filter q).find? p = l.find? p := by
  rw [List.find?_filter]
  refine congrFun (congrArg List.find? (funext fun a => ?_)) l
  cases hp : p a with
  | true => simp [h a hp]
  | false => simp

theorem Calendar.use_setUse_of_ne (x : Calendar) {u : OwnUse} {i : UseId} (h : i ≠ u.id) : (x.setUse u).use i = x.use i := by
  refine (List.find?_cons_of_neg (by simpa using Ne.symm h)).trans (find?_filter_of_imp (fun v hv => ?_) _)
  simp only [decide_eq_true_eq] at hv ⊢
  exact hv ▸ h

theorem Calendar.use_dropUse_self (x : Calendar) (id : UseId) : (x.dropUse id).use id = none := by
  refine List.find?_eq_none.2 fun v hv => ?_
  have := (List.mem_filter.1 hv).2
  simpa using this

/-- Of the rows of a calendar none belongs to a use that has been dropped. -/
theorem Calendar.row_dropUse_ne {x : Calendar} {id : UseId} {b : Nat} {r : Row} (h : (x.dropUse id).row b = some r) : r.id ≠ id := by
  have hall : ∀ p ∈ (x.dropUse id).rows, ∀ r, p.2 = some r → r.id ≠ id := fun p hp r hr => by
    have := (List.mem_filter.1 hp).2
    rw [hr] at this
    simpa using this
  exact FMap.get_of_all (P := fun v => ∀ r, v = some r → r.id ≠ id) (by simp) hall (calRow b) r h

theorem Calendar.dropUse_freed (x : Calendar) (id : UseId) : x.Freed (x.dropUse id) id :=
  ⟨x.use_dropUse_self id, fun _ _ => Calendar.row_dropUse_ne, fun _ _ h hr => FMap.get_filter_of_keep h (by simp) (by simpa using hr)⟩

/-! ### Searching (R27, R61) -/

/-- Where a search ends: at the first number with the property, or with none in its range. -/
theorem earliest_spec (p : Nat → Bool) (fuel b : Nat) :
    match earliest p fuel b with
    | some c => b ≤ c ∧ c < b + fuel ∧ p c = true ∧ ∀ a, b ≤ a → a < c → p a = false
    | none => ∀ a, b ≤ a → a < b + fuel → p a = false := by
  induction fuel generalizing b with
  | zero => intro a h1 h2; omega
  | succ fuel ih =>
    rw [earliest]
    by_cases hb : p b = true
    · rw [if_pos hb]
      exact ⟨Nat.le_refl b, by omega, hb, fun a h1 h2 => by omega⟩
    · rw [if_neg hb]
      have hstep (a : Nat) (h1 : b ≤ a) (h : b + 1 ≤ a → p a = false) : p a = false := by
        by_cases e : a = b
        · subst e; simpa using hb
        · exact h (by omega)
      specialize ih (b + 1)
      split at ih
      · next c hc =>
        obtain ⟨h1, h2, h3, h4⟩ := ih
        exact ⟨by omega, by omega, h3, fun a ha1 ha2 => hstep a ha1 fun h => h4 a h ha2⟩
      · next hc => exact fun a ha1 ha2 => hstep a ha1 fun h => ih a h (by omega)

/-- The first number with a property is found where the range reaches it. -/
theorem earliest_eq_some {p : Nat → Bool} {fuel b c : Nat} (h1 : b ≤ c) (h2 : c < b + fuel) (hc : p c = true)
    (h : ∀ a, b ≤ a → a < c → p a = false) : earliest p fuel b = some c := by
  have hs := earliest_spec p fuel b
  split at hs
  · next c' e =>
    obtain ⟨g1, g2, g3, g4⟩ := hs
    rw [e]
    rcases Nat.lt_trichotomy c' c with hlt | rfl | hlt
    · rw [h c' g1 hlt] at g3; exact absurd g3 (by simp)
    · rfl
    · rw [g4 c h1 hlt] at hc; exact absurd hc (by simp)
  · rw [hs c h1 h2] at hc; exact absurd hc (by simp)

/-! ### Placing a use (R27, R55) -/

/-- The calendar in which a use stands from a berth on. -/
def State.placed (s : State) (c : Cal) (u : OwnUse) : Calendar :=
  ((s.cal c).setRows (max u.first s.berth) (some { st := u.st, id := u.id }) (u.first + u.n - max u.first s.berth)).setUse u

@[simp] theorem State.cal_placeUse_self (s : State) (c : Cal) (u : OwnUse) : (s.placeUse c u).cal c = s.placed c u := s.cal_setCal_self ..

@[simp] theorem State.placed_use (s : State) (c : Cal) (u : OwnUse) : (s.placed c u).use u.id = some u := Calendar.use_setUse_self ..

/-- The berths of a placed use that have not passed bear its row. -/
theorem State.placed_row {s : State} {c : Cal} {u : OwnUse} {b : Nat} (h : s.berth ≤ b) (h1 : u.first ≤ b) (h2 : b < u.first + u.n) :
    (s.placed c u).row b = some { st := u.st, id := u.id } := by
  have := (s.cal c).row_setRows (b := max u.first s.berth) (i := b - max u.first s.berth) (some { st := u.st, id := u.id })
    (n := u.first + u.n - max u.first s.berth) (by omega)
  rwa [show max u.first s.berth + (b - max u.first s.berth) = b by omega] at this

end Machine
end Sys2Proof
end
section
/-!
What the owner of a calendar does with a booking message (R62 to R66, R75), from a requester of this package or of another.
-/

namespace Sys2Proof.Machine

/-! ### Answers to a requester (R65) -/

@[simp] theorem State.toRequester_cores (s : State) (d : Nat) (t : BookType) (m : BookMsg) : (s.toRequester d t m).cores = s.cores := by
  unfold State.toRequester
  split
  · rfl
  · split
    · rfl
    · exact State.send_cores ..

@[simp] theorem State.toRequester_dies (s : State) (d : Nat) (t : BookType) (m : BookMsg) : (s.toRequester d t m).dies = s.dies := by
  unfold State.toRequester
  split
  · rfl
  · split
    · rfl
    · exact State.send_dies ..

@[simp] theorem State.toRequester_mem (s : State) (d : Nat) (t : BookType) (m : BookMsg) : (s.toRequester d t m).mem = s.mem := by
  unfold State.toRequester
  split
  · rfl
  · split
    · rfl
    · exact State.send_mem ..

theorem State.send_setDie (s : State) (d : Nat) (x : Die) (p : Packet) : (s.setDie d x).send p = (s.send p).setDie d x := by
  unfold State.send
  by_cases h : s.hops p.dpkg = 3
  · rw [if_pos h, if_pos (show (s.setDie d x).hops p.dpkg = 3 from h)]
    by_cases hn : nakable p = true
    · rw [if_pos hn, if_pos hn]; rfl
    · rw [if_neg hn, if_neg hn]
  · rw [if_neg h, if_neg (show ¬(s.setDie d x).hops p.dpkg = 3 from h)]; rfl

theorem State.toRequester_setDie (s : State) (d : Nat) (x : Die) (e : Nat) (t : BookType) (m : BookMsg) :
    (s.setDie d x).toRequester e t m = (s.toRequester e t m).setDie d x := by
  unfold State.toRequester
  by_cases h : m.pkg = s.pkg
  · rw [if_pos h, if_pos (show m.pkg = (s.setDie d x).pkg from h)]; rfl
  · rw [if_neg h, if_neg (show ¬m.pkg = (s.setDie d x).pkg from h)]
    by_cases hh : s.hops m.pkg = 3
    · rw [if_pos hh, if_pos (show (s.setDie d x).hops m.pkg = 3 from hh)]
    · rw [if_neg hh, if_neg (show ¬(s.setDie d x).hops m.pkg = 3 from hh)]; exact State.send_setDie ..

/-- A state with another calendar answers a message alike. -/
theorem State.answered_of_setCal (s : State) (c : Cal) (x : Calendar) (t : BookType) (m : BookMsg) :
    s.Answered ((s.setCal c x).toRequester (ownerDie (calOfWord m.res.toNat)) t m) t m := by
  unfold State.setCal
  rw [State.toRequester_setDie]
  exact ⟨rfl, rfl⟩

/-! ### A message at its owner (R62, R64) -/

/-- The owner acts on a message that has arrived. -/
theorem State.AtOwner.acts {s x : State} {t : BookType} {m : BookMsg} (h : s.AtOwner t m x) :
    ∃ g : MsgF, s.arrive t m = some (x, g) ∧ g.die = ownerDie (calOfWord m.res.toNat) ∧ ∀ f : State → Nat → Nat → Cal → State,
      s.atOwner t m f = f x (ownerDie (calOfWord m.res.toNat)) g.due (calOfWord m.res.toNat) := by
  obtain ⟨g, ha, hd, hs, hl⟩ := h
  refine ⟨g, ha, hd, fun f => ?_⟩
  unfold State.atOwner
  rw [hd] at hl
  simp only [ha, hd, hl]
  rw [if_neg (by simpa using hs), if_neg (by simp)]

/-! ### HOLD (R27, R65) -/

/-- The use that a HOLD places. -/
def State.heldUse (x : State) (m : BookMsg) : OwnUse where
  id := msgUse m
  first := m.berth
  n := nbits m.res.toNat 16 0
  st := .held
  exp := x.tb + (x.die (ownerDie (calOfWord m.res.toNat))).holdTmo
  start := none
  carried := false
  stop := false
  dur := 256 * nbits m.res.toNat 16 0
  link := nbit m.res.toNat 32

/-- The berth that a refusal of a HOLD names: the earliest later run inside the horizon (R65). -/
def State.nextRun (x : State) (m : BookMsg) : Nat :=
  let c := calOfWord m.res.toNat
  let n := nbits m.res.toNat 16 0
  if (x.cal c).poisoned then noBerth else (x.freeFrom c (max (m.berth + 1) x.berth) n).getD noBerth

section AtOwner

variable {s x : State} {m : BookMsg}

theorem exec_hold_stopped (h : s.AtOwner .hold m x) (hf : (x.die (ownerDie (calOfWord m.res.toNat))).failstop = true) :
    exec (.hold m) s = .next (x.toRequester (ownerDie (calOfWord m.res.toNat)) .refusedFatal m) := by
  obtain ⟨g, -, -, ha⟩ := h.acts
  refine congrArg Host.Outcome.next ((ha _).trans ?_)
  exact if_pos hf

theorem exec_hold_free (h : s.AtOwner .hold m x) (hf : (x.die (ownerDie (calOfWord m.res.toNat))).failstop = false)
    (hr : (x.cal (calOfWord m.res.toNat)).freeRun m.berth (nbits m.res.toNat 16 0) = true) (h1 : x.berth ≤ m.berth)
    (h2 : m.berth + nbits m.res.toNat 16 0 ≤ x.horizon + 1) :
    exec (.hold m) s = .next ((x.placeUse (calOfWord m.res.toNat) (x.heldUse m)).toRequester (ownerDie (calOfWord m.res.toNat)) .held
      { m with exp := x.tb + (x.die (ownerDie (calOfWord m.res.toNat))).holdTmo }) := by
  obtain ⟨g, -, -, ha⟩ := h.acts
  refine congrArg Host.Outcome.next ((ha _).trans ?_)
  dsimp only
  rw [if_neg (by simp [hf]), if_pos (by simp [hr, h1, h2])]
  rfl

theorem exec_hold_refused (h : s.AtOwner .hold m x) (hf : (x.die (ownerDie (calOfWord m.res.toNat))).failstop = false)
    (hr : (x.cal (calOfWord m.res.toNat)).freeRun m.berth (nbits m.res.toNat 16 0) = false ∨ m.berth < x.berth
      ∨ x.horizon + 1 < m.berth + nbits m.res.toNat 16 0) :
    exec (.hold m) s = .next (x.toRequester (ownerDie (calOfWord m.res.toNat)) .refused { m with berth := x.nextRun m }) := by
  obtain ⟨g, -, -, ha⟩ := h.acts
  refine congrArg Host.Outcome.next ((ha _).trans ?_)
  dsimp only
  rw [if_neg (by simp [hf]), if_neg]
  · rfl
  · simp only [Bool.and_eq_true, decide_eq_true_eq, not_and]
    rintro ⟨h1, h2⟩
    rcases hr with h | h | h
    · rw [h] at h1; exact absurd h1 (by simp)
    · omega
    · omega

/-- The berth that a refusal names is the earliest that would do, or says that none would. -/
theorem State.nextRun_spec (x : State) (m : BookMsg) :
    let c := calOfWord m.res.toNat
    let n := nbits m.res.toNat 16 0
    let b := x.nextRun m
    (m.berth < b ∧ x.berth ≤ b ∧ b + n ≤ x.horizon + 1 ∧ (x.cal c).freeRun b n = true
        ∧ ∀ a, m.berth < a → x.berth ≤ a → a < b → (x.cal c).freeRun a n = false)
      ∨ (b = noBerth ∧ ∀ a, m.berth < a → x.berth ≤ a → a + n ≤ x.horizon + 1 → (x.cal c).freeRun a n = false) := by
  intro c n b
  have hb : b = if (x.cal c).poisoned then noBerth else (x.freeFrom c (max (m.berth + 1) x.berth) n).getD noBerth := rfl
  by_cases hp : (x.cal c).poisoned = true
  · rw [if_pos hp] at hb
    exact .inr ⟨hb, fun a _ _ _ => by unfold Calendar.freeRun; rw [hp]; rfl⟩
  · rw [if_neg hp] at hb
    have hs := earliest_spec ((x.cal c).freeRun · n) (x.horizon + 2 - n - max (m.berth + 1) x.berth) (max (m.berth + 1) x.berth)
    split at hs
    · next e he =>
      rw [show x.freeFrom c (max (m.berth + 1) x.berth) n = some e from he] at hb
      obtain ⟨h1, h2, h3, h4⟩ := hs
      rw [show b = e from hb]
      exact .inl ⟨by omega, by omega, by omega, h3, fun a ha1 ha2 ha3 => h4 a (by omega) ha3⟩
    · next he =>
      rw [show x.freeFrom c (max (m.berth + 1) x.berth) n = none from he] at hb
      exact .inr ⟨hb, fun a ha1 ha2 ha3 => hs a (by omega) (by omega)⟩

/-! ### COMMIT, RELEASE, CANCEL (R65, R66) -/

theorem exec_commit_stopped (h : s.AtOwner .commit m x) (hf : (x.die (ownerDie (calOfWord m.res.toNat))).failstop = true) :
    exec (.commit m) s = .next (x.toRequester (ownerDie (calOfWord m.res.toNat)) .refusedFatal m) := by
  obtain ⟨g, -, -, ha⟩ := h.acts
  refine congrArg Host.Outcome.next ((ha _).trans ?_)
  exact if_pos hf

/-- A COMMIT books the held rows that it finds in time, and else nothing (R66). -/
theorem exec_commit (h : s.AtOwner .commit m x) (hf : (x.die (ownerDie (calOfWord m.res.toNat))).failstop = false) {v : OwnUse}
    (hv : (x.cal (calOfWord m.res.toNat)).use (msgUse m) = some v) {g : MsgF} (hg : s.arrive .commit m = some (x, g)) :
    exec (.commit m) s = .next (if v.st = .held ∧ g.due ≤ v.exp
      then x.placeUse (calOfWord m.res.toNat) { v with st := .booked, exp := 0 } else x) := by
  obtain ⟨g', hg', -, ha⟩ := h.acts
  obtain rfl : g = g' := by rw [hg] at hg'; simpa using hg'
  refine congrArg Host.Outcome.next ((ha _).trans ?_)
  simp only [hf, hv, Bool.and_eq_true, decide_eq_true_eq]
  rfl

theorem exec_release (h : s.AtOwner .release m x) :
    exec (.release m) s = .next (x.ownerRelease (calOfWord m.res.toNat) (msgUse m)) := by
  obtain ⟨g, -, -, ha⟩ := h.acts
  exact congrArg Host.Outcome.next (ha _)

theorem exec_cancel (h : s.AtOwner .cancel m x) :
    exec (.cancel m) s = .next (x.ownerRelease (calOfWord m.res.toNat) (msgUse m)) := by
  obtain ⟨g, -, -, ha⟩ := h.acts
  exact congrArg Host.Outcome.next (ha _)

/-- A use that has not started leaves its calendar (R65). -/
theorem State.ownerRelease_unstarted {x : State} {c : Cal} {id : UseId} {v : OwnUse} (hv : (x.cal c).use id = some v) (hs : v.start = none) :
    x.ownerRelease c id = x.setCal c ((x.cal c).dropUse id) := by
  unfold State.ownerRelease
  simp only [hv, hs]
  rfl

/-- A use that runs is asked to stop (R65). -/
theorem State.ownerRelease_started {x : State} {c : Cal} {id : UseId} {v : OwnUse} (hv : (x.cal c).use id = some v)
    (hs : v.start.isSome = true) (hf : (x.die (ownerDie c)).failstop = false) (hp : (x.cal c).poisoned = false) :
    x.ownerRelease c id = x.setCal c ((x.cal c).setUse { v with stop := true }) := by
  unfold State.ownerRelease
  simp only [hv, hs, hf, hp]
  rfl

/-- Releasing a use changes nothing but its calendar. -/
theorem State.ownerRelease_cases (x : State) (c : Cal) (id : UseId) :
    x.ownerRelease c id = x ∨ x.ownerRelease c id = x.setCal c ((x.cal c).dropUse id)
      ∨ ∃ v, (x.cal c).use id = some v ∧ v.start.isSome = true ∧ (x.die (ownerDie c)).failstop = false
        ∧ x.ownerRelease c id = x.setCal c ((x.cal c).setUse { v with stop := true }) := by
  unfold State.ownerRelease
  dsimp only
  split
  · exact .inl rfl
  · next v hv =>
    split
    · next hs =>
      split
      · exact .inl rfl
      · next hf => exact .inr (.inr ⟨v, hv, hs, by simp only [Bool.or_eq_true, not_or, Bool.not_eq_true] at hf; exact hf.1, rfl⟩)
    · exact .inr (.inl rfl)

/-! ### SLIP (R75) -/

theorem exec_slip_owner (h : s.AtOwner .slip m x) : exec (.slip m) s = .next (x.slipOwner m) := by
  obtain ⟨g, ha, hd, hs, hl⟩ := h
  show execSlip m s = _
  unfold execSlip
  rw [hd] at hl
  simp only [ha, hd, hl]
  by_cases ho : g.src = outsideSrc
  · simp [ho, hs ho]
  · simp [ho]

/-- The owner moves a use that has not started to the first run from its floor (R75). -/
theorem State.slipOwner_moves {x : State} {m : BookMsg} {v : OwnUse} {b : Nat}
    (hf : (x.die (ownerDie (calOfWord m.res.toNat))).failstop = false) (hv : (x.cal (calOfWord m.res.toNat)).use (msgUse m) = some v)
    (hs : v.start = none) (h1 : max m.berth x.berth ≤ b) (h2 : b + v.n ≤ x.horizon + 1)
    (hb : (x.cal (calOfWord m.res.toNat)).freeOrOwn (msgUse m) b v.n = true)
    (ha : ∀ a, max m.berth x.berth ≤ a → a < b → (x.cal (calOfWord m.res.toNat)).freeOrOwn (msgUse m) a v.n = false) :
    x.slipOwner m =
      State.toRequester ((x.setCal (calOfWord m.res.toNat) ((x.cal (calOfWord m.res.toNat)).dropUse (msgUse m))).placeUse
        (calOfWord m.res.toNat) { v with first := b }) (ownerDie (calOfWord m.res.toNat)) .moved { m with berth := b } := by
  have he : earliest (fun b => (x.cal (calOfWord m.res.toNat)).freeOrOwn (msgUse m) b v.n) (x.horizon + 2 - v.n - max m.berth x.berth)
      (max m.berth x.berth) = some b := earliest_eq_some h1 (by omega) hb ha
  unfold State.slipOwner State.moveUse
  simp only [hf, hv, hs, he]
  rfl

/-- What such a move leaves at the owner. -/
theorem State.slipOwner_leaves {x : State} {m : BookMsg} {v : OwnUse} {b : Nat} (hi : v.id = msgUse m) (h1 : x.berth ≤ b) :
    let c := calOfWord m.res.toNat
    let u := State.toRequester ((x.setCal c ((x.cal c).dropUse (msgUse m))).placeUse c { v with first := b }) (ownerDie c) .moved
      { m with berth := b }
    x.Answered u .moved { m with berth := b } ∧ (u.cal c).use (msgUse m) = some { v with first := b }
      ∧ (∀ i, i < v.n → (u.cal c).row (b + i) = some { st := v.st, id := msgUse m }) ∧ u.mem = x.mem ∧ u.cores = x.cores := by
  intro c u
  let y := x.setCal c ((x.cal c).dropUse (msgUse m))
  have hc : u.cal c = y.placed c { v with first := b } :=
    (State.cal_of_dies (State.toRequester_dies ..) c).trans (State.cal_placeUse_self ..)
  refine ⟨?_, ?_, fun i hlt => ?_, State.toRequester_mem .., State.toRequester_cores ..⟩
  · show x.Answered (((x.setDie _ _).setDie _ _).toRequester _ _ _) _ _
    rw [State.toRequester_setDie, State.toRequester_setDie]
    exact ⟨rfl, rfl⟩
  · rw [hc, ← hi]; exact State.placed_use y c { v with first := b }
  · rw [hc, ← hi]
    exact State.placed_row (s := y) (u := { v with first := b }) (Nat.le_trans h1 (Nat.le_add_right ..)) (Nat.le_add_right ..)
      (Nat.add_lt_add_left hlt b)

end AtOwner

/-! ### What the owner leaves -/

/-- The rows of a HOLD of FREE rows are held until its expiry (R65). -/
theorem State.heldUse_placed {x : State} {m : BookMsg} (h1 : x.berth ≤ m.berth) (a : BookType) (m' : BookMsg) :
    let c := calOfWord m.res.toNat
    let u := (x.placeUse c (x.heldUse m)).toRequester (ownerDie c) a m'
    u.mem = x.mem ∧ u.cores = x.cores ∧ (u.cal c).use (msgUse m) = some (x.heldUse m)
      ∧ ∀ i, i < nbits m.res.toNat 16 0 → (u.cal c).row (m.berth + i) = some { st := .held, id := msgUse m } := by
  intro c u
  have hc : u.cal c = x.placed c (x.heldUse m) := (State.cal_of_dies (State.toRequester_dies ..) c).trans (State.cal_placeUse_self ..)
  refine ⟨State.toRequester_mem .., State.toRequester_cores .., ?_, fun i hi => ?_⟩
  · rw [hc]; exact x.placed_use c (x.heldUse m)
  · rw [hc]
    exact State.placed_row (u := x.heldUse m) (Nat.le_trans h1 (Nat.le_add_right ..)) (Nat.le_add_right ..) (Nat.add_lt_add_left hi _)

/-- The rows of a use that is committed are booked, but for those that have passed (R55, R66). -/
theorem State.booked_row {x : State} {c : Cal} {v : OwnUse} {id : UseId} (hi : v.id = id) {b : Nat} (h : x.berth ≤ b) (h1 : v.first ≤ b)
    (h2 : b < v.first + v.n) : ((x.placeUse c { v with st := .booked, exp := 0 }).cal c).row b = some { st := .booked, id := id } := by
  rw [State.cal_placeUse_self, ← hi]
  exact State.placed_row (u := { v with st := .booked, exp := 0 }) h h1 h2

/-- A release or a cancellation frees a use that has not started, and asks one that runs to stop (R65). -/
theorem State.ownerRelease_acts {x : State} {c : Cal} {id : UseId} {v : OwnUse} (hv : (x.cal c).use id = some v) :
    let u := x.ownerRelease c id
    (v.start = none → (x.cal c).Freed (u.cal c) id)
      ∧ (v.start.isSome = true → (x.die (ownerDie c)).failstop = false → (x.cal c).poisoned = false →
          (u.cal c).use v.id = some { v with stop := true } ∧ (u.cal c).rows = (x.cal c).rows)
      ∧ u.cores = x.cores ∧ u.mem = x.mem := by
  intro u
  refine ⟨fun hs => ?_, fun hs hf hp => ?_, ?_⟩
  · show (x.cal c).Freed ((x.ownerRelease c id).cal c) id
    rw [State.ownerRelease_unstarted hv hs, State.cal_setCal_self]
    exact Calendar.dropUse_freed ..
  · show ((x.ownerRelease c id).cal c).use v.id = _ ∧ ((x.ownerRelease c id).cal c).rows = _
    rw [State.ownerRelease_started hv hs hf hp, State.cal_setCal_self]
    exact ⟨(x.cal c).use_setUse_self { v with stop := true }, rfl⟩
  · show (x.ownerRelease c id).cores = _ ∧ (x.ownerRelease c id).mem = _
    obtain h | h | ⟨v, -, -, -, h⟩ := x.ownerRelease_cases c id <;> rw [h] <;> exact ⟨rfl, rfl⟩

theorem exec_unknownBookingMessage (s : State) (die : Nat) {ty : Byte} (h : ty = 0 ∨ 10 < ty.toNat) :
    exec (.unknownBookingMessage die ty) s = .next (s.setDie die { s.die die with drop := min 255 ((s.die die).drop + 1) }) := by
  show execUnknownBookingMessage die ty s = _
  unfold execUnknownBookingMessage
  rw [if_neg, satInc_eq_min]
  rintro ⟨h1, h2⟩
  rcases h with rfl | h
  · exact absurd h1 (by decide)
  · omega

/-! ### The statement -/

/-- Settles O34: each message is its equation for the case at hand; a placed use stands in its rows, and a refusal names the first
run that the search meets. -/
theorem ownersActOnMessages : Obligations.OwnersActOnMessages := by
  unfold Obligations.OwnersActOnMessages
  refine ⟨?messages, ?unknown⟩
  case' messages =>
    intro s x m c d n
    refine ⟨?hold, ?commit, ?release, ?slip⟩
  case hold =>
    refine fun h => ⟨fun hf => ⟨_, exec_hold_stopped h hf, ⟨rfl, rfl⟩, State.toRequester_dies ..⟩, fun hf => ⟨fun hr h1 h2 => ?_, fun hr => ?_⟩⟩
    · obtain ⟨-, -, hu, hrow⟩ := State.heldUse_placed h1 .held { m with exp := x.tb + (x.die d).holdTmo }
      exact ⟨_, exec_hold_free h hf hr h1 h2, x.answered_of_setCal _ _ .held { m with exp := x.tb + (x.die d).holdTmo }, hrow,
        x.heldUse m, hu, rfl, rfl, rfl⟩
    · exact ⟨_, exec_hold_refused h hf hr, x.nextRun m, ⟨rfl, rfl⟩, State.toRequester_dies .., x.nextRun_spec m⟩
  case commit =>
    refine fun h => ⟨fun hf => ⟨_, exec_commit_stopped h hf, rfl, rfl⟩, fun v hf hv hi g hg => ⟨fun hs hd => ?_, fun hd => ?_⟩⟩
    · have he := exec_commit h hf hv hg
      rw [if_pos ⟨hs, hd⟩] at he
      exact ⟨_, he, fun b hb h1 h2 => State.booked_row hi hb h1 h2⟩
    · have he := exec_commit h hf hv hg
      rw [if_neg fun hh => absurd hh.2 (Nat.not_le.2 hd)] at he
      exact ⟨_, he, rfl⟩
  case release =>
    exact fun v hv => ⟨fun h => ⟨_, exec_release h, State.ownerRelease_acts hv⟩, fun h => ⟨_, exec_cancel h, State.ownerRelease_acts hv⟩⟩
  case slip =>
    intro v b h hf hv hi hs h1 h2 hb ha
    obtain ⟨hans, huse, hrow, -⟩ := State.slipOwner_leaves hi (Nat.le_trans (Nat.le_max_right ..) h1)
    exact ⟨_, (exec_slip_owner h).trans (congrArg _ (State.slipOwner_moves hf hv hs h1 h2 hb ha)), hans, huse, hrow⟩
  case unknown => exact fun s die ty h => ⟨_, exec_unknownBookingMessage s die h, rfl⟩

end Sys2Proof.Machine
end
section
/-!
A write of another package whose answer gets lost (R361, R362, R414): the statement on requests of others ranges over states in
which a thing in flight bears a tag that has not been given out yet.
-/

namespace Sys2Proof.Machine

/-- The package after reset, with a route to package 9, and an invalidation in flight under tag 1, of the write that takes tag 0
next. Nothing bears a tag from `nextTag` on in a state that steps lead to; the statement does not ask for that. -/
def strayInval : State :=
  { State.reset with
    routes := [(9, { via := 9, port := 0, hops := 1 })]
    flights := [(1, some (.inval 0 0 0 Origin.outside))] }

/-- A write of one byte from package 9 that asks for an answer. -/
def remoteStore : Packet where
  opc := 1
  ackreq := true
  ord := false
  dpkg := 0
  spkg := 9
  score := 3
  tag := 77
  pa := 0
  arg := 0
  rsv := false
  data := [7]

/-- The state after that write: its answer, which waits for the invalidation, has taken tag 1 from it. -/
def strayOwed : State :=
  { strayInval with
    mem := [(0, 7)]
    rcvd := [(9 * 512 + 3, 1)]
    flights := [(1, some (.owed 0 (answerTo 0 6 remoteStore 0 [])))]
    nextTag := 2 }

theorem exec_wr_strayInval : exec (.wr remoteStore) strayInval = .next strayOwed := rfl

/-- Refutes O43: the answer to a write waits under a fresh tag for the invalidations of the write; where an invalidation already bears
that tag the answer replaces it, so that no invalidation is left and no answer has left. -/
theorem not_requestsOfOthersComplete : ¬ Obligations.RequestsOfOthersComplete := by
  unfold Obligations.RequestsOfOthersComplete
  rintro ⟨-, -, h⟩
  obtain ⟨hwr, -⟩ := h strayInval remoteStore (by decide) (by decide)
  obtain ⟨t, ht, -, hack⟩ := (hwr rfl).2 ⟨by decide, by decide⟩ (by decide)
  obtain rfl : strayOwed = t := by rw [exec_wr_strayInval] at ht; simpa using ht
  obtain ⟨q, hq, -⟩ := (hack rfl).1 (by decide) fun ⟨q, hq, l, d, o, he⟩ => by
    obtain rfl : q = (1, some (.owed 0 (answerTo 0 6 remoteStore 0 []))) := by simpa [strayOwed] using hq
    simp at he
  simp [strayOwed, strayInval, State.reset] at hq

end Sys2Proof.Machine
end
section
/-!
Bookings of a core (R76 to R81): the entry of an identifier after an entry is replaced, the result word, and what ending a booking
changes at its owners.
-/

namespace Sys2Proof.Machine

/-! ### Entries of the table (R78) -/

theorem Core.booking_id {c : Core} {id : Nat} {b : Booking} (h : c.booking id = some b) : b.id = id := by
  simpa using List.find?_some h

theorem Core.mem_of_booking {c : Core} {id : Nat} {b : Booking} (h : c.booking id = some b) : b ∈ c.books :=
  List.mem_reverse.1 (List.mem_of_find?_eq_some h)

/-- An entry replaced is the one that its identifier names, where the entry that it replaces was. -/
theorem Core.booking_setBooking {c : Core} {id : Nat} {a b : Booking} (h : c.booking id = some a) (hi : b.id = a.id)
    (ho : b.order = a.order) : (c.setBooking b).booking id = some b := by
  have hfind : (c.books.map fun x => if (x.id = b.id && x.order = b.order) = true then b else x).reverse.find? (fun x => x.id = id)
      = (c.books.reverse.find? fun x => x.id = id).map fun x => if (x.id = b.id && x.order = b.order) = true then b else x := by
    rw [← List.map_reverse, List.find?_map]
    refine congrArg _ (congrFun (congrArg List.find? (funext fun x => ?_)) _)
    dsimp only [Function.comp]
    split
    · next hx => rw [Bool.and_eq_true, decide_eq_true_eq] at hx; rw [hx.1]
    · rfl
  unfold Core.booking Core.setBooking at *
  refine hfind.trans ?_
  rw [h]
  simp [hi, ho]

@[simp] theorem State.core_setBooking_self (s : State) (k : Nat) (b : Booking) : (s.setBooking k b).core k = (s.core k).setBooking b :=
  State.core_setCore_self ..

theorem State.core_setBooking_of_ne (s : State) {k j : Nat} (b : Booking) (h : k ≠ j) : (s.setBooking k b).core j = s.core j :=
  State.core_setCore_of_ne _ _ h

@[simp] theorem State.setBooking_ctx (s : State) (k : Nat) (b : Booking) (j : Nat) (fw : Bool) : (s.setBooking k b).ctx j fw = s.ctx j fw := by
  unfold State.ctx
  by_cases h : k = j
  · subst h; rw [State.core_setBooking_self]; rfl
  · rw [State.core_setBooking_of_ne _ _ h]

/-! ### Delivering a result word (R81) -/

@[simp] theorem Core.booking_setCtx (c : Core) (fw : Bool) (x : Ctx) (id : Nat) : (c.setCtx fw x).booking id = c.booking id := by
  unfold Core.booking; rw [Core.setCtx_books]

/-- A booking that is delivered is in its table, with nothing more to deliver. -/
theorem State.deliverBooking_booking {s : State} {k id : Nat} {a b : Booking} (h : (s.core k).booking id = some a) (hi : b.id = a.id)
    (ho : b.order = a.order) : ((s.deliverBooking k b).core k).booking id = some { b with dest := none } := by
  unfold State.deliverBooking
  split
  · next hd =>
    rw [State.core_setBooking_self, Core.booking_setBooking h hi ho, ← hd]
  · unfold State.deliver State.setCtx
    rw [State.core_setCore_self, Core.booking_setCtx, State.core_setBooking_self]
    exact Core.booking_setBooking (b := { b with dest := none }) h hi ho

/-- The register that waits for a booking takes its result word. -/
theorem State.deliverBooking_ctx {s : State} {k : Nat} {b : Booking} {fw : Bool} {r : Reg} (hd : b.dest = some (fw, r)) :
    (s.deliverBooking k b).ctx k fw = (s.ctx k fw).deliver r b.word none := by
  unfold State.deliverBooking
  simp only [hd]
  rw [State.deliver_ctx, State.setBooking_ctx]

theorem State.deliverBooking_silent {s : State} {k : Nat} {b : Booking} (hd : b.dest = none) :
    s.deliverBooking k b = s.setBooking k b := by
  unfold State.deliverBooking
  simp only [hd]

/-- Delivering a booking changes one core. -/
theorem State.deliverBooking_only (s : State) (k : Nat) (b : Booking) :
    ∃ cs, s.deliverBooking k b = { s with cores := cs } ∧ ∀ j, j ≠ k → (s.deliverBooking k b).core j = s.core j := by
  unfold State.deliverBooking
  split
  · exact ⟨_, rfl, fun j hj => State.core_setBooking_of_ne _ _ (Ne.symm hj)⟩
  · exact ⟨_, rfl, fun j hj => (State.core_setCore_of_ne _ _ (Ne.symm hj)).trans (State.core_setBooking_of_ne _ _ (Ne.symm hj))⟩

/-! ### Releasing the uses of a booking (R65, R76) -/

/-- A state differs from another at most in the calendars, in booking messages and their tags, and in packets. -/
def State.OnlyReleased (s t : State) : Prop :=
  ∃ ds ms bt o sd n, t = { s with dies := ds, msgs := ms, bookTags := bt, out := o, selfDue := sd, nextTag := n }

theorem State.OnlyReleased.refl (s : State) : s.OnlyReleased s := ⟨_, _, _, _, _, _, rfl⟩

theorem State.OnlyReleased.trans {s t u : State} (h : s.OnlyReleased t) (g : t.OnlyReleased u) : s.OnlyReleased u := by
  obtain ⟨_, _, _, _, _, _, rfl⟩ := h
  obtain ⟨_, _, _, _, _, _, rfl⟩ := g
  exact ⟨_, _, _, _, _, _, rfl⟩

theorem State.OnlyReleased.cores {s t : State} (h : s.OnlyReleased t) : t.cores = s.cores := by
  obtain ⟨_, _, _, _, _, _, rfl⟩ := h; rfl

theorem State.OnlyReleased.core {s t : State} (h : s.OnlyReleased t) (k : Nat) : t.core k = s.core k := State.core_of_cores h.cores k

theorem State.OnlyReleased.ctx {s t : State} (h : s.OnlyReleased t) (k : Nat) (fw : Bool) : t.ctx k fw = s.ctx k fw :=
  congrArg (fun c => Core.ctx c fw) (h.core k)

theorem State.OnlyReleased.mem {s t : State} (h : s.OnlyReleased t) : t.mem = s.mem := by
  obtain ⟨_, _, _, _, _, _, rfl⟩ := h; rfl

theorem State.OnlyReleased.tb {s t : State} (h : s.OnlyReleased t) : t.tb = s.tb := by
  obtain ⟨_, _, _, _, _, _, rfl⟩ := h; rfl

theorem State.send_only (s : State) (p : Packet) : ∃ o sd, s.send p = { s with out := o, selfDue := sd } := by
  unfold State.send
  split
  · split
    · exact ⟨_, _, rfl⟩
    · exact ⟨_, _, rfl⟩
  · exact ⟨_, _, rfl⟩

theorem State.send_released (s : State) (p : Packet) : s.OnlyReleased (s.send p) := by
  obtain ⟨o, sd, h⟩ := s.send_only p
  rw [h]; exact ⟨_, _, _, _, _, _, rfl⟩

theorem State.ownerRelease_released (s : State) (c : Cal) (id : UseId) : s.OnlyReleased (s.ownerRelease c id) := by
  obtain h | h | ⟨v, -, -, -, h⟩ := s.ownerRelease_cases c id <;> rw [h] <;> exact ⟨_, _, _, _, _, _, rfl⟩

/-- A message to an owner changes neither cores nor calendars. -/
theorem State.toOwner_released (s : State) (die core : Nat) (hm : Bool) (xid j : Nat) (u : BUse) (t : BookType) (berth : Nat) :
    s.OnlyReleased (s.toOwner die core hm xid j u t berth) ∧ (s.toOwner die core hm xid j u t berth).dies = s.dies := by
  unfold State.toOwner
  dsimp only
  split
  · exact ⟨⟨_, _, _, _, _, _, rfl⟩, rfl⟩
  · split
    · exact ⟨.refl s, rfl⟩
    · exact ⟨.trans ⟨_, _, _, _, _, _, rfl⟩ (State.send_released ..), State.send_dies ..⟩

/-- What every release at an owner keeps, and nothing but the dies decide, is kept while uses are released. -/
structure KeptByReleases (P : State → Prop) : Prop where
  release : ∀ (s : State) (c : Cal) (id : UseId), P s → P (s.ownerRelease c id)
  dies : ∀ {s t : State}, t.dies = s.dies → P s → P t

theorem State.releaseUse_released (s : State) (k : Nat) (b : Booking) (j : Nat) (u : BUse) (t : BookType) :
    s.OnlyReleased (s.releaseUse k b j u t) ∧ ∀ P, KeptByReleases P → P s → P (s.releaseUse k b j u t) := by
  have howner := s.toOwner_released (dieOf k) k false b.id j u t u.first
  unfold State.releaseUse
  split
  · exact ⟨.refl s, fun _ _ h => h⟩
  · split
    · exact ⟨State.ownerRelease_released .., fun P hP => hP.release s _ _⟩
    · split
      · exact ⟨howner.1, fun P hP => hP.dies howner.2⟩
      · exact ⟨howner.1, fun P hP => hP.dies howner.2⟩
      · exact ⟨howner.1, fun P hP => hP.dies howner.2⟩
      · exact ⟨.refl s, fun _ _ h => h⟩

theorem State.releaseUses_released (s : State) (k : Nat) (b : Booking) (t : BookType) (j : Nat) (us : List BUse) :
    s.OnlyReleased (s.releaseUses k b t j us) ∧ ∀ P, KeptByReleases P → P s → P (s.releaseUses k b t j us) := by
  induction us generalizing s j with
  | nil => exact ⟨.refl s, fun _ _ h => h⟩
  | cons u us ih =>
    obtain ⟨h1, k1⟩ := s.releaseUse_released k b j u t
    obtain ⟨h2, k2⟩ := ih (s.releaseUse k b j u t) (j + 1)
    exact ⟨h1.trans h2, fun P hP h => k2 P hP (k1 P hP h)⟩

/-! ### Ending a booking (R76, R79) -/

@[simp] theorem Booking.ends_id (b : Booking) (st : BookStatus) (sub : Nat) : (b.ends st sub).id = b.id := by
  unfold Booking.ends; split <;> rfl

@[simp] theorem Booking.ends_order (b : Booking) (st : BookStatus) (sub : Nat) : (b.ends st sub).order = b.order := by
  unfold Booking.ends; split <;> rfl

@[simp] theorem Booking.ends_dest (b : Booking) (st : BookStatus) (sub : Nat) : (b.ends st sub).dest = b.dest := by
  unfold Booking.ends; split <;> rfl

/-- A booking that a resumed run books again is FATAL, subcode 2, where it would be refused or FATAL (R76). -/
theorem Booking.ends_failed (b : Booking) {st : BookStatus} (sub : Nat) (h : st = .refused ∨ st = .fatal) :
    (b.ends st sub).status = (if b.rebook then .fatal else st) ∧ (b.ends st sub).sub = (if b.rebook then 2 else sub) := by
  unfold Booking.ends
  cases hr : b.rebook with
  | true => rw [if_pos (by rcases h with rfl | rfl <;> rfl)]; exact ⟨rfl, rfl⟩
  | false => rw [if_neg (by simp)]; exact ⟨rfl, rfl⟩

theorem Booking.ends_cancelled (b : Booking) (sub : Nat) : b.ends .cancelled sub = { b with status := .cancelled, sub := sub } :=
  if_neg (by simp)

/-- A booking that ends is in its table with its status, and with nothing more to deliver. -/
theorem State.endBooking_booking {s : State} {k id : Nat} {a b : Booking} (h : (s.core k).booking id = some a) (hi : b.id = a.id)
    (ho : b.order = a.order) (st : BookStatus) (sub : Nat) :
    ((s.endBooking k b st sub).core k).booking id = some { b.ends st sub with dest := none } := by
  unfold State.endBooking
  refine State.deliverBooking_booking (a := a) ?_ (by simpa using hi) (by simpa using ho)
  rw [(State.releaseUses_released ..).1.core]
  exact h

theorem State.endBooking_ctx {s : State} {k : Nat} {b : Booking} {fw : Bool} {r : Reg} (hd : b.dest = some (fw, r)) (st : BookStatus)
    (sub : Nat) : (s.endBooking k b st sub).ctx k fw = (s.ctx k fw).deliver r (b.ends st sub).word none := by
  unfold State.endBooking
  rw [State.deliverBooking_ctx (by rw [Booking.ends_dest]; exact hd), (State.releaseUses_released ..).1.ctx]

theorem State.endBooking_silent_ctx {s : State} {k : Nat} {b : Booking} (hd : b.dest = none) (st : BookStatus) (sub : Nat) (fw : Bool) :
    (s.endBooking k b st sub).ctx k fw = s.ctx k fw := by
  unfold State.endBooking
  rw [State.deliverBooking_silent (by rw [Booking.ends_dest]; exact hd), State.setBooking_ctx, (State.releaseUses_released ..).1.ctx]

/-- A state differs from another at most in bookings, calendars, messages and packets, and in rounds of the harbourmaster. -/
def State.OnlyBooked (s t : State) : Prop :=
  ∃ cs hr ds ms bt o sd n, t = { s with cores := cs, hmRounds := hr, dies := ds, msgs := ms, bookTags := bt, out := o, selfDue := sd, nextTag := n }

theorem State.OnlyBooked.refl (s : State) : s.OnlyBooked s := ⟨_, _, _, _, _, _, _, _, rfl⟩

theorem State.OnlyBooked.trans {s t u : State} (h : s.OnlyBooked t) (g : t.OnlyBooked u) : s.OnlyBooked u := by
  obtain ⟨_, _, _, _, _, _, _, _, rfl⟩ := h
  obtain ⟨_, _, _, _, _, _, _, _, rfl⟩ := g
  exact ⟨_, _, _, _, _, _, _, _, rfl⟩

theorem State.OnlyReleased.booked {s t : State} (h : s.OnlyReleased t) : s.OnlyBooked t := by
  obtain ⟨_, _, _, _, _, _, rfl⟩ := h; exact ⟨_, _, _, _, _, _, _, _, rfl⟩

theorem State.deliverBooking_booked (s : State) (k : Nat) (b : Booking) : s.OnlyBooked (s.deliverBooking k b) := by
  obtain ⟨cs, h, -⟩ := s.deliverBooking_only k b
  rw [h]; exact ⟨_, _, _, _, _, _, _, _, rfl⟩

theorem State.deliverBooking_dies (s : State) (k : Nat) (b : Booking) : (s.deliverBooking k b).dies = s.dies := by
  obtain ⟨cs, h, -⟩ := s.deliverBooking_only k b
  rw [h]

theorem State.endBooking_booked (s : State) (k : Nat) (b : Booking) (st : BookStatus) (sub : Nat) :
    s.OnlyBooked (s.endBooking k b st sub) ∧ ∀ P, KeptByReleases P → P s → P (s.endBooking k b st sub) := by
  obtain ⟨h, hk⟩ := s.releaseUses_released k b (if b.status = .held then .release else .cancel) 0 b.uses
  exact ⟨h.booked.trans (State.deliverBooking_booked ..), fun P hP hs => hP.dies (State.deliverBooking_dies ..) (hk P hP hs)⟩

end Sys2Proof.Machine
end
section
/-!
How the uses of a calendar start, end, yield and stop as time passes (R55, R57, R66, R69 to R72, R76).
-/

namespace Sys2Proof.Machine

/-! ### Moves that nothing depends on (R75) -/

/-- Where no use of a booking has a use as its predecessor, a move of that use moves no other. -/
theorem State.moveDeps_none {s : State} {k id i : Nat}
    (h : ∀ b, (s.core k).booking id = some b → ∀ v ∈ b.uses, nbit v.pred i = false) (fuel : Nat) : s.moveDeps k id fuel i = s := by
  cases fuel with
  | zero => rfl
  | succ fuel =>
    rw [State.moveDeps]
    refine List.foldlRecOn (motive := fun t : State => t = s) _ _ rfl fun t ht j _ => ?_
    subst ht
    split
    · rfl
    · next b hb =>
      split
      · rfl
      · next u hu =>
        dsimp only
        rw [if_pos (by simp [h b hb u (List.mem_of_getElem? hu)])]

/-- The extent of a use changes no predecessors. -/
theorem Booking.mem_setUse_pred {b : Booking} {j first n : Nat} {v : BUse} (h : v ∈ (b.setUse j first n).uses) :
    ∃ u ∈ b.uses, v.pred = u.pred := by
  obtain ⟨i, hi, rfl⟩ := List.mem_mapIdx.1 h
  refine ⟨b.uses[i], List.getElem_mem hi, ?_⟩
  split <;> rfl

/-- A requester that learns of a new extent, which moves no other use, notes it in the booking. -/
theorem State.slipped_noDeps {s : State} {k id i first n : Nat} {b : Booking} (hb : (s.core k).booking id = some b)
    (hl : b.status = .committed ∨ b.status = .slipped) (h : ∀ v ∈ b.uses, nbit v.pred i = false) :
    s.slipped k id i first n = s.setBooking k { b.setUse i first n with status := .slipped } := by
  unfold State.slipped
  simp only [hb]
  rw [if_pos (by simpa using hl)]
  refine State.moveDeps_none (fun y hy v hv => ?_) 16
  obtain rfl : { b.setUse i first n with status := .slipped } = y := by
    rw [State.core_setBooking_self, Core.booking_setBooking (b := { b.setUse i first n with status := .slipped }) hb rfl rfl] at hy
    exact Option.some.inj hy
  obtain ⟨u, hu, hp⟩ := Booking.mem_setUse_pred hv
  rw [hp]; exact h u hu

/-- Such a report changes no calendar and no memory. -/
theorem State.slipped_keeps {s : State} {k id i first n : Nat}
    (h : ∀ b, (s.core k).booking id = some b → ∀ v ∈ b.uses, nbit v.pred i = false) :
    (s.slipped k id i first n).dies = s.dies ∧ (s.slipped k id i first n).mem = s.mem := by
  cases hb : (s.core k).booking id with
  | none => unfold State.slipped; rw [hb]; exact ⟨rfl, rfl⟩
  | some b =>
    by_cases hl : b.status = .committed ∨ b.status = .slipped
    · rw [State.slipped_noDeps hb hl (h b hb)]; exact ⟨rfl, rfl⟩
    · unfold State.slipped
      simp only [hb]
      rw [if_neg (by simpa using hl)]
      exact ⟨rfl, rfl⟩

theorem State.reportSlip_keeps {s : State} {c : Cal} {u : OwnUse} (h : s.NoDependants u.id) (hm : u.id.hm = false) :
    (s.reportSlip c u).dies = s.dies ∧ (s.reportSlip c u).mem = s.mem := by
  unfold State.reportSlip
  split
  · next hc =>
    simp only [Bool.and_eq_true, decide_eq_true_eq] at hc
    exact State.slipped_keeps (h hc.1.1 hm)
  · exact ⟨State.toRequester_dies .., State.toRequester_mem ..⟩

/-- A use that completes changes no calendar. -/
theorem State.sendDone_dies (s : State) (c : Cal) (id : UseId) (link : Bool) : (s.sendDone c id link).dies = s.dies := by
  unfold State.sendDone
  split
  · unfold State.useDone
    split <;> rfl
  · exact State.toRequester_dies ..

/-! ### Holds that expire, and uses that start (R66, R69) -/

section Uses

variable {s : State} {c : Cal} {v : OwnUse}

theorem exec_holdExpiry (h : (s.cal c).uses.find? (fun u => u.st = .held && u.exp ≠ 0 && decide (u.exp < s.tb) &&
      !s.msgs.any fun f => f.type_ = .commit && f.die = ownerDie c && decide (msgUse f.msg = u.id) && decide (f.due ≤ u.exp)) = some v) :
    exec (.holdExpiry c) s = .next (s.setCal c ((s.cal c).dropUse v.id)) := by
  show execHoldExpiry c s = _
  unfold execHoldExpiry
  simp only [h]

/-- A use that may start now: booked, begun by its berth, free of its predecessors, and with its command at the head (R69, R71). -/
def State.mayStart (s : State) (c : Cal) (u : OwnUse) : Bool :=
  u.st = .booked && u.start.isNone && decide (u.first ≤ s.berth) && !s.predsRun c u.id &&
    (match s.carrier c u with | some t => s.carrierReady c t | none => true)

theorem State.mayStart_eq_true (hs : v.start = none) (hb : v.st = .booked) (hf : v.first ≤ s.berth) (hp : s.predsRun c v.id = false)
    (hc : ∀ t, s.carrier c v = some t → s.carrierReady c t = true) : s.mayStart c v = true := by
  unfold State.mayStart
  rw [hs, hb, hp]
  cases ht : s.carrier c v with
  | none => simp [hf]
  | some t => simp [hf, hc t ht]

theorem exec_useStart (hf : (s.die (ownerDie c)).failstop = false) (hp : (s.cal c).poisoned = false)
    (hu : ∀ u ∈ (s.cal c).uses, u.start = none ∨ calEng c = none) (hw : s.walkBusy c = false) (hm : v ∈ (s.cal c).uses)
    (ho : ∀ u ∈ (s.cal c).uses, u ≠ v → u.st ≠ .booked ∨ s.berth < u.first ∨ u.start.isSome = true) (hv : s.mayStart c v = true) :
    exec (.useStart c) s = .next (s.startUse c v (v.carried || (s.carrier c v).isSome)) := by
  have hfind : (s.cal c).uses.find? (s.mayStart c) = some v := by
    have hsome : ((s.cal c).uses.find? (s.mayStart c)).isSome = true := List.find?_isSome.2 ⟨v, hm, hv⟩
    obtain ⟨u, hu'⟩ := Option.isSome_iff_exists.1 hsome
    have hready := List.find?_some hu'
    rw [hu']
    by_contra hne
    have hne : u ≠ v := fun e => hne (e ▸ rfl)
    unfold State.mayStart at hready
    simp only [Bool.and_eq_true, decide_eq_true_eq] at hready
    rcases ho u (List.mem_of_find?_eq_some hu') hne with h | h | h
    · exact h hready.1.1.1.1
    · omega
    · rw [Option.isNone_iff_eq_none.1 hready.1.1.1.2] at h; exact absurd h (by simp)
  have hany : (s.cal c).uses.any (fun u => u.start.isSome && (calEng c).isSome) = false := by
    refine List.any_eq_false.2 fun u hm => ?_
    rcases hu u hm with h | h <;> simp [h]
  show execUseStart c s = _
  unfold execUseStart
  rw [if_neg (by rw [hf, hp, hw, hany]; simp)]
  split
  · next h => exact absurd (hfind.symm.trans h) (by simp)
  · next u h => obtain rfl : v = u := Option.some.inj (hfind.symm.trans h); rfl

/-- What the start of a use leaves of its calendar (R69). -/
theorem State.startUse_leaves (carried : Bool) :
    let y := (s.startUse c v carried).cal c
    y.use v.id = some { v with start := some s.tb, carried := carried } ∧ (∀ i, i ≠ v.id → y.use i = (s.cal c).use i)
      ∧ ∀ r, (s.cal c).row s.berth = some r → r.id = v.id → y.row s.berth = some { r with st := .running } := by
  have huses : ((s.startUse c v carried).cal c).uses = ((s.cal c).setUse { v with start := some s.tb, carried := carried }).uses := by
    unfold State.startUse
    rw [State.cal_setCal_self]
    split
    · split <;> rfl
    · rfl
  have huse (i : UseId) : ((s.startUse c v carried).cal c).use i
      = ((s.cal c).setUse { v with start := some s.tb, carried := carried }).use i := congrArg (List.find? _) huses
  refine ⟨(huse _).trans (Calendar.use_setUse_self _ { v with start := some s.tb, carried := carried }),
    fun i hi => (huse i).trans (Calendar.use_setUse_of_ne _ hi), fun r hr hi => ?_⟩
  unfold State.startUse
  rw [State.cal_setCal_self]
  have hrow : ((s.cal c).setUse { v with start := some s.tb, carried := carried }).row s.berth = some r := hr
  simp only [hrow, if_pos hi]
  rw [Calendar.row_setRow, if_pos rfl, ← hi]

/-! ### The end of a berth (R55, R71, R72) -/

theorem exec_berthEnd_empty (hu : (s.cal c).uses = []) (hb : (s.cal c).berth < s.berth) :
    exec (.berthEnd c) s = .next (s.setCal c { s.cal c with rows := [], berth := s.berth }) := by
  show execBerthEnd c s = _
  unfold execBerthEnd
  dsimp only
  rw [if_neg (by omega), if_pos (by simp [hu])]

/-- A berth in which no use ends. -/
theorem exec_berthEnd_within (hb : (s.cal c).berth < s.berth) (hn : ∀ u ∈ (s.cal c).uses, u.first + u.n ≠ (s.cal c).berth + 1)
    (hu : (s.cal c).uses ≠ []) :
    exec (.berthEnd c) s = .next (s.setCal c { (s.cal c).turn (s.cal c).berth with berth := (s.cal c).berth + 1 }) := by
  have hnone : (s.cal c).uses.find? (fun u => u.first + u.n = (s.cal c).berth + 1) = none :=
    List.find?_eq_none.2 fun u hm => by simpa using hn u hm
  show execBerthEnd c s = _
  unfold execBerthEnd
  dsimp only
  rw [if_neg (by omega), if_neg (by simp [hu]), hnone]

/-- The last berth of a standing use: it completes (R71). -/
theorem exec_berthEnd_completes (hb : (s.cal c).berth < s.berth)
    (hv : (s.cal c).uses.find? (fun u => u.first + u.n = (s.cal c).berth + 1) = some v) (hs : v.stop = false) (hst : v.st = .booked)
    (hca : v.carried = false) (hcr : s.carrier c v = none) (hfc : s.forcedChain c v = false) (hfp : s.forcedPass c v = false) :
    let t := (s.setCal c ((s.cal c).dropUse v.id)).sendDone c v.id v.link
    exec (.berthEnd c) s = .next (t.setCal c { (t.cal c).turn (s.cal c).berth with berth := (s.cal c).berth + 1 }) := by
  intro t
  have hne : (s.cal c).uses ≠ [] := fun e => by rw [e] at hv; exact absurd hv (by simp)
  have hends : s.useEnds c v = t := by
    unfold State.useEnds
    rw [if_neg (by simp [hs]), if_neg (by simp [hst]), if_pos (by simp [hca, hcr, hfc, hfp])]
  show execBerthEnd c s = _
  unfold execBerthEnd
  dsimp only
  rw [if_neg (by omega), if_neg (by simp [hne]), hv]
  dsimp only
  rw [hends]

end Uses

/-! ### The rows after the end of a berth (R55, R56) -/

/-- A berth is one of a use's, or the use is not known any more. -/
def Calendar.covers (x : Calendar) (i : UseId) (b : Nat) : Bool :=
  match x.use i with
  | some u => decide (u.first ≤ b) && decide (b < u.first + u.n)
  | none => true

/-- The row of a berth that has passed turns FREE. -/
def Calendar.pastFreed (x : Calendar) (b : Nat) : Calendar :=
  match x.row b with
  | some r => if x.covers r.id b then x.setRow b none else x
  | none => x

/-- The row of the berth that follows turns RUNNING for a use that runs. -/
def Calendar.nextRuns (x y : Calendar) (b : Nat) : Calendar :=
  match y.row (b + 1) with
  | some r =>
    if x.covers r.id (b + 1) && (match x.use r.id with | some u => u.start.isSome | none => false) then
      y.setRow (b + 1) (some { r with st := .running })
    else y
  | none => y

theorem Calendar.turn_eq (x : Calendar) (b : Nat) : x.turn b = x.nextRuns (x.pastFreed b) b := rfl

theorem Calendar.pastFreed_cases (x : Calendar) (b : Nat) : x.pastFreed b = x ∨ x.pastFreed b = x.setRow b none := by
  unfold Calendar.pastFreed
  split
  · split
    · exact .inr rfl
    · exact .inl rfl
  · exact .inl rfl

theorem Calendar.nextRuns_cases (x y : Calendar) (b : Nat) :
    x.nextRuns y b = y ∨ ∃ r, y.row (b + 1) = some r ∧ x.nextRuns y b = y.setRow (b + 1) (some { r with st := .running }) := by
  unfold Calendar.nextRuns
  split
  · next r hr => exact (ite_eq_or_eq _ _ _).symm.imp id fun h => ⟨r, hr, h⟩
  · exact .inl rfl

@[simp] theorem Calendar.turn_uses (x : Calendar) (b : Nat) : (x.turn b).uses = x.uses := by
  have hp : (x.pastFreed b).uses = x.uses := by obtain h | h := x.pastFreed_cases b <;> rw [h]; rfl
  rw [Calendar.turn_eq]
  obtain h | ⟨r, -, h⟩ := x.nextRuns_cases (x.pastFreed b) b <;> rw [h] <;> exact hp

/-- A row that is taken after the end of a berth was taken by the same use. -/
theorem Calendar.row_turn_id {x : Calendar} {b a : Nat} {r : Row} (h : (x.turn b).row a = some r) : ∃ q, x.row a = some q ∧ q.id = r.id := by
  have hp {q : Row} (h : (x.pastFreed b).row a = some q) : x.row a = some q := by
    obtain e | e := x.pastFreed_cases b
    · rwa [e] at h
    · rw [e, Calendar.row_setRow] at h
      split at h
      · exact absurd h (by simp)
      · exact h
  rw [Calendar.turn_eq] at h
  obtain e | ⟨q, hq, e⟩ := x.nextRuns_cases (x.pastFreed b) b
  · rw [e] at h; exact ⟨r, hp h, rfl⟩
  · rw [e, Calendar.row_setRow] at h
    split at h
    · next hc =>
      have ha : (x.pastFreed b).row a = (x.pastFreed b).row (b + 1) := by unfold Calendar.row; rw [hc]
      obtain rfl := Option.some.inj h
      exact ⟨q, hp (ha.trans hq), rfl⟩
    · exact ⟨r, hp h, rfl⟩

/-- The row of the berth that has passed is FREE, where it was one of its use's (R55). -/
theorem Calendar.row_turn_passed {x : Calendar} {b : Nat} {r : Row} {v : OwnUse} (hr : x.row b = some r) (hv : x.use r.id = some v)
    (h1 : v.first ≤ b) (h2 : b < v.first + v.n) : (x.turn b).row b = none := by
  have hp : (x.pastFreed b).row b = none := by
    unfold Calendar.pastFreed Calendar.covers
    simp only [hr, hv]
    rw [if_pos (by simp [h1, h2]), Calendar.row_setRow, if_pos rfl]
  rw [Calendar.turn_eq]
  obtain e | ⟨q, hq, e⟩ := x.nextRuns_cases (x.pastFreed b) b
  · rw [e]; exact hp
  · rw [e, Calendar.row_setRow, if_neg (by unfold calRow; omega)]; exact hp

/-! ### Uses that yield, and uses that stop (R72, R76) -/

section Uses

variable {s : State} {c : Cal} {v : OwnUse}

theorem exec_runningUseStop (h : (s.cal c).uses.find? (fun u => u.start.isSome && u.stop) = some v) (hb : s.atBoundary c v = true) :
    exec (.runningUseStop c) s = .next ((s.stopCarrier c v).setCal c (((s.stopCarrier c v).cal c).dropUse v.id)) := by
  show execRunningUseStop c s = _
  unfold execRunningUseStop
  simp only [h]
  rw [if_neg (by simp [hb])]

/-- The command that ends with its use changes no calendar. -/
theorem State.stopCarrier_keeps (s : State) (c : Cal) (v : OwnUse) : (s.stopCarrier c v).dies = s.dies ∧ (s.stopCarrier c v).mem = s.mem := by
  unfold State.stopCarrier
  split
  · split <;> exact ⟨rfl, rfl⟩
  · exact ⟨rfl, rfl⟩

theorem exec_overrunYield (hf : (s.die (ownerDie c)).failstop = false) (hp : (s.cal c).poisoned = false)
    (h : (s.cal c).uses.find? (fun u => u.start.isSome && (u.carried || s.forcedChain c u) && !u.stop && decide (u.first + u.n ≤ s.berth))
      = some v) (hb : s.atBoundary c v = true) :
    exec (.overrunYield c) s = .next (s.continueUse c v) := by
  show execOverrunYield c s = _
  unfold execOverrunYield
  simp only [h]
  rw [if_neg (by simp [hf, hp, hb])]

/-- The time that an overrunning use still needs (R72). -/
def State.leftOf (s : State) (v : OwnUse) : Nat := max 1 (v.dur - match v.start with | some t => s.tb - t | none => 0)

/-- A use that yields goes on as a continuation, at the first run of FREE rows after the running berth (R72 rule 2). -/
theorem State.continueUse_leaves {b : Nat} (hn : s.NoDependants v.id) (h1 : s.berth < b)
    (h2 : b + (s.leftOf v + 255) / 256 ≤ s.horizon + 1) (hr : ((s.cal c).dropUse v.id).freeRun b ((s.leftOf v + 255) / 256) = true)
    (ha : ∀ a, s.berth < a → a < b → ((s.cal c).dropUse v.id).freeRun a ((s.leftOf v + 255) / 256) = false) :
    let w : OwnUse := { v with first := b, n := (s.leftOf v + 255) / 256, st := .booked, start := none, dur := s.leftOf v }
    let u := s.continueUse c v
    (u.cal c).use v.id = some w ∧ (∀ i, i < w.n → (u.cal c).row (b + i) = some { st := .booked, id := v.id }) ∧ u.mem = s.mem := by
  intro w u
  let y := s.setCal c ((s.cal c).dropUse v.id)
  have hw : b + w.n ≤ s.horizon + 1 := h2
  have hfree : y.freeFrom c (s.berth + 1) w.n = some b := by
    unfold State.freeFrom
    rw [State.cal_setCal_self]
    exact earliest_eq_some h1 (by show _ < s.berth + 1 + (s.horizon + 2 - w.n - (s.berth + 1)); omega) hr fun a h => ha a h
  have hu : u = if v.id.hm then y.placeUse c w
      else (y.placeUse c w).reportSlip c { w with first := v.first, n := b + w.n - v.first } := by
    show s.continueUse c v = _
    unfold State.continueUse
    dsimp only
    split
    · next b' hb' => obtain rfl : b = b' := Option.some.inj (hfree.symm.trans hb'); rfl
    · next hb' => exact absurd (hfree.symm.trans hb') (by simp)
  have hkeeps : u.dies = (y.placeUse c w).dies ∧ u.mem = (y.placeUse c w).mem := by
    rw [hu]
    split
    · exact ⟨rfl, rfl⟩
    · next hm => exact State.reportSlip_keeps (u := { w with first := v.first, n := b + w.n - v.first }) hn (by simpa using hm)
  have hcal : u.cal c = y.placed c w := (State.cal_of_dies hkeeps.1 c).trans (State.cal_placeUse_self ..)
  rw [hcal]
  exact ⟨y.placed_use c w, fun i hi => State.placed_row (s := y) (u := w)
    (Nat.le_trans (Nat.le_of_lt h1) (Nat.le_add_right ..)) (Nat.le_add_right ..) (Nat.add_lt_add_left hi b), hkeeps.2⟩

end Uses

end Sys2Proof.Machine
end
section
/-!
Errors of a booking unit and of a calendar (R87 to R89), and die reset: the bookings and rounds that they end change calendars only
as releases do.
-/

namespace Sys2Proof.Machine

/-! ### What the end of bookings and rounds keeps -/

/-- A state differs from another at most by bookings and rounds that ended, and keeps what every release keeps. -/
def State.OnlyEnded (s t : State) : Prop := s.OnlyBooked t ∧ ∀ P, KeptByReleases P → P s → P t

theorem State.OnlyEnded.refl (s : State) : s.OnlyEnded s := ⟨.refl s, fun _ _ h => h⟩

theorem State.OnlyEnded.trans {s t u : State} (h : s.OnlyEnded t) (g : t.OnlyEnded u) : s.OnlyEnded u :=
  ⟨h.1.trans g.1, fun P hP hs => g.2 P hP (h.2 P hP hs)⟩

theorem State.onlyEnded_foldl {α : Type} {f : State → α → State} (h : ∀ (s : State) a, s.OnlyEnded (f s a)) (l : List α) (s : State) :
    s.OnlyEnded (l.foldl f s) :=
  List.foldlRecOn (motive := fun t : State => s.OnlyEnded t) _ _ (.refl s) fun t ht a _ => ht.trans (h t a)

theorem State.onlyEnded_of_dies {s t : State} (h : s.OnlyBooked t) (hd : t.dies = s.dies) : s.OnlyEnded t := ⟨h, fun _ hP => hP.dies hd⟩

theorem State.OnlyEnded.mem {s t : State} (h : s.OnlyEnded t) : t.mem = s.mem := by
  obtain ⟨⟨_, _, _, _, _, _, _, _, rfl⟩, -⟩ := h; rfl

theorem State.OnlyEnded.notes {s t : State} (h : s.OnlyEnded t) : t.notes = s.notes := by
  obtain ⟨⟨_, _, _, _, _, _, _, _, rfl⟩, -⟩ := h; rfl

theorem State.fatalBookings_ended (s : State) (sub : Nat) (f : State → Nat → Booking → Bool) : s.OnlyEnded (s.fatalBookings sub f) :=
  State.onlyEnded_foldl (fun _ _ => State.onlyEnded_foldl (fun t b => t.endBooking_booked _ b .fatal sub) _ _) _ _

theorem State.send_ended (s : State) (p : Packet) : s.OnlyEnded (s.send p) :=
  State.onlyEnded_of_dies (s.send_released p).booked (State.send_dies ..)

theorem State.dropTide_released (s : State) (t : Tide) (ty : BookType) :
    s.OnlyReleased (s.dropTide t ty) ∧ ∀ P, KeptByReleases P → P s → P (s.dropTide t ty) := by
  unfold State.dropTide
  refine List.foldlRecOn (motive := fun u : State => s.OnlyReleased u ∧ ∀ P, KeptByReleases P → P s → P u) _ _ ⟨.refl s, fun _ _ h => h⟩
    fun y hy j _ => ?_
  obtain ⟨hrel, hkept⟩ := hy
  split
  · exact ⟨hrel, hkept⟩
  · next u _ =>
    obtain ⟨hown, hdies⟩ := y.toOwner_released 8 0 true t.xid j u ty u.first
    split
    · exact ⟨hrel.trans (State.ownerRelease_released ..), fun P hP h => hP.release y _ _ (hkept P hP h)⟩
    · split
      · exact ⟨hrel.trans hown, fun P hP h => hP.dies hdies (hkept P hP h)⟩
      · exact ⟨hrel.trans hown, fun P hP h => hP.dies hdies (hkept P hP h)⟩
      · exact ⟨hrel, hkept⟩

theorem State.dropTide_ended (s : State) (t : Tide) (ty : BookType) : s.OnlyEnded (s.dropTide t ty) := by
  obtain ⟨hrel, hkept⟩ := s.dropTide_released t ty
  exact ⟨hrel.booked, hkept⟩

theorem State.abandonRound_ended (s : State) (r : HmRound) (status : Nat) : s.OnlyEnded (s.abandonRound r status) := by
  have hdrop : s.OnlyEnded (r.tides.foldl (fun s t => s.dropTide t (if t.committed then .cancel else .release)) s) :=
    State.onlyEnded_foldl (fun s t => s.dropTide_ended t _) _ _
  refine hdrop.trans (.trans ?_ (State.onlyEnded_foldl (fun s m => s.send_ended _) _ _))
  exact State.onlyEnded_of_dies ⟨_, _, _, _, _, _, _, _, rfl⟩ rfl

theorem State.fatalTides_ended (s : State) (f : Tide → Bool) : s.OnlyEnded (s.fatalTides f) :=
  State.onlyEnded_foldl (fun s r => s.abandonRound_ended r 2) _ _

/-! ### What releases keep of a calendar -/

/-- A property of a calendar that freeing a use and asking one to stop keep is kept by releases. -/
theorem keptByReleases_cal (c : Cal) {Q : Calendar → Prop} (hd : ∀ x id, Q x → Q (x.dropUse id))
    (hs : ∀ x v, Q x → v.start.isSome = true → Q (x.setUse v)) : KeptByReleases fun s => Q (s.cal c) where
  release s c' id h := by
    have hset (y : Calendar) (hy : Q (s.cal c') → Q y) : Q ((s.setCal c' y).cal c) := by
      rw [State.cal_setCal]
      split
      · next e => exact hy (s.cal_congr e.1 e.2 ▸ h)
      · exact h
    obtain e | e | ⟨v, -, hv, -, e⟩ := s.ownerRelease_cases c' id <;> rw [e]
    · exact h
    · exact hset _ (hd _ id)
    · exact hset _ fun hq => hs _ { v with stop := true } hq hv
  dies e h := by rw [State.cal_of_dies e]; exact h

theorem State.ownerRelease_failstop (s : State) (c : Cal) (id : UseId) (d : Nat) :
    ((s.ownerRelease c id).die d).failstop = (s.die d).failstop := by
  obtain e | e | ⟨v, -, -, -, e⟩ := s.ownerRelease_cases c id <;> rw [e]
  · exact State.setCal_failstop ..
  · exact State.setCal_failstop ..

theorem keptByReleases_failstop (d : Nat) (b : Bool) : KeptByReleases fun s => (s.die d).failstop = b where
  release s c id h := (s.ownerRelease_failstop c id d).trans h
  dies e h := by rw [State.die_of_dies e]; exact h

/-- Every use of a calendar runs. -/
def Calendar.AllRun (x : Calendar) : Prop := ∀ w ∈ x.uses, w.start.isSome = true

theorem keptByReleases_allRun (c : Cal) : KeptByReleases fun s => (s.cal c).AllRun :=
  keptByReleases_cal c (fun _ _ h w hw => h w (List.mem_filter.1 hw).1) fun x v h hv w hw => by
    obtain rfl | hw := List.mem_cons.1 hw
    · exact hv
    · exact h w (List.mem_filter.1 hw).1

/-- A calendar is POISONED and has no rows. -/
def Calendar.Blank (x : Calendar) : Prop := x.poisoned = true ∧ x.rows = []

theorem keptByReleases_blank (c : Cal) : KeptByReleases fun s => (s.cal c).Blank :=
  keptByReleases_cal c (fun x id h => ⟨h.1, by show x.rows.filter _ = []; rw [h.2]; rfl⟩) fun _ _ h _ => h

/-! ### The errors (R87 to R89) -/

/-- The state in which a calendar is poisoned, before its bookings end. -/
def State.poisonedAt (s : State) (c : Cal) : State :=
  (s.setCal c { s.cal c with poisoned := true, rows := [], uses := (s.cal c).uses.filter fun u => u.start.isSome }).tell (.bkuEcc (ownerDie c))

theorem exec_calendarPoison (s : State) (c : Cal) : ∃ u, exec (.calendarPoison c) s = .next u ∧ (s.poisonedAt c).OnlyEnded u :=
  ⟨_, rfl, (State.fatalBookings_ended ..).trans (State.fatalTides_ended ..)⟩

theorem State.poisonedAt_cal (s : State) (c : Cal) : ((s.poisonedAt c).cal c).Blank ∧ ((s.poisonedAt c).cal c).AllRun := by
  have h : (s.poisonedAt c).cal c = { s.cal c with poisoned := true, rows := [], uses := (s.cal c).uses.filter fun u => u.start.isSome } :=
    s.cal_setCal_self ..
  rw [h]
  exact ⟨⟨rfl, rfl⟩, fun w hw => (List.mem_filter.1 hw).2⟩

/-- The state in which a booking unit has stopped, before its bookings end. -/
def State.stoppedAt (s : State) (die : Nat) : State :=
  (s.setDie die { s.die die with failstop := true, cals := (s.die die).cals.map fun p => (p.1, p.2.onlyRunning) }).tell (.bkuEcc die)

theorem exec_bkuFailstop (s : State) (die : Nat) : ∃ u, exec (.bkuFailstop die) s = .next u ∧ (s.stoppedAt die).OnlyEnded u :=
  ⟨_, rfl, (State.fatalBookings_ended ..).trans (State.fatalTides_ended ..)⟩

theorem State.stoppedAt_die (s : State) (die : Nat) : ((s.stoppedAt die).die die).failstop = true := by
  unfold State.stoppedAt State.tell
  exact congrArg Die.failstop (s.die_setDie_self ..)

theorem State.stoppedAt_cal (s : State) {die : Nat} {c : Cal} (hc : ownerDie c = die) : ((s.stoppedAt die).cal c).AllRun := by
  have hcals : ((s.stoppedAt die).die die).cals = (s.die die).cals.map fun p => (p.1, p.2.onlyRunning) :=
    congrArg Die.cals (s.die_setDie_self ..)
  unfold State.cal
  rw [hc, hcals, FMap.get_map_value Calendar.onlyRunning rfl]
  exact fun w hw => (List.mem_filter.1 hw).2

/-! ### Die reset (R89, R441) -/

/-- A calendar as die reset leaves it. -/
def Calendar.afresh (fresh : Bool) (x : Calendar) : Calendar := if fresh || x.poisoned then { Calendar.reset with berth := x.berth } else x

/-- The state after die reset, but for its cores. -/
def State.resetDie (s : State) (die : Nat) : State :=
  s.setDie die { s.die die with
    failstop := false
    cals := (s.die die).cals.map fun p => (p.1, p.2.afresh (s.die die).failstop) }

/-- The state after die reset. -/
def State.wokenDie (s : State) (die : Nat) : State :=
  (s.resetDie die).mapCores ((List.range 64).map (64 * die + ·)) fun c => { c with dead := false }

theorem exec_dieReset (s : State) (die : Nat) : exec (.dieReset die) s = .next (s.wokenDie die) := rfl

theorem State.wokenDie_dies (s : State) (die : Nat) : (s.wokenDie die).dies = (s.resetDie die).dies := by
  unfold State.wokenDie
  rw [State.mapCores_only]

theorem State.resetDie_cal (s : State) {die : Nat} {c : Cal} (hc : ownerDie c = die) :
    (s.resetDie die).cal c = (s.cal c).afresh (s.die die).failstop := by
  unfold State.resetDie State.cal
  rw [hc, State.die_setDie_self]
  refine FMap.get_map_value (Calendar.afresh (s.die die).failstop) ?_ _ _
  unfold Calendar.afresh
  split <;> rfl

/-- A core to which a function is applied once holds its result. -/
theorem State.core_mapCores_self (f : Core → Core) {ks : List Nat} (hn : ks.Nodup) (s : State) {k : Nat} (hk : k ∈ ks) :
    (s.mapCores ks f).core k = f (s.core k) := by
  induction ks generalizing s with
  | nil => cases hk
  | cons j ks ih =>
    obtain ⟨hj, hn⟩ := List.nodup_cons.1 hn
    show ((s.setCore j (f (s.core j))).mapCores ks f).core k = _
    obtain rfl | hk := List.mem_cons.1 hk
    · rw [State.core_mapCores_of_notMem f ks _ hj, State.core_setCore_self]
    · rw [ih hn _ hk, State.core_setCore_of_ne _ _ (by rintro rfl; exact hj hk)]

theorem Calendar.afresh_spec (fresh : Bool) (x : Calendar) :
    (x.afresh fresh).poisoned = false ∧ (fresh = true ∨ x.poisoned = true → (x.afresh fresh).rows = [] ∧ (x.afresh fresh).uses = [])
      ∧ (fresh = false → x.poisoned = false → x.afresh fresh = x) := by
  unfold Calendar.afresh
  cases fresh with
  | true => exact ⟨rfl, fun _ => ⟨rfl, rfl⟩, fun h => absurd h (by simp)⟩
  | false =>
    cases hp : x.poisoned with
    | true => exact ⟨rfl, fun _ => ⟨rfl, rfl⟩, fun _ h => absurd h (by simp)⟩
    | false => exact ⟨hp, fun h => absurd h (by simp), fun _ _ => rfl⟩

/-- What die reset leaves: a booking unit that works, calendars without errors, and cores that are not halted. -/
theorem State.wokenDie_leaves (s : State) (die : Nat) :
    ((s.wokenDie die).die die).failstop = false ∧ (s.wokenDie die).mem = s.mem
      ∧ (∀ c, ownerDie c = die → ((s.wokenDie die).cal c).poisoned = false ∧
          (((s.die die).failstop = true ∨ (s.cal c).poisoned = true) → ((s.wokenDie die).cal c).rows = [] ∧ ((s.wokenDie die).cal c).uses = [])
          ∧ ((s.die die).failstop = false → (s.cal c).poisoned = false → (s.wokenDie die).cal c = s.cal c))
      ∧ ∀ k, 64 * die ≤ k → k < 64 * die + 64 → (s.wokenDie die).core k = { s.core k with dead := false } := by
  refine ⟨?_, State.mapCores_mem .., fun c hc => ?_, fun k h1 h2 => ?_⟩
  · rw [State.die_of_dies (s.wokenDie_dies die)]
    unfold State.resetDie
    rw [State.die_setDie_self]
  · rw [State.cal_of_dies (s.wokenDie_dies die), s.resetDie_cal hc]
    exact Calendar.afresh_spec ..
  · unfold State.wokenDie
    rw [State.core_mapCores_self _ (List.nodup_range.map fun a b h => by simpa using h) _
      (List.mem_map.2 ⟨k - 64 * die, List.mem_range.2 (by omega), by omega⟩)]
    rfl

/-! ### The statement -/

/-- Settles O36: each step is its equation for the case at hand; the end of a berth takes no row from another use, and the bookings that
an error ends leave poisoned and stopped calendars as the error has left them. -/
theorem calendarsRun : Obligations.CalendarsRun := by
  unfold Obligations.CalendarsRun
  refine ⟨?uses, fun s die => ⟨?failstop, ⟨_, congrArg (fun n => Host.Outcome.next (s.setDie die { s.die die with corr := n })) (satInc_eq_min ..), rfl⟩, ?reset⟩⟩
  case' uses =>
    intro s c v x d comes
    refine ⟨?expiry, fun hf hp => ⟨?start, ?completes, ?within, ?yields⟩, ?stops, ?empty, ?poison⟩
  case expiry => exact fun h => ⟨_, exec_holdExpiry h, by rw [State.cal_setCal_self]; exact Calendar.dropUse_freed .., rfl, rfl⟩
  case start =>
    intro hu hw hm hs ho hb hfirst hpred hready
    obtain ⟨h1, h2, h3⟩ := State.startUse_leaves (s := s) (c := c) (v := v) (v.carried || (s.carrier c v).isSome)
    exact ⟨_, exec_useStart hf hp hu hw hm ho (State.mayStart_eq_true hs hb hfirst hpred hready), h1, h2, h3, rfl, rfl⟩
  case completes =>
    intro hb hv hs hst hca hcr hfc hfp
    have hcal : ((s.setCal c (x.dropUse v.id)).sendDone c v.id v.link).cal c = x.dropUse v.id :=
      (State.cal_of_dies (State.sendDone_dies ..) c).trans (State.cal_setCal_self ..)
    refine ⟨_, exec_berthEnd_completes hb hv hs hst hca hcr hfc hfp, ?_⟩
    beta_reduce
    rw [State.cal_setCal_self, hcal]
    refine ⟨?_, rfl, fun b r hr => ?_⟩
    · exact (congrArg (List.find? _) (Calendar.turn_uses ..)).trans (x.use_dropUse_self v.id)
    · obtain ⟨q, hq, hi⟩ := Calendar.row_turn_id hr
      exact hi ▸ Calendar.row_dropUse_ne hq
  case within =>
    intro hb hn hu
    refine ⟨_, exec_berthEnd_within hb hn hu, ?_⟩
    beta_reduce
    rw [State.cal_setCal_self]
    exact ⟨Calendar.turn_uses .., rfl, fun r hr hv h1 h2 => Calendar.row_turn_passed hr hv h1 h2⟩
  case yields =>
    intro h hb hn b dur n y h1 h2 hr ha
    exact ⟨_, exec_overrunYield hf hp h hb, State.continueUse_leaves hn h1 h2 hr ha⟩
  case stops =>
    intro h hb
    obtain ⟨hd, hm⟩ := s.stopCarrier_keeps c v
    refine ⟨_, exec_runningUseStop h hb, ?_, hm⟩
    rw [State.cal_setCal_self, State.cal_of_dies hd]
    exact Calendar.dropUse_freed ..
  case empty => exact fun hu hb => ⟨_, exec_berthEnd_empty hu hb, rfl⟩
  case poison =>
    obtain ⟨u, hex, hend⟩ := exec_calendarPoison s c
    obtain ⟨hblank, hrun⟩ := s.poisonedAt_cal c
    obtain ⟨hp, hr⟩ := hend.2 _ (keptByReleases_blank c) hblank
    refine ⟨u, hex, hp, fun b => ?_, hend.2 _ (keptByReleases_allRun c) hrun, hend.notes, hend.mem⟩
    unfold Calendar.row; rw [hr]; rfl
  case failstop =>
    obtain ⟨u, hex, hend⟩ := exec_bkuFailstop s die
    exact ⟨u, hex, hend.2 _ (keptByReleases_failstop die true) (s.stoppedAt_die die), hend.notes, hend.mem,
      fun c hc => hend.2 _ (keptByReleases_allRun c) (s.stoppedAt_cal hc)⟩
  case reset =>
    obtain ⟨hf, hm, hcal, hcore⟩ := s.wokenDie_leaves die
    exact ⟨_, exec_dieReset s die, hf, hm, hcal, hcore⟩

end Sys2Proof.Machine
end
section
/-!
NAKs by the request that they answer, and unknown operations (R67, R169, R212, R408, R409, R411, R416, R420).
-/

namespace Sys2Proof

/-- An entry that a map gives stands in it. -/
theorem FMap.mem_of_get {α : Type} {d v : α} {m : FMap α} {k : Nat} (h : FMap.get d m k = v) (hd : v ≠ d) : (k, v) ∈ m := by
  induction m with
  | nil => exact absurd h.symm hd
  | cons p m ih =>
    obtain ⟨i, w⟩ := p
    rw [FMap.get] at h
    split at h
    · next hi => subst hi h; exact List.mem_cons_self ..
    · exact List.mem_cons_of_mem _ (ih h)

/-- What was erased does not come back when more is taken out. -/
theorem FMap.get_filter_erase {α : Type} (d : α) (m : FMap α) (k : Nat) (f : Nat × α → Bool) : FMap.get d ((m.erase k).filter f) k = d := by
  induction m with
  | nil => rfl
  | cons p m ih =>
    obtain ⟨i, w⟩ := p
    rw [FMap.erase]
    by_cases hi : i = k
    · rw [if_pos hi]; exact ih
    · rw [if_neg hi, List.filter_cons]
      split
      · rw [FMap.get, if_neg hi]; exact ih
      · exact ih

namespace Machine

/-! ### The thing in flight that a packet answers -/

/-- The one thing in flight that bears the tag of an answer is the one that the answer is for. -/
theorem State.AnswerTo.tagged {s : State} {p : Packet} {t : Nat} {f : Flight} (h : s.AnswerTo p t f) {g : Flight → Bool} (hg : g f = true) :
    s.tagged p g = some (t, f) := by
  obtain ⟨hf, ht, hone⟩ := h
  have hmem : (t, some f) ∈ s.flights := FMap.mem_of_get hf (by simp)
  unfold State.tagged
  generalize s.flights = l at hmem hone
  induction l with
  | nil => cases hmem
  | cons q l ih =>
    rw [List.findSome?_cons]
    by_cases hq : q.1 % 65536 = p.tag
    · obtain rfl := hone q (List.mem_cons_self ..) hq
      simp [ht, hg]
    · have hnone : (match q.2 with | some x => if q.1 % 65536 = p.tag && g x then some (q.1, x) else none | none => none) = none := by
        split <;> simp [hq]
      have hmem : (t, some f) ∈ l := by
        obtain rfl | hm := List.mem_cons.1 hmem
        · exact absurd ht hq
        · exact hm
      split
      · next hx => exact absurd (hnone.symm.trans hx) (by simp)
      · exact ih hmem fun q' hq' => hone q' (List.mem_cons_of_mem _ hq')

theorem State.tagged_none {s : State} {p : Packet} (h : ∀ q ∈ s.flights, q.1 % 65536 ≠ p.tag) (g : Flight → Bool) : s.tagged p g = none := by
  refine List.findSome?_eq_none_iff.2 fun q hq => ?_
  split
  · simp [h q hq]
  · rfl

/-! ### A NAK is counted (R408, R409) -/

/-- The count of NAKs of a core is that of another state and one more, and its code the last. -/
def State.Naked (s u : State) (k code : Nat) : Prop :=
  (u.core k).nakCount = min 65535 ((s.core k).nakCount + 1) ∧ (u.core k).nakLast = code % 16

theorem State.core_countNak (s : State) (k code j : Nat) : (s.countNak k code).core j =
    if k = j then { s.core j with nakCount := satInc (s.core j).nakCount 65535, nakLast := code % 16 } else s.core j := by
  unfold State.countNak
  rw [State.core_setCore]
  split
  · next h => subst h; rfl
  · rfl

theorem State.countNak_naked (s : State) (k code : Nat) : s.Naked (s.countNak k code) k code := by
  unfold State.Naked
  rw [State.core_countNak, if_pos rfl]
  exact ⟨satInc_eq_min .., rfl⟩

/-- A state whose core shows the same count. -/
theorem State.Naked.of_core {s t u : State} {k code : Nat} (h : s.Naked t k code) (hc : (u.core k).nakCount = (t.core k).nakCount)
    (hl : (u.core k).nakLast = (t.core k).nakLast) : s.Naked u k code := ⟨hc.trans h.1, hl.trans h.2⟩

@[simp] theorem State.countNak_ctx (s : State) (k code j : Nat) (fw : Bool) : (s.countNak k code).ctx j fw = s.ctx j fw := by
  unfold State.ctx
  rw [State.core_countNak]
  split
  · rfl
  · rfl

@[simp] theorem State.countNak_booking (s : State) (k code j id : Nat) : ((s.countNak k code).core j).booking id = (s.core j).booking id := by
  rw [State.core_countNak]
  split
  · rfl
  · rfl

@[simp] theorem State.countNak_books (s : State) (k code j : Nat) : ((s.countNak k code).core j).books = (s.core j).books := by
  rw [State.core_countNak]
  split
  · rfl
  · rfl

@[simp] theorem State.countNak_command (s : State) (k code j : Nat) (e : Eng) (n : Nat) :
    (s.countNak k code).command j e n = s.command j e n := by
  unfold State.command
  rw [State.core_countNak]
  split
  · cases e <;> rfl
  · rfl

@[simp] theorem State.countNak_renqOf (s : State) (k code j tag : Nat) : (s.countNak k code).renqOf j tag = s.renqOf j tag := by
  unfold State.renqOf
  simp only [State.countNak_ctx]

theorem State.AnswerTo.countNak {s : State} {p : Packet} {t : Nat} {f : Flight} (h : s.AnswerTo p t f) (k code : Nat) :
    (s.countNak k code).AnswerTo p t f := h

/-- A change of a context does not change the count. -/
theorem State.Naked.setCtx {s t : State} {k code : Nat} (h : s.Naked t k code) (j : Nat) (fw : Bool) (c : Ctx) :
    s.Naked (t.setCtx j fw c) k code := by
  unfold State.setCtx
  refine h.of_core ?_ ?_ <;> rw [State.core_setCore] <;> split
  · next hj => subst hj; exact Core.setCtx_nakCount ..
  · rfl
  · next hj => subst hj; exact Core.setCtx_nakLast ..
  · rfl

/-- A delivery does not change the count. -/
theorem State.Naked.deliver {s t : State} {k code : Nat} (h : s.Naked t k code) (j : Nat) (fw : Bool) (r : Reg) (v : W64) (m : Option Mark) :
    s.Naked (t.deliver j fw r v m) k code := h.setCtx ..

theorem Core.leaveDemand_naks (c : Core) (fw : Bool) : (c.leaveDemand fw).nakCount = c.nakCount ∧ (c.leaveDemand fw).nakLast = c.nakLast := by
  have hd (d : Demand) : (c.dropForced d).nakCount = c.nakCount ∧ (c.dropForced d).nakLast = c.nakLast := by
    unfold Core.dropForced; split <;> exact ⟨rfl, rfl⟩
  unfold Core.leaveDemand
  split
  · exact ⟨rfl, rfl⟩
  · split
    · exact ⟨rfl, rfl⟩
    · dsimp only
      split <;> exact hd _

/-- A trap that finds its handler does not change the count. -/
theorem State.Naked.takeTrap {s t : State} {k code : Nat} (h : s.Naked t k code) {fw : Bool} {c : Trap} (hc : (t.ctx k fw).CanTrap fw) :
    s.Naked (t.takeTrap k fw c) k code := by
  unfold State.takeTrap
  rw [State.takeTrapAt_handled _ _ _ _ _ _ _ hc, if_neg (by simp)]
  obtain ⟨h1, h2⟩ := Core.leaveDemand_naks ((t.setCtx k fw
    (((t.ctx k fw).countStall t.tb).enter fw c false (t.ctx k fw).pc (t.ctx k fw).slot)).core k) fw
  refine h.of_core ?_ ?_ <;> rw [State.core_setCore_self]
  · rw [h1]; unfold State.setCtx; rw [State.core_setCore_self, Core.setCtx_nakCount]
  · rw [h2]; unfold State.setCtx; rw [State.core_setCore_self, Core.setCtx_nakLast]

/-! ### The step, by the request that the NAK answers -/

section Nak

variable {s x : State} {p : Packet} (h : s.Got 7 p x)

include h

/-- A NAK of a response is counted only. -/
theorem exec_nak_response (hof : nbits p.arg.toNat 15 8 ∈ [3, 5, 9, 0xB]) :
    exec (.nak p) s = .next (x.countNak p.score (p.arg.toNat % 256)) := by
  refine congrArg Host.Outcome.next ((State.receive_got h _).trans ?_)
  exact if_pos (List.contains_iff_mem.2 hof)

variable (hof : nbits p.arg.toNat 15 8 ∉ [3, 5, 9, 0xB])

include hof

theorem exec_nak_renq {fw : Bool} {d : Reg} {tv : W64} {va : VAddr} (hr : x.renqOf p.score p.tag = some (fw, d, tv, va)) :
    exec (.nak p) s = .next ((x.countNak p.score (p.arg.toNat % 256)).takeTrap p.score fw (renqTrap (p.arg.toNat % 256) tv va)) := by
  refine congrArg Host.Outcome.next ((State.receive_got h _).trans ?_)
  dsimp only
  rw [if_neg (by simpa using hof)]
  simp only [State.countNak_renqOf, hr]

variable (hr : x.renqOf p.score p.tag = none)

include hr

theorem exec_nak_fence {f : FenceSrc} (hf : x.fenceSrc.find? (fun f => f.tag % 65536 = p.tag && f.core = p.score) = some f) :
    exec (.nak p) s = .next ((x.countNak p.score (p.arg.toNat % 256)).failFence f (p.arg.toNat % 256)) := by
  refine congrArg Host.Outcome.next ((State.receive_got h _).trans ?_)
  dsimp only
  rw [if_neg (by simpa using hof)]
  have hf' : (x.countNak p.score (p.arg.toNat % 256)).fenceSrc.find? (fun f => f.tag % 65536 = p.tag && f.core = p.score) = some f := hf
  simp only [State.countNak_renqOf, hr, hf']

variable (hf : x.fenceSrc.find? (fun f => f.tag % 65536 = p.tag && f.core = p.score) = none)

include hf

theorem exec_nak_post {y : PostF} (hy : x.posts.find? (fun y => y.tag % 65536 = p.tag && y.core = p.score) = some y) :
    exec (.nak p) s = .next ((x.countNak p.score (p.arg.toNat % 256)).failPost y) := by
  refine congrArg Host.Outcome.next ((State.receive_got h _).trans ?_)
  dsimp only
  rw [if_neg (by simpa using hof)]
  have hf' : (x.countNak p.score (p.arg.toNat % 256)).fenceSrc.find? (fun f => f.tag % 65536 = p.tag && f.core = p.score) = none := hf
  have hy' : (x.countNak p.score (p.arg.toNat % 256)).posts.find? (fun y => y.tag % 65536 = p.tag && y.core = p.score) = some y := hy
  simp only [State.countNak_renqOf, hr, hf', hy']

variable (hy : x.posts.find? (fun y => y.tag % 65536 = p.tag && y.core = p.score) = none)

include hy

theorem exec_nak_flight {t : Nat} {f : Flight} (ha : x.AnswerTo p t f) (hk : f.asked p.score = true) :
    exec (.nak p) s = .next ((x.countNak p.score (p.arg.toNat % 256)).nakFlight t f (p.arg.toNat % 256)) := by
  refine congrArg Host.Outcome.next ((State.receive_got h _).trans ?_)
  dsimp only
  rw [if_neg (by simpa using hof)]
  have hf' : (x.countNak p.score (p.arg.toNat % 256)).fenceSrc.find? (fun f => f.tag % 65536 = p.tag && f.core = p.score) = none := hf
  have hy' : (x.countNak p.score (p.arg.toNat % 256)).posts.find? (fun y => y.tag % 65536 = p.tag && y.core = p.score) = none := hy
  simp only [State.countNak_renqOf, hr, hf', hy', (ha.countNak p.score (p.arg.toNat % 256)).tagged hk]

theorem exec_nak_booking (hq : ∀ q ∈ x.flights, q.1 % 65536 ≠ p.tag) (hc : x.copies = []) :
    exec (.nak p) s = .next ((x.countNak p.score (p.arg.toNat % 256)).nakBooking p.score p.tag) := by
  refine congrArg Host.Outcome.next ((State.receive_got h _).trans ?_)
  dsimp only
  rw [if_neg (by simpa using hof)]
  have hf' : (x.countNak p.score (p.arg.toNat % 256)).fenceSrc.find? (fun f => f.tag % 65536 = p.tag && f.core = p.score) = none := hf
  have hy' : (x.countNak p.score (p.arg.toNat % 256)).posts.find? (fun y => y.tag % 65536 = p.tag && y.core = p.score) = none := hy
  have hc' : (x.countNak p.score (p.arg.toNat % 256)).copies = [] := hc
  simp only [State.countNak_renqOf, hr, hf', hy', State.tagged_none (s := x.countNak p.score (p.arg.toNat % 256)) hq, hc']
  rfl

end Nak

/-! ### What each NAK leaves -/

theorem fenceWord_nak (code : Nat) : fenceWord 2 code 0 = BitVec.ofNat 64 (2 * 2 ^ 60 + code * 2 ^ 44) := by
  unfold fenceWord; rw [Nat.add_zero]

theorem roundWord_noHm (round : Nat) : roundWord 6 round 0 = BitVec.ofNat 64 (6 * 2 ^ 60 + round * 2 ^ 40) := by
  unfold roundWord; rw [Nat.zero_mod, Nat.add_zero]

/-- A NAK of a fence ends it, and its word takes the code (R416). -/
theorem State.failFence_spec {s : State} {f : FenceSrc} (hr : f.retire = false) (code : Nat) :
    (s.failFence f code).ctx f.core f.fw = (s.ctx f.core f.fw).deliver f.d (BitVec.ofNat 64 (2 * 2 ^ 60 + code * 2 ^ 44)) none
      ∧ (∀ g ∈ (s.failFence f code).fenceSrc, g.tag ≠ f.tag) ∧ ∀ {t : State} {k c : Nat}, t.Naked s k c → t.Naked (s.failFence f code) k c := by
  have he : s.failFence f code = (s.dropFence f).deliver f.core f.fw f.d (fenceWord 2 code 0) none := by
    unfold State.failFence; simp [hr]
  rw [he, ← fenceWord_nak]
  exact ⟨State.deliver_ctx .., fun g hg => State.mem_dropFence (s := s) hg, fun h => State.Naked.deliver (t := s.dropFence f) h ..⟩

/-- A posted manifest and its round are over for the core that posted it. -/
def State.dropPost (s : State) (y : PostF) : State :=
  { s with posts := s.posts.filter fun z => z.tag ≠ y.tag, myRounds := s.myRounds.filter fun r => r.tag ≠ y.tag }

/-- A NAK of a posted manifest ends it with NO_HM (R420). -/
theorem State.failPost_spec (s : State) (y : PostF) :
    (s.failPost y).ctx y.core y.fw = (s.ctx y.core y.fw).deliver y.d (BitVec.ofNat 64 (6 * 2 ^ 60 + y.round * 2 ^ 40)) none
      ∧ (∀ z ∈ (s.failPost y).posts, z.tag ≠ y.tag) ∧ (s.failPost y).myRounds = (s.myRounds.filter fun r => r.tag ≠ y.tag)
      ∧ ∀ {t : State} {k c : Nat}, t.Naked s k c → t.Naked (s.failPost y) k c := by
  have he : s.failPost y = (s.dropPost y).deliver y.core y.fw y.d (roundWord 6 y.round 0) none := rfl
  rw [he, ← roundWord_noHm]
  refine ⟨State.deliver_ctx .., fun z hz => ?_, rfl, fun h => State.Naked.deliver (t := s.dropPost y) h ..⟩
  have hz : z ∈ s.posts.filter fun z => z.tag ≠ y.tag := hz
  simpa using (List.mem_filter.1 hz).2

theorem State.swapReached_none {s : State} {t : Nat} (h : ∀ y ∈ s.swaps, y.tag ≠ t) : s.swapReached t = s := by
  have hf : s.swaps.find? (fun w => w.tag = t) = none := List.find?_eq_none.2 fun y hy => by simpa using h y hy
  unfold State.swapReached
  rw [hf]

/-- A command that a refusal is charged to bears it, unless it bears a fault already (R212). -/
theorem State.remoteFault_command {s : State} {k : Nat} {e : Eng} {n : Nat} {c : Entry} (h : s.command k e n = some c) (cause : Byte) (va : W64) :
    (s.remoteFault k e n cause va).command k e n = some { c with fault := some (c.fault.getD (cause, va)) }
      ∧ (s.remoteFault k e n cause va).flights = s.flights ∧ ∀ {t : State} {j code : Nat}, t.Naked s j code → t.Naked (s.remoteFault k e n cause va) j code := by
  obtain ⟨-, hc, rfl⟩ := Engine.command_spec h
  unfold State.remoteFault
  rw [h]
  refine ⟨?_, rfl, fun {t j code} ht => ?_⟩
  · exact State.command_setCommand (u := { c with fault := some (c.fault.getD (cause, va)) }) s k e c h
      ((Entry.isCommand_congr rfl rfl rfl).trans hc)
  · unfold State.setCommand
    refine ht.of_core ?_ ?_ <;> rw [State.core_setCore] <;> split
    · next hk => subst hk; exact Core.setEng_nakCount ..
    · rfl
    · next hk => subst hk; exact Core.setEng_nakLast ..
    · rfl

/-- What a NAK that is charged to a command leaves. -/
def State.NakCharged (s u : State) (k : Nat) (e : Eng) (n t : Nat) (c : Entry) (va : W64) : Prop :=
  u.flight t = none ∧ u.command k e n = some { c with fault := some (c.fault.getD (fNak, va)) }
    ∧ ∀ {x : State} {j code : Nat}, x.Naked s j code → x.Naked u j code

theorem State.nakCharged_of_erased {s : State} {k : Nat} {e : Eng} {n t : Nat} {c : Entry} (h : s.command k e n = some c) (va : W64)
    (f : Nat × Option Flight → Bool) :
    s.NakCharged ((({ s with flights := (s.flights.erase t).filter f } : State)).remoteFault k e n fNak va) k e n t c va := by
  obtain ⟨hcmd, hfl, hn⟩ := State.remoteFault_command (s := { s with flights := (s.flights.erase t).filter f }) h fNak va
  refine ⟨?_, hcmd, fun hx => hn hx⟩
  unfold State.flight
  rw [hfl]
  exact FMap.get_filter_erase ..

theorem State.nakCharged {s : State} {k : Nat} {e : Eng} {n t : Nat} {c : Entry} (h : s.command k e n = some c) (va : W64) :
    s.NakCharged ((s.endFlight t).remoteFault k e n fNak va) k e n t c va := by
  obtain ⟨hcmd, hfl, hn⟩ := State.remoteFault_command (s := s.endFlight t) h fNak va
  refine ⟨?_, hcmd, fun hx => hn hx⟩
  unfold State.flight
  rw [hfl]
  exact State.flight_endFlight_self s t

/-- A posted write of an engine that is answered NAK (R408). -/
theorem State.nakFlight_lane {s : State} {w : RemWrite} {e : Eng} {n t code : Nat} {c : Entry} (hs : ∀ y ∈ s.swaps, y.tag ≠ t)
    (hrec : w.record = none) (ha : w.agent = .lane e) (he : w.eng = some (e, n)) (h : s.command w.core e n = some c) :
    s.NakCharged (s.nakFlight t (.remoteWrite w) code) w.core e n t c (va64 w.va) := by
  unfold State.nakFlight State.writeAnswered
  simp only [State.swapReached_none (s := s.endFlight t) hs, hrec, ha, he]
  split
  · exact State.nakCharged_of_erased h _ _
  · exact State.nakCharged h _

theorem Ctx.wallow_setWallow (c : Ctx) (i : Nat) (x : Wallow) : (c.setWallow i x).wallow i = x := by
  unfold Ctx.setWallow Ctx.wallow
  match i with
  | 0 => rfl
  | 1 => rfl
  | _ + 2 => rfl

/-- A scalar posted write that is answered NAK lowers OUT of its window (R233). -/
theorem State.nakFlight_scalar {s : State} {w : RemWrite} {fw : Bool} {i t code : Nat} (hs : ∀ y ∈ s.swaps, y.tag ≠ t)
    (hrec : w.record = none) (ha : w.agent = .scalar fw) (hw : w.win = some i) :
    s.nakFlight t (.remoteWrite w) code = (s.endFlight t).setCtx w.core fw ((s.ctx w.core fw).dropOut i false) := by
  unfold State.nakFlight State.writeAnswered
  simp only [State.swapReached_none (s := s.endFlight t) hs, hrec, ha, hw]
  rfl

/-! ### A NAK of a booking message (R67) -/

/-- Where no held request of a die is due, none begins a round. -/
theorem State.localRounds_idle {s : State} {d : Nat}
    (h : ∀ i, i < 64 → ∀ z ∈ (s.core (64 * d + i)).books, z.status = .held → s.tb < z.next) : s.localRounds d = s := by
  have hround (i : Nat) (hi : i < 64) (id : Nat) : s.requestRound (64 * d + i) id = s := by
    unfold State.requestRound
    split
    · rfl
    · next b hb =>
      refine if_pos ?_
      by_cases hst : b.status = .held
      · simp [h i hi b (Core.mem_of_booking hb) hst]
      · simp [hst]
  have hcore (l : List Booking) (i : Nat) (hi : i < 64) : l.foldl (fun s b => s.requestRound (64 * d + i) b.id) s = s := by
    induction l with
    | nil => rfl
    | cons b l ih => rw [List.foldl_cons, hround i hi]; exact ih
  have hdie (l : List Nat) (hl : ∀ i ∈ l, i < 64) : l.foldl (fun s i =>
      ((s.core (64 * d + i)).books.filter fun b => b.status = .held).foldl (fun s b => s.requestRound (64 * d + i) b.id) s) s = s := by
    induction l with
    | nil => rfl
    | cons i l ih => rw [List.foldl_cons, hcore _ i (hl i (by simp))]; exact ih fun j hj => hl j (by simp [hj])
  exact hdie _ fun i hi => by simpa using hi

/-- No tag stands for the message of a use any more (R67). -/
def State.untagged (s : State) (id : UseId) : State := { s with bookTags := s.bookTags.filter fun p => p.2 ≠ id }

/-- A NAK ends the booking that its message was for (R67). -/
theorem State.nakBooking_ends {s : State} {k tag : Nat} {id : UseId} {b : Booking}
    (hidle : ∀ i, i < 64 → ∀ z ∈ (s.core (64 * dieOf k + i)).books, z.status = .held → s.tb < z.next)
    (hid : s.bookTags.find? (fun y => y.1 = tag && y.2.core = k) = some (tag, id)) (hm : id.hm = false)
    (hb : (s.core k).booking id.xid = some b) (hst : b.status = .committed ∨ b.status = .slipped) :
    s.nakBooking k tag = (s.untagged id).endBooking k b .fatal 4 := by
  unfold State.untagged
  have hl : ({ s with bookTags := s.bookTags.filter fun p => p.2 ≠ id } : State).localRounds (dieOf k)
      = { s with bookTags := s.bookTags.filter fun p => p.2 ≠ id } :=
    State.localRounds_idle (s := { s with bookTags := s.bookTags.filter fun p => p.2 ≠ id }) hidle
  have hb' : (({ s with bookTags := s.bookTags.filter fun p => p.2 ≠ id } : State).core k).booking id.xid = some b := hb
  unfold State.nakBooking
  simp only [hid, hm, Bool.false_eq_true, if_false, hl, hb']
  rcases hst with hst | hst <;> rw [hst]

/-! ### Unknown operations (R408) -/

/-- A packet of an unknown operation is counted and answered. -/
theorem exec_unknownOpc {s : State} {port : Nat} {p : Packet} (h : knownOpc p.opc = false) :
    exec (.unknownOpc port p) s = .next ((s.setPort port
      { s.port port with badopc := min 65535 ((s.port port).badopc + 1) }).send (nakOf s.pkg p.spkg 1 p)) := by
  show execUnknownOpc port p s = _
  unfold execUnknownOpc
  rw [if_neg (by simp [h]), ← satInc_eq_min]

/-! ### The statement -/

/-- Settles O45: a NAK is counted first, and what it answers decides which equation of its step holds. -/
theorem naksActByTheirRequest : Obligations.NaksActByTheirRequest := by
  unfold Obligations.NaksActByTheirRequest
  refine ⟨?nak, ?unknown⟩
  case nak =>
    intro s x p h k code counted of
    have hcount : x.Naked (x.countNak k code) k code := x.countNak_naked k code
    refine ⟨fun hof => ⟨_, exec_nak_response h hof, hcount, rfl, rfl, rfl⟩, fun hof => ⟨fun fw d tv va hr hc => ?renq,
      fun hr => ⟨fun f hf hret => ?fence, fun hf => ⟨fun y hy => ?post, fun hy => ⟨fun t l ha hk hpl => ?load, fun t r ha hk => ?read,
        fun t w fw i ha hk hsw hrec hag hw => ?scalar, fun t e n va c hreq hcmd => ?charged,
        fun b id hq hcp hidle hid hhm hb hst => ?booking⟩⟩⟩⟩⟩
    case renq =>
      have hc : ((x.countNak k code).ctx k fw).CanTrap fw := by rw [State.countNak_ctx]; exact hc
      refine ⟨_, exec_nak_renq h hof hr, ?_, hcount.takeTrap hc⟩
      have he2 : (va.setWidth 64 : W64) = va.extractLsb' 0 64 := by apply BitVec.eq_of_toNat_eq; simp
      have ht := (x.countNak k code).takeTrap_trapped k fw (renqTrap code tv va) hc
      rw [State.countNak_ctx] at ht
      rw [← he2]
      exact ht
    case fence =>
      obtain ⟨-, hcore⟩ : f.tag % 65536 = p.tag ∧ f.core = k := by simpa using List.find?_some hf
      obtain ⟨hctx, hdrop, hn⟩ := State.failFence_spec (s := x.countNak k code) hret code
      rw [hcore, State.countNak_ctx] at hctx
      refine ⟨_, exec_nak_fence h hof hr hf, ?_, ?_, hdrop, hn hcount⟩
      · rw [hctx]; exact Ctx.deliver_holds ..
      · rw [hctx]; exact Ctx.deliver_keepsS _ _ _ _
    case post =>
      obtain ⟨-, hcore⟩ : y.tag % 65536 = p.tag ∧ y.core = k := by simpa using List.find?_some hy
      obtain ⟨hctx, hdrop, hmy, hn⟩ := (x.countNak k code).failPost_spec y
      rw [hcore, State.countNak_ctx] at hctx
      refine ⟨_, exec_nak_post h hof hr hf hy, ?_, hdrop, hmy, hn hcount⟩
      rw [hctx]; exact Ctx.deliver_holds ..
    case load =>
      refine ⟨_, exec_nak_flight h hof hr hf hy ha ?_, State.flight_setFlight_self .., hcount⟩
      rcases hpl with ⟨q, pa, hpl⟩ | ⟨q, c, o, hpl⟩ <;> simp [Flight.asked, hk, hpl, k]
    case read =>
      exact ⟨_, exec_nak_flight h hof hr hf hy ha (by simp [Flight.asked, hk, k]), State.flight_setFlight_self .., hcount⟩
    case scalar =>
      refine ⟨_, exec_nak_flight h hof hr hf hy ha (by simp [Flight.asked, hk, k]), ?_⟩
      rw [State.nakFlight_scalar (s := x.countNak k code) hsw hrec hag hw, hk, State.countNak_ctx]
      refine ⟨State.flight_endFlight_self (x.countNak k code) t, ?_, State.Naked.setCtx hcount ..⟩
      rw [State.ctx_setCtx_self]
      exact Ctx.wallow_setWallow ..
    case charged =>
      have hcmd : (x.countNak k code).command k e n = some c := by rw [State.countNak_command]; exact hcmd
      have hva (va : VAddr) : va64 va = va.extractLsb' 0 64 := by apply BitVec.eq_of_toNat_eq; simp [va64]
      have hends {f : Flight} (ha : x.AnswerTo p t f) (hk : f.asked k = true)
          (hch : (x.countNak k code).NakCharged ((x.countNak k code).nakFlight t f code) k e n t c va) : s.Ends (.nak p) fun u =>
          u.flight t = none ∧ u.command k e n = some { c with fault := some (c.fault.getD (fNak, va)) } ∧ counted u := by
        obtain ⟨hfl, hc, hn⟩ := hch
        exact ⟨_, exec_nak_flight h hof hr hf hy ha hk, hfl, hc, hn hcount⟩
      rcases hreq with ⟨w, ha, hk, hag, he, hrec, hsw, rfl⟩ | ⟨a, ha, hk, rfl, rfl, rfl⟩ | ⟨f, ha, hk, rfl, rfl, rfl⟩
      · refine hends ha (by simp [Flight.asked, hk]) ?_
        rw [← hk] at hcmd ⊢
        rw [← hva]
        exact State.nakFlight_lane hsw hrec hag he hcmd
      · refine hends ha (by simp [Flight.asked, hk]) ?_
        rw [← hk] at hcmd ⊢
        rw [← hva]
        exact State.nakCharged hcmd _
      · refine hends ha (by simp [Flight.asked, hk]) ?_
        rw [← hk] at hcmd ⊢
        rw [← hva]
        exact State.nakCharged hcmd _
    case booking =>
      refine ⟨_, exec_nak_booking h hof hr hf hy hq hcp, ?_⟩
      have hb : ((x.countNak k code).core k).booking id.xid = some b := by rw [State.countNak_booking]; exact hb
      rw [State.nakBooking_ends (s := x.countNak k code)
        (fun i hi z hz => hidle i hi z (by rw [State.countNak_books] at hz; exact hz)) hid hhm hb hst]
      rw [← Core.booking_id hb] at hb
      refine ⟨_, State.endBooking_booking (s := (x.countNak k code).untagged id) hb rfl rfl .fatal 4, ?_, ?_, rfl⟩
      · exact (b.ends_failed 4 (.inr rfl)).1.trans (ite_self _)
      · exact (b.ends_failed 4 (.inr rfl)).2
  case unknown =>
    intro s port p h
    refine ⟨_, exec_unknownOpc h, ?_, fun hh => ?_, State.send_cores .., State.send_mem ..⟩
    · show State.port _ port = _
      unfold State.port
      rw [State.send_ports]
      exact State.port_setPort_self ..
    · exact ⟨_, State.send_reachable _ _ hh, rfl, rfl, rfl, rfl, rfl, rfl, rfl⟩

end Machine
end Sys2Proof
end
section
/-!
How a request goes on (R61, R67, R68, R75, R77, R79): the search of the own calendars, messages to owners where every use is the unit's
own, the judgement of a round, and what a requester learns.
-/

namespace Sys2Proof.Machine

/-! ### The search changes calendars only (R61) -/

/-- A state differs from another at most in its dies. -/
def State.OnlyDies (s t : State) : Prop := ∃ ds, t = { s with dies := ds }

theorem State.OnlyDies.refl (s : State) : s.OnlyDies s := ⟨_, rfl⟩

theorem State.OnlyDies.trans {s t u : State} (h : s.OnlyDies t) (g : t.OnlyDies u) : s.OnlyDies u := by
  obtain ⟨_, rfl⟩ := h
  obtain ⟨_, rfl⟩ := g
  exact ⟨_, rfl⟩

theorem State.OnlyDies.cores {s t : State} (h : s.OnlyDies t) : t.cores = s.cores := by obtain ⟨_, rfl⟩ := h; rfl

theorem State.OnlyDies.core {s t : State} (h : s.OnlyDies t) (k : Nat) : t.core k = s.core k := State.core_of_cores h.cores k

theorem State.OnlyDies.tb {s t : State} (h : s.OnlyDies t) : t.tb = s.tb := by obtain ⟨_, rfl⟩ := h; rfl

theorem State.OnlyDies.ownedBy {s t : State} (h : s.OnlyDies t) (d : Nat) (u : BUse) : t.ownedBy d u = s.ownedBy d u := by
  obtain ⟨_, rfl⟩ := h; rfl

theorem State.markOwn_onlyDies (s : State) (id : UseId) (u : BUse) (st : RowState) : s.OnlyDies (s.markOwn id u st) := ⟨_, rfl⟩

theorem State.search_onlyDies {s t : State} {die : Nat} {id : Nat → UseId} {all : List BUse} {at_ : Nat} {done us vs : List BUse}
    (h : s.search die id all at_ done us = .ok t vs) : s.OnlyDies t := by
  induction us generalizing s done with
  | nil =>
    rw [State.search] at h
    injection h with h _
    exact h ▸ .refl s
  | cons u us ih =>
    rw [State.search] at h
    split at h
    · exact ih h
    · dsimp only at h
      split at h
      · exact absurd h (by simp)
      · split at h
        · exact absurd h (by simp)
        · refine .trans ?_ (ih h)
          split
          · exact State.markOwn_onlyDies ..
          · exact .refl s

theorem State.bookOwn_onlyDies (s : State) (die : Nat) (id : Nat → UseId) (us : List BUse) : s.OnlyDies (s.bookOwn die id us) := by
  unfold State.bookOwn
  refine List.foldlRecOn (motive := fun t : State => s.OnlyDies t) _ _ (.refl s) fun t ht j _ => ?_
  split
  · split
    · exact ht.trans (State.markOwn_onlyDies ..)
    · exact ht
  · exact ht

/-! ### Uses that the unit owns itself (R61, R67) -/

/-- No message leaves where the unit owns every use. -/
theorem State.tellOwners_owned {s : State} {die : Nat} {us : List BUse} (h : ∀ u ∈ us, s.ownedBy die u = true) (core : Nat) (hm : Bool)
    (xid : Nat) (t : BookType) (at_ : Nat) : s.tellOwners die core hm xid us t at_ = s := by
  have hfold (l : List Nat) : l.foldl (fun s j =>
      match us[j]? with
      | some u => if s.ownedBy die u || u.fin then s else s.toOwner die core hm xid j u t u.first
      | none => s) { s with tb := at_ } = { s with tb := at_ } := by
    induction l with
    | nil => rfl
    | cons j l ih =>
      rw [List.foldl_cons]
      split
      · next u hu =>
        have hown : State.ownedBy { s with tb := at_ } die u = true := h u (List.mem_of_getElem? hu)
        rw [hown, Bool.true_or, if_pos rfl]
        exact ih
      · exact ih
  refine (congrArg (fun y : State => if at_ ≤ s.tb then { y with tb := s.tb } else
    { y with tb := s.tb, out := y.out.take s.out.length,
             outDue := y.outDue ++ (y.out.drop s.out.length).map fun p => (p, at_) }) (hfold _)).trans ?_
  dsimp only
  split
  · rfl
  · rw [List.take_length, List.drop_length, List.map_nil, List.append_nil]

/-- A route is there for a use of the own package. -/
theorem State.noRoutes_owned {s : State} {die : Nat} {us : List BUse} (h : ∀ u ∈ us, s.ownedBy die u = true) : s.noRoutes us = us := by
  unfold State.noRoutes
  refine (List.map_congr_left fun u hu => ?_).trans (List.map_id _)
  obtain ⟨hh, -⟩ : s.useHere u = true ∧ _ := by simpa [State.ownedBy] using h u hu
  rw [if_neg (by simp [hh])]; rfl

/-! ### A request of a core (R61, R67, R68) -/

section Request

variable {s : State} {k : Nat} {b : Booking} (hk : k ≠ 512) (hb : (s.core k).booking b.id = some b) (hst : b.status = .held)
  (hn : b.next ≤ s.tb) (hf : (s.die (dieOf k)).failstop = false)

include hk hb hst hn hf

/-- A round begins in which every use is the unit's own. -/
theorem exec_searchRound_begins {t : State} {us : List BUse} (hm : b.mayBegin s.tb = true) (ht : s.bkuTakes k b = true)
    (hs : s.search (dieOf k) (s.useId k b) b.uses s.tb [] b.uses = .ok t us)
    (hu : ∀ u ∈ us, u.ans = .own ∧ s.ownedBy (dieOf k) u = true) :
    exec (.searchRound k b.id) s
      = .next (t.setBooking k { b with uses := us, round := some s.tb, next := s.tb + 12 * s.ncal us + 16 }) := by
  have hown (u : BUse) (h : u ∈ us) : s.ownedBy (dieOf k) u = true := (hu u h).2
  have hround : b.round = none := by
    unfold Booking.mayBegin at hm
    simp only [Bool.and_eq_true] at hm
    exact Option.isNone_iff_eq_none.1 hm.1.1.2
  have hall : (us.all fun u => u.ans = .own) = true := List.all_eq_true.2 fun u h => by simpa using (hu u h).1
  have htell : t.tellOwners (dieOf k) k false b.id us .hold (s.tb + 12 * s.ncal us) = t :=
    State.tellOwners_owned (fun u h => ((State.search_onlyDies hs).ownedBy _ u).trans (hown u h)) ..
  show Host.Outcome.next (if k = 512 then s.tideRound b.id else s.requestRound k b.id) = _
  rw [if_neg hk]
  unfold State.requestRound
  simp only [hb]
  rw [if_neg (by simp [hst, hn]), if_neg (by simp [hf])]
  simp only [hround, hm, ht, Bool.and_self, if_true]
  unfold State.beginRound
  simp only [hs, State.noRoutes_owned hown, htell, hall, if_true]

/-- A request commits whose uses are all the unit's own. -/
theorem exec_searchRound_commits (hr : b.round.isSome = true) (hz : b.next ≠ 0) (hre : b.rebook = false)
    (hu : ∀ u ∈ b.uses, u.ans = .own ∧ s.ownedBy (dieOf k) u = true) :
    exec (.searchRound k b.id) s = .next ((s.bookOwn (dieOf k) (s.useId k b) b.uses).deliverBooking k { b with
      uses := b.uses.map fun v => if v.first + v.n ≤ s.berth then { v with fin := true } else v
      status := .committed, berth := (b.uses.head?.map BUse.first).getD 0 }) := by
  obtain ⟨r, hr⟩ := Option.isSome_iff_exists.1 hr
  have hown (u : BUse) (h : u ∈ b.uses) : s.ownedBy (dieOf k) u = true := (hu u h).2
  have huses : (b.uses.map fun u => if s.passedUse (dieOf k) u then { u with fin := true } else u)
      = b.uses.map fun v => if v.first + v.n ≤ s.berth then { v with fin := true } else v :=
    List.map_congr_left fun u h => by simp [State.passedUse, hown u h]
  have hout (u : BUse) (h : u ∈ b.uses.map fun v => if v.first + v.n ≤ s.berth then { v with fin := true } else v) :
      u.ans = .own ∧ s.ownedBy (dieOf k) u = true := by
    obtain ⟨v, hv, rfl⟩ := List.mem_map.1 h
    split
    · exact hu v hv
    · exact hu v hv
  have htell : (s.bookOwn (dieOf k) (s.useId k b) b.uses).tellOwners (dieOf k) k false b.id b.uses .commit s.tb
      = s.bookOwn (dieOf k) (s.useId k b) b.uses :=
    State.tellOwners_owned (fun u h => ((State.bookOwn_onlyDies ..).ownedBy _ u).trans (hown u h)) ..
  have hroute : ((b.uses.map fun v => if v.first + v.n ≤ s.berth then ({ v with fin := true } : BUse) else v).any
      fun u => u.ans = .noRoute) = false := List.any_eq_false.2 fun u h => by simp [(hout u h).1]
  show Host.Outcome.next (if k = 512 then s.tideRound b.id else s.requestRound k b.id) = _
  rw [if_neg hk]
  unfold State.requestRound
  simp only [hb]
  rw [if_neg (by simp [hst, hn]), if_neg (by simp [hf])]
  simp only [hr, if_neg hz]
  unfold State.commitBooking
  simp only [htell, hre, huses, Bool.false_eq_true, if_false, State.noRoutes_owned fun u h => (hout u h).2, hroute]
  refine congrArg (fun y => Host.Outcome.next ((s.bookOwn (dieOf k) (s.useId k b) b.uses).deliverBooking k y)) ?_
  simp only [Booking.mk.injEq, true_and, and_true, hr]
  cases b.uses with
  | nil => rfl
  | cons u us => simp only [List.map_cons, List.head?_cons, Option.map_some, Option.getD_some]; split <;> rfl

end Request

/-! ### The end of a round (R67) -/

theorem keptByReleases_retryMax (d n : Nat) : KeptByReleases fun s => (s.die d).retryMax = n where
  release s c id h := by
    have hset (x : Calendar) : ((s.setCal c x).die d).retryMax = (s.die d).retryMax := by
      unfold State.setCal
      rw [State.die_setDie]
      split
      · next h => subst h; rfl
      · rfl
    obtain e | e | ⟨v, -, -, -, e⟩ := s.ownerRelease_cases c id <;> rw [e]
    · exact h
    · exact (hset _).trans h
    · exact (hset _).trans h
  dies e h := by rw [State.die_of_dies e]; exact h

/-- A booking is in the table of a core under its identifier. -/
def State.HasBooking (s : State) (k id : Nat) (f : Booking → Prop) : Prop := ∃ y, (s.core k).booking id = some y ∧ f y

/-- The end of a booking that a resumed run books again, and of another (R76, R79). -/
def Booking.Ended (b : Booking) (st : BookStatus) (sub : Nat) (y : Booking) : Prop :=
  y.status = (if b.rebook then .fatal else st) ∧ y.sub = (if b.rebook then 2 else sub) ∧ y.dest = none

section Judged

variable {x : State} {k id : Nat} {b y : Booking} (hb : (x.core k).booking id = some b) (hi : y.id = b.id) (ho : y.order = b.order)

include hb hi ho

theorem State.setBooking_has : (x.setBooking k y).HasBooking k id fun w => w = y :=
  ⟨y, by rw [State.core_setBooking_self, Core.booking_setBooking hb hi ho], rfl⟩

/-- A request that fails has its status and subcode. -/
theorem State.endBooking_has {st : BookStatus} (hst : st = .refused ∨ st = .fatal) (sub : Nat) :
    (x.endBooking k y st sub).HasBooking k id (y.Ended st sub) :=
  ⟨_, State.endBooking_booking hb hi ho st sub, (y.ends_failed sub hst).1, (y.ends_failed sub hst).2, rfl⟩

/-- A refused round is the last where its refusals exceed RETRY_MAX. -/
theorem State.nextRound_ends (h : (x.die (dieOf k)).retryMax < y.refusals + 1) :
    (x.nextRound k y true).HasBooking k id (y.Ended .refused 1) := by
  obtain ⟨hrel, hkept⟩ := x.releaseUses_released k y .release 0 y.uses
  have hmax := hkept _ (keptByReleases_retryMax (dieOf k) _) rfl
  have hb' : ((x.releaseUses k y .release 0 y.uses).core k).booking id = some b := by rw [hrel.core]; exact hb
  unfold State.nextRound
  dsimp only
  rw [hmax, if_pos h]
  exact ⟨_, State.deliverBooking_booking hb' (by rw [Booking.ends_id]; exact hi) (by rw [Booking.ends_order]; exact ho),
    (Booking.ends_failed _ 1 (.inl rfl)).1, (Booking.ends_failed _ 1 (.inl rfl)).2, rfl⟩

/-- After a refused round the next one waits for a berth boundary, with the floors that the answers named. -/
theorem State.nextRound_waits (h : y.refusals + 1 ≤ (x.die (dieOf k)).retryMax) :
    (x.nextRound k y true).HasBooking k id fun z => z.status = y.status ∧ z.round = none ∧ z.refusals = y.refusals + 1
      ∧ z.next = 256 * (x.berth + 1)
      ∧ ∀ (j : Nat) (u : BUse), y.uses[j]? = some u → ∃ w, z.uses[j]? = some w ∧ w.floor = max u.floor (u.ans.alt.getD u.floor) := by
  obtain ⟨hrel, hkept⟩ := x.releaseUses_released k y .release 0 y.uses
  have hmax := hkept _ (keptByReleases_retryMax (dieOf k) _) rfl
  have hb' : ((x.releaseUses k y .release 0 y.uses).core k).booking id = some b := by rw [hrel.core]; exact hb
  have hberth : (x.releaseUses k y .release 0 y.uses).berth = x.berth := by unfold State.berth; rw [hrel.tb]
  unfold State.nextRound
  dsimp only
  rw [hmax, if_neg (Nat.not_lt.2 h), hberth]
  obtain ⟨z, hz, rfl⟩ := State.setBooking_has hb' (y := { y with
    uses := y.uses.map fun u => { u with floor := (if true then max u.floor (u.ans.alt.getD u.floor) else u.floor), ans := .refused none }
    round := none, refusals := y.refusals + 1, next := 256 * (x.berth + 1) }) hi ho
  refine ⟨_, hz, rfl, rfl, rfl, rfl, fun j u hu => ⟨_, by rw [List.getElem?_map, hu]; rfl, rfl⟩⟩

end Judged

/-! ### What a requester learns (R65, R67, R75, R77) -/

/-- The requester acts on a message that has arrived. -/
theorem State.AtRequester.acts {s x : State} {t : BookType} {m : BookMsg} {o : Bool} (h : s.AtRequester t m x o) (f : State → Bool → State) :
    s.atRequester t m f = f x o := by
  obtain ⟨hp, g, ha, rfl, hl⟩ := h
  unfold State.atRequester
  simp only [ha, hl]
  rw [if_neg (by simp [hp]), if_neg (by simp)]

/-- A booking of which one use is answered in its round. -/
def Booking.answered (b : Booking) (j : Nat) (a : Answer) (berth : Nat) : Booking :=
  { b with uses := b.uses.mapIdx fun i u => if i = j then { u with ans := if u.fin then .own else a } else u, berth := berth }

/-- How a round that a request has come to goes on (R67), by how its answers stand. -/
def State.RoundJudged (x u : State) (k id : Nat) (y : Booking) : Prop :=
  (x.roundEnd (dieOf k) y.uses = .waiting → u.HasBooking k id fun z => z = y)
  ∧ (x.roundEnd (dieOf k) y.uses = .held → u.HasBooking k id fun z => z = { y with next := x.tb + 16 })
  ∧ (x.roundEnd (dieOf k) y.uses = .fatal → u.HasBooking k id (y.Ended .fatal 1))
  ∧ (x.roundEnd (dieOf k) y.uses = .noRoute → u.HasBooking k id (y.Ended .refused 5))
  ∧ (x.roundEnd (dieOf k) y.uses = .noRun → u.HasBooking k id (y.Ended .refused 3))
  ∧ (x.roundEnd (dieOf k) y.uses = .refused → (x.die (dieOf k)).retryMax < y.refusals + 1 → u.HasBooking k id (y.Ended .refused 1))
  ∧ (x.roundEnd (dieOf k) y.uses = .refused → y.refusals + 1 ≤ (x.die (dieOf k)).retryMax →
      u.HasBooking k id fun z => z.status = y.status ∧ z.round = none ∧ z.refusals = y.refusals + 1 ∧ z.next = 256 * (x.berth + 1)
        ∧ ∀ (j : Nat) (u : BUse), y.uses[j]? = some u → ∃ w, z.uses[j]? = some w ∧ w.floor = max u.floor (u.ans.alt.getD u.floor))

theorem State.judgeRound_judged {x : State} {k id : Nat} {b y : Booking} (hb : (x.core k).booking id = some b) (hi : y.id = b.id)
    (ho : y.order = b.order) : x.RoundJudged (x.judgeRound k y) k id y := by
  unfold State.RoundJudged State.judgeRound
  refine ⟨fun he => ?_, fun he => ?_, fun he => ?_, fun he => ?_, fun he => ?_, fun he hmax => ?_, fun he hmax => ?_⟩ <;> rw [he]
  · exact State.setBooking_has hb hi ho
  · exact State.setBooking_has (y := { y with next := x.tb + 16 }) hb hi ho
  · exact State.endBooking_has hb hi ho (.inr rfl) 1
  · exact State.endBooking_has hb hi ho (.inl rfl) 5
  · exact State.endBooking_has hb hi ho (.inl rfl) 3
  · exact State.nextRound_ends hb hi ho hmax
  · exact State.nextRound_waits hb hi ho hmax

section Learns

variable {s x : State} {m : BookMsg} {o : Bool} {b : Booking} {v : BUse} (hb : (x.core m.core).booking m.xid = some b)
  (hv : b.uses[m.use]? = some v) (ho : o = true → x.useHere v = false)

include hb

theorem State.useDone_has :
    (x.useDone m.core m.xid m.use).HasBooking m.core m.xid fun z =>
      z.uses = (b.uses.mapIdx fun i u => if i = m.use then { u with fin := true } else u)
        ∧ ((∀ u ∈ z.uses, u.fin = true) → b.status = .committed ∨ b.status = .slipped → z.status = .complete) := by
  unfold State.useDone
  simp only [hb]
  let us := b.uses.mapIdx fun i u => if i = m.use then { u with fin := true } else u
  let st := if us.all BUse.fin && (b.status = .committed || b.status = .slipped) then BookStatus.complete else b.status
  obtain ⟨z, hz, rfl⟩ := State.setBooking_has (y := { b with uses := us, status := st }) hb rfl rfl
  refine ⟨_, hz, rfl, fun hall hst => if_pos ?_⟩
  rw [List.all_eq_true.2 hall]
  simpa using hst

include hv ho

/-- An answer that a round waits for is judged. -/
theorem State.requestAnswer_judged (a : Answer) (berth : Option Nat) (hst : b.status = .held) (hr : b.round.isSome = true)
    (hw : v.ans = .waiting) :
    x.requestAnswer m o a berth = x.judgeRound m.core (b.answered m.use a (berth.getD b.berth)) := by
  unfold State.requestAnswer
  simp only [hb, hv]
  refine if_neg ?_
  cases o with
  | false => simp [hst, Option.isSome_iff_ne_none.1 hr, hw]
  | true => simp [hst, Option.isSome_iff_ne_none.1 hr, hw, ho]

theorem exec_doneMsg (h : s.AtRequester .done m x o) (hm : m.hm = false) :
    exec (.doneMsg m) s = .next (x.useDone m.core m.xid m.use) := by
  refine congrArg Host.Outcome.next ((h.acts _).trans ?_)
  simp only [hm, hb, hv]
  rw [if_neg (by simp), if_neg (by simpa using ho)]

end Learns

/-! ### The statement -/

/-- Settles O35: a request of its own uses only is one equation of its step, the judgement of a round is one lemma that every answer cites,
and each other message is an equation of the requester's step. -/
theorem requestsGoOn : Obligations.RequestsGoOn := by
  unfold Obligations.RequestsGoOn
  refine ⟨?request, ?messages⟩
  case request =>
    intro s t k b us hk hb hst hn hf d
    refine ⟨fun hm ht hs hu => ?_, fun hr hz hre hu => ?_⟩
    · obtain ⟨ds, rfl⟩ := State.search_onlyDies hs
      refine ⟨_, exec_searchRound_begins hk hb hst hn hf hm ht hs hu, ?_, rfl, rfl⟩
      rw [State.core_setBooking_self]
      exact Core.booking_setBooking (b := { b with uses := us, round := some s.tb, next := s.tb + 12 * s.ncal us + 16 }) hb rfl rfl
    · obtain ⟨ds, hds⟩ := s.bookOwn_onlyDies d (s.useId k b) b.uses
      have hb' : ((s.bookOwn d (s.useId k b) b.uses).core k).booking b.id = some b := by rw [hds]; exact hb
      refine ⟨_, exec_searchRound_commits hk hb hst hn hf hr hz hre hu, ?_, ?_, ?_⟩
      · exact State.deliverBooking_booking (b := { b with uses := _, status := .committed, berth := _ }) hb' rfl rfl
      · exact State.deliverBooking_dies ..
      · intro fw r hd
        rw [State.deliverBooking_ctx (b := { b with uses := _, status := .committed, berth := _ }) hd]
        exact Ctx.deliver_holds ..
  case messages =>
    intro s x m o b v hm hb hv ho k has ends judged
    have hends {st : BookStatus} (hst : st = .refused ∨ st = .fatal) (sub : Nat) : ends st sub (x.endBooking k b st sub) :=
      State.endBooking_has hb rfl rfl hst sub
    have hjudged (i : Instr) (a : Answer) (berth : Option Nat) (he : exec i s = .next (x.requestAnswer m o a berth)) :
        judged i a (berth.getD b.berth) := by
      refine fun hst hr hw => ?_
      rw [State.requestAnswer_judged hb hv ho a berth hst hr hw] at he
      obtain ⟨h1, h2, h3, h4, h5, h6, h7⟩ := State.judgeRound_judged (y := b.answered m.use a (berth.getD b.berth)) hb rfl rfl
      rw [show (b.answered m.use a (berth.getD b.berth)).status = .held from hst] at h7
      exact ⟨fun h => ⟨_, he, h1 h⟩, fun h => ⟨_, he, h2 h⟩, fun h => ⟨_, he, h3 h⟩, fun h => ⟨_, he, h4 h⟩, fun h => ⟨_, he, h5 h⟩,
        fun h hmax => ⟨_, he, h6 h hmax⟩, fun h hmax => ⟨_, he, h7 h hmax⟩⟩
    refine ⟨fun h => ?held, fun h => ?refused, fun h => ⟨?fatalAnswer, fun hst => ?fatal⟩,
      fun h hst => ⟨fun hno => ?noRun, fun hno hp => ?moved⟩, fun h => ?done⟩
    case held =>
      refine hjudged _ _ none (congrArg Host.Outcome.next ((h.acts _).trans ?_))
      simp only [hm]; rfl
    case refused =>
      refine hjudged _ _ (some m.berth) (congrArg Host.Outcome.next ((h.acts _).trans ?_))
      simp only [hm]; rfl
    case fatalAnswer =>
      refine fun hst hr hw => ?_
      refine hjudged _ _ none (congrArg Host.Outcome.next ((h.acts _).trans ?_)) hst hr hw
      simp only [hm, hb]
      rw [if_neg (by simp), if_neg (by simp [hst])]
    case fatal =>
      refine ⟨_, congrArg Host.Outcome.next ((h.acts _).trans ?_), hends (.inr rfl) 1⟩
      simp only [hm, hb]
      rw [if_neg (by simp), if_pos (by simpa using hst)]
    case noRun =>
      refine ⟨_, congrArg Host.Outcome.next ((h.acts _).trans ?_), hends (.inr rfl) 3⟩
      simp only [hm, hb]
      rw [if_neg (by simp), if_neg (by rcases hst with h | h <;> simp [h]), if_pos (show m.berth = noBerth from hno)]
    case moved =>
      have he : exec (.moved m) s = .next (x.setBooking k { b.setUse m.use m.berth v.n with status := .slipped }) := by
        refine congrArg Host.Outcome.next ((h.acts _).trans ?_)
        simp only [hm, hb, hv]
        rw [if_neg (by simp), if_neg (by rcases hst with h | h <;> simp [h]), if_neg (show m.berth ≠ noBerth from hno)]
        exact State.slipped_noDeps hb hst hp
      obtain ⟨z, hz, rfl⟩ := State.setBooking_has (y := { b.setUse m.use m.berth v.n with status := .slipped }) hb rfl rfl
      refine ⟨_, he, _, hz, rfl, ?_, ?_⟩ <;> simp [Booking.setUse, hv]
    case done =>
      obtain ⟨z, hz, huses, hst⟩ := State.useDone_has hb
      refine ⟨_, exec_doneMsg hb hv ho h hm, z, hz, ?_, hst⟩
      simp [huses, hv]

end Sys2Proof.Machine
end
section
/-!
The harbourmaster (R420 to R429): rounds replaced and removed, packets to every participant, manifests, reports and abandonment, and
the takeover by the standby.
-/

namespace Sys2Proof.Machine

/-! ### Packets to every one of a list (R406) -/

theorem State.send_hops (s : State) (p : Packet) (k : Nat) : (s.send p).hops k = s.hops k := by
  obtain ⟨o, sd, h⟩ := s.send_only p
  rw [h]; rfl

theorem State.OnlyReleased.hops {s t : State} (h : s.OnlyReleased t) (k : Nat) : t.hops k = s.hops k := by
  obtain ⟨_, _, _, _, _, _, rfl⟩ := h; rfl

theorem State.OnlyReleased.hmRounds {s t : State} (h : s.OnlyReleased t) : t.hmRounds = s.hmRounds := by
  obtain ⟨_, _, _, _, _, _, rfl⟩ := h; rfl

/-- A packet that was sent stays sent. -/
theorem State.mem_send {s : State} {q : Packet} (p : Packet) (h : q ∈ s.out) : q ∈ (s.send p).out := by
  unfold State.send
  split
  · split
    · exact List.mem_append_left _ h
    · exact h
  · exact List.mem_append_left _ h

theorem State.mem_send_self {s : State} {p : Packet} (h : s.hops p.dpkg ≠ 3) : p ∈ (s.send p).out := by
  rw [State.send_reachable _ _ h]; exact List.mem_append_right _ (List.mem_singleton.2 rfl)

/-- A packet leaves for each of a list that can be reached; nothing else changes. The packets do not depend on those sent before. -/
theorem State.sendAll_spec {α : Type} (f : State → α → Packet) (hf : ∀ s o sd, f { s with out := o, selfDue := sd } = f s) (l : List α)
    (s : State) :
    let u := l.foldl (fun s a => s.send (f s a)) s
    (∃ o sd, u = { s with out := o, selfDue := sd }) ∧ (∀ q ∈ s.out, q ∈ u.out) ∧ ∀ a ∈ l, s.hops (f s a).dpkg ≠ 3 → f s a ∈ u.out := by
  induction l generalizing s with
  | nil => exact ⟨⟨_, _, rfl⟩, fun _ h => h, fun _ h => absurd h (by simp)⟩
  | cons a l ih =>
    intro u
    obtain ⟨o, sd, hsend⟩ := s.send_only (f s a)
    obtain ⟨⟨o', sd', hu⟩, hkeep, hnew⟩ := ih (s.send (f s a))
    have hfs : f (s.send (f s a)) = f s := by rw [hsend, hf]
    rw [hfs] at hnew
    refine ⟨⟨o', sd', by rw [show u = _ from hu, hsend]⟩, fun q hq => hkeep q (State.mem_send _ hq), fun b hb hh => ?_⟩
    obtain rfl | hb := List.mem_cons.1 hb
    · exact hkeep _ (State.mem_send_self hh)
    · exact hnew b hb (by rw [State.send_hops]; exact hh)

/-! ### Rounds of the harbourmaster -/

/-- The rounds of a group and number. -/
def HmRound.is (g n : Nat) (r : HmRound) : Bool := r.grp = g && r.round = n

theorem HmRound.is_iff {g n : Nat} {r : HmRound} : r.is g n = true ↔ r.grp = g ∧ r.round = n := by simp [HmRound.is]

/-- A round replaced is the one found again, where the group and number had one. -/
theorem State.find_setRound {s : State} {r x : HmRound} {g n : Nat} (hx : x ∈ s.hmRounds) (hxi : x.is g n = true) (hr : r.is g n = true) :
    (s.setRound r).hmRounds.find? (HmRound.is g n) = some r := by
  obtain ⟨rfl, rfl⟩ := HmRound.is_iff.1 hr
  show (s.hmRounds.map fun x => if x.is r.grp r.round then r else x).find? _ = _
  generalize s.hmRounds = l at hx
  induction l with
  | nil => cases hx
  | cons y l ih =>
    rw [List.map_cons]
    by_cases hy : y.is r.grp r.round = true
    · rw [if_pos hy, List.find?_cons_of_pos hr]
    · rw [if_neg hy, List.find?_cons_of_neg hy]
      obtain rfl | hx := List.mem_cons.1 hx
      · exact absurd hxi hy
      · exact ih hx

/-- A round that is over is not found again. -/
theorem find_removed (l : List HmRound) (g n : Nat) : (l.filter fun x => !(x.grp = g && x.round = n)).find? (HmRound.is g n) = none :=
  List.find?_eq_none.2 fun x hx hi => by
    obtain ⟨hg, hn⟩ := HmRound.is_iff.1 hi
    simpa [hg, hn] using (List.mem_filter.1 hx).2

/-- The end of a round reaches every participant (R426). -/
theorem State.endRound_spec {s : State} {r : HmRound} {g n : Nat} (hr : r.is g n = true) :
    let u := s.endRound r
    u.hmRounds.find? (HmRound.is g n) = none ∧ (∀ q ∈ s.out, q ∈ u.out)
      ∧ ∀ m ∈ r.mans, s.hops m.pkg ≠ 3 → ∃ q ∈ u.out, q.opc = 0x13 ∧ q.dpkg = m.pkg ∧ q.score = m.core
          ∧ q.arg = BitVec.ofNat 64 (g * 2 ^ 16 + n) := by
  obtain ⟨rfl, rfl⟩ := HmRound.is_iff.1 hr
  intro u
  obtain ⟨⟨o, sd, hu⟩, hkeep, hnew⟩ := State.sendAll_spec
    (fun s (m : Manifest) => ctrlPacket 0x13 s.pkg m.core m.pkg 0 (BitVec.ofNat 64 (r.grp * 2 ^ 16 + r.round)) []) (fun _ _ _ => rfl) r.mans
    { s with hmRounds := s.hmRounds.filter fun x => !(x.grp = r.grp && x.round = r.round) }
  refine ⟨?_, hkeep, fun m hm hh => ⟨_, hnew m hm hh, rfl, rfl, rfl, rfl⟩⟩
  rw [show u.hmRounds = _ from congrArg State.hmRounds hu]
  exact find_removed ..

/-- An abandoned round is over, and every participant is told (R427). -/
theorem State.abandonRound_spec {s : State} (r : HmRound) (status : Nat) :
    let u := s.abandonRound r status
    u.hmRounds = (s.hmRounds.filter fun x => !(x.grp = r.grp && x.round = r.round))
      ∧ ∀ m ∈ r.mans, s.hops m.pkg ≠ 3 → ∃ q ∈ u.out, q.opc = 0x14 ∧ q.dpkg = m.pkg ∧ q.score = m.core
          ∧ q.arg = BitVec.ofNat 64 (2 ^ 63 + status * 2 ^ 32 + r.grp * 2 ^ 16 + r.round) := by
  intro u
  let t := r.tides.foldl (fun s t => s.dropTide t (if t.committed then .cancel else .release)) s
  have ht : s.OnlyReleased t :=
    List.foldlRecOn (motive := fun t : State => s.OnlyReleased t) _ _ (.refl s) fun y hy a _ => hy.trans (y.dropTide_released a _).1
  obtain ⟨⟨o, sd, hu⟩, -, hnew⟩ := State.sendAll_spec
    (fun s (m : Manifest) => ctrlPacket 0x14 s.pkg m.core m.pkg 0 (BitVec.ofNat 64 (2 ^ 63 + status * 2 ^ 32 + r.grp * 2 ^ 16 + r.round)) [])
    (fun _ _ _ => rfl) r.mans { t with hmRounds := t.hmRounds.filter fun x => !(x.grp = r.grp && x.round = r.round) }
  refine ⟨?_, fun m hm hh => ⟨_, hnew m hm ((ht.hops m.pkg).trans_ne hh), rfl, rfl, rfl, rfl⟩⟩
  rw [show u.hmRounds = _ from congrArg State.hmRounds hu]
  show t.hmRounds.filter _ = _
  rw [ht.hmRounds]

/-- The tides of a round that starts (R422 to R424). -/
def State.tidesOf (s : State) (mans : List Manifest) : List Tide :=
  mkTides mans s.tb s.hmXid (s.berth + 8)
    (splitTides ((mans.foldl (fun l m => insertMan m l) []).map Manifest.pkg) (demandOf mans).length (demandOf mans))

/-- A round has started with its tides, or is over at once where there are none. -/
def State.RoundStarted (x u : State) (g n : Nat) (mans : List Manifest) : Prop :=
  (x.tidesOf mans = [] → u.hmRounds.find? (HmRound.is g n) = none ∧ ∀ m ∈ mans, x.hops m.pkg ≠ 3 → ∃ q ∈ u.out, q.opc = 0x13
      ∧ q.dpkg = m.pkg ∧ q.score = m.core ∧ q.arg = BitVec.ofNat 64 (g * 2 ^ 16 + n))
    ∧ (x.tidesOf mans ≠ [] → ∃ r, u.hmRounds.find? (HmRound.is g n) = some r ∧ r.started = true ∧ r.tides = x.tidesOf mans ∧ r.mans = mans
      ∧ r.waitRep = ((x.tidesOf mans).map fun t => t.pairs.length).sum)

/-- The start of a round, whose number the harbourmaster knows. -/
theorem State.startRound_spec {s : State} {r x : HmRound} {g n : Nat} (hx : x ∈ s.hmRounds) (hxi : x.is g n = true) (hr : r.is g n = true) :
    s.RoundStarted (s.startRound r) g n r.mans ∧ ∀ q ∈ s.out, q ∈ (s.startRound r).out := by
  let ts := s.tidesOf r.mans
  let r' : HmRound := { r with started := true, tides := ts, waitRep := ts.foldl (fun n t => n + t.pairs.length) 0 }
  let t : State := { s.setRound r' with hmXid := (s.hmXid + ts.length) % 4096 }
  have hs : s.startRound r = if ts.isEmpty then t.endRound r' else t := rfl
  have hr' : r'.is g n = true := hr
  obtain ⟨hnone, hkeep, hsent⟩ := t.endRound_spec hr'
  unfold State.RoundStarted
  refine ⟨⟨fun he => ?_, fun hne => ⟨r', ?_, rfl, rfl, rfl, ?_⟩⟩, fun q hq => ?_⟩
  · rw [hs, show ts = [] from he, List.isEmpty_nil, if_pos rfl]
    exact ⟨hnone, hsent⟩
  · rw [hs, if_neg (by simpa using hne)]
    exact State.find_setRound hx hxi hr'
  · show ts.foldl (fun n t => n + t.pairs.length) 0 = _
    rw [List.sum_eq_foldl, List.foldl_map]
  · rw [hs]
    split
    · exact hkeep q hq
    · exact hq

/-! ### Manifests (R420, R421) -/

/-- The answer to a manifest leaves, and what was sent stays sent. -/
theorem State.answerPost_spec (s : State) (p : Packet) (status : Nat) :
    let u := s.answerPost p status
    (∃ o sd, u = { s with out := o, selfDue := sd })
      ∧ (s.hops p.spkg ≠ 3 → ∃ q ∈ u.out, q.opc = 0x11 ∧ q.dpkg = p.spkg ∧ q.score = p.score ∧ q.tag = p.tag
          ∧ q.arg = BitVec.ofNat 64 (2 ^ 63 + status)) :=
  ⟨State.send_only .., fun h => ⟨_, State.mem_send_self h, rfl, rfl, rfl, rfl, rfl⟩⟩

/-- The round that a first manifest opens. -/
def State.firstRound (x : State) (m : Manifest) : HmRound :=
  { grp := m.grp, round := m.round, opened := x.berth, started := false, mans := [m], tides := [], waitRep := 0, sent_ := [] }

section Manifest

variable {s x : State} {p : Packet} (h : s.Got 0x11 p x) (hm : nbit p.arg.toNat 63 = false)

include h hm

theorem exec_manifest_elsewhere (hp : x.hmPrim ≠ x.pkg) : exec (.manifest p) s = .next x := by
  show execManifest p s = _
  unfold execManifest
  rw [if_neg (by simp [hm])]
  exact congrArg Host.Outcome.next ((State.receive_got h _).trans (if_pos hp))

variable (hp : x.hmPrim = x.pkg)

include hp

theorem exec_manifest_first (hf : x.hmRounds.find? (HmRound.is (packetManifest p).grp (packetManifest p).round) = none) :
    let t := ({ x with hmRounds := x.hmRounds ++ [x.firstRound (packetManifest p)] } : State).answerPost p 0
    exec (.manifest p) s = .next (if (packetManifest p).npart ≤ 1 then t.startRound (x.firstRound (packetManifest p)) else t) := by
  intro t
  show execManifest p s = _
  unfold execManifest
  rw [if_neg (by simp [hm])]
  refine congrArg Host.Outcome.next ((State.receive_got h _).trans ?_)
  dsimp only
  rw [if_neg (by simp [hp])]
  split
  · rfl
  · next r hr => exact absurd (hf.symm.trans hr) (by simp)

variable {r : HmRound} (hf : x.hmRounds.find? (HmRound.is (packetManifest p).grp (packetManifest p).round) = some r)

include hf

theorem exec_manifest_twice (ht : ∃ y ∈ r.mans, y.pkg = (packetManifest p).pkg) : exec (.manifest p) s = .next (x.answerPost p 5) := by
  show execManifest p s = _
  unfold execManifest
  rw [if_neg (by simp [hm])]
  refine congrArg Host.Outcome.next ((State.receive_got h _).trans ?_)
  dsimp only
  rw [if_neg (by simp [hp])]
  split
  · next hr => exact absurd (hf.symm.trans hr) (by simp)
  · next r' hr =>
    obtain rfl : r = r' := Option.some.inj (hf.symm.trans hr)
    exact if_pos (by simpa using ht)

variable {f : Manifest} {ms : List Manifest} (hr : r.mans = f :: ms) (ho : ∀ y ∈ r.mans, y.pkg ≠ (packetManifest p).pkg)

include hr ho

theorem exec_manifest_refused (hc : f.npart ≠ (packetManifest p).npart ∨ f.pscope ≠ (packetManifest p).pscope ∨ r.started = true) :
    exec (.manifest p) s = .next (x.answerPost p 4) := by
  show execManifest p s = _
  unfold execManifest
  rw [if_neg (by simp [hm])]
  refine congrArg Host.Outcome.next ((State.receive_got h _).trans ?_)
  dsimp only
  rw [if_neg (by simp [hp])]
  split
  · next hn => exact absurd (hf.symm.trans hn) (by simp)
  · next r' hr' =>
    obtain rfl : r = r' := Option.some.inj (hf.symm.trans hr')
    rw [if_neg (by simpa using ho), hr]
    refine if_pos ?_
    rcases hc with hc | hc | hc <;> simp [hc]

theorem exec_manifest_recorded (hn : f.npart = (packetManifest p).npart) (hc : f.pscope = (packetManifest p).pscope) (hs : r.started = false) :
    let t := (x.setRound { r with mans := r.mans ++ [packetManifest p] }).answerPost p 0
    exec (.manifest p) s = .next (if (packetManifest p).npart ≤ r.mans.length + 1 then
      t.startRound { r with mans := r.mans ++ [packetManifest p] } else t) := by
  intro t
  show execManifest p s = _
  unfold execManifest
  rw [if_neg (by simp [hm])]
  refine congrArg Host.Outcome.next ((State.receive_got h _).trans ?_)
  dsimp only
  rw [if_neg (by simp [hp])]
  split
  · next hn => exact absurd (hf.symm.trans hn) (by simp)
  · next r' hr' =>
    obtain rfl : r = r' := Option.some.inj (hf.symm.trans hr')
    rw [if_neg (by simpa using ho), if_neg (by simp [hr, hn, hc, hs]), List.length_append, List.length_singleton]

end Manifest

/-- What the last manifest of a round leaves: the answer to it, and the round started. -/
theorem State.answered_started {s : State} {p : Packet} {r x : HmRound} {g n : Nat} (hx : x ∈ s.hmRounds) (hxi : x.is g n = true)
    (hr : r.is g n = true) :
    let u := (s.answerPost p 0).startRound r
    (s.hops p.spkg ≠ 3 → ∃ q ∈ u.out, q.opc = 0x11 ∧ q.dpkg = p.spkg ∧ q.score = p.score ∧ q.tag = p.tag
        ∧ q.arg = BitVec.ofNat 64 (2 ^ 63 + 0)) ∧ s.RoundStarted u g n r.mans := by
  intro u
  obtain ⟨⟨o, sd, hans⟩, htold⟩ := s.answerPost_spec p 0
  have hx' : x ∈ (s.answerPost p 0).hmRounds := by rw [show s.answerPost p 0 = _ from hans]; exact hx
  obtain ⟨hst, hkeep⟩ := State.startRound_spec hx' hxi hr
  refine ⟨fun hh => ?_, ?_⟩
  · obtain ⟨q, hq, hrest⟩ := htold hh
    exact ⟨q, hkeep q hq, hrest⟩
  · have he : s.RoundStarted u g n r.mans = (s.answerPost p 0).RoundStarted u g n r.mans := by
      rw [show s.answerPost p 0 = _ from hans]; rfl
    rw [he]
    exact hst

/-! ### Reports, time-outs and abandonment (R422, R426, R427) -/

theorem exec_roundTimeout {s : State} {grp round : Nat} {r : HmRound} (hf : s.hmRounds.find? (HmRound.is grp round) = some r) :
    exec (.roundTimeout grp round) s
      = .next (if !r.started && s.rtmo ≠ 0 && decide (r.opened + s.rtmo ≤ s.berth) then s.abandonRound r 2 else s) := by
  show execRoundTimeout grp round s = _
  unfold execRoundTimeout
  split
  · next r' hr' =>
    obtain rfl : r = r' := Option.some.inj (hf.symm.trans hr')
    split <;> rfl
  · next hn => exact absurd (hf.symm.trans hn) (by simp)

/-- The round after a report of a pair. -/
def HmRound.reported (r : HmRound) (p : Packet) : HmRound :=
  { r with waitRep := r.waitRep - 1, sent_ := r.sent_ ++ [(p.spkg, field p.data 0 2, field p.data 2 8)] }

theorem exec_pairReport {s x : State} {p : Packet} {r : HmRound} (h : s.Got 0x12 p x) (hm : nbit p.arg.toNat 63 = true)
    (hf : x.hmRounds.find? (fun r => r.grp = nbits p.arg.toNat 27 16 && r.round = p.arg.toNat % 65536 && r.started) = some r) :
    exec (.pairReport p) s = .next (if (r.reported p).waitRep = 0 then x.endRound (r.reported p) else x.setRound (r.reported p)) := by
  show execPairReport p s = _
  unfold execPairReport
  rw [if_neg (by simp [hm])]
  refine congrArg Host.Outcome.next ((State.receive_got h _).trans ?_)
  dsimp only
  split
  · next hn => exact absurd (hf.symm.trans hn) (by simp)
  · next r' hr' => obtain rfl : r = r' := Option.some.inj (hf.symm.trans hr'); rfl

theorem exec_abandon {s x : State} {p : Packet} {r : HmRound} (h : s.Got 0x14 p x) (hm : nbit p.arg.toNat 63 = false)
    (hf : x.hmRounds.find? (fun r => r.grp = nbits p.arg.toNat 27 16 && r.round = p.arg.toNat % 65536 && r.mans.any fun m => m.pkg = p.spkg)
      = some r) : exec (.abandon p) s = .next (x.abandonRound r 2) := by
  refine congrArg Host.Outcome.next ((State.receive_got h _).trans ?_)
  dsimp only
  rw [if_neg (by simp [hm])]
  split
  · next r' hr' => obtain rfl : r = r' := Option.some.inj (hf.symm.trans hr'); rfl
  · next hn => exact absurd (hf.symm.trans hn) (by simp)

/-- A round of one tide, on a unit that has stopped (R88). -/
theorem exec_tideRound_stopped {s : State} {r : HmRound} {t : Tide} (hr : s.hmRounds = [r]) (ht : r.tides = [t]) (hc : t.committed = false)
    (hn : t.next ≤ s.tb) (hf : (s.die 8).failstop = true) : exec (.searchRound 512 t.xid) s = .next (s.abandonRound r 2) := by
  show Host.Outcome.next (s.tideRound t.xid) = _
  have hfind : (s.hmRounds.findSome? fun r => (r.tides.find? fun y => y.xid = t.xid && !y.committed).map fun y => (r, y)) = some (r, t) := by
    simp [hr, ht, hc]
  unfold State.tideRound
  rw [hfind]
  dsimp only
  rw [if_neg (by omega), if_pos hf]

/-! ### Cancelling what a harbourmaster has booked (R429) -/

/-- The uses that the harbourmaster of a package asked for. -/
def OwnUse.ofHm (old : Nat) (u : OwnUse) : Bool := u.id.hm && u.id.pkg = old

/-- Of the uses of a calendar that a harbourmaster asked for, those that have not started bear one of some identities. -/
def Calendar.Unstarted (x : Calendar) (old : Nat) (ids : List UseId) : Prop :=
  ∀ v ∈ x.uses, v.ofHm old = true → v.start.isSome = true ∨ v.id ∈ ids

/-- No identity stands twice in a calendar. -/
def Calendar.Distinct (x : Calendar) : Prop := (x.uses.map OwnUse.id).Nodup

theorem Calendar.setUse_distinct {x : Calendar} (h : x.Distinct) (v : OwnUse) : (x.setUse v).Distinct := by
  refine List.nodup_cons.2 ⟨fun hm => ?_, h.sublist (List.filter_sublist.map _)⟩
  obtain ⟨w, hw, he⟩ := List.mem_map.1 hm
  exact absurd he (by simpa using (List.mem_filter.1 hw).2)

theorem keptByReleases_distinct (c : Cal) : KeptByReleases fun s => (s.cal c).Distinct :=
  keptByReleases_cal c (fun _ _ h => h.sublist (List.filter_sublist.map _)) fun _ v h _ => Calendar.setUse_distinct h v

theorem keptByReleases_unstarted (c : Cal) (old : Nat) (ids : List UseId) : KeptByReleases fun s => (s.cal c).Unstarted old ids :=
  keptByReleases_cal c (Q := fun x => x.Unstarted old ids) (fun _ _ h v hv => h v (List.mem_filter.1 hv).1) fun x v h hs w hw ho => by
    obtain rfl | hw := List.mem_cons.1 hw
    · exact .inl hs
    · exact h w (List.mem_filter.1 hw).1 ho

/-- A use that its owner releases is gone, or runs. -/
theorem State.ownerRelease_unstarted_free {s : State} {c : Cal} {id : UseId} (h : (s.cal c).Distinct) {v : OwnUse}
    (hv : v ∈ ((s.ownerRelease c id).cal c).uses) (hs : v.start.isSome = false) : v.id ≠ id := by
  rintro rfl
  cases hu : (s.cal c).use v.id with
  | none =>
    have he : s.ownerRelease c v.id = s := by unfold State.ownerRelease; simp only [hu]
    rw [he] at hv
    exact absurd hu (by simpa [Calendar.use] using ⟨v, hv, rfl⟩)
  | some w =>
    cases hw : w.start with
    | none =>
      rw [State.ownerRelease_unstarted hu hw, State.cal_setCal_self] at hv
      exact absurd (List.mem_filter.1 hv).2 (by simp)
    | some t =>
      obtain e | e | ⟨w', hw', hs', -, e⟩ := s.ownerRelease_cases c v.id <;> rw [e] at hv
      · have hvw : v = w := List.inj_on_of_nodup_map h hv (Calendar.mem_of_use hu) (Calendar.use_id hu).symm
        rw [hvw, hw] at hs; exact absurd hs (by simp)
      · rw [State.cal_setCal_self] at hv
        exact absurd (List.mem_filter.1 hv).2 (by simp)
      · rw [State.cal_setCal_self] at hv
        obtain rfl | hv := List.mem_cons.1 hv
        · rw [show ({ w' with stop := true } : OwnUse).start = w'.start from rfl, hs'] at hs; exact absurd hs (by simp)
        · exact absurd (Calendar.use_id hw').symm (by simpa using (List.mem_filter.1 hv).2)

/-- Releasing uses by their identities, one after another, leaves none of them unstarted. -/
theorem State.releaseAll_unstarted {c : Cal} {old : Nat} (l : List OwnUse) {s : State} (h : (s.cal c).Distinct)
    (hl : (s.cal c).Unstarted old (l.map OwnUse.id)) :
    ((l.foldl (fun s u => s.ownerRelease c u.id) s).cal c).Unstarted old [] := by
  induction l generalizing s with
  | nil => exact hl
  | cons u l ih =>
    refine ih ((keptByReleases_distinct c).release s c u.id h) fun v hv ho => ?_
    cases hs : v.start.isSome with
    | true => exact .inl rfl
    | false =>
      have hne := State.ownerRelease_unstarted_free h hv hs
      rcases (keptByReleases_unstarted c old _).release s c u.id hl v hv ho with hst | hid
      · rw [hs] at hst; exact absurd hst (by simp)
      · exact .inr ((List.mem_cons.1 hid).resolve_left hne)

/-- A release of one use leaves the others in their calendars. -/
theorem State.ownerRelease_keeps {s : State} {c c' : Cal} {id : UseId} {v : OwnUse} (hv : v ∈ (s.cal c').uses) (hn : v.id ≠ id) :
    v ∈ ((s.ownerRelease c id).cal c').uses := by
  have hset {y : Calendar} (hy : v ∈ (s.cal c).uses → v ∈ y.uses) : v ∈ ((s.setCal c y).cal c').uses := by
    rw [State.cal_setCal]
    split
    · next e => exact hy (s.cal_congr e.1 e.2 ▸ hv)
    · exact hv
  obtain e | e | ⟨w, hw, -, -, e⟩ := s.ownerRelease_cases c id <;> rw [e]
  · exact hv
  · exact hset fun h => List.mem_filter.2 ⟨h, by simpa using hn⟩
  · refine hset fun h => List.mem_cons_of_mem _ (List.mem_filter.2 ⟨h, ?_⟩)
    rw [← Calendar.use_id hw] at hn
    simpa using hn

/-- What releases leave of the calendars: those that a harbourmaster did not ask for. -/
def State.KeepsOthers (s u : State) (old : Nat) : Prop := ∀ c, ∀ v ∈ (s.cal c).uses, v.ofHm old = false → v ∈ (u.cal c).uses

theorem State.KeepsOthers.refl (s : State) (old : Nat) : s.KeepsOthers s old := fun _ _ h _ => h

theorem State.KeepsOthers.trans {s t u : State} {old : Nat} (h : s.KeepsOthers t old) (g : t.KeepsOthers u old) : s.KeepsOthers u old :=
  fun c v hv ho => g c v (h c v hv ho) ho

/-- The booking unit of a calendar cancels what a harbourmaster asked for. -/
def State.cancelHmOf (s : State) (old : Nat) (c : Cal) : State :=
  ((s.cal c).uses.filter (OwnUse.ofHm old)).foldl (fun s u => s.ownerRelease c u.id) s

theorem State.cancelHm_eq (s : State) (old : Nat) : s.cancelHm old = ((List.range 10).flatMap dieCals).foldl (State.cancelHmOf · old) s := rfl

theorem State.cancelHmOf_spec (s : State) (old : Nat) (c : Cal) :
    (∃ ds, s.cancelHmOf old c = { s with dies := ds }) ∧ s.KeepsOthers (s.cancelHmOf old c) old
      ∧ (∀ P, KeptByReleases P → P s → P (s.cancelHmOf old c))
      ∧ ((s.cal c).Distinct → ((s.cancelHmOf old c).cal c).Unstarted old []) := by
  have hdies (s : State) (id : UseId) : ∃ ds, s.ownerRelease c id = { s with dies := ds } := by
    obtain e | e | ⟨v, -, -, -, e⟩ := s.ownerRelease_cases c id <;> rw [e] <;> exact ⟨_, rfl⟩
  refine ⟨?_, ?_, fun P hP hs => ?_, fun hd => State.releaseAll_unstarted _ hd fun v hv ho => .inr ?_⟩
  · refine List.foldlRecOn (motive := fun u : State => ∃ ds, u = { s with dies := ds }) _ _ ⟨_, rfl⟩ fun t ⟨ds, ht⟩ u _ => ?_
    obtain ⟨ds', h⟩ := hdies t u.id
    exact ⟨ds', by rw [h, ht]⟩
  · refine List.foldlRecOn (motive := fun u : State => s.KeepsOthers u old) _ _ (.refl s old) fun t ht u hu => ht.trans fun c' v hv ho => ?_
    refine State.ownerRelease_keeps hv fun he => ?_
    have hhm : u.ofHm old = true := (List.mem_filter.1 hu).2
    unfold OwnUse.ofHm at ho hhm
    rw [he, hhm] at ho
    exact absurd ho (by simp)
  · exact List.foldlRecOn (motive := fun u : State => P u) _ _ hs fun t ht u _ => hP.release t c u.id ht
  · exact List.mem_map.2 ⟨v, List.mem_filter.2 ⟨hv, ho⟩, rfl⟩

/-- Every calendar of a list is cleared of what a harbourmaster asked for. -/
theorem State.cancelAll_spec (old : Nat) (l : List Cal) (s : State) :
    let u := l.foldl (State.cancelHmOf · old) s
    (∃ ds, u = { s with dies := ds }) ∧ s.KeepsOthers u old ∧ (∀ P, KeptByReleases P → P s → P u)
      ∧ ∀ c ∈ l, (s.cal c).Distinct → (u.cal c).Unstarted old [] := by
  induction l generalizing s with
  | nil => exact ⟨⟨_, rfl⟩, .refl s old, fun _ _ h => h, fun _ h => absurd h (by simp)⟩
  | cons c l ih =>
    intro u
    obtain ⟨⟨ds, hds⟩, hk, hkept, hclear⟩ := s.cancelHmOf_spec old c
    obtain ⟨⟨ds', hu⟩, hk', hkept', hclear'⟩ := ih (s.cancelHmOf old c)
    refine ⟨⟨ds', by rw [show u = _ from hu, hds]⟩, hk.trans hk', fun P hP hs => hkept' P hP (hkept P hP hs), fun c' hc' hd => ?_⟩
    obtain rfl | hc' := List.mem_cons.1 hc'
    · exact hkept' _ (keptByReleases_unstarted c' old []) (hclear hd)
    · exact hclear' c' hc' (hkept _ (keptByReleases_distinct c') hd)

/-- The calendars of the dies hold nothing unstarted that a harbourmaster asked for, and the uses of others are there still. -/
def State.Cleared (x u : State) (old : Nat) : Prop := ∀ c ∈ (List.range 10).flatMap dieCals, ((x.cal c).uses.map OwnUse.id).Nodup →
  (∀ v ∈ (u.cal c).uses, v.id.hm = true → v.id.pkg = old → v.start.isSome = true)
    ∧ ∀ v ∈ (x.cal c).uses, (v.id.hm = false ∨ v.id.pkg ≠ old) → v ∈ (u.cal c).uses

theorem State.cleared_of {x u : State} {old : Nat} (hk : x.KeepsOthers u old)
    (hc : ∀ c ∈ (List.range 10).flatMap dieCals, (x.cal c).Distinct → (u.cal c).Unstarted old []) : x.Cleared u old := fun c hm hd =>
  ⟨fun v hv hhm hp => (hc c hm hd v hv (by simp [OwnUse.ofHm, hhm, hp])).resolve_right (by simp),
    fun v hv ho => hk c v hv (by unfold OwnUse.ofHm; rcases ho with ho | ho <;> simp [ho])⟩

theorem State.cancelHm_cleared (s : State) (old : Nat) : s.Cleared (s.cancelHm old) old := by
  rw [State.cancelHm_eq]
  obtain ⟨-, hk, -, hc⟩ := State.cancelAll_spec old ((List.range 10).flatMap dieCals) s
  exact State.cleared_of hk hc

theorem State.cancelHm_only (s : State) (old : Nat) : ∃ ds, s.cancelHm old = { s with dies := ds } := by
  rw [State.cancelHm_eq]; exact (State.cancelAll_spec old _ s).1

theorem State.cancelHm_keeps (s : State) (old : Nat) :
    let u := s.cancelHm old
    u.hmPrim = s.hmPrim ∧ u.hmStby = s.hmStby ∧ u.noStby = s.noStby ∧ u.hmRounds = s.hmRounds ∧ u.myRounds = s.myRounds ∧ u.cores = s.cores := by
  obtain ⟨ds, hds⟩ := s.cancelHm_only old
  rw [hds]
  exact ⟨rfl, rfl, rfl, rfl, rfl, rfl⟩

/-- A second cancellation of the same uses keeps what the first has cleared. -/
theorem State.Cleared.cancelHm {x u : State} {old o : Nat} (h : x.Cleared u o) (e : old = o) : x.Cleared (u.cancelHm old) old := by
  subst e
  rw [State.cancelHm_eq]
  obtain ⟨-, hk, hkept, -⟩ := State.cancelAll_spec old ((List.range 10).flatMap dieCals) u
  intro c hc hd
  obtain ⟨h1, h2⟩ := h c hc hd
  refine ⟨fun v hv hhm hp => ?_, fun v hv ho => hk c v (h2 v hv ho) (by unfold OwnUse.ofHm; rcases ho with ho | ho <;> simp [ho])⟩
  have hun : (u.cal c).Unstarted old [] := fun w hw ho => by
    simp only [OwnUse.ofHm, Bool.and_eq_true, decide_eq_true_eq] at ho
    exact .inl (h1 w hw ho.1 ho.2)
  exact (hkept _ (keptByReleases_unstarted c old []) hun v hv (by simp [OwnUse.ofHm, hhm, hp])).resolve_right (by simp)

/-! ### Taking over (R429) -/

/-- A round of this package that is dropped changes its waits, its copies, and what it remembers of it. -/
theorem State.dropRound_only (s : State) (grp round status : Nat) : ∃ cs rs xw cp, s.dropRound grp round status = { s with
    cores := cs, results := rs, xwaits := xw, copies := cp, myRounds := s.myRounds.filter fun x => !(x.grp = grp && x.round = round) } := by
  have hfold (l : List XWaitF) (t : State) (w : W64) :
      ∃ cs, l.foldl (fun s x => s.deliver x.core x.fw x.d w none) t = { t with cores := cs } := by
    refine List.foldlRecOn (motive := fun u : State => ∃ cs, u = { t with cores := cs }) _ _ ⟨_, rfl⟩ fun u ⟨cs, hu⟩ x _ => ?_
    rw [hu]
    exact ⟨_, rfl⟩
  unfold State.dropRound State.roundResult
  dsimp only
  obtain ⟨cs, h⟩ := hfold (s.xwaits.filter fun x => x.grp = grp && x.round = round) { s with
    myRounds := s.myRounds.filter fun x => !(x.grp = grp && x.round = round)
    copies := s.copies.filter fun c => !(c.grp = grp && c.round = round)
    results := ((grp, round, roundWord status round 0) :: s.results.filter fun r => !(r.1 = grp && r.2.1 = round)).take 16 }
    (roundWord status round 0)
  rw [h]
  exact ⟨_, _, _, _, rfl⟩

/-- Every round of a list is dropped, and nothing is added. -/
theorem State.dropRounds_spec (status : Nat) (l : List MyRound) (s : State) :
    let u := l.foldl (fun s r => s.dropRound r.grp r.round status) s
    (∃ cs rs xw cp mr, u = { s with cores := cs, results := rs, xwaits := xw, copies := cp, myRounds := mr })
      ∧ ∀ r ∈ u.myRounds, r ∈ s.myRounds ∧ r ∉ l := by
  induction l generalizing s with
  | nil => exact ⟨⟨_, _, _, _, _, rfl⟩, fun r h => ⟨h, by simp⟩⟩
  | cons a l ih =>
    intro u
    obtain ⟨cs, rs, xw, cp, hd⟩ := s.dropRound_only a.grp a.round status
    obtain ⟨⟨_, _, _, _, _, hu⟩, hr⟩ := ih (s.dropRound a.grp a.round status)
    refine ⟨⟨_, _, _, _, _, by rw [show u = _ from hu, hd]⟩, fun r h => ?_⟩
    obtain ⟨hmem, hnot⟩ := hr r h
    rw [hd] at hmem
    obtain ⟨hmem, hne⟩ := List.mem_filter.1 hmem
    refine ⟨hmem, fun hin => ?_⟩
    obtain rfl | hin := List.mem_cons.1 hin
    · exact absurd hne (by simp)
    · exact hnot hin

/-- PRIM and STBY change places, and the rounds of the group end with REPOST (R429). -/
def State.changeOver (y : State) : State :=
  (y.myRounds.filter fun r => r.grp = y.hmGrp).foldl (fun s r => s.dropRound r.grp r.round 3)
    { y with hmRounds := y.hmRounds.filter fun r => r.grp ≠ y.hmGrp, hmPrim := y.hmStby, hmStby := y.hmPrim, noStby := true }

theorem State.takeOver_eq (s : State) (old : Nat) : s.takeOver old = (s.cancelHm old).changeOver := rfl

theorem State.changeOver_spec (y : State) :
    let u := y.changeOver
    u.hmPrim = y.hmStby ∧ u.hmStby = y.hmPrim ∧ u.noStby = true ∧ u.hbSent = y.hbSent ∧ u.out = y.out ∧ u.dies = y.dies
      ∧ (∀ r ∈ u.hmRounds, r.grp ≠ y.hmGrp) ∧ ∀ r ∈ u.myRounds, r.grp ≠ y.hmGrp := by
  intro u
  obtain ⟨⟨cs, rs, xw, cp, mr, hu⟩, hmy⟩ := State.dropRounds_spec 3 (y.myRounds.filter fun r => r.grp = y.hmGrp)
    { y with hmRounds := y.hmRounds.filter fun r => r.grp ≠ y.hmGrp, hmPrim := y.hmStby, hmStby := y.hmPrim, noStby := true }
  have hu : u = _ := hu
  refine ⟨by rw [hu], by rw [hu], by rw [hu], by rw [hu], by rw [hu], by rw [hu], fun r hr => ?_, fun r hr he => ?_⟩
  · rw [hu] at hr
    simpa using (List.mem_filter.1 hr).2
  · obtain ⟨hmem, hnot⟩ := hmy r hr
    exact hnot (List.mem_filter.2 ⟨hmem, by simpa using he⟩)

/-- What a takeover leaves: the standby is the primary, and the rounds of the group are over. -/
theorem State.takeOver_spec (s : State) (old : Nat) :
    let u := s.takeOver old
    u.hmPrim = s.hmStby ∧ u.hmStby = s.hmPrim ∧ u.noStby = true ∧ u.hbSent = s.hbSent ∧ u.out = s.out
      ∧ (∀ r ∈ u.hmRounds, r.grp ≠ s.hmGrp) ∧ (∀ r ∈ u.myRounds, r.grp ≠ s.hmGrp) ∧ s.Cleared u old := by
  intro u
  have hclear := s.cancelHm_cleared old
  obtain ⟨ds, hds⟩ := s.cancelHm_only old
  obtain ⟨h1, h2, h3, h4, h5, h6, h7, h8⟩ := (s.cancelHm old).changeOver_spec
  rw [← State.takeOver_eq] at h1 h2 h3 h4 h5 h6 h7 h8
  have hcal (c : Cal) : u.cal c = (s.cancelHm old).cal c := State.cal_of_dies h6 c
  rw [hds] at h1 h2 h4 h5 h7 h8
  refine ⟨h1, h2, h3, h4, h5, h7, h8, fun c hc hd => ?_⟩
  rw [hcal]
  exact hclear c hc hd

theorem exec_heartbeatTimer {s : State} : exec .heartbeatTimer s =
    .next (if s.pkg ≠ s.hmPrim || s.hmStby = s.hmPrim || s.noStby || decide (s.tb < s.hbSent + 2048) then s
      else { s with hbSent := s.tb }.send (ctrlPacket 0x15 s.pkg 0 s.hmStby 0 (BitVec.ofNat 64 s.hmGrp) [])) := by
  show execHeartbeatTimer s = _
  unfold execHeartbeatTimer
  split <;> rfl

/-- The state in which the standby has told every package of its takeover. -/
def State.takeoverTold (s : State) : State :=
  s.reachable.foldl (fun t k => t.send (ctrlPacket 0x16 t.pkg 0 k 0 (BitVec.ofNat 64 (s.hmPrim * 2 ^ 16 + t.hmGrp)) [])) s

theorem State.takeoverTold_spec (s : State) :
    (∃ o sd, s.takeoverTold = { s with out := o, selfDue := sd })
      ∧ ∀ k ∈ s.reachable, s.hops k ≠ 3 → ∃ q ∈ s.takeoverTold.out, q.opc = 0x16 ∧ q.dpkg = k
          ∧ q.arg = BitVec.ofNat 64 (s.hmPrim * 2 ^ 16 + s.hmGrp) := by
  obtain ⟨honly, -, hnew⟩ := State.sendAll_spec
    (fun t (k : Nat) => ctrlPacket 0x16 t.pkg 0 k 0 (BitVec.ofNat 64 (s.hmPrim * 2 ^ 16 + t.hmGrp)) []) (fun _ _ _ => rfl) s.reachable s
  exact ⟨honly, fun k hk hh => ⟨_, hnew k hk hh, rfl, rfl, rfl⟩⟩

theorem exec_takeoverTimeout (s : State) : exec .takeoverTimeout s =
    .next (if s.pkg ≠ s.hmStby || s.hmStby = s.hmPrim || s.noStby || decide (s.tb < s.hbSeen + 6144) then s
      else ({ s.takeoverTold with hbSent := s.tb } : State).takeOver s.hmPrim) := by
  have htb : s.takeoverTold.tb = s.tb := by
    obtain ⟨⟨o, sd, h⟩, -⟩ := s.takeoverTold_spec
    rw [h]
  show execTakeoverTimeout s = _
  unfold execTakeoverTimeout
  split
  · rfl
  · rfl

/-! ### The statement -/

/-- Settles O48: a manifest is one equation for each of its answers, and the round that it completes starts by one lemma; a round that ends or
is abandoned is told to each participant by one induction over them; a takeover clears each calendar by induction over its uses. -/
theorem harbourmasterRunsRounds : Obligations.HarbourmasterRunsRounds := by
  unfold Obligations.HarbourmasterRunsRounds
  refine ⟨⟨?manifest, ?timeout, ?report, ?stopped, ?abandon⟩, ⟨?heartbeats, ?heartbeat, ?takeover, ?follow⟩⟩
  case manifest =>
    intro s x p h h63 m here told starts
    have htold (y : State) (st : Nat) (hy : y.hops p.spkg = x.hops p.spkg) : told st (y.answerPost p st) := fun hh =>
      (y.answerPost_spec p st).2 (hy.trans_ne hh)
    have hfound {r : HmRound} (hf : x.hmRounds.find? here = some r) : r.is m.grp m.round = true := List.find?_some hf
    have hrounds (s : State) (st : Nat) : (s.answerPost p st).hmRounds = s.hmRounds := by
      obtain ⟨⟨o, sd, hans⟩, -⟩ := s.answerPost_spec p st
      rw [show s.answerPost p st = _ from hans]
    refine ⟨fun hp => ⟨_, exec_manifest_elsewhere h h63 hp, rfl⟩, fun hp => ⟨fun hf => ⟨fun hn => ?first, fun hn => ?single⟩,
      fun r f ms hf hr => ⟨fun ht => ?twice, fun ho => ⟨fun hc => ?refused, fun hn hc hs => ⟨fun hl => ?recorded, fun hl => ?last⟩⟩⟩⟩⟩
    case first =>
      refine ⟨_, exec_manifest_first h h63 hp hf, ?_⟩
      rw [if_neg (Nat.not_le.2 hn)]
      exact ⟨htold _ 0 rfl, hrounds _ 0⟩
    case single =>
      refine ⟨_, exec_manifest_first h h63 hp hf, ?_⟩
      rw [if_pos hn]
      exact State.answered_started (s := { x with hmRounds := x.hmRounds ++ [x.firstRound m] }) (r := x.firstRound m)
        (List.mem_append_right _ (List.mem_singleton.2 rfl)) (HmRound.is_iff.2 ⟨rfl, rfl⟩) (HmRound.is_iff.2 ⟨rfl, rfl⟩)
    case twice => exact ⟨_, exec_manifest_twice h h63 hp hf ht, htold x 5 rfl, hrounds x 5⟩
    case refused => exact ⟨_, exec_manifest_refused h h63 hp hf hr ho hc, htold x 4 rfl, hrounds x 4⟩
    case recorded =>
      refine ⟨_, exec_manifest_recorded h h63 hp hf hr ho hn hc hs, ?_⟩
      rw [if_neg (Nat.not_le.2 hl)]
      refine ⟨htold _ 0 rfl, ?_⟩
      rw [hrounds]
      have hi := hfound hf
      exact State.find_setRound (List.mem_of_find?_eq_some hf) hi (HmRound.is_iff.2 (HmRound.is_iff.1 hi))
    case last =>
      refine ⟨_, exec_manifest_recorded h h63 hp hf hr ho hn hc hs, ?_⟩
      rw [if_pos hl]
      have hr0 := hfound hf
      have hi : ({ r with mans := r.mans ++ [m] } : HmRound).is m.grp m.round = true := HmRound.is_iff.2 (HmRound.is_iff.1 hr0)
      have hmem := State.find_setRound (List.mem_of_find?_eq_some hf) (hfound hf) hi
      exact State.answered_started (s := x.setRound { r with mans := r.mans ++ [m] }) (List.mem_of_find?_eq_some hmem) hi hi
  case timeout =>
    intro s grp round r hf
    obtain ⟨hg, hn⟩ := HmRound.is_iff.1 (List.find?_some hf)
    obtain ⟨hrounds, hsent⟩ := s.abandonRound_spec r 2
    rw [hg, hn] at hrounds hsent
    refine ⟨fun hs _ h0 ho => ⟨_, exec_roundTimeout hf, ?_⟩, fun hno => ⟨_, exec_roundTimeout hf, ?_⟩⟩
    · rw [if_pos (by simp [hs, h0, ho])]
      exact ⟨by rw [hrounds]; exact find_removed .., hsent⟩
    · refine if_neg ?_
      rcases hno with hno | hno | hno
      · simp [hno]
      · simp [hno]
      · simp [Nat.not_le.2 hno]
  case report =>
    intro s x p h h63 grp round r hf
    obtain ⟨⟨hg, hn⟩, -⟩ : (r.grp = grp ∧ r.round = round) ∧ r.started = true := by simpa using List.find?_some hf
    have hi : (r.reported p).is grp round = true := HmRound.is_iff.2 ⟨hg, hn⟩
    refine ⟨fun hw => ⟨_, exec_pairReport h h63 hf, ?_⟩, fun hw => ⟨_, exec_pairReport h h63 hf, ?_⟩⟩
    · have hleft : (r.reported p).waitRep ≠ 0 := Nat.sub_ne_zero_of_lt hw
      rw [if_neg hleft]
      exact State.find_setRound (List.mem_of_find?_eq_some hf) (HmRound.is_iff.2 ⟨hg, hn⟩) hi
    · have hlast : (r.reported p).waitRep = 0 := Nat.sub_eq_zero_of_le hw
      rw [if_pos hlast]
      obtain ⟨hnone, -, hsent⟩ := x.endRound_spec hi
      exact ⟨hnone, hsent⟩
  case stopped =>
    intro s r t hr ht hc hn hf
    obtain ⟨hrounds, hsent⟩ := s.abandonRound_spec r 2
    refine ⟨_, exec_tideRound_stopped hr ht hc hn hf, ?_, hsent⟩
    rw [hrounds, hr]
    simp
  case abandon =>
    intro s x p h h63 grp round r hf
    obtain ⟨⟨hg, hn⟩, -⟩ : (r.grp = grp ∧ r.round = round) ∧ _ := by simpa using List.find?_some hf
    obtain ⟨hrounds, hsent⟩ := x.abandonRound_spec r 2
    rw [hg, hn] at hrounds
    refine ⟨_, exec_abandon h h63 hf, by rw [hrounds]; exact find_removed .., fun n hm hh => ?_⟩
    obtain ⟨q, hq, ho, hd, -⟩ := hsent n hm hh
    exact ⟨q, hq, ho, hd⟩
  case heartbeats =>
    intro s
    refine ⟨fun hp hne hst ht hh => ⟨_, exec_heartbeatTimer, ?_⟩, fun hno => ⟨_, exec_heartbeatTimer, if_pos ?_⟩⟩
    · rw [if_neg (by simp [hp, hne, hst, ht])]
      obtain ⟨o, sd, hsend⟩ := ({ s with hbSent := s.tb } : State).send_only (ctrlPacket 0x15 s.pkg 0 s.hmStby 0 (BitVec.ofNat 64 s.hmGrp) [])
      refine ⟨by rw [hsend], by rw [hsend], by rw [hsend], _, State.send_reachable { s with hbSent := s.tb } _ hh, rfl, rfl, rfl⟩
    · rcases hno with hno | hno | hno | hno <;> simp [hno]
  case heartbeat => exact fun s x p h => ⟨_, congrArg Host.Outcome.next (State.receive_got h _), rfl⟩
  case takeover =>
    intro s
    refine ⟨fun hp hne hst ht => ⟨_, exec_takeoverTimeout s, ?_⟩, fun hno => ⟨_, exec_takeoverTimeout s, if_pos ?_⟩⟩
    · rw [if_neg (by simp [hp, hne, hst, ht])]
      obtain ⟨⟨o, sd, htold⟩, hsent⟩ := s.takeoverTold_spec
      rw [htold] at hsent ⊢
      obtain ⟨h1, h2, h3, h4, h5, h6, h7, h8⟩ := ({ s with out := o, selfDue := sd, hbSent := s.tb } : State).takeOver_spec s.hmPrim
      exact ⟨h1, h2, h3, h4, h6, h7, h8, fun k hk hh => by rw [h5]; exact hsent k hk hh⟩
    · rcases hno with hno | hno | hno | hno <;> simp [hno]
  case follow =>
    intro s x p h old
    obtain ⟨h1, h2, h3, -, -, h6, h7, h8⟩ := x.takeOver_spec x.hmPrim
    refine ⟨fun hg => ⟨_, congrArg Host.Outcome.next ((State.receive_got h _).trans (if_pos hg)), ?_⟩,
      fun hg => ⟨_, congrArg Host.Outcome.next ((State.receive_got h _).trans (if_neg hg)), ?_⟩⟩
    · obtain ⟨k1, k2, k3, k4, k5, -⟩ := (x.takeOver x.hmPrim).cancelHm_keeps old
      refine ⟨k1.trans h1, k2.trans h2, k3.trans h3, fun r hr => h6 r (k4 ▸ hr), fun r hr => h7 r (k5 ▸ hr), h8.cancelHm⟩
    · exact ⟨x.cancelHm_cleared old, x.cancelHm_keeps old⟩

end Sys2Proof.Machine
end
section
/-!
What a word that reads memory leaves (R144, R161, R235, R244, R361): TLBs, data caches, die copies and packets may change, and nothing
of the registers, of the bookings, of the booking units, or of memory.
-/

namespace Sys2Proof.Machine

/-- A state differs from another at most by what reads change: of a core its TLB and data cache, of a die its TLB, its copies and the
writes it has read, and what is in flight. -/
structure State.OnlyRead (s t : State) : Prop where
  mem : t.mem = s.mem
  tb : t.tb = s.tb
  focusCore : t.focusCore = s.focusCore
  focusFw : t.focusFw = s.focusFw
  core : ∀ k, t.core k = { s.core k with dcache := (t.core k).dcache, tlb := (t.core k).tlb }
  die : ∀ d, t.die d = { s.die d with copies := (t.die d).copies, tlb := (t.die d).tlb, seen := (t.die d).seen }

namespace State.OnlyRead

theorem refl (s : State) : s.OnlyRead s := ⟨rfl, rfl, rfl, rfl, fun _ => rfl, fun _ => rfl⟩

theorem trans {s t u : State} (h : s.OnlyRead t) (g : t.OnlyRead u) : s.OnlyRead u where
  mem := g.mem.trans h.mem
  tb := g.tb.trans h.tb
  focusCore := g.focusCore.trans h.focusCore
  focusFw := g.focusFw.trans h.focusFw
  core k := by have hg := g.core k; rw [h.core k] at hg; exact hg
  die d := by have hg := g.die d; rw [h.die d] at hg; exact hg

/-- Things in flight, packets and tags are not looked at. -/
theorem of_flights (s : State) (fl : FMap (Option Flight)) (n : Nat) (o : List Packet) (sd : List (Packet × Nat)) :
    s.OnlyRead { s with flights := fl, nextTag := n, out := o, selfDue := sd } := ⟨rfl, rfl, rfl, rfl, fun _ => rfl, fun _ => rfl⟩

theorem setCore {s : State} {k : Nat} {c : Core} (h : c = { s.core k with dcache := c.dcache, tlb := c.tlb }) : s.OnlyRead (s.setCore k c) where
  mem := rfl
  tb := rfl
  focusCore := rfl
  focusFw := rfl
  core j := by
    rw [State.core_setCore]
    split
    · next e => subst e; exact h
    · rfl
  die _ := rfl

theorem setDie {s : State} {d : Nat} {x : Die} (h : x = { s.die d with copies := x.copies, tlb := x.tlb, seen := x.seen }) :
    s.OnlyRead (s.setDie d x) where
  mem := rfl
  tb := rfl
  focusCore := rfl
  focusFw := rfl
  core _ := rfl
  die j := by
    rw [State.die_setDie]
    split
    · next e => subst e; exact h
    · rfl

theorem ctx {s t : State} (h : s.OnlyRead t) (k : Nat) (fw : Bool) : t.ctx k fw = s.ctx k fw := by
  unfold State.ctx; rw [h.core k]; rfl

theorem cur {s t : State} (h : s.OnlyRead t) : t.cur = s.cur := by
  unfold State.cur; rw [h.focusCore, h.focusFw, h.ctx]

theorem curCore {s t : State} (h : s.OnlyRead t) :
    t.curCore = { s.curCore with dcache := t.curCore.dcache, tlb := t.curCore.tlb } := by
  unfold State.curCore; rw [h.focusCore]; exact h.core _

theorem berth {s t : State} (h : s.OnlyRead t) : t.berth = s.berth := by unfold State.berth; rw [h.tb]

end State.OnlyRead

/-! ### Translation (R238, R241, R244) -/

theorem State.send_onlyRead (s : State) (p : Packet) : s.OnlyRead (s.send p) := by
  obtain ⟨o, sd, h⟩ := s.send_only p
  rw [h]; exact .of_flights ..

theorem State.addFlight_onlyRead (s : State) (f : Flight) : s.OnlyRead (s.addFlight f).1 := .of_flights ..

theorem State.tableRead_onlyRead (s : State) (k va pa : Nat) : s.OnlyRead (s.tableRead k va pa).1 := by
  unfold State.tableRead
  split
  · exact .refl s
  · dsimp only
    split
    · exact .refl s
    · exact (s.addFlight_onlyRead _).trans (State.send_onlyRead ..)

theorem State.walk_onlyRead (s : State) (k t va : Nat) (ls : List (Nat × Nat × Nat × Bool)) : s.OnlyRead (s.walk k t va ls).1 := by
  induction ls generalizing s t with
  | nil => exact .refl s
  | cons l ls ih =>
    obtain ⟨lo, w, next, leafOk⟩ := l
    have h := s.tableRead_onlyRead k va (t + 8 * (va / 2 ^ lo % 2 ^ w))
    unfold State.walk
    dsimp only
    split
    · next e => rw [e] at h; exact h
    · next e => rw [e] at h; exact h
    · next e =>
      rw [e] at h
      split
      · exact h
      · split
        · exact h
        · exact h.trans (ih _ _)

theorem State.leaf_onlyRead (s : State) (k : Nat) (va : VAddr) : s.OnlyRead (s.leaf k va).1 := by
  have h := s.walk_onlyRead k ((s.core k).root * 65536) va.toNat walkLevels
  unfold State.leaf
  dsimp only
  split
  · exact .refl s
  · split
    · next e => rw [e] at h; exact h
    · next e => rw [e] at h; exact h.trans (.of_flights ..)

theorem State.fillTlb_onlyRead (s : State) (k : Nat) (va : VAddr) (lo : Nat) (e : W64) (at_ : Nat) : s.OnlyRead (s.fillTlb k va lo e at_) := by
  unfold State.fillTlb
  dsimp only
  split
  · exact .refl s
  · split
    · exact .setCore rfl
    · exact (State.OnlyRead.setCore rfl).trans (.setDie rfl)

theorem State.translate_onlyRead (s : State) (k : Nat) (fw : Bool) (a : Acc) (va : VAddr) : s.OnlyRead (s.translate k fw a va).1 := by
  have h := s.leaf_onlyRead k va
  unfold State.translate
  split
  · exact .refl s
  · split
    · next e => rw [e] at h; exact h
    · next e => rw [e] at h; exact h
    · next e =>
      rw [e] at h
      split
      · exact h
      · exact h.trans (State.fillTlb_onlyRead ..)

/-! ### Reads of memory (R144, R161, R361) -/

theorem State.noteSeen_onlyRead (s : State) (d line : Nat) : s.OnlyRead (s.noteSeen d line) := by
  unfold State.noteSeen
  dsimp only
  split
  · exact .refl s
  · exact .setDie rfl

theorem State.readLine_onlyRead (s : State) (k : Nat) (g : Agent) (key n : Nat) : s.OnlyRead (s.readLine k g key n).1 := by
  unfold State.readLine
  dsimp only
  split
  · exact State.noteSeen_onlyRead ..
  · split
    · exact .refl s
    · exact (State.noteSeen_onlyRead ..).trans (.setDie rfl)

theorem State.readVia_onlyRead (s : State) (k : Nat) (g : Agent) (fuel key n : Nat) : s.OnlyRead (s.readVia k g fuel key n).1 := by
  induction fuel generalizing s key n with
  | zero => exact .refl s
  | succ fuel ih =>
    unfold State.readVia
    split
    · exact .refl s
    · exact (State.readLine_onlyRead ..).trans (ih ..)

theorem State.readPlace_onlyRead {s t : State} {k : Nat} {fw : Bool} {va : VAddr} {n : Nat} {p : Place} {bs : List Byte}
    (h : s.readPlace k fw va n p = .ok t bs) : s.OnlyRead t := by
  have hsame {t : State} {cs : List Byte} (h : Rd.ok s cs = .ok t bs) : s.OnlyRead t := by
    injection h with h; subst h; exact .refl s
  have hfail {f : Rd} {t : State} (he : f = .ok t bs) (hf : ∀ t, f ≠ .ok t bs) : s.OnlyRead t := absurd he (hf t)
  unfold State.readPlace State.eccRead at h
  split at h
  · exact hfail h (by simp)
  · split at h
    · dsimp only at h
      split at h
      · split at h
        · exact hfail h (by simp)
        · split at h
          · exact hfail h (by simp)
          · split at h
            · exact hfail h (by simp)
            · exact hsame h
      · split at h
        · exact hfail h (by simp)
        · split at h
          · exact hfail h (by simp)
          · exact hsame h
    · split at h
      · exact hfail h (by simp)
      · injection h with h
        subst h
        exact (State.readVia_onlyRead ..).trans (.setCore rfl)
    · dsimp only at h
      split at h
      · split at h
        · exact hfail h (by simp)
        · exact hfail h (by simp)
      · split at h
        · split at h
          · exact hsame h
          · split at h
            · exact hfail h (by simp)
            · split at h
              · exact hfail h (by simp)
              · split at h
                · exact hfail h (by simp)
                · exact hfail h (by simp)
        · exact hfail h (by simp)

theorem State.readVa_onlyRead {s t : State} {k : Nat} {fw : Bool} {va : VAddr} {n : Nat} {bs : List Byte}
    (h : s.readVa k fw va n = .ok t bs) : s.OnlyRead t := by
  have ht := s.translate_onlyRead k fw .load va
  unfold State.readVa at h
  split at h
  · exact absurd h (by simp)
  · exact absurd h (by simp)
  · exact absurd h (by simp)
  · next e => rw [e] at ht; exact ht.trans (State.readPlace_onlyRead h)

theorem State.readGranules_onlyRead {s t : State} {k : Nat} {fw : Bool} {va : VAddr} {m : Nat} {bs : List Byte}
    (h : s.readGranules k fw va m = .ok t bs) : s.OnlyRead t := by
  induction m generalizing s va bs with
  | zero =>
    rw [State.readGranules] at h
    injection h with h
    subst h
    exact .refl s
  | succ m ih =>
    rw [State.readGranules] at h
    split at h
    · next u cs hu =>
      split at h
      · next v ds hv =>
        injection h with h
        subst h
        exact (State.readVa_onlyRead hu).trans (ih hv)
      · next hno => exact absurd h (hno t bs)
    · next hno => exact absurd h (hno t bs)

/-- Reading a descriptor changes only what reads change (R279). -/
theorem State.Desc.onlyRead {s t : State} {va : VAddr} {n : Nat} {bs : List Byte} (h : s.Desc va n bs t) : s.OnlyRead t :=
  State.readGranules_onlyRead h.2.2

end Sys2Proof.Machine
end
section
/-!
The booking words (R78, R79, R81 to R83, R88): a new entry of the table, the request that reaches the booking unit, and the words that
read or end a booking.
-/

namespace Sys2Proof.Machine

/-! ### A new entry (R78) -/

/-- The entry that a new booking takes. -/
def Core.entryOf (c : Core) (b : Booking) : Booking := { b with order := c.bookOrder }

/-- A new booking is the one that its identifier names. -/
theorem Core.booking_addBooking (c : Core) (b : Booking) : (c.addBooking b).booking b.id = some (c.entryOf b) := by
  unfold Core.booking Core.addBooking
  dsimp only
  rw [List.reverse_append, List.reverse_singleton]
  exact List.find?_cons_of_pos (by simp)

theorem Core.addBooking_ctx (c : Core) (b : Booking) (fw : Bool) : (c.addBooking b).ctx fw = c.ctx fw := by cases fw <;> rfl

theorem State.curCore_setCur (s : State) (x : Ctx) : (s.setCur x).curCore = s.curCore.setCtx s.focusFw x := State.core_setCore_self ..

theorem State.curCore_setCurCore (s : State) (c : Core) : (s.setCurCore c).curCore = c := State.core_setCore_self ..

theorem State.cur_addBooking (s : State) (b : Booking) : (s.setCurCore (s.curCore.addBooking b)).cur = s.cur := by
  show (s.setCurCore (s.curCore.addBooking b)).curCore.ctx s.focusFw = _
  rw [State.curCore_setCurCore, Core.addBooking_ctx]; rfl

/-- A word that reads descriptors goes on (R279). -/
def State.retireReads (s : State) : State := s.retire.dropReads

theorem State.retireReads_cur (s : State) : s.retireReads.cur = s.cur.advance := State.cur_setCur ..

theorem State.retireReads_curCore (s : State) : s.retireReads.curCore = s.curCore.setCtx s.focusFw s.cur.advance := State.curCore_setCur ..

/-- The state in which a booking has been entered and the destination of its word is set. -/
def State.entering (t : State) (b : Booking) (x : Ctx) : State := (t.setCurCore (t.curCore.addBooking b)).setCur x

theorem State.entering_cur (t : State) (b : Booking) (x : Ctx) : (t.entering b x).retireReads.cur = x.advance := by
  rw [State.retireReads_cur]; unfold State.entering; rw [State.cur_setCur]

/-- What a word that enters a booking leaves of the table and of memory. -/
theorem State.entering_table (t : State) (b : Booking) (x : Ctx) :
    (t.entering b x).retireReads.curCore.booking b.id = some (t.curCore.entryOf b)
      ∧ (t.entering b x).retireReads.curCore.idCtr = (b.id + 1) % 4096 ∧ (t.entering b x).retireReads.mem = t.mem := by
  refine ⟨?_, ?_, rfl⟩
  · rw [State.retireReads_curCore]
    unfold State.entering
    rw [Core.booking_setCtx, State.curCore_setCur, Core.booking_setCtx, State.curCore_setCurCore, Core.booking_addBooking]
  · rw [State.retireReads_curCore]
    unfold State.entering
    rw [Core.setCtx_idCtr, State.curCore_setCur, Core.setCtx_idCtr, State.curCore_setCurCore]; rfl

/-! ### The request (R81, R88) -/

/-- The booking that a request makes. -/
def State.newRequest (t : State) (d : Reg) (first : Nat) (us : Option (List BUse)) : Booking :=
  { newBooking t.curCore.nextId t.berth first (us.getD []) (some (t.focusFw, d)) with next := t.tb }

section Request

variable {t : State} (d : Reg) (first : Nat) (us : Option (List BUse))

theorem State.request_full (h : t.curCore.bookingsFull = true) : t.request d first us = t.setCur (t.cur.setS d tableFull) := if_pos h

variable (h : t.curCore.bookingsFull = false)

include h

theorem State.request_stopped (hf : (t.die (dieOf t.focusCore)).failstop = true) :
    let b : Booking := { t.newRequest d first us with status := .fatal, sub := 1, dest := none }
    t.request d first us = t.entering b (t.cur.setS d b.word) := by
  intro b
  rw [← State.cur_addBooking t b]
  unfold State.request
  dsimp only
  rw [if_neg (by simp [h]), if_pos hf]
  rfl

variable (hf : (t.die (dieOf t.focusCore)).failstop = false)

include hf

theorem State.request_refused (hu : us = none ∨ 8191 < first) :
    let b : Booking := { t.newRequest d first us with status := .refused, sub := 2, dest := none }
    t.request d first us = t.entering b (t.cur.setS d b.word) := by
  intro b
  rw [← State.cur_addBooking t b]
  unfold State.request
  dsimp only
  rw [if_neg (by simp [h]), if_neg (by simp [hf]), if_pos (by simpa using hu)]
  rfl

theorem State.request_entered {vs : List BUse} (hu : us = some vs) (hn : first ≤ 8191) :
    t.request d first us = t.entering (t.newRequest d first us) (t.cur.setFE d .pending) := by
  rw [← State.cur_addBooking t (t.newRequest d first us)]
  unfold State.request
  dsimp only
  rw [if_neg (by simp [h]), if_neg (by simp [hf]), if_neg (by simp [hu, hn])]
  rfl

end Request

/-- A word that reads a descriptor keeps none of it, once it has gone on. -/
theorem State.retire_keepDesc (s : State) (va : VAddr) (bs : List Byte) : (Res.ok s.retire).keepDesc va bs = .ok s.retire := by
  refine Res.keepDesc_eq ?_ va bs
  unfold State.retire
  rw [State.cur_setCur, (Ctx.advance_moved s.cur).2.2]
  simp

/-- A request of a descriptor of a number of uses that is not valid (R60). -/
theorem exec_bkReq_badCount {s t : State} {d : Reg} {a : AReg} {hd : List Byte} (hm : s.MayUseCore) (ht : s.Takes d)
    (h1 : s.Desc (s.cur.getA a) 16 hd t) (hn : ¬(1 ≤ field hd 0 1 ∧ field hd 0 1 ≤ 16)) :
    exec (.bkReq d a) s = .next (t.request d (field hd 4 3) none).retireReads := by
  show execBkReq d a s = _
  unfold execBkReq
  rw [coreState_may hm, waitDest_takes ht]
  dsimp only
  rw [if_neg (by simp [h1.2.1]), readDesc_desc h1, if_pos (by simp only [Bool.or_eq_true, decide_eq_true_eq]; omega)]
  rw [show (Res.ok ((t.request d (field hd 4 3) none).setCur (t.request d (field hd 4 3) none).cur.advance))
    = Res.ok (t.request d (field hd 4 3) none).retire from rfl, State.retire_keepDesc]
  rfl

/-- A request of a descriptor of uses (R81). -/
theorem exec_bkReq_uses {s t u : State} {d : Reg} {a : AReg} {hd bs : List Byte} (hm : s.MayUseCore) (ht : s.Takes d)
    (h1 : s.Desc (s.cur.getA a) 16 hd t) (hn : 1 ≤ field hd 0 1 ∧ field hd 0 1 ≤ 16)
    (h2 : t.Desc (s.cur.getA a + 16) (16 * field hd 0 1) bs u) :
    exec (.bkReq d a) s = .next (u.request d (field hd 4 3) (usesOf bs (field hd 0 1))).retireReads := by
  show execBkReq d a s = _
  unfold execBkReq
  rw [coreState_may hm, waitDest_takes ht]
  dsimp only
  rw [if_neg (by simp [h1.2.1]), readDesc_desc h1, if_neg (by simp only [Bool.or_eq_true, decide_eq_true_eq]; omega), readDesc_desc h2]
  rw [show (Res.ok ((u.request d (field hd 4 3) (usesOf bs (field hd 0 1))).setCur (u.request d (field hd 4 3) (usesOf bs (field hd 0 1))).cur.advance))
    = Res.ok (u.request d (field hd 4 3) (usesOf bs (field hd 0 1))).retire from rfl, State.retire_keepDesc, State.retire_keepDesc]
  rfl

/-! ### The words that read and end a booking (R82, R83) -/

section Word

variable {s : State} {d a : Reg} {v : W64} (fa : Bool) (hm : s.MayUseCore) (hr : s.Reads a v) (ht : s.Takes d)

include hm hr ht

theorem exec_bkStat : exec (.bkStat d a fa) s = (writeS s d (s.curCore.bookWord (nbits v.toNat 51 40))).out := by
  show execBkStat d a fa s = _
  unfold execBkStat
  rw [coreState_may hm, readSrc_reads hr, waitDest_takes ht]

theorem exec_bkCancel_over (h : ∀ b, s.curCore.booking (nbits v.toNat 51 40) = some b → b.live = false) :
    exec (.bkCancel d a fa) s = (writeS s d (s.curCore.bookWord (nbits v.toNat 51 40))).out := by
  show execBkCancel d a fa s = _
  unfold execBkCancel
  rw [coreState_may hm, readSrc_reads hr, waitDest_takes ht]
  dsimp only
  split
  · next b hb => rw [h b hb]; rfl
  · rfl

theorem exec_bkCancel_live {b : Booking} (hb : s.curCore.booking (nbits v.toNat 51 40) = some b) (hl : b.live = true) :
    exec (.bkCancel d a fa) s = (writeS (s.endBooking s.focusCore b .cancelled 0) d
      ((s.endBooking s.focusCore b .cancelled 0).curCore.bookWord (nbits v.toNat 51 40))).out := by
  show execBkCancel d a fa s = _
  unfold execBkCancel
  rw [coreState_may hm, readSrc_reads hr, waitDest_takes ht]
  dsimp only
  split
  · next b' hb' => obtain rfl : b = b' := Option.some.inj (hb.symm.trans hb'); rw [hl]; rfl
  · next hn => exact absurd (hb.symm.trans hn) (by simp)

end Word

/-- Ending a booking keeps which context executes. -/
theorem State.endBooking_focus (s : State) (k : Nat) (b : Booking) (st : BookStatus) (sub : Nat) :
    (s.endBooking k b st sub).focusCore = s.focusCore ∧ (s.endBooking k b st sub).focusFw = s.focusFw
      ∧ (s.endBooking k b st sub).mem = s.mem := by
  obtain ⟨⟨_, _, _, _, _, _, _, _, h⟩, -⟩ := s.endBooking_booked k b st sub
  rw [h]; exact ⟨rfl, rfl, rfl⟩

/-- The word of a cancelled booking (R79). -/
theorem Booking.word_cancelled (b : Booking) : ({ b.ends .cancelled 0 with dest := none } : Booking).word
    = BitVec.ofNat 64 (3 * 2 ^ 60 + b.id * 2 ^ 40) := by
  rw [Booking.ends_cancelled]
  unfold Booking.word BookStatus.code
  dsimp only
  rw [Nat.zero_mul, Nat.add_zero, Nat.add_zero]

/-- A register that is PENDING after the word has gone on. -/
theorem Ctx.setFE_advance_awaits (c : Ctx) (d : Reg) : c.Awaits (c.setFE d .pending).advance d := by
  have hkeeps : c.KeepsS (c.setFE d .pending) [d] := fun q hq => by
    refine ⟨Ctx.getS_setFE .., ?_, Ctx.getMark_setFE ..⟩
    have hn : ¬d.toNat = q.toNat := Ne.symm (Reg.toNat_ne (by simpa using hq))
    unfold Ctx.getFE Ctx.setFE
    by_cases h : d = 0#6
    · simp [h]
    · simp [h, FMap.get_put, hn]
  refine ⟨(Ctx.advance_moved _).of_same (by simp) (by simp), ?_, hkeeps.trans (Ctx.advance_keepsS _ _), fun q _ => ?_, fun q _ => ?_⟩
  · rw [((c.setFE d .pending).advance_keepsS [] d (by simp)).2.1]; exact Ctx.getFE_setFE ..
  · simp [Ctx.getA]
  · simp [Ctx.getP]

/-! ### The statement -/

section Booked

variable {s t : State} (h : s.OnlyRead t)

include h

theorem State.OnlyRead.bookingsFull : t.curCore.bookingsFull = s.curCore.bookingsFull := by rw [h.curCore]; rfl

theorem State.OnlyRead.nextId : t.curCore.nextId = s.curCore.nextId := by rw [h.curCore]; rfl

theorem State.OnlyRead.failstop : (t.die (dieOf t.focusCore)).failstop = (s.die (dieOf s.focusCore)).failstop := by
  rw [h.focusCore, h.die]

/-- What a request leaves, in each of its four ends, after the reads of its descriptor. -/
theorem State.OnlyRead.request_spec {u : State} (d : Reg) (first : Nat) (us : Option (List BUse)) (hu : u = (t.request d first us).retireReads) :
    let entered (b : Booking) (t : State) : Prop :=
      t.curCore.booking b.id = some b ∧ b.id = s.curCore.nextId ∧ b.breq = s.berth ∧ t.curCore.idCtr = (b.id + 1) % 4096 ∧ t.mem = s.mem
    (s.curCore.bookingsFull = true → s.cur.Took u.cur d tableFull ∧ u.curCore.books = s.curCore.books)
    ∧ (s.curCore.bookingsFull = false → (s.die (dieOf s.focusCore)).failstop = true →
        ∃ b, entered b u ∧ b.status = .fatal ∧ b.sub = 1 ∧ s.cur.Took u.cur d b.word)
    ∧ (s.curCore.bookingsFull = false → (s.die (dieOf s.focusCore)).failstop = false →
        ((us = none ∨ 8191 < first) → ∃ b, entered b u ∧ b.status = .refused ∧ b.sub = 2 ∧ s.cur.Took u.cur d b.word)
        ∧ (∀ vs, us = some vs → first ≤ 8191 → ∃ b, entered b u ∧ b.status = .held ∧ b.notBefore = first ∧ b.round = none
            ∧ b.uses = vs.map (fun u => { u with floor := s.berth + first }) ∧ s.cur.Awaits u.cur d)) := by
  intro entered
  subst hu
  have hentered (b : Booking) (x : Ctx) (hid : b.id = t.curCore.nextId) (hq : b.breq = t.berth) :
      entered (t.curCore.entryOf b) (t.entering b x).retireReads := by
    obtain ⟨hb, hc, hm⟩ := t.entering_table b x
    exact ⟨hb, hid.trans h.nextId, hq.trans h.berth, hc, hm.trans h.mem⟩
  rw [← h.bookingsFull, ← h.failstop, ← h.cur]
  refine ⟨fun hfull => ?_, fun hfree hf => ?_, fun hfree hf => ⟨fun hu => ?_, fun vs hu hn => ?_⟩⟩
  · rw [State.request_full d first us hfull]
    refine ⟨?_, ?_⟩
    · rw [State.retireReads_cur, State.cur_setCur]; exact Ctx.setS_advance_took ..
    · rw [State.retireReads_curCore, Core.setCtx_books, State.curCore_setCur, Core.setCtx_books, h.curCore]
  · rw [State.request_stopped d first us hfree hf]
    refine ⟨_, hentered _ _ rfl rfl, rfl, rfl, ?_⟩
    rw [State.entering_cur]; exact Ctx.setS_advance_took ..
  · rw [State.request_refused d first us hfree hf hu]
    refine ⟨_, hentered _ _ rfl rfl, rfl, rfl, ?_⟩
    rw [State.entering_cur]; exact Ctx.setS_advance_took ..
  · rw [State.request_entered d first us hfree hf hu hn]
    refine ⟨_, hentered _ _ rfl rfl, rfl, rfl, rfl, ?_, ?_⟩
    · rw [hu, ← h.berth]; rfl
    · rw [State.entering_cur]; exact Ctx.setFE_advance_awaits ..

end Booked

/-- Settles O20: a request reads its descriptor, which changes nothing that it judges, and ends in one of four ways; `bk.stat` and
`bk.cancel` write the word of the booking as it then stands. -/
theorem bookingWords : Obligations.BookingWords := by
  unfold Obligations.BookingWords
  refine ⟨?request, ?words⟩
  case request =>
    intro s s1 s2 d a hd bs va n hm ht h1 h2 first us entered
    have hends : ∃ t, s.OnlyRead t ∧ exec (.bkReq d a) s = .next (t.request d first us).retireReads := by
      by_cases hn : 1 ≤ n ∧ n ≤ 16
      · have hd2 := h2 hn.1 hn.2
        refine ⟨s2, h1.onlyRead.trans hd2.onlyRead, ?_⟩
        rw [show us = usesOf bs n from if_pos hn]
        exact exec_bkReq_uses hm ht h1 hn hd2
      · refine ⟨s1, h1.onlyRead, ?_⟩
        rw [show us = none from if_neg hn]
        exact exec_bkReq_badCount hm ht h1 hn
    obtain ⟨t, hread, hex⟩ := hends
    obtain ⟨hfull, hstopped, hgoes⟩ := hread.request_spec d first us rfl
    exact ⟨fun hf => ⟨_, hex, hfull hf⟩, fun hf hs => ⟨_, hex, hstopped hf hs⟩, fun hf hs =>
      ⟨fun hu => ⟨_, hex, (hgoes hf hs).1 hu⟩, fun vs hu hn => ⟨_, hex, (hgoes hf hs).2 vs hu hn⟩⟩⟩
  case words =>
    intro s d a fa v hm hr ht id
    refine ⟨fun hno => ?none, fun b hb => ⟨?stat, fun hl => ?ended, fun hl hd => ?live, fun r hl hd hne => ?waited⟩⟩
    case none =>
      have hw : s.curCore.bookWord id = BitVec.ofNat 64 (7 * 2 ^ 60 + id * 2 ^ 40) := by unfold Core.bookWord; rw [hno]; rfl
      refine ⟨?_, ?_⟩
      · rw [← hw]; unfold State.Ends; rw [exec_bkStat fa hm hr ht]; exact writeS_wrote ..
      · rw [← hw]; unfold State.Ends; rw [exec_bkCancel_over fa hm hr ht fun b hb => absurd (hno.symm.trans hb) (by simp)]; exact writeS_wrote ..
    case stat =>
      have hw : s.curCore.bookWord id = b.word := by unfold Core.bookWord; rw [hb]
      rw [← hw]; unfold State.Ends; rw [exec_bkStat fa hm hr ht]; exact writeS_wrote ..
    case ended =>
      have hw : s.curCore.bookWord id = b.word := by unfold Core.bookWord; rw [hb]
      have hall (y : Booking) (hy : s.curCore.booking id = some y) : y.live = false := by
        obtain rfl : b = y := Option.some.inj (hb.symm.trans hy); exact hl
      rw [← hw]; unfold State.Ends; rw [exec_bkCancel_over fa hm hr ht hall]; exact writeS_wrote ..
    all_goals
      obtain ⟨hfc, hff, hmem⟩ := s.endBooking_focus s.focusCore b .cancelled 0
      have hbid : b.id = id := Core.booking_id hb
      have hbook : (s.endBooking s.focusCore b .cancelled 0).curCore.booking id = some { b.ends .cancelled 0 with dest := none } := by
        unfold State.curCore; rw [hfc]; exact State.endBooking_booking hb rfl rfl .cancelled 0
      have hw : (s.endBooking s.focusCore b .cancelled 0).curCore.bookWord id = BitVec.ofNat 64 (3 * 2 ^ 60 + id * 2 ^ 40) := by
        unfold Core.bookWord; rw [hbook, ← hbid]; exact b.word_cancelled
    case live =>
      have hcur : (s.endBooking s.focusCore b .cancelled 0).cur = s.cur := by
        unfold State.cur; rw [hfc, hff]; exact State.endBooking_silent_ctx hd ..
      refine ⟨_, (exec_bkCancel_live fa hm hr ht hb hl).trans rfl, ?_, ?_, hmem⟩
      · refine ⟨{ b.ends .cancelled 0 with dest := none }, ?_, by rw [Booking.ends_cancelled], by rw [Booking.ends_cancelled]⟩
        rw [State.curCore_setCur, Core.booking_setCtx]; exact hbook
      · rw [State.cur_setCur, hw, hcur]; exact Ctx.setS_advance_took ..
    case waited =>
      let w : W64 := BitVec.ofNat 64 (3 * 2 ^ 60 + id * 2 ^ 40)
      have hcur : (s.endBooking s.focusCore b .cancelled 0).cur = s.cur.deliver r w none := by
        unfold State.cur
        rw [hfc, hff, State.endBooking_ctx hd]
        exact congrArg (fun x => Ctx.deliver s.cur r x none) (b.word_cancelled.trans (by rw [hbid]))
      refine ⟨_, (exec_bkCancel_live fa hm hr ht hb hl).trans rfl, ?_⟩
      dsimp only
      rw [State.cur_setCur, hw, hcur]
      obtain ⟨hmoved, hholds, hkeeps, -, -⟩ := (s.cur.deliver r w none).setS_advance_took d w
      refine ⟨hmoved.of_same (by simp [Ctx.deliver]) (by simp [Ctx.deliver]), hholds, ?_, fun q hq => ?_⟩
      · obtain ⟨h1, h2, h3⟩ := hkeeps r (by simpa using hne)
        unfold Ctx.Holds
        rw [h1, h2, h3]
        exact Ctx.deliver_holds ..
      · obtain ⟨hqd, hqr⟩ : q ≠ d ∧ q ≠ r := by simpa using hq
        obtain ⟨h1, h2, h3⟩ := hkeeps q (by simpa using hqd)
        rw [h1, h2, h3]
        exact s.cur.deliver_keepsS r w none q (by simpa using hqr)

end Sys2Proof.Machine
end
section
/-!
What the parts of a tick of a demand leave (R188, R298, R305, R308): the contexts where casks, pages and things in flight change, the
tiles that are pinned, and the trap of a word whose demand fails.
-/

namespace Sys2Proof

/-- What of an entry a replacement by key keeps. -/
theorem FMap.get_map_keeps {α β : Type} (g : α → β) (f : Nat → α → α) (hf : ∀ i v, g (f i v) = g v) (d : α) (m : FMap α) (k : Nat) :
    g (FMap.get d (m.map fun p => (p.1, f p.1 p.2)) k) = g (FMap.get d m k) := by
  induction m with
  | nil => rfl
  | cons p m ih =>
    obtain ⟨i, w⟩ := p
    rw [List.map_cons, FMap.get, FMap.get]
    split
    · exact hf i w
    · exact ih

namespace Machine

/-! ### Contexts that stay as they are -/

/-- Every context of every core is as it was. -/
def State.SameCtx (s t : State) : Prop := ∀ k fw, t.ctx k fw = s.ctx k fw

theorem State.SameCtx.refl (s : State) : s.SameCtx s := fun _ _ => rfl

theorem State.SameCtx.trans {s t u : State} (h : s.SameCtx t) (g : t.SameCtx u) : s.SameCtx u := fun k fw => (g k fw).trans (h k fw)

theorem State.sameCtx_of_cores {s t : State} (h : t.cores = s.cores) : s.SameCtx t := fun k fw =>
  congrArg (fun c => Core.ctx c fw) (State.core_of_cores h k)

theorem State.sameCtx_setCore {s : State} {k : Nat} {c : Core} (h : ∀ fw, c.ctx fw = (s.core k).ctx fw) : s.SameCtx (s.setCore k c) := by
  intro j fw
  unfold State.ctx
  rw [State.core_setCore]
  split
  · next e => subst e; exact h fw
  · rfl

theorem State.OnlyRead.sameCtx {s t : State} (h : s.OnlyRead t) : s.SameCtx t := h.ctx

theorem State.AddsNoWrite.sameCtx {s t : State} (h : s.AddsNoWrite t) : s.SameCtx t :=
  State.sameCtx_of_cores (by rw [h.1])

/-! ### The swap of pages (R188, R243) -/

theorem State.flipTlbs_sameCtx (s : State) (k : Nat) (sc : Scope) (asn : Nat) (va : VAddr) : s.SameCtx (s.flipTlbs k sc asn va) := fun j fw =>
  FMap.get_map_keeps (fun c => Core.ctx c fw)
    (fun i c => if sameInst i k sc then { c with tlb := c.tlb.map (·.flip asn va) } else c) (fun i c => by split <;> rfl) Core.reset s.cores j

theorem State.homeWrite_sameCtx (s : State) (o : Origin) (of key : Nat) (bs : List Byte) : s.SameCtx (s.homeWrite o of key bs) :=
  (State.sameCtx_of_cores rfl).trans (s.addsNoWrite_homeWrite o of key bs).sameCtx

theorem State.writeEntry_sameCtx (s : State) (k : Nat) (g : Agent) (sc : Scope) (asn : Nat) (va : VAddr) (e : W64) (at_ : Nat) :
    s.SameCtx (s.writeEntry k g sc asn va e at_) := by
  unfold State.writeEntry
  dsimp only
  split
  · next key _ =>
    have hwrite : s.SameCtx ((s.origin k g).1.takeTag.1.homeWrite (s.origin k g).2 (s.origin k g).1.takeTag.2 key (leBytes 8 e.toNat)) :=
      State.SameCtx.trans (t := (s.origin k g).1.takeTag.1) (State.sameCtx_of_cores rfl) (State.homeWrite_sameCtx _ _ _ _ _)
    exact hwrite.trans (State.addsNoWrite_foldl _ (fun s d => s.addsNoWrite_addInval ..) _ _).sameCtx
  · refine .trans (State.sameCtx_setCore (c := (s.core k).addSent (nbits at_ 55 45) (leBytes 8 e.toNat).length) fun fw => ?_)
      (State.sameCtx_of_cores (by rw [State.send_cores]; rfl))
    cases fw <;> rfl

theorem State.pageEntry_onlyRead (s : State) (k : Nat) (va : VAddr) : s.OnlyRead (s.pageEntry k va).1 := by
  unfold State.pageEntry
  split
  · exact .refl s
  · exact State.walk_onlyRead ..

/-- A publication swaps its pages and leaves every context. -/
theorem State.swapPages_sameCtx (s : State) (k : Nat) (g : Agent) (sc : Scope) (vas : List VAddr) : s.SameCtx (s.swapPages k g sc vas) := by
  unfold State.swapPages
  refine .trans ?_ (State.sameCtx_of_cores rfl)
  refine List.foldlRecOn (motive := fun t : State => s.SameCtx t) _ _ (.refl s) fun t ht va _ => ?_
  have hpage := (t.pageEntry_onlyRead k va).sameCtx
  split
  · next u lo e at_ heq =>
    rw [heq] at hpage
    have hwrite : s.SameCtx ((u.flipTlbs k sc (u.core k).asn va).writeEntry k g sc (u.core k).asn va (flipPh e) at_) :=
      ((ht.trans hpage).trans (State.flipTlbs_sameCtx _ _ _ _ _)).trans (State.writeEntry_sameCtx _ _ _ _ _ _ _ _)
    dsimp only
    split
    · exact hwrite.trans (State.sameCtx_of_cores rfl)
    · exact hwrite.trans (State.sameCtx_of_cores rfl)
  · next heq =>
    have heq := congrArg Prod.fst heq
    dsimp only at heq
    rw [heq] at hpage
    exact ht.trans hpage

theorem State.markRelease_only (s : State) (k : Nat) (sc : Scope) : (s.markRelease k sc).cores = s.cores ∧ (s.markRelease k sc).mem = s.mem := by
  unfold State.markRelease
  split <;> exact ⟨rfl, rfl⟩

/-! ### Casks that are marked (R274, R305, R308) -/

/-- A core differs from another at most in its cask table. -/
def Core.OnlyCasks (c d : Core) : Prop := ∃ cs, d = { c with casks := cs }

theorem Core.OnlyCasks.refl (c : Core) : c.OnlyCasks c := ⟨_, rfl⟩

theorem Core.OnlyCasks.trans {c d e : Core} (h : c.OnlyCasks d) (g : d.OnlyCasks e) : c.OnlyCasks e := by
  obtain ⟨_, rfl⟩ := h
  obtain ⟨_, rfl⟩ := g
  exact ⟨_, rfl⟩

theorem Core.OnlyCasks.ctx {c d : Core} (h : c.OnlyCasks d) (fw : Bool) : d.ctx fw = c.ctx fw := by
  obtain ⟨_, rfl⟩ := h; cases fw <;> rfl

theorem Core.onlyCasks_foldl {α : Type} {f : Core → α → Core} (h : ∀ (c : Core) a, c.OnlyCasks (f c a)) (l : List α) (c : Core) :
    c.OnlyCasks (l.foldl f c) :=
  List.foldlRecOn (motive := fun d : Core => c.OnlyCasks d) _ _ (.refl c) fun d hd a _ => hd.trans (h d a)

theorem Core.mapMemo_onlyCasks (c : Core) (e : Nat) (f : List MemoTile → List MemoTile) : c.OnlyCasks (c.mapMemo e f) := by
  unfold Core.mapMemo
  split
  · exact .refl c
  · exact ⟨_, rfl⟩

theorem Core.pinHeld_onlyCasks (c : Core) (pins : List (Nat × List (List Nat))) : c.OnlyCasks (c.pinHeld pins) :=
  Core.onlyCasks_foldl (fun c _ => c.mapMemo_onlyCasks ..) _ c

theorem Core.collect_onlyCasks (c : Core) (fuel e : Nat) : c.OnlyCasks (c.collect fuel e) := by
  induction fuel generalizing c e with
  | zero => exact .refl c
  | succ fuel ih =>
    rw [Core.collect]
    split
    · exact .refl c
    · split
      · exact .refl c
      · exact Core.OnlyCasks.trans ⟨_, rfl⟩ (Core.onlyCasks_foldl (fun c i => ih c i) _ _)

theorem Core.materialise_onlyCasks (c : Core) (e : Nat) : c.OnlyCasks (c.materialise e) := by
  unfold Core.materialise
  split
  · exact .refl c
  · split
    · exact .refl c
    · exact Core.OnlyCasks.trans ⟨_, rfl⟩ (Core.onlyCasks_foldl (fun c i => c.collect_onlyCasks tableSize i) _ _)

theorem Core.settlePins_onlyCasks (c : Core) (d : Demand) : c.OnlyCasks (c.settlePins d) := by
  unfold Core.settlePins
  dsimp only
  split
  · exact (c.pinHeld_onlyCasks _).trans (Core.onlyCasks_foldl (fun c e => (c.pinHeld_onlyCasks _).trans (Core.materialise_onlyCasks ..)) _ _)
  · exact c.pinHeld_onlyCasks _

theorem Core.cask_setCask (c : Core) (e : Nat) (x : Option Cask) : (c.setCask e x).cask e = x := FMap.get_put_self ..

theorem Core.cask_setCask_of_ne (c : Core) {e i : Nat} (x : Option Cask) (h : e ≠ i) : (c.setCask e x).cask i = c.cask i := by
  unfold Core.cask Core.setCask
  dsimp only
  rw [FMap.get_put, if_neg h]

/-- Pinning does not change what an entry is. -/
theorem Core.cask_pinHeld {c : Core} {i : Nat} {y : Cask} (h : c.cask i = some y) (pins : List (Nat × List (List Nat))) :
    ∃ m, (c.pinHeld pins).cask i = some { y with memo := m } := by
  refine List.foldlRecOn (motive := fun d : Core => ∃ m, d.cask i = some { y with memo := m }) _ _ ⟨y.memo, h⟩ fun d ⟨m, hm⟩ p _ => ?_
  unfold Core.mapMemo
  by_cases hp : p.1 = i
  · rw [hp, hm]
    exact ⟨_, Core.cask_setCask ..⟩
  · split
    · exact ⟨m, hm⟩
    · rw [Core.cask_setCask_of_ne _ _ hp]; exact ⟨m, hm⟩

/-- An entry holds a tile. -/
def Core.Holds (c : Core) (e : Nat) (m : MemoTile) : Prop := ∃ z, c.cask e = some z ∧ m ∈ z.memo

/-- One entry's tiles of a set are pinned. -/
def Core.pinOf (c : Core) (p : Nat × List (List Nat)) : Core :=
  c.mapMemo p.1 fun l => l.map fun t => if p.2.contains t.key then { t with pin := true } else t

theorem Core.pinHeld_cons (c : Core) (p : Nat × List (List Nat)) (ps : List (Nat × List (List Nat))) :
    c.pinHeld (p :: ps) = (c.pinOf p).pinHeld ps := rfl

/-- A tile that is held is still held after pinning, pinned where it is one of the set. -/
theorem Core.Holds.pinOf {c : Core} {e : Nat} {m : MemoTile} (h : c.Holds e m) (p : Nat × List (List Nat)) :
    (c.pinOf p).Holds e (if p.1 = e ∧ p.2.contains m.key = true then { m with pin := true } else m) := by
  obtain ⟨z, hz, hm⟩ := h
  unfold Core.pinOf Core.mapMemo
  by_cases hp : p.1 = e
  · subst hp
    rw [hz]
    refine ⟨_, Core.cask_setCask .., List.mem_map.2 ⟨m, hm, ?_⟩⟩
    by_cases hc : p.2.contains m.key = true
    · rw [if_pos hc, if_pos ⟨rfl, hc⟩]
    · rw [if_neg hc, if_neg fun h => hc h.2]
  · rw [if_neg fun h => hp h.1]
    split
    · exact ⟨z, hz, hm⟩
    · exact ⟨z, (Core.cask_setCask_of_ne _ _ hp).trans hz, hm⟩

/-- A pinned tile stays pinned. -/
theorem Core.Holds.pinned {c : Core} {e : Nat} {m : MemoTile} (h : c.Holds e { m with pin := true }) (ps : List (Nat × List (List Nat))) :
    (c.pinHeld ps).Holds e { m with pin := true } := by
  induction ps generalizing c with
  | nil => exact h
  | cons p ps ih =>
    have hp := h.pinOf p
    rw [ite_self] at hp
    exact ih hp

/-- A held tile of a set is pinned with the set (R305). -/
theorem Core.Holds.pinHeld {c : Core} {e : Nat} {m : MemoTile} (h : c.Holds e m) {ps : List (Nat × List (List Nat))}
    {p : Nat × List (List Nat)} (hp : p ∈ ps) (he : p.1 = e) (hk : p.2.contains m.key = true) :
    (c.pinHeld ps).Holds e { m with pin := true } := by
  induction ps generalizing c with
  | nil => cases hp
  | cons q ps ih =>
    rw [Core.pinHeld_cons]
    have hq := h.pinOf q
    obtain rfl | hp := List.mem_cons.1 hp
    · rw [if_pos ⟨he, hk⟩] at hq
      exact hq.pinned ps
    · split at hq
      · exact hq.pinned ps
      · exact ih hq hp

/-- A PENDING entry without sources is MATERIALISED (R308). -/
theorem Core.materialise_alone {c : Core} {i : Nat} {y : Cask} (h : c.cask i = some y) (hst : y.st = .pending) (hsrc : y.src = []) :
    ∃ z, (c.materialise i).cask i = some z ∧ z.st = .materialised ∧ z.depth = 0 := by
  unfold Core.materialise
  rw [h]
  dsimp only
  rw [if_neg (by simp [hst]), hsrc]
  exact ⟨_, Core.cask_setCask .., rfl, rfl⟩

/-! ### A word whose demand fails (R84, R312) -/

theorem Core.leaveDemand_demand {c : Core} {d : Demand} (h : c.demand = some d) : (c.leaveDemand d.fw).demand = none := by
  unfold Core.leaveDemand
  rw [h]
  dsimp only
  rw [if_neg (by simp)]
  split <;> rfl

/-- A demand ends with a trap of its word. -/
def State.demandTrap (s : State) (k : Nat) (fw : Bool) (d : Demand) (t : Trap) : State :=
  ((s.setCore k { s.core k with demand := some d }).dropEngReads (expander k)).takeTrap k fw t

theorem State.demandTrap_spec {s : State} {k : Nat} {fw : Bool} {d : Demand} (h : (s.ctx k fw).CanTrap fw) (t : Trap) :
    (s.ctx k fw).Trapped ((s.demandTrap k fw d t).ctx k fw) t.cause.code t.e0 t.e1 t.e2 t.e3 ∧ (s.demandTrap k fw d t).mem = s.mem
      ∧ (d.fw = fw → ((s.demandTrap k fw d t).core k).demand = none) := by
  let u := (s.setCore k { s.core k with demand := some d }).dropEngReads (expander k)
  have hctx : u.ctx k fw = s.ctx k fw := State.sameCtx_setCore (c := { s.core k with demand := some d }) (fun _ => rfl) k fw
  have hcan : (u.ctx k fw).CanTrap fw := by rw [hctx]; exact h
  have htrap := u.takeTrap_trapped k fw t hcan
  rw [hctx] at htrap
  refine ⟨htrap, (u.takeTrap_mem k fw t hcan).1, fun hfw => ?_⟩
  subst hfw
  have hdem (x : Ctx) : ((u.setCtx k d.fw x).core k).demand = some d := by
    unfold State.setCtx
    rw [State.core_setCore_self, Core.setCtx_demand]
    show ((s.setCore k { s.core k with demand := some d }).core k).demand = _
    rw [State.core_setCore_self]
  show ((u.takeTrap k d.fw t).core k).demand = none
  unfold State.takeTrap
  rw [State.takeTrapAt_handled _ _ _ _ _ _ _ hcan, if_neg (by simp), State.core_setCore_self]
  exact Core.leaveDemand_demand (hdem _)

end Machine
end Sys2Proof
end
section
/-!
A tick of a demand (R84, R294, R298, R300, R301, R308, R312, R313): what each of its steps comes to, and what the step leaves.
-/

namespace Sys2Proof.Machine

/-! ### What a tick makes of a step -/

/-- The state that a step of the demand of a context leaves. -/
def demandEnds (k : Nat) (fw : Bool) : Step1 ⊕ State → State
  | .inr t => t
  | .inl (.on t d) => t.setCore k { t.core k with demand := some d }
  | .inl (.fail t d e cause a) => t.demandTrap k fw d (caskFault (t.core k) e cause a)
  | .inl (.refused t d w j uw) => t.demandTrap k fw d (bookFail w j uw)

/-- A demand goes on with another of the same core. -/
def State.withDemand (t : State) (k : Nat) (d : Demand) : State := t.setCore k { t.core k with demand := some d }

theorem State.withDemand_spec (t : State) (k : Nat) (d : Demand) :
    (t.withDemand k d).core k = { t.core k with demand := some d } ∧ t.SameCtx (t.withDemand k d) :=
  ⟨State.core_setCore_self .., State.sameCtx_setCore (c := { t.core k with demand := some d }) fun _ => rfl⟩

section Tick

variable {s : State} {k : Nat} {d : Demand} (hd : (s.core k).demand = some d)

include hd

theorem exec_demandComplete_idle {fw : Bool} (h : d.fw ≠ fw ∨ (s.core k).stopped = true) : exec (.demandComplete k fw) s = .next s := by
  show execDemandComplete k fw s = _
  unfold execDemandComplete
  simp only [hd]
  exact if_pos (by simpa using h)

variable (hs : (s.core k).stopped = false)

include hs

theorem exec_demandComplete : exec (.demandComplete k d.fw) s = .next (demandEnds k d.fw (s.demandStep k d)) := by
  show execDemandComplete k d.fw s = _
  unfold execDemandComplete
  simp only [hd]
  rw [if_neg (by simp [hs])]
  generalize s.demandStep k d = x
  cases x with
  | inr t => rfl
  | inl x => cases x <;> rfl

end Tick

/-! ### Forced work of a demand (R84, R298, R300, R301) -/

section Force

variable {s : State} {k : Nat} {d : Demand}

/-- A demand that has chains or runs takes a step of its forced work. -/
theorem State.demandStep_forces (h : d.forced = false) {t : State} {e : Demand} {w uw : W64} {j : Nat}
    (hf : s.forceStep k d = .refused t e w j uw) : s.demandStep k d = .inl (.refused t e w j uw) := by
  unfold State.demandStep
  rw [if_neg (by simp [h]), hf]

theorem State.demandStep_goesOn (h : d.forced = false) {t : State} {e : Demand} (hf : s.forceStep k d = .on t e) (he : e.forced = false) :
    s.demandStep k d = .inl (.on t e) := by
  unfold State.demandStep
  rw [if_neg (by simp [h]), hf]
  exact if_neg (by simp [he])

/-- A booking of the forced work has ended without its uses (R84). -/
theorem State.forceStep_failed {b : Booking} (hb : d.runs.findSome? (fun r => ((s.core k).booking r.id).filter Booking.failed) = some b)
    (hf : d.failed = none) :
    s.forceStep k d = .refused (s.setCore k ((s.core k).settlePins d)) d b.word b.endedAt.1 b.endedAt.2 := by
  unfold State.forceStep
  simp only [hb]
  unfold Step1.judge
  simp only [hf]
  rfl

variable {us : List ForcedUse} {rest : List (List ForcedUse)} (hc : d.chains = us :: rest) (hr : d.runs = []) (hf : d.failed = none)

include hc hr

/-- Submitting the first chain of a demand is refused. -/
theorem State.nextChain_refused {t : State} {w : W64} (h : s.submitForced k (d.after - s.berth) (bookingUses us) = .refused t w) :
    s.nextChain k d = .refused t d w 16 0 := by
  unfold State.nextChain
  simp only [hc, hr, h, List.any_nil, Bool.false_eq_true, if_false, List.foldl_nil]

/-- The first chain of a demand is submitted: it is the one that runs. -/
theorem State.nextChain_submits {t : State} {id : Nat} (h : s.submitForced k (d.after - s.berth) (bookingUses us) = .ok t id) :
    s.nextChain k d = .on t { d with chains := rest, runs := [{ id := id, uses := us, todo := us.filterMap (·.tile) }] } := by
  unfold State.nextChain
  simp only [hc, hr, h, List.any_nil, Bool.false_eq_true, if_false, List.foldl_nil, List.nil_append]

include hf

/-- The first chain is refused (R84). -/
theorem State.forceStep_refused {t : State} {w : W64} (h : s.submitForced k (d.after - s.berth) (bookingUses us) = .refused t w) :
    s.forceStep k d = .refused (t.setCore k ((t.core k).settlePins d)) d w 16 0 := by
  unfold State.forceStep
  simp only [hr, List.findSome?_nil, State.nextChain_refused hc hr h]
  unfold Step1.judge
  simp only [hf]
  rfl

/-- The first chain is submitted, and nothing of it begins yet (R300). -/
theorem State.forceStep_submits {t : State} {id : Nat} (h : s.submitForced k (d.after - s.berth) (bookingUses us) = .ok t id) :
    let r : ChainRun := { id := id, uses := us, todo := us.filterMap (·.tile) }
    let e : Demand := { d with chains := rest, runs := [r] }
    (∀ j, t.forcedUse k e r j = .on t e) → t.chainOver k r = false → s.forceStep k d = .on (t.setCore k ((t.core k).settlePins e)) e := by
  intro r e huse hover
  have huses : t.forcedUses k e r = .on t e := by
    unfold State.forcedUses
    refine List.foldlRecOn (motive := fun x : Step1 => x = .on t e) _ _ rfl fun x hx j _ => ?_
    subst hx
    dsimp only
    rw [show (e.runs.find? fun x => x.id = r.id) = some r from List.find?_cons_of_pos (by simp)]
    exact huse j
  have hnone : (e.runs.find? fun r => t.chainOver k r) = none := by
    rw [show e.runs = [r] from rfl, List.find?_cons_of_neg (by simp [hover])]; rfl
  unfold State.forceStep
  simp only [hr, List.findSome?_nil, State.nextChain_submits hc hr h, List.foldl_cons, List.foldl_nil]
  rw [show t.forcedUses k { d with chains := rest, runs := [r] } r = .on t e from huses]
  dsimp only
  rw [hnone]
  unfold Step1.judge
  simp only [show e.failed = none from hf]
  rfl

end Force

/-- A chain that is refused changes at most the booking table of its core. -/
theorem State.submitForced_refused {s t : State} {k n : Nat} {us : List BUse} {w : W64} (h : s.submitForced k n us = .refused t w) :
    t.mem = s.mem := by
  unfold State.submitForced at h
  dsimp only at h
  split at h
  · injection h with h; subst h; rfl
  · split at h
    · injection h with h; subst h; rfl
    · split at h
      · injection h with h; subst h; rfl
      · cases h

/-! ### The work of a demand whose chains are over (R294, R308, R313) -/

section Work

variable {s : State} {k : Nat} {d : Demand} (hc : d.chains = []) (hr : d.runs = [])

include hc hr

theorem State.demandStep_works : s.demandStep k d = s.demandWork k d := by
  unfold State.demandStep Demand.forced
  rw [hc, hr]
  exact if_pos rfl

end Work

/-- What ending a demand leaves: its context goes on. -/
theorem State.demandOver_spec (s : State) (k : Nat) (d : Demand) :
    let u := s.demandOver k d
    (u.core k).demand = none ∧ u.ctx k d.fw = (s.ctx k d.fw).advance ∧ u.mem = s.mem ∧ (u.core k).sram = (s.core k).sram := by
  have hcore (t : State) (c : Core) (x : Ctx) : (((t.setCore k c).dropEngReads (expander k)).setCtx k d.fw x).core k = c.setCtx d.fw x := by
    unfold State.setCtx
    rw [State.core_setCore_self]
    exact congrArg (Core.setCtx · d.fw x) (State.core_setCore_self t k c)
  have hctx (t : State) (c : Core) : ((t.setCore k c).dropEngReads (expander k)).ctx k d.fw = c.ctx d.fw :=
    congrArg (Core.ctx · d.fw) (State.core_setCore_self t k c)
  unfold State.demandOver
  dsimp only
  refine ⟨?_, ?_, rfl, ?_⟩
  · rw [hcore, Core.setCtx_demand]
  · rw [State.ctx_setCtx_self, hctx]; rfl
  · rw [hcore, Core.setCtx_sram]

/-- What the end of forced work leaves: the word it held issues again (R308). -/
theorem State.resumeWord_spec (s : State) (k : Nat) (d : Demand) :
    let u := s.resumeWord k d
    (u.core k).demand = none ∧ u.ctx k d.fw = { s.ctx k d.fw with op := some (.resumed d.descs) } ∧ u.mem = s.mem
      ∧ (u.core k).casks = (s.core k).casks := by
  have hcore (t : State) (c : Core) (x : Ctx) : (((t.setCore k c).dropEngReads (expander k)).setCtx k d.fw x).core k = c.setCtx d.fw x := by
    unfold State.setCtx
    rw [State.core_setCore_self]
    exact congrArg (Core.setCtx · d.fw x) (State.core_setCore_self t k c)
  have hctx (t : State) (c : Core) : ((t.setCore k c).dropEngReads (expander k)).ctx k d.fw = c.ctx d.fw :=
    congrArg (Core.ctx · d.fw) (State.core_setCore_self t k c)
  unfold State.resumeWord
  dsimp only
  refine ⟨?_, ?_, rfl, ?_⟩
  · rw [hcore, Core.setCtx_demand]
  · rw [State.ctx_setCtx_self, hctx]; rfl
  · rw [hcore, Core.setCtx_casks]

/-- Casks are marked, and the word that waited for it issues again. -/
theorem State.marked_resumes {s : State} {k : Nat} {c : Core} (d : Demand) (h : (s.core k).OnlyCasks c) :
    let u := (s.setCore k c).resumeWord k d
    (u.core k).demand = none ∧ u.ctx k d.fw = { s.ctx k d.fw with op := some (.resumed d.descs) } ∧ u.mem = s.mem
      ∧ ∀ i, (u.core k).cask i = c.cask i := by
  intro u
  obtain ⟨h1, h2, h3, h4⟩ := (s.setCore k c).resumeWord_spec k d
  rw [State.sameCtx_setCore (s := s) (c := c) h.ctx k d.fw] at h2
  refine ⟨h1, h2, h3, fun i => ?_⟩
  unfold Core.cask
  rw [h4, State.core_setCore_self]

/-! ### A box of a demand (R294, R295, R313) -/

/-- The tiles of a box that is written whole are those it had to write. -/
theorem State.writeBox_done {k e : Nat} {v : ViewDesc} {shape org ext : List Nat} (keys : List (List Nat)) {s t : State} {d d' : Demand}
    (h : s.writeBox k d e v shape org ext keys = .on t d') (hw : d.written = false) (hd : d'.written = true) :
    d'.done = d.done ++ keys := by
  induction keys generalizing s d with
  | nil =>
    rw [State.writeBox] at h
    injection h with _ h
    subst h
    exact (List.append_nil _).symm
  | cons key keys ih =>
    have hno {s : State} {x : Demand} (h : Step1.on s x = .on t d') (hx : x.written = false) : d'.done = d.done ++ key :: keys := by
      injection h with _ h
      subst h
      rw [hx] at hd
      exact absurd hd (by simp)
    rw [State.writeBox] at h
    dsimp only at h
    split at h
    · exact hno h hw
    · split at h
      · exact hno h hw
      · split at h
        · have hrest := ih h hw
          rw [hrest, List.append_assoc]; rfl
        · cases h
        · exact hno h hw

section Box

variable {s : State} {k : Nat} {d : Demand} {kv kc ev ec : Nat} {tap pub : Bool} {box : List Byte} {org ext : List Nat} {sc : Nat}
  {v : ViewDesc} {y z : Cask} (hw : d.work = .box kv kc ev ec tap pub box org ext sc) (hne : kv ≠ kc)
  (hy : (s.core k).cask ev = some y) (hv : y.desc = .view v) (hz : (s.core k).cask ec = some z)

include hw hne hy hv hz

theorem State.demandWork_writes (h : d.written = false) :
    s.demandWork k d = .inl (s.writeBox k d ec v z.desc.ext org ext (boxTodo d.done (tilesOf (boxOf org ext)))) := by
  unfold State.demandWork
  simp only [hw, if_neg hne, hy, Option.map_some, hv, hz]
  exact if_pos (by simp [h])

variable (h : d.written = true)

include h

theorem State.demandWork_bad {cause : Byte} {a : W64} (hb : d.bad = some (cause, a)) :
    s.demandWork k d = .inl (.fail s d ec cause a) := by
  unfold State.demandWork
  simp only [hw, if_neg hne, hy, Option.map_some, hv, hz, hb]
  exact if_neg (by simp [h])

variable (hb : d.bad = none)

include hb

theorem State.demandWork_sends (hf : s.forcedDone k = false) : s.demandWork k d = .inl (.on s d) := by
  unfold State.demandWork
  simp only [hw, if_neg hne, hy, Option.map_some, hv, hz, hb]
  rw [if_neg (by simp [h]), if_pos (by simp [hf])]

variable (hf : s.forcedDone k = true)

include hf

theorem State.demandWork_over (hp : pub = false) : s.demandWork k d = .inr (s.demandOver k d) := by
  unfold State.demandWork
  simp only [hw, if_neg hne, hy, Option.map_some, hv, hz, hb]
  rw [if_neg (by simp [h]), if_neg (by simp [hf]), if_pos (by simp [hp])]

variable (hp : pub = true)

include hp

theorem State.demandWork_releases (hr : s.released k d.fw (scopeOf sc) = false) : s.demandWork k d = .inl (.on s d) := by
  unfold State.demandWork
  simp only [hw, if_neg hne, hy, Option.map_some, hv, hz, hb]
  rw [if_neg (by simp [h]), if_neg (by simp [hf]), if_neg (by simp [hp]), if_pos (by simp [hr])]

variable (hr : s.released k d.fw (scopeOf sc) = true)

include hr

theorem State.demandWork_held (he : s.entriesHeld k (.scalar d.fw) (pagesOf (v.writes (destBox org (boxOf org ext)))) = true) :
    s.demandWork k d = .inl (.on s d) := by
  unfold State.demandWork
  simp only [hw, if_neg hne, hy, Option.map_some, hv, hz, hb]
  rw [if_neg (by simp [h]), if_neg (by simp [hf]), if_neg (by simp [hp]), if_neg (by simp [hr]), if_pos he]

theorem State.demandWork_publishes (he : s.entriesHeld k (.scalar d.fw) (pagesOf (v.writes (destBox org (boxOf org ext)))) = false) :
    s.demandWork k d = .inr (((s.swapPages k (.scalar d.fw) (scopeOf sc) (pagesOf (v.writes (destBox org (boxOf org ext))))).markRelease k
      (scopeOf sc)).demandOver k d) := by
  unfold State.demandWork
  simp only [hw, if_neg hne, hy, Option.map_some, hv, hz, hb]
  rw [if_neg (by simp [h]), if_neg (by simp [hf]), if_neg (by simp [hp]), if_neg (by simp [hr]), if_neg (by simp [he])]

end Box

/-! ### The traps of a demand (R84, R312) -/

theorem caskFault_spec (c : Core) (i : Nat) (cause : Byte) (a : W64) :
    (caskFault c i cause a).e0 = BitVec.ofNat 64 ((c.handleOf i).getD 0xFF + i * 65536)
      ∧ (∀ y, c.cask i = some y → (caskFault c i cause a).e1 = y.pc.extractLsb' 0 64)
      ∧ (caskFault c i cause a).e2 = cause.setWidth 64 := by
  refine ⟨rfl, fun y hy => ?_, ?_⟩
  · unfold caskFault
    rw [hy]
    apply BitVec.eq_of_toNat_eq
    simp
  · apply BitVec.eq_of_toNat_eq
    simp [caskFault]

/-- What the context of a word that goes on after its demand has kept. -/
theorem Ctx.advance_wentOn (c : Ctx) : c.WentOn c.advance :=
  ⟨c.advance_moved, c.advance_keepsS [], c.advance_keepsA [], c.advance_keepsP []⟩

/-! ### The statement -/

/-- Settles O37: a tick of a demand is what its step comes to; each clause is one equation of that step, and what it leaves follows from
what pinning, swapping pages and taking a trap keep. -/
theorem demandsComplete : Obligations.DemandsComplete := by
  unfold Obligations.DemandsComplete
  intro s k d hd
  refine ⟨fun hstop => ⟨_, exec_demandComplete_idle hd (.inr hstop), rfl⟩, fun hs => ?_⟩
  intro c x done traps
  have hstep {y : Step1 ⊕ State} (h : s.demandStep k d = y) : exec (.demandComplete k d.fw) s = .next (demandEnds k d.fw y) :=
    h ▸ exec_demandComplete hd hs
  have hctx {t : State} (e : Demand) (h : t.ctx k d.fw = x) : (t.setCore k ((t.core k).settlePins e)).ctx k d.fw = x :=
    (State.sameCtx_setCore (Core.settlePins_onlyCasks ..).ctx k d.fw).trans h
  refine ⟨⟨_, exec_demandComplete_idle hd (.inl (by simp)), rfl⟩, fun b hb hf ht => ?failed,
    fun us rest hc hr hf => ⟨fun t w href ht htc => ?refused, fun t id hok => ?submitted⟩,
    fun t e i cause a hfail hih hv => ?tile, fun hdone hw => ?pin, fun hdone es hw => ?materialise,
    fun hdone kv kc ev ec tap pub box org ext sc v y hw hne hy hv z hz => ?box⟩
  case failed =>
    have hruns : d.forced = false := by
      unfold Demand.forced
      cases hr : d.runs with
      | nil => rw [hr] at hb; cases hb
      | cons r rs => simp
    have hcan : ((s.setCore k ((s.core k).settlePins d)).ctx k d.fw).CanTrap d.fw := by rw [hctx d rfl]; exact ht
    obtain ⟨⟨hca, h0, h1, h2, -, hpc, -⟩, hmem, hnone⟩ := State.demandTrap_spec (d := d) hcan (bookFail b.word b.endedAt.1 b.endedAt.2)
    rw [hctx d rfl] at hpc
    exact ⟨_, hstep (State.demandStep_forces hruns (State.forceStep_failed hb hf)), hca, h0, h1, h2, hpc, hnone rfl, hmem⟩
  case refused =>
    have hruns : d.forced = false := by unfold Demand.forced; rw [hc]; rfl
    have hcan : ((t.setCore k ((t.core k).settlePins d)).ctx k d.fw).CanTrap d.fw := by rw [hctx d htc]; exact ht
    obtain ⟨⟨hca, h0, h1, h2, -, -, -⟩, hmem, hnone⟩ := State.demandTrap_spec (d := d) hcan (bookFail w 16 0)
    exact ⟨_, hstep (State.demandStep_forces hruns (State.forceStep_refused hc hr hf href)), hca, h0, h1, h2, hnone rfl,
      (show _ = t.mem from hmem).trans (State.submitForced_refused href)⟩
  case submitted =>
    intro r e huse hover
    have hruns : d.forced = false := by unfold Demand.forced; rw [hc]; rfl
    have hgoes : e.forced = false := by unfold Demand.forced; simp [e]
    refine ⟨_, hstep (State.demandStep_goesOn hruns (State.forceStep_submits hc hr hf hok huse hover) hgoes), ?_, fun j hj => ?_, rfl⟩
    · refine (State.withDemand_spec _ k e).1.trans ?_
      rw [State.core_setCore_self]
    · exact (State.core_setCore_of_ne _ _ (Ne.symm hj)).trans (State.core_setCore_of_ne _ _ (Ne.symm hj))
  case tile =>
    obtain ⟨he0, he1, he2⟩ := caskFault_spec (t.core k) i cause a
    obtain ⟨⟨hca, h0, h1, h2, -, hpc, -, -, hop, -⟩, hmem, -⟩ :=
      State.demandTrap_spec (s := t) (k := k) (fw := d.fw) (d := e) ⟨hih, hv⟩ (caskFault (t.core k) i cause a)
    exact ⟨_, hstep hfail, hca, h2.trans he2, h0.trans he0, fun y hy => h1.trans (he1 y hy), hpc, hop, hmem⟩
  case pin =>
    obtain ⟨h1, h2, h3, h4⟩ := State.marked_resumes (s := s) d ((s.core k).pinHeld_onlyCasks d.pins)
    have he : s.demandStep k d = .inr ((s.setCore k ((s.core k).pinHeld d.pins)).resumeWord k d) :=
      (State.demandStep_works hdone.1 hdone.2).trans (by unfold State.demandWork; simp only [hw])
    refine ⟨_, hstep he, h1, h2, h3, fun p hp y m hy hm hk => ?_⟩
    obtain ⟨z, hz, hmz⟩ := Core.Holds.pinHeld ⟨y, hy, hm⟩ hp rfl hk
    exact ⟨z, (h4 p.1).trans hz, hmz⟩
  case materialise =>
    obtain ⟨h1, h2, h3, h4⟩ := State.marked_resumes (s := s) d
      (((s.core k).pinHeld_onlyCasks d.pins).trans (Core.onlyCasks_foldl Core.materialise_onlyCasks es _))
    have he : s.demandStep k d = .inr ((s.setCore k (es.foldl Core.materialise ((s.core k).pinHeld d.pins))).resumeWord k d) :=
      (State.demandStep_works hdone.1 hdone.2).trans (by unfold State.demandWork; simp only [hw])
    refine ⟨_, hstep he, h1, h2, h3, fun i y hes hy hst hsrc => ?_⟩
    obtain ⟨m, hm⟩ := Core.cask_pinHeld hy d.pins
    obtain ⟨z, hz, hrest⟩ := Core.materialise_alone hm hst hsrc
    subst hes
    exact ⟨z, (h4 i).trans hz, hrest⟩
  case box =>
    intro todo
    have hwork {y : Step1 ⊕ State} (h : s.demandWork k d = y) : exec (.demandComplete k d.fw) s = .next (demandEnds k d.fw y) :=
      hstep ((State.demandStep_works hdone.1 hdone.2).trans h)
    refine ⟨fun t e hwr hon => ?writes, fun cause a hwr hb ht => ?bad, fun hwr hb hf => ⟨_, hwork (State.demandWork_sends hw hne hy hv hz hwr hb hf), rfl⟩,
      fun hwr hb hf hp => ?over_, fun hwr hb hf hp => ⟨fun hr => ⟨_, hwork (State.demandWork_releases hw hne hy hv hz hwr hb hf hp hr), rfl⟩,
        fun hr => ⟨fun he => ⟨_, hwork (State.demandWork_held hw hne hy hv hz hwr hb hf hp hr he), rfl⟩, fun he => ?publishes⟩⟩⟩
    case writes =>
      obtain ⟨hcore, hsame⟩ := t.withDemand_spec k e
      refine ⟨_, hwork ((State.demandWork_writes hw hne hy hv hz hwr).trans (congrArg Sum.inl hon)), ?_, rfl, hsame k d.fw, State.writeBox_done _ hon hwr⟩
      exact congrArg Core.demand hcore
    case bad =>
      obtain ⟨-, -, he2⟩ := caskFault_spec (s.core k) ec cause a
      obtain ⟨⟨hca, -, -, h2, -⟩, hmem, -⟩ := State.demandTrap_spec (s := s) (k := k) (d := d) ht (caskFault (s.core k) ec cause a)
      exact ⟨_, hwork (State.demandWork_bad hw hne hy hv hz hwr hb), hca, h2.trans he2, hmem⟩
    case over_ =>
      obtain ⟨h1, h2, h3, h4⟩ := s.demandOver_spec k d
      exact ⟨_, hwork (State.demandWork_over hw hne hy hv hz hwr hb hf hp), h1, h2 ▸ x.advance_wentOn, h3, h4⟩
    case publishes =>
      let t := s.swapPages k (.scalar d.fw) (scopeOf sc) (pagesOf (v.writes (destBox org (boxOf org ext))))
      obtain ⟨hcores, hmem⟩ := t.markRelease_only k (scopeOf sc)
      obtain ⟨h1, h2, h3, -⟩ := (t.markRelease k (scopeOf sc)).demandOver_spec k d
      have hsame : (t.markRelease k (scopeOf sc)).ctx k d.fw = x :=
        State.SameCtx.trans (s.swapPages_sameCtx _ _ _ _) (State.sameCtx_of_cores hcores) k d.fw
      rw [hsame] at h2
      exact ⟨_, hwork (State.demandWork_publishes hw hne hy hv hz hwr hb hf hp hr he), h1, h2 ▸ x.advance_wentOn, h3.trans hmem⟩

end Sys2Proof.Machine
end

section
/-!
SUPPORT. The formats of instruction words (R91): the fields that an encoded word shows to the decoder, and the values of named sets that
the fields hold.
-/

namespace Sys2Proof

/-! ### Fields of a word -/

/-- A field of a word is what a number has in its place. -/
theorem bits_eq_ofNat {w : W32} {lo len x : Nat} (h : w.toNat / 2 ^ lo % 2 ^ len = x % 2 ^ len) : bits w lo len = BitVec.ofNat len x := by
  apply BitVec.eq_of_toNat_eq
  simpa [bits] using h

theorem bit_eq {w : W32} {i : Nat} {b : Bool} (h : w.toNat / 2 ^ i % 2 = b.toNat) : bit w i = b := by
  unfold bit
  rw [h]
  cases b <;> rfl

theorem ite_pow_eq (b : Bool) (n : Nat) : (if b then n else 0) = b.toNat * n := by cases b <;> simp

/-- The fields of an RR word, whole and in the parts that the rows use (R91). -/
theorem rr_fields {op d a b fn : Nat} (fa fb : Bool) (h : op < 64 ∧ d < 64 ∧ a < 64 ∧ b < 64 ∧ fn < 64) :
    let w := rr op d a b fa fb fn
    w.toNat / 2 ^ 26 = op ∧ w.toNat % 64 = fn ∧ w.toNat % 8 = fn % 8 ∧ bits w 3 3 = BitVec.ofNat 3 (fn / 8)
      ∧ bits w 20 6 = BitVec.ofNat 6 d ∧ bits w 20 3 = BitVec.ofNat 3 d ∧ bits w 23 3 = BitVec.ofNat 3 (d / 8)
      ∧ bits w 14 6 = BitVec.ofNat 6 a ∧ bits w 14 3 = BitVec.ofNat 3 a ∧ bits w 14 5 = BitVec.ofNat 5 a
      ∧ bits w 8 6 = BitVec.ofNat 6 b ∧ bits w 8 3 = BitVec.ofNat 3 b ∧ bits w 8 4 = BitVec.ofNat 4 b ∧ bits w 11 3 = BitVec.ofNat 3 (b / 8)
      ∧ bit w 7 = fa ∧ bit w 6 = fb := by
  have e : (rr op d a b fa fb fn).toNat = op * 2 ^ 26 + d * 2 ^ 20 + a * 2 ^ 14 + b * 2 ^ 8 + fa.toNat * 2 ^ 7 + fb.toNat * 2 ^ 6 + fn := by
    have := fa.toNat_le
    have := fb.toNat_le
    simp only [rr, ite_pow_eq, BitVec.toNat_ofNat]
    omega
  have h1 := fa.toNat_le
  have h2 := fb.toNat_le
  refine ⟨?_, ?_, ?_, bits_eq_ofNat ?_, bits_eq_ofNat ?_, bits_eq_ofNat ?_, bits_eq_ofNat ?_, bits_eq_ofNat ?_, bits_eq_ofNat ?_, bits_eq_ofNat ?_,
    bits_eq_ofNat ?_, bits_eq_ofNat ?_, bits_eq_ofNat ?_, bits_eq_ofNat ?_, bit_eq ?_, bit_eq ?_⟩
  all_goals
    rw [e]
    omega

/-- The fields of an RI word (R91). -/
theorem ri_fields {op d a imm : Nat} (fa : Bool) (h : op < 64 ∧ d < 64 ∧ a < 64 ∧ imm < 2 ^ 13) :
    let w := ri op d a fa imm
    w.toNat / 2 ^ 26 = op ∧ bits w 20 6 = BitVec.ofNat 6 d ∧ bits w 20 3 = BitVec.ofNat 3 d ∧ bits w 23 3 = BitVec.ofNat 3 (d / 8)
      ∧ bits w 14 6 = BitVec.ofNat 6 a ∧ bit w 13 = fa ∧ bits w 0 13 = BitVec.ofNat 13 imm ∧ bits w 0 12 = BitVec.ofNat 12 imm
      ∧ bits w 0 6 = BitVec.ofNat 6 imm := by
  have h1 := fa.toNat_le
  have e : (ri op d a fa imm).toNat = op * 2 ^ 26 + d * 2 ^ 20 + a * 2 ^ 14 + fa.toNat * 2 ^ 13 + imm := by
    simp only [ri, ite_pow_eq, BitVec.toNat_ofNat]
    omega
  refine ⟨?_, bits_eq_ofNat ?_, bits_eq_ofNat ?_, bits_eq_ofNat ?_, bits_eq_ofNat ?_, bit_eq ?_, bits_eq_ofNat ?_, bits_eq_ofNat ?_, bits_eq_ofNat ?_⟩
  all_goals
    rw [e]
    omega

/-- The fields of an LI word (R91). -/
theorem li_fields {op d imm : Nat} (h : op < 64 ∧ d < 64 ∧ imm < 2 ^ 20) :
    let w := li op d imm
    w.toNat / 2 ^ 26 = op ∧ bits w 20 6 = BitVec.ofNat 6 d ∧ bits w 0 20 = BitVec.ofNat 20 imm ∧ bits w 0 12 = BitVec.ofNat 12 imm := by
  have e : (li op d imm).toNat = op * 2 ^ 26 + d * 2 ^ 20 + imm := by
    simp only [li, BitVec.toNat_ofNat]
    omega
  refine ⟨?_, bits_eq_ofNat ?_, bits_eq_ofNat ?_, bits_eq_ofNat ?_⟩
  all_goals
    rw [e]
    omega

theorem Scope.code_lt (s : Scope) : s.code < 6 := by cases s <;> decide
theorem MemOrd.code_lt (o : MemOrd) : o.code < 3 := by cases o <;> decide

/-- The fields of a MEM word (R91). -/
theorem memWord_fields {op d a off : Nat} (fa : Bool) (sc : Scope) (o : MemOrd) (h : op < 64 ∧ d < 64 ∧ a < 16 ∧ off < 2 ^ 10) :
    let w := memWord op d a fa sc o off
    w.toNat / 2 ^ 26 = op ∧ bits w 20 6 = BitVec.ofNat 6 d ∧ bits w 16 4 = BitVec.ofNat 4 a ∧ bit w 15 = fa
      ∧ bits w 12 3 = BitVec.ofNat 3 sc.code ∧ bits w 10 2 = BitVec.ofNat 2 o.code ∧ bits w 0 10 = BitVec.ofNat 10 off
      ∧ bit w 20 = decide (d % 2 = 1) := by
  have h1 := fa.toNat_le
  have h2 := sc.code_lt
  have h3 := o.code_lt
  have e : (memWord op d a fa sc o off).toNat =
      op * 2 ^ 26 + d * 2 ^ 20 + a * 2 ^ 16 + fa.toNat * 2 ^ 15 + sc.code * 2 ^ 12 + o.code * 2 ^ 10 + off := by
    simp only [memWord, ite_pow_eq, BitVec.toNat_ofNat]
    omega
  refine ⟨?_, bits_eq_ofNat ?_, bits_eq_ofNat ?_, bit_eq ?_, bits_eq_ofNat ?_, bits_eq_ofNat ?_, bits_eq_ofNat ?_, ?odd⟩
  case odd =>
    unfold bit
    congr 1
    rw [e, eq_iff_iff]
    omega
  all_goals
    rw [e]
    omega

/-- The fields of a BR word (R91). -/
theorem brWord_fields {p off : Nat} (inv hint : Bool) (h : p < 8 ∧ off < 2 ^ 21) :
    let w := brWord p inv hint off
    w.toNat / 2 ^ 26 = 46 ∧ bits w 23 3 = BitVec.ofNat 3 p ∧ bit w 22 = inv ∧ bit w 21 = hint ∧ bits w 0 21 = BitVec.ofNat 21 off := by
  have h1 := inv.toNat_le
  have h2 := hint.toNat_le
  have e : (brWord p inv hint off).toNat = 46 * 2 ^ 26 + p * 2 ^ 23 + inv.toNat * 2 ^ 22 + hint.toNat * 2 ^ 21 + off := by
    simp only [brWord, ite_pow_eq, BitVec.toNat_ofNat]
    omega
  refine ⟨?_, bits_eq_ofNat ?_, bit_eq ?_, bit_eq ?_, bits_eq_ofNat ?_⟩
  all_goals
    rw [e]
    omega

/-- The fields of a TILE word (R91). -/
theorem tileWord_fields {op kd ka kb a : Nat} (h : op < 64 ∧ kd < 64 ∧ ka < 64 ∧ kb < 64 ∧ a < 16) :
    let w := tileWord op kd ka kb a
    w.toNat / 2 ^ 26 = op ∧ bits w 20 6 = BitVec.ofNat 6 kd ∧ bits w 14 6 = BitVec.ofNat 6 ka ∧ bits w 8 6 = BitVec.ofNat 6 kb
      ∧ bits w 4 4 = BitVec.ofNat 4 a ∧ w.toNat % 16 = 0 := by
  have e : (tileWord op kd ka kb a).toNat = op * 2 ^ 26 + kd * 2 ^ 20 + ka * 2 ^ 14 + kb * 2 ^ 8 + a * 2 ^ 4 := by
    simp only [tileWord, BitVec.toNat_ofNat]
    omega
  refine ⟨?_, bits_eq_ofNat ?_, bits_eq_ofNat ?_, bits_eq_ofNat ?_, bits_eq_ofNat ?_, ?_⟩
  all_goals
    rw [e]
    omega

/-- The fields of a SYS word (R91). -/
theorem sysWord_fields {fn imm : Nat} (h : fn < 2 ^ 10 ∧ imm < 2 ^ 16) :
    let w := sysWord fn imm
    w.toNat / 2 ^ 26 = 59 ∧ (bits w 16 10).toNat = fn ∧ bits w 0 16 = BitVec.ofNat 16 imm ∧ bits w 0 4 = BitVec.ofNat 4 imm
      ∧ bits w 0 2 = BitVec.ofNat 2 imm ∧ bits w 2 3 = BitVec.ofNat 3 (imm / 4) ∧ bits w 4 3 = BitVec.ofNat 3 (imm / 16) := by
  have e : (sysWord fn imm).toNat = 59 * 2 ^ 26 + fn * 2 ^ 16 + imm := by
    simp only [sysWord, BitVec.toNat_ofNat]
    omega
  refine ⟨?_, ?_, bits_eq_ofNat ?_, bits_eq_ofNat ?_, bits_eq_ofNat ?_, bits_eq_ofNat ?_, bits_eq_ofNat ?_⟩
  all_goals
    simp only [bits, BitVec.toNat_ofNat, e]
    omega

/-- The fields of a jump's word; bit 25 tells `jal` from `j` (R91). -/
theorem jump_fields {n off : Nat} (hn : n = 0 ∨ n = 2 ^ 25) (hoff : off < 2 ^ 25) :
    let w : W32 := BitVec.ofNat 32 (0x2F * 2 ^ 26 + n + off)
    w.toNat / 2 ^ 26 = 47 ∧ bit w 25 = decide (n = 2 ^ 25) ∧ bits w 0 25 = BitVec.ofNat 25 off := by
  have e : (BitVec.ofNat 32 (0x2F * 2 ^ 26 + n + off)).toNat = 47 * 2 ^ 26 + n + off := by
    simp only [BitVec.toNat_ofNat]
    omega
  refine ⟨?_, ?link, bits_eq_ofNat ?_⟩
  case link =>
    unfold bit
    congr 1
    rw [e, eq_iff_iff]
    omega
  all_goals
    rw [e]
    omega

/-- The fields of a hint word (R96). -/
theorem hint_fields {op payload : Nat} (h : op < 64 ∧ payload < 2 ^ 26) :
    let w : W32 := BitVec.ofNat 32 (op * 2 ^ 26 + payload)
    w.toNat / 2 ^ 26 = op ∧ bits w 0 26 = BitVec.ofNat 26 payload := by
  have e : (BitVec.ofNat 32 (op * 2 ^ 26 + payload)).toNat = op * 2 ^ 26 + payload := by
    simp only [BitVec.toNat_ofNat]
    omega
  refine ⟨?_, bits_eq_ofNat ?_⟩
  all_goals
    rw [e]
    omega

/-! ### Values of a named set -/

theorem Cond.code_lt (c : Cond) : c.code < 8 := by cases c <;> decide
theorem ACond.code_lt (c : ACond) : c.code < 8 := by cases c <;> decide
theorem FCond.code_lt (c : FCond) : c.code < 8 := by cases c <;> decide
theorem FRound.code_le (r : FRound) : r.code ≤ 4 := by cases r <;> decide
theorem CvtType.code_lt (t : CvtType) : t.code < 8 := by cases t <;> decide
theorem FenceKind.code_lt (k : FenceKind) : k.code < 4 := by cases k <;> decide
theorem Eng.code_lt (e : Eng) : e.code < 4 := by cases e <;> decide

theorem condOf_code (c : Cond) : condOf (BitVec.ofNat 3 c.code).toNat = some c := by cases c <;> rfl
theorem acondOf_code (c : ACond) : acondOf (BitVec.ofNat 3 c.code).toNat = some c := by cases c <;> rfl
theorem fcondOf_code (c : FCond) : fcondOf (BitVec.ofNat 3 c.code).toNat = some c := by cases c <;> rfl
theorem froundOf_code (r : FRound) : froundOf (BitVec.ofNat 3 r.code).toNat = some r := by cases r <;> rfl
theorem froundOf_code_nat (r : FRound) : froundOf r.code = some r := by cases r <;> rfl
theorem cvtTypeOf_code (t : CvtType) : cvtTypeOf (BitVec.ofNat 3 t.code).toNat = some t := by cases t <;> rfl
theorem scopeOf_code (s : Scope) : scopeOf (BitVec.ofNat 3 s.code).toNat = some s := by cases s <;> rfl
theorem ordOf_code (o : MemOrd) : ordOf (BitVec.ofNat 2 o.code).toNat = some o := by cases o <;> rfl
theorem engOf_code (e : Eng) : engOf (BitVec.ofNat 6 e.code).toNat = some e := by cases e <;> rfl
theorem fenceKindOf_code (k : FenceKind) (n : Nat) : fenceKindOf (BitVec.ofNat 2 (n * 4 + k.code)).toNat = k := by
  have e : BitVec.ofNat 2 (n * 4 + k.code) = BitVec.ofNat 2 k.code := by
    apply BitVec.eq_of_toNat_eq
    simp [Nat.add_mod]
  rw [e]
  cases k <;> rfl

/-- An address register in a six-bit field (R92). -/
theorem withAReg_ofNat (a : AReg) (k : AReg → Decoded) : withAReg (BitVec.ofNat 6 a.toNat) k = k a := by
  have h : (BitVec.ofNat 6 a.toNat).toNat = a.toNat := by simp only [BitVec.toNat_ofNat]; omega
  unfold withAReg
  rw [h, if_pos (by omega), BitVec.ofNat_toNat, BitVec.setWidth_eq]

theorem withField_some {α : Type} (x : α) (k : α → Decoded) : withField (some x) k = k x := rfl

/-- The low part of two fields put together. -/
theorem ofNat_add_mul (n : Nat) {k m : Nat} (x : BitVec k) (hm : m = 2 ^ k) : BitVec.ofNat k (n * m + x.toNat) = x := by
  subst hm
  apply BitVec.eq_of_toNat_eq
  simp

/-- The high part of two fields put together. -/
theorem high_of_pair (n : Nat) {m k : Nat} (hk : k < m) : (n * m + k) / m = n := by
  rw [Nat.mul_comm, Nat.mul_add_div (by omega), Nat.div_eq_of_lt hk, Nat.add_zero]

theorem ofNat_toNat_self {n : Nat} (x : BitVec n) : BitVec.ofNat n x.toNat = x := by simp

/-! ### Words of the formats with few decoders -/

/-- A MEM word is its fields, where its major opcode is one of an access (R102). -/
theorem decodeWord_memWord {op : Nat} {pair : Bool} {k : Reg → AReg → Bool → Scope → MemOrd → BitVec 10 → Instr} {d : Reg} {a : AReg} {fa : Bool}
    {sc : Scope} {o : MemOrd} {off : BitVec 10} {i : Instr} (hop : op < 64)
    (hk : ∀ w : W32, w.toNat / 2 ^ 26 = op → decodeWord w = decodeMem w pair k) (hi : k d a fa sc o off = i)
    (hd : pair = true → d.toNat % 2 = 0) : decodeWord (memWord op d.toNat a.toNat fa sc o off.toNat) = .ok i := by
  have hodd : (pair && decide (d.toNat % 2 = 1)) = false := by
    cases pair with
    | false => rfl
    | true => simp [hd rfl]
  subst hi
  rw [hk _ (memWord_fields fa sc o ⟨hop, d.isLt, a.isLt, off.isLt⟩).1]
  simp (disch := omega) only [decodeMem, memWord_fields, ofNat_toNat_self, scopeOf_code, ordOf_code, withField_some, hodd, Bool.false_eq_true,
    if_false]

/-- A TILE word is its fields, where its major opcode is one of a tile word (R102). -/
theorem decodeWord_tileWord {op kd ka kb a : Nat} {k : Hnd → Hnd → Hnd → AReg → Instr} {i : Instr}
    (h : op < 64 ∧ kd < 64 ∧ ka < 64 ∧ kb < 64 ∧ a < 16) (hk : ∀ w : W32, w.toNat / 2 ^ 26 = op → decodeWord w = decodeTile w k)
    (hi : k (BitVec.ofNat 6 kd) (BitVec.ofNat 6 ka) (BitVec.ofNat 6 kb) (BitVec.ofNat 4 a) = i) :
    decodeWord (tileWord op kd ka kb a) = .ok i := by
  subst hi
  obtain ⟨hop, hd, ha, hb, har, hvar⟩ := tileWord_fields h
  rw [hk _ hop, decodeTile, hd, ha, hb, har, if_pos hvar]

theorem decodeWord_sysWord {fn imm : Nat} (h : fn < 2 ^ 10 ∧ imm < 2 ^ 16) : decodeWord (sysWord fn imm) = decodeSys (sysWord fn imm) := by
  have hk (w : W32) (h : w.toNat / 2 ^ 26 = 59) : decodeWord w = decodeSys w := by unfold decodeWord; rw [h]; rfl
  exact hk _ (sysWord_fields h).1

end Sys2Proof
end

section
/-!
Decoding and encoding of instruction words (R90 to R109): every well-formed row with a word reads back from it, and every word that the
decoder accepts stands for such a row.
-/

namespace Sys2Proof

/-- Decoding reads back the word of an instruction. -/
def RoundTrips (i : Instr) : Prop := ∀ w, encode i = some w → decodeWord w = .ok i

/-- A row with a word reads back if that word does. -/
theorem RoundTrips.of_word {i : Instr} {v : W32} (he : encode i = some v) (h : decodeWord v = .ok i) : RoundTrips i := fun w e => by
  rw [he] at e
  exact Option.some.inj e ▸ h

/-- The rows of INT (R103). -/
theorem roundTrips_int (d a b : Reg) (fa fb : Bool) :
    RoundTrips (.add d a b fa fb) ∧ RoundTrips (.sub d a b fa fb) ∧ RoundTrips (.mul d a b fa fb) ∧ RoundTrips (.mulh d a b fa fb)
      ∧ RoundTrips (.mulhn d a b fa fb) ∧ RoundTrips (.div d a b fa fb) ∧ RoundTrips (.divn d a b fa fb) ∧ RoundTrips (.rem d a b fa fb)
      ∧ RoundTrips (.remn d a b fa fb) ∧ RoundTrips (.iAnd d a b fa fb) ∧ RoundTrips (.iOr d a b fa fb) ∧ RoundTrips (.iXor d a b fa fb)
      ∧ RoundTrips (.andn d a b fa fb) ∧ RoundTrips (.shl d a b fa fb) ∧ RoundTrips (.shr d a b fa fb) ∧ RoundTrips (.sra d a b fa fb)
      ∧ RoundTrips (.rotl d a b fa fb) ∧ RoundTrips (.iMin d a b fa fb) ∧ RoundTrips (.iMax d a b fa fb) ∧ RoundTrips (.minn d a b fa fb)
      ∧ RoundTrips (.maxn d a b fa fb) ∧ RoundTrips (.clz d a fa) ∧ RoundTrips (.ctz d a fa) ∧ RoundTrips (.popc d a fa)
      ∧ RoundTrips (.sext d a b fa fb) ∧ RoundTrips (.zext d a b fa fb) ∧ RoundTrips (.bfx d a b fa fb) ∧ RoundTrips (.bfi d a b fa fb) := by
  refine ⟨?_, ?_, ?_, ?_, ?_, ?_, ?_, ?_, ?_, ?_, ?_, ?_, ?_, ?_, ?_, ?_, ?_, ?_, ?_, ?_, ?_, ?_, ?_, ?_, ?_, ?_, ?_, ?_⟩
  all_goals
    refine .of_word rfl ?_
    simp (disch := omega) only [decodeWord, rr_fields, decodeInt, ofNat_toNat_self]

/-- The rows of FP64 and FP32 (R106). -/
theorem roundTrips_fp (r : FRound) (d a b : Reg) (fa fb : Bool) :
    RoundTrips (.faddF64 r d a b fa fb) ∧ RoundTrips (.fsubF64 r d a b fa fb) ∧ RoundTrips (.fmulF64 r d a b fa fb)
      ∧ RoundTrips (.fmaF64 r d a b fa fb) ∧ RoundTrips (.fdivF64 r d a b fa fb) ∧ RoundTrips (.fsqrtF64 r d a fa)
      ∧ RoundTrips (.fminF64 r d a b fa fb) ∧ RoundTrips (.fmaxF64 r d a b fa fb)
      ∧ RoundTrips (.faddF32 r d a b fa fb) ∧ RoundTrips (.fsubF32 r d a b fa fb) ∧ RoundTrips (.fmulF32 r d a b fa fb)
      ∧ RoundTrips (.fmaF32 r d a b fa fb) ∧ RoundTrips (.fdivF32 r d a b fa fb) ∧ RoundTrips (.fsqrtF32 r d a fa)
      ∧ RoundTrips (.fminF32 r d a b fa fb) ∧ RoundTrips (.fmaxF32 r d a b fa fb) := by
  have hr := r.code_le
  refine ⟨?_, ?_, ?_, ?_, ?_, ?_, ?_, ?_, ?_, ?_, ?_, ?_, ?_, ?_, ?_, ?_⟩
  all_goals
    refine .of_word rfl ?_
    simp (disch := omega) only [decodeWord, rr_fields, decodeFp64, decodeFp32, ofNat_toNat_self, high_of_pair, froundOf_code, withField_some,
      Nat.mul_add_mod_self_right]

/-- Every well-formed row reads back. -/
theorem roundTrips {i : Instr} (hi : wellFormed i = true) : RoundTrips i := by
  cases i
  -- INT (R103)
  case add | sub | mul | mulh | mulhn | div | divn | rem | remn | iAnd | iOr | iXor | andn | shl | shr | sra | rotl | iMin | iMax | minn
      | maxn | sext | zext | bfx | bfi =>
    simp only [roundTrips_int]
  case clz d a fa | ctz d a fa | popc d a fa => simp only [roundTrips_int d a 0 fa false]
  case sel n d a b fa fb =>
    refine .of_word rfl ?_
    have h : BitVec.ofNat 3 (56 + n.toNat) = n := ofNat_add_mul 7 n rfl
    simp (disch := omega) only [decodeWord, rr_fields, decodeInt, ofNat_toNat_self, h, Nat.le_add_right, if_true]
  -- PRED (R104)
  case pAnd | pOr | pXor | pNot | pMov =>
    refine .of_word rfl ?_
    simp (disch := omega) only [decodeWord, rr_fields, decodePred, ofNat_toNat_self]
  case cmp c d a b fa fb =>
    refine .of_word rfl ?_
    have hc := c.code_lt
    simp (disch := omega) only [decodeWord, rr_fields, decodePred, ofNat_toNat_self, ofNat_add_mul, high_of_pair, condOf_code, withField_some]
  -- ADDR (R105)
  case aAdd | aLea2 | aLea4 | aLea8 | aLea16 | aMov | aMovScalar | aGet | aGetHi =>
    refine .of_word rfl ?_
    simp (disch := omega) only [decodeWord, rr_fields, decodeAddr, ofNat_toNat_self, withAReg_ofNat]
  case aCmp c d a b =>
    refine .of_word rfl ?_
    have hc := c.code_lt
    simp (disch := omega) only [decodeWord, rr_fields, decodeAddr, ofNat_add_mul, high_of_pair, acondOf_code, withField_some, withAReg_ofNat]
  -- FP64, FP32 (R106)
  case faddF64 | fsubF64 | fmulF64 | fmaF64 | fdivF64 | fminF64 | fmaxF64 | faddF32 | fsubF32 | fmulF32 | fmaF32 | fdivF32 | fminF32 | fmaxF32 =>
    simp only [roundTrips_fp]
  case fsqrtF64 r d a fa | fsqrtF32 r d a fa => simp only [roundTrips_fp r d a 0 fa false]
  -- FPX (R107)
  case fcvt r t u d a fa =>
    refine .of_word rfl ?_
    have hr := r.code_le
    have ht := t.code_lt
    have hu := u.code_lt
    have hf : (t.isInt && u.isInt) = false := Bool.not_eq_true' _ ▸ hi
    have hlow : BitVec.ofNat 3 (t.code * 8 + u.code) = BitVec.ofNat 3 u.code := by
      apply BitVec.eq_of_toNat_eq
      simp
    simp (disch := omega) only [decodeWord, rr_fields, decodeFpx, ofNat_toNat_self, high_of_pair, froundOf_code_nat, cvtTypeOf_code, withField_some,
      hr, if_true, hlow, hf, Bool.false_eq_true, if_false]
  case fclassF64 | fclassF32 =>
    refine .of_word rfl ?_
    simp (disch := omega) only [decodeWord, rr_fields, decodeFpx, ofNat_toNat_self, if_neg]
  case fcmpF64 c d a b fa fb | fcmpF32 c d a b fa fb =>
    refine .of_word rfl ?_
    have hc := c.code_lt
    simp (disch := omega) only [decodeWord, rr_fields, decodeFpx, ofNat_toNat_self, if_neg, ofNat_add_mul, high_of_pair, fcondOf_code,
      withField_some]
  -- MISC, QUEUE, JREG, FAB (R108), BOOK (R80)
  case feClr | feSet | feTst | wait =>
    refine .of_word rfl ?_
    simp (disch := omega) only [decodeWord, rr_fields, decodeMisc, ofNat_toNat_self, withAReg_ofNat]
  case qTail e a | qSeq d e | tmplLd d e a =>
    refine .of_word rfl ?_
    have := e.code_lt
    simp (disch := omega) only [decodeWord, rr_fields, decodeQueue, ofNat_toNat_self, engOf_code, withField_some, withAReg_ofNat]
  case qMark m a fa =>
    refine .of_word rfl ?_
    have hm : m ≠ 0 := of_decide_eq_true hi
    simp (disch := omega) only [decodeWord, rr_fields, decodeQueue, ofNat_toNat_self, if_neg hm]
  case omClaim n | omRel n =>
    refine .of_word rfl ?_
    have hn : (BitVec.ofNat 6 n.toNat).toNat < 32 := by simp only [BitVec.toNat_ofNat]; omega
    simp (disch := omega) only [decodeWord, rr_fields, decodeQueue, ofNat_toNat_self, if_pos hn]
  case jr | jalr =>
    refine .of_word rfl ?_
    simp (disch := omega) only [decodeWord, rr_fields, decodeJreg, withAReg_ofNat]
  case xPost | xWait | xRenq | xRenqAck | xFence =>
    refine .of_word rfl ?_
    simp (disch := omega) only [decodeWord, rr_fields, decodeFab, ofNat_toNat_self, withAReg_ofNat]
  case bkReq | bkCancel | bkStat =>
    refine .of_word rfl ?_
    simp (disch := omega) only [decodeWord, rr_fields, decodeBook, ofNat_toNat_self, withAReg_ofNat]
  -- Immediate words (R102)
  case addi | andi | ori | xori | shli | shri | srai | aAddi =>
    refine .of_word rfl ?_
    simp (disch := omega) only [decodeWord, ri_fields, ofNat_toNat_self, withAReg_ofNat]
  case cmpi c d a fa imm =>
    refine .of_word rfl ?_
    have hc := c.code_lt
    simp (disch := omega) only [decodeWord, ri_fields, ofNat_toNat_self, ofNat_add_mul, high_of_pair, condOf_code, withField_some]
  case csrR d n | csrW n a fa | csrX d a fa n =>
    refine .of_word rfl ?_
    have hn : csrDefined n = true := hi
    simp (disch := omega) only [decodeWord, ri_fields, ofNat_toNat_self, withCsr, hn, if_true]
  case lih | lim | lit =>
    refine .of_word rfl ?_
    simp (disch := omega) only [decodeWord, li_fields, ofNat_toNat_self]
  -- Scalar memory (R102)
  case ldI8 | ldN8 | ldI16 | ldN16 | ldI32 | ldN32 | ld64 | st8 | st16 | st32 | st64 =>
    refine .of_word rfl ?_
    exact decodeWord_memWord (by decide) (fun w h => by unfold decodeWord; rw [h]; rfl) (by rfl) (by simp)
  case ldp | stp =>
    refine .of_word rfl ?_
    exact decodeWord_memWord (by decide) (fun w h => by unfold decodeWord; rw [h]; rfl) (by rfl) fun _ => of_decide_eq_true hi
  -- Branches and jumps (R91)
  case bT | bF =>
    refine .of_word rfl ?_
    simp (disch := omega) only [decodeWord, brWord_fields, ofNat_toNat_self, if_true, Bool.false_eq_true, if_false]
  case j off =>
    refine .of_word rfl ?_
    simp (disch := omega) only [decodeWord, jump_fields (.inl rfl), ofNat_toNat_self]
    rfl
  case jal off =>
    refine .of_word rfl ?_
    simp (disch := omega) only [decodeWord, jump_fields (.inr rfl), ofNat_toNat_self, decide_true, if_true]
  -- Tile words (R102)
  case tView | tMm | tEw | tRed | tTr | tCvt | tPerm | tSt | tPub | tap | tDrop =>
    refine .of_word rfl ?_
    exact decodeWord_tileWord (by omega) (fun w h => by unfold decodeWord; rw [h]; rfl) (by simp only [ofNat_toNat_self])
  -- SYS and hints (R96, R109)
  case nop | exit | trap | tret | wake =>
    refine .of_word rfl ?_
    simp (disch := omega) only [decodeWord_sysWord, sysWord_fields, decodeSys, ofNat_toNat_self]
  case fence k sc =>
    refine .of_word rfl ?_
    have hk := k.code_lt
    have hs := sc.code_lt
    simp (disch := omega) only [decodeWord_sysWord, sysWord_fields, decodeSys, high_of_pair, fenceKindOf_code, scopeOf_code, withField_some]
  case bar n sc | pub a sc =>
    refine .of_word rfl ?_
    have hs := sc.code_lt
    simp (disch := omega) only [decodeWord_sysWord, sysWord_fields, decodeSys, high_of_pair, ofNat_add_mul, scopeOf_code, withField_some]
  case hint3C | hint3D | hint3E =>
    refine .of_word rfl ?_
    simp (disch := omega) only [decodeWord, hint_fields, ofNat_toNat_self]
  -- Commands and steps of the hardware have no word
  all_goals exact fun _ he => by cases he

/-! ### What the decoder accepts -/

/-- A well-formed row with a word. -/
def IsWord (i : Instr) : Prop := wellFormed i = true ∧ (encode i).isSome = true

/-- What a decoder answers, where it answers an instruction, is a well-formed row with a word. -/
def GivesWords (x : Decoded) : Prop := ∀ i, x = .ok i → IsWord i

theorem givesWords_ok {i : Instr} (h : IsWord i) : GivesWords (.ok i) := fun _ e => Except.ok.inj e ▸ h

theorem givesWords_error (n : Nat) : GivesWords (.error n) := fun _ e => nomatch e

theorem givesWords_ite {c : Prop} [Decidable c] {x y : Decoded} (hx : c → GivesWords x) (hy : ¬c → GivesWords y) :
    GivesWords (if c then x else y) := by
  split
  · next h => exact hx h
  · next h => exact hy h

theorem givesWords_withAReg {k : AReg → Decoded} (h : ∀ a, GivesWords (k a)) (f : BitVec 6) : GivesWords (withAReg f k) :=
  givesWords_ite (fun _ => h _) fun _ => givesWords_error 4

theorem givesWords_withField {α : Type} {k : α → Decoded} (h : ∀ x, GivesWords (k x)) (x : Option α) : GivesWords (withField x k) := by
  cases x with
  | none => exact givesWords_error 3
  | some x => exact h x

theorem givesWords_int (w : W32) : GivesWords (decodeInt w) := by
  unfold decodeInt
  dsimp only
  split
  case h_29 => exact givesWords_ite (fun _ => givesWords_ok ⟨rfl, rfl⟩) fun _ => givesWords_error 2
  all_goals exact givesWords_ok ⟨rfl, rfl⟩

theorem givesWords_pred (w : W32) : GivesWords (decodePred w) := by
  unfold decodePred
  dsimp only
  split
  case h_6 => exact givesWords_withField (fun _ => givesWords_ok ⟨rfl, rfl⟩) _
  case h_7 => exact givesWords_error 2
  all_goals exact givesWords_ok ⟨rfl, rfl⟩

theorem givesWords_addr (w : W32) : GivesWords (decodeAddr w) := by
  unfold decodeAddr
  dsimp only
  split
  case h_7 | h_8 | h_9 => exact givesWords_withAReg (fun _ => givesWords_ok ⟨rfl, rfl⟩) _
  case h_10 =>
    exact givesWords_withField (fun _ => givesWords_withAReg (fun _ => givesWords_withAReg (fun _ => givesWords_ok ⟨rfl, rfl⟩) _) _) _
  case h_11 => exact givesWords_error 2
  all_goals exact givesWords_withAReg (fun _ => givesWords_withAReg (fun _ => givesWords_ok ⟨rfl, rfl⟩) _) _

theorem givesWords_fp64 (w : W32) : GivesWords (decodeFp64 w) := by
  refine givesWords_withField (fun r => ?_) _
  split
  all_goals exact givesWords_ok ⟨rfl, rfl⟩

theorem givesWords_fp32 (w : W32) : GivesWords (decodeFp32 w) := by
  refine givesWords_withField (fun r => ?_) _
  split
  all_goals exact givesWords_ok ⟨rfl, rfl⟩

theorem givesWords_fpx (w : W32) : GivesWords (decodeFpx w) := by
  unfold decodeFpx
  dsimp only
  refine givesWords_ite (fun _ => ?cvt) fun _ => ?rest
  case cvt =>
    refine givesWords_withField (fun r => givesWords_withField (fun t => givesWords_withField (fun u => ?_) _) _) _
    refine givesWords_ite (fun _ => givesWords_error 3) fun h => givesWords_ok ⟨?_, rfl⟩
    show (!(t.isInt && u.isInt)) = true
    rw [Bool.eq_false_iff.2 h]
    rfl
  case rest =>
    split
    case h_3 | h_4 => exact givesWords_withField (fun _ => givesWords_ok ⟨rfl, rfl⟩) _
    case h_5 => exact givesWords_error 2
    all_goals exact givesWords_ok ⟨rfl, rfl⟩

theorem givesWords_misc (w : W32) : GivesWords (decodeMisc w) := by
  unfold decodeMisc
  dsimp only
  split
  case h_4 => exact givesWords_withAReg (fun _ => givesWords_ok ⟨rfl, rfl⟩) _
  case h_5 => exact givesWords_error 2
  all_goals exact givesWords_ok ⟨rfl, rfl⟩

theorem givesWords_queue (w : W32) : GivesWords (decodeQueue w) := by
  unfold decodeQueue
  dsimp only
  split
  case h_2 => exact givesWords_ite (fun _ => givesWords_error 3) fun h => givesWords_ok ⟨decide_eq_true h, rfl⟩
  case h_3 => exact givesWords_withField (fun _ => givesWords_ok ⟨rfl, rfl⟩) _
  case h_5 | h_6 => exact givesWords_ite (fun _ => givesWords_ok ⟨rfl, rfl⟩) fun _ => givesWords_error 3
  case h_7 => exact givesWords_error 2
  all_goals exact givesWords_withField (fun _ => givesWords_withAReg (fun _ => givesWords_ok ⟨rfl, rfl⟩) _) _

theorem givesWords_jreg (w : W32) : GivesWords (decodeJreg w) := by
  unfold decodeJreg
  dsimp only
  split
  · exact givesWords_withAReg (fun _ => givesWords_ok ⟨rfl, rfl⟩) _
  · exact givesWords_withAReg (fun _ => givesWords_withAReg (fun _ => givesWords_ok ⟨rfl, rfl⟩) _) _
  · exact givesWords_error 2

theorem givesWords_fab (w : W32) : GivesWords (decodeFab w) := by
  unfold decodeFab
  dsimp only
  split
  case h_2 | h_5 => exact givesWords_ok ⟨rfl, rfl⟩
  case h_6 => exact givesWords_error 2
  all_goals exact givesWords_withAReg (fun _ => givesWords_ok ⟨rfl, rfl⟩) _

theorem givesWords_book (w : W32) : GivesWords (decodeBook w) := by
  unfold decodeBook
  dsimp only
  split
  · exact givesWords_withAReg (fun _ => givesWords_ok ⟨rfl, rfl⟩) _
  · exact givesWords_ok ⟨rfl, rfl⟩
  · exact givesWords_ok ⟨rfl, rfl⟩
  · exact givesWords_error 2

/-- A MEM word's register is even where the access is of a pair. -/
theorem givesWords_mem {w : W32} {pair : Bool} {k : Reg → AReg → Bool → Scope → MemOrd → BitVec 10 → Instr}
    (h : ∀ d a fa sc o off, (pair = true → d.toNat % 2 = 0) → IsWord (k d a fa sc o off)) : GivesWords (decodeMem w pair k) := by
  refine givesWords_withField (fun sc => givesWords_withField (fun o => ?_) _) _
  refine givesWords_ite (fun _ => givesWords_error 3) fun hp => givesWords_ok (h _ _ _ _ _ _ fun hpair => ?_)
  rw [hpair] at hp
  simp only [bit, bits, Bool.true_and, decide_eq_true_eq, BitVec.toNat_ofNat] at hp ⊢
  omega

theorem givesWords_csr {w : W32} {k : BitVec 12 → Instr} (h : ∀ n, csrDefined n = true → IsWord (k n)) : GivesWords (withCsr w k) :=
  givesWords_ite (fun hn => givesWords_ok (h _ hn)) fun _ => givesWords_error 3

theorem givesWords_tile {w : W32} {k : Hnd → Hnd → Hnd → AReg → Instr} (h : ∀ kd ka kb a, IsWord (k kd ka kb a)) : GivesWords (decodeTile w k) :=
  givesWords_ite (fun _ => givesWords_ok (h _ _ _ _)) fun _ => givesWords_error 2

theorem givesWords_sys (w : W32) : GivesWords (decodeSys w) := by
  unfold decodeSys
  split
  case h_6 | h_7 | h_8 => exact givesWords_withField (fun _ => givesWords_ok ⟨rfl, rfl⟩) _
  case h_9 => exact givesWords_error 2
  all_goals exact givesWords_ok ⟨rfl, rfl⟩

/-- Every word that the decoder accepts stands for a well-formed row with a word. -/
theorem givesWords (w : W32) : GivesWords (decodeWord w) := by
  unfold decodeWord
  dsimp only
  split
  case h_1 => exact givesWords_int w
  case h_2 => exact givesWords_pred w
  case h_3 => exact givesWords_addr w
  case h_4 => exact givesWords_fp64 w
  case h_5 => exact givesWords_fp32 w
  case h_6 => exact givesWords_fpx w
  case h_7 => exact givesWords_misc w
  case h_8 => exact givesWords_queue w
  case h_9 => exact givesWords_jreg w
  case h_10 => exact givesWords_fab w
  case h_18 => exact givesWords_withField (fun _ => givesWords_ok ⟨rfl, rfl⟩) _
  case h_19 => exact givesWords_withAReg (fun _ => givesWords_withAReg (fun _ => givesWords_ok ⟨rfl, rfl⟩) _) _
  case h_20 | h_21 | h_22 => exact givesWords_csr fun _ h => ⟨h, rfl⟩
  case h_26 | h_27 | h_28 | h_29 | h_30 | h_31 | h_32 | h_34 | h_35 | h_36 | h_37 => exact givesWords_mem fun _ _ _ _ _ _ _ => ⟨rfl, rfl⟩
  case h_33 | h_38 => exact givesWords_mem fun _ _ _ _ _ _ hd => ⟨decide_eq_true (hd rfl), rfl⟩
  case h_39 => exact givesWords_book w
  case h_40 | h_41 =>
    refine givesWords_ok ?_
    split <;> exact ⟨rfl, rfl⟩
  case h_42 | h_43 | h_44 | h_45 | h_46 | h_47 | h_48 | h_49 | h_50 | h_51 | h_52 => exact givesWords_tile fun _ _ _ _ => ⟨rfl, rfl⟩
  case h_53 => exact givesWords_sys w
  case h_57 => exact givesWords_error 1
  all_goals exact givesWords_ok ⟨rfl, rfl⟩

/-- Settles O55: each word is the encoder's for its instruction, and decoding reads the encoder's words back. -/
theorem wordsOfTheManualDecode : Obligations.WordsOfTheManualDecode :=
  ⟨roundTrips rfl _ rfl, roundTrips rfl _ rfl, roundTrips rfl _ rfl, roundTrips rfl _ rfl, roundTrips rfl _ rfl, roundTrips rfl _ rfl⟩

/-- Settles O56: the first half by the fields of each format's word; the second because every branch of the decoder gives a well-formed row
with a word, which the first half reads back. -/
theorem decodingInvertsTheEncoder : Obligations.DecodingInvertsTheEncoder := by
  unfold Obligations.DecodingInvertsTheEncoder
  refine ⟨fun i w hi he => roundTrips hi w he, fun w i hd => ?_⟩
  obtain ⟨hi, hw⟩ := givesWords w i hd
  obtain ⟨v, hv⟩ := Option.isSome_iff_exists.1 hw
  exact ⟨hi, v, hv, roundTrips hi v hv⟩

end Sys2Proof
end

section
/-!
Decoding of built commands (R113, R115, R116).
-/

namespace Sys2Proof

/-! ### Built commands -/

/-- A command that fits a row decodes to what the row's operation code, and its flag or subfield, select. -/
theorem decodeCmd_of_cmdOk {e : Eng} {w : CmdAt} {c : Tmpl} {n : Nat} {sub : Bool} {k : CmdAt → Tmpl → Instr} (h : cmdOk w c n sub = true)
    (hr : c.code = n → sub = true → decodeCmd.cmdRow e c = .ok k) : decodeCmd e false w c = .ok (k w c) := by
  simp only [cmdOk, Bool.and_eq_true, decide_eq_true_eq] at h
  obtain ⟨⟨⟨-, hc⟩, hsub⟩, hscope⟩ := h
  have hs : ¬6 ≤ (c.fld 0).toNat % 8 := Nat.not_le_of_lt hscope
  simp only [decodeCmd, Bool.false_eq_true, if_false, hr hc hsub, hs]

theorem decodeCmd_encodeCmd {i : Instr} {e : Option Eng} {c : Tmpl} (hi : wellFormed i = true) (he : encodeCmd i = some (e, c)) :
    ∃ w, decodeCmd (e.getD .ce) e.isNone w c = .ok i := by
  cases i
  case cpNest w _ | cpPack w _ | cpUnpack w _ | cpFill w _ | mxWload w _ | mxRun w _ | mxZero w _ | mxMovin w _ | vLd w _ | vLds w _ | vLdx w _
      | vSt w _ | vSts w _ | vStx w _ | vAdd w _ | vSub w _ | vMul w _ | vFma w _ | vFms w _ | vMin w _ | vMax w _ | vAbs w _ | vNeg w _
      | vAnd w _ | vOr w _ | vXor w _ | vShl w _ | vShr w _ | vSra w _ | vCmp w _ | vSel w _ | vCvt w _ | vRed w _ | vScan w _ | vRcp w _
      | vRsq w _ | vExp2 w _ | vLog2 w _ | vMov w _ | vBcast w _ | vPerm w _ | vmAnd w _ | vmOr w _ | vmNot w _ | saAdd w _ | saMin w _
      | saMax w _ | saAnd w _ | saOr w _ | saXchg w _ | saFlush w _ =>
    obtain ⟨rfl, rfl⟩ := Prod.mk.inj (Option.some.inj he)
    exact ⟨w, decodeCmd_of_cmdOk hi fun hc _ => by unfold decodeCmd.cmdRow; rw [hc]; rfl⟩
  case cpPermLoad w c | mxMovRaw w c =>
    obtain ⟨rfl, rfl⟩ := Prod.mk.inj (Option.some.inj he)
    refine ⟨w, decodeCmd_of_cmdOk hi fun hc hf => ?_⟩
    simp only [decodeCmd.cmdRow, Option.getD_some, hc]
    exact if_pos hf
  case cpPermApply w c | mxMov w c =>
    obtain ⟨rfl, rfl⟩ := Prod.mk.inj (Option.some.inj he)
    refine ⟨w, decodeCmd_of_cmdOk hi fun hc hf => ?_⟩
    simp only [decodeCmd.cmdRow, Option.getD_some, hc]
    exact if_neg (ne_true_of_eq_false (Bool.not_eq_true' _ ▸ hf))
  case cpAmoAdd w c | cpAmoMin w c | cpAmoMax w c | cpAmoAnd w c | cpAmoOr w c | cpAmoXor w c | cpAmoXchg w c | cpAmoCas w c =>
    obtain ⟨rfl, rfl⟩ := Prod.mk.inj (Option.some.inj he)
    refine ⟨w, decodeCmd_of_cmdOk hi fun hc hf => ?_⟩
    have hop : (c.fld 24).toNat % 16 = _ := of_decide_eq_true hf
    simp only [decodeCmd.cmdRow, Option.getD_some, hc, hop]
  case chNop w c | chLink w c =>
    obtain ⟨rfl, rfl⟩ := Prod.mk.inj (Option.some.inj he)
    have hc : c.code = _ := of_decide_eq_true (Bool.and_eq_true _ _ ▸ hi).2
    exact ⟨w, by simp only [decodeCmd, hc, Option.isNone_none, if_true]⟩
  case chMark w c =>
    obtain ⟨rfl, rfl⟩ := Prod.mk.inj (Option.some.inj he)
    have h : cmdOk w c 2 true = true := hi
    simp only [cmdOk, Bool.and_eq_true, decide_eq_true_eq] at h
    obtain ⟨⟨⟨-, hc⟩, -⟩, hscope⟩ := h
    have hc : c.code = 2 := hc
    have hs : ¬6 ≤ (c.fld 0).toNat % 8 := Nat.not_le_of_lt hscope
    exact ⟨w, by simp only [decodeCmd, hc, Option.isNone_none, if_true, hs, if_false]⟩
  all_goals cases he

/-- The row of an operation code is a row of its engine. -/
theorem encodeCmd_of_cmdRow {e : Eng} {c : Tmpl} {k : CmdAt → Tmpl → Instr} (h : decodeCmd.cmdRow e c = .ok k) (w : CmdAt) (d : Tmpl) :
    encodeCmd (k w d) = some (some e, d) := by
  unfold decodeCmd.cmdRow at h
  split at h
  case h_4 | h_10 =>
    split at h
    all_goals
      cases h
      rfl
  case h_6 =>
    split at h
    all_goals
      cases h
    all_goals rfl
  all_goals
    cases h
  all_goals rfl

theorem encodeCmd_decodeCmd {e : Eng} {w : CmdAt} {c : Tmpl} {i : Instr} (h : decodeCmd e false w c = .ok i) :
    encodeCmd i = some (some e, c) := by
  simp only [decodeCmd, Bool.false_eq_true, if_false] at h
  split at h
  · cases h
  · next k hk =>
    split at h
    · cases h
    · cases h
      exact encodeCmd_of_cmdRow hk w c

/-- Settles O57. -/
theorem commandsDecode : Obligations.CommandsDecode :=
  ⟨fun _ _ _ hi he => decodeCmd_encodeCmd hi he, fun _ _ _ _ h => encodeCmd_decodeCmd h⟩

end Sys2Proof
end

section
/-!
Full/empty words, sources that are not FULL, and words without a result (R96, R130, R131, R183, R192, R196).
-/

namespace Sys2Proof.Machine

/-! ### How a word ends -/

/-- A word that is done ends in the state it leaves. -/
theorem State.ends_ok {s t : State} {i : Instr} {r : Res} {P : State → Prop} (h : exec i s = r.out) (hr : r = .ok t) (hp : P t) : s.Ends i P :=
  ⟨t, h.trans (by rw [hr]; rfl), hp⟩

/-- A word that traps ends where its trap goes. -/
theorem State.ends_trap {s u : State} {i : Instr} {r : Res} {x : Trap} {P : State → Prop} (h : exec i s = r.out) (hr : r = .trap u x)
    (hp : P (u.takeTrap u.focusCore u.focusFw x)) : s.Ends i P :=
  ⟨_, h.trans (by rw [hr]; rfl), hp⟩

/-- A word that waits ends in its own state, blocked. -/
theorem State.ends_wait {s u : State} {i : Instr} {r : Res} {P : State → Prop} (h : exec i s = r.out) (hr : r = .wait u) (hp : P u.blockCur) :
    s.Ends i P :=
  ⟨_, h.trans (by rw [hr]; rfl), hp⟩

/-! ### Full/empty words (R183) -/

theorem Ctx.setFE_keepsS (c : Ctx) (d : Reg) (e : FE) : c.KeepsS (c.setFE d e) [d] := fun q hq => by
  refine ⟨Ctx.getS_setFE .., ?_, Ctx.getMark_setFE ..⟩
  have hn : ¬d.toNat = q.toNat := Ne.symm (Reg.toNat_ne (by simpa using hq))
  unfold Ctx.getFE Ctx.setFE
  by_cases h : d = 0#6
  · simp [h]
  · simp [h, FMap.get_put, hn]

theorem Ctx.onlyRegs_setFE_advance (c : Ctx) (d : Reg) (e : FE) : c.OnlyRegs (c.setFE d e).advance := by
  unfold Ctx.OnlyRegs Ctx.advance Ctx.setFE
  split <;> split <;> rfl

/-- A word that sets the state of a register goes on and leaves its value, its mark and everything else. -/
theorem State.setFE_advance_sets (s : State) (d : Reg) (e : FE) :
    let t := s.setCur (s.cur.setFE d e).advance
    s.OnlyCtx t ∧ s.cur.OnlyRegs t.cur ∧ s.cur.Moved t.cur ∧ t.cur.getFE d = (if d = 0 then .full else e)
      ∧ t.cur.getS d = s.cur.getS d ∧ t.cur.getMark d = s.cur.getMark d
      ∧ s.cur.KeepsS t.cur [d] ∧ s.cur.KeepsA t.cur [] ∧ s.cur.KeepsP t.cur [] := by
  obtain ⟨hS, hFE, hMark⟩ := (s.cur.setFE d e).advance_keepsS [] d (by simp)
  refine ⟨s.onlyCtx_setCur _, ?_⟩
  rw [State.cur_setCur]
  exact ⟨Ctx.onlyRegs_setFE_advance .., (Ctx.advance_moved _).of_same (by simp) (by simp), hFE.trans (Ctx.getFE_setFE ..),
    hS.trans (Ctx.getS_setFE ..), hMark.trans (Ctx.getMark_setFE ..), (Ctx.setFE_keepsS _ _ _).trans (Ctx.advance_keepsS _ _),
    fun q _ => by simp [Ctx.getA], fun q _ => by simp [Ctx.getP]⟩

/-! ### Sources that are not FULL (R130) -/

theorem readSrc_empty {s : State} {r : Reg} (h : s.cur.getFE r = .empty) (pol : Bool) (k : W64 → Res) :
    readSrc s r pol k = .trap s (mkTrap .feEmpty r.toNat 1 0 0) := by unfold readSrc; rw [h]

theorem readSrc_pending {s : State} {r : Reg} (h : s.cur.getFE r = .pending) (pol : Bool) (k : W64 → Res) :
    readSrc s r pol k = if pol then .trap s (mkTrap .feEmpty r.toNat 0 0 0) else .wait s := by unfold readSrc; rw [h]

theorem mkTrap_reg (c : Cause) (r : Reg) (n : Nat) :
    mkTrap c r.toNat n 0 0 = { cause := c, e0 := r.setWidth 64, e1 := BitVec.ofNat 64 n, e2 := 0, e3 := 0 } := by
  simp [mkTrap]

/-! ### Waking engines (R196, R465) -/

theorem Engine.wakeUp_eq (x : Engine) (now : Nat) (e : Eng) :
    x.wakeUp now e = { x with gate := if x.gate = .gated then .ungating (now + if e = .me then 256 else 64) else x.gate } := by
  obtain ⟨_, _, _, _, _, _, _, _, _, _, _, _, _, _, _, _, _, _, gate, _, _, _, _⟩ := x
  cases gate <;> rfl

/-- The engines of a mask are those whose bit is set (R196, R207). -/
theorem mem_engMask (m : BitVec 4) (e : Eng) : e ∈ engMask m ↔ m.getLsbD e.code = true := by
  have he : e ∈ [Eng.ce, .me, .ve, .sae] := by cases e <;> decide
  simp only [engMask, List.mem_filter, he, true_and, nbit_toNat]

theorem nodup_engMask (m : BitVec 4) : (engMask m).Nodup := List.Nodup.filter _ (by decide)

/-- A change made to each engine of a list without repetition is made to each of them once, and to nothing else of the core. -/
theorem Core.foldl_setEng (f : Engine → Eng → Engine) {l : List Eng} (hl : l.Nodup) (c : Core) :
    let d := l.foldl (fun c e => c.setEng e (f (c.eng e) e)) c
    (∀ e, d.eng e = if e ∈ l then f (c.eng e) e else c.eng e) ∧ d = { c with me := d.me, ce := d.ce, ve := d.ve, sae := d.sae } := by
  induction l generalizing c with
  | nil => exact ⟨fun _ => rfl, rfl⟩
  | cons a l ih =>
    obtain ⟨ha, hl⟩ := List.nodup_cons.1 hl
    obtain ⟨heng, hrest⟩ := ih hl (c.setEng a (f (c.eng a) a))
    refine ⟨fun e => (heng e).trans ?_, hrest.trans ?_⟩
    · by_cases h : a = e
      · subst h
        rw [if_neg ha, if_pos (List.mem_cons_self ..), Core.eng_setEng_self]
      · rw [Core.eng_setEng_of_ne _ _ h]
        simp only [List.mem_cons, Ne.symm h, false_or]
    · cases a <;> rfl

/-- A word that changes its core and goes on has changed nothing else. -/
theorem State.setCurCore_passed (s : State) (c : Core) : (s.setCurCore c).Passed (s.setCurCore c).retire := by
  obtain ⟨t, ht, hp⟩ := retire_passed (s.setCurCore c)
  cases ht
  exact hp

theorem exec_passed {s : State} {i : Instr} (h : exec i s = (Res.ok s.retire).out) : s.Ends i s.Passed := by
  obtain ⟨t, ht, hp⟩ := retire_passed s
  exact ⟨t, h.trans ht, hp⟩

/-- Settles O6: each outcome is that of the first operand that does not let the word go on; `wake` changes each engine of its mask once. -/
theorem fullEmptyAndPlainWords : Obligations.FullEmptyAndPlainWords := by
  unfold Obligations.FullEmptyAndPlainWords
  refine ⟨fun s d pd a => ⟨fun hd => ⟨?clear, ?set⟩, writeP_wrote ..⟩, fun s d a b fa fb x y => ?sources, fun s pl m => ?plain⟩
  case clear => exact State.ends_ok (r := waitDest s d _) rfl (waitDest_takes hd _) (s.setFE_advance_sets d .empty)
  case set =>
    refine State.ends_ok (r := waitDest s d _) rfl (waitDest_takes hd _) ?_
    exact s.setFE_advance_sets d .full
  case sources =>
    have hex (fa fb : Bool) : exec (.add d a b fa fb) s =
        (readSrc s a fa fun x => readSrc s b fb fun y => waitDest s d (writeS s d (x + y))).out := rfl
    refine ⟨fun ha => ?emptyA, fun ha => ⟨?trapA, ?waitA⟩, fun ha => ⟨fun hb => ?emptyB, fun hb => ⟨?trapB, ?waitB⟩, fun hb hd => ?waitD⟩⟩
    case emptyA => exact State.ends_trap (hex ..) (readSrc_empty ha ..) (by rw [mkTrap_reg])
    case trapA => exact State.ends_trap (hex ..) (readSrc_pending ha ..) (by rw [mkTrap_reg])
    case waitA => exact State.ends_wait (hex ..) (readSrc_pending ha ..) rfl
    case emptyB => exact State.ends_trap (hex ..) ((readSrc_reads ha ..).trans (readSrc_empty hb ..)) (by rw [mkTrap_reg])
    case trapB => exact State.ends_trap (hex ..) ((readSrc_reads ha ..).trans (readSrc_pending hb ..)) (by rw [mkTrap_reg])
    case waitB => exact State.ends_wait (hex ..) ((readSrc_reads ha ..).trans (readSrc_pending hb ..)) rfl
    case waitD =>
      exact State.ends_wait (hex ..) ((readSrc_reads ha ..).trans ((readSrc_reads hb ..).trans (waitDest_pending hd _))) rfl
  case plain =>
    refine ⟨exec_passed rfl, exec_passed rfl, exec_passed rfl, exec_passed rfl, _, rfl, ?_⟩
    obtain ⟨heng, hrest⟩ := Core.foldl_setEng (fun x e => x.wakeUp s.tb e) (nodup_engMask m) s.curCore
    refine ⟨_, s.setCurCore_passed _, fun e => (heng e).trans ?_, hrest⟩
    rw [Engine.wakeUp_eq]
    by_cases h : m.getLsbD e.code = true
    · simp [mem_engMask, h]
    · simp [mem_engMask, h]

end Sys2Proof.Machine
end

section
/-!
Branches and jumps, and what a delay slot forbids (R98 to R100, R170 to R172).
-/

namespace Sys2Proof

theorem FMap.erase_ins_self {α : Type} (m : FMap α) (k : Nat) (v : α) : (m.ins k v).erase k = m.erase k := by
  induction m with
  | nil => simp [ins, erase]
  | cons p m ih =>
    obtain ⟨i, w⟩ := p
    rcases Nat.lt_trichotomy i k with h | h | h
    · simp [ins, erase, h, Nat.ne_of_lt h, ih]
    · subst h; simp [ins, erase]
    · simp [ins, erase, Nat.not_lt_of_gt h, Nat.ne_of_gt h]

theorem FMap.ins_ins_self {α : Type} (m : FMap α) (k : Nat) (v w : α) : (m.ins k w).ins k v = m.ins k v := by
  induction m with
  | nil => simp [ins]
  | cons p m ih =>
    obtain ⟨i, x⟩ := p
    rcases Nat.lt_trichotomy i k with h | h | h
    · simp [ins, h, ih]
    · subst h; simp [ins]
    · simp [ins, Nat.not_lt_of_gt h, Nat.ne_of_gt h]

/-- Of two writes at one key the later one stands, in a map that is not canonical too where the first value is not the default. -/
theorem FMap.put_put_self {α : Type} [DecidableEq α] {d w : α} (hw : w ≠ d) (m : FMap α) (k : Nat) (v : α) :
    (m.put d k w).put d k v = m.put d k v := by
  unfold put
  rw [if_neg hw]
  split
  · exact FMap.erase_ins_self ..
  · exact FMap.ins_ins_self ..

namespace Machine

theorem State.setCur_setCur {s : State} {x : Ctx} (h : s.curCore.setCtx s.focusFw x ≠ Core.reset) (y : Ctx) :
    (s.setCur x).setCur y = s.setCur y := by
  have hc : ((s.setCur x).core s.focusCore).setCtx s.focusFw y = s.curCore.setCtx s.focusFw y := by
    rw [show (s.setCur x).core s.focusCore = _ from s.curCore_setCur x, Core.setCtx_setCtx]
  show (s.setCur x).setCore s.focusCore (((s.setCur x).core s.focusCore).setCtx s.focusFw y) = s.setCore s.focusCore (s.curCore.setCtx s.focusFw y)
  rw [hc]
  exact congrArg (fun m => ({ s with cores := m } : State)) (FMap.put_put_self h ..)

/-! ### Branches and jumps (R98, R170 to R172) -/

theorem State.branch_branched (s : State) (t : VAddr) : s.Branched t (s.setCur (s.cur.branch t)) :=
  ⟨s.onlyCtx_setCur _, State.cur_setCur ..⟩

/-- A core that links the address after a delay slot is not the core at reset: the address is 8 past its PC. -/
theorem Core.linked_ne_reset (c : Core) (fw : Bool) (x : Ctx) (r : AReg) : c.setCtx fw { x with a := (x.setA r (x.pc + 8)).a } ≠ Core.reset := by
  intro h
  have hx : ({ x with a := (x.setA r (x.pc + 8)).a } : Ctx) = Ctx.reset fw := by
    rw [← Core.ctx_setCtx_self c fw { x with a := _ }, h]
    cases fw <;> rfl
  have hpc : x.pc = 0 := congrArg Ctx.pc hx
  have ha : (x.setA r (x.pc + 8)).getA r = (Ctx.reset fw).getA r := congrArg (Ctx.getA · r) hx
  rw [Ctx.getA_setA_self, hpc, show (Ctx.reset fw).getA r = 0 from rfl] at ha
  exact absurd ha (by decide)

/-- A jump that links writes the address after its slot, and is taken. -/
theorem State.linked_branched (s : State) (r : AReg) (tgt : VAddr) :
    let t := s.setCur ((s.cur.setA r (s.cur.pc + 8)).branch tgt)
    (s.setCur { s.cur with a := t.cur.a }).Branched tgt t ∧ t.cur.getA r = s.cur.pc + 8 ∧ s.cur.KeepsA t.cur [r] := by
  intro t
  have hcur : t.cur = (s.cur.setA r (s.cur.pc + 8)).branch tgt := State.cur_setCur ..
  have ha : t.cur.a = (s.cur.setA r (s.cur.pc + 8)).a := by rw [hcur]; rfl
  rw [ha]
  refine ⟨⟨?_, ?_⟩, ?_, ?_⟩
  · exact ((State.setCur_setCur (Core.linked_ne_reset _ _ _ _) _).trans (congrArg s.setCur hcur)).symm
  · rw [hcur, State.cur_setCur]; rfl
  · rw [hcur]; exact Ctx.getA_setA_self ..
  · rw [hcur]; exact s.cur.setA_keepsA r _

theorem mkTrap_addr (c : Cause) (v : VAddr) : mkTrap c v.toNat 0 0 0 = { cause := c, e0 := v.setWidth 64, e1 := 0, e2 := 0, e3 := 0 } := by
  simp [mkTrap]

theorem mkTrap_word (c : Cause) (w : W32) (n : Nat) :
    mkTrap c w.toNat n 0 0 = { cause := c, e0 := w.setWidth 64, e1 := BitVec.ofNat 64 n, e2 := 0, e3 := 0 } := by
  simp [mkTrap]

theorem jumpTo_aligned {s : State} (hs : s.NoSlot) {t : VAddr} (h : t.toNat % 4 = 0) (c : Ctx) : jumpTo s t c = .ok (s.setCur (c.branch t)) :=
  (notInSlot_noSlot hs _).trans (if_neg (not_not.2 h))

theorem jumpTo_misaligned {s : State} (hs : s.NoSlot) {t : VAddr} (h : t.toNat % 4 ≠ 0) (c : Ctx) :
    jumpTo s t c = .trap s (mkTrap .align t.toNat 0 0 0) :=
  (notInSlot_noSlot hs _).trans (if_pos h)

theorem branchIf_taken {s : State} (hs : s.NoSlot) (off : BitVec 21) :
    branchIf s true off = .ok (s.setCur (s.cur.branch (target21 s.cur.pc off))) := notInSlot_noSlot hs _

theorem branchIf_untaken {s : State} (hs : s.NoSlot) (off : BitVec 21) : branchIf s false off = .ok s.retire := notInSlot_noSlot hs _

/-- Settles O7: outside a slot each word is its equation, and in one the check of R100 comes first in all of them. -/
theorem branchesAndDelaySlots : Obligations.BranchesAndDelaySlots := by
  unfold Obligations.BranchesAndDelaySlots
  refine ⟨fun s n h off joff d a hs => ?free, fun s tgt n h off joff d a hs => ?slot⟩
  case free =>
    intro tgt linked
    have hBT : exec (.bT n h off) s = (branchIf s (s.cur.getP n) off).out := rfl
    have hBF : exec (.bF n h off) s = (branchIf s (!s.cur.getP n) off).out := rfl
    have hJr : exec (.jr a) s = (jumpTo s (s.cur.getA a) s.cur).out := rfl
    have hJalr : exec (.jalr d a) s = (jumpTo s (s.cur.getA a) (s.cur.setA d (s.cur.pc + 8))).out := rfl
    have htaken {i : Instr} (hi : exec i s = (branchIf s true off).out) : s.Ends i (s.Branched (tgt off.toInt)) :=
      State.ends_ok hi (branchIf_taken hs off) (s.branch_branched _)
    have huntaken {i : Instr} (hi : exec i s = (branchIf s false off).out) : s.Ends i s.Passed :=
      exec_passed (hi.trans (congrArg Res.out (branchIf_untaken hs off)))
    refine ⟨fun hp => ?_, fun hp => ?_, ?_, ?_, fun ha => ⟨?_, ?_⟩, fun ha => ?_⟩
    · rw [hp] at hBT hBF
      exact ⟨htaken hBT, huntaken hBF⟩
    · rw [hp] at hBT hBF
      exact ⟨huntaken hBT, htaken hBF⟩
    · exact State.ends_ok (r := notInSlot s _) rfl (notInSlot_noSlot hs _) (s.branch_branched _)
    · exact State.ends_ok (r := notInSlot s _) rfl (notInSlot_noSlot hs _) (s.linked_branched 13 _)
    · exact State.ends_ok hJr (jumpTo_aligned hs ha _) (s.branch_branched _)
    · exact State.ends_ok hJalr (jumpTo_aligned hs ha _) (s.linked_branched d _)
    · intro trapped
      exact ⟨State.ends_trap hJr (jumpTo_misaligned hs ha _) (by rw [mkTrap_addr]),
        State.ends_trap hJalr (jumpTo_misaligned hs ha _) (by rw [mkTrap_addr])⟩
  case slot =>
    have hill {i : Instr} {r : Res} (hi : exec i s = (notInSlot s r).out) : s.Ends i fun t => t = s.takeTrap s.focusCore s.focusFw
        { cause := .illegalSlot, e0 := s.word.setWidth 64, e1 := 0, e2 := 0, e3 := 0 } :=
      State.ends_trap hi (notInSlot_slot hs r) (by rw [mkTrap_word]; rfl)
    simp only [List.forall_mem_cons]
    exact ⟨hill rfl, hill rfl, hill rfl, hill rfl, hill rfl, hill rfl, hill rfl, hill rfl, fun _ h => nomatch h⟩

end Machine
end Sys2Proof
end

section
/-!
One issue: the turn of a context, what its fetch gives, and what the word comes to (R97, R139 to R142, R173, R235).
-/

namespace Sys2Proof.Machine

/-! ### One issue (R139 to R142, R173) -/

/-- A context that is alive and takes no notice goes on in its tick of the issue slot. -/
theorem State.issue_live {s b : State} {k : Nat} {fw : Bool} (hb : b = { s with focusCore := k, focusFw := fw })
    (hn : fw = true ∨ b.takesNotice k = false) (hl : b.live k fw = true) :
    s.issue k fw =
      (let t := b.slotTick k fw
       if !fw && t.firmFirst k then .next t
       else
         match t.fetch k fw t.cur.pc with
         | .wait x => .next x
         | .fault x f => if x.cur.mayIssue 1 then x.issueWith 0 1 (execFetchTrap f) else .next x
         | .word x w => x.issueWord w) := by
  subst hb
  have hnotice : (!fw && ({ s with focusCore := k, focusFw := fw } : State).takesNotice k) = false := by
    rcases hn with rfl | h
    · rfl
    · rw [h, Bool.and_false]
  unfold State.issue
  simp only [hnotice, hl, Bool.false_eq_true, if_false, Bool.not_true] <;> rfl

/-- A step is the issue of the context that the agenda or the schedule names. -/
theorem step_issues {s b : State} {k : Nat} {fw : Bool} {ts : List Turn}
    (h : (s.agenda = .issue k fw :: ts ∧ b = { s with agenda := ts, focusCore := k, focusFw := fw })
      ∨ (s.agenda = [] ∧ s.nextContext = some (k, fw) ∧ b = { s with focusCore := k, focusFw := fw })) :
    ∃ u : State, step s = u.issue k fw ∧ b = { u with focusCore := k, focusFw := fw } := by
  unfold step
  rcases h with ⟨ha, hb⟩ | ⟨ha, hn, hb⟩
  · rw [ha]
    exact ⟨_, rfl, hb⟩
  · rw [ha]
    refine ⟨s, ?_, hb⟩
    dsimp only [autoTurn]
    rw [hn]

/-- A word that is paid for has its effect in the state in which it is charged. -/
theorem State.issueWith_next {x u : State} {w : W32} {n : Nat} {f : State → Host.Outcome State Fault Refusal}
    (h : f { x.setCur { x.cur.charge n with blocked := false } with word := w } = .next u) : x.issueWith w n f = .next (u.unpay x.cur) := by
  unfold State.issueWith
  simp only [h]

/-- What a fetch leads to, as one form: a cost, a word, and an effect. -/
theorem State.fetched_issues {t x : State} {k n : Nat} {fw : Bool} {w : W32} {run : State → Host.Outcome State Fault Refusal}
    (h : (∃ i, t.fetch k fw t.cur.pc = .word x w ∧ decodeWord w = .ok i ∧ n = (if x.cur.resumed then 0 else cost i) ∧ run = exec i)
      ∨ (∃ m, t.fetch k fw t.cur.pc = .word x w ∧ decodeWord w = .error m ∧ n = 1 ∧ run = exec (.illegal w m))
      ∨ ∃ f, t.fetch k fw t.cur.pc = .fault x f ∧ w = 0 ∧ n = 1 ∧ run = fun y => .next (y.takeTrap y.focusCore y.focusFw f)) :
    (match t.fetch k fw t.cur.pc with
      | .wait x => .next x
      | .fault x f => if x.cur.mayIssue 1 then x.issueWith 0 1 (execFetchTrap f) else .next x
      | .word x w => x.issueWord w) = if x.cur.mayIssue n then x.issueWith w n run else .next x := by
  rcases h with ⟨i, hf, hd, rfl, rfl⟩ | ⟨m, hf, hd, rfl, rfl⟩ | ⟨f, hf, rfl, rfl, rfl⟩
  · simp only [hf, State.issueWord, hd]
    rfl
  · simp only [hf, State.issueWord, hd]
    rfl
  · simp only [hf]
    rfl

/-! ### The fetched word (R143, R235) -/

theorem State.fetch_cached {s x : State} {k : Nat} {fw : Bool} {va : VAddr} {key : Nat} {win : Option Nat} {y : W32}
    (h : s.translate k fw .fetch va = (x, .ok (.home key) win)) (hc : (x.core k).icache.find? (fun e => e.1 = key) = some (key, y)) :
    s.fetch k fw va = .word x y := by
  unfold State.fetch
  simp only [h, hc]

theorem State.fetch_own {s x : State} {k : Nat} {fw : Bool} {va : VAddr} {key : Nat} {win : Option Nat}
    (h : s.translate k fw .fetch va = (x, .ok (.home key) win)) (hc : (x.core k).icache.find? (fun e => e.1 = key) = none)
    (hd : homeDie key = dieOf k) :
    ∃ u, s.fetch k fw va = .word u (BitVec.ofNat 32 (leNat (readBytes x.mem key 4))) ∧ u.mem = x.mem := by
  have hr : x.readLine k (.scalar fw) key 4 = (x.noteSeen (dieOf k) (lineOf key), readBytes x.mem key 4) := by
    unfold State.readLine
    rw [if_pos hd]
  have hf : s.fetch k fw va = (x.noteSeen (dieOf k) (lineOf key)).keepWord k key (readBytes x.mem key 4) := by
    unfold State.fetch
    simp only [h, hc, hr]
  exact ⟨_, hf, (State.setCore_mem ..).trans (x.noteSeen_mem (dieOf k) (lineOf key))⟩

/-- Settles O58: the step is the issue of the named context, which fetches in its tick of the slot; what the fetch gives has a cost and an
effect, and a context that can pay has the effect. -/
theorem aStepRunsTheDecodedInstruction : Obligations.AStepRunsTheDecodedInstruction := by
  unfold Obligations.AStepRunsTheDecodedInstruction
  refine ⟨fun s b k fw ts hturn hnotice hlive => ?issue, fun s i ts h => ?event, fun s x k fw va key win h => ?fetch⟩
  case issue =>
    intro t
    obtain ⟨u, hstep, hb⟩ := step_issues hturn
    rw [hstep, State.issue_live hb hnotice hlive]
    refine ⟨fun hf hfirst => ?_, fun hfirst => ?_⟩
    · subst hf
      exact if_pos ((Bool.true_and _).trans hfirst)
    · have hmine : (!fw && t.firmFirst k) = false := by
        rcases hfirst with rfl | h
        · rfl
        · rw [h, Bool.and_false]
      dsimp only
      rw [if_neg (ne_true_of_eq_false hmine)]
      refine ⟨fun x hx => ?_, fun x w n run hx => ⟨fun hpay => ?_, fun hpay v hv => ?_⟩⟩
      · rw [show (b.slotTick k fw).fetch k fw (b.slotTick k fw).cur.pc = .wait x from hx]
      · rw [State.fetched_issues hx, if_neg (ne_true_of_eq_false hpay)]
      · rw [State.fetched_issues hx, if_pos hpay, State.issueWith_next hv]
  case event =>
    unfold step
    rw [h]
    rfl
  case fetch => exact ⟨fun y hy => State.fetch_cached h hy, State.fetch_own h⟩

end Sys2Proof.Machine
end

section
/-!
Entering a trap, a double trap, and the traps of decoding, fetch, alignment, translation and privilege (R133, R161, R439, R441).
-/

namespace Sys2Proof.Machine

/-! ### Numbers put together from fields -/

theorem toNat_append_eq {m n : Nat} (x : BitVec m) (y : BitVec n) : (x ++ y).toNat = x.toNat * 2 ^ n + y.toNat := by
  rw [BitVec.toNat_append, ← Nat.shiftLeft_add_eq_or_of_lt y.isLt, Nat.shiftLeft_eq]

theorem ofNat_toNat_extract (v : VAddr) : BitVec.ofNat 64 v.toNat = v.extractLsb' 0 64 := by
  apply BitVec.eq_of_toNat_eq
  simp

theorem setWidth_eq_extract (v : VAddr) : v.setWidth 64 = v.extractLsb' 0 64 := by rw [← ofNat_toNat_extract, BitVec.ofNat_toNat]

theorem Cause.code_lt (c : Cause) : c.code < 256 := by cases c <;> decide

/-! ### Taking a trap (R439, R441) -/

theorem Ctx.countStall_eq (c : Ctx) (now : Nat) : ∃ n, c.countStall now = { c with stallCnt := n } := by
  unfold Ctx.countStall
  split
  · exact ⟨_, rfl⟩
  · exact ⟨c.stallCnt, rfl⟩

/-- A core whose context has entered its handler: the context stands there, and the demand of the core is left. -/
def State.handled (s : State) (k : Nat) (fw : Bool) (x : Ctx) : State :=
  let u := s.setCtx k fw x
  u.setCore k ((u.core k).leaveDemand fw)

theorem State.handled_ctx (s : State) (k : Nat) (fw : Bool) (x : Ctx) : (s.handled k fw x).ctx k fw = x := by
  unfold State.handled State.ctx
  rw [State.core_setCore_self, Core.leaveDemand_ctx]
  exact State.ctx_setCtx_self ..

theorem State.handled_other (s : State) (k : Nat) (fw : Bool) (x : Ctx) : (s.handled k fw x).ctx k (!fw) = s.ctx k (!fw) := by
  unfold State.handled State.ctx
  rw [State.core_setCore_self, Core.leaveDemand_ctx]
  exact State.ctx_setCtx_not ..

theorem State.handled_only (s : State) (k : Nat) (fw : Bool) (x : Ctx) : s.handled k fw x = { s with cores := (s.handled k fw x).cores } := rfl

section Handled

variable {s : State} {k : Nat} {fw : Bool} (t : Trap) (async : Bool) (pc : VAddr) (slot : Option VAddr) (h : (s.ctx k fw).CanTrap fw)

include h

theorem State.takeTrapAt_ctx :
    (s.takeTrapAt k fw t async pc slot).ctx k fw = ((s.ctx k fw).countStall s.tb).enter fw t async pc slot := by
  rw [State.takeTrapAt_handled _ _ _ _ _ _ _ h]
  generalize ((s.ctx k fw).countStall s.tb).enter fw t async pc slot = x
  cases async <;> exact s.handled_ctx k fw x

theorem State.takeTrapAt_other : (s.takeTrapAt k fw t async pc slot).ctx k (!fw) = s.ctx k (!fw) := by
  rw [State.takeTrapAt_handled _ _ _ _ _ _ _ h]
  generalize ((s.ctx k fw).countStall s.tb).enter fw t async pc slot = x
  cases async <;> exact s.handled_other k fw x

theorem State.takeTrapAt_core_of_ne {j : Nat} (hj : j ≠ k) : (s.takeTrapAt k fw t async pc slot).core j = s.core j := by
  rw [State.takeTrapAt_handled _ _ _ _ _ _ _ h]
  generalize ((s.ctx k fw).countStall s.tb).enter fw t async pc slot = x
  cases async <;> exact (State.core_setCore_of_ne _ _ (Ne.symm hj)).trans (State.core_setCore_of_ne _ _ (Ne.symm hj))

/-- A trap that finds its handler changes the cores, and what the walks of its core have read where it is asynchronous. -/
theorem State.takeTrapAt_only :
    s.takeTrapAt k fw t async pc slot = { s with
      cores := (s.takeTrapAt k fw t async pc slot).cores, flights := if async then (s.dropWalk k).flights else s.flights } := by
  rw [State.takeTrapAt_handled _ _ _ _ _ _ _ h]
  generalize ((s.ctx k fw).countStall s.tb).enter fw t async pc slot = x
  cases async
  · exact s.handled_only k fw x
  · exact congrArg (State.dropWalk · k) (s.handled_only k fw x)

end Handled

/-- What trap entry saves of a context, and where it goes (R439). -/
theorem Ctx.enter_saves {c : Ctx} (hi : c.ih = false) (now : Nat) (fw : Bool) (t : Trap) (async : Bool) (pc : VAddr) (slot : Option VAddr) :
    let d := (c.countStall now).enter fw t async pc slot
    d.sstatus = pc.extractLsb' 64 8 ++ (slot.getD 0).extractLsb' 64 8 ++ (0 : BitVec 45) ++ BitVec.ofBool c.ds ++ BitVec.ofBool false
        ++ BitVec.ofBool fw
      ∧ d.epc = pc.extractLsb' 0 64 ∧ d.etgt = (slot.getD 0).extractLsb' 0 64
      ∧ d.ecause = BitVec.ofBool async ++ (0 : BitVec 55) ++ BitVec.ofNat 8 t.cause.code
      ∧ d.einfo0 = t.e0 ∧ d.einfo1 = t.e1 ∧ d.einfo2 = t.e2 ∧ d.einfo3 = t.e3
      ∧ d.ih = true ∧ d.ds = slot.isSome ∧ d.pc = (0 : BitVec 8) ++ c.tvec.extractLsb' 2 62 ++ (0 : BitVec 2) ∧ d.slot = none
      ∧ c.KeepsS d [] ∧ c.KeepsA d [] ∧ c.KeepsP d [] ∧ d.bucket = c.bucket ∧ d.fcsr = c.fcsr ∧ d.tvec = c.tvec := by
  obtain ⟨n, hn⟩ := c.countStall_eq now
  rw [hn]
  refine ⟨?status, ofNat_toNat_extract pc, ofNat_toNat_extract _, ?cause, rfl, rfl, rfl, rfl, rfl, rfl, ?handler, rfl, fun _ _ => ⟨rfl, rfl, rfl⟩,
    fun _ _ => rfl, fun _ _ => rfl, rfl, rfl, rfl⟩
  case status =>
    apply BitVec.eq_of_toNat_eq
    have h1 := pc.isLt
    have h2 := (slot.getD 0).isLt
    simp only [Ctx.enter, Ctx.status, hi, toNat_append_eq, BitVec.toNat_ofNat, BitVec.extractLsb'_toNat, Nat.shiftRight_eq_div_pow,
      BitVec.toNat_ofBool, Bool.toNat_false, Bool.false_eq_true, if_false]
    cases c.ds <;> cases fw <;> simp <;> omega
  case cause =>
    apply BitVec.eq_of_toNat_eq
    have h := t.cause.code_lt
    simp only [Ctx.enter, toNat_append_eq, BitVec.toNat_ofNat, BitVec.toNat_ofBool]
    cases async <;> simp <;> omega
  case handler =>
    apply BitVec.eq_of_toNat_eq
    have h := c.tvec.isLt
    simp only [Ctx.enter, toNat_append_eq, BitVec.toNat_ofNat, BitVec.extractLsb'_toNat, Nat.shiftRight_eq_div_pow]
    simp
    omega

/-- A synchronous trap of firmware inside a handler halts its core (R441). -/
theorem State.takeTrap_halts {s : State} {k : Nat} (t : Trap) (h : (s.ctx k true).ih = true) :
    s.takeTrap k true t = (s.setCore k { s.core k with dead := true }).tell (.coreHalted k) := by
  obtain ⟨n, hn⟩ := (s.ctx k true).countStall_eq s.tb
  unfold State.takeTrap State.takeTrapAt
  rw [hn]
  simp only [h, Bool.true_or, if_true]
  rfl

/-! ### Scalar accesses that trap (R161, R227, R277) -/

theorem mkTrap_at (c : Cause) (va : VAddr) (n : Nat) :
    mkTrap c va.toNat n 0 0 = { cause := c, e0 := va.extractLsb' 0 64, e1 := BitVec.ofNat 64 n, e2 := 0, e3 := 0 } := by
  simp only [mkTrap, ofNat_toNat_extract, BitVec.ofNat_eq_ofNat]

/-- The outcome of a scalar access makes the checks of R161 and R277: the alignment of the address, its translation, the scratch area. -/
structure State.Checked (s : State) (acc : Acc) (va : VAddr) (n : Nat) (r : Res) : Prop where
  align : va.toNat % n ≠ 0 → r = .trap s (mkTrap .align va.toNat n 0 0)
  page : ∀ u, va.toNat % n = 0 → s.translate s.focusCore s.focusFw acc va = (u, .page) → r = .trap u (mkTrap .page va.toNat 0 0 0)
  prot : ∀ u, va.toNat % n = 0 → s.translate s.focusCore s.focusFw acc va = (u, .prot) → r = .trap u (mkTrap .prot va.toNat 0 0 0)
  scratch : ∀ x, va.toNat % n = 0 → s.focusFw = false → s.acquiring s.focusCore false = false →
    s.translate s.focusCore false acc va = (s, .ok (.spad s.focusCore x) none) → s.curCore.inScratch x n = true →
    r = .trap s (mkTrap .prot va.toNat 0 0 0)

theorem notScratch_inScratch {s : State} {x n : Nat} (h : s.focusFw = false) (g : s.curCore.inScratch x n = true) (va : VAddr) (k : Res) :
    notScratch s va x n k = .trap s (mkTrap .prot va.toNat 0 0 0) := by
  unfold notScratch
  rw [h, g]
  rfl

/-- An access that goes on, at its own scratchpad, only past the check of the scratch area. -/
theorem State.checked {s : State} {acc : Acc} {va : VAddr} {n : Nat} {k : State → Place → Option Nat → Res}
    (hk : ∀ x, s.acquiring s.focusCore s.focusFw = false → s.focusFw = false → s.curCore.inScratch x n = true →
      k s (.spad s.focusCore x) none = .trap s (mkTrap .prot va.toNat 0 0 0)) :
    s.Checked acc va n (aligned s va n (xlate s acc va k)) where
  align h := if_pos h
  page u h ht := (if_neg (not_not.2 h)).trans (by unfold xlate; rw [ht])
  prot u h ht := (if_neg (not_not.2 h)).trans (by unfold xlate; rw [ht])
  scratch x h hf ha ht hs := by
    refine (if_neg (not_not.2 h)).trans ?_
    unfold xlate
    rw [hf, ht]
    exact hk x (by rw [hf]; exact ha) hf hs

theorem loadWord_checked {s : State} {d : Reg} {n : Nat} (hd : s.Takes d) (hn : n ≠ 16 ∨ s.Takes (d + 1)) (a : AReg) (sc : Scope) (o : MemOrd)
    (off : BitVec 10) (sext : Bool) : s.Checked .load (s.Address a off n) n (loadWord d a sc o off n sext s) := by
  have hgo {r : Res} : (if n = 16 then waitDest s (d + 1) r else r) = r := by
    split
    · exact waitDest_takes (hn.resolve_left (not_not.2 ‹_›)) r
    · rfl
  unfold loadWord
  rw [waitDest_takes hd, hgo]
  refine State.checked fun x ha hf hs => ?_
  rw [if_neg (by simp [ha])]
  simp only [if_true]
  exact notScratch_inScratch hf hs _ _

theorem storeBytes_checked (s : State) (va : VAddr) (sc : Scope) (o : MemOrd) (bs : List Byte) :
    s.Checked .store va bs.length (storeBytes s va sc o bs) := by
  refine State.checked fun x ha hf hs => ?_
  rw [if_neg (by simp [ha])]
  simp only [if_true]
  exact notScratch_inScratch hf hs _ _

@[simp] theorem State.counted_focusCore (s : State) : s.counted.focusCore = s.focusCore := by unfold State.counted; split <;> rfl

@[simp] theorem State.counted_focusFw (s : State) : s.counted.focusFw = s.focusFw := by unfold State.counted; split <;> rfl

/-- Counting a word changes one counter of its core. -/
theorem State.counted_curCore (s : State) : ∃ n, s.counted.curCore = { s.curCore with wseq := n } := by
  unfold State.counted
  split
  · exact ⟨s.curCore.wseq, rfl⟩
  · exact ⟨_, s.curCore_setCurCore _⟩

@[simp] theorem State.counted_cur (s : State) : s.counted.cur = s.cur := by
  obtain ⟨n, hn⟩ := s.counted_curCore
  show s.counted.curCore.ctx s.counted.focusFw = s.curCore.ctx s.focusFw
  rw [hn, State.counted_focusFw]
  rfl

@[simp] theorem State.counted_inScratch (s : State) (x n : Nat) : s.counted.curCore.inScratch x n = s.curCore.inScratch x n := by
  obtain ⟨m, hm⟩ := s.counted_curCore
  rw [hm]
  rfl

theorem State.Reads.counted {s : State} {d : Reg} {v : W64} (h : s.Reads d v) : s.counted.Reads d v := by
  unfold State.Reads at h ⊢
  rwa [State.counted_cur]

/-- What a counted word answers beyond waiting is what it answers in the state in which it is counted. -/
theorem raised_goes {s : State} {f : State → Res} {r : Res} (h : f s.counted = r) (hw : ∀ t, r ≠ .wait t) : raised s f = r := by
  unfold raised
  unfold State.counted at h
  split
  · rwa [if_pos ‹_›] at h
  · rw [if_neg ‹_›] at h
    cases r with
    | ok | trap => simp only [h]
    | wait t => exact absurd rfl (hw t)

theorem raised_trap {s u : State} {f : State → Res} {t : Trap} (h : f s.counted = .trap u t) : raised s f = .trap u t :=
  raised_goes h fun _ => Res.noConfusion

theorem raised_ok {s u : State} {f : State → Res} (h : f s.counted = .ok u) : raised s f = .ok u :=
  raised_goes h fun _ => Res.noConfusion

theorem raised_checked {s : State} {acc : Acc} {va : VAddr} {n : Nat} {f : State → Res} (h : s.counted.Checked acc va n (f s.counted)) :
    s.counted.Checked acc va n (raised s f) where
  align ha := raised_trap (h.align ha)
  page u ha ht := raised_trap (h.page u ha ht)
  prot u ha ht := raised_trap (h.prot u ha ht)
  scratch x ha hf hq ht hs := raised_trap (h.scratch x ha hf hq ht hs)

theorem storeWord_checked {s : State} {d : Reg} {v : W64} (h : s.Reads d v) (a : AReg) (fa : Bool) (sc : Scope) (o : MemOrd) (off : BitVec 10)
    (n : Nat) : s.counted.Checked .store (s.Address a off n) n (storeWord d a fa sc o off n s) := by
  apply raised_checked
  rw [readSrc_reads h.counted]
  have hb := storeBytes_checked s.counted (s.Address a off n) sc o (leBytes n v.toNat)
  rw [length_leBytes] at hb
  rwa [State.counted_cur]

theorem stp_checked {s : State} {d : Reg} {v w : W64} (h : s.Reads d v) (g : s.Reads (d + 1) w) (a : AReg) (fa : Bool) (sc : Scope) (o : MemOrd)
    (off : BitVec 10) : s.counted.Checked .store (s.Address a off 16) 16 (raised s fun s => readSrc s d fa fun v => readSrc s (d + 1) fa fun w =>
      storeBytes s (effAddr s.cur a off 16) sc o (leBytes 8 v.toNat ++ leBytes 8 w.toNat)) := by
  apply raised_checked
  rw [readSrc_reads h.counted, readSrc_reads g.counted]
  have hb := storeBytes_checked s.counted (s.Address a off 16) sc o (leBytes 8 v.toNat ++ leBytes 8 w.toNat)
  rw [List.length_append, length_leBytes, length_leBytes] at hb
  rwa [State.counted_cur]

/-- A word whose access is checked traps ALIGN where its address is not aligned. -/
theorem State.Checked.ends_align {s x : State} {i : Instr} {acc : Acc} {va : VAddr} {n : Nat} {r : Res} (h : x.Checked acc va n r)
    (hi : exec i s = r.out) (hk : x.focusCore = s.focusCore) (hf : x.focusFw = s.focusFw) (ha : va.toNat % n ≠ 0) :
    s.Ends i fun t => t = x.takeTrap s.focusCore s.focusFw
      { cause := .align, e0 := va.extractLsb' 0 64, e1 := BitVec.ofNat 64 n, e2 := 0, e3 := 0 } :=
  State.ends_trap hi (h.align ha) (by rw [hk, hf, mkTrap_at])

/-- A word whose access is checked traps where its address is refused, in the state that the walk leaves. -/
theorem State.Checked.ends_refused {s x s' : State} {i : Instr} {acc : Acc} {va : VAddr} {n y : Nat} {r : Res} (h : x.Checked acc va n r)
    (hi : exec i s = r.out) (hk : x.focusCore = s.focusCore) (hf : x.focusFw = s.focusFw)
    (hs : x.curCore.inScratch y n = s.curCore.inScratch y n) (ha : va.toNat % n = 0) :
    let took (u : State) (c : Cause) (t : State) : Prop :=
      t = u.takeTrap s.focusCore s.focusFw { cause := c, e0 := va.extractLsb' 0 64, e1 := 0, e2 := 0, e3 := 0 }
    (x.translate s.focusCore s.focusFw acc va = (s', .page) → s.Ends i (took s' .page))
    ∧ (x.translate s.focusCore s.focusFw acc va = (s', .prot) → s.Ends i (took s' .prot))
    ∧ (s.focusFw = false → x.acquiring s.focusCore false = false →
        x.translate s.focusCore false acc va = (x, .ok (.spad s.focusCore y) none) →
        s.curCore.inScratch y n = true → s.Ends i (took x .prot)) := by
  intro took
  rw [← hk, ← hf, ← hs]
  have hwalk {p} (ht : x.translate x.focusCore x.focusFw acc va = (s', p)) : s'.focusCore = s.focusCore ∧ s'.focusFw = s.focusFw := by
    have h := x.translate_onlyRead x.focusCore x.focusFw acc va
    rw [ht] at h
    exact ⟨h.focusCore.trans hk, h.focusFw.trans hf⟩
  refine ⟨fun ht => ?_, fun ht => ?_, fun hu hq ht hin => ?_⟩
  · obtain ⟨hk', hf'⟩ := hwalk ht
    exact State.ends_trap hi (h.page s' ha ht) (by rw [hk', hf', mkTrap_at]; rfl)
  · obtain ⟨hk', hf'⟩ := hwalk ht
    exact State.ends_trap hi (h.prot s' ha ht) (by rw [hk', hf', mkTrap_at]; rfl)
  · exact State.ends_trap hi (h.scratch y ha hu hq ht hin) (by rw [hk, hf, mkTrap_at]; rfl)

/-! ### Words that firmware may not run (R97 check 6, R133, R190, R276) -/

theorem csrAllowed_cask {s : State} {n : BitVec 12} (hf : s.focusFw = true) (hn : 0x090 ≤ n.toNat ∧ n.toNat ≤ 0x092) (w : Bool) (k : Res) :
    csrAllowed s n w k = coreState s k := by
  simp [csrAllowed, hf, hn]

/-- Settles O8: taking a trap is its one equation; a checked access traps where its check fails; and a word that uses per-core state makes
its check of R133 first. -/
theorem trapsAreTaken : Obligations.TrapsAreTaken := by
  unfold Obligations.TrapsAreTaken
  refine ⟨fun s k fw t async pc slot => ?taken, fun s k t h => ?double, fun s w check prot => ?decode, fun s d a fa sc o off v w => ?align,
    fun s s' d a fa sc o off x v w => ?refused, fun s d b a fa e m n kd ka kb sc hf => ?denied⟩
  case taken =>
    intro c hi ht u d
    have hcan : (s.ctx k fw).CanTrap fw := ⟨hi, ht⟩
    have hd : d = (c.countStall s.tb).enter fw t async pc slot := State.takeTrapAt_ctx t async pc slot hcan
    obtain ⟨h1, h2, h3, h4, h5, h6, h7, h8, h9, h10, h11, h12, h13, h14, h15, h16, h17, h18⟩ := Ctx.enter_saves hi s.tb fw t async pc slot
    rw [hd]
    exact ⟨h1, h2, h3, h4, h5, h6, h7, h8, h9, h10, h11, h12, h13, h14, h15, h16, h17, h18, State.takeTrapAt_other t async pc slot hcan,
      fun j hj => State.takeTrapAt_core_of_ne t async pc slot hcan hj, State.takeTrapAt_only t async pc slot hcan⟩
  case double =>
    intro u
    have hu : u = (s.setCore k { s.core k with dead := true }).tell (.coreHalted k) := State.takeTrap_halts t h
    rw [hu]
    exact ⟨State.core_setCore_self .., fun j hj => State.core_setCore_of_ne _ _ (Ne.symm hj), rfl⟩
  case decode =>
    exact ⟨State.ends_trap (r := .trap s (mkTrap .illegal w.toNat check 0 0)) rfl rfl (by rw [mkTrap_word]),
      State.ends_trap (r := .trap s (fetchTrap _ s.cur.pc)) rfl rfl (by rw [fetchTrap, setWidth_eq_extract]; rfl)⟩
  case align =>
    intro traps
    refine ⟨fun hd => ?_, fun hv => ?_⟩
    · have hload {i : Instr} {n : Nat} {sx : Bool} (hi : exec i s = (loadWord d a sc o off n sx s).out) (hn : n ≠ 16 ∨ s.Takes (d + 1)) :
          traps s i n := (loadWord_checked hd hn a sc o off sx).ends_align hi rfl rfl
      exact ⟨hload rfl (.inl (by decide)), hload rfl (.inl (by decide)), hload rfl (.inl (by decide)), hload rfl (.inl (by decide)), hload rfl (.inl (by decide)),
        fun hd' => hload rfl (.inr hd')⟩
    · have hstore {i : Instr} {n : Nat} (hi : exec i s = (storeWord d a fa sc o off n s).out) : traps s.counted i n :=
        (storeWord_checked hv a fa sc o off n).ends_align hi s.counted_focusCore s.counted_focusFw
      exact ⟨hstore rfl, hstore rfl, hstore rfl,
        fun hw => (stp_checked hv hw a fa sc o off).ends_align rfl s.counted_focusCore s.counted_focusFw⟩
  case refused =>
    intro refused
    refine ⟨fun hd => ?_, fun hv => ?_⟩
    · have hload {i : Instr} {n : Nat} {sx : Bool} (hi : exec i s = (loadWord d a sc o off n sx s).out) (hn : n ≠ 16 ∨ s.Takes (d + 1)) :
          refused s .load i n := (loadWord_checked hd hn a sc o off sx).ends_refused hi rfl rfl rfl
      exact ⟨hload rfl (.inl (by decide)), hload rfl (.inl (by decide)), hload rfl (.inl (by decide)), hload rfl (.inl (by decide)), hload rfl (.inl (by decide)),
        hload rfl (.inl (by decide)), hload rfl (.inl (by decide)), fun hd' => hload rfl (.inr hd')⟩
    · have hstore {i : Instr} {n : Nat} (hi : exec i s = (storeWord d a fa sc o off n s).out) : refused s.counted .store i n :=
        (storeWord_checked hv a fa sc o off n).ends_refused hi s.counted_focusCore s.counted_focusFw (s.counted_inScratch x n)
      exact ⟨hstore rfl, hstore rfl, hstore rfl, hstore rfl,
        fun hw => (stp_checked hv hw a fa sc o off).ends_refused rfl s.counted_focusCore s.counted_focusFw (s.counted_inScratch x 16)⟩
  case denied =>
    intro denied
    refine ⟨fun hr => ?_, ?_⟩
    · have hpriv {i : Instr} {r : Res} (hi : exec i s = (coreState s r).out) : denied 2 i :=
        State.ends_trap hi (coreState_priv hf hr r) ⟨s, .inl rfl, by rw [mkTrap_word, hf]; rfl⟩
      have hdrop {i : Instr} {r : Res} (hi : exec i s = (coreState s r).dropReads.out) : denied 2 i :=
        State.ends_trap hi ((congrArg Res.dropReads (coreState_priv hf hr r)).trans (Res.dropReads_trap ..))
          ⟨s.dropReads, .inr rfl, by rw [mkTrap_word, show s.dropReads.focusFw = true from hf]; rfl⟩
      have hcsr {i : Instr} {n : BitVec 12} {w : Bool} {r : Res} (hi : exec i s = (csrAllowed s n w r).out)
          (hn : 0x090 ≤ n.toNat ∧ n.toNat ≤ 0x092) : denied 2 i := hpriv (hi.trans (congrArg Res.out (csrAllowed_cask hf hn w r)))
      simp only [List.forall_mem_cons]
      exact ⟨hdrop rfl, hpriv rfl, hpriv rfl, hdrop rfl, hpriv rfl, hpriv rfl, hdrop rfl, hpriv rfl, hdrop rfl,
        hdrop rfl, hpriv rfl, hdrop rfl, hpriv rfl, hpriv rfl, hdrop rfl, hdrop rfl, hdrop rfl,
        hdrop rfl, hdrop rfl, hdrop rfl, hdrop rfl, hdrop rfl, hdrop rfl, hdrop rfl, hpriv rfl,
        hcsr rfl (by decide), hcsr rfl (by decide), hcsr rfl (by decide), hcsr rfl (by decide), hcsr rfl (by decide), fun _ h => nomatch h⟩
    · exact State.ends_trap rfl (userOnly_firmware hf _) ⟨s, .inl rfl, by rw [mkTrap_word, hf]; rfl⟩

end Sys2Proof.Machine
end

section
/-!
Rules for queue words: the check for engine faults, what a trap leaves of the engines, and what reading published words, publishing them,
and reading the records of a template load change (R117, R202, R438).
-/

namespace Sys2Proof.Machine

/-! ### Faults of the engines that a word names (R438, R443) -/

theorem faultCheck_noFault {s : State} {es : List Eng} (h : s.NoFault es) (k : Res) : faultCheck s es k = k := by
  induction es with
  | nil => rfl
  | cons e es ih =>
    have hes : faultCheck s es k = k := ih (h.imp id fun h e he => h e (List.mem_cons_of_mem _ he))
    unfold faultCheck
    rcases h with hf | hn
    · split
      · rw [if_pos hf, hes]
      · exact hes
    · rw [hn e (List.mem_cons_self ..)]
      exact hes

/-! ### Traps at the executing context -/

theorem Core.leaveDemand_eng (c : Core) (fw : Bool) (e : Eng) : (c.leaveDemand fw).eng e = c.eng e := by
  have hd (d : Demand) : (c.dropForced d).eng e = c.eng e := by unfold Core.dropForced; split <;> cases e <;> rfl
  unfold Core.leaveDemand
  split
  · rfl
  · split
    · rfl
    · dsimp only
      split <;> exact Eq.trans (by cases e <;> rfl) (hd _)

theorem State.handled_eng (s : State) (k : Nat) (fw : Bool) (x : Ctx) (e : Eng) : ((s.handled k fw x).core k).eng e = (s.core k).eng e := by
  unfold State.handled State.setCtx
  rw [State.core_setCore_self, Core.leaveDemand_eng, State.core_setCore_self, Core.eng_setCtx]

/-- What a trap of the executing context leaves: its save registers, and the engines and memory as they were. -/
theorem State.takeTrap_own {s : State} (h : s.cur.CanTrap s.focusFw) (x : Trap) :
    let t := s.takeTrap s.focusCore s.focusFw x
    s.cur.Trapped t.cur x.cause.code x.e0 x.e1 x.e2 x.e3 ∧ (∀ e, t.curCore.eng e = s.curCore.eng e) ∧ t.mem = s.mem := by
  intro t
  have hk : t.focusCore = s.focusCore ∧ t.focusFw = s.focusFw := by
    have hu : t = _ := State.takeTrapAt_only x false _ _ h
    rw [hu]
    exact ⟨rfl, rfl⟩
  have hcur : t.cur = t.ctx s.focusCore s.focusFw := by
    show t.ctx t.focusCore t.focusFw = _
    rw [hk.1, hk.2]
  refine ⟨?_, fun e => ?_, (State.takeTrap_mem _ _ _ _ h).1⟩
  · rw [hcur]
    exact State.takeTrap_trapped _ _ _ _ h
  · show (t.core t.focusCore).eng e = _
    rw [hk.1]
    exact (congrArg (fun u : State => (u.core s.focusCore).eng e) (State.takeTrapAt_handled _ _ _ _ _ _ _ h)).trans (State.handled_eng ..)

/-! ### The counted state, and states that reads leave -/

@[simp] theorem State.counted_eng (s : State) (e : Eng) : s.counted.curCore.eng e = s.curCore.eng e := by
  obtain ⟨n, hn⟩ := s.counted_curCore
  rw [hn]
  cases e <;> rfl

@[simp] theorem State.counted_mem (s : State) : s.counted.mem = s.mem := by unfold State.counted; split <;> rfl

theorem State.NoFault.counted {s : State} {es : List Eng} (h : s.NoFault es) : s.counted.NoFault es := by
  unfold State.NoFault at h ⊢
  simpa using h

/-- Writing an engine of the core leaves the executing context. -/
@[simp] theorem State.cur_setCurCore_setEng (s : State) (e : Eng) (x : Engine) : (s.setCurCore (s.curCore.setEng e x)).cur = s.cur := by
  show (s.setCurCore _).curCore.ctx s.focusFw = _
  rw [State.curCore_setCurCore, Core.ctx_setEng]
  rfl

theorem State.OnlyRead.eng {s t : State} (h : s.OnlyRead t) (e : Eng) : t.curCore.eng e = s.curCore.eng e := by
  rw [h.curCore]
  cases e <;> rfl

/-! ### The words that `q.tail` reads (R111, R199, R202) -/

/-- Adding a command reads its value register at most. -/
theorem Pub.add_reads {p q : Pub} {e : Eng} {plane : FMap Tmpl} {wseq : Nat} {va : VAddr} {ws : List W32}
    (h : p.add e plane wseq va ws = .ok q) : q.s = p.s := by
  unfold Pub.add at h
  dsimp only at h
  split at h
  · cases h; rfl
  · split at h
    · cases h; rfl
    · split at h
      · cases h; rfl
      · split at h
        · cases h; rfl
        · split at h
          · cases h; rfl
          · cases h
          · cases h

theorem publishLoop_onlyRead {e : Eng} {plane : FMap Tmpl} {wseq : Nat} {tail : VAddr} {fuel : Nat} {p q : Pub}
    (h : publishLoop e plane wseq tail fuel p = .ok q) : p.s.OnlyRead q.s := by
  induction fuel generalizing p with
  | zero => cases h
  | succ fuel ih =>
    unfold publishLoop at h
    split at h
    · cases h; exact .refl _
    · split at h
      · cases h
      · cases h
      · next hr =>
        have hread := State.readVa_onlyRead hr
        dsimp only at h
        split at h
        · exact hread.trans (ih h)
        · split at h
          · exact hread.trans (ih h)
          · split at h
            · next ha =>
              have hrest := ih h
              rw [Pub.add_reads ha] at hrest
              exact hread.trans hrest
            · next hn => exact absurd h (hn _)

/-! ### Publication (R202) -/

theorem Ctx.markPending_only (c : Ctx) (es : List Entry) : ∃ fe, c.markPending es = { c with fe := fe } := by
  induction es generalizing c with
  | nil => exact ⟨c.fe, rfl⟩
  | cons y es ih =>
    have hstep : ∃ fe, (if y.promOn then c.setFE y.prom .pending else c) = { c with fe := fe } := by
      unfold Ctx.setFE
      split
      · split
        · exact ⟨c.fe, rfl⟩
        · exact ⟨_, rfl⟩
      · exact ⟨c.fe, rfl⟩
    obtain ⟨fe, hfe⟩ := hstep
    obtain ⟨fe', hes⟩ := ih { c with fe := fe }
    exact ⟨fe', (congrArg (Ctx.markPending · es) hfe).trans hes⟩

theorem Ctx.setFE_pending_of_pending {c : Ctx} {r : Reg} (h : c.getFE r = .pending) (q : Reg) : (c.setFE q .pending).getFE r = .pending := by
  by_cases hq : q = r
  · subst hq
    have h0 : q ≠ 0 := by rintro rfl; exact absurd h (by simp [Ctx.getFE])
    rw [Ctx.getFE_setFE, if_neg h0]
  · exact ((Ctx.setFE_keepsS c q .pending r (by simpa using Ne.symm hq)).2.1).trans h

theorem Ctx.markPending_of_pending {c : Ctx} {r : Reg} (h : c.getFE r = .pending) (es : List Entry) :
    (c.markPending es).getFE r = .pending := by
  induction es generalizing c with
  | nil => exact h
  | cons y es ih =>
    refine ih (c := if y.promOn then c.setFE y.prom .pending else c) ?_
    split
    · exact Ctx.setFE_pending_of_pending h _
    · exact h

/-- The promise register of each new entry is PENDING (R202, R354). -/
theorem Ctx.markPending_prom {es : List Entry} {y : Entry} (hy : y ∈ es) (hon : y.promOn = true) (h0 : y.prom ≠ 0) (c : Ctx) :
    (c.markPending es).getFE y.prom = .pending := by
  induction es generalizing c with
  | nil => cases hy
  | cons z es ih =>
    rcases List.mem_cons.1 hy with rfl | hy
    · refine Ctx.markPending_of_pending (c := if y.promOn then c.setFE y.prom .pending else c) ?_ es
      rw [if_pos hon, Ctx.getFE_setFE, if_neg h0]
    · exact ih hy _

/-- The engine whose queue has taken what was read. -/
def Pub.engine (p : Pub) (e : Eng) (a : VAddr) : Engine :=
  { p.s.curCore.eng e with
    q := (p.s.curCore.eng e).q ++ p.new.map (fun t => { t with pub := p.s.tb })
    tail := a
    partialAddr := p.addr
    partialWords := p.words
    counted := p.counted
    linkStop := p.stop }

/-- The state that a `q.tail` which has read its words leaves. -/
def Pub.published (p : Pub) (e : Eng) (a : VAddr) : State :=
  let u := p.s.setCurCore (p.s.curCore.setEng e (p.engine e a))
  (u.setCur (u.cur.markPending p.new).advance).markRelease u.focusCore .core

theorem publish_ok {s : State} {e : Eng} {a : VAddr} {p : Pub}
    (h : publishLoop e (s.curCore.eng e).tmpl (if s.focusFw then 0 else s.curCore.wseq) a tailFuel
      { s := s, addr := (s.curCore.eng e).partialAddr, words := (s.curCore.eng e).partialWords, new := [],
        counted := (s.curCore.eng e).counted, stop := (s.curCore.eng e).linkStop } = .ok p)
    (hr : p.s.released p.s.focusCore p.s.focusFw .core = true) : publish s e a = .ok (p.published e a) := by
  unfold publish
  dsimp only
  rw [h]
  exact if_pos hr

theorem Pub.published_frame (p : Pub) (e : Eng) (a : VAddr) :
    (p.published e a).curCore.eng e = p.engine e a ∧ (p.published e a).cur = (p.s.cur.markPending p.new).advance
      ∧ (p.published e a).mem = p.s.mem := by
  have hcore : (p.published e a).curCore =
      (p.s.curCore.setEng e (p.engine e a)).setCtx p.s.focusFw (p.s.cur.markPending p.new).advance := by
    unfold Pub.published
    dsimp only
    rw [State.cur_setCurCore_setEng]
    exact (State.curCore_setCur ..).trans (by rw [State.curCore_setCurCore]; rfl)
  refine ⟨?_, ?_, rfl⟩
  · rw [hcore, Core.eng_setCtx, Core.eng_setEng_self]
  · exact (congrArg (Core.ctx · p.s.focusFw) hcore).trans (Core.ctx_setCtx_self ..)

/-! ### The words of a template load (R117) -/

theorem State.readEights_onlyRead {s t : State} {k : Nat} {fw : Bool} {va : VAddr} {fuel n : Nat} {bs : List Byte}
    (h : s.readEights k fw va fuel n = .ok t bs) : s.OnlyRead t := by
  induction fuel generalizing s va n bs with
  | zero => cases h; exact .refl _
  | succ fuel ih =>
    unfold State.readEights at h
    split at h
    · cases h; exact .refl _
    · split at h
      · next hr =>
        split at h
        · next ht => cases h; exact (State.readVa_onlyRead hr).trans (ih ht)
        · next hn => exact absurd h (hn _ _)
      · next hn => exact absurd h (hn _ _)

theorem readDeltas_onlyRead {s t : State} {va : VAddr} {n : Nat} {ds : List Delta} (h : readDeltas s va n = .ok t ds) : s.OnlyRead t := by
  induction n generalizing s va ds with
  | zero => cases h; exact .refl _
  | succ n ih =>
    unfold readDeltas at h
    split at h
    · cases h
    · cases h
    · next hd =>
      dsimp only at h
      split at h
      · cases h
      · cases h
      · next hv =>
        have hread := (State.readEights_onlyRead hd).trans (State.readEights_onlyRead hv)
        split at h
        · cases h; exact hread
        · split at h
          · next hr => cases h; exact hread.trans (ih hr)
          · next hn => exact absurd h (hn _ _)

end Sys2Proof.Machine
end

section
/-!
Queue, template and operand-slot words (R117 to R119, R202, R203, R207, R213, R319, R320, R438).
-/

namespace Sys2Proof.Machine

/-! ### Words that drop their reads when they end -/

theorem State.ends_ok_dropReads {s t : State} {i : Instr} {r : Res} {P : State → Prop} (h : exec i s = r.dropReads.out) (hr : r = .ok t)
    (hp : P t.dropReads) : s.Ends i P :=
  State.ends_ok h (by rw [hr]; rfl) hp

theorem State.ends_trap_dropReads {s u : State} {i : Instr} {r : Res} {x : Trap} {P : State → Prop} (h : exec i s = r.dropReads.out)
    (hr : r = .trap u x) (hp : P (u.dropReads.takeTrap u.focusCore u.focusFw x)) : s.Ends i P :=
  State.ends_trap h (by rw [hr]; rfl) hp

/-! ### `q.mark` (R207) -/

/-- Placing a marker in the engines of a mask lengthens their queues by it, and changes nothing else of the core. -/
theorem Core.placeMarks (c : Core) (m : BitVec 4) (n : Nat) :
    let d := (engMask m).foldl (fun c e => c.setEng e ((c.eng e).placeMark n)) c
    (∀ e : Eng, ∃ x : Entry, x.kind = .qmark n ∧ x.seq = 0
        ∧ d.eng e = { c.eng e with q := (c.eng e).q ++ (if m.getLsbD e.code then [x] else []) })
      ∧ d = { c with me := d.me, ce := d.ce, ve := d.ve, sae := d.sae } := by
  obtain ⟨heng, hrest⟩ := Core.foldl_setEng (fun x _ => x.placeMark n) (nodup_engMask m) c
  refine ⟨fun e => ⟨newEntry (.qmark n) 0 (c.eng e).partialAddr [] 0 false none, rfl, rfl, (heng e).trans ?_⟩, hrest⟩
  by_cases h : m.getLsbD e.code = true
  · rw [if_pos ((mem_engMask m e).2 h), if_pos h]
    rfl
  · rw [if_neg (mt (mem_engMask m e).1 h), if_neg h, List.append_nil]

theorem engMask_eq (m : BitVec 4) : engMask m = [Eng.ce, .me, .ve, .sae].filter fun e => m.getLsbD e.code := by
  unfold engMask
  simp only [nbit_toNat]

/-! ### `q.tail` (R202, R213) -/

/-- A counted word on per-core state traps where its effect traps. -/
theorem State.ends_tail_trap {s u : State} {e : Eng} {a : AReg} {x : Trap} {k : State → Res} {P : State → Prop}
    (hi : exec (.qTail e a) s = (coreState s (raised s fun s => faultCheck s [e] (k s))).dropReads.out) (hm : s.MayUseCore)
    (hf : s.NoFault [e]) (hk : k s.counted = .trap u x) (hp : P (u.dropReads.takeTrap u.focusCore u.focusFw x)) : s.Ends (.qTail e a) P :=
  State.ends_trap_dropReads hi ((coreState_may hm _).trans (raised_trap ((faultCheck_noFault hf.counted _).trans hk))) hp

theorem State.ends_tail_ok {s u : State} {e : Eng} {a : AReg} {k : State → Res} {P : State → Prop}
    (hi : exec (.qTail e a) s = (coreState s (raised s fun s => faultCheck s [e] (k s))).dropReads.out) (hm : s.MayUseCore)
    (hf : s.NoFault [e]) (hk : k s.counted = .ok u) (hp : P u.dropReads) : s.Ends (.qTail e a) P :=
  State.ends_ok_dropReads hi ((coreState_may hm _).trans (raised_ok ((faultCheck_noFault hf.counted _).trans hk))) hp

/-- A failed load that is not reported traps TMPL_CRC, and is reported (R213). -/
theorem qTail_tmplCrc {s : State} {e : Eng} (a : AReg) (hm : s.MayUseCore) (hf : s.NoFault [e]) (ht : (s.curCore.eng e).tmplf = true)
    (ho : s.cur.op ≠ some .tailed) (hc : s.cur.CanTrap s.focusFw) :
    s.Ends (.qTail e a) fun t => s.cur.Trapped t.cur Cause.tmplCrc.code (s.curCore.eng e).tmplRes (BitVec.ofNat 64 e.code) 0 0
      ∧ (t.curCore.eng e).tmplf = false ∧ t.mem = s.mem := by
  refine State.ends_tail_trap rfl hm hf (if_pos (by simp [ht, ho])) ?_
  generalize hu : (s.counted.setCurCore _).dropReads = u
  have hcur : u.cur = s.cur := by
    subst hu
    exact (State.cur_setCurCore_setEng ..).trans s.counted_cur
  have hfw : u.focusFw = s.focusFw := by subst hu; exact s.counted_focusFw
  obtain ⟨htrap, heng, hmem⟩ := State.takeTrap_own (s := u) (by rw [hcur, hfw]; exact hc)
    { mkTrap .tmplCrc 0 e.code 0 0 with e0 := (s.counted.curCore.eng e).tmplRes }
  subst hu
  refine ⟨?_, ?_, hmem.trans s.counted_mem⟩
  · rw [hcur] at htrap
    rw [State.counted_eng] at htrap ⊢
    exact htrap
  · refine (congrArg Engine.tmplf (heng e)).trans ?_
    exact (congrArg (fun c : Core => (c.eng e).tmplf) (State.curCore_setCurCore ..)).trans (congrArg Engine.tmplf (Core.eng_setEng_self ..))

/-- A tail that is not 4-byte aligned traps ALIGN. -/
theorem qTail_misaligned {s : State} {e : Eng} {a : AReg} (hm : s.MayUseCore) (hf : s.NoFault [e]) (ht : (s.curCore.eng e).tmplf = false)
    (ha : (s.cur.getA a).toNat % 4 ≠ 0) (hc : s.cur.CanTrap s.focusFw) :
    s.Ends (.qTail e a) fun t => s.cur.Trapped t.cur Cause.align.code ((s.cur.getA a).extractLsb' 0 64) 4 0 0
      ∧ (t.curCore.eng e).q = (s.curCore.eng e).q ∧ t.mem = s.mem := by
  refine State.ends_tail_trap rfl hm hf ((if_neg (by simp [ht])).trans (if_pos (by simpa using ha))) ?_
  have hcur : s.counted.dropReads.cur = s.cur := s.counted_cur
  obtain ⟨htrap, heng, hmem⟩ := State.takeTrap_own (s := s.counted.dropReads)
    (by rw [hcur]; exact s.counted_focusFw.symm ▸ hc) (mkTrap .align (s.cur.getA a).toNat 4 0 0)
  rw [hcur, mkTrap_at] at htrap
  rw [State.counted_cur, mkTrap_at]
  rw [mkTrap_at] at heng hmem
  exact ⟨htrap, congrArg Engine.q ((heng e).trans (s.counted_eng e)), hmem.trans s.counted_mem⟩

/-- What a publication leaves (R202). -/
theorem Pub.published_spec {p : Pub} {s : State} (h : s.OnlyRead p.s) (e : Eng) (a : VAddr) :
    let t := (p.published e a).dropReads
    (∃ es : List Entry, es.map Entry.addr = p.new.map Entry.addr ∧ es.map Entry.seq = p.new.map Entry.seq
        ∧ es.map Entry.built = p.new.map Entry.built ∧ (t.curCore.eng e).q = (s.curCore.eng e).q ++ es)
      ∧ (t.curCore.eng e).tail = a ∧ (t.curCore.eng e).counted = p.counted
      ∧ (∀ y ∈ p.new, y.promOn = true → y.prom ≠ 0 → t.cur.getFE y.prom = .pending)
      ∧ s.cur.Moved t.cur ∧ (∀ r, t.cur.getS r = s.cur.getS r) ∧ s.cur.KeepsA t.cur [] ∧ s.cur.KeepsP t.cur [] ∧ t.mem = s.mem := by
  intro t
  obtain ⟨heng, hcur, hmem⟩ := p.published_frame e a
  have hte : t.curCore.eng e = p.engine e a := heng
  have htc : t.cur = (s.cur.markPending p.new).advance := by rw [← h.cur]; exact hcur
  obtain ⟨fe, hfe⟩ := s.cur.markPending_only p.new
  rw [hte, htc]
  refine ⟨⟨p.new.map fun t => { t with pub := p.s.tb }, ?_, ?_, ?_, ?_⟩, rfl, rfl, fun y hy hon h0 => ?_, ?_, fun r => ?_, ?_, ?_,
    hmem.trans h.mem⟩
  · rw [List.map_map]; rfl
  · rw [List.map_map]; rfl
  · rw [List.map_map]; rfl
  · rw [← h.eng e]; rfl
  · obtain ⟨-, hkept, -⟩ := (s.cur.markPending p.new).advance_keepsS [] y.prom (by simp)
    exact hkept.trans (Ctx.markPending_prom hy hon h0 _)
  · rw [hfe]
    exact (Ctx.advance_moved _).of_same rfl rfl
  · rw [hfe]; simp [Ctx.getS]
  · rw [hfe]; intro q _; simp [Ctx.getA]
  · rw [hfe]; intro q _; simp [Ctx.getP]

/-- A tail whose words are read, and whose earlier accesses are performed, is published (R202). -/
theorem qTail_published {s : State} {e : Eng} {a : AReg} {p : Pub} (hm : s.MayUseCore) (hf : s.NoFault [e])
    (ht : (s.curCore.eng e).tmplf = false) (hl : (s.curCore.eng e).loads = []) (ha : (s.cur.getA a).toNat % 4 = 0)
    (hp : publish s.counted e (s.cur.getA a) = .ok (p.published e (s.cur.getA a))) {P : State → Prop}
    (h : P (p.published e (s.cur.getA a)).dropReads) : s.Ends (.qTail e a) P := by
  refine State.ends_tail_ok rfl hm hf ((if_neg (by simp [ht])).trans ((if_neg (by simpa using ha)).trans ?_)) h
  rw [State.counted_cur, State.counted_eng, hl]
  exact congrArg Res.tailed hp

/-! ### Template loads (R117 to R119, R213) -/

/-- The state in which a word has written an engine of its core, and its register awaits that. -/
def State.engineAwaited (s : State) (e : Eng) (y : Engine) (d : Reg) : State :=
  let u := s.setCurCore (s.curCore.setEng e y)
  (u.setCur (u.cur.setFE d .pending).advance).dropReads

theorem State.awaitsEngine (s : State) (e : Eng) (y : Engine) (d : Reg) :
    (s.engineAwaited e y d).curCore.eng e = y ∧ (s.engineAwaited e y d).cur = (s.cur.setFE d .pending).advance := by
  have hcore : (s.engineAwaited e y d).curCore = (s.curCore.setEng e y).setCtx s.focusFw (s.cur.setFE d .pending).advance := by
    unfold State.engineAwaited
    dsimp only
    rw [State.cur_setCurCore_setEng]
    exact (State.curCore_setCur ..).trans (by rw [State.curCore_setCurCore]; rfl)
  constructor
  · rw [hcore, Core.eng_setCtx, Core.eng_setEng_self]
  · exact (congrArg (Core.ctx · s.focusFw) hcore).trans (Core.ctx_setCtx_self ..)

/-- A load whose records are read stands behind the loads of its engine, and its register awaits it. -/
theorem tmplLd_loads {s s' : State} {d : Reg} {e : Eng} {a : AReg} {ds : List Delta} (hm : s.MayUseCore) (hf : s.NoFault [e]) (hd : s.Takes d)
    (ha : (s.cur.getA a).toNat % 8 = 0) (hr : readDeltas s (s.cur.getA a) 63 = .ok s' ds) :
    let x := s'.curCore.eng e
    let base := match x.loads.getLast? with | some l => l.plane | none => x.tmpl
    s.Ends (.tmplLd d e a) fun t =>
      (∃ l : TmplLoad, (t.curCore.eng e).loads = x.loads ++ [l] ∧ l.d = d ∧ l.fw = s.focusFw ∧ l.result = (applyDeltas 0 base ds).2
          ∧ l.plane = (if l.result = 0 then (applyDeltas 0 base ds).1 else base))
        ∧ t.cur.getFE d = (if d = 0 then .full else .pending) ∧ s.cur.Moved t.cur ∧ s.cur.KeepsS t.cur [d]
        ∧ s.cur.KeepsA t.cur [] ∧ s.cur.KeepsP t.cur [] ∧ t.mem = s.mem := by
  intro x base
  have hread := readDeltas_onlyRead hr
  refine State.ends_ok_dropReads (r := coreState s (faultCheck s [e] (waitDest s d _))) rfl
    ((coreState_may hm _).trans ((faultCheck_noFault hf _).trans ((waitDest_takes hd _).trans ((if_neg (not_not.2 ha)).trans
      (by rw [hr]))))) ?_
  obtain ⟨heng, hcur⟩ := s'.awaitsEngine e { x with loads := x.loads ++
    [{ fw := s'.focusFw, d := d, result := (applyDeltas 0 base ds).2,
       plane := if (applyDeltas 0 base ds).2 = 0 then (applyDeltas 0 base ds).1 else base }] } d
  rw [hread.cur] at hcur
  obtain ⟨hmoved, hfe, hS, hA, hP⟩ := s.cur.setFE_advance_awaits d
  rw [← hcur] at hmoved hfe hS hA hP
  exact ⟨⟨_, congrArg Engine.loads heng, rfl, hread.focusFw, rfl, rfl⟩, hfe, hmoved, hS, hA, hP, hread.mem⟩

/-- A swap at a command boundary takes the oldest load, good or failed, and delivers its result. -/
theorem templateSwap_swaps {s : State} {k : Nat} {e : Eng} {l : TmplLoad} {ls : List TmplLoad} (hl : ((s.core k).eng e).loads = l :: ls)
    (hx : ((s.core k).eng e).executing = false) (hs : (s.core k).stopped = false) :
    let x := (s.core k).eng e
    s.Ends (.templateSwap k e) fun t =>
      let y := (t.core k).eng e
      (l.result = 0 → y.tmpl = l.plane ∧ y.tmplf = x.tmplf)
        ∧ (l.result ≠ 0 → y.tmpl = x.tmpl ∧ y.tmplf = true ∧ y.tmplRes = l.result)
        ∧ y.loads = ls ∧ (t.ctx k l.fw).Holds l.d l.result ∧ (s.ctx k l.fw).KeepsS (t.ctx k l.fw) [l.d] ∧ t.mem = s.mem := by
  intro x
  have hex : exec (.templateSwap k e) s = .next ((s.setCore k ((s.core k).setEng e
      { (if l.result = 0 then { x with tmpl := l.plane } else { x with tmplf := true, tmplRes := l.result }).rebuild e with
        loads := ls })).deliver k l.fw l.d l.result none) := by
    show execTemplateSwap k e s = _
    unfold execTemplateSwap
    dsimp only
    rw [hl, hx, hs]
    rfl
  refine ⟨_, hex, ?_⟩
  generalize hy : (if l.result = 0 then _ else _ : Engine) = y
  have heng : ((((s.setCore k ((s.core k).setEng e { y.rebuild e with loads := ls })).deliver k l.fw l.d l.result none).core k).eng e)
      = { y.rebuild e with loads := ls } := by
    unfold State.deliver State.setCtx
    rw [State.core_setCore_self, Core.eng_setCtx, State.core_setCore_self, Core.eng_setEng_self]
  have hctx : (s.setCore k ((s.core k).setEng e { y.rebuild e with loads := ls })).ctx k l.fw = s.ctx k l.fw := by
    unfold State.ctx
    rw [State.core_setCore_self, Core.ctx_setEng]
  dsimp only
  rw [heng, State.deliver_ctx, hctx]
  refine ⟨fun h0 => ?_, fun h0 => ?_, rfl, Ctx.deliver_holds .., Ctx.deliver_keepsS _ _ _ _, rfl⟩
  · rw [if_pos h0] at hy
    subst hy
    exact ⟨rfl, rfl⟩
  · rw [if_neg h0] at hy
    subst hy
    exact ⟨rfl, rfl, rfl⟩

/-! ### Operand slots (R319, R320) -/

/-- A word that sets one operand slot changes that slot, and goes on. -/
theorem State.setSlot_passed (s : State) (n : Nat) (v : SlotSt) :
    let c := { s.curCore with omSt := s.curCore.omSt.put .free n v }
    (s.setCurCore c).Passed (s.setCurCore c).retire ∧ c = { s.curCore with omSt := c.omSt }
      ∧ ∀ i, c.slot i = if i = n then v else s.curCore.slot i :=
  ⟨s.setCurCore_passed _, rfl, fun i => by simp only [Core.slot, FMap.get_put, eq_comm]⟩

/-- Settles O18: each word is its effect once its checks have passed; what `q.tail` and `tmpl.ld` read changes neither the engine nor the
context. -/
theorem queueWords : Obligations.QueueWords := by
  unfold Obligations.QueueWords
  refine ⟨fun s d e m a fa v hm => ⟨fun hf hd => ?seq, fun hv hf => ?mark⟩,
    fun s e a p hm hf => ⟨qTail_tmplCrc a hm hf, qTail_misaligned hm hf, fun ht hl ha hp hr => ?tail⟩,
    ⟨fun s s' d e a ds => tmplLd_loads, fun s k e l ls => templateSwap_swaps⟩, fun s n hm => ⟨?claim, ?claimWait, ?release, ?releaseWait⟩⟩
  case seq =>
    obtain ⟨t, ht, hw⟩ := writeS_wrote s d (BitVec.ofNat 64 (s.curCore.eng e).counted)
    refine ⟨t, Eq.trans ?_ ht, hw⟩
    exact congrArg Res.out ((coreState_may hm _).trans ((faultCheck_noFault hf _).trans (waitDest_takes hd _)))
  case mark =>
    rw [← engMask_eq] at hf
    obtain ⟨heng, hrest⟩ := Core.placeMarks s.curCore m (v.toNat % 65536)
    exact State.ends_ok (r := coreState s (faultCheck s (engMask m) (readSrc s a fa _))) rfl
      ((coreState_may hm _).trans ((faultCheck_noFault hf _).trans (readSrc_reads hv ..))) ⟨_, s.setCurCore_passed _, heng, hrest⟩
  case tail =>
    have hread : s.counted.OnlyRead p.s := publishLoop_onlyRead hp
    have hspec := Pub.published_spec hread e (s.cur.getA a)
    simp only [State.counted_eng, State.counted_cur, State.counted_mem] at hspec
    refine qTail_published hm hf ht hl ha (publish_ok ?_ ?_) hspec
    · rw [State.counted_eng, State.counted_focusFw]
      exact hp
    · rw [hread.focusCore, hread.focusFw, State.counted_focusCore, State.counted_focusFw]
      exact hr
  case claim =>
    intro h
    exact State.ends_ok (r := coreState s _) rfl ((coreState_may hm _).trans (if_neg h)) ⟨_, s.setSlot_passed n.toNat .claimed⟩
  case claimWait =>
    intro h
    exact State.ends_wait (r := coreState s _) rfl ((coreState_may hm _).trans (if_pos h)) rfl
  case release =>
    intro hf h
    exact State.ends_ok (r := coreState s (faultCheck s _ _)) rfl
      ((coreState_may hm _).trans ((faultCheck_noFault hf _).trans (if_neg (by simp [h])))) ⟨_, s.setSlot_passed n.toNat .free⟩
  case releaseWait =>
    intro hf h
    exact State.ends_wait (r := coreState s (faultCheck s _ _)) rfl
      ((coreState_may hm _).trans ((faultCheck_noFault hf _).trans (if_pos h))) rfl

end Sys2Proof.Machine
end

section
/-!
`csr.r`, `csr.w` and `csr.x` of a register that any context may reach, and the fields of FCSR (R135 to R138, R190).
-/

namespace Sys2Proof.Machine

/-! ### FCSR (R137) -/

theorem ite_eq_toNat_mul (b : Bool) (n : Nat) : (if b then n else 0) = b.toNat * n := by cases b <;> simp

/-- FCSR reads its flags and its rounding mode, each in its place. -/
theorem Ctx.fcsr_fields (c : Ctx) :
    c.fcsr = (0 : BitVec 55) ++ BitVec.ofBool c.nv ++ BitVec.ofBool c.dz ++ BitVec.ofBool c.of ++ BitVec.ofBool c.uf ++ BitVec.ofBool c.nx
      ++ (0 : BitVec 1) ++ BitVec.ofNat 3 (rmCode c.rm) := by
  apply BitVec.eq_of_toNat_eq
  have hrm : rmCode c.rm < 4 := by cases c.rm <;> decide
  have hnv := c.nv.toNat_lt
  have hdz := c.dz.toNat_lt
  have hof := c.of.toNat_lt
  have huf := c.uf.toNat_lt
  have hnx := c.nx.toNat_lt
  simp only [Ctx.fcsr, ite_eq_toNat_mul, toNat_append_eq, BitVec.toNat_ofBool, BitVec.ofNat_eq_ofNat, BitVec.toNat_ofNat]
  omega

/-- A write of FCSR takes a rounding mode that is defined, and leaves the mode where it is reserved. -/
theorem Ctx.setFcsr_rm (c : Ctx) (v : W64) :
    (v.toNat % 8 < 4 → rmCode (c.setFcsr v).rm = v.toNat % 8) ∧ (4 ≤ v.toNat % 8 → (c.setFcsr v).rm = c.rm) := by
  unfold Ctx.setFcsr
  dsimp only
  split <;> simp_all [rmCode]
  omega

/-- A write of FCSR takes every flag, and no register. -/
theorem Ctx.setFcsr_flags (c : Ctx) (v : W64) :
    (c.setFcsr v).nv = v.getLsbD 8 ∧ (c.setFcsr v).dz = v.getLsbD 7 ∧ (c.setFcsr v).of = v.getLsbD 6 ∧ (c.setFcsr v).uf = v.getLsbD 5
      ∧ (c.setFcsr v).nx = v.getLsbD 4 :=
  ⟨nbit_toNat v 8, nbit_toNat v 7, nbit_toNat v 6, nbit_toNat v 5, nbit_toNat v 4⟩

theorem Ctx.setFcsr_keeps (c : Ctx) (v : W64) : c.KeepsS (c.setFcsr v) [] ∧ c.KeepsA (c.setFcsr v) [] ∧ c.KeepsP (c.setFcsr v) [] :=
  ⟨fun _ _ => ⟨rfl, rfl, rfl⟩, fun _ _ => rfl, fun _ _ => rfl⟩

/-! ### The words (R190) -/

/-- A register that every context may read and write at any time (R135, R136, R276). -/
def csrOpen (n : BitVec 12) : Bool :=
  !firmwareWritten n.toNat && !firmwareOnly n.toNat && !(decide (0x090 ≤ n.toNat) && decide (n.toNat ≤ 0x092))

theorem csrAllowed_open {n : BitVec 12} (h : csrOpen n = true) (s : State) (w : Bool) (k : Res) : csrAllowed s n w k = k := by
  simp only [csrOpen, Bool.and_eq_true, Bool.not_eq_true'] at h
  obtain ⟨⟨hw, ho⟩, hc⟩ := h
  simp only [csrAllowed, hw, ho, hc, Bool.and_false, Bool.false_eq_true, if_false]

theorem csrAllowed_firmwareWritten {s : State} {n : BitVec 12} (hf : s.focusFw = false) (hn : firmwareWritten n.toNat = true) (k : Res) :
    csrAllowed s n true k = .trap s (mkTrap .priv s.word.toNat 3 n.toNat 0) := by
  simp only [csrAllowed, hf, hn, Bool.not_false, Bool.and_self, if_true]

/-- `csr.r` of such a register writes its value. -/
theorem csrR_wrote {s : State} {d : Reg} {n : BitVec 12} (hn : csrOpen n = true) (hd : s.Takes d) :
    s.Ends (.csrR d n) (s.WroteS d (s.csrRead s.focusCore s.focusFw n.toNat)) := by
  obtain ⟨t, ht, hw⟩ := writeS_wrote s d (s.csrRead s.focusCore s.focusFw n.toNat)
  exact ⟨t, Eq.trans (congrArg Res.out ((csrAllowed_open hn ..).trans (waitDest_takes hd _))) ht, hw⟩

section Write

variable {s t : State} {d a : Reg} {v : W64} {n : BitVec 12} (hn : csrOpen n = true) (hv : s.Reads a v) (fa : Bool)
  (ht : s.csrWrite s.focusCore s.focusFw n.toNat v = (t, true))

include hn hv ht

/-- `csr.w` of such a register goes on from the state that the write leaves. -/
theorem csrW_passed : s.Ends (.csrW n a fa) t.Passed := by
  obtain ⟨u, hu, hp⟩ := retire_passed t
  refine ⟨u, Eq.trans (congrArg Res.out ?_) hu, hp⟩
  rw [csrAllowed_open hn, readSrc_reads hv]
  simp only [ht]

/-- `csr.x` of such a register writes the value that stood there. -/
theorem csrX_wrote (hd : s.Takes d) : s.Ends (.csrX d a fa n) (t.WroteS d (s.csrRead s.focusCore s.focusFw n.toNat)) := by
  obtain ⟨u, hu, hw⟩ := writeS_wrote t d (s.csrRead s.focusCore s.focusFw n.toNat)
  refine ⟨u, Eq.trans (congrArg Res.out ?_) hu, hw⟩
  rw [csrAllowed_open hn, readSrc_reads hv, waitDest_takes hd]
  simp only [ht]

end Write

/-! ### Reserved bits (R136) -/

theorem ofNat_aligned (v : W64) : BitVec.ofNat 64 (v.toNat / 4 * 4) = v.extractLsb' 2 62 ++ (0 : BitVec 2) := by
  apply BitVec.eq_of_toNat_eq
  simp only [toNat_append_eq, BitVec.toNat_ofNat, BitVec.extractLsb'_toNat, Nat.shiftRight_eq_div_pow, BitVec.ofNat_eq_ofNat]
  have h := v.isLt
  omega

/-- SSTATUS takes its two address bytes and two of its bits; its lowest says which context it is of. -/
theorem sstatus_written (v : W64) (fw : Bool) :
    (v &&& 0xFFFF000000000006) ||| (if fw then 1 else 0)
      = v.extractLsb' 48 16 ++ (0 : BitVec 45) ++ v.extractLsb' 1 2 ++ BitVec.ofBool fw := by
  have hmask : ∀ i < 64, (0xFFFF000000000006#64).getLsbD i = (decide (i = 1 ∨ i = 2) || decide (48 ≤ i)) := by decide
  apply BitVec.eq_of_getLsbD_eq
  intro i hi
  have hlow : (if fw then 1#64 else 0#64).getLsbD i = (decide (i = 0) && fw) := by cases fw <;> simp
  simp only [BitVec.ofNat_eq_ofNat, BitVec.getLsbD_or, BitVec.getLsbD_and, hmask i hi, hlow, BitVec.getLsbD_append, BitVec.getLsbD_extractLsb',
    BitVec.getLsbD_zero, BitVec.getLsbD_ofBool]
  grind

/-- What a write of a save register leaves: its reserved bits dropped. -/
theorem csrWrite_saved (s : State) (v : W64) {m : BitVec 12} {x : Ctx}
    (h : (m, x) ∈ [((0x002 : BitVec 12), { s.cur with tvec := v.extractLsb' 2 62 ++ (0 : BitVec 2) }),
      (0x009, { s.cur with epc := v.extractLsb' 2 62 ++ (0 : BitVec 2) }),
      (0x00A, { s.cur with etgt := v.extractLsb' 2 62 ++ (0 : BitVec 2) }),
      (0x008, { s.cur with sstatus := v.extractLsb' 48 16 ++ (0 : BitVec 45) ++ v.extractLsb' 1 2 ++ BitVec.ofBool s.focusFw })]) :
    csrOpen m = true ∧ s.csrWrite s.focusCore s.focusFw m.toNat v = (s.setCur x, true) := by
  rw [← ofNat_aligned, ← sstatus_written] at h
  simp only [List.mem_cons, Prod.mk.injEq, List.not_mem_nil, or_false] at h
  rcases h with ⟨rfl, rfl⟩ | ⟨rfl, rfl⟩ | ⟨rfl, rfl⟩ | ⟨rfl, rfl⟩ <;> exact ⟨by decide, rfl⟩

/-- What the registers of a context that hold a value of their own read as (R137, R439). -/
theorem csrRead_values (s : State) {m : BitVec 12} {w : W64}
    (h : (m, w) ∈ [((0x002 : BitVec 12), s.cur.tvec), (0x003, BitVec.ofNat 64 s.tb), (0x009, s.cur.epc), (0x00A, s.cur.etgt),
      (0x00B, s.cur.ecause), (0x00C, s.cur.einfo0), (0x00D, s.cur.einfo1), (0x00E, s.cur.einfo2), (0x00F, s.cur.einfo3),
      (0x0C0, BitVec.ofNat 64 (s.pkg * 2 ^ 32 + s.focusCore))]) :
    csrOpen m = true ∧ s.csrRead s.focusCore s.focusFw m.toNat = w := by
  simp only [List.mem_cons, Prod.mk.injEq, List.not_mem_nil, or_false] at h
  rcases h with ⟨rfl, rfl⟩ | ⟨rfl, rfl⟩ | ⟨rfl, rfl⟩ | ⟨rfl, rfl⟩ | ⟨rfl, rfl⟩ | ⟨rfl, rfl⟩ | ⟨rfl, rfl⟩ | ⟨rfl, rfl⟩ | ⟨rfl, rfl⟩
    | ⟨rfl, rfl⟩ <;>
    exact ⟨by decide, rfl⟩

/-- Settles O11: a register that is open is read and written without a check, a firmware-written one traps a user's write before its
source is read; each value and each field of FCSR is an equation of the model's own. -/
theorem controlRegisterWords : Obligations.ControlRegisterWords := by
  unfold Obligations.ControlRegisterWords
  refine ⟨fun s d a fa n v => ⟨fun m w hm hd => ?read, fun hv m x hm => ?write, fun hf hn => ?priv⟩, fun c v => ?fcsr⟩
  case read =>
    obtain ⟨ho, hr⟩ := csrRead_values s hm
    exact hr ▸ csrR_wrote ho hd
  case write =>
    obtain ⟨ho, hw⟩ := csrWrite_saved s v hm
    exact ⟨csrW_passed ho hv fa hw, csrX_wrote ho hv fa hw⟩
  case priv =>
    refine State.ends_trap (r := csrAllowed s n true _) rfl (csrAllowed_firmwareWritten hf hn _) ?_
    rw [hf]
    simp [mkTrap]
  case fcsr =>
    obtain ⟨hnv, hdz, hof, huf, hnx⟩ := c.setFcsr_flags v
    obtain ⟨hset, hkept⟩ := c.setFcsr_rm v
    exact ⟨c.fcsr_fields, hnv, hdz, hof, huf, hnx, hset, hkept, (c.setFcsr_keeps v).1⟩

end Sys2Proof.Machine
end

section
/-!
Writes of registers as steps of the hardware (R137 to R144, R197, R198, R204, R245, R276, R330, R388, R402, R433).
-/

namespace Sys2Proof

namespace Machine

/-! ### Numbers put together from the parts of a write -/

/-- The low 64 bits of an address replaced (R138, R197). -/
theorem ofNat_high_add (a : VAddr) (v : W64) : BitVec.ofNat 72 (a.toNat / 2 ^ 64 * 2 ^ 64 + v.toNat) = a.extractLsb' 64 8 ++ v := by
  apply BitVec.eq_of_toNat_eq
  have ha := a.isLt
  have hv := v.isLt
  simp only [toNat_append_eq, BitVec.toNat_ofNat, BitVec.extractLsb'_toNat, Nat.shiftRight_eq_div_pow]
  omega

/-- The high eight bits of an address replaced (R138, R197). -/
theorem ofNat_add_low (a : VAddr) (v : W64) :
    BitVec.ofNat 72 (v.toNat % 256 * 2 ^ 64 + a.toNat % 2 ^ 64) = v.extractLsb' 0 8 ++ a.extractLsb' 0 64 := by
  apply BitVec.eq_of_toNat_eq
  simp only [toNat_append_eq, BitVec.toNat_ofNat, BitVec.extractLsb'_toNat, Nat.shiftRight_eq_div_pow]
  omega

/-- The low 64 bits of an instruction address replaced, aligned to a word (R138). -/
theorem ofNat_high_add_aligned (a : VAddr) (v : W64) :
    BitVec.ofNat 72 (a.toNat / 2 ^ 64 * 2 ^ 64 + v.toNat / 4 * 4) = a.extractLsb' 64 8 ++ v.extractLsb' 2 62 ++ (0 : BitVec 2) := by
  apply BitVec.eq_of_toNat_eq
  have ha := a.isLt
  have hv := v.isLt
  simp only [toNat_append_eq, BitVec.toNat_ofNat, BitVec.extractLsb'_toNat, Nat.shiftRight_eq_div_pow, BitVec.ofNat_eq_ofNat]
  omega

/-! ### A stop of the user context (R138) -/

/-- A demand that a context leaves is not its own. -/
theorem Core.leaveDemand_left {c : Core} {fw : Bool} {d : Demand} (h : (c.leaveDemand fw).demand = some d) : d.fw ≠ fw := by
  cases hc : c.demand with
  | none =>
    unfold Core.leaveDemand at h
    rw [hc] at h
    exact absurd (hc.symm.trans h) nofun
  | some x =>
    by_cases hx : x.fw = fw
    · subst hx
      rw [Core.leaveDemand_demand hc] at h
      exact absurd h nofun
    · unfold Core.leaveDemand at h
      rw [hc] at h
      simp only [ne_eq, hx, not_false_eq_true, if_true] at h
      cases hc.symm.trans h
      exact hx

/-- What a stop leaves of the user context: its registers and where it stands; its word waits no longer, unless it has sent a card. -/
theorem State.writeUctl_stops (s : State) (k : Nat) {v : W64} (hv : v.getLsbD 0 = false) :
    let c := s.core k
    let d := (s.writeUctl k v).core k
    d.run = false ∧ d.firm = c.firm ∧ c.user.KeepsS d.user [] ∧ d.user.pc = c.user.pc ∧ d.user.slot = c.user.slot
      ∧ (c.user.sentCard = true → d.user.op = c.user.op)
      ∧ (c.user.sentCard = false → d.user.op = none ∧ ∀ x, d.demand = some x → x.fw = true) ∧ (s.writeUctl k v).mem = s.mem := by
  have hw : s.writeUctl k v = s.writeUctl k 0 := by
    unfold State.writeUctl
    rw [nbit_toNat, hv]
    rfl
  intro c d
  subst d
  rw [hw, s.writeUctl_stop]
  by_cases hs : (s.core k).user.sentCard = true
  · rw [if_pos hs, State.core_setCore_self]
    exact ⟨rfl, rfl, fun _ _ => ⟨rfl, rfl, rfl⟩, rfl, rfl, fun _ => rfl, fun h => absurd (hs.symm.trans h) nofun, rfl⟩
  · obtain ⟨n, hn⟩ := (s.core k).user.countStall_eq s.tb
    have hcore : ((s.setCore k (s.stoppedCore k)).dropWalk k).core k = s.stoppedCore k := s.core_setCore_self k _
    rw [if_neg hs, hcore]
    unfold State.stoppedCore
    rw [hn, Core.leaveDemand_user, Core.leaveDemand_firm, (Core.leaveDemand_keeps _ false).1]
    refine ⟨rfl, rfl, fun _ _ => ⟨rfl, rfl, rfl⟩, rfl, rfl, fun h => absurd h hs, fun _ => ⟨rfl, fun x hx => ?_⟩, rfl⟩
    exact (Bool.eq_false_or_eq_true x.fw).resolve_right (Core.leaveDemand_left hx)

/-! ### The register that CTXU.IDX selects (R138) -/

theorem State.ctxuPut_running {s : State} {k : Nat} (h : (s.core k).run = true) (v : W64) : s.ctxuPut k v = (s, true) := if_pos h

/-- What a write of `CTXU.DAT` leaves in the user context while it does not run. -/
theorem State.ctxuPut_writes (s : State) (k : Nat) (v : W64) (hr : (s.core k).run = false) :
    let i := (s.core k).ctxuIdx.toNat
    let x := (s.core k).user
    let y := ((s.ctxuPut k v).1.core k).user
    let r := BitVec.ofNat 6 i
    let a := BitVec.ofNat 4 i
    let p := BitVec.ofNat 3 i
    (i < 0x40 → y = x.setS r v)
      ∧ (0x40 ≤ i → i < 0x50 → y = x.setA a ((x.getA a).extractLsb' 64 8 ++ v))
      ∧ (0x840 ≤ i → i < 0x850 → y = x.setA a (v.extractLsb' 0 8 ++ (x.getA a).extractLsb' 0 64))
      ∧ (0x50 ≤ i → i < 0x58 → y = x.setP p (v.getLsbD 0))
      ∧ (i = 0x58 → y = { x with pc := x.pc.extractLsb' 64 8 ++ v.extractLsb' 2 62 ++ (0 : BitVec 2) })
      ∧ (i = 0x402 → y = { x with tvec := v.extractLsb' 2 62 ++ (0 : BitVec 2) }) := by
  have hput {y : Ctx} {t : State} (h : t = s.setCtx k false y) : (t.core k).user = y := by
    rw [h]; exact s.ctx_setCtx_self k false y
  intro i x y r a p
  refine ⟨fun h => hput ?_, fun h g => hput ?_, fun h g => hput ?_, fun h g => hput ?_, fun h => hput ?_, fun h => hput ?_⟩
  all_goals
    unfold State.ctxuPut
    simp only [hr, Bool.false_eq_true, if_false]
  · rw [if_pos h]
  · rw [if_neg (by omega), if_pos g, ofNat_high_add]
  · rw [if_neg (by omega), if_neg (by omega), if_neg (by omega), if_neg (by omega), if_pos ⟨h, g⟩, ofNat_add_low]
  · rw [if_neg (by omega), if_neg (by omega), if_pos g, nbit_toNat]
  · rw [if_neg (by omega), if_neg (by omega), if_neg (by omega), if_pos h, ofNat_high_add_aligned]
  · subst i
    rw [h]
    simp only [show ctxuReg (0x402 - 0x400) = true from by decide]
    rw [← ofNat_aligned]
    rfl

/-! ### Registers of engines, tokens and casks -/

/-- The base of a queue that is empty is written; of one that is not, it stays (R197). -/
theorem Engine.writeBase_empty {x : Engine} (hq : x.q = []) (hp : x.partialWords = []) (ext : Bool) (v : W64) :
    let b : VAddr := if ext then v.extractLsb' 0 8 ++ x.base.extractLsb' 0 64 else x.base.extractLsb' 64 8 ++ v
    x.writeBase ext v = { x with base := b, tail := b, partialAddr := b, linkStop := false } := by
  unfold Engine.writeBase
  rw [ofNat_high_add, ofNat_add_low, hq, hp]
  rfl

theorem Engine.writeBase_filled {x : Engine} (h : x.q ≠ [] ∨ x.partialWords ≠ []) (ext : Bool) (v : W64) : x.writeBase ext v = x := by
  refine if_pos ?_
  simpa using h

/-- A write of an engine of a core leaves the other engines. -/
theorem State.core_setEng (s : State) (k : Nat) (e : Eng) (x : Engine) :
    let u := s.setCore k ((s.core k).setEng e x)
    (u.core k).eng e = x ∧ ∀ o, o ≠ e → (u.core k).eng o = (s.core k).eng o := by
  intro u
  rw [State.core_setCore_self]
  exact ⟨Core.eng_setEng_self .., fun o ho => Core.eng_setEng_of_ne _ _ (Ne.symm ho)⟩

/-- A scratch area that fits is taken where no tile is pinned, and every memo tile is dropped (R276). -/
theorem Core.writeScr_taken {c : Core} {v : W64} (hf : (v.toNat % 4096 + v.toNat / 2 ^ 16 % 4096) * 1024 ≤ c.spadSize)
    (hp : (c.live.any fun p => p.2.memo.any (·.pin)) = false) :
    c.writeScr v = { c with
      scrBase := v.toNat % 4096, scrSize := v.toNat / 2 ^ 16 % 4096, casks := c.casks.map fun p => (p.1, p.2.map Cask.resetMemo) } := by
  refine if_neg ?_
  rw [hp, Bool.or_false, decide_eq_true_eq]
  exact Nat.not_lt.2 hf

theorem Core.writeScr_ignored {c : Core} {v : W64} (h : c.spadSize < (v.toNat % 4096 + v.toNat / 2 ^ 16 % 4096) * 1024
    ∨ (c.live.any fun p => p.2.memo.any (·.pin)) = true) : c.writeScr v = c := by
  refine if_pos ?_
  rw [Bool.or_eq_true, decide_eq_true_eq]
  exact h

/-- An entry of a table whose memo tiles are dropped is the entry without them. -/
theorem Cask.resetMemo_found {m : FMap (Option Cask)} {e : Nat} {x : Cask}
    (h : FMap.get none (m.map fun p => (p.1, p.2.map Cask.resetMemo)) e = some x) :
    x.memo = [] ∧ ∃ y, FMap.get none m e = some y ∧ x.desc = y.desc := by
  rw [FMap.get_map_value (Option.map Cask.resetMemo) rfl] at h
  obtain ⟨y, hy, rfl⟩ := Option.map_eq_some_iff.1 h
  exact ⟨rfl, y, hy, rfl⟩

/-! ### Translations (R245) -/

/-- The translations that a write of `XLAT.INV` names, as one condition. -/
theorem invNames_eq (iva v : W64) (t : TlbEnt) :
    invNames iva v t = decide (v.toNat % 4 = 2 ∨ (t.asn = v.toNat / 2 ^ 48 ∧
      (v.toNat % 4 = 1 ∨ (v.toNat % 4 = 0 ∧ iva.toNat % 2 ^ 56 * 65536 / 2 ^ t.shift = t.vpn)))) := by
  unfold invNames
  rw [Bool.eq_iff_iff]
  simp only [Bool.or_eq_true, Bool.and_eq_true, decide_eq_true_eq]
  tauto

def Core.forget (iva v : W64) (c : Core) : Core := { c with tlb := c.tlb.filter fun t => !invNames iva v t }
def Die.forget (iva v : W64) (d : Die) : Die := { d with tlb := d.tlb.filter fun t => !invNames iva v t }

/-- Translations are dropped from every core and every die. -/
theorem State.dropXlat_drops (s : State) (iva v : W64) :
    (∀ j, (s.dropXlat iva v).core j = (s.core j).forget iva v) ∧ ∀ d, (s.dropXlat iva v).die d = (s.die d).forget iva v :=
  ⟨fun j => FMap.get_map_value (Core.forget iva v) rfl s.cores j, fun d => FMap.get_map_value (Die.forget iva v) rfl s.dies d⟩

/-! ### Writes that are steps (R135) -/

theorem exec_registerWrite_direct (s : State) (k : Nat) {fw : Bool} (v : W64) {m : Nat} (hm : m < 4096)
    (hf : fw = true ∨ firmwareWritten m = false) {u : State} (h : s.csrWrite k fw m v = (u, true)) :
    s.Ends (.registerWrite k fw m v) fun t => t = u := by
  refine ⟨_, ?_, congrArg Prod.fst h⟩
  show execRegisterWrite k fw m v s = _
  unfold execRegisterWrite
  rw [if_neg (Nat.not_le.2 hm), if_neg (by rcases hf with h | h <;> simp [h])]

theorem exec_registerWrite_priv (s : State) (k : Nat) (v : W64) {m : Nat} (hm : m < 4096) (hw : firmwareWritten m = true) :
    exec (.registerWrite k false m v) s = .next (s.takeTrap k false (mkTrap .priv s.word.toNat 3 m 0)) := by
  show execRegisterWrite k false m v s = _
  unfold execRegisterWrite
  rw [if_neg (Nat.not_le.2 hm), if_pos (by simp [hw])]

/-! ### Register spaces (R33, R402, R433) -/

/-- A key slot takes eight bytes in each direction in which it is not ACTIVE (R432, R433). -/
theorem Port.writeKey_first (x : Port) (o : Nat) (v : W64) :
    let put (m : FMap Byte) : FMap Byte := writeBytes m o (leBytes 8 v.toNat)
    x.writeKey false o v = { x with
      key0 := if x.st0 = .active then x.key0 else put x.key0
      rx := { x.rx with key0 := if x.rx.st0 = .active then x.rx.key0 else put x.rx.key0 } } := by
  simp only [Port.writeKey, Port.slotSt, RxKeys.slotSt, Bool.false_eq_true, if_false]
  split <;> split <;> rfl

theorem exec_registerWrite_space (s : State) (k : Nat) (v : W64) {m : Nat} (hm : 4096 ≤ m) {u : State} (h : s.spaceWrite m v = u) :
    s.Ends (.registerWrite k true m v) fun t => t = u :=
  ⟨_, if_pos hm, h⟩

theorem State.spaceWrite_tailHi (s : State) (v : W64) {q : Nat} (hq : q < 64) :
    s.spaceWrite (0x40000 + 0x40 * q + 0x28) v = s.setLq q { s.lq q with tailHi := v } := by
  have hdiv : (0x40000 + 0x40 * q + 0x28 - 0x40000) / 0x40 = q := by omega
  unfold State.spaceWrite
  rw [if_pos (by omega)]
  simp only [hdiv]
  rw [if_pos (by omega)]

theorem State.spaceWrite_key (s : State) (v : W64) {p o : Nat} (hp : p < 35) (ho : o < 4) :
    s.spaceWrite (0x100000 + 0x100 * p + 0x20 + 8 * o) v = s.setPort p ((s.port p).writeKey false (8 * o) v) := by
  have hdiv : (0x100000 + 0x100 * p + 0x20 + 8 * o - 0x100000) / 0x100 = p := by omega
  have hmod : (0x100000 + 0x100 * p + 0x20 + 8 * o) % 0x100 = 0x20 + 8 * o := by omega
  unfold State.spaceWrite
  rw [if_neg (by omega), if_neg (by omega)]
  simp only [hdiv, hmod]
  rw [if_pos (by omega), show 0x20 + 8 * o - 0x20 = 8 * o by omega]

theorem State.spaceWrite_route (s : State) (v : W64) {p : Nat} (hp : p < 1058) (he : ∀ x ∈ s.ports, x.2.en = false) :
    s.spaceWrite (0x200000 + 8 * p) v = { s with routes := s.routes.put Route.none p (routeOf v) } := by
  have hany : (s.ports.any fun x => x.2.en) = false := by
    rw [List.any_eq_false]
    intro x hx
    rw [he x hx]
    exact nofun
  unfold State.spaceWrite
  rw [if_neg (by omega), if_pos (by omega)]
  unfold State.platformWrite
  rw [if_pos (by omega), hany, show (0x200000 + 8 * p - 0x200000) / 8 = p by omega]
  rfl

/-! ### The steps -/

/-- Settles O54: each write is the equation of its step, field by field. -/
theorem registerWrites : Obligations.RegisterWrites := by
  unfold Obligations.RegisterWrites
  intro s k fw v c n is
  refine ⟨⟨_, rfl, ?fcsr⟩, ⟨_, rfl, rfl⟩, fun h => ⟨_, rfl, if_pos h⟩, fun h => ⟨_, rfl, if_neg (ne_true_of_eq_false h)⟩,
    ⟨_, rfl, rfl⟩, fun h => ⟨_, rfl, ?start⟩, fun h => ⟨_, rfl, s.writeUctl_stops k h⟩, ⟨_, rfl, rfl⟩, fun h => ⟨_, rfl, ?running⟩,
    fun h => ⟨_, rfl, ?ctxu⟩,
    fun e => ⟨fun h ext => ⟨_, rfl, ?filled⟩, fun hq hp ext => ⟨_, rfl, ?empty⟩, ⟨_, rfl, ?fault⟩⟩,
    fun t => ⟨⟨_, rfl, rfl⟩, ⟨_, rfl, rfl⟩, ⟨_, rfl, rfl⟩, rfl⟩, ⟨fun h => ⟨_, rfl, ?ignored⟩, fun hf hp => ⟨_, rfl, ?taken⟩⟩,
    ⟨_, rfl, rfl⟩,
    fun h => ⟨_, rfl, if_pos h⟩, fun h => ⟨_, congrArg Host.Outcome.next (if_neg h), ?named⟩, ⟨_, rfl, rfl⟩,
    fun m hm => ⟨fun hf hw ht => ?priv, fun hf => ?direct⟩, fun m hm => ⟨⟨_, if_pos hm, rfl⟩, fun q hq he => ?tailHi, fun p hp o ho he => ?key,
      fun p hp he hx => ?route⟩⟩
  case fcsr =>
    obtain ⟨hnv, hdz, hof, huf, hnx⟩ := (s.ctx k fw).setFcsr_flags v
    obtain ⟨hset, hkept⟩ := (s.ctx k fw).setFcsr_rm v
    obtain ⟨hS, hA, hP⟩ := (s.ctx k fw).setFcsr_keeps v
    have hctx : (s.csrSet k fw 0x001 v).ctx k fw = (s.ctx k fw).setFcsr v := s.ctx_setCtx_self k fw _
    dsimp only
    rw [hctx]
    exact ⟨hnv, hdz, hof, huf, hnx, hset, hkept, hS, hA, hP, s.ctx_setCtx_not k fw _, rfl⟩
  case start =>
    unfold State.writeUctl
    rw [nbit_toNat, h]
    rfl
  case running => exact congrArg Prod.fst (State.ctxuPut_running h v)
  case ctxu =>
    obtain ⟨hs, ha, hx, hp, hpc, hcsr⟩ := s.ctxuPut_writes k v h
    refine ⟨fun h => ?_, fun h g => ?_, fun h g => ?_, fun h g => ?_, fun h => ?_, hcsr⟩
    · rw [hs h]
      exact ⟨Ctx.setS_holds .., Ctx.setS_keepsS _ _ _, Ctx.setS_keepsA _ _ _ _, Ctx.setS_keepsP _ _ _ _, Ctx.setS_pc ..⟩
    · rw [ha h g]
      exact ⟨Ctx.getA_setA_self .., Ctx.setA_keepsS _ _ _ _, Ctx.setA_keepsA _ _ _, Ctx.setA_keepsP _ _ _ _, rfl⟩
    · rw [hx h g]
      exact ⟨Ctx.getA_setA_self .., Ctx.setA_keepsS _ _ _ _, Ctx.setA_keepsA _ _ _, rfl⟩
    · rw [hp h g]
      exact ⟨Ctx.getP_setP_self .., Ctx.setP_keepsS _ _ _ _, Ctx.setP_keepsA _ _ _ _, Ctx.setP_keepsP _ _ _⟩
    · rw [hpc h]
      exact ⟨rfl, fun _ _ => ⟨rfl, rfl, rfl⟩, fun _ _ => rfl, fun _ _ => rfl⟩
  case filled => exact (s.core_setEng k e _).1.trans (Engine.writeBase_filled h ext v)
  case empty =>
    obtain ⟨he, ho⟩ := s.core_setEng k e ((c.eng e).writeBase ext v)
    exact ⟨he.trans (Engine.writeBase_empty hq hp ext v), ho⟩
  case fault =>
    obtain ⟨he, ho⟩ := s.core_setEng k e ((c.eng e).writeStat v)
    refine ⟨he.trans ?_, ho⟩
    unfold Engine.writeStat
    rw [nbit_toNat]
  case ignored => exact (s.core_setCore_self k _).trans (Core.writeScr_ignored h)
  case taken =>
    dsimp only
    rw [State.core_setCore_self, Core.writeScr_taken hf hp]
    exact ⟨rfl, rfl, rfl, fun e x => Cask.resetMemo_found⟩
  case named =>
    obtain ⟨hcore, hdie⟩ := s.dropXlat_drops c.iva v
    simp only [n, ← invNames_eq]
    exact ⟨rfl, fun j => congrArg Core.tlb (hcore j), fun d => congrArg Die.tlb (hdie d)⟩
  case priv =>
    refine ⟨_, exec_registerWrite_priv s k v hm hw, ?_⟩
    have htrap := s.takeTrap_trapped k false (mkTrap .priv s.word.toNat 3 m 0) ht
    rw [show (mkTrap .priv s.word.toNat 3 m 0).e0 = s.word.setWidth 64 from BitVec.ofNat_toNat ..] at htrap
    exact htrap
  case direct =>
    refine ⟨fun h => ?_, fun h => ?_, fun h => ?_⟩
    · subst h
      rw [← ofNat_aligned]
      exact exec_registerWrite_direct s k v hm hf rfl
    · subst h
      exact exec_registerWrite_direct s k v hm hf rfl
    · subst h
      exact exec_registerWrite_direct s k v hm hf rfl
  case tailHi => exact he ▸ exec_registerWrite_space s k v (he ▸ hm) (s.spaceWrite_tailHi v hq)
  case key => 
    subst he
    refine ⟨_, if_pos hm, (s.spaceWrite_key v hp ho).trans ?_⟩
    rw [Port.writeKey_first]
  case route =>
    subst he
    refine ⟨_, if_pos hm, ?_⟩
    rw [if_pos rfl, s.spaceWrite_route v hp hx]
    exact ⟨FMap.get_put_self .., fun o ho => FMap.get_put_of_ne _ _ _ (Ne.symm ho)⟩

end Machine
end Sys2Proof
end

section
/-!
Acquires of a core (R144, R222, R364): they empty data caches, and change nothing else that a program sees.
-/

namespace Sys2Proof.Machine

/-- A state differs from another at most by what acquires change: of a core its data cache and the acquire of its quad that it has seen. -/
structure State.OnlyAcquired (s t : State) : Prop where
  only : t = { s with cores := t.cores, acqs := t.acqs }
  core : ∀ j, t.core j = { s.core j with dcache := (t.core j).dcache, acqSeen := (t.core j).acqSeen }

namespace State.OnlyAcquired

theorem refl (s : State) : s.OnlyAcquired s := ⟨rfl, fun _ => rfl⟩

theorem trans {s t u : State} (h : s.OnlyAcquired t) (g : t.OnlyAcquired u) : s.OnlyAcquired u where
  only := by have hg := g.only; rw [h.only] at hg; exact hg
  core j := by have hg := g.core j; rw [h.core j] at hg; exact hg

theorem setCore (s : State) (k : Nat) (l : List (Nat × List Byte)) (n : Nat) (as : FMap Nat) :
    s.OnlyAcquired ({ s with acqs := as }.setCore k { s.core k with dcache := l, acqSeen := n }) where
  only := rfl
  core j := by
    rw [State.core_setCore]
    split
    · next e => subst e; rfl
    · rfl

theorem ctx {s t : State} (h : s.OnlyAcquired t) (k : Nat) (fw : Bool) : t.ctx k fw = s.ctx k fw := by
  unfold State.ctx; rw [h.core k]; rfl

theorem mem {s t : State} (h : s.OnlyAcquired t) : t.mem = s.mem := by rw [h.only]

theorem tb {s t : State} (h : s.OnlyAcquired t) : t.tb = s.tb := by rw [h.only]

theorem focus {s t : State} (h : s.OnlyAcquired t) : t.focusCore = s.focusCore ∧ t.focusFw = s.focusFw := by
  rw [h.only]; exact ⟨rfl, rfl⟩

theorem cur {s t : State} (h : s.OnlyAcquired t) : t.cur = s.cur := by
  unfold State.cur; rw [h.focus.1, h.focus.2, h.ctx]

end State.OnlyAcquired

theorem State.acquire_onlyAcquired (s : State) (k : Nat) (sc : Scope) : s.OnlyAcquired (s.acquire k sc) := by
  unfold State.acquire
  dsimp only
  split
  · exact .setCore ..
  · split
    · exact .setCore ..
    · exact .refl s

end Sys2Proof.Machine
end

section
/-!
`wait`: its issue and its three ends (R145 to R147, R217).
-/

namespace Sys2Proof.Machine

/-! ### Conditions (R146) -/

/-- The conditions that the manual does not allow. -/
theorem WaitCond.bad_iff (w : WaitCond) :
    w.bad = true ↔ w.kind = 0 ∨ 7 < w.kind ∨ (w.kind = 2 ∧ 5 < w.sel / 16 % 8) ∨ (w.kind = 6 ∧ w.sel % 16 = 0) := by
  simp only [WaitCond.bad, Bool.or_eq_true, Bool.and_eq_true, decide_eq_true_eq]
  unfold nbits
  omega

/-- The first condition with a property stands where it is said to, and none before it has the property. -/
theorem firstCond_eq_some {p : WaitCond → Bool} {ws : List WaitCond} {n j : Nat} {w : WaitCond} (h : firstCond p n ws = some (j, w)) :
    n ≤ j ∧ ws[j - n]? = some w ∧ p w = true ∧ ∀ i, i < j - n → ∃ x, ws[i]? = some x ∧ p x = false := by
  induction ws generalizing n with
  | nil => exact absurd h nofun
  | cons x ws ih =>
    unfold firstCond at h
    by_cases hx : p x = true
    · rw [if_pos hx] at h
      cases h
      exact ⟨Nat.le_refl _, by simp, hx, fun i hi => absurd hi (by omega)⟩
    · rw [if_neg hx] at h
      obtain ⟨hn, hj, hw, hbefore⟩ := ih h
      have hs : j - n = (j - (n + 1)) + 1 := by omega
      refine ⟨by omega, by rw [hs]; exact hj, hw, fun i hi => ?_⟩
      cases i with
      | zero => exact ⟨x, rfl, by simpa using hx⟩
      | succ i => exact hbefore i (by omega)

theorem firstCond_eq_none {p : WaitCond → Bool} {ws : List WaitCond} (h : ∀ w ∈ ws, p w = false) (n : Nat) : firstCond p n ws = none := by
  induction ws generalizing n with
  | nil => rfl
  | cons x ws ih =>
    obtain ⟨hx, hws⟩ := List.forall_mem_cons.1 h
    unfold firstCond
    rw [if_neg (by simp [hx])]
    exact ih hws _

theorem firstCond_exists {p : WaitCond → Bool} {ws : List WaitCond} (h : ∃ w ∈ ws, p w = true) (n : Nat) :
    ∃ j w, firstCond p n ws = some (j, w) := by
  induction ws generalizing n with
  | nil => exact absurd h (by simp)
  | cons x ws ih =>
    unfold firstCond
    by_cases hx : p x = true
    · exact ⟨n, x, if_pos hx⟩
    · obtain ⟨w, hw, hp⟩ := h
      rw [if_neg hx]
      exact ih ⟨w, (List.mem_cons.1 hw).resolve_left (fun e => hx (e ▸ hp)), hp⟩ _

/-! ### What a tick comes to (R147, R217) -/

/-- The conditions of a `wait` are met: all of them, or one. -/
def WaitMet (allOf : Bool) (ts : List Bool) : Prop := if allOf then ∀ t ∈ ts, t = true else ∃ t ∈ ts, t = true

theorem waitMet_iff (allOf : Bool) (ts : List Bool) : (if allOf then ts.all id else ts.any id) = true ↔ WaitMet allOf ts := by
  unfold WaitMet
  cases allOf <;> simp

/-- Of conditions that are not met, one is false. -/
theorem exists_false_of_not_met {allOf : Bool} {ts : List Bool} (h : ¬ WaitMet allOf ts) (hn : ts ≠ []) : ∃ t ∈ ts, t = false := by
  cases allOf with
  | true => simpa [WaitMet] using h
  | false =>
    obtain ⟨t, ht⟩ := List.exists_mem_of_ne_nil ts hn
    exact ⟨t, ht, by simpa using fun e => h ⟨t, ht, e⟩⟩

section Tick

variable {s : State} {k : Nat} {fw allOf : Bool} {ws : List WaitCond} (hf : fw = false → ∀ w ∈ ws, s.condFault k w = none)
  (lim start : Nat)

include hf

theorem State.waitFault_none : (if fw then none else ws.findSome? (s.condFault k)) = none := by
  cases fw with
  | true => rfl
  | false => exact List.findSome?_eq_none_iff.2 (hf rfl)

theorem State.waitNow_met (hm : WaitMet allOf (ws.map (s.condTrue k fw))) (hl : lim = 0 ∨ s.tb - start ≤ lim) :
    s.waitNow k fw allOf ws lim start = .done (ws.map (s.condTrue k fw)) := by
  unfold State.waitNow
  simp only [State.waitFault_none hf, (waitMet_iff _ _).2 hm, Bool.true_and]
  exact if_pos (by simpa using hl)

section Unmet

variable (hm : ¬ WaitMet allOf (ws.map (s.condTrue k fw)))

include hm

theorem State.waitNow_missed {j : Nat} {w : WaitCond} (h : firstCond (s.condMissed k fw) 0 ws = some (j, w)) :
    s.waitNow k fw allOf ws lim start = .miss j w := by
  unfold State.waitNow
  simp only [State.waitFault_none hf, Bool.eq_false_iff.2 (mt (waitMet_iff _ _).1 hm), Bool.false_and, Bool.false_eq_true, if_false, h]

theorem State.waitNow_holds (h : firstCond (s.condMissed k fw) 0 ws = none) (hl : lim = 0 ∨ s.tb - start < lim) :
    s.waitNow k fw allOf ws lim start = .hold := by
  unfold State.waitNow
  simp only [State.waitFault_none hf, Bool.eq_false_iff.2 (mt (waitMet_iff _ _).1 hm), Bool.false_and, Bool.false_eq_true, if_false, h]
  exact if_pos (by simpa using hl)

/-- At its time-out a `wait` stalls on the first of its conditions that is false. -/
theorem State.waitNow_stalls (h : firstCond (s.condMissed k fw) 0 ws = none) (hl : lim ≠ 0) (ht : lim ≤ s.tb - start) (hn : ws ≠ []) :
    ∃ j w, s.waitNow k fw allOf ws lim start = .stall j w ∧ ws[j]? = some w ∧ s.condTrue k fw w = false
      ∧ ∀ i, i < j → ∃ x, ws[i]? = some x ∧ s.condTrue k fw x = true := by
  obtain ⟨t, hmem, hfalse⟩ := exists_false_of_not_met hm (by simpa using hn)
  obtain ⟨x, hx, rfl⟩ := List.mem_map.1 hmem
  obtain ⟨j, w, hjw⟩ := firstCond_exists (p := fun w => !s.condTrue k fw w) ⟨x, hx, by rw [hfalse]; rfl⟩ 0
  obtain ⟨-, hj, hw, hbefore⟩ := firstCond_eq_some hjw
  refine ⟨j, w, ?_, hj, by simpa using hw, fun i hi => ?_⟩
  · unfold State.waitNow
    simp only [State.waitFault_none hf, Bool.eq_false_iff.2 (mt (waitMet_iff _ _).1 hm), Bool.false_and, Bool.false_eq_true, if_false, h, hjw]
    exact if_neg (by simp only [Bool.or_eq_true, decide_eq_true_eq]; omega)
  · obtain ⟨y, hy, hp⟩ := hbefore i hi
    exact ⟨y, hy, by simpa using hp⟩

end Unmet

end Tick

/-! ### What its end leaves -/

theorem Ctx.countStall_took (c : Ctx) (now : Nat) (d : Reg) (v : W64) : c.Took ((c.countStall now).setS d v).advance d v := by
  obtain ⟨n, hn⟩ := c.countStall_eq now
  rw [hn]
  exact Ctx.setS_advance_took _ d v

/-- A `wait` that is done has acquired for its true conditions, and its context has gone on with its truth bits. -/
theorem State.waitDone_spec (s : State) (d : Reg) (ws : List WaitCond) (ts : List Bool) :
    ∃ u, s.OnlyAcquired u ∧ s.waitDone d ws ts = u.setCur ((s.cur.countStall s.tb).setS d (truthWord ts)).advance := by
  have hfold : s.OnlyAcquired ((ws.zip ts).foldl (fun s p => if p.2 then s.acquire s.focusCore (s.curCore.acquires p.1) else s) s) := by
    refine List.foldlRecOn (motive := s.OnlyAcquired) _ _ (.refl s) fun t ht p _ => ?_
    split
    · exact ht.trans (t.acquire_onlyAcquired ..)
    · exact ht
  refine ⟨_, hfold, ?_⟩
  rw [← hfold.cur, ← hfold.tb]
  rfl

@[simp] theorem Core.leaveDemand_bmap (c : Core) (fw : Bool) : (c.leaveDemand fw).bmap = c.bmap := by
  have hd (d : Demand) : (c.dropForced d).bmap = c.bmap := by unfold Core.dropForced; split <;> rfl
  unfold Core.leaveDemand
  split
  · rfl
  · split
    · rfl
    · dsimp only
      split <;> exact hd _

/-- A trap that finds its handler leaves the chunk bitmaps. -/
theorem State.takeTrap_bmap {s : State} {k : Nat} {fw : Bool} (h : (s.ctx k fw).CanTrap fw) (x : Trap) :
    ((s.takeTrap k fw x).core k).bmap = (s.core k).bmap := by
  refine (congrArg (fun u : State => (u.core k).bmap) (State.takeTrapAt_handled _ _ _ _ _ _ _ h)).trans ?_
  show (((s.handled k fw _).core k).bmap) = _
  unfold State.handled State.setCtx
  rw [State.core_setCore_self, Core.leaveDemand_bmap, State.core_setCore_self, Core.setCtx_bmap]

/-- What a time-out reads draws a value that is not stated, at most. -/
theorem State.stallInfo_only (s : State) (k : Nat) (fw : Bool) (w : WaitCond) :
    ∃ n e1 e2 e3, s.stallInfo k fw w = ({ s with free := n }, e1, e2, e3) := by
  unfold State.stallInfo
  dsimp only
  split
  case h_2 => exact ⟨s.free + 1, _, _, _, rfl⟩
  all_goals exact ⟨s.free, _, _, _, rfl⟩

/-! ### The issue of a `wait` -/

section Issue

variable {s s1 s2 : State} {d b : Reg} {a : AReg} {lim : W64} {hd bs : List Byte} (fb : Bool) (hr : s.Reads b lim) (ht : s.Takes d)
  (h1 : s.Desc (s.cur.getA a) 16 hd s1)

include hr ht h1

/-- A `wait` whose header asks for a number of conditions that is not allowed. -/
theorem exec_wait_badCount (hn : field hd 0 1 % 8 = 0 ∨ 4 < field hd 0 1 % 8) :
    exec (.wait d a b fb) s = ((writeS s1 d 0x1000000000000000).keepDesc (s.cur.getA a) hd).dropReads.out := by
  show execWait d a b fb s = _
  unfold execWait
  rw [readSrc_reads hr, waitDest_takes ht, readDesc_desc h1]
  dsimp only
  rw [if_pos (by simp only [Bool.or_eq_true, decide_eq_true_eq]; omega)]
  rfl

variable (hn : 1 ≤ field hd 0 1 % 8) (hn' : field hd 0 1 % 8 ≤ 4) (h2 : s1.Desc (s.cur.getA a) (16 + 16 * (field hd 0 1 % 8)) bs s2)

include hn hn' h2

theorem exec_wait_bad (hw : (waitConds bs (field hd 0 1 % 8)).any WaitCond.bad = true) :
    exec (.wait d a b fb) s =
      (((writeS s2 d 0x1000000000000000).keepDesc (s.cur.getA a) bs).keepDesc (s.cur.getA a) hd).dropReads.out := by
  show execWait d a b fb s = _
  unfold execWait
  rw [readSrc_reads hr, waitDest_takes ht, readDesc_desc h1]
  dsimp only
  rw [if_neg (by simp only [Bool.or_eq_true, decide_eq_true_eq]; omega), readDesc_desc h2, if_pos hw]
  rfl

variable (hw : (waitConds bs (field hd 0 1 % 8)).any WaitCond.bad = false)

include hw

theorem exec_wait_done {ts : List Bool} (h : s2.waitNow s2.focusCore s2.focusFw (nbit (field hd 0 2) 8) (waitConds bs (field hd 0 1 % 8))
    lim.toNat s2.tb = .done ts) :
    exec (.wait d a b fb) s = (((Res.ok ((s2.setCur { s2.cur with stallCnt := 0 }).waitDone d (waitConds bs (field hd 0 1 % 8)) ts)).keepDesc
      (s.cur.getA a) bs).keepDesc (s.cur.getA a) hd).dropReads.out := by
  show execWait d a b fb s = _
  unfold execWait
  rw [readSrc_reads hr, waitDest_takes ht, readDesc_desc h1]
  dsimp only
  rw [if_neg (by simp only [Bool.or_eq_true, decide_eq_true_eq]; omega), readDesc_desc h2, if_neg (by simp [hw]), h]

theorem exec_wait_holds (h : s2.waitNow s2.focusCore s2.focusFw (nbit (field hd 0 2) 8) (waitConds bs (field hd 0 1 % 8))
    lim.toNat s2.tb = .hold) :
    exec (.wait d a b fb) s = (((Res.ok (s2.setCur { s2.cur with
      op := some (.wait d (nbit (field hd 0 2) 8) (waitConds bs (field hd 0 1 % 8)) lim.toNat s2.tb), stallCnt := 0 })).keepDesc
      (s.cur.getA a) bs).keepDesc (s.cur.getA a) hd).dropReads.out := by
  show execWait d a b fb s = _
  unfold execWait
  rw [readSrc_reads hr, waitDest_takes ht, readDesc_desc h1]
  dsimp only
  rw [if_neg (by simp only [Bool.or_eq_true, decide_eq_true_eq]; omega), readDesc_desc h2, if_neg (by simp [hw]), h]

end Issue

/-- A word that has gone on from one descriptor keeps none of it. -/
theorem keepDesc_gone {t : State} (h : t.cur.op ≠ some .demand) (va : VAddr) (bs : List Byte) :
    ((Res.ok t).keepDesc va bs).dropReads.out = .next t.dropReads := by
  rw [Res.keepDesc_eq h]
  rfl

theorem keepDesc_gone_twice {t : State} (h : t.cur.op ≠ some .demand) (va vb : VAddr) (bs cs : List Byte) :
    (((Res.ok t).keepDesc va bs).keepDesc vb cs).dropReads.out = .next t.dropReads := by
  rw [Res.keepDesc_eq h, keepDesc_gone h]

/-! ### The ends of a held `wait` -/

/-- A context whose `wait` has come to its time-out waits no longer, and the length of its stall stands in its counter (R147). -/
def State.stalled (s : State) (k : Nat) (fw : Bool) (lim n : Nat) : State :=
  ({ s with focusCore := k, focusFw := fw, free := n } : State).setCtx k fw { s.ctx k fw with op := none, stallCnt := lim + 1 }

section Held

variable {s : State} {k : Nat} {fw allOf : Bool} {d : Reg} {ws : List WaitCond} {lim start : Nat}
  (ho : (s.ctx k fw).op = some (.wait d allOf ws lim start)) (hs : (s.core k).stopped = false)

include ho hs

theorem State.inWait_held (f : State → Reg → List WaitCond → Nat → WaitNow → Host.Outcome State Fault Refusal) :
    s.inWait k fw f = f { s with focusCore := k, focusFw := fw } d ws lim (s.waitNow k fw allOf ws lim start) := by
  unfold State.inWait
  simp only [hs, Bool.false_eq_true, if_false, ho]

theorem exec_waitComplete {ts : List Bool} (h : s.waitNow k fw allOf ws lim start = .done ts) :
    exec (.waitComplete k fw) s = .next ((({ s with focusCore := k, focusFw := fw } : State).waitDone d ws ts).turnTaken k fw) := by
  show execWaitComplete k fw s = _
  unfold execWaitComplete
  rw [State.inWait_held ho hs, h]

theorem exec_promiseMiss {j : Nat} {w : WaitCond} (h : s.waitNow k fw allOf ws lim start = .miss j w) :
    let b := (s.core k).slotOf (w.sel % 64)
    exec (.promiseMiss k fw) s = .next ((({ s with focusCore := k, focusFw := fw } : State).setCore k
      ((s.core k).setSlot (w.sel % 64) { b with promise := 0 })).takeTrap k fw (mkTrap .promiseMiss j (w.sel % 64) b.promise b.bits.toNat)) := by
  show execPromiseMiss k fw s = _
  unfold execPromiseMiss
  rw [State.inWait_held ho hs, h]
  rfl

theorem exec_stallTimeout {j : Nat} {w : WaitCond} (h : s.waitNow k fw allOf ws lim start = .stall j w) :
    ∃ n x, x.cause = .stall ∧ x.e0 = BitVec.ofNat 64 j ∧ exec (.stallTimeout k fw) s = .next ((s.stalled k fw lim n).takeTrap k fw x) := by
  obtain ⟨n, e1, e2, e3, hinfo⟩ := ({ s with focusCore := k, focusFw := fw } : State).stallInfo_only k fw w
  refine ⟨n, mkTrap .stall j e1 e2 e3, rfl, rfl, ?_⟩
  show execStallTimeout k fw s = _
  unfold execStallTimeout
  rw [State.inWait_held ho hs, h]
  unfold waitTrap
  dsimp only
  rw [hinfo]
  rfl

end Held

/-- A held `wait` that completes: its context takes the truth bits, and nothing else that a program sees changes. -/
theorem State.waitDone_completes (s : State) (k : Nat) (fw : Bool) (d : Reg) (ws : List WaitCond) (ts : List Bool) :
    let t := (({ s with focusCore := k, focusFw := fw } : State).waitDone d ws ts).turnTaken k fw
    (s.ctx k fw).Took (t.ctx k fw) d (truthWord ts) ∧ t.mem = s.mem ∧ t.ctx k (!fw) = s.ctx k (!fw) := by
  obtain ⟨u, hu, hdone⟩ := ({ s with focusCore := k, focusFw := fw } : State).waitDone_spec d ws ts
  intro t
  obtain ⟨hk, hfw⟩ := hu.focus
  have ht (f : Bool) : t.ctx k f = (u.setCtx k fw (((s.ctx k fw).countStall s.tb).setS d (truthWord ts)).advance).ctx k f := by
    show (State.waitDone _ d ws ts).ctx k f = _
    rw [hdone]
    unfold State.setCur
    rw [hk, hfw]
    rfl
  refine ⟨?_, ?_, ?_⟩
  · rw [ht, State.ctx_setCtx_self]
    exact Ctx.countStall_took ..
  · show (State.waitDone _ d ws ts).mem = _
    rw [hdone]
    exact hu.mem
  · rw [ht, State.ctx_setCtx_not]
    exact hu.ctx k (!fw)

/-- A `wait` at issue that is done: its context takes the truth bits. -/
theorem State.waitDone_took {s : State} {c : Ctx} (hc : s.cur = c) (n : Nat) (d : Reg) (ws : List WaitCond) (ts : List Bool) :
    let t := (s.setCur { s.cur with stallCnt := n }).waitDone d ws ts
    c.Took t.cur d (truthWord ts) ∧ t.mem = s.mem := by
  subst hc
  obtain ⟨u, hu, hdone⟩ := (s.setCur { s.cur with stallCnt := n }).waitDone_spec d ws ts
  intro t
  refine ⟨?_, ?_⟩
  · show s.cur.Took (State.waitDone _ d ws ts).cur d _
    rw [hdone, State.cur_setCur, State.cur_setCur]
    exact Ctx.countStall_took { s.cur with stallCnt := n } ..
  · show (State.waitDone _ d ws ts).mem = _
    rw [hdone]
    exact hu.mem

/-- Settles O17: a `wait` at issue is one equation for each of its beginnings, a held one for each of its ends, and which of them holds is
read off its conditions. -/
theorem waitsBeginAndEnd : Obligations.WaitsBeginAndEnd := by
  unfold Obligations.WaitsBeginAndEnd
  refine ⟨fun s s1 s2 d a b fb lim hd bs => ?issue, fun s k fw d allOf ws lim start => ?held⟩
  case issue =>
    intro va n hr ht h1 badDesc
    have hmoved {u : State} {v : W64} (hu : s.cur.Took u.cur d v) : u.cur.op ≠ some .demand := by rw [hu.1.2.2]; exact nofun
    have hwrites {u : State} (hu : s.OnlyRead u) : s.cur.Took (u.setCur (u.cur.setS d 0x1000000000000000).advance).cur d 0x1000000000000000
        ∧ (u.setCur (u.cur.setS d 0x1000000000000000).advance).mem = s.mem := by
      rw [State.cur_setCur, hu.cur]
      exact ⟨Ctx.setS_advance_took .., hu.mem⟩
    have hread := h1.onlyRead
    have hbad := hwrites hread
    refine ⟨fun hn => ⟨_, (exec_wait_badCount fb hr ht h1 hn).trans (keepDesc_gone (hmoved hbad.1) _ _), hbad⟩, fun hn hn' h2 => ?_⟩
    intro ws allOf ts
    replace hread := hread.trans h2.onlyRead
    have hbad := hwrites hread
    refine ⟨fun hw => ⟨_, (exec_wait_bad fb hr ht h1 hn hn' h2 ?_).trans (keepDesc_gone_twice (hmoved hbad.1) ..), hbad⟩, fun hw hf => ?_⟩
    · obtain ⟨w, hmem, h⟩ := hw
      exact List.any_eq_true.2 ⟨w, hmem, w.bad_iff.2 h⟩
    have hgood : ws.any WaitCond.bad = false := List.any_eq_false.2 fun w hmem => by rw [hw w hmem]; exact nofun
    have hts : ts = ws.map (s2.condTrue s2.focusCore s2.focusFw) := by rw [hread.focusCore, hread.focusFw]
    clear_value ts
    subst hts
    rw [← hread.focusCore, ← hread.focusFw] at hf
    intro met
    refine ⟨fun hm => ?_, fun hm hmiss => ?_⟩
    · have hnow := State.waitNow_met hf lim.toNat s2.tb hm (by omega)
      obtain ⟨htook, hmem⟩ := State.waitDone_took hread.cur 0 d ws (ws.map (s2.condTrue s2.focusCore s2.focusFw))
      exact ⟨_, (exec_wait_done fb hr ht h1 hn hn' h2 hgood hnow).trans (keepDesc_gone_twice (hmoved htook) ..), htook, hmem.trans hread.mem⟩
    · rw [← hread.focusCore, ← hread.focusFw] at hmiss
      have hnow := State.waitNow_holds hf lim.toNat s2.tb hm (firstCond_eq_none hmiss 0) (by omega)
      refine ⟨_, (exec_wait_holds fb hr ht h1 hn hn' h2 hgood hnow).trans (keepDesc_gone_twice ?_ ..), ?_, ?_, hread.mem⟩
      · rw [State.cur_setCur]
        exact nofun
      · refine (congrArg Ctx.op (s2.cur_setCur _)).trans ?_
        rw [← hread.tb]
      · refine Eq.subst (motive := s.cur.Stays) (s2.cur_setCur _).symm ?_
        rw [hread.cur]
        exact ⟨rfl, rfl, fun _ _ => ⟨rfl, rfl, rfl⟩, fun _ _ => rfl, fun _ _ => rfl⟩
  case held =>
    intro c ho hne hs hf ts
    refine ⟨fun hm hl => ?done, fun hm hi hv => ⟨fun j w hj => ?miss, fun hj hl ht => ?stall⟩⟩
    case done =>
      obtain ⟨⟨hmoved, hholds, hS, hA, hP⟩, hmem, hother⟩ := s.waitDone_completes k fw d ws ts
      exact ⟨_, exec_waitComplete ho hs (State.waitNow_met hf lim start hm hl), hmoved, hholds, hS, hA, hP, hmem, hother⟩
    case miss =>
      intro b
      let u := ({ s with focusCore := k, focusFw := fw } : State).setCore k ((s.core k).setSlot (w.sel % 64) { b with promise := 0 })
      have hcore : u.core k = (s.core k).setSlot (w.sel % 64) { b with promise := 0 } := State.core_setCore_self ..
      have hctx : u.ctx k fw = c := by unfold State.ctx; rw [hcore]; rfl
      have hcan : (u.ctx k fw).CanTrap fw := by rw [hctx]; exact ⟨hi, hv⟩
      obtain ⟨hcause, he0, he1, he2, he3, hepc, -, -, -, hS, -⟩ :=
        u.takeTrap_trapped k fw (mkTrap .promiseMiss j (w.sel % 64) b.promise b.bits.toNat) hcan
      rw [hctx] at hepc hS
      refine ⟨_, exec_promiseMiss ho hs (State.waitNow_missed hf lim start hm hj), hcause, he0, he1, he2, he3.trans (BitVec.ofNat_toNat ..), hepc,
        ?_, hS, (u.takeTrap_mem k fw _ hcan).1⟩
      show FMap.get _ _ _ = _
      rw [State.takeTrap_bmap hcan, hcore]
      exact FMap.get_put_self ..
    case stall =>
      obtain ⟨i, w, hnow, hw, hfalse, hbefore⟩ := State.waitNow_stalls hf lim start hm hj hl ht hne
      obtain ⟨n, x, hx, hx0, hexec⟩ := exec_stallTimeout ho hs hnow
      have hctx : (s.stalled k fw lim n).ctx k fw = { c with op := none, stallCnt := lim + 1 } := State.ctx_setCtx_self ..
      have hcan : ((s.stalled k fw lim n).ctx k fw).CanTrap fw := by rw [hctx]; exact ⟨hi, hv⟩
      obtain ⟨hcause, he0, -, -, -, hepc, -, -, hop, hS, -⟩ := (s.stalled k fw lim n).takeTrap_trapped k fw x hcan
      rw [hctx] at hepc hS
      rw [hx] at hcause
      refine ⟨_, hexec, hcause, hepc, hop, hS, ((s.stalled k fw lim n).takeTrap_mem k fw x hcan).1, i,
        (List.getElem?_eq_some_iff.1 hw).1, he0.trans hx0, ?_, fun m hmi => ?_⟩
      · rw [List.getElem?_map, hw, ← hfalse]
        rfl
      · obtain ⟨y, hy, htrue⟩ := hbefore m hmi
        rw [List.getElem?_map, hy, ← htrue]
        rfl

end Sys2Proof.Machine
end

section
/-!
Barriers (R380 to R386): what joining, arriving and releasing change, and which cores a release frees.
-/

namespace Sys2Proof.Machine

/-! ### What barriers change -/

/-- A state differs from another at most by what barriers change, where a program looks: of a core its barrier counters. -/
structure State.OnlyBars (s t : State) : Prop where
  core : ∀ j, t.core j = { s.core j with barLast := (t.core j).barLast, barPend := (t.core j).barPend, barWant := (t.core j).barWant }
  mem : t.mem = s.mem
  focusCore : t.focusCore = s.focusCore
  focusFw : t.focusFw = s.focusFw

namespace State.OnlyBars

theorem refl (s : State) : s.OnlyBars s := ⟨fun _ => rfl, rfl, rfl, rfl⟩

theorem trans {s t u : State} (h : s.OnlyBars t) (g : t.OnlyBars u) : s.OnlyBars u where
  core j := by have hg := g.core j; rw [h.core j] at hg; exact hg
  mem := g.mem.trans h.mem
  focusCore := g.focusCore.trans h.focusCore
  focusFw := g.focusFw.trans h.focusFw

theorem of_cores {s t : State} (hc : t.cores = s.cores) (hm : t.mem = s.mem) (hk : t.focusCore = s.focusCore) (hf : t.focusFw = s.focusFw) :
    s.OnlyBars t := ⟨fun _ => by unfold State.core; rw [hc], hm, hk, hf⟩

theorem setCore {s : State} {k : Nat} {c : Core}
    (h : c = { s.core k with barLast := c.barLast, barPend := c.barPend, barWant := c.barWant }) : s.OnlyBars (s.setCore k c) where
  core j := by
    rw [State.core_setCore]
    split
    · next e => subst e; exact h
    · rfl
  mem := rfl
  focusCore := rfl
  focusFw := rfl

theorem ctx {s t : State} (h : s.OnlyBars t) (k : Nat) (fw : Bool) : t.ctx k fw = s.ctx k fw := by unfold State.ctx; rw [h.core k]; rfl

theorem cur {s t : State} (h : s.OnlyBars t) : t.cur = s.cur := by unfold State.cur; rw [h.focusCore, h.focusFw, h.ctx]

theorem gangOf {s t : State} (h : s.OnlyBars t) (k : Nat) : t.gangOf k = s.gangOf k := by unfold State.gangOf; rw [h.core k]

end State.OnlyBars

theorem State.onlyBars_foldl {α : Type} (f : State → α → State) (h : ∀ (s : State) a, s.OnlyBars (f s a)) (l : List α) (s : State) :
    s.OnlyBars (l.foldl f s) :=
  List.foldlRecOn (motive := s.OnlyBars) l f (.refl s) fun t ht a _ => ht.trans (h t a)

theorem State.send_onlyBars (s : State) (p : Packet) : s.OnlyBars (s.send p) := .of_cores (by simp) (by simp) (by simp) (by simp)

/-! ### Counters -/

theorem BarCtr.is_iff (b : BarCtr) (gang sc inst n : Nat) : b.is gang sc inst n = true ↔ b.gang = gang ∧ b.scope = sc ∧ b.inst = inst ∧ b.n = n := by
  simp [BarCtr.is, and_assoc]

/-- The counter of a gang is the one that its gang, scope, place and number say. -/
theorem State.barCtr_is (s : State) (gang sc inst n : Nat) : (s.barCtr gang sc inst n).is gang sc inst n = true := by
  unfold State.barCtr
  cases h : s.bars.find? fun b => b.is gang sc inst n with
  | none => exact (BarCtr.is_iff ..).2 ⟨rfl, rfl, rfl, rfl⟩
  | some b => exact List.find?_some (p := fun b : BarCtr => b.is gang sc inst n) h

/-- A counter replaced is the one that is found. -/
theorem State.barCtr_setBar (s : State) {b : BarCtr} {gang sc inst n : Nat} (h : b.is gang sc inst n = true) :
    (s.setBar b).barCtr gang sc inst n = b := by
  unfold State.barCtr State.setBar
  dsimp only
  rw [List.find?_cons_of_pos (p := fun b : BarCtr => b.is gang sc inst n) h]
  rfl

/-! ### Releases (R383, R384) -/

theorem Core.barHeld_free {c : Core} {sc n : Nat} (h : c.barPend.get false (barKey sc n) = false) : c.barHeld sc n = false := by
  unfold Core.barHeld
  rw [h, Bool.false_and, ite_self]

theorem Core.barFree_pend (c : Core) (sc n : Nat) : (c.barFree sc n).barPend.get false (barKey sc n) = false :=
  FMap.get_put_self false c.barPend _ false

@[simp] theorem Core.barHeld_setCtx (c : Core) (fw : Bool) (x : Ctx) (sc n : Nat) : (c.setCtx fw x).barHeld sc n = c.barHeld sc n := by
  cases fw <;> rfl

theorem State.barRelease_only (s : State) (gang sc n : Nat) (ks : List Nat) :
    s.barRelease gang sc n ks = { s with cores := (s.barRelease gang sc n ks).cores, saved := (s.barRelease gang sc n ks).saved } := by
  unfold State.barRelease
  dsimp only
  rw [State.mapCores_only]

/-- A release frees the cores of its gang among those it names. -/
theorem State.barRelease_frees (s : State) {gang k : Nat} (sc n : Nat) {ks : List Nat} (hk : k ∈ ks) (hg : s.gangOf k = gang) :
    ((s.barRelease gang sc n ks).core k).barHeld sc n = false := by
  refine Core.barHeld_free ?_
  exact State.core_mapCores_mem (P := fun c => c.barPend.get false (barKey sc n) = false) (Core.barFree_pend · sc n) _ s
    (List.mem_filter.2 ⟨hk, by simpa using hg⟩)

/-- A release leaves every other core. -/
theorem State.barRelease_leaves (s : State) {gang k : Nat} (sc n : Nat) {ks : List Nat} (h : k ∉ ks ∨ s.gangOf k ≠ gang) :
    (s.barRelease gang sc n ks).core k = s.core k := by
  refine State.core_mapCores_of_notMem _ _ s fun hk => ?_
  obtain ⟨hmem, hmine⟩ := List.mem_filter.1 hk
  exact h.elim (· hmem) (· (by simpa using hmine))

theorem State.barRelease_onlyBars (s : State) (gang sc n : Nat) (ks : List Nat) : s.OnlyBars (s.barRelease gang sc n ks) := by
  have hmap : s.OnlyBars (s.mapCores (ks.filter fun k => s.gangOf k = gang) fun c => c.barFree sc n) :=
    State.onlyBars_foldl _ (fun s k => .setCore rfl) _ s
  exact hmap.trans (.of_cores rfl rfl rfl rfl)

/-! ### Waves and sluices (R383, R385) -/

theorem State.startWave_onlyBars (s : State) (gang sc n : Nat) : s.OnlyBars (s.startWave gang sc n) := .of_cores rfl rfl rfl rfl

theorem State.startSluice_onlyBars (s : State) (d gang sc n : Nat) : s.OnlyBars (s.startSluice d gang sc n) :=
  State.OnlyBars.trans (t := { s.takeTag.1 with sluices := _ }) (.of_cores rfl rfl rfl rfl) (State.barRelease_onlyBars ..)

theorem State.podRelease_onlyBars (s : State) (grp n : Nat) : s.OnlyBars (s.podRelease grp n) := by
  unfold State.podRelease
  refine State.onlyBars_foldl _ (fun _ _ => ?_) _ s
  exact .of_cores rfl rfl rfl rfl

theorem State.podArrive_onlyBars (s : State) (pkg grp n : Nat) : s.OnlyBars (s.podArrive pkg grp n) := by
  unfold State.podArrive
  dsimp only
  split
  · refine State.OnlyBars.trans ?_ (State.onlyBars_foldl _ (fun s p => ?_) _ _)
    · exact .of_cores rfl rfl rfl rfl
    · split
      · exact s.podRelease_onlyBars grp n
      · exact s.send_onlyBars _
  · exact .of_cores rfl rfl rfl rfl

/-! ### Joining and arriving (R381 to R383) -/

theorem State.barJoin_onlyBars (s : State) (k sc n : Nat) : s.OnlyBars (s.barJoin k sc n) := .setCore rfl

theorem State.markRelease_onlyBars (s : State) (k : Nat) (sc : Scope) : s.OnlyBars (s.markRelease k sc) := by
  unfold State.markRelease
  split
  · exact .refl s
  · exact .of_cores rfl rfl rfl rfl

/-- The counter of an arrival: at the first of its episode, what the registers say of a pod is taken (R383, R388). -/
def State.barOpened (s : State) (k sc n : Nat) : BarCtr :=
  let b := s.barCtr (s.gangOf k) sc (instOf k sc) n
  if b.arr ≠ 0 then b
  else { b with root := s.podRoot, grp := s.podGrp, need := if sc = 5 && s.podRoot = s.pkg then (s.podCtr s.podGrp n).need else s.podN }

theorem State.barOpened_spec (s : State) (k sc n : Nat) :
    let b := s.barCtr (s.gangOf k) sc (instOf k sc) n
    (s.barOpened k sc n).arr = b.arr ∧ (s.barOpened k sc n).ep = b.ep ∧ (s.barOpened k sc n).is (s.gangOf k) sc (instOf k sc) n = true := by
  intro b
  have hb := s.barCtr_is (s.gangOf k) sc (instOf k sc) n
  unfold State.barOpened
  dsimp only
  split
  · exact ⟨rfl, rfl, hb⟩
  · exact ⟨rfl, rfl, hb⟩

/-- An arrival that is not the last is counted. -/
theorem State.barArrive_counts {s : State} {k sc n : Nat} (h : (s.barOpened k sc n).arr + 1 < (s.barMembers (s.gangOf k) k sc).length) :
    s.barArrive k sc n = s.setBar { s.barOpened k sc n with arr := (s.barOpened k sc n).arr + 1 } := if_pos h

/-- The counter after the last arrival of an episode. -/
def BarCtr.next (b : BarCtr) : BarCtr := { b with arr := 0, ep := (b.ep + 1) % 65536 }

/-- The last arrival of a core-scope episode: what is wanted of its own core besides is left. -/
theorem State.barArrive_core (s : State) (k n : Nat) :
    let t := s.setBar (s.barOpened k 1 n).next
    s.barArrive k 1 n = t.setCore k { t.core k with
      barWant := (t.core k).barWant.put [] (barKey 1 n) (((t.core k).barWant.get [] (barKey 1 n)).take 4) } := rfl

/-- The last arrival of a quad-scope episode. -/
theorem State.barArrive_quad {s : State} {k n : Nat} (h : (s.barMembers (s.gangOf k) k 2).length ≤ (s.barOpened k 2 n).arr + 1) :
    s.barArrive k 2 n = (s.setBar (s.barOpened k 2 n).next).barRelease (s.gangOf k) 2 n (s.barMembers (s.gangOf k) k 2) :=
  (if_neg (Nat.not_lt.2 h)).trans rfl

theorem State.barArrive_onlyBars (s : State) (k sc n : Nat) : s.OnlyBars (s.barArrive k sc n) := by
  have hbar (b : BarCtr) : s.OnlyBars (s.setBar b) := .of_cores rfl rfl rfl rfl
  unfold State.barArrive
  extract_lets gang ms inst b0 b
  clear_value b
  split
  · exact hbar _
  · split
    · split
      · exact (hbar _).trans (State.podArrive_onlyBars ..)
      · exact (hbar _).trans (State.send_onlyBars ..)
    · split
      · exact (hbar _).trans (.setCore rfl)
      · exact (hbar _).trans (.setCore rfl)
      · exact (hbar _).trans (State.barRelease_onlyBars ..)
      · exact (hbar _).trans (State.startSluice_onlyBars ..)
      · exact (hbar _).trans (State.startWave_onlyBars ..)

end Sys2Proof.Machine
end

section
/-!
`fence` and `bar` (R144, R184, R185, R363, R364, R381 to R383).
-/

namespace Sys2Proof.Machine

/-! ### `fence` -/

/-- An acquire empties the data cache of its core at die scope or wider, and at quad scope behind one of another core of the quad (R144). -/
theorem State.acquire_curCore (s : State) (sc : Scope) :
    let n := s.acqs.get 0 (quadOf s.focusCore)
    (s.acquire s.focusCore sc).curCore = { s.curCore with
      dcache := if 3 ≤ sc.code ∨ (sc = .quad ∧ s.curCore.acqSeen ≠ n) then [] else s.curCore.dcache
      acqSeen := if 3 ≤ sc.code then n + 1 else if sc = .quad then n else s.curCore.acqSeen } := by
  intro n
  by_cases hw : 3 ≤ sc.code
  · have hacq : s.acquire s.focusCore sc = ({ s with acqs := s.acqs.put 0 (quadOf s.focusCore) (n + 1) } : State).setCore s.focusCore
        { s.curCore with dcache := [], acqSeen := n + 1 } := if_pos (decide_eq_true hw)
    simp only [hw, true_or, if_true]
    rw [hacq]
    exact State.core_setCore_self ..
  · simp only [hw, false_or, if_false]
    by_cases hq : sc = .quad ∧ s.curCore.acqSeen ≠ n
    · have hacq : s.acquire s.focusCore sc = s.setCore s.focusCore { s.curCore with dcache := [], acqSeen := n } :=
        (if_neg (by simpa [scopeWide] using hw)).trans (if_pos (by simpa [n, State.curCore] using hq))
      rw [if_pos hq, if_pos hq.1, hacq]
      exact State.core_setCore_self ..
    · have hacq : s.acquire s.focusCore sc = s :=
        (if_neg (by simpa [scopeWide] using hw)).trans (if_neg (by simpa [n, State.curCore] using hq))
      rw [if_neg hq, hacq]
      split
      · next h => rw [← not_not.1 fun e => hq ⟨h, e⟩]
      · rfl

/-- Whether the accesses that a `fence` orders are performed (R184). -/
theorem fence_ready_iff (s : State) (kind : FenceKind) (sc : Scope) :
    (decide (sc = .lane) || ((!decide (kind ≠ .rel) || s.loadsDone s.focusCore s.focusFw)
        && (!decide (kind ≠ .acq) || s.released s.focusCore s.focusFw sc))) = true
      ↔ sc = .lane ∨ ((kind ≠ .rel → s.loadsDone s.focusCore s.focusFw = true)
        ∧ (kind ≠ .acq → s.released s.focusCore s.focusFw sc = true)) := by
  simp only [Bool.or_eq_true, Bool.and_eq_true, Bool.not_eq_true', decide_eq_true_eq, decide_eq_false_iff_not, imp_iff_not_or]

/-! ### Performed accesses -/

/-- Whether accesses are performed is read off what is in flight. -/
theorem State.allPerformed_of_flights {s t : State} (h : t.flights = s.flights) (k : Nat) (l : List (Nat × Scope)) :
    t.allPerformed k l = s.allPerformed k l := by
  have hp (sc : Scope) (tag : Nat) : t.performed k sc tag = s.performed k sc tag := by
    unfold State.performed State.anyFlight State.flight
    rw [h]
  unfold State.allPerformed
  simp only [hp]

/-! ### `bar` -/

/-- A core that has joined an episode, its arrival not yet counted. -/
def State.barEntered (s : State) (sc : Scope) (n : Nat) : State := (s.barJoin s.focusCore sc.code n).markRelease s.focusCore sc

theorem State.barEntered_onlyBars (s : State) (sc : Scope) (n : Nat) : s.OnlyBars (s.barEntered sc n) :=
  (s.barJoin_onlyBars ..).trans (State.markRelease_onlyBars ..)

theorem State.barEntered_rest (s : State) (sc : Scope) (n : Nat) :
    (s.barEntered sc n).flights = s.flights ∧ (s.barEntered sc n).bars = s.bars ∧ (s.barEntered sc n).jobs = s.jobs
      ∧ (s.barEntered sc n).nextTag = s.nextTag := by
  unfold State.barEntered State.markRelease
  split <;> exact ⟨rfl, rfl, rfl, rfl⟩

/-- The core that has joined: it is PENDING on the episode, and at core scope it wants its commands to retire and its arrival counted. -/
theorem State.barEntered_core (s : State) (sc : Scope) (n : Nat) :
    let c := s.curCore
    let d := (s.barEntered sc n).core s.focusCore
    d.barPend.get false (barKey sc.code n) = true
      ∧ d.barWant.get [] (barKey sc.code n) = if sc.code = 1 then [c.ce.counted, c.me.counted, c.ve.counted, c.sae.counted, 1] else [] := by
  intro c d
  have hd : d = (s.barJoin s.focusCore sc.code n).core s.focusCore :=
    State.core_of_cores (State.markRelease_only ..).1 _
  rw [hd]
  unfold State.barJoin
  rw [State.core_setCore_self]
  dsimp only
  exact ⟨FMap.get_put_self .., FMap.get_put_self ..⟩

/-- A core whose arrival is not yet counted is not released. -/
theorem State.barEntered_held (s : State) (sc : Scope) (n : Nat) : ((s.barEntered sc n).core s.focusCore).barHeld sc.code n = true := by
  obtain ⟨hp, hw⟩ := s.barEntered_core sc n
  unfold Core.barHeld
  rw [hp, hw]
  split
  · simp
  · rfl

theorem State.barMembers_of_jobs {s t : State} (h : t.jobs = s.jobs) (gang k sc : Nat) : t.barMembers gang k sc = s.barMembers gang k sc := by
  unfold State.barMembers State.jobOf
  rw [h]

theorem State.barCtr_of_bars {s t : State} (h : t.bars = s.bars) (gang sc inst n : Nat) : t.barCtr gang sc inst n = s.barCtr gang sc inst n := by
  unfold State.barCtr
  rw [h]

theorem State.barRelease_bars (s : State) (gang sc n : Nat) (ks : List Nat) : (s.barRelease gang sc n ks).bars = s.bars :=
  (congrArg State.bars (s.barRelease_only gang sc n ks)).trans rfl

/-- A core-scope episode whose arrival is counted is held by the commands that it waits for. -/
theorem Core.barHeld_wanted {c : Core} {n ce me ve sae : Nat} (hp : c.barPend.get false (barKey 1 n) = true)
    (hw : c.barWant.get [] (barKey 1 n) = [ce, me, ve, sae]) :
    c.barHeld 1 n = true ↔ c.ce.done < ce ∨ c.me.done < me ∨ c.ve.done < ve ∨ c.sae.done < sae := by
  unfold Core.barHeld
  rw [hp, hw]
  simp

theorem exec_bar_held {s : State} {sc : Scope} {n : BitVec 4} (hf : s.focusFw = false) (h : s.curCore.barHeld sc.code n.toNat = true) :
    exec (.bar n sc) s = (Res.wait s).out :=
  congrArg Res.out ((userOnly_user hf _).trans (if_pos h))

/-- A `bar` that may join: its arrival is counted where what it orders is performed, and is on its way otherwise. -/
theorem exec_bar_joins {s : State} {sc : Scope} {n : BitVec 4} (hf : s.focusFw = false) (h : s.curCore.barHeld sc.code n.toNat = false) :
    exec (.bar n sc) s = (Res.ok (if s.released s.focusCore false sc then (s.barEntered sc n.toNat).barArrive s.focusCore sc.code n.toNat
      else ((s.barEntered sc n.toNat).addFlight (.arrive s.focusCore sc.code n.toNat (s.orderAfter s.focusCore false sc))).1).retire).out := by
  refine congrArg Res.out ((userOnly_user hf _).trans ((if_neg (by simp [h])).trans ?_))
  dsimp only
  rw [hf]
  unfold State.released
  rw [← State.allPerformed_of_flights (s.barEntered_rest sc n.toNat).1]
  rfl

/-- A word that goes on from barriers leaves its context but for where it stands. -/
theorem State.retire_barHeld (s : State) (j sc n : Nat) : (s.retire.core j).barHeld sc n = (s.core j).barHeld sc n := by
  unfold State.retire
  rw [State.core_setCur]
  split
  · next h => subst h; exact Core.barHeld_setCtx ..
  · rfl

/-! ### What an arrival leaves -/

section Arrival

variable (s : State) (sc : Scope) (n : Nat)

/-- The counter on which a core that has joined arrives is that of the state before. -/
theorem State.barEntered_opened :
    let b := s.barCtr (s.gangOf s.focusCore) sc.code (instOf s.focusCore sc.code) n
    let o := (s.barEntered sc n).barOpened s.focusCore sc.code n
    o.arr = b.arr ∧ o.ep = b.ep ∧ o.is (s.gangOf s.focusCore) sc.code (instOf s.focusCore sc.code) n = true := by
  have h := (s.barEntered sc n).barOpened_spec s.focusCore sc.code n
  rw [(s.barEntered_onlyBars sc n).gangOf, State.barCtr_of_bars (s.barEntered_rest sc n).2.1] at h
  exact h

theorem State.barEntered_members :
    (s.barEntered sc n).barMembers ((s.barEntered sc n).gangOf s.focusCore) s.focusCore sc.code
      = s.barMembers (s.gangOf s.focusCore) s.focusCore sc.code := by
  rw [(s.barEntered_onlyBars sc n).gangOf, State.barMembers_of_jobs (s.barEntered_rest sc n).2.2.1]

/-- An arrival that is not the last is counted, and its core waits for the episode. -/
theorem State.barArrive_early
    (h : (s.barCtr (s.gangOf s.focusCore) sc.code (instOf s.focusCore sc.code) n).arr + 1
      < (s.barMembers (s.gangOf s.focusCore) s.focusCore sc.code).length) :
    let t := (s.barEntered sc n).barArrive s.focusCore sc.code n
    (t.barCtr (s.gangOf s.focusCore) sc.code (instOf s.focusCore sc.code) n).arr
        = (s.barCtr (s.gangOf s.focusCore) sc.code (instOf s.focusCore sc.code) n).arr + 1
      ∧ (t.core s.focusCore).barHeld sc.code n = true := by
  obtain ⟨harr, -, his⟩ := s.barEntered_opened sc n
  rw [State.barArrive_counts (by rw [s.barEntered_members, harr]; exact h)]
  refine ⟨?_, s.barEntered_held sc n⟩
  rw [State.barCtr_setBar _ (by exact his)]
  exact congrArg (· + 1) harr

/-- A core-scope episode is held by the commands published before it that have not retired. -/
theorem State.barArrive_core_held :
    (((s.barEntered .core n).barArrive s.focusCore 1 n).core s.focusCore).barHeld 1 n = true
      ↔ ∃ e : Eng, (s.curCore.eng e).done < (s.curCore.eng e).counted := by
  obtain ⟨hp, hw⟩ := s.barEntered_core .core n
  have hengs := (s.barEntered_onlyBars .core n).core s.focusCore
  generalize hd : (s.barEntered .core n).core s.focusCore = d at hp hw hengs
  have hbar (b : BarCtr) : ((s.barEntered .core n).setBar b).core s.focusCore = d := hd
  rw [State.barArrive_core, State.core_setCore_self]
  simp only [hbar]
  rw [Core.barHeld_wanted (ce := s.curCore.ce.counted) (me := s.curCore.me.counted) (ve := s.curCore.ve.counted)
    (sae := s.curCore.sae.counted) (by exact hp) (by dsimp only; rw [FMap.get_put_self]; exact congrArg (List.take 4) hw), hengs]
  constructor
  · rintro (h | h | h | h)
    exacts [⟨.ce, h⟩, ⟨.me, h⟩, ⟨.ve, h⟩, ⟨.sae, h⟩]
  · rintro ⟨e, h⟩
    cases e
    exacts [.inl h, .inr (.inl h), .inr (.inr (.inl h)), .inr (.inr (.inr h))]

/-- The last arrival of a quad-scope episode frees every participant. -/
theorem State.barArrive_quad_frees
    (h : (s.barMembers (s.gangOf s.focusCore) s.focusCore 2).length
      ≤ (s.barCtr (s.gangOf s.focusCore) 2 (instOf s.focusCore 2) n).arr + 1) :
    let b := s.barCtr (s.gangOf s.focusCore) 2 (instOf s.focusCore 2) n
    let t := (s.barEntered .quad n).barArrive s.focusCore 2 n
    (t.barCtr (s.gangOf s.focusCore) 2 (instOf s.focusCore 2) n).arr = 0
      ∧ (t.barCtr (s.gangOf s.focusCore) 2 (instOf s.focusCore 2) n).ep = (b.ep + 1) % 65536
      ∧ ∀ m ∈ s.barMembers (s.gangOf s.focusCore) s.focusCore 2, s.gangOf m = s.gangOf s.focusCore → (t.core m).barHeld 2 n = false := by
  obtain ⟨harr, hep, his⟩ := s.barEntered_opened .quad n
  have hgang := (s.barEntered_onlyBars .quad n).gangOf
  have hmem := s.barEntered_members .quad n
  change (s.barEntered .quad n).barMembers _ s.focusCore 2 = _ at hmem
  intro b t
  have ht : t = _ := State.barArrive_quad (by rw [hmem]; exact harr ▸ h)
  rw [hmem, hgang] at ht
  rw [ht]
  have hset : State.barCtr _ (s.gangOf s.focusCore) 2 (instOf s.focusCore 2) n = _ :=
    State.barCtr_setBar (s.barEntered .quad n) (b := ((s.barEntered .quad n).barOpened s.focusCore 2 n).next) his
  refine ⟨?_, ?_, fun m hm hg => State.barRelease_frees _ 2 n hm ((hgang m).trans hg)⟩
  · rw [State.barCtr_of_bars (State.barRelease_bars ..), hset]
    rfl
  · rw [State.barCtr_of_bars (State.barRelease_bars ..), hset]
    exact congrArg (fun e => (e + 1) % 65536) hep

end Arrival

/-! ### The obligation -/

theorem exec_fence {s : State} {kind : FenceKind} {sc : Scope}
    (h : sc = .lane ∨ ((kind ≠ .rel → s.loadsDone s.focusCore s.focusFw = true) ∧ (kind ≠ .acq → s.released s.focusCore s.focusFw sc = true))) :
    let acquired := if kind = .rel then s
      else (s.acquire s.focusCore sc).joinWrites s.focusCore fun _ of => decide (sc ≠ .lane) && (s.die (dieOf s.focusCore)).seen.contains of
    exec (.fence kind sc) s = (Res.ok (if kind = .acq then acquired else acquired.markRelease s.focusCore sc).retire).out := by
  refine congrArg Res.out ((if_pos ((fence_ready_iff s kind sc).2 h)).trans ?_)
  cases kind <;> rfl

theorem exec_fence_waits {s : State} {kind : FenceKind} {sc : Scope}
    (h : ¬ (sc = .lane ∨ ((kind ≠ .rel → s.loadsDone s.focusCore s.focusFw = true) ∧ (kind ≠ .acq → s.released s.focusCore s.focusFw sc = true)))) :
    exec (.fence kind sc) s = (Res.wait s).out :=
  congrArg Res.out (if_neg fun hr => h ((fence_ready_iff s kind sc).1 hr))

theorem Ctx.advance_onlyRegs (c : Ctx) : c.OnlyRegs c.advance := by
  unfold Ctx.OnlyRegs Ctx.advance
  split <;> rfl

theorem State.retire_barCtr (t : State) (gang sc inst n : Nat) : t.retire.barCtr gang sc inst n = t.barCtr gang sc inst n :=
  State.barCtr_of_bars rfl ..

theorem State.retire_flight (t : State) (u : Nat) : t.retire.flight u = t.flight u := rfl

/-- What has just left has the tag that was next. -/
theorem State.flight_addFlight (s : State) (f : Flight) : (s.addFlight f).1.flight s.nextTag = some f :=
  FMap.get_put_self (none : Option Flight) s.flights s.nextTag (some f)

/-- The word that joins an episode changes its context no further than where it stands. -/
theorem State.OnlyBars.retire {s t : State} (h : s.OnlyBars t) :
    s.cur.Moved t.retire.cur ∧ s.cur.OnlyRegs t.retire.cur ∧ s.cur.KeepsS t.retire.cur [] ∧ s.cur.KeepsA t.retire.cur []
      ∧ s.cur.KeepsP t.retire.cur [] ∧ t.retire.mem = s.mem
      ∧ ∀ sc n, t.retire.curCore.barHeld sc n = (t.core s.focusCore).barHeld sc n := by
  have hcur : t.retire.cur = s.cur.advance := (State.cur_setCur ..).trans (congrArg Ctx.advance h.cur)
  rw [hcur]
  refine ⟨Ctx.advance_moved _, Ctx.advance_onlyRegs _, Ctx.advance_keepsS _ _, Ctx.advance_keepsA _ _, Ctx.advance_keepsP _ _, h.mem, fun sc n => ?_⟩
  rw [← h.focusCore]
  exact State.retire_barHeld ..

/-- Settles O14: the words of the fence and of the barrier, and what joining, arriving and releasing leave of an episode. -/
theorem fencesAndBarriers : Obligations.FencesAndBarriers := by
  refine ⟨fun s kind sc => ?fence, fun s n sc hf => ⟨fun hfree => ?joins, fun hheld => ⟨_, exec_bar_held hf hheld, rfl⟩⟩⟩
  case fence =>
    refine ⟨fun h => ?_, fun h => ⟨_, exec_fence_waits h, rfl⟩, s.acquire_curCore sc⟩
    obtain ⟨t, ht, hp⟩ := retire_passed _
    exact ⟨t, (exec_fence h).trans ht, hp⟩
  case joins =>
    refine ⟨_, exec_bar_joins hf hfree, ?_⟩
    by_cases hrel : s.released s.focusCore false sc = true
    · rw [if_pos hrel]
      obtain ⟨hmoved, hregs, hS, hA, hP, hmem, hbar⟩ :=
        ((s.barEntered_onlyBars sc n.toNat).trans (State.barArrive_onlyBars _ s.focusCore sc.code n.toNat)).retire
      refine ⟨hmoved, hregs, hS, hA, hP, hmem, fun _ hlt => ?early, fun _ hsc => ?core, fun _ hsc hge => ?quad, fun h => ?_⟩
      case early =>
        rw [State.retire_barCtr, hbar]
        exact s.barArrive_early sc n.toNat hlt
      case core =>
        subst hsc
        rw [hbar]
        exact s.barArrive_core_held n.toNat
      case quad =>
        subst hsc
        rw [State.retire_barCtr]
        simp only [State.retire_barHeld]
        exact s.barArrive_quad_frees n.toNat hge
      · exact absurd (hrel.symm.trans h) nofun
    · rw [if_neg hrel]
      obtain ⟨-, hb, -, htag⟩ := s.barEntered_rest sc n.toNat
      have hfly (f : Flight) : s.OnlyBars ((s.barEntered sc n.toNat).addFlight f).1 :=
        (s.barEntered_onlyBars sc n.toNat).trans (.of_cores rfl rfl rfl rfl)
      obtain ⟨hmoved, hregs, hS, hA, hP, hmem, hbar⟩ := (hfly (.arrive s.focusCore sc.code n.toNat (s.orderAfter s.focusCore false sc))).retire
      refine ⟨hmoved, hregs, hS, hA, hP, hmem, fun h => absurd h hrel, fun h => absurd h hrel, fun h => absurd h hrel, fun _ => ⟨?_, ?_, ?_⟩⟩
      · rw [State.retire_flight, ← htag]
        exact State.flight_addFlight ..
      · rw [State.retire_barCtr]
        exact State.barCtr_of_bars hb ..
      · rw [hbar]
        exact s.barEntered_held sc n.toNat

end Sys2Proof.Machine
end

section
/-!
Scalar loads (R162, R165, R167, R169, R370).
-/

namespace Sys2Proof.Machine

/-! ### Scalar registers of a context -/

/-- A context differs from another at most in scalar registers, of which all but those of a list are as they were. -/
structure Ctx.OnlyS (c d : Ctx) (l : List Reg) : Prop where
  only : d = { c with s := d.s, fe := d.fe, mark := d.mark }
  keeps : c.KeepsS d l

theorem Ctx.OnlyS.trans {c d e : Ctx} {l m : List Reg} (h : c.OnlyS d l) (g : d.OnlyS e m) : c.OnlyS e (l ++ m) where
  only := by have hg := g.only; rw [h.only] at hg; exact hg
  keeps r hr := by
    rw [List.mem_append, not_or] at hr
    obtain ⟨h1, h2, h3⟩ := h.keeps r hr.1
    obtain ⟨g1, g2, g3⟩ := g.keeps r hr.2
    exact ⟨g1.trans h1, g2.trans h2, g3.trans h3⟩

theorem Ctx.deliver_onlyS (c : Ctx) (r : Reg) (v : W64) (m : Option Mark) : c.OnlyS (c.deliver r v m) [r] where
  only := by unfold Ctx.deliver Ctx.setMark Ctx.setS; split <;> rfl
  keeps := c.deliver_keepsS r v m

theorem Ctx.setFE_onlyS (c : Ctx) (r : Reg) (f : FE) : c.OnlyS (c.setFE r f) [r] where
  only := by unfold Ctx.setFE; split <;> rfl
  keeps := c.setFE_keepsS r f

/-- What a context that goes on after a change of its scalar registers keeps, where it may follow fewer sc stores. -/
theorem Ctx.OnlyS.advance {c x d : Ctx} {l : List Reg} (h : x.OnlyS d l) (hx : x = { c with scLast := x.scLast }) :
    c.Moved d.advance ∧ ({ c with scLast := d.advance.scLast } : Ctx).OnlyRegs d.advance ∧ c.KeepsS d.advance l ∧ c.KeepsA d.advance []
      ∧ c.KeepsP d.advance [] := by
  have hd : d = { c with s := d.s, fe := d.fe, mark := d.mark, scLast := x.scLast } := by
    have ho := h.only
    rw [hx] at ho
    exact ho
  have hkeeps := Ctx.KeepsS.trans h.keeps (Ctx.advance_keepsS d l)
  rw [hx] at hkeeps
  refine ⟨?_, ?_, hkeeps, ?_, ?_⟩
  · exact d.advance_moved.of_same (by rw [hd]) (by rw [hd])
  · rw [hd]
    unfold Ctx.OnlyRegs Ctx.advance
    split <;> rfl
  · rw [hd]
    exact Ctx.advance_keepsA _ []
  · rw [hd]
    exact Ctx.advance_keepsP _ []

@[simp] theorem Ctx.getFE_advance (c : Ctx) (r : Reg) : c.advance.getFE r = c.getFE r := by simp [Ctx.getFE]

@[simp] theorem Ctx.getS_advance (c : Ctx) (r : Reg) : c.advance.getS r = c.getS r := by simp [Ctx.getS]

theorem Ctx.OnlyS.onlyRegs {c d : Ctx} {l : List Reg} (h : c.OnlyS d l) : c.OnlyRegs d.advance := by
  rw [h.only]
  unfold Ctx.OnlyRegs Ctx.advance
  split <;> rfl

/-! ### The registers of a load (R162, R167) -/

/-- The registers that a load of `n` bytes fills. -/
def loadRegs (d : Reg) (n : Nat) : List Reg := if n = 16 then [d, d + 1] else [d]

theorem Ctx.deliverAll_onlyS (c : Ctx) (m : Reg → Option Mark) (d : Reg) (n : Nat) (sx : Bool) (bs : List Byte) :
    c.OnlyS (c.deliverAll m (loadParts d n sx bs)) (loadRegs d n) := by
  unfold loadParts loadRegs
  split
  · exact Ctx.OnlyS.trans (c.deliver_onlyS ..) (Ctx.deliver_onlyS ..)
  · exact c.deliver_onlyS ..

theorem Ctx.pend_onlyS (c : Ctx) (d : Reg) (n : Nat) : c.OnlyS (c.pend d n) (loadRegs d n) := by
  unfold Ctx.pend loadRegs
  split
  · exact Ctx.OnlyS.trans (c.setFE_onlyS ..) (Ctx.setFE_onlyS ..)
  · exact c.setFE_onlyS ..

/-- The registers that a load has marked are PENDING. -/
theorem Ctx.pend_pending (c : Ctx) (d : Reg) (n : Nat) :
    (c.pend d n).getFE d = (if d = 0 then .full else .pending)
      ∧ (n = 16 → (c.pend d n).getFE (d + 1) = if d + 1 = 0 then .full else .pending) := by
  unfold Ctx.pend
  split
  · refine ⟨?_, fun _ => Ctx.getFE_setFE ..⟩
    exact ((Ctx.setFE_keepsS _ (d + 1) .pending d (by simp)).2.1).trans (Ctx.getFE_setFE ..)
  · next h => exact ⟨Ctx.getFE_setFE .., fun e => absurd e h⟩

theorem Ctx.pend_getS (c : Ctx) (d : Reg) (n : Nat) (r : Reg) : (c.pend d n).getS r = c.getS r := by
  unfold Ctx.pend
  split <;> simp

/-- What a load of one register delivers. -/
theorem Ctx.deliverAll_one (c : Ctx) (d : Reg) {n : Nat} (sx : Bool) (bs : List Byte) (h : n ≠ 16) :
    (c.deliverAll (fun _ => none) (loadParts d n sx bs)).Holds d (loadValue n sx (leNat bs)) := by
  unfold loadParts
  rw [if_neg h]
  exact Ctx.deliver_holds ..

/-- What a load of two registers delivers. -/
theorem Ctx.deliverAll_two (c : Ctx) (d : Reg) (sx : Bool) (bs : List Byte) :
    (c.deliverAll (fun _ => none) (loadParts d 16 sx bs)).Holds d (BitVec.ofNat 64 (leNat (bs.take 8)))
      ∧ (c.deliverAll (fun _ => none) (loadParts d 16 sx bs)).Holds (d + 1) (BitVec.ofNat 64 (leNat (bs.drop 8))) := by
  refine ⟨?_, Ctx.deliver_holds ..⟩
  obtain ⟨h1, h2, h3⟩ := c.deliver_holds d (BitVec.ofNat 64 (leNat (bs.take 8)))
  obtain ⟨g1, g2, g3⟩ := Ctx.deliver_keepsS (c.deliver d (BitVec.ofNat 64 (leNat (bs.take 8))) none) (d + 1)
    (BitVec.ofNat 64 (leNat (bs.drop 8))) none d (by simp)
  exact ⟨g1.trans h1, g2.trans h2, g3.trans h3⟩

/-- A register that a delivery has marked. -/
def Ctx.Marked (c : Ctx) (r : Reg) (m : Option Mark) : Prop := c.getFE r = .full ∧ (r ≠ 0 → c.getMark r = m)

theorem Ctx.deliver_mark (c : Ctx) (r : Reg) (v : W64) (m : Option Mark) : (c.deliver r v m).Marked r m :=
  ⟨(Ctx.getFE_setMark ..).trans (Ctx.setS_holds ..).2.1, fun h => (Ctx.getMark_setMark ..).trans (if_neg h)⟩

/-- A load that delivers marks delivers one to each of its registers. -/
theorem Ctx.deliverAll_marks (c : Ctx) (m : Reg → Option Mark) (d : Reg) (n : Nat) (sx : Bool) (bs : List Byte) :
    let e := c.deliverAll m (loadParts d n sx bs)
    e.Marked d (m d) ∧ (n = 16 → e.Marked (d + 1) (m (d + 1))) := by
  intro e
  by_cases h : n = 16
  · subst h
    refine ⟨?_, fun _ => Ctx.deliver_mark ..⟩
    obtain ⟨h1, h2⟩ := c.deliver_mark d (BitVec.ofNat 64 (leNat (bs.take 8))) (m d)
    obtain ⟨-, g2, g3⟩ := Ctx.deliver_keepsS (c.deliver d (BitVec.ofNat 64 (leNat (bs.take 8))) (m d)) (d + 1)
      (BitVec.ofNat 64 (leNat (bs.drop 8))) (m (d + 1)) d (by simp)
    exact ⟨g2.trans h1, fun hr => g3.trans (h2 hr)⟩
  · have he : e = c.deliver d (loadValue n sx (leNat bs)) (m d) := by
      show c.deliverAll m (loadParts d n sx bs) = _
      unfold loadParts
      rw [if_neg h]
      rfl
    rw [he]
    exact ⟨Ctx.deliver_mark .., fun e => absurd e h⟩

theorem Ctx.Marked.advance {c : Ctx} {r : Reg} {m : Option Mark} (h : c.Marked r m) : c.advance.Marked r m := by
  unfold Ctx.Marked Ctx.getFE Ctx.getMark at h ⊢
  simpa using h

/-! ### The value of a load -/

theorem signed_eq_toInt (w v : Nat) : signed w v = (BitVec.ofNat w v).toInt := by
  rcases w with _ | w
  · simp [signed, Nat.mod_one, BitVec.toInt_zero_length]
  unfold signed
  rw [BitVec.toInt_eq_toNat_cond, BitVec.toNat_ofNat]
  have hp : 2 ^ (w + 1) = 2 * 2 ^ w := by rw [Nat.pow_succ, Nat.mul_comm]
  have hiff : v % 2 ^ (w + 1) < 2 ^ (w + 1 - 1) ↔ 2 * (v % 2 ^ (w + 1)) < 2 ^ (w + 1) := by
    rw [Nat.add_sub_cancel]
    omega
  simp only [hiff]
  norm_cast

/-- A load's value is its bytes, extended as its word says (R162). -/
theorem loadValue_eq {n : Nat} (sx : Bool) {bs : List Byte} (hl : bs.length = n) :
    loadValue n sx (leNat bs) = if sx then (BitVec.ofNat (8 * n) (leNat bs)).signExtend 64 else (BitVec.ofNat (8 * n) (leNat bs)).setWidth 64 := by
  cases sx with
  | true => exact congrArg (BitVec.ofInt 64) (signed_eq_toInt ..)
  | false =>
    have hlt : leNat bs < 2 ^ (8 * n) := by
      have h := leNat_lt bs
      rwa [hl, show (256 : Nat) = 2 ^ 8 from rfl, ← Nat.pow_mul] at h
    apply BitVec.eq_of_toNat_eq
    simp [loadValue, Nat.mod_eq_of_lt hlt]

/-! ### What a load follows, and what it acquires -/

/-- A state differs from another at most in what following sc stores and acquiring change: the data cache of the executing core, the acquire
it has seen, and the sc stores its context follows. -/
structure State.OnlyFollowed (s u : State) : Prop where
  only : u = { s with cores := u.cores, acqs := u.acqs }
  core : u.curCore = { s.curCore.setCtx s.focusFw u.cur with dcache := u.curCore.dcache, acqSeen := u.curCore.acqSeen }
  cur : u.cur = { s.cur with scLast := u.cur.scLast }

theorem State.followSc_onlyFollowed (s : State) : s.OnlyFollowed (s.followSc s.focusCore s.focusFw) := by
  have hsame : s.OnlyFollowed s := ⟨rfl, by unfold State.cur State.ctx State.curCore; cases s.focusFw <;> rfl, rfl⟩
  have hset (l : List (Nat × Scope)) (dc : List (Nat × List Byte)) :
      s.OnlyFollowed (s.setCore s.focusCore { s.curCore.setCtx s.focusFw { s.cur with scLast := l } with dcache := dc }) := by
    set u := s.setCore s.focusCore { s.curCore.setCtx s.focusFw { s.cur with scLast := l } with dcache := dc } with hu
    have hcore : u.curCore = { s.curCore.setCtx s.focusFw { s.cur with scLast := l } with dcache := dc } := State.core_setCore_self ..
    have hcur : u.cur = { s.cur with scLast := l } := by
      show u.curCore.ctx s.focusFw = _
      rw [hcore]
      cases s.focusFw <;> rfl
    refine ⟨rfl, ?_, ?_⟩
    · rw [hcur, hcore]
    · rw [hcur]
  have hctx (l : List (Nat × Scope)) : s.OnlyFollowed (s.setCtx s.focusCore s.focusFw { s.cur with scLast := l }) := by
    refine Eq.subst (motive := s.OnlyFollowed) ?_ (hset l s.curCore.dcache)
    unfold State.setCtx State.curCore State.cur State.ctx
    cases s.focusFw <;> rfl
  unfold State.followSc
  dsimp only
  split
  · split
    · exact hsame
    · exact hset ..
  · exact hctx _

namespace State.OnlyFollowed

variable {s u : State} (h : s.OnlyFollowed u)

include h

theorem focus : u.focusCore = s.focusCore ∧ u.focusFw = s.focusFw := by rw [h.only]; exact ⟨rfl, rfl⟩

theorem mem : u.mem = s.mem := by rw [h.only]

theorem nextTag : u.nextTag = s.nextTag := by rw [h.only]

theorem spad (x n : Nat) : u.curCore.spadBad x n = s.curCore.spadBad x n ∧ u.curCore.spadRead x n = s.curCore.spadRead x n := by
  rw [h.core]
  cases s.focusFw <;> exact ⟨rfl, rfl⟩

theorem acquire (sc : Scope) : s.OnlyFollowed (u.acquire s.focusCore sc) := by
  have ha := u.acquire_onlyAcquired s.focusCore sc
  have hk := ha.focus.1
  have hcore : (u.acquire s.focusCore sc).curCore = { u.curCore with
      dcache := (u.acquire s.focusCore sc).curCore.dcache, acqSeen := (u.acquire s.focusCore sc).curCore.acqSeen } := by
    unfold State.curCore
    rw [hk]
    exact ha.core _
  refine ⟨?_, ?_, ?_⟩
  · have hu (cs : FMap Core) (as : FMap Nat) : ({ u with cores := cs, acqs := as } : State) = { s with cores := cs, acqs := as } := by
      rw [h.only]
    exact ha.only.trans (hu _ _)
  · rw [ha.cur, hcore, h.core]
  · rw [ha.cur]
    exact h.cur

end State.OnlyFollowed

/-! ### A load leaves (R162, R165) -/

/-- A read that is asked for leaves as it stood but for its mark, and changes no context and no byte. -/
theorem State.askRemote_only (s : State) (tag : Nat) (l : LoadF) :
    (s.askRemote tag l = s ∨ ∃ p, s.askRemote tag l = (s.setFlight tag (.load { l with asked := true })).send p) := by
  unfold State.askRemote
  dsimp only
  split
  · exact .inl rfl
  · split
    · exact .inl rfl
    · exact .inr ⟨_, rfl⟩

/-- What is in flight of a load that has left, and what its leaving keeps. -/
theorem State.askRemote_left (s : State) (l : LoadF) :
    let t := (s.addFlight (.load l)).1.askRemote s.nextTag l
    (∃ b, t.flight s.nextTag = some (.load { l with asked := b })) ∧ t.cur = s.cur ∧ t.mem = s.mem := by
  intro t
  rcases (s.addFlight (.load l)).1.askRemote_only s.nextTag l with ht | ⟨p, ht⟩
  · rw [show t = _ from ht]
    exact ⟨⟨l.asked, s.flight_addFlight _⟩, rfl, rfl⟩
  · rw [show t = _ from ht]
    refine ⟨⟨true, ?_⟩, ?_, (State.send_mem ..).trans rfl⟩
    · unfold State.flight
      rw [State.send_flights]
      exact State.flight_setFlight_self ..
    · unfold State.cur State.ctx State.core
      rw [State.send_cores, State.send_focusCore, State.send_focusFw]
      rfl

/-- A load leaves from a state that follows what its context's sc stores need: it is in flight, its registers are PENDING. -/
theorem State.OnlyFollowed.sendLoad {s u : State} (h : s.OnlyFollowed u) (d : Reg) (n : Nat) (sx : Bool) (o : MemOrd) (sc : Scope) (p : Place)
    (va : VAddr) (win : Option Nat) :
    ∃ t, u.sendLoad (loadFlight u d sc o n sx va p win) = .ok t ∧ s.LeftLoad s.nextTag d n sx o sc p t := by
  obtain ⟨⟨b, hfly⟩, hcur, hmem⟩ := u.askRemote_left (loadFlight u d sc o n sx va p win)
  have hord : (if ordered o sc then o else .relaxed) ≠ MemOrd.relaxed ↔ ordered o sc = true := by
    cases o <;> cases sc <;> decide
  obtain ⟨hmoved, hregs, hS, hA, hP⟩ := (u.cur.pend_onlyS d n).advance h.cur
  obtain ⟨hone, htwo⟩ := u.cur.pend_pending d n
  generalize ht : (u.addFlight (.load (loadFlight u d sc o n sx va p win))).1.askRemote u.nextTag (loadFlight u d sc o n sx va p win) = t
    at hfly hcur hmem
  refine ⟨t.setCur (t.cur.pend d n).advance, by rw [← ht]; rfl, ?_⟩
  unfold State.LeftLoad
  rw [State.cur_setCur, hcur, ← h.nextTag]
  refine ⟨⟨_, hfly, h.focus.1, h.focus.2, rfl, rfl, rfl, rfl, rfl, hord⟩, ?_, ?_, hmoved, hregs, fun r => ?_, hS, hA, hP, ?_⟩
  · exact (Ctx.getFE_advance ..).trans hone
  · exact fun e => (Ctx.getFE_advance ..).trans (htwo e)
  · rw [Ctx.getS_advance, Ctx.pend_getS, h.cur]
    rfl
  · exact hmem.trans h.mem

/-- A load that leaves after reads of a state leaves as if from that state. -/
theorem State.LeftLoad.of_onlyRead {s s' t : State} {tag : Nat} {d : Reg} {n : Nat} {sx : Bool} {o : MemOrd} {sc : Scope} {p : Place}
    (h : s'.LeftLoad tag d n sx o sc p t) (hr : s.OnlyRead s') : s.LeftLoad tag d n sx o sc p t := by
  unfold State.LeftLoad at h ⊢
  rwa [hr.cur, hr.mem, hr.focusCore, hr.focusFw] at h

/-! ### The load words -/

theorem State.anyFlight_congr {s : State} {f g : Nat → Flight → Bool} (h : ∀ t x, f t x = g t x) : s.anyFlight f = s.anyFlight g :=
  congrArg s.anyFlight (funext₂ h)

/-- A property that nothing has, nothing in flight has. -/
theorem State.anyFlight_none (s : State) {f : Nat → Flight → Bool} (h : ∀ t x, f t x = false) : s.anyFlight f = false := by
  rw [State.anyFlight_congr h]
  unfold State.anyFlight
  refine List.any_eq_false.2 fun q _ => ?_
  cases q.2 <;> exact Bool.false_ne_true

theorem notScratch_open {s : State} {x n : Nat} (h : s.focusFw = true ∨ s.curCore.inScratch x n = false) (va : VAddr) (k : Res) :
    notScratch s va x n k = k := by
  refine if_neg ?_
  rcases h with h | h <;> simp [h]

/-- A load of the own scratchpad is performed. -/
def State.loadNow (t : State) (d : Reg) (n : Nat) (sx : Bool) (va : VAddr) (x : Nat) : Res :=
  if t.curCore.spadBad x n then
    let f := t.freeVal 128
    .ok (f.1.setCur (f.1.cur.deliverAll (poison .ecc (t.cur.pc.setWidth 64) (va64 va)) (loadParts d n sx (leBytes n f.2))).advance)
  else .ok (t.setCur (t.cur.deliverAll (fun _ => none) (loadParts d n sx (t.curCore.spadRead x n))).advance)

/-- A load of the own scratchpad from the state that follows its sc stores. -/
def State.loadOwn (u : State) (d : Reg) (sc : Scope) (o : MemOrd) (n : Nat) (sx : Bool) (va : VAddr) (x : Nat) (win : Option Nat) : Res :=
  let l := loadFlight u d sc o n sx va (.spad u.focusCore x) win
  if !u.allPerformed l.core l.after || u.olderOverlap u.nextTag l.core (.scalar l.fw) (.spad u.focusCore x) n true false then u.sendLoad l
  else (if ordered o sc then u.acquire u.focusCore sc else u).loadNow d n sx va x

/-- A load of the own scratchpad has nothing to follow (R165, R370). -/
def State.FollowsNone (u : State) (k : Nat) (fw : Bool) (sc : Scope) (o : MemOrd) (x n : Nat) : Prop :=
  u.allPerformed k ((if o = .sc then u.orderAfter k fw sc else []) ++ u.cur.scLast) = true
    ∧ u.olderOverlap u.nextTag k (.scalar fw) (.spad k x) n true false = false

theorem State.loadOwn_goes {u : State} {sc : Scope} {o : MemOrd} {x n : Nat} (h : u.FollowsNone u.focusCore u.focusFw sc o x n) (d : Reg)
    (sx : Bool) (va : VAddr) (win : Option Nat) :
    u.loadOwn d sc o n sx va x win = (if ordered o sc then u.acquire u.focusCore sc else u).loadNow d n sx va x :=
  if_neg (by rw [Bool.not_eq_true, Bool.or_eq_false_iff, Bool.not_eq_false']; exact h)

theorem State.loadOwn_leaves {u : State} {sc : Scope} {o : MemOrd} {x n : Nat} (h : ¬ u.FollowsNone u.focusCore u.focusFw sc o x n) (d : Reg)
    (sx : Bool) (va : VAddr) (win : Option Nat) :
    u.loadOwn d sc o n sx va x win = u.sendLoad (loadFlight u d sc o n sx va (.spad u.focusCore x) win) :=
  if_pos (by
    by_contra hn
    rw [Bool.not_eq_true, Bool.or_eq_false_iff, Bool.not_eq_false'] at hn
    exact h hn)

/-- A load of one register delivers its bytes, extended as its word says. -/
theorem State.loadNow_one {t : State} {x n : Nat} (hb : t.curCore.spadBad x n = false) (hn : n ≠ 16) (d : Reg) (sx : Bool) (va : VAddr) :
    let v := BitVec.ofNat (8 * n) (leNat (t.curCore.spadRead x n))
    ∃ w, t.loadNow d n sx va x = .ok w ∧ t.WroteS d (if sx then v.signExtend 64 else v.setWidth 64) w := by
  intro v
  have honly := t.cur.deliverAll_onlyS (fun _ => none) d n sx (t.curCore.spadRead x n)
  obtain ⟨hmoved, -, hS, hA, hP⟩ := honly.advance (c := t.cur) rfl
  have hholds := (t.cur.deliverAll_one d sx (t.curCore.spadRead x n) hn).advance
  rw [loadValue_eq sx (bs := t.curCore.spadRead x n) (length_readBytes ..)] at hholds
  rw [loadRegs, if_neg hn] at hS
  refine ⟨_, if_neg (by simp [hb]), t.onlyCtx_setCur _, ?_⟩
  rw [State.cur_setCur]
  exact ⟨honly.onlyRegs, hmoved, hholds, hS, hA, hP⟩

/-- A load of two registers delivers their bytes. -/
theorem State.OnlyFollowed.loadNow_two {s t : State} (h : s.OnlyFollowed t) {x : Nat} (hb : t.curCore.spadBad x 16 = false) (d : Reg) (sx : Bool)
    (va : VAddr) :
    let bs := t.curCore.spadRead x 16
    ∃ w, t.loadNow d 16 sx va x = .ok w ∧ t.OnlyCtx w ∧ ({ s.cur with scLast := w.cur.scLast } : Ctx).OnlyRegs w.cur ∧ s.cur.Moved w.cur
      ∧ w.cur.Holds d (BitVec.ofNat 64 (leNat (bs.take 8))) ∧ w.cur.Holds (d + 1) (BitVec.ofNat 64 (leNat (bs.drop 8)))
      ∧ s.cur.KeepsS w.cur [d, d + 1] ∧ s.cur.KeepsA w.cur [] ∧ s.cur.KeepsP w.cur [] := by
  intro bs
  obtain ⟨hmoved, hregs, hS, hA, hP⟩ := (t.cur.deliverAll_onlyS (fun _ => none) d 16 sx bs).advance h.cur
  obtain ⟨hone, htwo⟩ := t.cur.deliverAll_two d sx bs
  refine ⟨_, if_neg (by simp [hb]), t.onlyCtx_setCur _, ?_⟩
  rw [State.cur_setCur]
  exact ⟨hregs, hmoved, hone.advance, htwo.advance, hS, hA, hP⟩

/-- A load of uncorrectable bytes leaves the mark of ECC on its registers (R169, R448). -/
theorem State.OnlyFollowed.loadNow_bad {s t : State} (h : s.OnlyFollowed t) {x n : Nat} (hb : t.curCore.spadBad x n = true) (d : Reg) (sx : Bool)
    (va : VAddr) :
    let m (r : Reg) : Mark :=
      { trap := { cause := .ecc, e0 := s.cur.pc.extractLsb' 0 64, e1 := va.extractLsb' 0 64, e2 := r.setWidth 64, e3 := 0 }, of := none }
    ∃ w, t.loadNow d n sx va x = .ok w ∧ w.cur.Marked d (some (m d)) ∧ (n = 16 → w.cur.Marked (d + 1) (some (m (d + 1)))) ∧ s.cur.Moved w.cur
      ∧ s.cur.KeepsS w.cur (loadRegs d n) ∧ s.cur.KeepsA w.cur [] ∧ s.cur.KeepsP w.cur [] ∧ w.mem = s.mem := by
  intro m
  have hm : poison .ecc (t.cur.pc.setWidth 64) (va64 va) = fun r => some (m r) := by
    funext r
    have hpc : t.cur.pc = s.cur.pc := by rw [h.cur]
    unfold poison va64
    rw [hpc, setWidth_eq_extract, setWidth_eq_extract, BitVec.ofNat_toNat]
  obtain ⟨hmoved, -, hS, hA, hP⟩ :=
    (t.cur.deliverAll_onlyS (fun r => some (m r)) d n sx (leBytes n (t.freeVal 128).2)).advance h.cur
  obtain ⟨hone, htwo⟩ := t.cur.deliverAll_marks (fun r => some (m r)) d n sx (leBytes n (t.freeVal 128).2)
  refine ⟨_, if_pos hb, ?_⟩
  rw [State.cur_setCur, hm]
  exact ⟨hone.advance, fun e => (htwo e).advance, hmoved, hS, hA, hP, h.mem⟩

section Words

variable {s : State} {d : Reg} {a : AReg} {off : BitVec 10} {n : Nat} (hd : s.Takes d) (hd' : n = 16 → s.Takes (d + 1)) (sc : Scope)
  (o : MemOrd) (sx : Bool)

include hd hd'

/-- Registers that are not PENDING let a load go on (R131). -/
theorem waitDests_take (r : Res) : waitDest s d (if n = 16 then waitDest s (d + 1) r else r) = r := by
  rw [waitDest_takes hd]
  split
  · exact waitDest_takes (hd' ‹_›) r
  · rfl

theorem loadWord_own {x : Nat} (h : s.Own .load (s.Address a off n) n x) :
    ∃ win, loadWord d a sc o off n sx s = (s.followSc s.focusCore s.focusFw).loadOwn d sc o n sx (s.Address a off n) x win := by
  obtain ⟨ha, ⟨win, ht⟩, hq, hs⟩ := h
  have hk := s.followSc_onlyFollowed.focus.1
  refine ⟨win, ?_⟩
  unfold loadWord
  rw [waitDests_take hd hd']
  refine (if_neg (not_not.2 ha)).trans ?_
  unfold xlate
  change (match s.translate s.focusCore s.focusFw .load (s.Address a off n) with | (s, .page) => _ | (s, .prot) => _ | (s, .wait) => _ | (s, .ok p w) => _) = _
  rw [ht]
  dsimp only
  rw [hq, if_neg Bool.false_ne_true, if_pos rfl]
  dsimp only
  rw [notScratch_open hs]
  unfold State.loadOwn
  rw [hk]
  rfl

theorem loadWord_elsewhere {s' : State} {p : Place} (h : s.Elsewhere .load (s.Address a off n) n p none s')
    (hw : p.pkg.isSome = true → s'.anyFlight (fun _ f => match f with
      | .store g => decide (g.core = s.focusCore) && decide (g.agent = .scalar s.focusFw) && placesMeet p n g.place g.bytes.length
      | _ => false) = false) :
    ∃ win, loadWord d a sc o off n sx s
      = (s'.followSc s'.focusCore s'.focusFw).sendLoad (loadFlight (s'.followSc s'.focusCore s'.focusFw) d sc o n sx (s.Address a off n) p win) := by
  obtain ⟨ha, ⟨win, ht, -⟩, hp, hq⟩ := h
  have hr : s.OnlyRead s' := by
    have h := s.translate_onlyRead s.focusCore s.focusFw .load (s.Address a off n)
    rwa [ht] at h
  rw [← hr.focusCore, ← hr.focusFw] at hq
  refine ⟨win, ?_⟩
  unfold loadWord
  rw [waitDests_take hd hd']
  refine (if_neg (not_not.2 ha)).trans ?_
  unfold xlate
  change (match s.translate s.focusCore s.focusFw .load (s.Address a off n) with | (s, .page) => _ | (s, .prot) => _ | (s, .wait) => _ | (s, .ok p w) => _) = _
  rw [ht]
  dsimp only
  rw [hq, if_neg Bool.false_ne_true]
  cases p with
  | spad c x =>
    dsimp only
    rw [if_neg (fun e : c = s'.focusCore => hp x (by rw [e, hr.focusCore]))]
    exact if_neg (Bool.not_eq_true _ ▸ s'.anyFlight_none fun t g => by cases g <;> simp)
  | home key => exact if_neg (Bool.not_eq_true _ ▸ s'.anyFlight_none fun t g => by cases g <;> simp)
  | remote | rwin =>
    refine if_neg (Bool.not_eq_true _ ▸ (Eq.trans (State.anyFlight_congr fun t g => ?_) (hw rfl)))
    cases g with
    | store g => rw [hr.focusCore, hr.focusFw]; exact Bool.and_true _
    | _ => rfl

end Words

/-! ### The obligation -/

/-- Settles O12: a load is its checks, then what it follows; from there it delivers, marks, or leaves. -/
theorem loadsReadTheirBytes : Obligations.LoadsReadTheirBytes := by
  refine ⟨fun s d a sc o off x hd => ?own, fun s s' d a sc o off p hd => ?elsewhere⟩
  case own =>
    intro u after here load
    have hu : s.OnlyFollowed u := s.followSc_onlyFollowed
    have hafter : s.OnlyFollowed after := by
      show s.OnlyFollowed (if ordered o sc then _ else _)
      split
      · exact hu.acquire sc
      · exact hu
    obtain ⟨hk, hf⟩ := hu.focus
    have hhere {i : Instr} {n : Nat} {sx : Bool} {P : State → Prop} (hi : exec i s = (loadWord d a sc o off n sx s).out)
        (hP : s.curCore.spadBad x n = false → ∃ w, after.loadNow d n sx (s.Address a off n) x = .ok w ∧ P w) : here i n sx P := by
      intro hd' ho
      obtain ⟨win, heq⟩ := loadWord_own hd hd' sc o sx ho
      have hgoes (hn : u.FollowsNone s.focusCore s.focusFw sc o x n) :
          loadWord d a sc o off n sx s = after.loadNow d n sx (s.Address a off n) x := by
        refine heq.trans ((State.loadOwn_goes (by rw [hk, hf]; exact hn) ..).trans ?_)
        rw [hk]
      refine ⟨fun hn hb => ?_, fun hn hb => ?_, fun hn => ?_⟩
      · obtain ⟨w, hw, hp⟩ := hP hb
        exact State.ends_ok hi ((hgoes hn).trans hw) hp
      · obtain ⟨w, hw, hp⟩ := hafter.loadNow_bad (((hafter.spad x n).1).trans hb) d sx (s.Address a off n)
        exact State.ends_ok hi ((hgoes hn).trans hw) hp
      · obtain ⟨w, hw, hp⟩ := hu.sendLoad d n sx o sc (.spad u.focusCore x) (s.Address a off n) win
        refine State.ends_ok hi (heq.trans ((State.loadOwn_leaves (by rw [hk, hf]; exact hn) ..).trans hw)) ?_
        rwa [hk] at hp
    have hload {i : Instr} {n : Nat} {sx : Bool} (hi : exec i s = (loadWord d a sc o off n sx s).out) (hn : n ≠ 16) :
        load i n sx := by
      refine hhere hi fun hb => ?_
      obtain ⟨hbad, hread⟩ := hafter.spad x n
      have h := State.loadNow_one (hbad.trans hb) hn d sx (s.Address a off n)
      rwa [hread] at h
    refine ⟨hload rfl (by decide), hload rfl (by decide), hload rfl (by decide),
      hload rfl (by decide), hload rfl (by decide), hload rfl (by decide),
      hload rfl (by decide), hhere rfl fun hb => ?_⟩
    obtain ⟨hbad, hread⟩ := hafter.spad x 16
    have h := hafter.loadNow_two (hbad.trans hb) d false (s.Address a off 16)
    rwa [hread] at h
  case elsewhere =>
    intro load
    have hload {i : Instr} {n : Nat} {sx : Bool} (hi : exec i s = (loadWord d a sc o off n sx s).out) : load i n sx := by
      intro he hd' hw
      obtain ⟨win, heq⟩ := loadWord_elsewhere hd hd' sc o sx he hw
      obtain ⟨t, ht, hleft⟩ := s'.followSc_onlyFollowed.sendLoad d n sx o sc p (s.Address a off n) win
      obtain ⟨_, ⟨w, htr, -⟩, -, -⟩ := he
      have hr : s.OnlyRead s' := by
        have h := s.translate_onlyRead s.focusCore s.focusFw .load (s.Address a off n)
        rwa [htr] at h
      exact State.ends_ok hi (heq.trans ht) (hleft.of_onlyRead hr)
    exact ⟨hload rfl, hload rfl, hload rfl, hload rfl, hload rfl, hload rfl, hload rfl, hload rfl⟩

end Sys2Proof.Machine
end

section
/-!
Loads, stores and line copies on their way (R144, R162, R164, R169, R231, R361, R448).
-/

namespace Sys2Proof.Machine

/-! ### Bytes of a load from memory -/

theorem drop_readBytes (m : FMap Byte) (k n i : Nat) : (readBytes m k n).drop i = readBytes m (k + i) (n - i) := by
  induction i generalizing k n with
  | zero => rfl
  | succ i ih =>
    cases n with
    | zero => simp [readBytes]
    | succ n =>
      rw [readBytes, List.drop_succ_cons, ih, Nat.add_sub_add_right]
      congr 1
      omega

theorem take_readBytes (m : FMap Byte) (k n i : Nat) (h : i ≤ n) : (readBytes m k n).take i = readBytes m k i := by
  induction i generalizing k n with
  | zero => rfl
  | succ i ih =>
    obtain ⟨n, rfl⟩ : ∃ j, n = j + 1 := ⟨n - 1, by omega⟩
    rw [readBytes, List.take_succ_cons, ih _ _ (by omega)]
    rfl

/-- An agent of the home's die reads memory itself (R361). -/
theorem State.readLine_home {s : State} {k key : Nat} (h : homeDie key = dieOf k) (g : Agent) (n : Nat) :
    (s.readLine k g key n).2 = readBytes s.mem key n := by
  unfold State.readLine
  rw [if_pos h]

/-- Bytes of one line are read in one read of that line. -/
theorem State.readVia_line {s : State} {k key n : Nat} (g : Agent) (hn : n ≠ 0) (h : key % 64 + n ≤ 64) :
    s.readVia k g (n + 1) key n = s.readLine k g key n := by
  obtain ⟨m, rfl⟩ : ∃ m, n = m + 1 := ⟨n - 1, by omega⟩
  unfold State.readVia
  rw [if_neg hn, Nat.min_eq_left (by omega)]
  dsimp only
  rw [Nat.sub_self]
  unfold State.readVia
  rw [if_pos rfl]
  exact Prod.ext rfl (List.append_nil _)

theorem State.noteSeen_flights (s : State) (d line : Nat) : (s.noteSeen d line).flights = s.flights := by
  unfold State.noteSeen
  dsimp only
  split <;> rfl

theorem State.readLine_flights (s : State) (k : Nat) (g : Agent) (key n : Nat) : (s.readLine k g key n).1.flights = s.flights := by
  unfold State.readLine
  dsimp only
  split
  · exact State.noteSeen_flights ..
  · split
    · rfl
    · exact State.noteSeen_flights ..

/-- What is forwarded of stores is read off what is in flight (R164). -/
theorem State.forward_of_flights {s t : State} (h : t.flights = s.flights) (k : Nat) (g : Agent) (tag : Nat) (p : Place) (n : Nat) (bs : List Byte) :
    t.forward k g tag p n bs = s.forward k g tag p n bs := by
  unfold State.forward
  rw [h]

/-- A load that the data cache does not serve, from a home on its own die, delivers what memory holds, its own stores laid over (R144, R164). -/
theorem State.bindLoad_home {s : State} {tag : Nat} {l : LoadF} {key : Nat} (hd : homeDie key = dieOf l.core) (hk : key % 64 + l.size ≤ 64)
    (hn : l.size ≠ 0)
    (hc : l.ord ≠ .relaxed ∨ l.after ≠ [] ∨ s.ownInval l.core (.scalar l.fw) (key / 64) = true ∨ s.lineStored l.core (key / 64) = true
      ∨ ∀ p ∈ (s.core l.core).dcache, p.1 ≠ key / 64) :
    (s.bindLoad tag l key).2 = s.forward l.core (.scalar l.fw) tag l.place l.size (readBytes s.mem key l.size) := by
  have hline : (s.readLine l.core (.scalar l.fw) (lineOf key * 64) 64).2 = readBytes s.mem (lineOf key * 64) 64 :=
    State.readLine_home (by rw [← hd]; unfold homeDie homeOf lineOf; omega) ..
  have hmod : lineOf key * 64 + key % 64 = key := by unfold lineOf; omega
  unfold State.bindLoad
  dsimp only
  split
  · next hs =>
    have hmiss : (s.core l.core).dcache.find? (fun p => p.1 = lineOf key) = none := by
      simp only [Bool.and_eq_true, Bool.not_eq_true', decide_eq_true_eq, List.isEmpty_iff] at hs
      obtain ⟨⟨⟨hord, hafter⟩, hinv⟩, hst⟩ := hs
      rcases hc with h | h | h | h | h
      · exact absurd hord h
      · exact absurd hafter h
      · exact absurd (hinv.symm.trans h) Bool.false_ne_true
      · exact absurd (hst.symm.trans h) Bool.false_ne_true
      · exact List.find?_eq_none.2 fun p hp => by rw [decide_eq_true_eq]; exact h p hp
    rw [hmiss]
    dsimp only
    rw [State.forward_of_flights (s := s) (t := State.setCore ..) (State.readLine_flights ..), hline, drop_readBytes, take_readBytes _ _ _ _ (by omega), hmod]
  · rw [State.readVia_line _ hn hk]
    dsimp only
    rw [State.forward_of_flights (s := s) (t := State.setCore ..) (State.readLine_flights ..), State.readLine_home hd]

theorem State.joinAfter_onlyRead (s : State) (tag line : Nat) : s.OnlyRead (s.joinAfter tag line) := by
  unfold State.joinAfter
  dsimp only
  split
  · exact .refl s
  · exact .of_flights ..

theorem State.bindLoad_onlyRead (s : State) (tag : Nat) (l : LoadF) (key : Nat) : s.OnlyRead (s.bindLoad tag l key).1 := by
  unfold State.bindLoad
  dsimp only
  split
  · split
    · exact State.joinAfter_onlyRead ..
    · exact ((s.readLine_onlyRead ..).trans (.setCore rfl)).trans (State.joinAfter_onlyRead ..)
  · exact ((s.readVia_onlyRead ..).trans (.setCore rfl)).trans (State.joinAfter_onlyRead ..)

/-! ### What a load delivers -/

theorem State.joinWrites_only (s : State) (k : Nat) (p : Nat → Nat → Bool) : s.joinWrites k p = { s with dies := (s.joinWrites k p).dies } := by
  unfold State.joinWrites
  dsimp only
  split <;> rfl

theorem State.joinRead_only (s : State) (l : LoadF) : s.joinRead l = { s with dies := (s.joinRead l).dies } := by
  unfold State.joinRead
  split
  · split
    · rfl
    · exact State.joinWrites_only ..
  · rfl

/-- Binding a load's result changes no byte of memory and no context. -/
theorem State.loadResult_keeps (s : State) (tag : Nat) (l : LoadF) (bad : Bool) :
    (s.loadResult tag l bad).1.mem = s.mem ∧ s.SameCtx (s.loadResult tag l bad).1 := by
  have hbind (key : Nat) := s.bindLoad_onlyRead tag l key
  have hmark : (s.markBad l.place l.size).mem = s.mem ∧ (s.markBad l.place l.size).cores = s.cores := by
    unfold State.markBad
    split <;> exact ⟨rfl, rfl⟩
  unfold State.loadResult
  dsimp only
  split
  · exact ⟨rfl, .refl s⟩
  · split
    · exact ⟨rfl, .refl s⟩
    · split
      · exact ⟨hmark.1, State.sameCtx_of_cores hmark.2⟩
      · split
        · exact ⟨(hbind _).mem, (hbind _).sameCtx⟩
        · exact ⟨rfl, .refl s⟩
        · exact ⟨rfl, .refl s⟩

section Result

variable (s : State) (tag : Nat) {l : LoadF}

theorem State.loadResult_nak (bad : Bool) {n : Nat} (h : l.nak = some n) :
    s.loadResult tag l bad = (s, List.replicate l.size 0, poison .fabricNak (BitVec.ofNat 64 n) (l.pc.setWidth 64)) := by
  unfold State.loadResult
  rw [h]

theorem State.loadResult_refused (bad : Bool) (h : l.nak = none) (hr : l.refused = true) :
    s.loadResult tag l bad = (s, List.replicate l.size 0, poison .prot (l.pc.setWidth 64) (va64 l.va)) := by
  unfold State.loadResult
  rw [h]
  exact if_pos hr

variable (h : l.nak = none) (hr : l.refused = false)

include h hr

theorem State.loadResult_bad : ∃ t bs, s.loadResult tag l true = (t, bs, poison .ecc (l.pc.setWidth 64) (va64 l.va)) := by
  unfold State.loadResult
  rw [h, hr]
  exact ⟨_, _, rfl⟩

theorem State.loadResult_home {key : Nat} (hp : l.place = .home key) :
    s.loadResult tag l false = ((s.bindLoad tag l key).1, (s.bindLoad tag l key).2, fun _ => none) := by
  unfold State.loadResult
  rw [h, hr, hp]
  rfl

theorem State.loadResult_data {bs : List Byte} (hp : ∀ key, l.place ≠ .home key) (hd : l.data = some bs) :
    s.loadResult tag l false = (s, bs, fun _ => none) := by
  unfold State.loadResult
  rw [h, hr, hd]
  cases hl : l.place with
  | home key => exact absurd hl (hp key)
  | _ => rfl

end Result

/-! ### Delivery -/

/-- A load has been delivered to its registers, with the mark that each gets. -/
def State.Delivers (s : State) (tag : Nat) (l : LoadF) (bs : List Byte) (m : Reg → Option Mark) (u : State) : Prop :=
  let c := s.ctx l.core l.fw
  let d := u.ctx l.core l.fw
  u.flight tag = none ∧ u.mem = s.mem ∧ u.ctx l.core (!l.fw) = s.ctx l.core (!l.fw)
    ∧ d = c.deliverAll m (loadParts l.d l.size l.sext bs)

/-- The state in which a load has been delivered. -/
def State.delivered (tag : Nat) (l : LoadF) (r : State × List Byte × (Reg → Option Mark)) : State :=
  let t := r.1.endFlight tag
  let t := t.setCtx l.core l.fw ((t.ctx l.core l.fw).deliverAll r.2.2 (loadParts l.d l.size l.sext r.2.1))
  if l.ord = .relaxed then t else t.acquire l.core l.scope

theorem State.delivered_delivers {s : State} (tag : Nat) (l : LoadF) {r : State × List Byte × (Reg → Option Mark)} (hm : r.1.mem = s.mem)
    (hc : s.SameCtx r.1) : s.Delivers tag l r.2.1 r.2.2 (State.delivered tag l r) := by
  set x := ((r.1.endFlight tag).ctx l.core l.fw).deliverAll r.2.2 (loadParts l.d l.size l.sext r.2.1) with hx
  have hu : ((r.1.endFlight tag).setCtx l.core l.fw x).OnlyAcquired (State.delivered tag l r) := by
    unfold State.delivered
    dsimp only
    split
    · exact .refl _
    · exact State.acquire_onlyAcquired ..
  refine ⟨?_, hu.mem.trans hm, ?_, ?_⟩
  · rw [hu.only]
    exact State.flight_endFlight_self ..
  · rw [hu.ctx, State.ctx_setCtx_not]
    exact hc ..
  · rw [hu.ctx, State.ctx_setCtx_self, hx]
    exact congrArg (fun c => Ctx.deliverAll c r.2.2 (loadParts l.d l.size l.sext r.2.1)) (hc ..)

/-- Whether a load's bytes are uncorrectable at its delivery (R448). -/
def State.loadBad (s : State) (l : LoadF) (bad : Bool) : Bool :=
  bad || l.bad || match l.place with | .home key => s.homeBad key l.size | _ => false

theorem exec_loadDelivery {s : State} {tag : Nat} {l : LoadF} (hf : s.flight tag = some (.load l)) (hdue : l.due ≤ s.tb)
    (ho : s.olderOverlap tag l.core (.scalar l.fw) l.place l.size true (decide (l.ord ≠ .relaxed)) = false)
    (ha : s.allPerformed l.core l.after = true) (hr : (∃ key, l.place = .home key) ∨ l.data.isSome = true ∨ l.refused = true ∨ l.nak.isSome = true)
    (bad : Bool) :
    exec (.loadDelivery tag bad) s = .next (State.delivered tag l ((s.joinRead l).loadResult tag l (s.loadBad l bad))) := by
  show execLoadDelivery tag bad s = _
  unfold execLoadDelivery
  rw [hf]
  dsimp only
  refine (if_neg ?_).trans ((if_neg ?_).trans rfl)
  · rcases hr with ⟨key, h⟩ | h | h | h <;> simp [h]
  · rw [ho, ha]
    simp [hdue]

theorem Ctx.getS_deliver (c : Ctx) (r : Reg) (v : W64) (m : Option Mark) : (c.deliver r v m).getS r = if r = 0 then 0 else v :=
  (Ctx.getS_setMark ..).trans (Ctx.setS_holds ..).1

/-- The registers of a load, and no other, hold its bytes, extended, each with its mark (R162, R167, R169). -/
theorem Ctx.deliverAll_spec (c : Ctx) (m : Reg → Option Mark) (d : Reg) (n : Nat) (sx : Bool) (bs : List Byte) :
    let e := c.deliverAll m (loadParts d n sx bs)
    c.KeepsS e (loadRegs d n) ∧ c.KeepsA e [] ∧ c.KeepsP e [] ∧ e.pc = c.pc
      ∧ (n = 16 → d + 1 ≠ 0 → e.getS (d + 1) = BitVec.ofNat 64 (leNat (bs.drop 8)))
      ∧ (n = 16 → d ≠ 0 → d + 1 ≠ d → e.getS d = BitVec.ofNat 64 (leNat (bs.take 8)))
      ∧ (n ≠ 16 → d ≠ 0 → e.getS d = if sx then (BitVec.ofNat (8 * n) (leNat bs)).signExtend 64 else BitVec.ofNat 64 (leNat bs))
      ∧ ∀ r ∈ loadRegs d n, e.getFE r = .full ∧ (r ≠ 0 → e.getMark r = m r) := by
  intro e
  have honly : c.OnlyS e (loadRegs d n) := c.deliverAll_onlyS m d n sx bs
  obtain ⟨hone, htwo⟩ : e.Marked d (m d) ∧ (n = 16 → e.Marked (d + 1) (m (d + 1))) := c.deliverAll_marks m d n sx bs
  have hrest : c.KeepsA e [] ∧ c.KeepsP e [] ∧ e.pc = c.pc := by
    rw [honly.only]
    exact ⟨fun _ _ => rfl, fun _ _ => rfl, rfl⟩
  refine ⟨honly.keeps, hrest.1, hrest.2.1, hrest.2.2, fun hn h0 => ?_, fun hn h0 _ => ?_, fun hn h0 => ?_, fun r hr => ?_⟩
  · subst hn
    exact (Ctx.getS_deliver ..).trans (if_neg h0)
  · subst hn
    exact (Ctx.deliver_keepsS _ _ _ _ d (by simp)).1.trans ((Ctx.getS_deliver ..).trans (if_neg h0))
  · have he : e = c.deliver d (loadValue n sx (leNat bs)) (m d) := by
      show c.deliverAll m (if n = 16 then _ else _) = _
      rw [if_neg hn]
      rfl
    rw [he, Ctx.getS_deliver, if_neg h0]
    cases sx with
    | true => exact congrArg (BitVec.ofInt 64) (signed_eq_toInt _ _)
    | false => rfl
  · unfold loadRegs at hr
    split at hr
    · next hn =>
      rcases List.mem_pair.1 hr with rfl | rfl
      · exact hone
      · exact htwo hn
    · rw [List.mem_singleton.1 hr]
      exact hone

/-- The mark that a delivery gives a register, where it gives one. -/
def markOf (mark : Option (Cause × W64 × W64)) (r : Reg) : Option Mark :=
  mark.map fun m => { trap := { cause := m.1, e0 := m.2.1, e1 := m.2.2, e2 := r.setWidth 64, e3 := 0 }, of := none }

theorem poison_eq (cause : Cause) (e0 e1 : W64) : poison cause e0 e1 = markOf (some (cause, e0, e1)) := by
  funext r
  unfold poison markOf
  rw [BitVec.ofNat_toNat]
  rfl

section Delivery

variable {s : State} {tag : Nat} {l : LoadF} (hf : s.flight tag = some (.load l)) (hdue : l.due ≤ s.tb)
  (ho : s.olderOverlap tag l.core (.scalar l.fw) l.place l.size true (decide (l.ord ≠ .relaxed)) = false)
  (ha : s.allPerformed l.core l.after = true)

include hf hdue ho ha

/-- A delivery ends with what its load's result says. -/
theorem loadDelivery_ends (hr : (∃ key, l.place = .home key) ∨ l.data.isSome = true ∨ l.refused = true ∨ l.nak.isSome = true) {bad : Bool}
    {t : State} {bs : List Byte} {mark : Option (Cause × W64 × W64)}
    (h : (s.joinRead l).loadResult tag l (s.loadBad l bad) = (t, bs, markOf mark)) :
    s.Ends (.loadDelivery tag bad) (s.Delivers tag l bs (markOf mark)) := by
  have hjoin : (s.joinRead l).mem = s.mem ∧ s.SameCtx (s.joinRead l) := by
    rw [s.joinRead_only l]
    exact ⟨rfl, fun _ _ => rfl⟩
  obtain ⟨hm, hc⟩ := (s.joinRead l).loadResult_keeps tag l (s.loadBad l bad)
  refine ⟨_, exec_loadDelivery hf hdue ho ha hr bad, ?_⟩
  have hdel := State.delivered_delivers (s := s) tag l (hm.trans hjoin.1) (hjoin.2.trans hc)
  rw [h] at hdel ⊢
  exact hdel

theorem loadDelivery_nak {n : Nat} (h : l.nak = some n) :
    s.Ends (.loadDelivery tag false)
      (s.Delivers tag l (List.replicate l.size 0) (markOf (some (.fabricNak, BitVec.ofNat 64 n, l.pc.extractLsb' 0 64)))) :=
  loadDelivery_ends hf hdue ho ha (.inr (.inr (.inr (by rw [h]; rfl))))
    (by rw [State.loadResult_nak _ _ _ h, poison_eq, setWidth_eq_extract])

theorem loadDelivery_refused (h : l.nak = none) (hr : l.refused = true) :
    s.Ends (.loadDelivery tag false)
      (s.Delivers tag l (List.replicate l.size 0) (markOf (some (.prot, l.pc.extractLsb' 0 64, l.va.extractLsb' 0 64)))) :=
  loadDelivery_ends hf hdue ho ha (.inr (.inr (.inl hr)))
    (by rw [State.loadResult_refused _ _ _ h hr, poison_eq, va64, setWidth_eq_extract, setWidth_eq_extract])

variable (h : l.nak = none) (hr : l.refused = false)

include h hr

/-- A delivery of uncorrectable bytes. -/
theorem loadDelivery_lost (hp : (∃ key, l.place = .home key) ∨ l.data.isSome = true) {bad : Bool} (hb : s.loadBad l bad = true) :
    ∃ bs, s.Ends (.loadDelivery tag bad)
      (s.Delivers tag l bs (markOf (some (.ecc, l.pc.extractLsb' 0 64, l.va.extractLsb' 0 64)))) := by
  obtain ⟨t, bs, heq⟩ := State.loadResult_bad (s.joinRead l) tag h hr
  refine ⟨bs, loadDelivery_ends hf hdue ho ha (hp.imp id .inl) (t := t) ?_⟩
  rw [hb, heq, poison_eq, va64, setWidth_eq_extract, setWidth_eq_extract]

theorem loadDelivery_home {key : Nat} (hp : l.place = .home key) (hb : s.loadBad l false = false) :
    s.Ends (.loadDelivery tag false) (s.Delivers tag l ((s.joinRead l).bindLoad tag l key).2 (markOf none)) :=
  loadDelivery_ends hf hdue ho ha (.inl ⟨key, hp⟩) (by rw [hb]; exact State.loadResult_home _ _ h hr hp)

theorem loadDelivery_data {bs : List Byte} (hp : ∀ key, l.place ≠ .home key) (hd : l.data = some bs) (hb : s.loadBad l false = false) :
    s.Ends (.loadDelivery tag false) (s.Delivers tag l bs (markOf none)) :=
  loadDelivery_ends hf hdue ho ha (.inr (.inl (by rw [hd]; rfl))) (by rw [hb]; exact State.loadResult_data _ _ h hr hp hd)

end Delivery

theorem State.loadBad_home (s : State) {l : LoadF} {key : Nat} (hp : l.place = .home key) (bad : Bool) :
    s.loadBad l bad = (bad || l.bad || s.homeBad key l.size) := by
  unfold State.loadBad
  rw [hp]

theorem State.loadBad_away (s : State) {l : LoadF} (hp : ∀ key, l.place ≠ .home key) (bad : Bool) : s.loadBad l bad = (bad || l.bad) := by
  unfold State.loadBad
  cases hl : l.place with
  | home key => exact absurd hl (hp key)
  | _ => exact Bool.or_false _

end Sys2Proof.Machine
end

section
/-!
Window accesses, writes at their homes, and line copies (R144, R223, R230, R231, R233, R236, R361, R406).
-/

namespace Sys2Proof.Machine

/-! ### Scalar stores (R223, R346) -/

theorem State.leftDie_of {s : State} {tag : Nat} {t : StoreF} (ho : s.olderOverlap tag t.core t.agent t.place t.bytes.length true true = false)
    (ha : s.allPerformed t.core t.after = true) : s.leftDie tag t = true := by
  unfold State.leftDie
  rw [ho, ha]
  rfl

/-- A scalar store waits for no store of the vector engine and for no granule. -/
theorem State.scalar_goes (s : State) (tag : Nat) {t : StoreF} {fw : Bool} (hg : t.agent = .scalar fw) :
    s.veBehind tag t = false ∧ s.granuleWaits t = false := by
  unfold State.veBehind State.granuleWaits
  rw [hg]
  exact ⟨rfl, rfl⟩

/-! ### Window accesses -/

section Window

variable {s : State} {tag c o : Nat}

theorem exec_windowAccess_load {l : LoadF} (hf : s.flight tag = some (.load l)) (hp : l.place = .spad c o) (hd : l.data = none)
    (hr : l.refused = false) (ho : s.olderOverlap tag l.core (.scalar l.fw) l.place l.size true true = false)
    (ha : s.allPerformed l.core l.after = true) :
    exec (.windowAccessArrival tag) s = .next (s.setFlight tag (.load
      (if c ≠ l.core ∧ s.windowRefused l.asn c o l.size = true then { l with refused := true }
       else { l with data := some ((s.core c).spadRead o l.size), bad := (s.core c).spadBad o l.size }))) := by
  show execWindowAccessArrival tag s = _
  unfold execWindowAccessArrival
  rw [hf]
  dsimp only
  rw [hp] at ho ⊢
  dsimp only
  rw [if_neg (by simp [hd, hr, ho, ha])]
  by_cases h : c ≠ l.core ∧ s.windowRefused l.asn c o l.size = true
  · rw [if_pos (by simpa using h), if_pos h]
  · rw [if_neg (by simpa using h), if_neg h]

/-- A scalar store that nothing is older than arrives at a scratchpad. -/
theorem exec_windowAccess_store {t : StoreF} {fw : Bool} (hf : s.flight tag = some (.store t)) (hp : t.place = .spad c o)
    (hg : t.agent = .scalar fw) (hold : ∀ p ∈ s.flights, tag ≤ p.1) (ha : s.allPerformed t.core t.after = true)
    (hc : dieOf c = t.origin.die ∨ s.causalWait t.origin (dieOf c) = false) :
    exec (.windowAccessArrival tag) s = .next
      (if decide (c ≠ t.core) && s.windowRefused t.asn c o t.bytes.length then s.setFlight tag (.winAck t.core fw (t.win.getD 2) true)
       else ((s.setCore c ((s.core c).spadWrite o t.bytes)).endFlight tag).setFlight tag (.winAck t.core fw (t.win.getD 2) false)) := by
  have hnone {f : Nat → Flight → Bool} : s.anyFlight (fun u x => decide (u < tag) && f u x) = false := by
    unfold State.anyFlight
    refine List.any_eq_false.2 fun p hm => ?_
    have hle := hold p hm
    cases p.2 with
    | none => exact Bool.false_ne_true
    | some x => simp [hle]
  have hleft : s.leftDie tag t = true := State.leftDie_of hnone ha
  obtain ⟨hve, hgran⟩ := s.scalar_goes tag hg
  have hcause : (decide (dieOf c ≠ t.origin.die) && s.causalWait t.origin (dieOf c)) = false := by
    rcases hc with h | h <;> simp [h]
  have hpieces : (s.spadPieces c (s.piecesWith tag t)).beginGranule t = (s.setCore c ((s.core c).spadWrite o t.bytes)).endFlight tag := by
    unfold State.beginGranule State.piecesWith State.spadPieces
    rw [hg]
    simp [hp]
  show execWindowAccessArrival tag s = _
  unfold execWindowAccessArrival
  rw [hf]
  dsimp only
  rw [hp]
  dsimp only
  rw [hnone, hleft, hve, hgran, hcause, if_neg (by decide)]
  split
  · unfold State.refuseStore
    rw [hg]
  · rw [hpieces, hg]

end Window

/-- A scratchpad takes the bytes of a write, and keeps its other bytes (R227). -/
theorem Core.poolTook_spadWrite (x : Core) (o : Nat) (bs : List Byte) : x.PoolTook (x.spadWrite o bs) (x.spadBase + o) bs :=
  fun j => get_writeBytes x.sram (x.spadBase + o) j bs

/-! ### Acknowledgements (R231, R233) -/

theorem Ctx.setWallow_keepsS (c : Ctx) (w : Nat) (x : Wallow) : c.KeepsS (c.setWallow w x) [] := by
  unfold Ctx.setWallow
  split <;> exact fun _ _ => ⟨rfl, rfl, rfl⟩

theorem exec_windowStoreAck {s : State} {tag k w : Nat} {fw no : Bool} (h : s.flight tag = some (.winAck k fw w no)) :
    exec (.windowStoreAck tag) s = .next ((s.endFlight tag).setCtx k fw ((s.ctx k fw).dropOut w no)) := by
  show execWindowStoreAck tag s = _
  unfold execWindowStoreAck
  rw [h]

/-! ### Invalidations leave a home (R361) -/

/-- Things have left since a state, and nothing else has changed. -/
structure State.OnlyAdds (s t : State) : Prop where
  only : t = { s with flights := t.flights, nextTag := t.nextTag }
  le : s.nextTag ≤ t.nextTag
  keeps : ∀ g, g < s.nextTag → t.flight g = s.flight g

namespace State.OnlyAdds

theorem refl (s : State) : s.OnlyAdds s := ⟨rfl, Nat.le_refl _, fun _ _ => rfl⟩

theorem trans {s t u : State} (h : s.OnlyAdds t) (g : t.OnlyAdds u) : s.OnlyAdds u where
  only := by have hg := g.only; rw [h.only] at hg; exact hg
  le := h.le.trans g.le
  keeps i hi := (g.keeps i (Nat.lt_of_lt_of_le hi h.le)).trans (h.keeps i hi)

theorem addFlight (s : State) (f : Flight) : s.OnlyAdds (s.addFlight f).1 where
  only := rfl
  le := Nat.le_succ _
  keeps g hg := (FMap.get_put (none : Option Flight) s.flights s.nextTag g (some f)).trans (if_neg (by omega))

theorem foldl {α : Type} {f : State → α → State} (h : ∀ (s : State) a, s.OnlyAdds (f s a)) (l : List α) (s : State) : s.OnlyAdds (l.foldl f s) :=
  List.foldlRecOn (motive := s.OnlyAdds) l f (.refl s) fun t ht a _ => ht.trans (h t a)

/-- Each of a list has its turn, between what the others add. -/
theorem foldl_mem {α : Type} {f : State → α → State} (h : ∀ (s : State) a, s.OnlyAdds (f s a)) {l : List α} {a : α} (ha : a ∈ l) (s : State) :
    ∃ u, s.OnlyAdds u ∧ (f u a).OnlyAdds (l.foldl f s) := by
  obtain ⟨l1, l2, rfl⟩ := List.append_of_mem ha
  refine ⟨l1.foldl f s, foldl h l1 s, ?_⟩
  rw [List.foldl_append, List.foldl_cons]
  exact foldl h l2 _

theorem hasCopy {s t : State} (h : s.OnlyAdds t) (d line : Nat) : t.hasCopy d line = s.hasCopy d line := by
  rw [h.only]
  rfl

end State.OnlyAdds

theorem State.onlyAdds_inval (o : Origin) (of line : Nat) (t : State) (d : Nat) :
    t.OnlyAdds (if t.hasCopy d line then (t.addFlight (.inval line d of o)).1 else t) := by
  split
  · exact .addFlight ..
  · exact .refl t

theorem State.sendInvals_onlyAdds (s : State) (o : Origin) (of line : Nat) : s.OnlyAdds (s.sendInvals o of line) := by
  exact State.OnlyAdds.foldl (State.onlyAdds_inval o of line) _ s

/-- An invalidation leaves for each die with a copy of a line. -/
theorem State.sendInvals_sends {s : State} {d line : Nat} (hd : d < 10) (h : s.hasCopy d line = true) (o : Origin) (of : Nat) :
    ∃ g, g < (s.sendInvals o of line).nextTag ∧ (s.sendInvals o of line).flight g = some (.inval line d of o) := by
  obtain ⟨u, hu, hadds⟩ := State.OnlyAdds.foldl_mem (State.onlyAdds_inval o of line) (List.mem_range.2 hd) s
  rw [if_pos ((hu.hasCopy d line).trans h)] at hadds
  have hlt : u.nextTag < (u.addFlight (.inval line d of o)).1.nextTag := Nat.lt_succ_self _
  exact ⟨u.nextTag, Nat.lt_of_lt_of_le hlt hadds.le, (hadds.keeps _ hlt).trans (u.flight_addFlight _)⟩

/-- What a write at its home leaves: its tag as it was, its bytes, and an invalidation for each die with a copy of one of its lines. -/
theorem State.homeWrite_leaves (s : State) (o : Origin) (of key : Nat) (bs : List Byte) :
    let u := s.homeWrite o of key bs
    (∀ g, g < s.nextTag → u.flight g = s.flight g)
      ∧ ∀ d line, d < 10 → line ∈ linesOf key bs.length → s.hasCopy d line = true → ∃ g, u.flight g = some (.inval line d of o) := by
  intro u
  have hadds (t : State) (line : Nat) := t.sendInvals_onlyAdds o of line
  let w : State := { s with
    mem := writeBytes s.mem key bs
    memBad := s.memBad.filter fun g => !(decide (key ≤ g * 16) && decide (g * 16 + 16 ≤ key + bs.length)) }
  have hall : w.OnlyAdds u := State.OnlyAdds.foldl hadds _ w
  refine ⟨hall.keeps, fun d line hd hline hcopy => ?_⟩
  obtain ⟨t, ht, hrest⟩ := State.OnlyAdds.foldl_mem hadds hline w
  obtain ⟨g, hg, hsent⟩ := State.sendInvals_sends hd ((ht.hasCopy d line).trans hcopy) o of
  exact ⟨g, (hrest.keeps g hg).trans hsent⟩

/-! ### A write is applied by its home (R223, R236, R361) -/

theorem State.beginGranule_only (s : State) (t : StoreF) : s.beginGranule t = { s with flights := (s.beginGranule t).flights } := by
  unfold State.beginGranule
  split <;> rfl

theorem State.beginGranule_gone {s : State} {tag : Nat} (h : s.flight tag = none) (t : StoreF) : (s.beginGranule t).flight tag = none := by
  unfold State.beginGranule
  split
  · refine (FMap.get_map_value (d := (none : Option Flight)) _ rfl s.flights tag).trans ?_
    rw [show FMap.get none s.flights tag = none from h]
    rfl
  · exact h

theorem State.quadDrop_keeps (s : State) (k key n : Nat) :
    let u := s.quadDrop k key n
    u.flights = s.flights ∧ u.nextTag = s.nextTag ∧ u.mem = s.mem ∧ u.dies = s.dies := by
  have h : s.quadDrop k key n = _ := State.mapCores_only ..
  rw [h]
  exact ⟨rfl, rfl, rfl, rfl⟩

/-- The state in which a home applies a write: it is no longer in flight, and the quad of its core drops the lines. -/
def State.beforeHome (s : State) (tag : Nat) (t : StoreF) (key : Nat) : State :=
  ((s.endFlight tag).beginGranule t).quadDrop t.core key t.bytes.length

theorem State.beforeHome_keeps (s : State) (tag : Nat) (t : StoreF) (key : Nat) :
    let u := s.beforeHome tag t key
    u.flight tag = none ∧ u.nextTag = s.nextTag ∧ u.mem = s.mem ∧ ∀ d line, u.hasCopy d line = s.hasCopy d line := by
  have hgone := State.beginGranule_gone (s.flight_endFlight_self tag) t
  have honly := (s.endFlight tag).beginGranule_only t
  unfold State.beforeHome
  generalize (s.endFlight tag).beginGranule t = x at hgone honly
  obtain ⟨hfly, htag, hmem, hdies⟩ := x.quadDrop_keeps t.core key t.bytes.length
  have htag' : x.nextTag = s.nextTag := by rw [honly]; rfl
  have hmem' : x.mem = s.mem := by rw [honly]; rfl
  have hdies' : x.dies = s.dies := by rw [honly]; rfl
  refine ⟨?_, htag.trans htag', hmem.trans hmem', fun d line => ?_⟩
  · unfold State.flight at hgone ⊢
    rw [hfly, hgone]
  · unfold State.hasCopy State.die
    rw [hdies, hdies']

theorem exec_homeWriteApply {s : State} {tag key : Nat} {t : StoreF} (hf : s.flight tag = some (.store t)) (hl : s.leftDie tag t = true)
    (hp : t.place = .home key) (hb : s.heldBack tag t.origin.die (homeDie key) t.origin = false) (hv : s.veBehind tag t = false)
    (hg : s.granuleWaits t = false) :
    exec (.homeWriteApply tag) s = .next ((s.beforeHome tag t key).homeWrite t.origin tag key t.bytes) := by
  show execHomeWriteApply tag s = _
  unfold execHomeWriteApply
  rw [hf]
  dsimp only
  rw [hl, if_neg (by decide), hp]
  dsimp only
  rw [hb, hv, hg, if_neg (by decide)]
  rfl

/-! ### A write leaves for another package (R406) -/

section Remote

variable {s : State} {tag pkg pa : Nat} {t : StoreF} {fw : Bool} (hp : t.place = .remote pkg pa) (hg : t.agent = .scalar fw)

include hp hg

theorem exec_homeWriteApply_remote (hf : s.flight tag = some (.store t)) (hl : s.leftDie tag t = true) (hw : s.writtenThere tag t = false) :
    exec (.homeWriteApply tag) s = .next (s.sendWrite tag t) := by
  obtain ⟨hve, hgran⟩ := s.scalar_goes tag hg
  show execHomeWriteApply tag s = _
  unfold execHomeWriteApply
  rw [hf]
  dsimp only
  rw [hl, if_neg (by decide), hp, hg]
  dsimp only
  rw [hve, hgran, hw, s.anyFlight_none fun u f => by cases f <;> simp]
  exact if_neg (by simp)

/-- The write of a scalar store to another package: its packet, and what waits for its answer. -/
theorem State.sendWrite_scalar (hr : s.hops pkg ≠ 3) :
    let u := s.sendWrite tag t
    u.flight tag = some (.remoteWrite { core := t.core, agent := t.agent, win := t.win, eng := none, place := t.place, va := t.va, asn := t.asn })
      ∧ u.mem = s.mem
      ∧ s.Sent u fun q => q.opc = 1 ∧ q.ackreq = true ∧ q.dpkg = pkg ∧ q.spkg = s.pkg ∧ q.data = t.bytes := by
  have hl : s.packetWith tag t = [(tag, t)] := by
    unfold State.packetWith
    rw [hg]
  have hf : remoteFields t.asn t.place = some (pkg, pa, 0) := by
    rw [hp]
    rfl
  obtain ⟨c, p, hu, hfields⟩ : ∃ c p, s.sendWrite tag t = ((s.setCore t.core c).setFlight tag (.remoteWrite
      { core := t.core, agent := t.agent, win := t.win, eng := none, place := t.place, va := t.va, asn := t.asn })).send p
      ∧ p.opc = 1 ∧ p.ackreq = true ∧ p.dpkg = pkg ∧ p.spkg = s.pkg ∧ p.data = t.bytes := by
    unfold State.sendWrite
    rw [hl]
    simp only [List.length_singleton, Nat.le_refl, decide_true, if_true, hf, hg, List.foldl_cons, List.foldl_nil]
    exact ⟨_, _, rfl, rfl, rfl, rfl, rfl, rfl⟩
  rw [hu]
  refine ⟨?_, State.send_mem .., p, ?_, hfields⟩
  · unfold State.flight
    rw [State.send_flights]
    exact State.flight_setFlight_self ..
  · refine (State.send_reachable _ _ ?_).trans rfl
    rw [hfields.2.2.1]
    exact hr

end Remote

/-! ### Line copies (R361) -/

theorem FMap.find_erase {α : Type} (m : FMap α) (k j : Nat) : (m.erase k).find j = if j = k then none else m.find j := by
  induction m with
  | nil => exact (ite_self _).symm
  | cons p m ih =>
    obtain ⟨i, v⟩ := p
    rw [FMap.erase]
    by_cases hi : i = k
    · rw [if_pos hi, ih]
      by_cases hj : j = k
      · rw [if_pos hj, if_pos hj]
      · rw [if_neg hj, if_neg hj, FMap.find, if_neg (by omega)]
    · rw [if_neg hi, FMap.find, FMap.find, ih]
      by_cases hj : j = k
      · rw [if_pos hj, if_neg (by omega), if_pos hj]
      · rw [if_neg hj, if_neg hj]

/-- A die has dropped its copy of a line. -/
def State.Drops (s : State) (die line : Nat) (u : State) : Prop :=
  u.hasCopy die line = false ∧ (∀ l, l ≠ line → u.hasCopy die l = s.hasCopy die l) ∧ (∀ d, d ≠ die → u.die d = s.die d) ∧ u.mem = s.mem

/-- A die whose copies lose a line drops it, whatever becomes of its TLB. -/
theorem State.drops_of {s u : State} {die line : Nat} (hd : (u.die die).copies = (s.die die).copies.erase line)
    (ho : ∀ d, d ≠ die → u.die d = s.die d) (hm : u.mem = s.mem) : s.Drops die line u := by
  have hcopy (l : Nat) : u.hasCopy die l = if l = line then false else s.hasCopy die l := by
    unfold State.hasCopy
    rw [hd, FMap.find_erase]
    split <;> rfl
  exact ⟨(hcopy line).trans (if_pos rfl), fun l hl => (hcopy l).trans (if_neg hl), ho, hm⟩

theorem State.Drops.of_dies {s u v : State} {die line : Nat} (h : s.Drops die line u) (hd : v.dies = u.dies) (hm : v.mem = u.mem) :
    s.Drops die line v := by
  have hdie (j : Nat) : v.die j = u.die j := congrArg (FMap.get Die.reset · j) hd
  have hcopy (l : Nat) : v.hasCopy die l = u.hasCopy die l := congrArg (fun x : Die => (x.copies.find l).isSome) (hdie die)
  obtain ⟨hgone, hkept, hother, hmem⟩ := h
  exact ⟨(hcopy line).trans hgone, fun l hl => (hcopy l).trans (hkept l hl), fun d hj => (hdie d).trans (hother d hj), hm.trans hmem⟩

/-- What steps with things in flight alone keep: the dies, memory, and a tag that nothing has. -/
def State.KeepsDies (s u : State) : Prop := u.dies = s.dies ∧ u.mem = s.mem ∧ ∀ tag, s.flight tag = none → u.flight tag = none

theorem State.KeepsDies.refl (s : State) : s.KeepsDies s := ⟨rfl, rfl, fun _ h => h⟩

theorem State.KeepsDies.trans {s t u : State} (h : s.KeepsDies t) (g : t.KeepsDies u) : s.KeepsDies u :=
  ⟨g.1.trans h.1, g.2.1.trans h.2.1, fun tag hn => g.2.2 tag (h.2.2 tag hn)⟩

theorem State.KeepsDies.foldl {α : Type} {f : State → α → State} (h : ∀ (s : State) a, s.KeepsDies (f s a)) (l : List α) (s : State) :
    s.KeepsDies (l.foldl f s) :=
  List.foldlRecOn (motive := s.KeepsDies) l f (.refl s) fun t ht a _ => ht.trans (h t a)

theorem State.settleAcks_keepsDies (s : State) (of : Nat) : s.KeepsDies (s.settleAcks of) := by
  unfold State.settleAcks
  split
  · exact .refl s
  · refine State.KeepsDies.foldl (fun t i => ?_) _ s
    split
    · refine ⟨State.send_dies .., State.send_mem .., fun tag h => ?_⟩
      unfold State.flight
      rw [State.send_flights]
      refine (State.flight_endFlight t i tag).trans ?_
      rw [h, ite_self]
    · exact .refl t

theorem State.reaim_keepsDies (s : State) (p : Nat → Bool) (base : Nat) (ph : Bool) : s.KeepsDies (s.reaim p base ph) := by
  refine ⟨rfl, rfl, fun tag h => ?_⟩
  unfold State.reaim
  refine (FMap.get_map_value (d := (none : Option Flight)) _ rfl s.flights tag).trans ?_
  rw [show FMap.get none s.flights tag = none from h]
  rfl

/-- An invalidation: accesses follow the swaps it brings, the copy of the line goes, and TLBs and data caches change. -/
theorem State.invalidate_only (s : State) (line d : Nat) (o : Origin) :
    ∃ t cs tl, s.KeepsDies t ∧ s.invalidate line d o
      = { t.setDie d { t.die d with copies := (t.die d).copies.erase line, tlb := tl } with cores := cs } := by
  have ht : s.KeepsDies ((s.swapsOf line d).foldl (fun s p => s.reaim (fun k => dieOf k = d) p.1 p.2) s) :=
    .foldl (fun t (p : Nat × Bool) => t.reaim_keepsDies _ p.1 p.2) _ s
  unfold State.invalidate
  dsimp only
  generalize (s.swapsOf line d).foldl (fun s p => s.reaim (fun k => dieOf k = d) p.1 p.2) s = t at ht
  generalize s.fixTlb line = fix
  refine ⟨t, ?_⟩
  split
  · split
    · exact ⟨_, _, ht, State.mapCores_only ..⟩
    · exact ⟨_, _, ht, rfl⟩
  · exact ⟨_, _, ht, rfl⟩

theorem State.invalidate_drops (s : State) (line d : Nat) (o : Origin) :
    s.Drops d line (s.invalidate line d o) ∧ ∀ tag, s.flight tag = none → (s.invalidate line d o).flight tag = none := by
  obtain ⟨t, cs, tl, ⟨hdies, hmem, hfly⟩, hu⟩ := s.invalidate_only line d o
  have hdie (j : Nat) : t.die j = s.die j := congrArg (FMap.get Die.reset · j) hdies
  rw [hu]
  refine ⟨State.drops_of ?_ (fun j hj => ?_) hmem, hfly⟩
  · rw [← hdie d]
    exact congrArg Die.copies (State.die_setDie_self ..)
  · exact (State.die_setDie t d j _).trans ((if_neg (Ne.symm hj)).trans (hdie j))

theorem exec_dieCopyInvalidation {s : State} {tag die line of : Nat} {o : Origin} (h : s.flight tag = some (.inval line die of o))
    (hb : s.heldBack tag (homeDie (line * 64)) die o = false) :
    exec (.dieCopyInvalidation tag die) s = .next (((s.endFlight tag).invalidate line die o).settleAcks of) := by
  show execDieCopyInvalidation tag die s = _
  unfold execDieCopyInvalidation
  rw [h]
  dsimp only
  rw [hb]
  exact if_neg (by simp)

end Sys2Proof.Machine
end

section
/-!
Settling the obligation on memory steps.
-/

namespace Sys2Proof.Machine

/-- Settles O33: a load's delivery by its result, a window access and its acknowledgement by their equations, a write by what its home sends, and
a line copy by what goes with it. -/
theorem memoryStepsHappen : Obligations.MemoryStepsHappen := by
  refine ⟨fun s tag l hf hdue ho ha => ?loads, fun s tag c o => ⟨fun l hf hp hd hr ho ha => ?windowLoad, fun t fw hf hp hg hold ha hc => ?windowStore⟩,
    fun s tag k fw no w hf => ?ack, fun s tag t hf htag ho ha => ⟨fun key hp hb hv hg => ?home, fun pkg pa fw hp hg hw hr => ?remote⟩,
    fun s die line => ⟨?evict, fun tag of o hf hb => ?invalidation⟩⟩
  case loads =>
    intro y c regs delivers zero
    have hdel {bs : List Byte} {mark : Option (Cause × W64 × W64)} {u : State} (h : s.Delivers tag l bs (markOf mark) u) : delivers bs mark u := by
      obtain ⟨hgone, hmem, hother, hd⟩ := h
      obtain ⟨hS, hA, hP, hpc, htwo, hone, hval, hfe⟩ := c.deliverAll_spec (markOf mark) l.d l.size l.sext bs
      rw [← hd] at hS hA hP hpc htwo hone hval hfe
      exact ⟨hgone, hmem, hother, hS, hA, hP, hpc, htwo, hone, hval, hfe⟩
    have hends {bad : Bool} {bs : List Byte} {mark : Option (Cause × W64 × W64)}
        (h : s.Ends (.loadDelivery tag bad) (s.Delivers tag l bs (markOf mark))) : s.Ends (.loadDelivery tag bad) (delivers bs mark) := by
      obtain ⟨u, hu, h⟩ := h
      exact ⟨u, hu, hdel h⟩
    refine ⟨fun n hn => hends (loadDelivery_nak hf hdue ho ha hn), fun hn hr => hends (loadDelivery_refused hf hdue ho ha hn hr),
      fun hn hr => ?_⟩
    intro lost
    have hlost {bad : Bool} (hp : (∃ key, l.place = .home key) ∨ l.data.isSome = true) (hb : s.loadBad l bad = true) : lost bad := by
      obtain ⟨bs, h⟩ := loadDelivery_lost hf hdue ho ha hn hr hp hb
      exact ⟨bs, hends h⟩
    refine ⟨fun key hp => ⟨fun hb hh => ?_, ?_, fun hh => ?_, fun hd hk hz hc => ?_⟩, fun bs hd hp => ⟨fun hb => ?_, fun hb => ?_⟩⟩
    · exact hends (loadDelivery_home hf hdue ho ha hn hr hp (by rw [s.loadBad_home hp, hb, hh]; rfl))
    · exact hlost (.inl ⟨key, hp⟩) (by rw [s.loadBad_home hp]; rfl)
    · exact hlost (.inl ⟨key, hp⟩) (by rw [s.loadBad_home hp, hh, Bool.or_true])
    · have hy : y = { s with dies := y.dies } := s.joinRead_only l
      rw [hy]
      exact State.bindLoad_home hd hk hz hc
    · exact hends (loadDelivery_data hf hdue ho ha hn hr hp hd (by rw [s.loadBad_away hp, hb]; rfl))
    · exact hlost (.inr (by rw [hd]; rfl)) (by rw [s.loadBad_away hp, hb]; rfl)
  case windowLoad =>
    exact ⟨_, exec_windowAccess_load hf hp hd hr ho ha, State.flight_setFlight_self .., rfl, rfl⟩
  case windowStore =>
    intro no
    refine ⟨_, exec_windowAccess_store hf hp hg hold ha hc, ?_⟩
    by_cases hno : no = true
    · rw [if_pos hno, hno]
      exact ⟨State.flight_setFlight_self .., rfl, fun _ _ => rfl, fun _ => rfl, fun h => absurd h nofun⟩
    · rw [if_neg hno, Bool.eq_false_iff.2 hno]
      refine ⟨State.flight_setFlight_self .., rfl, fun j hj => State.core_setCore_of_ne _ _ (Ne.symm hj), fun h => absurd h nofun, fun _ => ?_⟩
      refine Eq.subst (motive := fun d => (s.core c).PoolTook d _ _) (State.core_setCore_self s c ((s.core c).spadWrite o t.bytes)).symm ?_
      exact (s.core c).poolTook_spadWrite o t.bytes
  case ack =>
    refine ⟨_, exec_windowStoreAck hf, State.flight_endFlight_self .., ?_, ?_, rfl⟩
    · rw [State.ctx_setCtx_self]
      refine (Ctx.wallow_setWallow ..).trans ?_
      rw [satInc_eq_min]
    · rw [State.ctx_setCtx_self]
      exact Ctx.setWallow_keepsS _ _ _
  case home =>
    obtain ⟨hgone, hnext, hmem, hcopy⟩ := s.beforeHome_keeps tag t key
    obtain ⟨hkept, hsent⟩ := (s.beforeHome tag t key).homeWrite_leaves t.origin tag key t.bytes
    refine ⟨_, exec_homeWriteApply hf (State.leftDie_of ho ha) hp hb hv hg, ?_, fun j => ?_, fun d line hd hline hc => ?_⟩
    · exact (hkept tag (by rw [hnext]; exact htag)).trans hgone
    · rw [State.homeWrite_byteAt]
      unfold State.byteAt
      rw [hmem]
    · exact hsent d line hd hline ((hcopy d line).trans hc)
  case remote =>
    exact ⟨_, exec_homeWriteApply_remote hp hg hf (State.leftDie_of ho ha) hw, State.sendWrite_scalar hp hg hr⟩
  case evict =>
    refine ⟨_, rfl, State.drops_of ?_ (fun d hd => ?_) rfl⟩
    · exact congrArg Die.copies (State.die_setDie_self ..)
    · exact (State.die_setDie ..).trans (if_neg (Ne.symm hd))
  case invalidation =>
    obtain ⟨hdrops, hgone⟩ := (s.endFlight tag).invalidate_drops line die o
    obtain ⟨hdies, hmem, hfly⟩ := ((s.endFlight tag).invalidate line die o).settleAcks_keepsDies of
    exact ⟨_, exec_dieCopyInvalidation hf hb, hdrops.of_dies hdies hmem, hfly tag (hgone tag (s.flight_endFlight_self tag))⟩

end Sys2Proof.Machine
end

section
/-!
Notices, buckets and the ramp of the matrix engine (R142, R330, R389 to R391, R446, R458).
-/

namespace Sys2Proof.Machine

/-! ### Notices (R446) -/

/-- The notice that a context gets, merged with the one that it holds. -/
def Core.noticed (c : Core) (kind : BitVec 8) (now : Nat) : Notice where
  kind := kind
  merged := match c.user.notice with | some m => min 255 (m.merged + 1) | none => 1
  cadence := c.cadence
  mhz := match c.clockStep.toNat with | 0 => 2100 | 1 => 1600 | 2 => 1050 | _ => 0
  at_ := now

section Notice

variable {s : State} {k : Nat} {r : Run} (h : (s.core k).task = some r) (kind : BitVec 8)

include h

theorem State.postNotice_exited (he : r.exited = true) : s.postNotice k kind = s := by
  unfold State.postNotice
  dsimp only
  rw [h]
  exact if_pos he

theorem State.postNotice_posts (he : r.exited = false) :
    s.postNotice k kind = s.setCtx k false { (s.core k).user with notice := some ((s.core k).noticed kind s.tb) } := by
  unfold State.postNotice
  dsimp only
  rw [h]
  dsimp only
  rw [he, if_neg Bool.false_ne_true, ← h]
  unfold Core.noticed
  cases (s.core k).user.notice with
  | none => rfl
  | some m =>
    simp only [satInc_eq_min]
    rfl

end Notice

theorem State.takesNotice_spec {s : State} {k : Nat} (h : s.takesNotice k = true) : (s.core k).user.ih = false := by
  unfold State.takesNotice at h
  simp only [Bool.and_eq_true, Bool.not_eq_true'] at h
  exact h.1.1.2

/-- What the trap of a notice leaves of a context that held it. -/
theorem State.takeNotice_takes {s : State} {k : Nat} {c : Ctx} {n : Notice} (hc : s.ctx k false = { c with notice := some n }) (hi : c.ih = false)
    (hv : c.tvec ≠ 0) :
    let u := s.takeNotice k
    let d := u.ctx k false
    d.ecause = BitVec.ofNat 64 (2 ^ 63 + 0x11) ∧ d.einfo0 = BitVec.ofNat 64 (n.kind.toNat + n.merged * 256)
      ∧ d.einfo1 = BitVec.ofNat 64 n.cadence ∧ d.einfo2 = BitVec.ofNat 64 n.mhz ∧ d.einfo3 = BitVec.ofNat 64 n.at_
      ∧ d.notice = none ∧ d.ih = true ∧ d.epc = c.pc.extractLsb' 0 64 ∧ d.ds = c.slot.isSome ∧ c.KeepsS d [] ∧ u.mem = s.mem := by
  let t := s.setCtx k false { c with notice := none }
  have ht : t.ctx k false = { c with notice := none } := State.ctx_setCtx_self ..
  have hcan : (t.ctx k false).CanTrap false := by
    rw [ht]
    exact ⟨hi, .inr hv⟩
  have hu : s.takeNotice k = t.takeTrapAt k false (noticeTrap n) true c.pc c.slot := by
    unfold State.takeNotice
    rw [hc]
  intro u d
  have hd : d = (({ c with notice := none } : Ctx).countStall t.tb).enter false (noticeTrap n) true c.pc c.slot := by
    show (s.takeNotice k).ctx k false = _
    rw [hu, State.takeTrapAt_ctx _ _ _ _ hcan, ht]
  obtain ⟨-, hepc, -, hcause, h0, h1, h2, h3, hih, hds, -, -, hS, -⟩ :=
    Ctx.enter_saves (c := { c with notice := none }) hi t.tb false (noticeTrap n) true c.pc c.slot
  have hnotice : d.notice = none := by
    obtain ⟨m, hm⟩ := ({ c with notice := none } : Ctx).countStall_eq t.tb
    rw [hd, hm]
    rfl
  have hmem : u.mem = s.mem := by
    show (s.takeNotice k).mem = _
    rw [hu, State.takeTrapAt_only _ _ _ _ hcan]
    rfl
  rw [← hd] at hepc hcause h0 h1 h2 h3 hih hds hS
  exact ⟨hcause.trans (show BitVec.ofBool true ++ (0 : BitVec 55) ++ BitVec.ofNat 8 0x11 = _ by decide), h0, h1, h2, h3, hnotice, hih, hepc, hds, hS, hmem⟩

/-! ### Buckets (R142) -/

theorem Bucket.refill_eq (b : Bucket) :
    b.refill = { b with debt := b.debt - b.rate, bal := min b.cap (b.bal + (b.rate - b.debt)), last := b.last + b.per + 1 } := by
  have hdebt : b.debt - min b.debt (1 * b.rate) = b.debt - b.rate := by omega
  have hpaid : 1 * b.rate - min b.debt (1 * b.rate) = b.rate - b.debt := by omega
  unfold Bucket.refill Bucket.refills
  dsimp only
  rw [hdebt, hpaid, Nat.one_mul, ← Nat.add_assoc]

/-! ### The ramp (R389 to R391) -/

/-- A row lane that rows are entering, or one that is waiting for its first. -/
theorem Core.injects_one {c : Core} {r : Rows} (h : c.rows = some r) (hf : c.frows = none) (now : Nat) : c.injects now = (r.on && r.busy now) := by
  unfold Core.injects
  rw [h, hf]
  exact Bool.or_false _

theorem Core.injects_empty {c : Core} (h : c.rows = none) (hf : c.frows = none) (now : Nat) : c.injects now = false := by
  unfold Core.injects
  rw [h, hf]
  rfl

theorem Core.enterRows_empty {c : Core} (h : c.rows = none) (hf : c.frows = none) (now : Nat) : c.enterRows now = c := by
  unfold Core.enterRows
  rw [h]
  dsimp only
  rw [hf]

theorem Core.enterRows_one {c : Core} {r : Rows} (h : c.rows = some r) (hf : c.frows = none) (now : Nat) :
    c.enterRows now = { (c.enter now r).1 with rows := some (c.enter now r).2 } := by
  have hkeep : (c.enter now r).1.frows = none := by
    unfold Core.enter
    split
    · exact hf
    · dsimp only
      split <;> exact hf
  unfold Core.enterRows
  rw [h]
  dsimp only
  rw [hkeep]

/-- The ramp of an engine at rest takes the table. -/
theorem Core.rampEdge_rest {c : Core} {now : Nat} (h0 : c.ramp = 0) (hr : c.rampRows = false) (hi : ∀ t, c.injects t = false) (csl : W32) :
    c.rampEdge csl now = { c with rampTbl := csl, rampDown := false } := by
  have hc : { c with rampRows := c.rampRows || c.injects (now - 1) } = c := by rw [hi, Bool.or_false]
  unfold Core.rampEdge
  rw [hc]
  refine if_pos ?_
  unfold Core.atRest
  rw [hr, hi]
  simp [h0]

section Edge

variable {c : Core} {now : Nat} (h : c.ramp ≠ 0 ∨ c.injects now = true)

include h

theorem Core.notAtRest (b : Bool) : ¬ ({ c with rampRows := b } : Core).atRest now = true := by
  have hi : ({ c with rampRows := b } : Core).injects now = c.injects now := rfl
  unfold Core.atRest
  rw [hi]
  rcases h with h | h <;> simp [h]

/-- Within a step the ramp notes that rows have entered. -/
theorem Core.rampEdge_within (ha : now < c.rampAt + 4) (csl : W32) :
    c.rampEdge csl now = { c with rampRows := c.rampRows || c.injects (now - 1) } :=
  (if_neg (Core.notAtRest h _)).trans (if_pos ha)

/-- A step ends. -/
theorem Core.rampEdge_ends (ha : c.rampAt + 4 ≤ now) (csl : W32) :
    let x := { c with rampAt := c.rampAt + 4, rampTbl := csl, rampRows := false }
    c.rampEdge csl now = if c.rampDown then { x with ramp := c.ramp - 1, rampDown := decide (1 < c.ramp) }
      else if c.rampRows || c.injects (now - 1) then { x with ramp := min (c.ramp + 1) 8 } else x :=
  (if_neg (Core.notAtRest h _)).trans (if_neg (Nat.not_lt.2 ha))

end Edge

/-- No fall begins while one goes on, while rows enter, or while another matrix command runs. -/
theorem Core.beginFall_same {c : Core} {now : Nat} (h : c.rampDown = true ∨ c.injects now = true ∨ c.otherMatrix = true) : c.beginFall now = c := by
  refine if_pos ?_
  rcases h with h | h | h <;> simp [h]

/-- At position 0 no fall begins. -/
theorem Core.beginFall_zero {c : Core} (h0 : c.ramp = 0) (hr : c.rampRows = false) (now : Nat) : c.beginFall now = c := by
  unfold Core.beginFall
  split
  · rfl
  · rw [← hr]

theorem Core.enter_skips (c : Core) {r : Rows} {now : Nat} (h : now < r.next) : c.enter now r = (c, r) := if_pos (by simp [h])

/-- A row enters, and begins a rise from rest or in a fall. -/
theorem Core.enter_enters (c : Core) {r : Rows} {now : Nat} (hl : r.left ≠ 0) (hn : r.next ≤ now) :
    c.enter now r = (if c.atRest now || c.rampDown then { c with rampDown := false, rampAt := now, rampRows := true } else c,
      { r with
        left := r.left - 1
        next := now + r.q * max c.cadence (rampGrant c.rampTbl c.ramp)
        on := true }) := by
  unfold Core.enter
  rw [if_neg (by simp [hl, hn])]
  dsimp only
  split <;> rfl

/-- A row that has entered occupies its slot beyond its cycle. -/
theorem Rows.busy_entered {r : Rows} {now m : Nat} (hq : 0 < r.q) (hm : 0 < m) (left : Nat) (on : Bool) :
    ({ r with left := left, next := now + r.q * m, on := on } : Rows).busy now = true := by
  have h := Nat.mul_pos hq hm
  unfold Rows.busy
  simp [h]

theorem Rows.busy_of_left {r : Rows} (h : r.left ≠ 0) (now : Nat) : r.busy now = true := by
  unfold Rows.busy
  simp [h]

/-- A cycle of the row injection of a core. -/
def Core.rampCycle (c : Core) (csl : W32) (now : Nat) : Core := ((c.rampEdge csl now).enterRows now).beginFall now

section Empty

variable {c : Core} {csl : W32} {now : Nat} (h : c.rows = none) (hf : c.frows = none)

include h hf

/-- At rest the table is taken in every cycle. -/
theorem Core.rampCycle_rest (h0 : c.ramp = 0) (hr : c.rampRows = false) : c.rampCycle csl now = { c with rampTbl := csl, rampDown := false } := by
  have hcsl : c.rampEdge csl now = _ := Core.rampEdge_rest h0 hr (Core.injects_empty h hf) csl
  unfold Core.rampCycle
  rw [hcsl, Core.enterRows_empty (by exact h) (by exact hf)]
  exact Core.beginFall_zero (by exact h0) (by exact hr) now

/-- A fall goes on at the end of a step. -/
theorem Core.rampCycle_falls (h0 : c.ramp ≠ 0) (hd : c.rampDown = true) (ha : c.rampAt + 4 ≤ now) :
    c.rampCycle csl now
      = { c with ramp := c.ramp - 1, rampDown := decide (1 < c.ramp), rampAt := c.rampAt + 4, rampTbl := csl, rampRows := false } := by
  have hedge : c.rampEdge csl now = _ := (Core.rampEdge_ends (.inl h0) ha csl).trans (if_pos hd)
  unfold Core.rampCycle
  rw [hedge, Core.enterRows_empty (by exact h) (by exact hf)]
  by_cases h1 : 1 < c.ramp
  · exact Core.beginFall_same (.inl (decide_eq_true h1))
  · exact Core.beginFall_zero (Nat.sub_eq_zero_of_le (Nat.le_of_not_lt h1)) rfl now

/-- The engine begins to fall when no row is there. -/
theorem Core.rampCycle_beginsFall (h0 : c.ramp ≠ 0) (hd : c.rampDown = false) (ha : now < c.rampAt + 4) (ho : c.otherMatrix = false) :
    c.rampCycle csl now = { c with rampDown := true, rampAt := now, rampRows := false } := by
  have hedge : c.rampEdge csl now = _ := Core.rampEdge_within (.inl h0) ha csl
  unfold Core.rampCycle
  rw [hedge, Core.enterRows_empty (by exact h) (by exact hf)]
  refine (if_neg ?_).trans (if_neg h0)
  have hi : ∀ b, ({ c with rampRows := b } : Core).injects now = false := fun b => Core.injects_empty h hf now
  have ho' : ∀ b, ({ c with rampRows := b } : Core).otherMatrix = false := fun b => ho
  rw [hi, ho']
  simp [hd]

end Empty

section Entering

variable {c : Core} {csl : W32} {now : Nat} {r : Rows} (h : c.rows = some r) (hf : c.frows = none) (hl : r.left ≠ 0)

include h hf hl

/-- The position rises at the end of a step in which rows entered. -/
theorem Core.rampCycle_rises (hon : r.on = true) (hd : c.rampDown = false) (hn : now < r.next) (ha : c.rampAt + 4 ≤ now) :
    c.rampCycle csl now = { c with ramp := min (c.ramp + 1) 8, rampAt := c.rampAt + 4, rampTbl := csl, rampRows := false } := by
  have hi (t : Nat) : c.injects t = true := by rw [Core.injects_one h hf, hon, Rows.busy_of_left hl]; rfl
  have hedge : c.rampEdge csl now = _ := (Core.rampEdge_ends (.inr (hi now)) ha csl).trans ((if_neg (by simp [hd])).trans (if_pos (by simp [hi])))
  unfold Core.rampCycle
  rw [hedge, Core.enterRows_one (r := r) (by exact h) (by exact hf), Core.enter_skips _ hn]
  refine (Core.beginFall_same (.inr (.inl ?_))).trans ?_
  · exact (Core.injects_one (r := r) (by rfl) (by exact hf) now).trans (by rw [hon, Rows.busy_of_left hl]; rfl)
  · rw [← h]

/-- A row enters within a step. -/
theorem Core.rampCycle_enters (hon : r.on = true) (hd : c.rampDown = false) (hn : r.next ≤ now) (ha : now < c.rampAt + 4) (hq : 0 < r.q)
    (hc : 0 < c.cadence) :
    c.rampCycle csl now = { c with
      rampRows := true
      rows := some { r with left := r.left - 1, next := now + r.q * max c.cadence (rampGrant c.rampTbl c.ramp) } } := by
  have hi (t : Nat) : c.injects t = true := by rw [Core.injects_one h hf, hon, Rows.busy_of_left hl]; rfl
  have hedge : c.rampEdge csl now = { c with rampRows := true } :=
    (Core.rampEdge_within (.inr (hi now)) ha csl).trans (by rw [hi, Bool.or_true])
  have hrest : ¬ (({ c with rampRows := true } : Core).atRest now || c.rampDown) = true := by
    rw [hd, Bool.or_false]
    exact Core.notAtRest (.inr (hi now)) true
  unfold Core.rampCycle
  rw [hedge, Core.enterRows_one (r := r) (by exact h) (by exact hf), Core.enter_enters _ hl hn, if_neg hrest, ← hon]
  refine Core.beginFall_same (.inr (.inl ?_))
  refine (Core.injects_one (by rfl) (by exact hf) now).trans ?_
  rw [Rows.busy_entered hq (Nat.lt_of_lt_of_le hc (Nat.le_max_left ..)), hon]
  rfl

/-- The first row begins a rise. -/
theorem Core.rampCycle_begins (hon : r.on = false) (hn : r.next ≤ now) (h0 : c.ramp = 0) (hr : c.rampRows = false) (hq : 0 < r.q)
    (hc : 0 < c.cadence) :
    c.rampCycle csl now = { c with
      rampTbl := csl, rampDown := false, rampAt := now, rampRows := true
      rows := some { r with left := r.left - 1, next := now + r.q * max c.cadence (rampGrant csl 0), on := true } } := by
  have hi (t : Nat) : c.injects t = false := by rw [Core.injects_one h hf, hon]; rfl
  have hedge : c.rampEdge csl now = { c with rampTbl := csl, rampDown := false } := Core.rampEdge_rest h0 hr hi csl
  have hrest : ({ c with rampTbl := csl, rampDown := false } : Core).atRest now = true := by
    have hi' : ({ c with rampTbl := csl, rampDown := false } : Core).injects now = false := hi now
    unfold Core.atRest
    rw [hi']
    simp [h0, hr]
  unfold Core.rampCycle
  rw [hedge, Core.enterRows_one (r := r) (by exact h) (by exact hf), Core.enter_enters _ hl hn, hrest]
  dsimp only
  rw [Bool.true_or, if_pos rfl, h0]
  refine Core.beginFall_same (.inr (.inl ?_))
  refine (Core.injects_one (by rfl) (by exact hf) now).trans ?_
  rw [Rows.busy_entered hq (Nat.lt_of_lt_of_le hc (Nat.le_max_left ..))]
  rfl

end Entering

end Sys2Proof.Machine
end

section
/-!
Waves, sluices and pod episodes (R383, R385, R386, R388), and settling the obligation on notices, buckets and barrier waves.
-/

namespace Sys2Proof.Machine

/-! ### Releases of groups (R385, R386) -/

theorem State.mem_sluiceCores {s : State} {x : Sluice} {g k : Nat} :
    k ∈ s.sluiceCores x g ↔ k ∈ s.barMembers x.gang (x.die * 64) 4 ∧ dieOf k = x.die ∧ sluiceGroup x.map x.groups k = g := by
  unfold State.sluiceCores
  rw [List.mem_filter]
  simp

/-- The sluice that a die's logic starts: its registers as they stand, and the groups that are left. -/
def Die.sluice (x : Die) (tag die gang sc n now : Nat) : Sluice where
  tag := tag
  die := die
  gang := gang
  scope := sc
  n := n
  t0 := now
  groups := x.slGroups
  gap := x.slGap
  map := x.slMap
  left := if x.slGap = 0 then [] else (List.range x.slGroups).drop 1
  last := now

/-- The groups that a sluice releases at once. -/
def Die.groupsNow (x : Die) : List Nat := if x.slGap = 0 then List.range x.slGroups else [0]

theorem Die.mem_groupsNow {x : Die} {g : Nat} : g ∈ x.groupsNow ↔ g = 0 ∧ x.slGap ≠ 0 ∨ g < x.slGroups ∧ x.slGap = 0 := by
  unfold Die.groupsNow
  split
  · next h => simp [h]
  · next h => simp [h]

/-- A release changes cores and save areas alone. -/
theorem State.barRelease_rest (s : State) (gang sc n : Nat) (ks : List Nat) :
    let u := s.barRelease gang sc n ks
    u.sluices = s.sluices ∧ u.waves = s.waves ∧ u.mem = s.mem := by
  intro u
  have hu : u = _ := s.barRelease_only gang sc n ks
  rw [hu]
  exact ⟨rfl, rfl, rfl⟩

/-! ### Waves (R383) -/

/-- A wave that has reached a die. -/
def State.reached (s : State) (w : BarWave) (tag die : Nat) : State :=
  let ds := w.dies.filter (· ≠ die)
  let rest := s.waves.filter (·.tag ≠ tag)
  { s with waves := if ds.isEmpty then rest else rest ++ [{ w with dies := ds }] }

theorem exec_barrierCompletionAtDie {s : State} {tag die : Nat} {w : BarWave}
    (h : s.waves.find? (fun w => w.tag = tag && w.dies.contains die && decide (w.due ≤ s.tb)) = some w) :
    exec (.barrierCompletionAtDie tag die) s = .next ((s.reached w tag die).startSluice die w.gang w.scope w.n) := by
  show execBarrierCompletionAtDie tag die s = _
  unfold execBarrierCompletionAtDie
  rw [h]
  rfl

/-- A wave that has reached a die does not reach it again. -/
theorem State.reached_once (s : State) (w : BarWave) (tag die : Nat) {v : BarWave} (hv : v ∈ (s.reached w tag die).waves) (ht : v.tag = tag) :
    die ∉ v.dies := by
  have hrest : v ∉ s.waves.filter (·.tag ≠ tag) := fun h => by simpa [ht] using (List.mem_filter.1 h).2
  unfold State.reached at hv
  dsimp only at hv
  split at hv
  · exact absurd hv hrest
  · rcases List.mem_append.1 hv with h | h
    · exact absurd h hrest
    · rw [List.mem_singleton.1 h]
      simp

theorem exec_sluiceGroupRelease {s : State} {tag g : Nat} {x : Sluice}
    (h : s.sluices.find? (fun x => x.tag = tag && x.left.head? = some g && decide (x.t0 + g * x.gap ≤ s.tb)
      && decide (x.last + x.gap ≤ s.tb)) = some x) :
    exec (.sluiceGroupRelease tag g) s = .next (({ s with
      sluices := if (x.left.drop 1).isEmpty then s.sluices.filter (·.tag ≠ tag)
        else s.sluices.filter (·.tag ≠ tag) ++ [{ x with left := x.left.drop 1, last := s.tb }] } : State).barRelease
      x.gang x.scope x.n (s.sluiceCores x g)) := by
  show execSluiceGroupRelease tag g s = _
  unfold execSluiceGroupRelease
  rw [h]

/-! ### Pod episodes (R383, R388) -/

theorem State.podCtr_is (s : State) (grp n : Nat) : (s.podCtr grp n).grp = grp ∧ (s.podCtr grp n).n = n := by
  unfold State.podCtr
  cases h : s.podCtrs.find? fun c => c.grp = grp && c.n = n with
  | none => exact ⟨rfl, rfl⟩
  | some c => simpa using List.find?_some (p := fun c : PodCtr => c.grp = grp && c.n = n) h

theorem PodCtr.with_own {c : PodCtr} {grp n : Nat} (hg : c.grp = grp) (hn : c.n = n) (l : List Nat) :
    ({ c with pkgs := l } : PodCtr) = { c with pkgs := l, grp := grp, n := n } := by
  subst hg hn
  rfl

/-- An episode at the root that no package has arrived in (R388). -/
theorem State.podCtr_new {s : State} {grp n : Nat} (h : (s.podCtrs.find? fun c => c.grp = grp && c.n = n) = none)
    (hb : ∀ b ∈ s.bars, b.scope = 5 → b.n = n → b.grp = grp → b.arr = 0) :
    (s.podCtr grp n).need = max 1 s.podN ∧ (s.podCtr grp n).pkgs = [] := by
  have hnone : (s.bars.find? fun b => b.scope = 5 && b.n = n && b.grp = grp && decide (b.arr ≠ 0)) = none :=
    List.find?_eq_none.2 fun b hm => by simpa using fun h1 h2 h3 => hb b hm h1 h2 h3
  unfold State.podCtr
  rw [h, hnone]
  exact ⟨rfl, rfl⟩

/-- An arrival at the root that is not the last. -/
theorem State.podArrive_early {s : State} {pkg grp n : Nat} (h : (insertNat pkg (s.podCtr grp n).pkgs).length < (s.podCtr grp n).need) :
    s.podArrive pkg grp n = { s with
      podCtrs := { s.podCtr grp n with pkgs := insertNat pkg (s.podCtr grp n).pkgs } :: s.podCtrs.filter fun c => !(c.grp = grp && c.n = n) } :=
  if_neg (Nat.not_le.2 h)

/-- The release that a root sends to a package. -/
def releasePacket (s : State) (grp n p : Nat) : Packet := ctrlPacket 0x17 s.pkg 0 p 0 (barArg grp n true) []

theorem State.sendReleases_away (grp n : Nat) {l : List Nat} (s : State) (h : s.pkg ∉ l) :
    (l.foldl (fun s p => if p = s.pkg then s.podRelease grp n else s.send (ctrlPacket 0x17 s.pkg 0 p 0 (barArg grp n true) [])) s)
      = l.foldl (fun s p => s.send (releasePacket s grp n p)) s := by
  induction l generalizing s with
  | nil => rfl
  | cons p l ih =>
    rw [List.mem_cons, not_or] at h
    obtain ⟨hp, hl⟩ := h
    rw [List.foldl_cons, List.foldl_cons, if_neg (Ne.symm hp)]
    exact ih _ (by rwa [State.send_pkg])

/-- The last arrival at the root, of packages other than the root: a release leaves for each. -/
theorem State.podArrive_last {s : State} {pkg grp n : Nat} (h : (s.podCtr grp n).need ≤ (insertNat pkg (s.podCtr grp n).pkgs).length)
    (hp : s.pkg ∉ insertNat pkg (s.podCtr grp n).pkgs) :
    let rest := s.podCtrs.filter fun c => !(c.grp = grp && c.n = n)
    s.podArrive pkg grp n
      = (insertNat pkg (s.podCtr grp n).pkgs).foldl (fun s p => s.send (releasePacket s grp n p)) { s with podCtrs := rest } :=
  (if_pos h).trans (State.sendReleases_away grp n _ hp)

theorem State.find_podCtrs_rest (s : State) (grp n : Nat) :
    ((s.podCtrs.filter fun c => !(c.grp = grp && c.n = n)).find? fun c => c.grp = grp && c.n = n) = none :=
  List.find?_eq_none.2 fun c hc => by simpa [imp_iff_not_or] using (List.mem_filter.1 hc).2

/-- Whether an arrival counter of this package waits for the release of a pod episode. -/
def State.podDue (x : State) (grp n : Nat) (b : BarCtr) : Bool :=
  b.scope = 5 && b.n = n && b.grp = grp && decide (b.arr ≠ 0) && decide ((x.barMembers b.gang 0 5).length ≤ b.arr)

theorem State.podRelease_eq (s : State) (grp n : Nat) :
    s.podRelease grp n = (s.bars.filter (s.podDue grp n)).foldl
      (fun s b => (s.setBar { b with arr := 0, ep := (b.ep + 1) % 65536 }).startWave b.gang 5 n) s := rfl

theorem exec_barMsg_arrival {s x : State} {p : Packet} (h : s.Got 0x17 p x) (hb : nbit p.arg.toNat 20 = false) :
    exec (.barMsg p) s = .next (x.podArrive p.spkg (p.arg.toNat % 4096) (nbits p.arg.toNat 19 16)) :=
  congrArg Host.Outcome.next ((State.receive_got h _).trans (if_neg (by simp [hb])))

theorem exec_barMsg_release {s x : State} {p : Packet} (h : s.Got 0x17 p x) (hb : nbit p.arg.toNat 20 = true) :
    exec (.barMsg p) s = .next (x.podRelease (p.arg.toNat % 4096) (nbits p.arg.toNat 19 16)) :=
  congrArg Host.Outcome.next ((State.receive_got h _).trans (if_pos hb))

theorem exec_notice (s : State) (k : Nat) (kind : BitVec 8) :
    exec (.notice k kind) s
      = .next (if (s.postNotice k kind).takesNotice k then (s.postNotice k kind).takeNotice k else s.postNotice k kind) := rfl

/-! ### The obligation -/

/-- The completion of a package or pod episode at a die (R383, R385): what its sluice logic releases at once, and what it keeps for later. -/
theorem barrierCompletion_spec {s : State} {tag die : Nat} {w : BarWave}
    (h : s.waves.find? (fun w => w.tag = tag && w.dies.contains die && decide (w.due ≤ s.tb)) = some w) :
    let x := s.die die
    let grp (k : Nat) : Nat := sluiceGroup x.slMap x.slGroups k
    s.Ends (.barrierCompletionAtDie tag die) fun u =>
      (∀ k ∈ s.barMembers w.gang (die * 64) 4, dieOf k = die → s.gangOf k = w.gang →
          (grp k = 0 ∧ x.slGap ≠ 0 ∨ grp k < x.slGroups ∧ x.slGap = 0) → (u.core k).barHeld w.scope w.n = false)
        ∧ (∀ k, (dieOf k ≠ die ∨ s.gangOf k ≠ w.gang ∨ (x.slGap ≠ 0 ∧ grp k ≠ 0)) → u.core k = s.core k)
        ∧ (x.slGap ≠ 0 → 1 < x.slGroups → u.sluices = s.sluices ++ [x.sluice s.nextTag die w.gang w.scope w.n s.tb])
        ∧ (x.slGap = 0 → u.sluices = s.sluices)
        ∧ (∀ v ∈ u.waves, v.tag = tag → die ∉ v.dies) ∧ u.mem = s.mem := by
  intro x grp
  let v := x.sluice s.nextTag die w.gang w.scope w.n s.tb
  let t : State := { s.reached w tag die with
    nextTag := s.nextTag + 1
    sluices := s.sluices ++ (if v.left.isEmpty then [] else [v]) }
  have hmem {k : Nat} : k ∈ x.groupsNow.flatMap ((s.reached w tag die).sluiceCores v)
      ↔ (grp k = 0 ∧ x.slGap ≠ 0 ∨ grp k < x.slGroups ∧ x.slGap = 0) ∧ k ∈ s.barMembers w.gang (die * 64) 4 ∧ dieOf k = die := by
    rw [List.mem_flatMap]
    simp only [Die.mem_groupsNow, State.mem_sluiceCores]
    constructor
    · rintro ⟨g, hg, hk, hd, rfl⟩
      exact ⟨hg, hk, hd⟩
    · rintro ⟨hg, hk, hd⟩
      exact ⟨grp k, hg, hk, hd, rfl⟩
  obtain ⟨hsl, hw, hm⟩ := t.barRelease_rest w.gang w.scope w.n (x.groupsNow.flatMap ((s.reached w tag die).sluiceCores v))
  refine ⟨t.barRelease w.gang w.scope w.n (x.groupsNow.flatMap ((s.reached w tag die).sluiceCores v)), exec_barrierCompletionAtDie h, ?_⟩
  refine ⟨fun k hk hd hg hgrp => ?_, fun k hk => ?_, fun hgap hgr => hsl.trans ?_, fun hgap => hsl.trans ?_, ?_, hm⟩
  · exact t.barRelease_frees w.scope w.n (hmem.2 ⟨hgrp, hk, hd⟩) hg
  · refine t.barRelease_leaves w.scope w.n ?_
    rw [hmem]
    rcases hk with hd | hg | ⟨hgap, hne⟩
    · exact .inl fun hin => hd hin.2.2
    · exact .inr hg
    · exact .inl fun hin => hin.1.elim (fun h0 => hne h0.1) fun h0 => hgap h0.2
  · have hleft : v.left = (List.range x.slGroups).drop 1 := if_neg hgap
    have hne : v.left.isEmpty = false := by
      rw [hleft, List.isEmpty_eq_false_iff, Ne, List.drop_eq_nil_iff, List.length_range]
      omega
    show s.sluices ++ (if v.left.isEmpty then [] else [v]) = _
    rw [hne]
    rfl
  · have hleft : v.left = [] := if_pos hgap
    show s.sluices ++ (if v.left.isEmpty then [] else [v]) = _
    rw [hleft]
    exact List.append_nil _
  · rw [hw]
    exact fun y hy ht => s.reached_once w tag die hy ht

/-- A later group of a sluice (R385, R386). -/
theorem sluiceGroupRelease_spec {s : State} {tag g : Nat} {x : Sluice}
    (h : s.sluices.find? (fun x => x.tag = tag && x.left.head? = some g && decide (x.t0 + g * x.gap ≤ s.tb)
      && decide (x.last + x.gap ≤ s.tb)) = some x) :
    s.Ends (.sluiceGroupRelease tag g) fun u =>
      (∀ k ∈ s.barMembers x.gang (x.die * 64) 4, dieOf k = x.die → s.gangOf k = x.gang → sluiceGroup x.map x.groups k = g →
          (u.core k).barHeld x.scope x.n = false)
        ∧ (∀ k, (dieOf k ≠ x.die ∨ s.gangOf k ≠ x.gang ∨ sluiceGroup x.map x.groups k ≠ g) → u.core k = s.core k)
        ∧ (∀ y ∈ u.sluices, y.tag = tag → y = { x with left := x.left.drop 1, last := s.tb }) ∧ u.mem = s.mem := by
  let t : State := { s with
    sluices := if (x.left.drop 1).isEmpty then s.sluices.filter (·.tag ≠ tag)
      else s.sluices.filter (·.tag ≠ tag) ++ [{ x with left := x.left.drop 1, last := s.tb }] }
  obtain ⟨hsl, -, hm⟩ := t.barRelease_rest x.gang x.scope x.n (s.sluiceCores x g)
  refine ⟨t.barRelease x.gang x.scope x.n (s.sluiceCores x g), exec_sluiceGroupRelease h, fun k hk hd hg hgrp => ?_, fun k hk => ?_, ?_, hm⟩
  · exact t.barRelease_frees x.scope x.n (State.mem_sluiceCores.2 ⟨hk, hd, hgrp⟩) hg
  · refine t.barRelease_leaves x.scope x.n ?_
    rw [State.mem_sluiceCores]
    rcases hk with hd | hg | hne
    · exact .inl fun hin => hd hin.2.1
    · exact .inr hg
    · exact .inl fun hin => hne hin.2.2
  · intro y hy ht
    rw [hsl] at hy
    have hrest : y ∉ s.sluices.filter (·.tag ≠ tag) := fun h => by simpa [ht] using (List.mem_filter.1 h).2
    change y ∈ (if _ then _ else _) at hy
    split at hy
    · exact absurd hy hrest
    · exact (List.mem_append.1 hy).elim (fun h => absurd h hrest) List.mem_singleton.1

/-- Settles O38: notices through the trap they take, waves and sluices through the cores of their groups, the ramp by its cycles, and pod
episodes by the counter of the root. -/
theorem noticesBucketsAndBarrierWaves : Obligations.NoticesBucketsAndBarrierWaves := by
  refine ⟨⟨fun s k kind r hr => ⟨fun he hn => ?exited, fun he => ?posted⟩, fun s k fw => ⟨fun h => ?refill, fun h => ?early⟩⟩,
    ⟨fun s tag die w hw _ => ?wave, fun s tag g x hx _ => sluiceGroupRelease_spec hx, fun s k => ?ramp⟩,
    fun s x p hp => ⟨fun hb => ?arrival, fun hb => ?release⟩⟩
  case exited =>
    refine ⟨_, rfl, ?_⟩
    rw [State.postNotice_exited hr kind he, hn]
    rfl
  case posted =>
    intro merged n
    have hpost : s.postNotice k kind = s.setCtx k false { (s.core k).user with notice := some n } := State.postNotice_posts hr kind he
    have hctx : (s.setCtx k false { (s.core k).user with notice := some n }).ctx k false = { (s.core k).user with notice := some n } :=
      State.ctx_setCtx_self ..
    refine ⟨fun hn => ⟨_, (exec_notice s k kind).trans (congrArg Host.Outcome.next (if_neg ?_)), ?_⟩,
      fun hn hv => ⟨_, (exec_notice s k kind).trans (congrArg Host.Outcome.next (if_pos ?_)), ?_⟩⟩
    · rw [hpost, hn]
      exact Bool.false_ne_true
    · rw [hpost]
      exact ⟨hctx, State.ctx_setCtx_not s k false _, rfl⟩
    · rw [hpost, hn]
    · rw [hpost]
      have hi : (s.core k).user.ih = false := congrArg Ctx.ih hctx ▸ State.takesNotice_spec hn
      exact State.takeNotice_takes hctx hi hv
  case refill =>
    refine ⟨_, if_pos h, ?_⟩
    rw [Bucket.refill_eq]
  case early => exact ⟨_, if_neg (Nat.not_le.2 h), rfl⟩
  case wave =>
    obtain ⟨u, hu, hfree, hkeep, hlater, hnow, hwaves, hmem⟩ := barrierCompletion_spec hw
    exact ⟨u, hu, hfree, hkeep, fun hgap hgr => ⟨_, hlater hgap hgr, rfl, rfl, rfl, rfl, rfl, rfl, rfl, rfl, rfl, if_neg hgap⟩, hnow, hwaves, hmem⟩
  case ramp =>
    intro c csl empty becomes
    refine ⟨fun hs => ⟨_, congrArg Host.Outcome.next (if_pos hs), rfl⟩, fun hs => ?_⟩
    have hcycle {d : Core} (h : c.rampCycle csl s.tb = d) : becomes d :=
      ⟨_, congrArg Host.Outcome.next (if_neg (by rw [hs]; exact Bool.false_ne_true)), congrArg (s.setCore k) h⟩
    exact ⟨fun he h0 hr => hcycle (Core.rampCycle_rest he.1 he.2 h0 hr), fun he h0 hd ha => hcycle (Core.rampCycle_falls he.1 he.2 h0 hd ha),
      fun he h0 hd ha ho => hcycle (Core.rampCycle_beginsFall he.1 he.2 h0 hd ha ho),
      fun r h hf hon hl hd => ⟨fun hn ha => hcycle (Core.rampCycle_rises h hf hl hon hd hn ha),
        fun hn ha hq hc => hcycle (Core.rampCycle_enters h hf hl hon hd hn ha hq hc)⟩,
      fun r h hf hon hl hn h0 hr hq hc => hcycle (Core.rampCycle_begins h hf hl hon hn h0 hr hq hc)⟩
  case arrival =>
    intro c pkgs
    refine ⟨State.podCtr_new, fun hlt => ⟨_, exec_barMsg_arrival hp hb, ?_⟩, fun hge hroot => ⟨_, exec_barMsg_arrival hp hb, ?_⟩⟩
    · obtain ⟨hg, hn⟩ := x.podCtr_is (p.arg.toNat % 4096) (nbits p.arg.toNat 19 16)
      rw [State.podArrive_early hlt]
      exact ⟨(List.find?_cons_of_pos (by simp [hg, hn])).trans (congrArg some (PodCtr.with_own hg hn _)), rfl, rfl⟩
    · rw [State.podArrive_last hge hroot]
      obtain ⟨⟨o, sd, hu⟩, -, hsent⟩ := State.sendAll_spec (fun s a => releasePacket s (p.arg.toNat % 4096) (nbits p.arg.toNat 19 16) a)
        (fun _ _ _ => rfl) pkgs { x with podCtrs := x.podCtrs.filter fun c => !(c.grp = p.arg.toNat % 4096 && c.n = nbits p.arg.toNat 19 16) }
      refine ⟨?_, ?_, fun k hk hr => ⟨_, hsent k hk hr, rfl, rfl, rfl⟩⟩
      · rw [hu]
        exact x.find_podCtrs_rest ..
      · rw [hu]
  case release =>
    intro due
    refine ⟨fun hnone => ⟨_, exec_barMsg_release hp hb, ?_⟩, fun b hone => ⟨_, exec_barMsg_release hp hb, ?_⟩⟩
    · rw [State.podRelease_eq, show x.bars.filter (x.podDue _ _) = [] from hnone]
      rfl
    · have hdue : due b = true := (List.mem_filter.1 (hone ▸ List.mem_singleton_self b)).2
      rw [State.podRelease_eq, show x.bars.filter (x.podDue _ _) = [b] from hone]
      refine ⟨?_, rfl, rfl, rfl⟩
      have hdue' : b.scope = 5 ∧ b.n = nbits p.arg.toNat 19 16 := by
        simp only [due, Bool.and_eq_true, decide_eq_true_eq] at hdue
        exact ⟨hdue.1.1.1.1, hdue.1.1.1.2⟩
      exact x.barCtr_setBar (b := { b with arr := 0, ep := (b.ep + 1) % 65536 }) ((BarCtr.is_iff ..).2 ⟨rfl, hdue'.1, rfl, hdue'.2⟩)

end Sys2Proof.Machine
end
